-- ==== Sys2Proof/Word.lean ====
section
/-! DEFINITION. The word types of the RY-L48 and the exact numbers its operations round.

Words, bytes, token data and descriptors are bit vectors (R4, R29, R83, R94). A `Num` is the exact value
an operation works on before its one rounding (R45, R46): a NaN, an infinity, or a signed ratio of
naturals. -/

namespace Sys2Proof

/-- A 64-bit general register or address (R94). -/
abbrev Word := BitVec 64
/-- A byte of memory. -/
abbrev Byte := BitVec 8
/-- An instruction word (R63) or a configuration word (R73). -/
abbrev Word32 := BitVec 32
/-- The data of a 64-byte block, of a token, or of an L1D line; byte 0 is bits [7:0] (R4, R27, R83). -/
abbrev Data := BitVec 512
/-- A block descriptor: SCALE in [15:8], FMT in [7:0] (R29). -/
abbrev Desc := BitVec 16
/-- A general register number, g0 to g31 (R94). -/
abbrev Reg := Fin 32

/-- An exact value (R45, R46). `fin neg n d` is (−1)^neg · n / d with `d` positive; a zero keeps its sign. -/
inductive Num where
  /-- A NaN; `sig` when it is signalling (R39). -/
  | nan (sig : Bool)
  /-- ±∞. -/
  | inf (neg : Bool)
  /-- A finite value. -/
  | fin (neg : Bool) (n d : Nat)
  deriving DecidableEq, Repr

/-- Exact +0. -/
def Num.zero : Num := .fin false 0 1

/-- The exact value of an integer. -/
def Num.ofInt (z : Int) : Num := .fin (decide (z < 0)) z.natAbs 1

end Sys2Proof
end

