-- ==== Sys2Proof/Machine/Bits.lean ====
section
/-! DEFINITION. Bit fields, bytes and sign extension.

Bytes are little-endian everywhere (R63, R83, R91, R319). -/

namespace Sys2Proof.Machine

/-- Bits [lo+n-1:lo] of a natural. -/
def bits (x lo n : Nat) : Nat := x / 2 ^ lo % 2 ^ n

/-- An immediate sign-extended to 64 bits (R63). -/
def sext {n : Nat} (x : BitVec n) : Word := x.signExtend 64

/-- Reads a 64-bit pattern as two's complement. -/
def sval (x : Word) : Int := x.toInt

/-- 1 for true, 0 for false (R108). -/
def boolWord (b : Bool) : Word := if b then 1 else 0

/-- Byte `k` of a block. -/
def dataByte (d : Data) (k : Nat) : Byte := BitVec.ofNat 8 (d.toNat / 2 ^ (8 * k))

/-- The `n` bytes of a block from byte `k`, as a natural. -/
def dataBytes (d : Data) (k n : Nat) : Nat := bits d.toNat (8 * k) (8 * n)

/-- Lane `l` of a token's data (R83). -/
def lane (d : Data) (l : Nat) : BitVec 32 := BitVec.ofNat 32 (d.toNat / 2 ^ (32 * l))

/-- The low `n` bits set. -/
def ones (n : Nat) : Nat := 2 ^ n - 1

/-- A block's data with a byte mask spread to bits. -/
def spreadMask (m : BitVec 64) : Data :=
  (List.range 64).foldl (fun acc k => if m.getLsbD k then acc ||| (BitVec.ofNat 512 0xFF <<< (8 * k)) else acc) 0

/-- Takes the bytes of `new` where the mask is set, else those of `old`. -/
def mergeData (old new : Data) (m : BitVec 64) : Data :=
  let sp := spreadMask m
  (old &&& ~~~sp) ||| (new &&& sp)

/-- A natural placed at byte `k`. -/
def placeBytes (v k : Nat) : Data := BitVec.ofNat 512 (v * 2 ^ (8 * k))

/-- The byte mask of `n` bytes from byte `k`. -/
def byteMask (k n : Nat) : BitVec 64 := BitVec.ofNat 64 (ones n * 2 ^ k)

/-- Writes `n` bytes of `v` at byte `k` of a block. -/
def setBytes (d : Data) (k n v : Nat) : Data :=
  (d &&& ~~~placeBytes (ones (8 * n)) k) ||| placeBytes (v % 2 ^ (8 * n)) k

/-- Little-endian bytes of a natural. -/
def toBytes (n v : Nat) : List Byte := (List.range n).map fun k => BitVec.ofNat 8 (v / 2 ^ (8 * k))

/-- The natural of little-endian bytes. -/
def ofBytes : List Byte → Nat
  | [] => 0
  | b :: t => b.toNat + 256 * ofBytes t

/-- `n` bytes of a list from offset `k`, as a natural; missing bytes read as zero. -/
def leAt (l : List Byte) (k n : Nat) : Nat := ofBytes ((l.drop k).take n)

/-- `n` bytes from offset `k`, read as two's complement. -/
def leInt (l : List Byte) (k n : Nat) : Int :=
  let v := leAt l k n
  if v < 2 ^ (8 * n - 1) then v else (v : Int) - (2 : Int) ^ (8 * n)

/-- Replaces bytes of a list from offset `k`. -/
def listPut (l : List Byte) (k : Nat) (v : List Byte) : List Byte :=
  l.take k ++ v ++ l.drop (k + v.length)

/-- Bytes of a block. -/
def dataList (d : Data) : List Byte := toBytes 64 d.toNat

/-- A block from up to 64 bytes. -/
def dataOf (l : List Byte) : Data := BitVec.ofNat 512 (ofBytes (l.take 64))

/-- Number of leading zeros of a 64-bit word (R106). -/
def clz64 (x : Word) : Nat := if x = 0 then 64 else 63 - Nat.log2 x.toNat

/-- Counts trailing zeros in at most `k` bits. -/
def ctzAux (x : Nat) : Nat → Nat
  | 0 => 0
  | k + 1 => if x % 2 = 1 then 0 else 1 + ctzAux (x / 2) k

/-- Number of trailing zeros of a 64-bit word; 64 for 0 (R106). -/
def ctz64 (x : Word) : Nat := ctzAux x.toNat 64

/-- Counts ones in `k` bits. -/
def popAux (x : Nat) : Nat → Nat
  | 0 => 0
  | k + 1 => x % 2 + popAux (x / 2) k

/-- Number of one bits (R106). -/
def pop64 (x : Word) : Nat := popAux x.toNat 64

/-- Parity bits of token data: PAR[p] evens DATA[64p+63:64p] (R83). -/
def parity (d : Data) : BitVec 8 :=
  BitVec.ofNat 8 ((List.range 8).foldl (fun a p => a + (popAux (bits d.toNat (64 * p) 64) 64 % 2) * 2 ^ p) 0)

/-- Is `n` a power of two. -/
def isPow2 (n : Nat) : Bool := decide (n ≠ 0) && decide (n &&& (n - 1) = 0)

/-- Replaces the element of a list at an index. -/
def listSet {α : Type} (l : List α) (k : Nat) (v : α) : List α := l.take k ++ (l.drop k).head?.elim [] (fun _ => [v]) ++ l.drop (k + 1)

/-- `x ≥ y` of 32-bit counts that wrap (R313). -/
def geWrap (x y : BitVec 32) : Bool := decide ((x - y).toNat < 2 ^ 31)

end Sys2Proof.Machine
end

