-- ==== Sys2Proof/Machine/FMap.lean ====
section
/-! DEFINITION. Sparse maps by natural key: lists of pairs with rising keys.

Most of the machine's state is sparse (pages in use, tiles written, queues created), so it is held as a
list of (key, value) pairs that `put` keeps sorted by key. -/

namespace Sys2Proof

/-- A sparse map from naturals. -/
abbrev FMap (α : Type) := List (Nat × α)

/-- The value at a key. -/
def fget {α : Type} (m : FMap α) (k : Nat) : Option α :=
  match m with
  | [] => none
  | (j, v) :: t => if j = k then some v else fget t k

/-- Drops a key. -/
def fdel {α : Type} (m : FMap α) (k : Nat) : FMap α :=
  match m with
  | [] => []
  | (j, v) :: t => if j = k then fdel t k else (j, v) :: fdel t k

/-- Inserts a key at its place among rising keys. -/
def fins {α : Type} (m : FMap α) (k : Nat) (v : α) : FMap α :=
  match m with
  | [] => [(k, v)]
  | (j, w) :: t => if k < j then (k, v) :: (j, w) :: t else (j, w) :: fins t k v

/-- Sets the value at a key. -/
def fput {α : Type} (m : FMap α) (k : Nat) (v : α) : FMap α := fins (fdel m k) k v

/-- The value at a key, or a default. -/
def fgetD {α : Type} (m : FMap α) (k : Nat) (d : α) : α := (fget m k).getD d

/-- Replaces the value at a key that is present. -/
def fmod {α : Type} (m : FMap α) (k : Nat) (f : α → α) : FMap α :=
  match m with
  | [] => []
  | (j, v) :: t => if j = k then (j, f v) :: fmod t k f else (j, v) :: fmod t k f

/-- Sets or drops a key. -/
def fset {α : Type} (m : FMap α) (k : Nat) (v : Option α) : FMap α :=
  match v with
  | some x => fput m k x
  | none => fdel m k

/-- Keys rise strictly. -/
def frising {α : Type} : FMap α → Bool
  | [] => true
  | [_] => true
  | a :: b :: t => decide (a.1 < b.1) && frising (b :: t)

end Sys2Proof
end

