-- ==== Sys2Proof/Config.lean ====
section
/-! DEFINITION. What the spec leaves open: constants without a body, so that no proof can see their
value (guide: free values), and the one function of outer choices used for values of a step.

Each constant is named in the assumption log. -/

namespace Sys2Proof.Config

/-- Free values: applied to the counter `State.freeCount`, which the step that needs one advances (log 2). -/
opaque freeWord : Nat → BitVec 64

/-- Which of the FP32 values within the bound of R194 a special function returns, by function code and
FP32 input; used modulo the number of allowed values (R194; log 5). -/
opaque specialChoice : Nat → BitVec 32 → Nat

/-- Capacity in bytes of one class queue of a switch output (R322, R323 give none; log 6). -/
opaque queueCapacity : Nat

/-- Quantum in bytes of one weight unit of the deficit round-robin of a switch output (R322; log 6). -/
opaque drrQuantum : Nat

/-- The number of this module, SMOD and DMOD of the packets within it (R319 gives no value; log 97). -/
opaque moduleNumber : BitVec 12

/-- HCHK: the CRC-16 of header bits [127:16], of which R319 states no polynomial (log 97). -/
opaque headerCheck : BitVec 112 → BitVec 16

/-- Bytes of a spill ring that one token takes, 0 counting as 1 (R357 gives none; log 13). -/
opaque spillEntry : Nat

/-- What chooses the blocks of a MOVE packet, 1 to 4 (R321, R387; log 31). -/
opaque moveCut : Nat

/-- Host granules of the save pool that a saved truss takes, by its pages and the tiles saved (R419 gives no size;
log 15). -/
opaque savedGranules : Nat → Nat → Nat

/-- Firmware and configuration measurements 1 to 15 made at a cold start, by start count and index (R396; log 7). -/
opaque firmwareMeasurement : Nat → Nat → List (BitVec 8)

/-- Signature of a measurement response under the attestation key of a cold start (R396; log 7). -/
opaque attestationSignature : Nat → List (BitVec 8) → List (BitVec 8)

end Sys2Proof.Config
end

