-- ==== Sys2Proof/Syntax.lean ====
section
/-! DEFINITION. The syntax of the RY-L48: one constructor per row of spec/opcode_table.json.

The first 122 constructors are the control-core words (R63 to R72) with their fields as the table names
them; `t` is a store's data register. The others are the steps of the other agents; `p` is a PAGEID and
`e` a site of that page (R11). -/

namespace Sys2Proof

/-- An agent: its bay, its agent code of R319, and the element or engine within the agent. -/
structure AgentId where
  /-- The bay (R7). -/
  bay : Nat
  /-- The agent code of R319. -/
  code : Nat
  /-- The site of an element memory unit, else 0. -/
  sub : Nat
  deriving DecidableEq, Repr

/-- A register window of the host interface. -/
inductive RegWindow where
  /-- The window of virtual function `n` (R344). -/
  | vf (n : Nat)
  /-- The window of the physical function (R373). -/
  | pf
  deriving DecidableEq, Repr

/-- The instructions: a control-core word or a step of another agent. -/
inductive Instr where
  /-- `ADD` (R105). -/
  | add (d : Reg) (a : Reg) (b : Reg)
  /-- `SUB` (R105). -/
  | sub (d : Reg) (a : Reg) (b : Reg)
  /-- `MUL` (R105). -/
  | mul (d : Reg) (a : Reg) (b : Reg)
  /-- `MULH` (R105). -/
  | mulh (d : Reg) (a : Reg) (b : Reg)
  /-- `MULHU` (R105). -/
  | mulhu (d : Reg) (a : Reg) (b : Reg)
  /-- `DIV` (R105). -/
  | div (d : Reg) (a : Reg) (b : Reg)
  /-- `DIVU` (R105). -/
  | divu (d : Reg) (a : Reg) (b : Reg)
  /-- `REM` (R105). -/
  | rem (d : Reg) (a : Reg) (b : Reg)
  /-- `REMU` (R105). -/
  | remu (d : Reg) (a : Reg) (b : Reg)
  /-- `AND` (R106). -/
  | and (d : Reg) (a : Reg) (b : Reg)
  /-- `OR` (R106). -/
  | or (d : Reg) (a : Reg) (b : Reg)
  /-- `XOR` (R106). -/
  | xor (d : Reg) (a : Reg) (b : Reg)
  /-- `ANDN` (R106). -/
  | andn (d : Reg) (a : Reg) (b : Reg)
  /-- `SHL` (R106). -/
  | shl (d : Reg) (a : Reg) (b : Reg)
  /-- `SHR` (R106). -/
  | shr (d : Reg) (a : Reg) (b : Reg)
  /-- `SRA` (R106). -/
  | sra (d : Reg) (a : Reg) (b : Reg)
  /-- `ROR` (R106). -/
  | ror (d : Reg) (a : Reg) (b : Reg)
  /-- `CLZ` (R106). -/
  | clz (d : Reg) (a : Reg)
  /-- `CTZ` (R106). -/
  | ctz (d : Reg) (a : Reg)
  /-- `POPC` (R106). -/
  | popc (d : Reg) (a : Reg)
  /-- `UNTAINT` (R106). -/
  | untaint (d : Reg)
  /-- `MIN` (R108). -/
  | min (d : Reg) (a : Reg) (b : Reg)
  /-- `MAX` (R108). -/
  | max (d : Reg) (a : Reg) (b : Reg)
  /-- `MINU` (R108). -/
  | minu (d : Reg) (a : Reg) (b : Reg)
  /-- `MAXU` (R108). -/
  | maxu (d : Reg) (a : Reg) (b : Reg)
  /-- `SEQ` (R108). -/
  | seq (d : Reg) (a : Reg) (b : Reg)
  /-- `SLT` (R108). -/
  | slt (d : Reg) (a : Reg) (b : Reg)
  /-- `SLTU` (R108). -/
  | sltu (d : Reg) (a : Reg) (b : Reg)
  /-- `SEL` (R108). -/
  | sel (d : Reg) (a : Reg) (b : Reg) (c : Reg)
  /-- `ADDI` (R109). -/
  | addi (d : Reg) (a : Reg) (imm : BitVec 15)
  /-- `ANDI` (R109). -/
  | andi (d : Reg) (a : Reg) (imm : BitVec 15)
  /-- `ORI` (R109). -/
  | ori (d : Reg) (a : Reg) (imm : BitVec 15)
  /-- `XORI` (R109). -/
  | xori (d : Reg) (a : Reg) (imm : BitVec 15)
  /-- `SHLI` (R109). -/
  | shli (d : Reg) (a : Reg) (n : BitVec 6)
  /-- `SHRI` (R109). -/
  | shri (d : Reg) (a : Reg) (n : BitVec 6)
  /-- `SRAI` (R109). -/
  | srai (d : Reg) (a : Reg) (n : BitVec 6)
  /-- `SLTI` (R109). -/
  | slti (d : Reg) (a : Reg) (imm : BitVec 15)
  /-- `BFX` (R107). -/
  | bfx (d : Reg) (a : Reg) (l : BitVec 6) (p : BitVec 6)
  /-- `BFI` (R107). -/
  | bfi (d : Reg) (a : Reg) (l : BitVec 6) (p : BitVec 6)
  /-- `LI` (R110). -/
  | li (d : Reg) (imm : BitVec 20)
  /-- `LIH` (R110). -/
  | lih (d : Reg) (imm : BitVec 20)
  /-- `BEQ` (R111). -/
  | beq (a : Reg) (b : Reg) (off : BitVec 15)
  /-- `BNE` (R111). -/
  | bne (a : Reg) (b : Reg) (off : BitVec 15)
  /-- `BLT` (R111). -/
  | blt (a : Reg) (b : Reg) (off : BitVec 15)
  /-- `BGE` (R111). -/
  | bge (a : Reg) (b : Reg) (off : BitVec 15)
  /-- `BLTU` (R111). -/
  | bltu (a : Reg) (b : Reg) (off : BitVec 15)
  /-- `BGEU` (R111). -/
  | bgeu (a : Reg) (b : Reg) (off : BitVec 15)
  /-- `J` (R112). -/
  | j (off : BitVec 25)
  /-- `JAL` (R112). -/
  | jal (off : BitVec 25)
  /-- `JR` (R113). -/
  | jr (a : Reg)
  /-- `JALR` (R113). -/
  | jalr (d : Reg) (a : Reg)
  /-- `LOOP` (R117). -/
  | loop (c : BitVec 2) (a : Reg) (n : BitVec 8)
  /-- `LOOPI` (R117). -/
  | loopi (c : BitVec 2) (n : BitVec 8) (k : BitVec 10)
  /-- `LBRK` (R122). -/
  | lbrk (c : BitVec 2)
  /-- `END` (R124). -/
  | endCore
  /-- `LD_B` (R129). -/
  | ldB (d : Reg) (a : Reg) (imm : BitVec 15)
  /-- `LD_H` (R129). -/
  | ldH (d : Reg) (a : Reg) (imm : BitVec 15)
  /-- `LD_W` (R129). -/
  | ldW (d : Reg) (a : Reg) (imm : BitVec 15)
  /-- `LD_D` (R129). -/
  | ldD (d : Reg) (a : Reg) (imm : BitVec 15)
  /-- `LD_BS` (R129). -/
  | ldBs (d : Reg) (a : Reg) (imm : BitVec 15)
  /-- `LD_HS` (R129). -/
  | ldHs (d : Reg) (a : Reg) (imm : BitVec 15)
  /-- `LD_WS` (R129). -/
  | ldWs (d : Reg) (a : Reg) (imm : BitVec 15)
  /-- `LDC_D` (R310). -/
  | ldcD (d : Reg) (a : Reg) (imm : BitVec 15)
  /-- `ST_B` (R129). -/
  | stB (t : Reg) (a : Reg) (imm : BitVec 15)
  /-- `ST_H` (R129). -/
  | stH (t : Reg) (a : Reg) (imm : BitVec 15)
  /-- `ST_W` (R129). -/
  | stW (t : Reg) (a : Reg) (imm : BitVec 15)
  /-- `ST_D` (R129). -/
  | stD (t : Reg) (a : Reg) (imm : BitVec 15)
  /-- `LDX` (R130). -/
  | ldx (d : Reg) (a : Reg) (b : Reg) (h : BitVec 2) (z : BitVec 3)
  /-- `STX` (R130). -/
  | stx (t : Reg) (a : Reg) (b : Reg) (h : BitVec 2) (z : BitVec 2)
  /-- `PRD_D` (R133). -/
  | prdD (d : Reg) (a : Reg) (imm : BitVec 15)
  /-- `PWR_D` (R133). -/
  | pwrD (t : Reg) (a : Reg) (imm : BitVec 15)
  /-- `AMO_W` (R134). -/
  | amoW (d : Reg) (a : Reg) (b : Reg) (r : BitVec 2) (op : BitVec 4)
  /-- `AMO_D` (R134). -/
  | amoD (d : Reg) (a : Reg) (b : Reg) (r : BitVec 2) (op : BitVec 4)
  /-- `CAS_W` (R135). -/
  | casW (d : Reg) (a : Reg) (b : Reg) (r : BitVec 2)
  /-- `CAS_D` (R135). -/
  | casD (d : Reg) (a : Reg) (b : Reg) (r : BitVec 2)
  /-- `FENCE` (R136). -/
  | fence
  /-- `REL` (R139). -/
  | rel (c : BitVec 2)
  /-- `ACQ` (R139). -/
  | acq (c : BitVec 2)
  /-- `WBR` (R140). -/
  | wbr (a : Reg) (b : Reg) (c : BitVec 2)
  /-- `INVR` (R140). -/
  | invr (a : Reg) (b : Reg) (c : BitVec 2)
  /-- `FLR` (R140). -/
  | flr (a : Reg) (b : Reg) (c : BitVec 2)
  /-- `ICINV` (R141). -/
  | icinv (a : Reg) (b : Reg) (c : BitVec 2)
  /-- `TSTAT` (R142). -/
  | tstat (d : Reg) (a : Reg)
  /-- `TGIVE` (R142). -/
  | tgive (a : Reg)
  /-- `TTAKE` (R142). -/
  | ttake (a : Reg)
  /-- `TEMPTY` (R142). -/
  | tempty (a : Reg)
  /-- `TWAIT` (R142). -/
  | twait (a : Reg) (st : BitVec 2)
  /-- `SLD` (R145). -/
  | sld (a : Reg) (p : BitVec 2)
  /-- `SST` (R145). -/
  | sst (a : Reg) (p : BitVec 2)
  /-- `SSTOP` (R148). -/
  | sstop (p : BitVec 3)
  /-- `SWAIT` (R148). -/
  | swait (p : BitVec 3)
  /-- `SSTAT` (R148). -/
  | sstat (d : Reg) (p : BitVec 6)
  /-- `SPUSH` (R149). -/
  | spush (a : Reg) (b : Reg) (k : BitVec 3)
  /-- `SPOP` (R149). -/
  | spop (d : Reg)
  /-- `CPY` (R150). -/
  | cpy (d : Reg) (a : Reg) (e : BitVec 6)
  /-- `GATH` (R153). -/
  | gath (d : Reg) (a : Reg)
  /-- `SCAT` (R153). -/
  | scat (d : Reg) (a : Reg)
  /-- `REDC` (R154). -/
  | redc (d : Reg) (a : Reg)
  /-- `EWAIT` (R155). -/
  | ewait (a : Reg)
  /-- `EPOLL` (R155). -/
  | epoll (d : Reg) (a : Reg)
  /-- `CFG` (R157). -/
  | cfg (a : Reg) (b : Reg)
  /-- `START` (R158). -/
  | start
  /-- `KERF` (R159). -/
  | kerf
  /-- `ERD` (R160). -/
  | erd (d : Reg) (a : Reg) (w : BitVec 2)
  /-- `ROUND` (R161). -/
  | round (a : Reg)
  /-- `LSTAT` (R162). -/
  | lstat (d : Reg) (a : Reg)
  /-- `BAR_T` (R163). -/
  | barT
  /-- `PHASE` (R164). -/
  | phase (a : Reg)
  /-- `CWAIT` (R165). -/
  | cwait (a : Reg) (b : Reg)
  /-- `CADD` (R165). -/
  | cadd (a : Reg) (b : Reg)
  /-- `NOTIFY` (R166). -/
  | notify (a : Reg) (b : Reg)
  /-- `CANCEL` (R167). -/
  | cancel (a : Reg)
  /-- `FORKW` (R168). -/
  | forkw (d : Reg) (a : Reg) (n : BitVec 15)
  /-- `CHOOSE` (R169). -/
  | choose
  /-- `WYIELD` (R170). -/
  | wyield (a : Reg)
  /-- `REGION` (R172). -/
  | region (a : Reg)
  /-- `TRAP` (R177). -/
  | trap (n : BitVec 15)
  /-- `ERET` (R176). -/
  | eret
  /-- `MFS` (R178). -/
  | mfs (d : Reg) (r : BitVec 12)
  /-- `MTS` (R178). -/
  | mts (a : Reg) (r : BitVec 12)
  /-- `WFE` (R179). -/
  | wfe
  /-- `BRK` (R177). -/
  | brk (n : BitVec 15)
  /-- `WAIT_ENDS` (R173). -/
  | waitEnds (p : Nat)
  /-- `ELEM_ADD` (R184). -/
  | elemAdd (p : Nat) (e : Nat)
  /-- `ELEM_SUB` (R184). -/
  | elemSub (p : Nat) (e : Nat)
  /-- `ELEM_MUL` (R184). -/
  | elemMul (p : Nat) (e : Nat)
  /-- `FMA` (R184). -/
  | fma (p : Nat) (e : Nat)
  /-- `MAC` (R185). -/
  | mac (p : Nat) (e : Nat)
  /-- `ABS` (R184). -/
  | elemAbs (p : Nat) (e : Nat)
  /-- `NEG` (R184). -/
  | neg (p : Nat) (e : Nat)
  /-- `ELEM_MIN` (R186). -/
  | elemMin (p : Nat) (e : Nat)
  /-- `ELEM_MAX` (R186). -/
  | elemMax (p : Nat) (e : Nat)
  /-- `MINP` (R186). -/
  | minp (p : Nat) (e : Nat)
  /-- `MAXP` (R186). -/
  | maxp (p : Nat) (e : Nat)
  /-- `CEQ` (R187). -/
  | ceq (p : Nat) (e : Nat)
  /-- `CNE` (R187). -/
  | cne (p : Nat) (e : Nat)
  /-- `CLT` (R187). -/
  | clt (p : Nat) (e : Nat)
  /-- `CLE` (R187). -/
  | cle (p : Nat) (e : Nat)
  /-- `ELEM_SEL` (R188). -/
  | elemSel (p : Nat) (e : Nat)
  /-- `ELEM_AND` (R189). -/
  | elemAnd (p : Nat) (e : Nat)
  /-- `ELEM_OR` (R189). -/
  | elemOr (p : Nat) (e : Nat)
  /-- `ELEM_XOR` (R189). -/
  | elemXor (p : Nat) (e : Nat)
  /-- `NOT` (R189). -/
  | elemNot (p : Nat) (e : Nat)
  /-- `ELEM_SHL` (R189). -/
  | elemShl (p : Nat) (e : Nat)
  /-- `ELEM_SHR` (R189). -/
  | elemShr (p : Nat) (e : Nat)
  /-- `ELEM_SRA` (R189). -/
  | elemSra (p : Nat) (e : Nat)
  /-- `RSHR` (R190). -/
  | rshr (p : Nat) (e : Nat)
  /-- `REQ` (R191). -/
  | req (p : Nat) (e : Nat)
  /-- `CLMP` (R192). -/
  | clmp (p : Nat) (e : Nat)
  /-- `PASS` (R206). -/
  | pass (p : Nat) (e : Nat)
  /-- `BCST` (R207). -/
  | bcst (p : Nat) (e : Nat)
  /-- `PERM` (R208). -/
  | perm (p : Nat) (e : Nat)
  /-- `SLIDE` (R209). -/
  | slide (p : Nat) (e : Nat)
  /-- `RCP` (R193). -/
  | rcp (p : Nat) (e : Nat)
  /-- `RSQ` (R193). -/
  | rsq (p : Nat) (e : Nat)
  /-- `SQRT` (R193). -/
  | sqrt (p : Nat) (e : Nat)
  /-- `EXP2` (R193). -/
  | exp2 (p : Nat) (e : Nat)
  /-- `LOG2` (R193). -/
  | log2 (p : Nat) (e : Nat)
  /-- `TANH` (R193). -/
  | tanh (p : Nat) (e : Nat)
  /-- `CVT` (R195). -/
  | cvt (p : Nat) (e : Nat)
  /-- `BQ` (R198). -/
  | bq (p : Nat) (e : Nat)
  /-- `DQ` (R197). -/
  | dq (p : Nat) (e : Nat)
  /-- `PACK` (R201). -/
  | pack (p : Nat) (e : Nat)
  /-- `UNPK` (R202). -/
  | unpk (p : Nat) (e : Nat)
  /-- `RSUM` (R203). -/
  | rsum (p : Nat) (e : Nat)
  /-- `RMAX` (R203). -/
  | rmax (p : Nat) (e : Nat)
  /-- `RMIN` (R203). -/
  | rmin (p : Nat) (e : Nat)
  /-- `ACC` (R204). -/
  | acc (p : Nat) (e : Nat)
  /-- `MMA` (R215). -/
  | mma (p : Nat) (e : Nat)
  /-- `MMAO` (R216). -/
  | mmao (p : Nat) (e : Nat)
  /-- `MMAZ` (R216). -/
  | mmaz (p : Nat) (e : Nat)
  /-- `MMA_TILE_WRITE` (R216). -/
  | mmaTileWrite (p : Nat) (e : Nat)
  /-- `AMUL` (R218). -/
  | amul (p : Nat) (e : Nat)
  /-- `AMMA` (R219). -/
  | amma (p : Nat) (e : Nat)
  /-- `ACONJ` (R218). -/
  | aconj (p : Nat) (e : Nat)
  /-- `ANORM` (R218). -/
  | anorm (p : Nat) (e : Nat)
  /-- `AINV` (R218). -/
  | ainv (p : Nat) (e : Nat)
  /-- `ALGEBRA_TABLE_READ` (R281). -/
  | algebraTableRead (p : Nat) (e : Nat)
  /-- `FILT` (R221). -/
  | filt (p : Nat) (e : Nat)
  /-- `CMPT` (R222). -/
  | cmpt (p : Nat) (e : Nat)
  /-- `CNT` (R223). -/
  | cnt (p : Nat) (e : Nat)
  /-- `MRK` (R224). -/
  | mrk (p : Nat) (e : Nat)
  /-- `STRIP` (R225). -/
  | strip (p : Nat) (e : Nat)
  /-- `ZIP` (R226). -/
  | zip (p : Nat) (e : Nat)
  /-- `UNZP` (R227). -/
  | unzp (p : Nat) (e : Nat)
  /-- `PLD` (R228). -/
  | pld (p : Nat) (e : Nat)
  /-- `PST` (R229). -/
  | pst (p : Nat) (e : Nat)
  /-- `LBUF` (R230). -/
  | lbuf (p : Nat) (e : Nat)
  /-- `TFLIP` (R231). -/
  | tflip (p : Nat) (e : Nat)
  /-- `MLD` (R233). -/
  | mld (p : Nat) (e : Nat)
  /-- `MST` (R234). -/
  | mst (p : Nat) (e : Nat)
  /-- `MAMO` (R235). -/
  | mamo (p : Nat) (e : Nat)
  /-- `ELEMENT_MEMORY_COMPLETE` (R236). -/
  | elementMemoryComplete (p : Nat) (e : Nat) (n : Nat)
  /-- `CMD` (R238). -/
  | cmd (p : Nat) (e : Nat)
  /-- `STEER` (R240). -/
  | steer (p : Nat) (e : Nat)
  /-- `MERGE` (R241). -/
  | merge (p : Nat) (e : Nat)
  /-- `CARRY` (R242). -/
  | carry (p : Nat) (e : Nat)
  /-- `MITRE` (R244). -/
  | mitre (p : Nat) (e : Nat)
  /-- `SCALE_TOKEN` (R181). -/
  | scaleToken (p : Nat) (e : Nat) (k : Nat)
  /-- `CONFIG_TOKEN` (R82). -/
  | configToken (p : Nat) (e : Nat) (k : Nat)
  /-- `COMMAND_TOKEN_AT_ELEMENT` (R181). -/
  | commandTokenAtElement (p : Nat) (e : Nat) (k : Nat)
  /-- `TOKEN_HOP` (R253). -/
  | tokenHop (p : Nat) (e : Nat) (src : Nat)
  /-- `LOAD_PORT_DELIVER` (R146). -/
  | loadPortDeliver (p : Nat) (k : Nat)
  /-- `STORE_PORT_ACCEPT` (R285). -/
  | storePortAccept (p : Nat) (k : Nat)
  /-- `STREAM_FINISH` (R147). -/
  | streamFinish (p : Nat) (k : Nat)
  /-- `ENGINE_TAKE_COMMAND` (R156). -/
  | engineTakeCommand (p : Nat)
  /-- `ENGINE_COMMAND_COMPLETE` (R152). -/
  | engineCommandComplete (b : Nat) (g : Nat)
  /-- `REDUCE_COMBINE` (R360). -/
  | reduceCombine (pid : Nat) (g : Nat) (q : BitVec 64)
  /-- `PANEL_COPY` (R438). -/
  | panelCopy (pid : Nat) (view : Nat) (slot : Nat) (panel : Nat)
  /-- `READ` (R321). -/
  | readPkt (k : Nat)
  /-- `WRITE` (R329). -/
  | writePkt (k : Nat)
  /-- `ATOMIC` (R316). -/
  | atomicPkt (k : Nat)
  /-- `DATA` (R330). -/
  | dataPkt (k : Nat)
  /-- `ARESP` (R313). -/
  | arespPkt (k : Nat)
  /-- `ACK` (R329). -/
  | ackPkt (k : Nat)
  /-- `RESEND` (R326). -/
  | resendPkt (k : Nat)
  /-- `OWNERNAK` (R369). -/
  | ownernakPkt (k : Nat)
  /-- `ABANDON` (R328). -/
  | abandonPkt (k : Nat)
  /-- `SPAN` (R326). -/
  | spanPkt (k : Nat)
  /-- `SPANACK` (R325). -/
  | spanackPkt (k : Nat)
  /-- `SPANRESEND` (R326). -/
  | spanresendPkt (k : Nat)
  /-- `MOVE` (R387). -/
  | movePkt (k : Nat)
  /-- `COLL` (R360). -/
  | collPkt (k : Nat)
  /-- `PACKET_AT_OUTPUT` (R323). -/
  | packetAtOutput (k : Nat)
  /-- `RETRANSMIT` (R327). -/
  | retransmit (a : AgentId) (n : Nat)
  /-- `LINK_REPLAY` (R412). -/
  | linkReplay (k : Nat)
  /-- `RESPONSE_TIMEOUT` (R412). -/
  | responseTimeout (a : AgentId) (tag : Nat)
  /-- `BACKGROUND_SCRUB` (R409). -/
  | backgroundScrub (b : Nat) (n : Nat) (bad : List Nat)
  /-- `NOTIFY_PAGE_WRITE` (R344). -/
  | notifyPageWrite (vf : Nat) (q : Nat) (v : BitVec 64)
  /-- `SCAN` (R336). -/
  | scan (vf : Nat) (q : Nat)
  /-- `QSTARVE` (R355). -/
  | qstarve (vf : Nat) (q : Nat)
  /-- `QUEUE_CREATE` (R347). -/
  | queueCreate (vf : Nat) (q : Nat)
  /-- `QUEUE_DESTROY` (R347). -/
  | queueDestroy (vf : Nat) (q : Nat)
  /-- `QUEUE_RESUME` (R347). -/
  | queueResume (vf : Nat) (q : Nat)
  /-- `TENSOR_CREATE` (R298). -/
  | tensorCreate (vf : Nat) (slot : Nat)
  /-- `TENSOR_DESTROY` (R298). -/
  | tensorDestroy (vf : Nat) (slot : Nat)
  /-- `INVAL` (R304). -/
  | inval (vf : Nat) (slot : Nat)
  /-- `TENSOR_TABLE_WRITE` (R298). -/
  | tensorTableWrite (vf : Nat) (off : Nat) (v : BitVec 64)
  /-- `VPADD` (R445). -/
  | vpadd (vf : Nat) (v : BitVec 64)
  /-- `VPTAKE` (R445). -/
  | vptake (vf : Nat)
  /-- `VPABORT` (R445). -/
  | vpabort (vf : Nat) (v : BitVec 64)
  /-- `PRANS_GRANT` (R404). -/
  | pransGrant (vf : Nat) (gen : BitVec 8) (rid : BitVec 32)
  /-- `PRANS_FAIL` (R405). -/
  | pransFail (vf : Nat) (gen : BitVec 8) (rid : BitVec 32)
  /-- `PRANS_FAILISO` (R407). -/
  | pransFailiso (vf : Nat) (gen : BitVec 8) (granule : BitVec 32)
  /-- `RESET_QUEUE` (R424). -/
  | resetQueue (vf : Nat) (q : Nat)
  /-- `RESET_LAUNCH` (R424). -/
  | resetLaunch (vf : Nat) (lid : Nat)
  /-- `RESET_ENGINE` (R424). -/
  | resetEngine (pid : Nat) (bay : Nat) (eng : Nat)
  /-- `RESET_PARTITION` (R425). -/
  | resetPartition (pid : Nat)
  /-- `RESET_DEVICE` (R424). -/
  | resetDevice
  /-- `RUNG_TIMEOUT` (R424). -/
  | rungTimeout (n : Nat)
  /-- `PARTITION_CREATE` (R374). -/
  | partitionCreate (pid : Nat)
  /-- `PARTITION_DESTROY` (R374). -/
  | partitionDestroy (pid : Nat)
  /-- `PARTITION_UPDATE` (R374). -/
  | partitionUpdate (pid : Nat)
  /-- `GRANULE_GRANT` (R376). -/
  | granuleGrant (pid : Nat)
  /-- `CHANNEL_GRANT` (R369). -/
  | channelGrant (h : Nat) (c : Nat)
  /-- `GRANULE_REVOKE` (R377). -/
  | granuleRevoke (pid : Nat)
  /-- `PARTITION_STATUS` (R374). -/
  | partitionStatus (pid : Nat)
  /-- `SAVEPOOL_WRITE` (R419). -/
  | savepoolWrite (v : BitVec 64)
  /-- `EQCONS_WRITE` (R363). -/
  | eqconsWrite (vf : Nat) (v : BitVec 64)
  /-- `HOPINJ` (R368). -/
  | hopinj (v : BitVec 64)
  /-- `REGISTER_WRITE` (R343). -/
  | registerWrite (win : RegWindow) (off : Nat) (v : BitVec 64)
  /-- `LAUNCH` (R349). -/
  | launchItem (vf : Nat) (q : Nat)
  /-- `GRAPH` (R350). -/
  | graphItem (vf : Nat) (q : Nat)
  /-- `GRAPH_NODE_BEGIN` (R350). -/
  | graphNodeBegin (vf : Nat) (q : Nat) (n : Nat) (m : Nat)
  /-- `WAIT` (R350). -/
  | waitItem (vf : Nat) (q : Nat)
  /-- `SIGNAL` (R338). -/
  | signalItem (vf : Nat) (q : Nat)
  /-- `PHASE_COMMAND` (R359). -/
  | phaseCommand (vf : Nat) (q : Nat)
  /-- `CANCEL_COMMAND` (R350). -/
  | cancelCommand (vf : Nat) (q : Nat)
  /-- `QFENCE` (R350). -/
  | qfence (vf : Nat) (q : Nat)
  /-- `NOP` (R350). -/
  | nopItem (vf : Nat) (q : Nat)
  /-- `PHASE_END` (R359). -/
  | phaseEnd (pid : Nat) (job : BitVec 64)
  /-- `TRUSS_END` (R23). -/
  | trussEnd (t : Nat)
  /-- `PLACE` (R365). -/
  | placeTruss (t : Nat)
  /-- `PRIORITY_AGING` (R26). -/
  | priorityAging (l : Nat)
  /-- `MOVE_COPY` (R387). -/
  | moveCopy
  /-- `MOVE_RELEASE` (R386). -/
  | moveRelease
  /-- `MOVE_ABANDON` (R388). -/
  | moveAbandon
  /-- `PAGE_SCRUB` (R380). -/
  | pageScrub (p : Nat)
  /-- `FABSTALL` (R271). -/
  | fabstall (t : Nat)
  /-- `FORKW_TIMEOUT` (R168). -/
  | forkwTimeout (f : Nat)
  /-- `SEAL` (R394). -/
  | sealSummary
  /-- `GET_MEASUREMENTS` (R396). -/
  | getMeasurements (idx : Nat) (sign : Bool)
  /-- `COLD_START` (R429). -/
  | coldStart
  /-- `WARM_START` (R429). -/
  | warmStart
  /-- `WARM_START_TIMEOUT` (R430). -/
  | warmStartTimeout
  /-- `ILLEGAL_WORD` (R65). -/
  | illegalWord (w : Word32)
  /-- `WAIT_COMPLETES` (R350). -/
  | waitCompletes (vf : Nat) (q : Nat)
  deriving DecidableEq, Repr

end Sys2Proof
end

