-- ==== Sys2Proof/Machine/State.lean ====
section
/-! DEFINITION. The state of an RY-L48 module, its faults and refusals, and the state after reset.

Every register, tile, queue, cache line, packet and record that the spec names has a field here, as plain
data. What is sparse is an `FMap` whose absent keys hold the reset value. -/

namespace Sys2Proof.Machine

/-! ### Memory -/

/-- A physical place of a block or byte (R303): HBM4 (stack·2^36 + granule·2^21 + offset), a host bus
address, or a remote module's panel. -/
inductive Phys where
  /-- HBM4 of this module, homed on bay `stack / 2`. -/
  | hbm (a : Nat)
  /-- Host memory. -/
  | host (a : Nat)
  /-- Memory of module `m` (TGT 2). -/
  | remote (m a : Nat)
  deriving DecidableEq, Repr

/-- Device memory and host memory: bytes and block descriptors (R27, R29, R451), each list with rising
addresses and no entry equal to what an unlisted address reads as. -/
structure Memory where
  /-- HBM4 bytes; an unlisted byte is 0 (R29, R376). -/
  cells : List Host.Cell
  /-- HBM4 descriptors by block number; an unlisted block is VOID at unit scale, 0x7F00 (R29). -/
  descs : FMap Desc
  /-- Host bytes by bus address; an unlisted byte reads 0 (log 3). -/
  hostCells : List Host.Cell
  /-- Descriptors of host-memory blocks by block number; unlisted, UINT8 at unit scale (log 3). -/
  hostDescs : FMap Desc
  deriving DecidableEq, Repr

/-- One block of a request or response: its place, data, descriptor and byte mask (R318). -/
structure BlockW where
  /-- Where the block lies. -/
  phys : Phys
  /-- Its 64 bytes. -/
  data : Data
  /-- Its descriptor. -/
  desc : Desc
  /-- The bytes carried. -/
  mask : BitVec 64
  /-- Who writes: 0 a core's bytes (R129), 1 a port's or element's burst (R285), 2 an engine (R152), 3 a
  POISON burst of lost dirty bytes (R410). -/
  mode : Nat
  deriving DecidableEq, Repr

/-! ### Tokens -/

/-- A token (R83); `out` marks a completion token, which stands outside every burst (R147). -/
structure Token where
  /-- 0 DATA, 1 SCALE, 2 CONFIG, 3 COMMAND. -/
  kind : BitVec 2
  /-- End-marker rank. -/
  rank : BitVec 3
  /-- One bit a lane. -/
  valid : BitVec 16
  /-- Sixteen lanes. -/
  data : Data
  /-- Parity, one bit for 64 bits of data. -/
  par : BitVec 8
  /-- A completion token. -/
  out : Bool
  deriving DecidableEq, Repr

/-! ### Elements -/

/-- The current burst of an element input, a store port or crx (R84, R262). -/
structure Burst where
  /-- Format code. -/
  fmt : BitVec 8
  /-- Scale byte. -/
  scale : BitVec 8
  /-- BLEN: burst length − 1. -/
  blen : Nat
  /-- DATA tokens left in the burst. -/
  left : Nat
  /-- A POISON burst opened by a bad SCALE token (R84). -/
  bad : Bool
  deriving DecidableEq, Repr

/-- One accumulator slot (R185, R215). -/
structure Acc where
  /-- FP32 or INT32 bits. -/
  bits : BitVec 32
  /-- A value has been accumulated. -/
  seen : Bool
  /-- A POISON value has been accumulated. -/
  poison : Bool
  deriving DecidableEq, Repr

/-- An element memory firing in flight (R236). -/
structure MemFiring where
  /-- Tags of its requests in the requester's window. -/
  tags : List Nat
  /-- 0 MLD, 1 MST, 2 MAMO. -/
  op : Nat
  /-- VAR of a MAMO. -/
  aop : Nat
  /-- Block mode. -/
  blk : Bool
  /-- The firing's valid lanes. -/
  valid : BitVec 16
  /-- Lanes not performed: outside the tensor, failed, or in a block that MST writes the lanes invalid in in1. -/
  dropped : BitVec 16
  /-- The largest rank consumed. -/
  rank : BitVec 3
  /-- The rank of its index token. -/
  irank : BitVec 3
  /-- Lane data already held (edge values, or the operands of a store). -/
  data : Data
  /-- Whether a lane reads POISON. -/
  poison : Bool
  /-- Format and scale of the data read. -/
  desc : Desc
  /-- Outputs it still owes: 1 out0, 2 out1. -/
  outs : BitVec 2
  /-- Slot whose reference it holds. -/
  slot : Nat
  deriving DecidableEq, Repr

/-- An element and its router (R12, R44, R74–R77, R262). -/
structure Elem where
  /-- Fields 0–46 (R75, R77) that differ from their reset values. -/
  cfg : FMap (BitVec 12)
  /-- Marked faulted (R18, R74, R450). -/
  faulted : Bool
  /-- Units of configuration that name it and have not yet judged it (R450). -/
  judging : List Nat
  /-- Its kerf hops pass no token: its truss is in HOLD or QUIESCE (R385). -/
  closed : Bool
  /-- The sticky status of R44. -/
  status : BitVec 8
  /-- The amax register, FP32 bits (R50). -/
  amax : BitVec 32
  /-- Firings (R269). -/
  fire : Word
  /-- Stalled fc (R269). -/
  stall : Word
  /-- Starved fc (R269). -/
  starve : Word
  /-- Current burst of in0, in1, in2, ctl. -/
  ins : Vector Burst 4
  /-- Rounding mode and overflow rule switched for the running operation, when they differ (R196). -/
  modeSw : Option (BitVec 5)
  /-- Accumulators. -/
  acc : List Acc
  /-- The accumulators are INT32. -/
  accInt : Bool
  /-- Running exact results of RMAX and RMIN, one a slot (R203). -/
  run : List (Option Num)
  /-- Held tokens: SLIDE H, CMPT H, PACK group, BQ burst, UNPK, ZIP and UNZP halves. -/
  held : List Token
  /-- Second held group: CMPT h, UNZP second half. -/
  held2 : List Token
  /-- Position or phase counts of the operation. -/
  cnt : List Nat
  /-- LBUF columns and lines written, CNT run, and like counts held as words. -/
  words : List Word
  /-- The loaded algebra table: entries, and its N, CONJ and METRIC words (R279). -/
  table : List (BitVec 32)
  /-- Format and scale announced on out0 and out1 (R183), with tokens left in the burst. -/
  annc : Vector (Option Burst) 2
  /-- Result queues of out0 and out1 (R251). -/
  q0 : List Token
  /-- Result queue of out1. -/
  q1 : List Token
  /-- A writing of C to the plate in progress (R216): its tile ·8 with the RANK of its token and the descriptor, then
  each result's code with 1 where it is poisoned. -/
  cRows : List (Nat × Nat)
  /-- Element memory firings in flight (R236). -/
  mem : List MemFiring
  /-- Slot, plus one, of the tensor that a stalled memory firing holds a reference to; 0 where none does (R299). -/
  memRef : Nat
  /-- Hops: tokens in each router output field 32–40 and operator input 48–57 (R253). -/
  hops : FMap (List Token)
  /-- Tokens that have just crossed a seam into a hop and are in flight, with their due time (R254). -/
  seam : FMap (List (Nat × Token))
  /-- SHIM floors of the router output fields, as configured (R77, R81). -/
  floors : FMap Nat
  /-- Held tokens and counts of operations that the element was configured for before (R264), by opcode. -/
  parked : FMap (List Token × List Token × List Nat × List Word)
  /-- MERGE: 0 needs a control token, 1 passes from A next, 2 from B (R241). -/
  merge : Nat
  /-- CARRY: 0 INIT, 1 LOOP, 2 LOOP with a true control token consumed (R242). -/
  carry : Nat
  /-- Current burst of MITRE's input. -/
  mitreBurst : Burst
  /-- MITRE rows gathered, each with its descriptor (R244). -/
  mitreIn : List (Desc × Token)
  /-- MITRE output rows. -/
  mitreOut : List Token
  deriving DecidableEq, Repr

/-- A plate tile (R16, R17): 4 096 bytes as 64 blocks with descriptors; absent blocks are zero, 0x7F00. -/
structure Tile where
  /-- 0 EMPTY, 1 FULL, 2 ENGINE, 3 CORE. -/
  state : BitVec 2
  /-- Blocks by number. -/
  blocks : FMap (Data × Desc)
  deriving DecidableEq, Repr

/-! ### Streams -/

/-- A stream (R143–R147). -/
structure Stream where
  /-- The 64 descriptor bytes as read at issue. -/
  bytes : List Byte
  /-- Tensor slot. -/
  slot : Nat
  /-- Tensor generation. -/
  gen : Nat
  /-- Walk points already issued to memory. -/
  issued : Nat
  /-- Walk points delivered or accepted. -/
  pos : Nat
  /-- Blocks of the point being fetched or written: window tags in order. -/
  tags : List Nat
  /-- A store stream whose tokens are all accepted waits for its acknowledgements. -/
  draining : Bool
  deriving DecidableEq, Repr

/-- What stalls an agent (R401, R438, R363). -/
inductive Stall where
  /-- Page request `rid`. -/
  | fault (rid : Nat)
  /-- Owner refusal of a guest granule. -/
  | owner (granule : Nat)
  /-- View exhaustion of a view. -/
  | exhausted (view : Nat)
  /-- A panel of a view being copied (R438). -/
  | copying (view slot panel : Nat)
  /-- An event held for want of room (R363). -/
  | event
  deriving DecidableEq, Repr

/-- A stream port (R13, R146–R149, R305). -/
structure Port where
  /-- The edge-port queue of 4 tokens. -/
  queue : List Token
  /-- Active stream. -/
  act : Option Stream
  /-- Pending stream. -/
  pend : Option Stream
  /-- SSTAT COUNT. -/
  count : BitVec 32
  /-- SSTAT [6:3]: FMTERR, POIS, STOPPED, FAILED. -/
  sticky : BitVec 4
  /-- Discard arriving tokens until the next SST (R148). -/
  discard : Bool
  /-- Descriptor last announced by a load port, and tokens left in its burst; the burst a store port reads under. -/
  burst : Option Burst
  /-- Port-table entry bound to the port, once bound: its expected format (R81, R92). -/
  bound : Option (BitVec 8)
  /-- Hot-panel entries (R305). -/
  hot : List (Nat × Nat × BitVec 32 × BitVec 32)
  /-- Untracked tokens seen (R305). -/
  untracked : Nat
  /-- The access that was stalled has failed and is still to be taken so (R405). -/
  failNext : Bool
  /-- Tokens read before SSTOP and still to be delivered (R148). -/
  rest : List Token
  /-- Blocks of a run not yet sent by a store port (R369), and the tensor offset of the first. -/
  buf : List BlockW
  /-- Offset of the first block of `buf`. -/
  bufOff : Nat
  /-- Completion tokens of stopped streams with CTRL.CRX, each with its CSCOPE, still to be sent (R147, R148). -/
  owed : List (Nat × Token)
  deriving DecidableEq, Repr

/-! ### Control cores -/

/-- A zero-overhead loop counter (R96). -/
structure Loop where
  /-- Active. -/
  act : Bool
  /-- Order of starting. -/
  level : BitVec 2
  /-- Iterations remaining. -/
  count : Word
  /-- First body address. -/
  beg : Word
  /-- Last body address. -/
  fin : Word
  deriving DecidableEq, Repr

/-- An L1D line (R131). -/
structure L1Line where
  /-- Tensor-0 address / 64. -/
  line : Nat
  /-- View tag. -/
  view : Nat
  /-- Its bytes. -/
  data : Data
  /-- Valid bytes. -/
  valid : BitVec 64
  /-- Dirty bytes. -/
  dirty : BitVec 64
  /-- The block's descriptor, when fetched. -/
  desc : Desc
  /-- Dirty bytes hold an uncorrectable error (R410). -/
  bad : Bool
  deriving DecidableEq, Repr

/-- What a core waits for (R173, R401). -/
inductive Wait where
  /-- The response to its own request. -/
  | resp (tag : Nat)
  /-- A stall. -/
  | stall (st : Stall)
  /-- Room for a retained copy (R325). -/
  | room
  /-- Its writes to be complete at scope `sc` (R138). -/
  | writes (sc : Nat)
  /-- A tile state (TWAIT). -/
  | tile (site tile : Nat) (st : BitVec 2)
  /-- SWAIT. -/
  | port (k : Nat)
  /-- A free stream place at a port (R145). -/
  | streamSlot (k : Nat)
  /-- EWAIT. -/
  | ticket (n : Nat)
  /-- Fewer than 16 commands outstanding, or the chosen engine able to take one (R150). -/
  | engineSlot
  /-- SPUSH. -/
  | ctxRoom
  /-- SPOP. -/
  | crxToken
  /-- START. -/
  | startRoom
  /-- CFG: room in the hop that an injection enters (R157). -/
  | injRoom (p e fld : Nat)
  /-- CWAIT: the counter holds at least `n`. -/
  | counter (addr n : Nat)
  /-- ROUND: link number, direction, rate. -/
  | links (es : List (Nat × Bool × Nat))
  /-- BAR.T number `n`. -/
  | barrier (n : Nat)
  /-- PHASE `n` of the launch's job. -/
  | phase (n : Nat)
  /-- FORKW. -/
  | fork
  /-- KERF with a request pending. -/
  | kerf
  /-- WFE begun at cc `t`. -/
  | wfe (t : Nat)
  /-- PHASE, step 1 of R164. -/
  | quiet
  /-- END, step 2 of R124. -/
  | ending
  /-- KERF step 2: engine commands with a plate side. -/
  | plateCmds
  /-- CHOOSE: the rival's accesses to complete (R440). -/
  | choose
  /-- WYIELD: the fork to be decided. -/
  | yielded
  deriving DecidableEq, Repr

/-- How far a core has come (R103, R124). -/
inductive RunState where
  /-- No truss, or not started. -/
  | idle
  /-- Executing. -/
  | running
  /-- Passed step 4 of END. -/
  | ended
  /-- Stopped by a failure, cancel or yield. -/
  | stopped
  deriving DecidableEq, Repr

/-- A control core (R94–R100, R131, R150, R155). -/
structure Core where
  /-- g0–g31; g0 is kept zero. -/
  regs : Vector Word 32
  /-- Taint bits. -/
  taint : BitVec 32
  /-- The program counter. -/
  pc : Word
  /-- lc0–lc2. -/
  loops : Vector Loop 3
  /-- FLAGS.DZ. -/
  dz : Bool
  /-- FLAGS.DISC. -/
  disc : Bool
  /-- TVEC. -/
  tvec : Word
  /-- TCAUSE. -/
  tcause : Word
  /-- TPC. -/
  tpc : Word
  /-- TVAL. -/
  tval : Word
  /-- TSTAT.INH. -/
  inh : Bool
  /-- DBGCTL.SSTEP. -/
  sstep : Bool
  /-- DBGCTL.HAZ. -/
  haz : Bool
  /-- REGNO. -/
  regno : Word
  /-- L1D lines. -/
  l1d : List L1Line
  /-- L1I lines: tensor-0 line number and bytes. -/
  l1i : FMap Data
  /-- The loop buffer: the body it serves and its words by address (R120). -/
  lbuf : FMap Word32
  /-- First and last body address the loop buffer covers. -/
  lbufSpan : Option (Nat × Nat)
  /-- Lines of the bodies of loops that have started and have still to be taken into the L1I (R120, R121). -/
  due : List Nat
  /-- The run state. -/
  run : RunState
  /-- The wait it is in. -/
  wait : Option Wait
  /-- Steps of the instruction at pc already taken. -/
  stage : Nat
  /-- Blocks returned by its requests for the instruction at pc, oldest first. -/
  resp : List (Nat × BlockW)
  /-- A response of the instruction at pc came back as a failure. -/
  failed : Bool
  /-- The access that stalled was the write-back of a line. -/
  wbStall : Bool
  /-- Words saved between steps of the instruction at pc; while a line is being fetched, its number. -/
  scratch : List Word
  /-- The instruction at pc, once it has been fetched and while it is in progress. -/
  fetched : Option Word32
  /-- Address of a write of the core that will not be made: FAULT_FAILED is due at the next boundary (R132, R407). -/
  lost : Option Word
  /-- WFE event flag (R179). -/
  event : Bool
  /-- Next ticket. -/
  ticket : Nat
  /-- Statuses of the 64 most recent tickets (R155). -/
  tickets : FMap Nat
  /-- Rows that the completed commands of those tickets skipped, where any (R153; log 83). -/
  skips : FMap Nat
  /-- BAR.T counted so far (R163). -/
  barrier : Nat
  /-- Blocks read by the page's agents since its last REGION, and how many of them the record holds (R273). -/
  regionReads : List Phys
  /-- A hazard to be taken at the next instruction boundary (R274). -/
  hazard : Option Word
  deriving DecidableEq, Repr

/-- An engine command as a restart record holds it (R172, R414). -/
structure KeptCmd where
  /-- 0 CPY, 1 GATH, 2 SCAT, 3 REDC. -/
  op : Nat
  /-- The engine field that chooses its engine again. -/
  sel : Nat
  /-- Descriptor bytes; none of an element's command whose descriptor is still to be read. -/
  bytes : List Byte
  /-- Its descriptor's address, in that case. -/
  addr : Word
  /-- Ticket, or none for an element's command. -/
  ticket : Option Nat
  /-- ELEM of the issuing element. -/
  elem : Nat
  /-- It sends a completion token to crx. -/
  crx : Bool
  deriving DecidableEq, Repr

/-- A restart record (R414). -/
structure Region where
  /-- REGNO. -/
  regno : Word
  /-- The region's first and last code offsets (R92). -/
  code : Nat × Nat
  /-- The core as it stood. -/
  core : Core
  /-- Streams: port, pending, descriptor, position. -/
  streams : List (Nat × Bool × Stream)
  /-- Engine commands that were outstanding. -/
  cmds : List KeptCmd
  /-- Element and router fields by site, each SHIM at the image's floor. -/
  fields : FMap (FMap (BitVec 12))
  /-- The snapshot of the REGION by site: accumulators, amax and status, every other part at reset (R172, R398). -/
  snaps : FMap Elem
  /-- Link number, outbound, count (R416). -/
  links : List (Nat × Bool × Nat)
  /-- The keep mask. -/
  keep : BitVec 47
  deriving DecidableEq, Repr

/-- What has happened to a page (R380). -/
inductive PageStatus where
  /-- In no truss. -/
  | free
  /-- Holds a page of a truss. -/
  | used
  /-- Being scrubbed since the given time. -/
  | scrubbing (since : Nat)
  deriving DecidableEq, Repr

/-- A page: its core, its plate, its elements and its ports (R11–R15). -/
structure Page where
  /-- In use, free or being scrubbed. -/
  status : PageStatus
  /-- The truss it holds a page of. -/
  truss : Nat
  /-- PAGEIX. -/
  ix : Nat
  /-- The control core. -/
  core : Core
  /-- Elements that differ from their reset state, by site. -/
  elems : FMap Elem
  /-- Tiles that differ from their reset state, by site·64 + tile. -/
  tiles : FMap Tile
  /-- lp0–lp3, sp0–sp3. -/
  ports : Vector Port 8
  /-- ctx queue. -/
  ctx : List Token
  /-- crx queue. -/
  crx : List Token
  /-- cmd queue. -/
  cmd : List Token
  /-- Current burst of crx. -/
  crxBurst : Burst
  /-- VALID, KIND, RANK of the token last popped (R148). -/
  lvalid : BitVec 16
  /-- LKIND. -/
  lkind : BitVec 2
  /-- LRANK. -/
  lrank : BitVec 3
  /-- Inputs that START feeds: site and input bits (R81). -/
  startPts : List (Nat × BitVec 4)
  /-- The restart record. -/
  region : Option Region
  /-- The page restarts: the REGION that its core issues next re-issues what the record holds (R415). -/
  restart : Bool
  deriving DecidableEq, Repr

/-! ### Requesters and packets -/

/-- Operations of packets (R321). -/
inductive PktOp where
  | read | write | atomic | data | aresp | ack | resend | ownernak | abandon
  | span | spanack | spanresend | move | coll
  deriving DecidableEq, Repr

/-- A packet in flight (R318, R319), with the outputs it has still to pass. -/
structure Packet where
  /-- Operation. -/
  op : PktOp
  /-- Partition (0x3F none). -/
  part : Nat
  /-- Source agent. -/
  src : AgentId
  /-- Destination agent. -/
  dst : AgentId
  /-- Sequence number. -/
  seq : BitVec 16
  /-- Tag. -/
  tag : Nat
  /-- LEN. -/
  len : Nat
  /-- CLASS. -/
  cls : Nat
  /-- TRIM. -/
  trim : Bool
  /-- The vector extension; empty when VEC is 0. -/
  vec : List (BitVec 32)
  /-- Slot, generation and byte offset of the address word. -/
  slot : Nat
  /-- Generation. -/
  gen : Nat
  /-- Byte offset of the first block. -/
  off : Nat
  /-- Where the access goes. -/
  phys : Phys
  /-- Blocks with their trailer. -/
  blocks : List BlockW
  /-- Operand or result words. -/
  words : List Word
  /-- Atomic op of R69 (9 for CAS) and width in bytes. -/
  aop : Nat
  /-- Access width in bytes. -/
  width : Nat
  /-- Index n of the write (R313). -/
  n : BitVec 32
  /-- Status carried back: 0 data, 1 VOID met, 2 POISON met. -/
  note : Nat
  /-- Switch outputs still to pass. -/
  path : List Nat
  /-- The output queue it stands in. -/
  at_ : Option Nat
  /-- It has been counted in NETBYTES. -/
  metered : Bool
  /-- A retransmission or repeated READ (R327). -/
  retry : Bool
  /-- Guest granule of an HBM4 access. -/
  guest : Nat
  /-- Destination module, where it is another (R319). -/
  dmod : Option (BitVec 12)
  /-- Source module, where it is another. -/
  smod : Option (BitVec 12)
  /-- What is wrong with its header: 0 nothing, 1 HCHK fails, 2 its OP is reserved, 3 reserved bits are set (R321). -/
  bad : Nat
  /-- The life of the requester that the request or its answer belongs to (R328). -/
  life : Nat
  deriving DecidableEq, Repr

/-- A retained copy of a WRITE or ATOMIC (R325). -/
structure Retained where
  /-- Home bay. -/
  home : Nat
  /-- Sequence number. -/
  seq : BitVec 16
  /-- The packet as first sent. -/
  pkt : Packet
  /-- Time sent (R412). -/
  sent : Nat
  /-- A RESEND asks for it, due at this time. -/
  due : Option Nat
  /-- Guest granule that refused it (R369). -/
  refused : Option Nat
  deriving DecidableEq, Repr

/-- An outstanding read or atomic of a requester's reorder window (R330). -/
structure WinEntry where
  /-- Its tag. -/
  tag : Nat
  /-- The request as first sent. -/
  pkt : Packet
  /-- Time sent. -/
  sent : Nat
  /-- The response: blocks, or words, and its note. -/
  got : Option (List BlockW × List Word × Nat)
  /-- It failed (R405). -/
  failed : Bool
  /-- A repeat is due at this time (R327). -/
  due : Option Nat
  /-- Guest granule that refused it (R369). -/
  refused : Option Nat
  /-- What writes of its bay into a block it reads have left in the block, acknowledged since it was sent: home index and
  bytes (R307). -/
  late : List (BitVec 32 × BlockW)
  /-- The bay's RDC has been invalidated since it was sent: its answer fills no line (R307, R312). -/
  stale : Bool
  deriving DecidableEq, Repr

/-- A requester (R325–R330, R314). -/
structure Requester where
  /-- How often it has been torn down (R328). -/
  life : Nat
  /-- Next sequence number toward each home. -/
  seqs : FMap (BitVec 16)
  /-- Next tag. -/
  tag : Nat
  /-- Retained copies, oldest first. -/
  kept : List Retained
  /-- The reorder window, oldest first. -/
  win : List WinEntry
  /-- The pacing wait, in cc. -/
  pace : Nat
  /-- Re-requests outstanding. -/
  rereq : Nat
  /-- Writes of the bay (home, index) that hold back writes to other homes (R314). -/
  holds : List (Nat × BitVec 32)
  /-- Writes made and not yet sent because of a hold. -/
  unsent : List Packet
  /-- Stalled by (R401). -/
  stall : Option Stall
  deriving DecidableEq, Repr

/-- A switch output (R322, R332, R333, R412). -/
structure SwitchOut where
  /-- Queues of C0, C1, C2: packet ids. -/
  queues : Vector (List Nat) 3
  /-- Deficits of C1 and C2 in bytes. -/
  deficit : Vector Nat 2
  /-- Trims made. -/
  trims : Word
  /-- Injection control N (R292, R333). -/
  inject : BitVec 16
  /-- Packets counted toward injection. -/
  injCount : Nat
  /-- Marked failed (R412). -/
  failed : Bool
  /-- Link errors. -/
  errors : Word
  /-- Replays of the packet at its head. -/
  replays : Nat
  deriving DecidableEq, Repr

/-- A remote-data-cache line (R307): a partition's block homed on another bay. -/
structure RdcLine where
  /-- Partition. -/
  part : Nat
  /-- HBM block number. -/
  block : Nat
  /-- Its bytes. -/
  data : Data
  /-- Its descriptor. -/
  desc : Desc
  /-- The descriptor is the block's: the home has returned it, or a burst of the bay has written the whole block. -/
  known : Bool
  /-- Bytes valid from the home. -/
  valid : BitVec 64
  /-- Unacknowledged writes: index and bytes. -/
  unacked : List (BitVec 32 × BitVec 64)
  deriving DecidableEq, Repr

/-- A translation-cache entry (R304). -/
structure TlbEntry where
  /-- Partition. -/
  part : Nat
  /-- View. -/
  view : Nat
  /-- Tensor slot. -/
  slot : Nat
  /-- Panel index. -/
  panel : Nat
  /-- The leaf entry. -/
  leaf : Word
  deriving DecidableEq, Repr

/-- A write or atomic waiting at or applied out of turn at a home. -/
structure Home where
  /-- A_h: largest n with every write of the bay up to n applied (R313). -/
  applied : FMap (BitVec 32)
  /-- Applied ahead of A_h: bay and index. -/
  ahead : List (Nat × BitVec 32)
  /-- Applied or abandoned sequence numbers ahead of the oldest missing one: requester and seq. -/
  seqDone : List (AgentId × BitVec 16)
  deriving DecidableEq, Repr

/-- A bay's memory side: caches, knowledge and home. -/
structure Bay where
  /-- RDC lines. -/
  rdc : List RdcLine
  /-- Translation cache. -/
  tlb : List TlbEntry
  /-- K_d,h by h·8 + e. -/
  know : FMap (BitVec 32)
  /-- Next write index toward each home. -/
  nextN : FMap (BitVec 32)
  /-- The home. -/
  home : Home
  /-- Corrected-error count. -/
  errors : Word
  deriving DecidableEq, Repr

/-! ### Engines -/

/-- An engine command in flight (R150–R156). -/
structure EngCmd where
  /-- 0 CPY, 1 GATH, 2 SCAT, 3 REDC. -/
  op : Nat
  /-- Descriptor bytes. -/
  bytes : List Byte
  /-- Partition. -/
  part : Nat
  /-- Truss. -/
  truss : Nat
  /-- View. -/
  view : Nat
  /-- Issuing page. -/
  page : Nat
  /-- Ticket, or none for an element's command. -/
  ticket : Option Nat
  /-- ELEM of the issuing element, for a COMMAND token. -/
  elem : Nat
  /-- Send a completion token to crx. -/
  crx : Bool
  /-- Status of R155. -/
  status : Nat
  /-- Element or row position reached: for CPY, GATH and SCAT how many of `order` are written. -/
  pos : Nat
  /-- Destination blocks taken so far, in the order in which the command took them (R152). -/
  order : List Nat
  /-- Rows skipped. -/
  skipped : Nat
  /-- A block was written POISON under R152. -/
  mix : Bool
  /-- Destination bytes gathered for the block being written. -/
  cur : Option BlockW
  /-- Bytes read for the position: window tags. -/
  tags : List Nat
  /-- Index words read. -/
  idx : List Word
  /-- Every write is sent and the command waits for acknowledgements. -/
  draining : Bool
  /-- Data gathered for REDC, as element values; `none` for POISON. Once combined, the results. -/
  vals : List (Option Num)
  /-- REDC: 0 reading, 1 contributed, 2 writing the results. -/
  phase : Nat
  deriving DecidableEq, Repr

/-- An engine (R7): copy 0–3, gather 4, reduce 5. -/
structure Engine where
  /-- Commands, the running one first. -/
  cmds : List EngCmd
  /-- Takes no new command until reinitialised (R424). -/
  closed : Bool
  deriving DecidableEq, Repr

/-- A reduce group's contribution (R154, R360). -/
structure Contribution where
  /-- Partition, group, round. -/
  part : Nat
  /-- Group number. -/
  group : Nat
  /-- SEQ. -/
  seq : Word
  /-- Rank. -/
  rank : Nat
  /-- P, op, COUNT, format. -/
  p : Nat
  /-- Operation. -/
  op : Nat
  /-- Elements. -/
  count : Nat
  /-- Format of the source. -/
  fmt : BitVec 8
  /-- Values in order; `none` for POISON. -/
  vals : List (Option Num)
  /-- The engine it came from, by bay·8 + engine. -/
  eng : Nat
  /-- The issuing page and ticket, to find the command. -/
  page : Nat
  /-- Ticket, or none for an element's command. -/
  ticket : Option Nat
  deriving DecidableEq, Repr

/-! ### Partitions, views, functions -/

/-- A slot of a tensor table (R296–R299). -/
structure Slot where
  /-- 0 free, 1 live, 2 dead. -/
  state : Nat
  /-- Generation. -/
  gen : BitVec 8
  /-- References held. -/
  refs : Nat
  /-- The descriptor bytes as created. -/
  bytes : List Byte
  deriving DecidableEq, Repr

/-- An outstanding page request (R402). -/
structure PageReq where
  /-- Request id. -/
  rid : Nat
  /-- Slot. -/
  slot : Nat
  /-- Generation. -/
  gen : Nat
  /-- Panel. -/
  panel : Nat
  /-- Agents of the request, each with whether its faulting access was a write. -/
  agents : List (AgentId × Bool)
  deriving DecidableEq, Repr

/-- A view (R436, R437). -/
structure View where
  /-- The enclosing view. -/
  parent : Nat
  /-- (slot, panel, private guest panel). -/
  overlay : List (Nat × Nat × Nat)
  /-- Panels being copied: slot, panel, target panel, next block. -/
  copying : List (Nat × Nat × Nat × Nat)
  /-- The launch. -/
  launch : Nat
  /-- A VIEWEXHAUST event is out. -/
  exhausted : Bool
  /-- The rival has lost: its pages still to be scrubbed before the tag is free (R436). -/
  lost : Option (List Nat)
  deriving DecidableEq, Repr

/-- A partition (R372–R376, R298, R402, R436, R445). -/
structure Partition where
  /-- It exists. -/
  live : Bool
  /-- The 64 record bytes (R372). -/
  record : List Byte
  /-- Guest granule to host granule (stack·2^15 + granule). -/
  granules : FMap Nat
  /-- TWBASE. -/
  twbase : Word
  /-- TWSLOTS. -/
  twslots : Word
  /-- Slots that are not free at generation 0. -/
  slots : FMap Slot
  /-- Views in use by tag. -/
  views : FMap View
  /-- Free panels of the view pool. -/
  pool : List Nat
  /-- Writers that wait for a panel, in the order in which they stalled: agent, view, slot, panel (R445). -/
  starved : List (AgentId × Nat × Nat × Nat)
  /-- Outstanding page requests. -/
  reqs : List PageReq
  /-- Next request id. -/
  nextRid : Nat
  /-- GEN: resets and re-creations since cold start. -/
  gen : BitVec 8
  /-- PRSTAT LATE. -/
  prLate : BitVec 32
  /-- PRSTAT BAD. -/
  prBad : BitVec 16
  /-- MOVES. -/
  moves : Word
  /-- MOVEABORT. -/
  moveabort : Word
  /-- SILLDROP. -/
  silldrop : Word
  /-- SHAVSENT. -/
  shavsent : Word
  /-- SHAVRECV. -/
  shavrecv : Word
  /-- RESENDS. -/
  resends : Word
  /-- LATE. -/
  late : Word
  /-- A partition operation waits to complete: 0 none, 2 DESTROY; 3 + 8·m UPDATE, m the bays that lose RDC slices. -/
  pending : Nat
  /-- Writes that were unacknowledged when an UPDATE took RDC slices: bay, block, index (R381). -/
  emptying : List (Nat × Nat × BitVec 32)
  /-- Panels that a commit has displaced, with the tensor slot and panel index they stood at: they return to the view pool once
  every access that used the old translation has been performed (R304, R433). -/
  displaced : List (Nat × Nat × Nat)
  deriving DecidableEq, Repr

/-- An event of an event queue (R362). -/
structure Event where
  /-- TYPE. -/
  type : Nat
  /-- INFO0. -/
  info0 : Word
  /-- INFO1. -/
  info1 : Word
  deriving DecidableEq, Repr

/-- An event ring (R362, R373): the registers, and the events held. -/
structure EventRing where
  /-- EQBASE. -/
  base : Word
  /-- EQLOG. -/
  log : Word
  /-- EQPROD. -/
  prod : Word
  /-- EQCONS. -/
  cons : Word
  /-- EQVEC. -/
  vec : Word
  /-- EQDROP. -/
  drop : Word
  /-- Events held, up to 64 (R363). -/
  held : List Event
  deriving DecidableEq, Repr

/-- MSI-X table and pending bits of 32 vectors (R343, R361). -/
structure Msix where
  /-- Message address, data and vector control by vector. -/
  table : FMap (Word × Word)
  /-- Pending bits. -/
  pending : BitVec 32
  /-- Messages sent, by vector, newest first. -/
  sent : List Nat
  deriving DecidableEq, Repr

/-- A virtual function (R343–R364, R403, R423). -/
structure VF where
  /-- Attached partition. -/
  part : Option Nat
  /-- Index in the partition, 0–3. -/
  index : Nat
  /-- QDESC. -/
  qdesc : Word
  /-- QSTAT without BADNOTE. -/
  qstat : BitVec 32
  /-- QSTAT.BADNOTE. -/
  badnote : BitVec 32
  /-- PENDBASE. -/
  pendbase : Word
  /-- Notifications kept for want of a slot, in order of arrival: queue and tail (R355). -/
  pend : List (Nat × Word)
  /-- RSTSTAT. -/
  rststat : Word
  /-- HPSEL. -/
  hpsel : Word
  /-- TWARG (R298). -/
  twarg : Word
  /-- TWSTAT (R298, R375). -/
  twstat : Word
  /-- An INVAL that has not completed: slot, first panel, panel count, and its place in order (R304, R375). -/
  twinv : Option (Nat × Nat × Nat × Nat)
  /-- The value that the last VPTAKE returned (R445). -/
  rdata : Word
  /-- The event queue. -/
  eq : EventRing
  /-- MSI-X. -/
  msix : Msix
  deriving DecidableEq, Repr

/-! ### Work -/

/-- Where an item of a queue stands. -/
inductive ItemState where
  /-- Taken from the ring, not begun. -/
  | held
  /-- Begun. -/
  | begun
  /-- Completed, its record not yet written. -/
  | done
  deriving DecidableEq, Repr

/-- An item taken from a queue (R335–R339, R348). -/
structure Item where
  /-- Item number n. -/
  n : Nat
  /-- The 64 packet bytes. -/
  bytes : List Byte
  /-- State. -/
  state : ItemState
  /-- Status code of R339. -/
  status : Nat
  /-- Failure code. -/
  code : Nat
  /-- Cancel mark. -/
  cancel : Bool
  /-- DETAIL. -/
  detail : Word
  /-- Its launch or graph, once set up. -/
  work : Nat
  /-- A resumed item's wait start. -/
  since : Nat
  deriving DecidableEq, Repr

/-- A queue (R335–R339, R345–R347, R354, R355). -/
structure Queue where
  /-- Descriptor bytes. -/
  bytes : List Byte
  /-- HEAD: items taken. -/
  head : Word
  /-- TAIL. -/
  tail : Word
  /-- STALE. -/
  stale : Word
  /-- Items taken and not yet recorded, oldest first. -/
  items : List Item
  /-- Records written. -/
  recs : Word
  /-- Stopped by a failure (R352). -/
  stopped : Bool
  /-- Holds a hardware slot. -/
  slot : Bool
  /-- Time it last began an item. -/
  lastBegin : Nat
  /-- Waiting for a slot since (R355), and whether QSTARVE has been sent. -/
  starve : Option (Nat × Bool)
  /-- Notifications that have arrived and not been applied, oldest first (R336). -/
  notes : List Word
  /-- The launch begun last and the TRUSSIX of its last truss, whose links the next FLOW launch joins (R356). -/
  lastLaunch : Option (Nat × Nat)
  /-- Place in the order in which queues began to wait for a slot (R355). -/
  arrival : Nat
  deriving DecidableEq, Repr

/-- A code section of an image (R92, R103). -/
structure Section where
  /-- PAGEIX, or 0xFFFF. -/
  index : Nat
  /-- Offset in the image. -/
  off : Nat
  /-- Bytes. -/
  size : Nat
  /-- Entry offset. -/
  aux : Nat
  deriving DecidableEq, Repr

/-- A LINKS entry (R92). -/
structure LinkEntry where
  /-- Link number. -/
  num : Nat
  /-- Outbound. -/
  out : Bool
  /-- ELEM. -/
  elem : Nat
  /-- Router field. -/
  field : Nat
  /-- Capacity. -/
  cap : Nat
  /-- Spill-ring bytes. -/
  spill : Nat
  deriving DecidableEq, Repr

/-- A PLATE record (R92). -/
structure PlateRec where
  /-- PAGEIX. -/
  page : Nat
  /-- Site. -/
  site : Nat
  /-- Tile. -/
  tile : Nat
  /-- Its blocks. -/
  blocks : FMap (Data × Desc)
  deriving DecidableEq, Repr

/-- An image as loaded (R91, R92). -/
structure Image where
  /-- H and W. -/
  h : Nat
  /-- Width. -/
  w : Nat
  /-- SIZE. -/
  size : Nat
  /-- Code sections. -/
  codes : List Section
  /-- CONFIG words. -/
  config : List Word32
  /-- PORTS: PAGEIX, port code, format. -/
  ports : List (Nat × Nat × BitVec 8)
  /-- KERFS: ELEM, field, out1. -/
  kerfs : List (Nat × Nat × Bool)
  /-- BALANCE: groups of paths of hops (ELEM, field). -/
  balance : List (List (List (Nat × Nat)))
  /-- TOKENS. -/
  tokens : List Token
  /-- LINKS. -/
  links : List LinkEntry
  /-- REGIONS: PAGEIX, number, start, end. -/
  regions : List (Nat × Nat × Nat × Nat)
  /-- PLATE. -/
  plate : List PlateRec
  /-- Offset of the DATA section. -/
  dataOff : Nat
  /-- Bytes of the DATA section. -/
  dataSize : Nat
  deriving DecidableEq, Repr

/-- An image with nothing in it. -/
def Image.blank : Image := ⟨1, 1, 0, [], [], [], [], [], [], [], [], [], 0, 0⟩

/-- A launch (R348–R353). -/
structure Launch where
  /-- LAUNCHID, TAG[59:0]. -/
  ident : BitVec 60
  /-- Partition. -/
  part : Nat
  /-- Virtual function it was submitted through. -/
  vf : Nat
  /-- Queue. -/
  queue : Nat
  /-- Item number. -/
  item : Nat
  /-- The graph it is a node of, and its node number. -/
  graph : Option (Nat × Nat)
  /-- NTRUSS. -/
  ntruss : Nat
  /-- IMAGE. -/
  image : Nat
  /-- The image. -/
  img : Image
  /-- ARGS. -/
  args : Word
  /-- CTR. -/
  ctr : Nat
  /-- JOB. -/
  job : Nat
  /-- Set up in debug mode (R349). -/
  debug : Bool
  /-- Trusses placed so far. -/
  placed : Nat
  /-- Trusses outstanding (OUTST). -/
  outst : Nat
  /-- First failure: code and DETAIL. -/
  failure : Option (Nat × Word)
  /-- Cancel mark (R24). -/
  cancel : Bool
  /-- Ends with status RESET (R426). -/
  reset : Bool
  /-- Queue priority, and rises (R26). -/
  prio : Nat
  /-- Waiting to be placed since. -/
  since : Nat
  /-- Trusses that have executed the PHASE (R359). -/
  arrived : List Nat
  /-- Its arrival at the current phase has been counted. -/
  counted : Bool
  /-- Compaction has been carried through for its next truss (R365). -/
  compacted : Bool
  /-- The launch and TRUSSIX whose outbound links its FLOW joins (R356). -/
  joins : Option (Nat × Nat)
  deriving DecidableEq, Repr

/-- What the device keeps of a job beside its block's counts: status and cancel mark, those of its current phase, and the
sends that the phase waits for (R23, R24, R331, R359). -/
structure Job where
  /-- Partition. -/
  part : Nat
  /-- Address of the job block. -/
  block : Nat
  /-- Cancel mark of the job. -/
  cancel : Bool
  /-- Status of R339 once its phases have ended. -/
  status : Option Nat
  /-- Cancel mark of the current phase. -/
  phaseCancel : Bool
  /-- Status of the phase that ended last. -/
  phaseStatus : Option Nat
  /-- Writes made before an arrival at the current phase: requester, home, sequence number. -/
  sends : List (AgentId × Nat × BitVec 16)
  deriving DecidableEq, Repr

/-- A graph (R350). -/
structure Graph where
  /-- Identifier. -/
  ident : BitVec 60
  /-- Function. -/
  vf : Nat
  /-- Queue. -/
  queue : Nat
  /-- Item. -/
  item : Nat
  /-- Partition. -/
  part : Nat
  /-- CTR. -/
  ctr : Nat
  /-- Nodes: packet bytes, PRED, JOIN, state (0 waiting, 1 begun, 2 OK, 3 not OK), launch. -/
  nodes : List (List Byte × Word × Nat × Nat × Nat)
  /-- Cancel mark. -/
  cancel : Bool
  /-- First failure of a node: code and DETAIL. -/
  failure : Option (Nat × Word)
  /-- Ends with status RESET (R426). -/
  reset : Bool
  /-- Job blocks at whose current phase the graph has arrived (R359). -/
  counted : List Nat
  deriving DecidableEq, Repr

/-- What a truss is doing. -/
inductive TrussState where
  /-- Placed; its cores run. -/
  | running
  /-- Waits in a FORKW. -/
  | forking
  /-- Being stopped by a cancel or failure: cores stop at their next kerf. -/
  | stopping
  /-- Pre-empted and saved. -/
  | saved
  /-- Gone. -/
  | ended
  deriving DecidableEq, Repr

/-- A placed truss (R20). -/
structure Truss where
  /-- Its launch. -/
  launch : Nat
  /-- TRUSSIX. -/
  ix : Nat
  /-- Height. -/
  h : Nat
  /-- Width. -/
  w : Nat
  /-- Origin page row. -/
  row : Nat
  /-- Origin page column. -/
  col : Nat
  /-- Partition. -/
  part : Nat
  /-- State. -/
  state : TrussState
  /-- Control cores not yet at END. -/
  cores : Nat
  /-- View, world index and depth (R97, R168). -/
  view : Nat
  /-- WORLD. -/
  world : Nat
  /-- WDEPTH. -/
  depth : Nat
  /-- Fork it is a rival of. -/
  fork : Option Nat
  /-- Placed or moved at. -/
  since : Nat
  /-- A move of it was abandoned at. -/
  aborted : Option Nat
  /-- A move, fork or stop request is pending (R159, R173). -/
  request : Bool
  /-- Fabric-stall watchdog count and whether it is armed (R271). -/
  stallFc : Nat
  /-- Armed. -/
  armed : Bool
  /-- Pages as saved at pre-emption (R418). -/
  saved : List Page
  /-- It has failed, or its rival has: it is torn down without waiting for its cores (R349, R442). -/
  failure : Bool
  /-- PHASE: cores arrived, by page index (R164). -/
  phaseAt : List Nat
  /-- BAR.T: how many each ended core counts for is without bound (R163); pages whose core has passed END. -/
  endedAt : List Nat
  /-- When it was last placed; moves leave it (R383). -/
  placedAt : Nat
  deriving DecidableEq, Repr

/-- A link (R21, R356, R357, R416). -/
structure Link where
  /-- Producer truss, if placed. -/
  prod : Option Nat
  /-- Consumer truss, if joined. -/
  cons : Option Nat
  /-- Link number. -/
  num : Nat
  /-- Capacity. -/
  cap : Nat
  /-- Spill ring: base and bytes. -/
  spillBase : Nat
  /-- Bytes of the ring. -/
  spillSize : Nat
  /-- Tokens held, oldest first; those below CONS − freed are kept for replay. -/
  queue : List Token
  /-- Index of the first token held. -/
  first : Nat
  /-- PROD. -/
  prodN : Nat
  /-- CONS. -/
  consN : Nat
  /-- HWM. -/
  hwm : Nat
  /-- Recorded CONS (R416). -/
  recN : Nat
  /-- Tokens or slots reserved by ROUND, at the producer and the consumer. -/
  resOut : Nat
  /-- Reserved at the consumer. -/
  resIn : Nat
  /-- Tags of the reads under way of the next token, where it lies in the ring. -/
  reads : List Nat
  /-- The bay of its spill unit. -/
  bay : Nat
  /-- Launch and TRUSSIX of the producer, to join it (R356). -/
  maker : Nat × Nat
  deriving DecidableEq, Repr

/-- An outbox entry (R171, R443). -/
structure OutboxEntry where
  /-- 0 NOTIFY, 1 CADD, 2 AMO, 3 span send, 4 CPY. -/
  kind : Nat
  /-- Operands as they stood. -/
  words : List Word
  /-- Descriptor bytes of a CPY. -/
  bytes : List Byte
  /-- The truss that deferred it. -/
  truss : Nat
  /-- The PAGEIX of the page it was deferred on. -/
  ix : Nat
  deriving DecidableEq, Repr

/-- A rival of a fork (R168–R170, R440–R443). -/
structure Rival where
  /-- Its trusses, in TRUSSIX order. -/
  trusses : List Nat
  /-- Its view tag. -/
  view : Nat
  /-- Score, once yielded. -/
  score : Option Int
  /-- Ended without a score. -/
  lost : Bool
  /-- Failure code of a rival that failed. -/
  failure : Option (Nat × Word)
  /-- CHOOSE in progress. -/
  choosing : Bool
  /-- Outbox. -/
  outbox : List OutboxEntry
  /-- The score of a WYIELD whose rival's other cores have not all stopped yet (R170). -/
  yielding : Option Int
  deriving DecidableEq, Repr

/-- A fork (R168, R432). -/
structure Fork where
  /-- Launch. -/
  launch : Nat
  /-- n. -/
  n : Nat
  /-- Rivals; empty while copies are being placed. -/
  rivals : List Rival
  /-- Time limit of the placement, in cc. -/
  deadline : Nat
  /-- The truss set that executed it, its view, depth and enclosing fork. -/
  trusses : List Nat
  /-- Parent view. -/
  view : Nat
  /-- Depth of the parent. -/
  depth : Nat
  /-- WORLD of the trusses that executed it. -/
  world : Nat
  /-- Enclosing fork. -/
  outer : Option Nat
  /-- The cores that have arrived: page, n. -/
  arrived : List (Nat × Nat)
  /-- View tags taken, rival by rival; none before every core has arrived (R436). -/
  tags : List Nat
  /-- Copies placed so far, rival by rival (R432). -/
  made : List Nat
  /-- Pages copied since the last copy was placed, and blocks sent of the next (R387, R432). -/
  copied : Nat × Nat
  deriving DecidableEq, Repr

/-- A move of a truss (R385). -/
structure Move where
  /-- The truss. -/
  truss : Nat
  /-- Destination page row. -/
  row : Nat
  /-- Destination page column. -/
  col : Nat
  /-- 0 QUIESCE, 1 COPY. -/
  state : Nat
  /-- HOLD time. -/
  since : Nat
  /-- Page indices still to copy. -/
  left : List Nat
  /-- Blocks sent of the first of them. -/
  sent : Nat
  deriving DecidableEq, Repr

/-- A compaction (R366). -/
structure Compaction where
  /-- The launch, saved truss or fork it is made for. -/
  forId : Nat
  /-- Bays of the domain. -/
  bays : List Nat
  /-- Trusses still to be settled, in order. -/
  movable : List Nat
  deriving DecidableEq, Repr

/-- A reset rung in progress (R423, R424). -/
structure Rung where
  /-- 1 QUEUE … 5 DEVICE. -/
  rung : Nat
  /-- Partition. -/
  part : Nat
  /-- Queue by vf·64 + q, launch, or bay·8 + engine. -/
  target : Nat
  /-- Pages torn down for it and still to be scrubbed. -/
  pages : List Nat
  /-- Virtual function that asked, if one did. -/
  vf : Option Nat
  /-- Begun at. -/
  since : Nat
  /-- Highest rung reached for the request. -/
  top : Nat
  /-- A rung in progress covers it: it does nothing and ends with that one (R424). -/
  absorbed : Bool
  deriving DecidableEq, Repr

/-- The start state of the module (R429, R430). -/
structure StartState where
  /-- A start is in progress: 2 warm; 3 warm, waiting for the move in COPY to reach RELEASE (R388); since. -/
  running : Option (Nat × Nat)
  /-- Consecutive warm-start failures. -/
  failures : Nat
  /-- Step that a failed start failed at, 0 for none. -/
  failing : Nat
  /-- Cold starts made. -/
  colds : Nat
  /-- The host link is open. -/
  ready : Bool
  deriving DecidableEq, Repr

/-- A seal record (R395). -/
structure SealRec where
  /-- TIME. -/
  time : Word
  /-- KIND. -/
  kind : Nat
  /-- INFO. -/
  info : Nat
  /-- PREV, 48 bytes. -/
  prev : List Byte
  /-- The meters that are not 0, by 16p + m. -/
  meters : FMap Word
  deriving DecidableEq, Repr

/-- The seal chain (R394, R395). -/
structure Seal where
  /-- Records written: INDEX of the next one. -/
  next : Nat
  /-- H of the latest record, 48 bytes. -/
  head : List Byte
  /-- The latest 4 096 records, by index. -/
  records : FMap SealRec
  /-- Time of the last interval record. -/
  since : Nat
  deriving DecidableEq, Repr

/-- An answer of the SPDM responder (R396). -/
inductive SpdmAnswer where
  /-- The measurement's value, and a signature when one was asked for. -/
  | value (bytes : List Byte) (signature : Option (List Byte))
  /-- The SPDM error for an invalid request. -/
  | invalid
  deriving DecidableEq, Repr

/-- The fuse map (R428) and stepping (R2). -/
structure Fuses where
  /-- Failed pages. -/
  pages : List Nat
  /-- Failed channels: stack·32 + channel. -/
  channels : List Nat
  /-- Page edges without channels: page·2 for its east edge, page·2 + 1 for its south edge. -/
  edges : List Nat
  /-- Failed bays. -/
  bays : List Nat
  /-- 0 A1, 1 B0. -/
  stepping : Nat
  deriving DecidableEq, Repr

/-- The physical function (R373, R368, R419). -/
structure PF where
  /-- PDESC. -/
  pdesc : Word
  /-- PARG. -/
  parg : Word
  /-- PSTAT. -/
  pstat : Word
  /-- SEALPER. -/
  sealper : Word
  /-- SEALSEL. -/
  sealsel : Word
  /-- SEALOFF. -/
  sealoff : Word
  /-- SAVEPOOL. -/
  savepool : Word
  /-- Event ring. -/
  eq : EventRing
  /-- MSI-X of the physical function. -/
  msix : Msix
  /-- HOPINJ. -/
  hopinj : Word
  /-- Injected tokens that wait for a free slot of their hop: page, site, field, token (R368). -/
  injWait : List (Nat × Nat × Nat × Token)
  /-- Host granules of the save pool (R419). -/
  pool : List Nat
  /-- The module is in debug mode (R333, R368). -/
  debug : Bool
  deriving DecidableEq, Repr

/-- Errors the outside world causes (R409 to R412, R430). -/
inductive Upset where
  /-- An uncorrectable error in an HBM4 block that an access of an agent detects. -/
  | memory (block : Nat) (by_ : AgentId)
  /-- In a block of a plate tile. -/
  | tile (p site tile blk : Nat)
  /-- In the data of the token at the head of a hop. -/
  | token (p e hop : Nat) (bits : Data)
  /-- In VALID, KIND or RANK of the token at the head of a hop. -/
  | control (p e hop : Nat)
  /-- In the 8 bytes of an L1D line with number `word`: clean or dirty bytes. -/
  | l1d (p line view word : Nat)
  /-- In a line of a core's L1I, or of the words of it that the loop buffer holds. -/
  | code (p line : Nat)
  /-- In an RDC line, which an access of an agent detects. -/
  | rdc (b part block : Nat) (by_ : AgentId)
  /-- In the header of a packet in flight, whose HCHK then fails (R319, R321). -/
  | header (k : Nat)
  /-- In a core's registers. -/
  | core (p : Nat)
  /-- In an element's or router's state. -/
  | elem (p e : Nat)
  /-- In a step of the warm start in progress (R430). -/
  | warmStep
  /-- Units fail for good: pages, HBM4 channels, page edges without lanes, bays, numbered as in the fuse map (R428). -/
  | wear (pages channels edges bays : List Nat)
  /-- A cold start whose step reports an error (R430). -/
  | coldStep (step : Nat)
  deriving DecidableEq, Repr

/-- Who moves next (log 1). -/
inductive Turn where
  /-- The core of a page issues. -/
  | core (p : Nat)
  /-- A step of another agent. -/
  | event (i : Instr)
  /-- `cc` cycles pass. -/
  | tick (cc : Nat)
  /-- An L1D line of a core is evicted. -/
  | evict (p line view : Nat)
  /-- A line of a core's L1I is evicted (R15). -/
  | dropL1i (p line : Nat)
  /-- A translation of a bay is dropped. -/
  | dropTlb (b part view slot panel : Nat)
  /-- A clean RDC line of a bay is dropped. -/
  | dropRdc (b part block : Nat)
  /-- An error strikes. -/
  | upset (u : Upset)
  /-- The host writes its memory. -/
  | hostWrite (addr : Nat) (bytes : List Byte)
  /-- A packet comes to a switch from outside: over a span link, from a unit whose packets the spec does not lay down, or
  one that no agent forms (R319 to R321; log 111). -/
  | arrive (k : Packet)
  /-- A contribution to a reduce group comes from another module (R360). -/
  | contribute (c : Contribution)
  deriving DecidableEq, Repr

/-! ### The module -/

/-- An RY-L48 module. -/
structure State where
  /-- cc since power-on; CYCLE counts from `cycle0`. -/
  now : Nat
  /-- Value of `now` at the last cold or warm start. -/
  cycle0 : Nat
  /-- Memory. -/
  mem : Memory
  /-- Owner tables: stack·32 + channel to granule to partition; absent is none, 0x3F (R378). -/
  owners : FMap (FMap Nat)
  /-- Channels that have still to carry out a GRANT: partition, guest granule, host granule, channel (R376). -/
  grants : List (Nat × Nat × Nat × Nat)
  /-- Pages that differ from their reset state. -/
  pages : FMap Page
  /-- Bays that differ from their reset state. -/
  bays : FMap Bay
  /-- Engines by bay·8 + engine. -/
  engines : FMap Engine
  /-- Requesters by agent. -/
  reqs : List (AgentId × Requester)
  /-- Packets in flight by id. -/
  packets : FMap Packet
  /-- Switch outputs, by number, that differ from their reset state. -/
  outs : FMap SwitchOut
  /-- SPAN messages retained, by span port (R325). -/
  spans : FMap (List Retained)
  /-- Contributions held (R360). -/
  groups : List Contribution
  /-- Reduce groups that have failed: partition, group, round, and how many participants have still to be told (R360). -/
  deadGroups : List (Nat × Nat × Word × Nat)
  /-- Partitions by number. -/
  parts : FMap Partition
  /-- Virtual functions by number. -/
  vfs : FMap VF
  /-- The physical function. -/
  pf : PF
  /-- Queues by vf·64 + q. -/
  queues : FMap Queue
  /-- Round-robin positions: of each priority, the queue served last (R26, R352). -/
  served : Vector Nat 4
  /-- Jobs that items have named (R23, R358). -/
  jobs : List Job
  /-- Launches. -/
  launches : FMap Launch
  /-- Graphs. -/
  graphs : FMap Graph
  /-- Trusses. -/
  trusses : FMap Truss
  /-- Links. -/
  links : FMap Link
  /-- Forks. -/
  forks : FMap Fork
  /-- The move in progress. -/
  move : Option Move
  /-- The compaction in progress (R366). -/
  compact : Option Compaction
  /-- Reset rungs in progress. -/
  rungs : List Rung
  /-- Start state. -/
  start : StartState
  /-- Fuse map and stepping. -/
  fuses : Fuses
  /-- Units found failed since the last cold start, by which its repair extends the fuse map (R428). -/
  worn : Fuses
  /-- Meters by 16p + m (R393). -/
  meters : FMap Word
  /-- The seal chain. -/
  chain : Seal
  /-- SILLDROP count of free pages (R390). -/
  freeSill : Word
  /-- SPDM answers given, newest first. -/
  spdm : List SpdmAnswer
  /-- The model's own: who moves next (log 1). -/
  turns : List Turn
  /-- The model's own: the page whose core the instruction acts for (log 1). -/
  cur : Nat
  /-- The model's own: free values used (log 2). -/
  freeCount : Nat
  /-- The model's own: next identifier of a packet, launch, graph, truss, link or fork (log 1). -/
  fresh : Nat
  deriving DecidableEq, Repr

/-! ### Reset values -/

/-- A burst as at placement: INT32, 0x7F, 64 tokens (R262). -/
def Burst.reset : Burst := ⟨0x04#8, 0x7F#8, 63, 64, false⟩

/-- An element and router at its reset state (R262, R380). -/
def Elem.reset : Elem where
  cfg := []
  faulted := false
  judging := []
  closed := false
  status := 0
  amax := 0
  fire := 0
  stall := 0
  starve := 0
  ins := Vector.replicate 4 Burst.reset
  modeSw := none
  acc := []
  accInt := false
  run := []
  held := []
  held2 := []
  cnt := []
  words := []
  table := []
  annc := Vector.replicate 2 none
  q0 := []
  q1 := []
  cRows := []
  mem := []
  memRef := 0
  hops := []
  seam := []
  floors := []
  parked := []
  merge := 0
  carry := 0
  mitreBurst := Burst.reset
  mitreIn := []
  mitreOut := []

/-- A tile at its reset state: EMPTY, zero data, descriptor 0x7F00 (R380). -/
def Tile.reset : Tile := ⟨0, []⟩

/-- A port with no stream. -/
def Port.reset : Port where
  queue := []
  act := none
  pend := none
  count := 0
  sticky := 0
  discard := false
  burst := none
  bound := none
  hot := []
  untracked := 0
  failNext := false
  rest := []
  buf := []
  bufOff := 0
  owed := []

/-- An inactive loop (R96). -/
def Loop.reset : Loop := ⟨false, 0, 0, 0, 0⟩

/-- A core as the scrub leaves it (R380). -/
def Core.reset : Core where
  regs := Vector.replicate 32 0
  taint := 0
  pc := 0
  loops := Vector.replicate 3 Loop.reset
  dz := false
  disc := false
  tvec := 0
  tcause := 0
  tpc := 0
  tval := 0
  inh := false
  sstep := false
  haz := false
  regno := 0
  l1d := []
  l1i := []
  lbuf := []
  lbufSpan := none
  due := []
  run := .idle
  wait := none
  stage := 0
  resp := []
  failed := false
  wbStall := false
  scratch := []
  fetched := none
  lost := none
  event := false
  ticket := 1
  tickets := []
  skips := []
  barrier := 0
  regionReads := []
  hazard := none

/-- A page as the scrub leaves it (R380). -/
def Page.reset : Page where
  status := .free
  truss := 0
  ix := 0
  core := Core.reset
  elems := []
  tiles := []
  ports := Vector.replicate 8 Port.reset
  ctx := []
  crx := []
  cmd := []
  crxBurst := Burst.reset
  lvalid := 0
  lkind := 0
  lrank := 0
  startPts := []
  region := none
  restart := false

/-- A requester that has sent nothing. -/
def Requester.reset : Requester where
  life := 0
  seqs := []
  tag := 0
  kept := []
  win := []
  pace := 64
  rereq := 0
  holds := []
  unsent := []
  stall := none

/-- A switch output with empty queues. -/
def SwitchOut.reset : SwitchOut where
  queues := Vector.replicate 3 []
  deficit := Vector.replicate 2 0
  trims := 0
  inject := 0
  injCount := 0
  failed := false
  errors := 0
  replays := 0

/-- A home that has applied nothing. -/
def Home.reset : Home := ⟨[], [], []⟩

/-- A bay that holds nothing. -/
def Bay.reset : Bay := ⟨[], [], [], [], Home.reset, 0⟩

/-- An idle engine. -/
def Engine.reset : Engine := ⟨[], false⟩

/-- A partition that does not exist. -/
def Partition.reset : Partition where
  live := false
  record := List.replicate 64 0
  granules := []
  twbase := 0
  twslots := 0
  slots := []
  views := []
  pool := []
  starved := []
  reqs := []
  nextRid := 1
  gen := 0
  prLate := 0
  prBad := 0
  moves := 0
  moveabort := 0
  silldrop := 0
  shavsent := 0
  shavrecv := 0
  resends := 0
  late := 0
  pending := 0
  emptying := []
  displaced := []

/-- An event ring at reset (R362). -/
def EventRing.reset : EventRing := ⟨0, 0, 0, 0, 0, 0, []⟩

/-- An MSI-X table at reset (log 4). -/
def Msix.reset : Msix := ⟨[], 0, []⟩

/-- A virtual function at reset (R343–R364). -/
def VF.reset : VF where
  part := none
  index := 0
  qdesc := 0
  qstat := 0
  badnote := 0
  pendbase := 0
  pend := []
  rststat := 0
  hpsel := 0
  twarg := 0
  twstat := 0
  twinv := none
  rdata := 0
  eq := EventRing.reset
  msix := Msix.reset

/-- The physical function at reset (R373; log 4). -/
def PF.reset : PF where
  pdesc := 0
  parg := 0
  pstat := 0
  sealper := 1000
  sealsel := 0
  sealoff := 0
  savepool := 0
  eq := EventRing.reset
  msix := Msix.reset
  hopinj := 0
  injWait := []
  pool := []
  debug := false

/-- The chain after the module's first cold start: record 0 of KIND 1, whose hash is the head (R394). -/
def Seal.reset : Seal where
  next := 1
  head := [0xF1, 0x87, 0x11, 0xFC, 0x69, 0xFC, 0xBC, 0xAE, 0xE1, 0x59, 0x91, 0x36, 0x8C, 0x9B, 0x28,
    0xF6, 0xE7, 0xF0, 0x19, 0xB8, 0xFD, 0x80, 0xF8, 0x6C, 0xA6, 0xC8, 0x8E, 0x5D, 0x6F, 0xCE,
    0x54, 0x97, 0xE2, 0xB3, 0x45, 0x20, 0x25, 0x05, 0x85, 0xB4, 0x70, 0xDF, 0xA5, 0xDC, 0x98,
    0x60, 0xDB, 0xE4]
  records := [(0, ⟨0, 1, 0, List.replicate 48 0, []⟩)]
  since := 0

/-- The module right after its first cold start (R429): no partition, no page in use, nothing placed. -/
def State.reset : State where
  now := 0
  cycle0 := 0
  mem := ⟨[], [], [], []⟩
  owners := []
  grants := []
  pages := []
  bays := []
  engines := []
  reqs := []
  packets := []
  outs := []
  spans := []
  groups := []
  deadGroups := []
  parts := []
  vfs := []
  pf := PF.reset
  queues := []
  served := Vector.replicate 4 0
  jobs := []
  launches := []
  graphs := []
  trusses := []
  links := []
  forks := []
  move := none
  compact := none
  rungs := []
  start := ⟨none, 0, 0, 1, true⟩
  fuses := ⟨[], [], [], [], 1⟩
  worn := ⟨[], [], [], [], 1⟩
  meters := []
  chain := Seal.reset
  freeSill := 0
  spdm := []
  turns := []
  cur := 0
  freeCount := 0
  fresh := 1

/-- Why the machine stops. -/
inductive Fault where
  /-- A turn has the host write past the 64-bit bus address space, which does not exist (R303). Raised by
  `step`; safe: no real host access has such an address. -/
  | hostAddress (addr : Nat)
  deriving DecidableEq, Repr

/-- Why the model gives a step no meaning. -/
inductive Refusal where
  /-- The instruction has no meaning in the model yet; raised by `exec`; safe: the run stops. -/
  | notModelled (mnemonic : String)
  deriving DecidableEq, Repr

end Sys2Proof.Machine
end

