-- ==== Sys2Proof/Decode.lean ====
section
/-! DEFINITION. Decoding and encoding of control-core words, from the tables of R63 to R72.

A word whose fixed bits do not match any row is rejected by name (R65); the checks on the values of a
row's own fields (scope, lc, port, size, limits) are `Instr.wf`, and the meaning of an instruction that
breaks one takes the ILLEGAL trap. -/

namespace Sys2Proof

/-- Why a word is no instruction (R65). -/
inductive DecodeError where
  /-- The word is all zeros. -/
  | zeroWord
  /-- Its opcode is 0x7F. -/
  | opcode7F
  /-- Its opcode is unassigned in R66 to R72. -/
  | unassigned (op : Nat)
  /-- Its fn value is unlisted, or a bit that must be 0 is set. -/
  | unlisted (op : Nat)
  deriving DecidableEq, Repr

/-- Bits [lo+n-1:lo] of a word. -/
def fld (w lo n : Nat) : Nat := w / 2 ^ lo % 2 ^ n

/-- The register number at bit `lo` (R63). -/
def regAt (w lo : Nat) : Reg := Fin.ofNat 32 (w / 2 ^ lo)

/-- An `n`-bit field at bit `lo`. -/
def bitsAt (w lo n : Nat) : BitVec n := BitVec.ofNat n (w / 2 ^ lo)

/-- The rows of one major opcode, tried by their fixed bits below the opcode. -/
def decodeFields (op w : Nat) : Except DecodeError Instr :=
  match op with
  | 0x01 =>
    if fld w 0 10 = 0 then .ok (.add (regAt w 20) (regAt w 15) (regAt w 10)) else
    if fld w 0 10 = 1 then .ok (.sub (regAt w 20) (regAt w 15) (regAt w 10)) else
    if fld w 0 10 = 2 then .ok (.mul (regAt w 20) (regAt w 15) (regAt w 10)) else
    if fld w 0 10 = 3 then .ok (.mulh (regAt w 20) (regAt w 15) (regAt w 10)) else
    if fld w 0 10 = 4 then .ok (.mulhu (regAt w 20) (regAt w 15) (regAt w 10)) else
    if fld w 0 10 = 5 then .ok (.div (regAt w 20) (regAt w 15) (regAt w 10)) else
    if fld w 0 10 = 6 then .ok (.divu (regAt w 20) (regAt w 15) (regAt w 10)) else
    if fld w 0 10 = 7 then .ok (.rem (regAt w 20) (regAt w 15) (regAt w 10)) else
    if fld w 0 10 = 8 then .ok (.remu (regAt w 20) (regAt w 15) (regAt w 10)) else
    .error (.unlisted op)
  | 0x02 =>
    if fld w 0 10 = 0 then .ok (.and (regAt w 20) (regAt w 15) (regAt w 10)) else
    if fld w 0 10 = 1 then .ok (.or (regAt w 20) (regAt w 15) (regAt w 10)) else
    if fld w 0 10 = 2 then .ok (.xor (regAt w 20) (regAt w 15) (regAt w 10)) else
    if fld w 0 10 = 3 then .ok (.andn (regAt w 20) (regAt w 15) (regAt w 10)) else
    if fld w 0 10 = 4 then .ok (.shl (regAt w 20) (regAt w 15) (regAt w 10)) else
    if fld w 0 10 = 5 then .ok (.shr (regAt w 20) (regAt w 15) (regAt w 10)) else
    if fld w 0 10 = 6 then .ok (.sra (regAt w 20) (regAt w 15) (regAt w 10)) else
    if fld w 0 10 = 7 then .ok (.ror (regAt w 20) (regAt w 15) (regAt w 10)) else
    if fld w 0 15 = 8 then .ok (.clz (regAt w 20) (regAt w 15)) else
    if fld w 0 15 = 9 then .ok (.ctz (regAt w 20) (regAt w 15)) else
    if fld w 0 15 = 10 then .ok (.popc (regAt w 20) (regAt w 15)) else
    if fld w 0 20 = 11 then .ok (.untaint (regAt w 20)) else
    .error (.unlisted op)
  | 0x03 =>
    if fld w 0 10 = 0 then .ok (.min (regAt w 20) (regAt w 15) (regAt w 10)) else
    if fld w 0 10 = 1 then .ok (.max (regAt w 20) (regAt w 15) (regAt w 10)) else
    if fld w 0 10 = 2 then .ok (.minu (regAt w 20) (regAt w 15) (regAt w 10)) else
    if fld w 0 10 = 3 then .ok (.maxu (regAt w 20) (regAt w 15) (regAt w 10)) else
    if fld w 0 10 = 4 then .ok (.seq (regAt w 20) (regAt w 15) (regAt w 10)) else
    if fld w 0 10 = 5 then .ok (.slt (regAt w 20) (regAt w 15) (regAt w 10)) else
    if fld w 0 10 = 6 then .ok (.sltu (regAt w 20) (regAt w 15) (regAt w 10)) else
    if fld w 0 5 = 7 then .ok (.sel (regAt w 20) (regAt w 15) (regAt w 10) (regAt w 5)) else
    .error (.unlisted op)
  | 0x04 =>
    .ok (.addi (regAt w 20) (regAt w 15) (bitsAt w 0 15))
  | 0x05 =>
    .ok (.andi (regAt w 20) (regAt w 15) (bitsAt w 0 15))
  | 0x06 =>
    .ok (.ori (regAt w 20) (regAt w 15) (bitsAt w 0 15))
  | 0x07 =>
    .ok (.xori (regAt w 20) (regAt w 15) (bitsAt w 0 15))
  | 0x08 =>
    if fld w 6 9 = 0 then .ok (.shli (regAt w 20) (regAt w 15) (bitsAt w 0 6)) else
    .error (.unlisted op)
  | 0x09 =>
    if fld w 6 9 = 0 then .ok (.shri (regAt w 20) (regAt w 15) (bitsAt w 0 6)) else
    .error (.unlisted op)
  | 0x0A =>
    if fld w 6 9 = 0 then .ok (.srai (regAt w 20) (regAt w 15) (bitsAt w 0 6)) else
    .error (.unlisted op)
  | 0x0B =>
    .ok (.slti (regAt w 20) (regAt w 15) (bitsAt w 0 15))
  | 0x0C =>
    if fld w 12 3 = 0 then .ok (.bfx (regAt w 20) (regAt w 15) (bitsAt w 6 6) (bitsAt w 0 6)) else
    .error (.unlisted op)
  | 0x0D =>
    if fld w 12 3 = 0 then .ok (.bfi (regAt w 20) (regAt w 15) (bitsAt w 6 6) (bitsAt w 0 6)) else
    .error (.unlisted op)
  | 0x0E =>
    .ok (.li (regAt w 20) (bitsAt w 0 20))
  | 0x0F =>
    .ok (.lih (regAt w 20) (bitsAt w 0 20))
  | 0x10 =>
    .ok (.beq (regAt w 20) (regAt w 15) (bitsAt w 0 15))
  | 0x11 =>
    .ok (.bne (regAt w 20) (regAt w 15) (bitsAt w 0 15))
  | 0x12 =>
    .ok (.blt (regAt w 20) (regAt w 15) (bitsAt w 0 15))
  | 0x13 =>
    .ok (.bge (regAt w 20) (regAt w 15) (bitsAt w 0 15))
  | 0x14 =>
    .ok (.bltu (regAt w 20) (regAt w 15) (bitsAt w 0 15))
  | 0x15 =>
    .ok (.bgeu (regAt w 20) (regAt w 15) (bitsAt w 0 15))
  | 0x16 =>
    .ok (.j (bitsAt w 0 25))
  | 0x17 =>
    .ok (.jal (bitsAt w 0 25))
  | 0x18 =>
    if fld w 0 15 = 0 ∧ fld w 20 5 = 0 then .ok (.jr (regAt w 15)) else
    .error (.unlisted op)
  | 0x19 =>
    if fld w 0 15 = 0 then .ok (.jalr (regAt w 20) (regAt w 15)) else
    .error (.unlisted op)
  | 0x1A =>
    if fld w 0 10 = 0 then .ok (.loop (bitsAt w 23 2) (regAt w 18) (bitsAt w 10 8)) else
    .error (.unlisted op)
  | 0x1B =>
    if fld w 18 5 = 0 then .ok (.loopi (bitsAt w 23 2) (bitsAt w 10 8) (bitsAt w 0 10)) else
    .error (.unlisted op)
  | 0x1C =>
    if fld w 0 23 = 0 then .ok (.lbrk (bitsAt w 23 2)) else
    .error (.unlisted op)
  | 0x1D =>
    if fld w 0 25 = 0 then .ok .endCore else
    .error (.unlisted op)
  | 0x20 =>
    .ok (.ldB (regAt w 20) (regAt w 15) (bitsAt w 0 15))
  | 0x21 =>
    .ok (.ldH (regAt w 20) (regAt w 15) (bitsAt w 0 15))
  | 0x22 =>
    .ok (.ldW (regAt w 20) (regAt w 15) (bitsAt w 0 15))
  | 0x23 =>
    .ok (.ldD (regAt w 20) (regAt w 15) (bitsAt w 0 15))
  | 0x24 =>
    .ok (.ldBs (regAt w 20) (regAt w 15) (bitsAt w 0 15))
  | 0x25 =>
    .ok (.ldHs (regAt w 20) (regAt w 15) (bitsAt w 0 15))
  | 0x26 =>
    .ok (.ldWs (regAt w 20) (regAt w 15) (bitsAt w 0 15))
  | 0x27 =>
    .ok (.ldcD (regAt w 20) (regAt w 15) (bitsAt w 0 15))
  | 0x28 =>
    .ok (.stB (regAt w 20) (regAt w 15) (bitsAt w 0 15))
  | 0x29 =>
    .ok (.stH (regAt w 20) (regAt w 15) (bitsAt w 0 15))
  | 0x2A =>
    .ok (.stW (regAt w 20) (regAt w 15) (bitsAt w 0 15))
  | 0x2B =>
    .ok (.stD (regAt w 20) (regAt w 15) (bitsAt w 0 15))
  | 0x2C =>
    if fld w 5 5 = 0 then .ok (.ldx (regAt w 20) (regAt w 15) (regAt w 10) (bitsAt w 3 2) (bitsAt w 0 3)) else
    .error (.unlisted op)
  | 0x2D =>
    if fld w 2 1 = 0 ∧ fld w 5 5 = 0 then .ok (.stx (regAt w 20) (regAt w 15) (regAt w 10) (bitsAt w 3 2) (bitsAt w 0 2)) else
    .error (.unlisted op)
  | 0x2E =>
    .ok (.prdD (regAt w 20) (regAt w 15) (bitsAt w 0 15))
  | 0x2F =>
    .ok (.pwrD (regAt w 20) (regAt w 15) (bitsAt w 0 15))
  | 0x30 =>
    if fld w 6 4 = 0 then .ok (.amoW (regAt w 20) (regAt w 15) (regAt w 10) (bitsAt w 4 2) (bitsAt w 0 4)) else
    .error (.unlisted op)
  | 0x31 =>
    if fld w 6 4 = 0 then .ok (.amoD (regAt w 20) (regAt w 15) (regAt w 10) (bitsAt w 4 2) (bitsAt w 0 4)) else
    .error (.unlisted op)
  | 0x32 =>
    if fld w 0 4 = 0 ∧ fld w 6 4 = 0 then .ok (.casW (regAt w 20) (regAt w 15) (regAt w 10) (bitsAt w 4 2)) else
    .error (.unlisted op)
  | 0x33 =>
    if fld w 0 4 = 0 ∧ fld w 6 4 = 0 then .ok (.casD (regAt w 20) (regAt w 15) (regAt w 10) (bitsAt w 4 2)) else
    .error (.unlisted op)
  | 0x34 =>
    if fld w 0 25 = 0 then .ok .fence else
    .error (.unlisted op)
  | 0x35 =>
    if fld w 0 4 = 0 ∧ fld w 6 19 = 0 then .ok (.rel (bitsAt w 4 2)) else
    if fld w 0 4 = 1 ∧ fld w 6 19 = 0 then .ok (.acq (bitsAt w 4 2)) else
    if fld w 0 4 = 2 ∧ fld w 6 4 = 0 ∧ fld w 20 5 = 0 then .ok (.wbr (regAt w 15) (regAt w 10) (bitsAt w 4 2)) else
    if fld w 0 4 = 3 ∧ fld w 6 4 = 0 ∧ fld w 20 5 = 0 then .ok (.invr (regAt w 15) (regAt w 10) (bitsAt w 4 2)) else
    if fld w 0 4 = 4 ∧ fld w 6 4 = 0 ∧ fld w 20 5 = 0 then .ok (.flr (regAt w 15) (regAt w 10) (bitsAt w 4 2)) else
    if fld w 0 4 = 5 ∧ fld w 6 4 = 0 ∧ fld w 20 5 = 0 then .ok (.icinv (regAt w 15) (regAt w 10) (bitsAt w 4 2)) else
    .error (.unlisted op)
  | 0x40 =>
    if fld w 0 15 = 0 then .ok (.tstat (regAt w 20) (regAt w 15)) else
    if fld w 0 15 = 1 ∧ fld w 20 5 = 0 then .ok (.tgive (regAt w 15)) else
    if fld w 0 15 = 2 ∧ fld w 20 5 = 0 then .ok (.ttake (regAt w 15)) else
    if fld w 0 15 = 3 ∧ fld w 20 5 = 0 then .ok (.tempty (regAt w 15)) else
    if fld w 0 8 = 4 ∧ fld w 10 5 = 0 ∧ fld w 20 5 = 0 then .ok (.twait (regAt w 15) (bitsAt w 8 2)) else
    .error (.unlisted op)
  | 0x41 =>
    if fld w 0 4 = 0 ∧ fld w 6 9 = 0 ∧ fld w 20 5 = 0 then .ok (.sld (regAt w 15) (bitsAt w 4 2)) else
    .error (.unlisted op)
  | 0x42 =>
    if fld w 0 4 = 0 ∧ fld w 6 9 = 1 ∧ fld w 20 5 = 0 then .ok (.sst (regAt w 15) (bitsAt w 4 2)) else
    .error (.unlisted op)
  | 0x43 =>
    if fld w 0 4 = 0 ∧ fld w 7 18 = 0 then .ok (.sstop (bitsAt w 4 3)) else
    .error (.unlisted op)
  | 0x44 =>
    if fld w 0 4 = 0 ∧ fld w 7 18 = 0 then .ok (.swait (bitsAt w 4 3)) else
    .error (.unlisted op)
  | 0x45 =>
    if fld w 0 4 = 0 ∧ fld w 10 10 = 0 then .ok (.sstat (regAt w 20) (bitsAt w 4 6)) else
    .error (.unlisted op)
  | 0x46 =>
    if fld w 3 7 = 16 ∧ fld w 20 5 = 0 then .ok (.spush (regAt w 15) (regAt w 10) (bitsAt w 0 3)) else
    .error (.unlisted op)
  | 0x47 =>
    if fld w 0 20 = 144 then .ok (.spop (regAt w 20)) else
    .error (.unlisted op)
  | 0x50 =>
    if fld w 0 4 = 0 ∧ fld w 10 5 = 0 then .ok (.cpy (regAt w 20) (regAt w 15) (bitsAt w 4 6)) else
    .error (.unlisted op)
  | 0x51 =>
    if fld w 0 15 = 0 then .ok (.gath (regAt w 20) (regAt w 15)) else
    .error (.unlisted op)
  | 0x52 =>
    if fld w 0 15 = 0 then .ok (.scat (regAt w 20) (regAt w 15)) else
    .error (.unlisted op)
  | 0x53 =>
    if fld w 0 15 = 0 then .ok (.redc (regAt w 20) (regAt w 15)) else
    .error (.unlisted op)
  | 0x54 =>
    if fld w 0 15 = 0 ∧ fld w 20 5 = 0 then .ok (.ewait (regAt w 15)) else
    .error (.unlisted op)
  | 0x55 =>
    if fld w 0 15 = 0 then .ok (.epoll (regAt w 20) (regAt w 15)) else
    .error (.unlisted op)
  | 0x56 =>
    if fld w 0 10 = 0 ∧ fld w 20 5 = 0 then .ok (.cfg (regAt w 15) (regAt w 10)) else
    .error (.unlisted op)
  | 0x57 =>
    if fld w 0 25 = 0 then .ok .start else
    .error (.unlisted op)
  | 0x58 =>
    if fld w 0 25 = 0 then .ok .kerf else
    .error (.unlisted op)
  | 0x59 =>
    if fld w 2 13 = 0 then .ok (.erd (regAt w 20) (regAt w 15) (bitsAt w 0 2)) else
    .error (.unlisted op)
  | 0x5A =>
    if fld w 0 15 = 0 ∧ fld w 20 5 = 0 then .ok (.round (regAt w 15)) else
    .error (.unlisted op)
  | 0x5B =>
    if fld w 0 15 = 0 then .ok (.lstat (regAt w 20) (regAt w 15)) else
    .error (.unlisted op)
  | 0x60 =>
    if fld w 0 25 = 0 then .ok .barT else
    .error (.unlisted op)
  | 0x61 =>
    if fld w 0 15 = 0 ∧ fld w 20 5 = 0 then .ok (.phase (regAt w 15)) else
    .error (.unlisted op)
  | 0x62 =>
    if fld w 0 10 = 0 ∧ fld w 20 5 = 0 then .ok (.cwait (regAt w 15) (regAt w 10)) else
    .error (.unlisted op)
  | 0x63 =>
    if fld w 0 10 = 0 ∧ fld w 20 5 = 0 then .ok (.cadd (regAt w 15) (regAt w 10)) else
    .error (.unlisted op)
  | 0x64 =>
    if fld w 0 10 = 0 ∧ fld w 20 5 = 0 then .ok (.notify (regAt w 15) (regAt w 10)) else
    .error (.unlisted op)
  | 0x65 =>
    if fld w 0 15 = 0 ∧ fld w 20 5 = 0 then .ok (.cancel (regAt w 15)) else
    .error (.unlisted op)
  | 0x66 =>
    .ok (.forkw (regAt w 20) (regAt w 15) (bitsAt w 0 15))
  | 0x67 =>
    if fld w 0 25 = 0 then .ok .choose else
    .error (.unlisted op)
  | 0x68 =>
    if fld w 0 15 = 0 ∧ fld w 20 5 = 0 then .ok (.wyield (regAt w 15)) else
    .error (.unlisted op)
  | 0x69 =>
    if fld w 0 15 = 0 ∧ fld w 20 5 = 0 then .ok (.region (regAt w 15)) else
    .error (.unlisted op)
  | 0x70 =>
    if fld w 15 10 = 0 then .ok (.trap (bitsAt w 0 15)) else
    .error (.unlisted op)
  | 0x71 =>
    if fld w 0 25 = 0 then .ok .eret else
    .error (.unlisted op)
  | 0x72 =>
    if fld w 12 8 = 0 then .ok (.mfs (regAt w 20) (bitsAt w 0 12)) else
    .error (.unlisted op)
  | 0x73 =>
    if fld w 12 3 = 0 ∧ fld w 20 5 = 0 then .ok (.mts (regAt w 15) (bitsAt w 0 12)) else
    .error (.unlisted op)
  | 0x74 =>
    if fld w 0 25 = 0 then .ok .wfe else
    .error (.unlisted op)
  | 0x75 =>
    if fld w 15 10 = 0 then .ok (.brk (bitsAt w 0 15)) else
    .error (.unlisted op)
  | _ => .error (.unassigned op)

/-- The instruction a word encodes, or why it encodes none (R65). -/
def decode (w : Word32) : Except DecodeError Instr :=
  if w.toNat = 0 then .error .zeroWord
  else if fld w.toNat 25 7 = 0x7F then .error .opcode7F
  else decodeFields (fld w.toNat 25 7) w.toNat

/-- A word of a base with fields at bits 20, 15, 10 and below (R63). -/
def word (base f20 f15 f10 low : Nat) : Word32 :=
  BitVec.ofNat 32 (base + f20 * 2 ^ 20 + f15 * 2 ^ 15 + f10 * 2 ^ 10 + low)

/-- A word of form L (R63). -/
def wordL (base lc a len cnt : Nat) : Word32 :=
  BitVec.ofNat 32 (base + lc * 2 ^ 23 + a * 2 ^ 18 + len * 2 ^ 10 + cnt)

/-- The word of an instruction (R63 to R72): `none` for a step that no word encodes. -/
def encode : Instr → Option Word32
  | .add d a b => some (word 0x02000000 d.val a.val b.val 0)
  | .sub d a b => some (word 0x02000001 d.val a.val b.val 0)
  | .mul d a b => some (word 0x02000002 d.val a.val b.val 0)
  | .mulh d a b => some (word 0x02000003 d.val a.val b.val 0)
  | .mulhu d a b => some (word 0x02000004 d.val a.val b.val 0)
  | .div d a b => some (word 0x02000005 d.val a.val b.val 0)
  | .divu d a b => some (word 0x02000006 d.val a.val b.val 0)
  | .rem d a b => some (word 0x02000007 d.val a.val b.val 0)
  | .remu d a b => some (word 0x02000008 d.val a.val b.val 0)
  | .and d a b => some (word 0x04000000 d.val a.val b.val 0)
  | .or d a b => some (word 0x04000001 d.val a.val b.val 0)
  | .xor d a b => some (word 0x04000002 d.val a.val b.val 0)
  | .andn d a b => some (word 0x04000003 d.val a.val b.val 0)
  | .shl d a b => some (word 0x04000004 d.val a.val b.val 0)
  | .shr d a b => some (word 0x04000005 d.val a.val b.val 0)
  | .sra d a b => some (word 0x04000006 d.val a.val b.val 0)
  | .ror d a b => some (word 0x04000007 d.val a.val b.val 0)
  | .clz d a => some (word 0x04000008 d.val a.val 0 0)
  | .ctz d a => some (word 0x04000009 d.val a.val 0 0)
  | .popc d a => some (word 0x0400000A d.val a.val 0 0)
  | .untaint d => some (word 0x0400000B d.val 0 0 0)
  | .min d a b => some (word 0x06000000 d.val a.val b.val 0)
  | .max d a b => some (word 0x06000001 d.val a.val b.val 0)
  | .minu d a b => some (word 0x06000002 d.val a.val b.val 0)
  | .maxu d a b => some (word 0x06000003 d.val a.val b.val 0)
  | .seq d a b => some (word 0x06000004 d.val a.val b.val 0)
  | .slt d a b => some (word 0x06000005 d.val a.val b.val 0)
  | .sltu d a b => some (word 0x06000006 d.val a.val b.val 0)
  | .sel d a b c => some (word 0x06000007 d.val a.val b.val (c.val * 32))
  | .addi d a imm => some (word 0x08000000 d.val a.val 0 imm.toNat)
  | .andi d a imm => some (word 0x0A000000 d.val a.val 0 imm.toNat)
  | .ori d a imm => some (word 0x0C000000 d.val a.val 0 imm.toNat)
  | .xori d a imm => some (word 0x0E000000 d.val a.val 0 imm.toNat)
  | .shli d a n => some (word 0x10000000 d.val a.val 0 n.toNat)
  | .shri d a n => some (word 0x12000000 d.val a.val 0 n.toNat)
  | .srai d a n => some (word 0x14000000 d.val a.val 0 n.toNat)
  | .slti d a imm => some (word 0x16000000 d.val a.val 0 imm.toNat)
  | .bfx d a l p => some (word 0x18000000 d.val a.val 0 (l.toNat * 64 + p.toNat))
  | .bfi d a l p => some (word 0x1A000000 d.val a.val 0 (l.toNat * 64 + p.toNat))
  | .li d imm => some (word 0x1C000000 d.val 0 0 imm.toNat)
  | .lih d imm => some (word 0x1E000000 d.val 0 0 imm.toNat)
  | .beq a b off => some (word 0x20000000 a.val b.val 0 off.toNat)
  | .bne a b off => some (word 0x22000000 a.val b.val 0 off.toNat)
  | .blt a b off => some (word 0x24000000 a.val b.val 0 off.toNat)
  | .bge a b off => some (word 0x26000000 a.val b.val 0 off.toNat)
  | .bltu a b off => some (word 0x28000000 a.val b.val 0 off.toNat)
  | .bgeu a b off => some (word 0x2A000000 a.val b.val 0 off.toNat)
  | .j off => some (word 0x2C000000 0 0 0 off.toNat)
  | .jal off => some (word 0x2E000000 0 0 0 off.toNat)
  | .jr a => some (word 0x30000000 0 a.val 0 0)
  | .jalr d a => some (word 0x32000000 d.val a.val 0 0)
  | .loop c a n => some (wordL 0x34000000 c.toNat a.val n.toNat 0)
  | .loopi c n k => some (wordL 0x36000000 c.toNat 0 n.toNat k.toNat)
  | .lbrk c => some (wordL 0x38000000 c.toNat 0 0 0)
  | .endCore => some 0x3A000000#32
  | .ldB d a imm => some (word 0x40000000 d.val a.val 0 imm.toNat)
  | .ldH d a imm => some (word 0x42000000 d.val a.val 0 imm.toNat)
  | .ldW d a imm => some (word 0x44000000 d.val a.val 0 imm.toNat)
  | .ldD d a imm => some (word 0x46000000 d.val a.val 0 imm.toNat)
  | .ldBs d a imm => some (word 0x48000000 d.val a.val 0 imm.toNat)
  | .ldHs d a imm => some (word 0x4A000000 d.val a.val 0 imm.toNat)
  | .ldWs d a imm => some (word 0x4C000000 d.val a.val 0 imm.toNat)
  | .ldcD d a imm => some (word 0x4E000000 d.val a.val 0 imm.toNat)
  | .stB t a imm => some (word 0x50000000 t.val a.val 0 imm.toNat)
  | .stH t a imm => some (word 0x52000000 t.val a.val 0 imm.toNat)
  | .stW t a imm => some (word 0x54000000 t.val a.val 0 imm.toNat)
  | .stD t a imm => some (word 0x56000000 t.val a.val 0 imm.toNat)
  | .ldx d a b h z => some (word 0x58000000 d.val a.val b.val (h.toNat * 8 + z.toNat))
  | .stx t a b h z => some (word 0x5A000000 t.val a.val b.val (h.toNat * 8 + z.toNat))
  | .prdD d a imm => some (word 0x5C000000 d.val a.val 0 imm.toNat)
  | .pwrD t a imm => some (word 0x5E000000 t.val a.val 0 imm.toNat)
  | .amoW d a b r op => some (word 0x60000000 d.val a.val b.val (r.toNat * 16 + op.toNat))
  | .amoD d a b r op => some (word 0x62000000 d.val a.val b.val (r.toNat * 16 + op.toNat))
  | .casW d a b r => some (word 0x64000000 d.val a.val b.val (r.toNat * 16))
  | .casD d a b r => some (word 0x66000000 d.val a.val b.val (r.toNat * 16))
  | .fence => some 0x68000000#32
  | .rel c => some (word 0x6A000000 0 0 0 (c.toNat * 16))
  | .acq c => some (word 0x6A000001 0 0 0 (c.toNat * 16))
  | .wbr a b c => some (word 0x6A000002 0 a.val b.val (c.toNat * 16))
  | .invr a b c => some (word 0x6A000003 0 a.val b.val (c.toNat * 16))
  | .flr a b c => some (word 0x6A000004 0 a.val b.val (c.toNat * 16))
  | .icinv a b c => some (word 0x6A000005 0 a.val b.val (c.toNat * 16))
  | .tstat d a => some (word 0x80000000 d.val a.val 0 0)
  | .tgive a => some (word 0x80000001 0 a.val 0 0)
  | .ttake a => some (word 0x80000002 0 a.val 0 0)
  | .tempty a => some (word 0x80000003 0 a.val 0 0)
  | .twait a st => some (word 0x80000004 0 a.val 0 (st.toNat * 256))
  | .sld a p => some (word 0x82000000 0 a.val 0 (p.toNat * 16))
  | .sst a p => some (word 0x84000040 0 a.val 0 (p.toNat * 16))
  | .sstop p => some (word 0x86000000 0 0 0 (p.toNat * 16))
  | .swait p => some (word 0x88000000 0 0 0 (p.toNat * 16))
  | .sstat d p => some (word 0x8A000000 d.val 0 0 (p.toNat * 16))
  | .spush a b k => some (word 0x8C000080 0 a.val b.val k.toNat)
  | .spop d => some (word 0x8E000090 d.val 0 0 0)
  | .cpy d a e => some (word 0xA0000000 d.val a.val 0 (e.toNat * 16))
  | .gath d a => some (word 0xA2000000 d.val a.val 0 0)
  | .scat d a => some (word 0xA4000000 d.val a.val 0 0)
  | .redc d a => some (word 0xA6000000 d.val a.val 0 0)
  | .ewait a => some (word 0xA8000000 0 a.val 0 0)
  | .epoll d a => some (word 0xAA000000 d.val a.val 0 0)
  | .cfg a b => some (word 0xAC000000 0 a.val b.val 0)
  | .start => some 0xAE000000#32
  | .kerf => some 0xB0000000#32
  | .erd d a w => some (word 0xB2000000 d.val a.val 0 w.toNat)
  | .round a => some (word 0xB4000000 0 a.val 0 0)
  | .lstat d a => some (word 0xB6000000 d.val a.val 0 0)
  | .barT => some 0xC0000000#32
  | .phase a => some (word 0xC2000000 0 a.val 0 0)
  | .cwait a b => some (word 0xC4000000 0 a.val b.val 0)
  | .cadd a b => some (word 0xC6000000 0 a.val b.val 0)
  | .notify a b => some (word 0xC8000000 0 a.val b.val 0)
  | .cancel a => some (word 0xCA000000 0 a.val 0 0)
  | .forkw d a n => some (word 0xCC000000 d.val a.val 0 n.toNat)
  | .choose => some 0xCE000000#32
  | .wyield a => some (word 0xD0000000 0 a.val 0 0)
  | .region a => some (word 0xD2000000 0 a.val 0 0)
  | .trap n => some (word 0xE0000000 0 0 0 n.toNat)
  | .eret => some 0xE2000000#32
  | .mfs d r => some (word 0xE4000000 d.val 0 0 r.toNat)
  | .mts a r => some (word 0xE6000000 0 a.val 0 r.toNat)
  | .wfe => some 0xE8000000#32
  | .brk n => some (word 0xEA000000 0 0 0 n.toNat)
  | .waitEnds _ => none
  | .elemAdd _ _ => none
  | .elemSub _ _ => none
  | .elemMul _ _ => none
  | .fma _ _ => none
  | .mac _ _ => none
  | .elemAbs _ _ => none
  | .neg _ _ => none
  | .elemMin _ _ => none
  | .elemMax _ _ => none
  | .minp _ _ => none
  | .maxp _ _ => none
  | .ceq _ _ => none
  | .cne _ _ => none
  | .clt _ _ => none
  | .cle _ _ => none
  | .elemSel _ _ => none
  | .elemAnd _ _ => none
  | .elemOr _ _ => none
  | .elemXor _ _ => none
  | .elemNot _ _ => none
  | .elemShl _ _ => none
  | .elemShr _ _ => none
  | .elemSra _ _ => none
  | .rshr _ _ => none
  | .req _ _ => none
  | .clmp _ _ => none
  | .pass _ _ => none
  | .bcst _ _ => none
  | .perm _ _ => none
  | .slide _ _ => none
  | .rcp _ _ => none
  | .rsq _ _ => none
  | .sqrt _ _ => none
  | .exp2 _ _ => none
  | .log2 _ _ => none
  | .tanh _ _ => none
  | .cvt _ _ => none
  | .bq _ _ => none
  | .dq _ _ => none
  | .pack _ _ => none
  | .unpk _ _ => none
  | .rsum _ _ => none
  | .rmax _ _ => none
  | .rmin _ _ => none
  | .acc _ _ => none
  | .mma _ _ => none
  | .mmao _ _ => none
  | .mmaz _ _ => none
  | .mmaTileWrite _ _ => none
  | .amul _ _ => none
  | .amma _ _ => none
  | .aconj _ _ => none
  | .anorm _ _ => none
  | .ainv _ _ => none
  | .algebraTableRead _ _ => none
  | .filt _ _ => none
  | .cmpt _ _ => none
  | .cnt _ _ => none
  | .mrk _ _ => none
  | .strip _ _ => none
  | .zip _ _ => none
  | .unzp _ _ => none
  | .pld _ _ => none
  | .pst _ _ => none
  | .lbuf _ _ => none
  | .tflip _ _ => none
  | .mld _ _ => none
  | .mst _ _ => none
  | .mamo _ _ => none
  | .elementMemoryComplete _ _ _ => none
  | .cmd _ _ => none
  | .steer _ _ => none
  | .merge _ _ => none
  | .carry _ _ => none
  | .mitre _ _ => none
  | .scaleToken _ _ _ => none
  | .configToken _ _ _ => none
  | .commandTokenAtElement _ _ _ => none
  | .tokenHop _ _ _ => none
  | .loadPortDeliver _ _ => none
  | .storePortAccept _ _ => none
  | .streamFinish _ _ => none
  | .engineTakeCommand _ => none
  | .engineCommandComplete _ _ => none
  | .reduceCombine _ _ _ => none
  | .panelCopy _ _ _ _ => none
  | .readPkt _ => none
  | .writePkt _ => none
  | .atomicPkt _ => none
  | .dataPkt _ => none
  | .arespPkt _ => none
  | .ackPkt _ => none
  | .resendPkt _ => none
  | .ownernakPkt _ => none
  | .abandonPkt _ => none
  | .spanPkt _ => none
  | .spanackPkt _ => none
  | .spanresendPkt _ => none
  | .movePkt _ => none
  | .collPkt _ => none
  | .packetAtOutput _ => none
  | .retransmit _ _ => none
  | .linkReplay _ => none
  | .responseTimeout _ _ => none
  | .backgroundScrub _ _ _ => none
  | .notifyPageWrite _ _ _ => none
  | .scan _ _ => none
  | .qstarve _ _ => none
  | .queueCreate _ _ => none
  | .queueDestroy _ _ => none
  | .queueResume _ _ => none
  | .tensorCreate _ _ => none
  | .tensorDestroy _ _ => none
  | .inval _ _ => none
  | .tensorTableWrite _ _ _ => none
  | .vpadd _ _ => none
  | .vptake _ => none
  | .vpabort _ _ => none
  | .pransGrant _ _ _ => none
  | .pransFail _ _ _ => none
  | .pransFailiso _ _ _ => none
  | .resetQueue _ _ => none
  | .resetLaunch _ _ => none
  | .resetEngine _ _ _ => none
  | .resetPartition _ => none
  | .resetDevice => none
  | .rungTimeout _ => none
  | .partitionCreate _ => none
  | .partitionDestroy _ => none
  | .partitionUpdate _ => none
  | .granuleGrant _ => none
  | .channelGrant _ _ => none
  | .granuleRevoke _ => none
  | .partitionStatus _ => none
  | .savepoolWrite _ => none
  | .eqconsWrite _ _ => none
  | .hopinj _ => none
  | .registerWrite _ _ _ => none
  | .launchItem _ _ => none
  | .graphItem _ _ => none
  | .graphNodeBegin _ _ _ _ => none
  | .waitItem _ _ => none
  | .signalItem _ _ => none
  | .phaseCommand _ _ => none
  | .cancelCommand _ _ => none
  | .qfence _ _ => none
  | .nopItem _ _ => none
  | .phaseEnd _ _ => none
  | .trussEnd _ => none
  | .placeTruss _ => none
  | .priorityAging _ => none
  | .moveCopy => none
  | .moveRelease => none
  | .moveAbandon => none
  | .pageScrub _ => none
  | .fabstall _ => none
  | .forkwTimeout _ => none
  | .sealSummary => none
  | .getMeasurements _ _ => none
  | .coldStart => none
  | .warmStart => none
  | .warmStartTimeout => none
  | .illegalWord _ => none
  | .waitCompletes _ _ => none

/-- The instruction the decoder reads from a table word: one 32-bit word, its bits above `nbits` zero. -/
def decodeTableWord (nbits w : Nat) : Option Instr :=
  match decode (BitVec.ofNat 32 (w % 2 ^ nbits)) with
  | .ok i => some i
  | .error _ => none

end Sys2Proof
end

