-- ==== Sys2Proof/WellFormed.lean ====
section
/-! DEFINITION. Which instructions are well formed.

A control-core word whose opcode and fixed bits match a row may still hold a field value that the row
reserves (R65 to R72, R101); `Instr.wf` says which do not. For a step of another agent it says that the
operands name units that exist (R7, R11, R343, R372). -/

namespace Sys2Proof

/-- A system-register number of R97. -/
def sysRegListed (n : Nat) : Bool :=
  decide (n ≤ 0x008) || decide (0x010 ≤ n ∧ n ≤ 0x013) || decide (0x020 ≤ n ∧ n ≤ 0x023)
    || decide (n = 0x030) || decide (n = 0x031) || decide (0x040 ≤ n ∧ n ≤ 0x044)
    || decide (0x050 ≤ n ∧ n ≤ 0x059) || decide (n = 0x060) || decide (0x100 ≤ n ∧ n ≤ 0x10F)

/-- A system register that MTS may write (R97). -/
def sysRegWritable (n : Nat) : Bool :=
  decide (n = 0x031) || decide (0x040 ≤ n ∧ n ≤ 0x044) || decide (n = 0x060)

/-- A PAGEID (R11). -/
def pageOk (p : Nat) : Bool := decide (p < 432)

/-- A site of a page (R11). -/
def siteOk (e : Nat) : Bool := decide (e < 64)

/-- The instruction is well formed. -/
def Instr.wf : Instr → Bool
  | .add _ _ _ => true
  | .sub _ _ _ => true
  | .mul _ _ _ => true
  | .mulh _ _ _ => true
  | .mulhu _ _ _ => true
  | .div _ _ _ => true
  | .divu _ _ _ => true
  | .rem _ _ _ => true
  | .remu _ _ _ => true
  | .and _ _ _ => true
  | .or _ _ _ => true
  | .xor _ _ _ => true
  | .andn _ _ _ => true
  | .shl _ _ _ => true
  | .shr _ _ _ => true
  | .sra _ _ _ => true
  | .ror _ _ _ => true
  | .clz _ _ => true
  | .ctz _ _ => true
  | .popc _ _ => true
  | .untaint _ => true
  | .min _ _ _ => true
  | .max _ _ _ => true
  | .minu _ _ _ => true
  | .maxu _ _ _ => true
  | .seq _ _ _ => true
  | .slt _ _ _ => true
  | .sltu _ _ _ => true
  | .sel _ _ _ _ => true
  | .addi _ _ _ => true
  | .andi _ _ _ => true
  | .ori _ _ _ => true
  | .xori _ _ _ => true
  | .shli _ _ _ => true
  | .shri _ _ _ => true
  | .srai _ _ _ => true
  | .slti _ _ _ => true
  | .bfx _ _ l p => decide (p.toNat + l.toNat + 1 ≤ 64)
  | .bfi _ _ l p => decide (p.toNat + l.toNat + 1 ≤ 64)
  | .li _ _ => true
  | .lih _ _ => true
  | .beq _ _ _ => true
  | .bne _ _ _ => true
  | .blt _ _ _ => true
  | .bge _ _ _ => true
  | .bltu _ _ _ => true
  | .bgeu _ _ _ => true
  | .j _ => true
  | .jal _ => true
  | .jr _ => true
  | .jalr _ _ => true
  | .loop c _ _ => decide (c.toNat < 3)
  | .loopi c _ _ => decide (c.toNat < 3)
  | .lbrk c => decide (c.toNat < 3)
  | .endCore => true
  | .ldB _ _ _ => true
  | .ldH _ _ _ => true
  | .ldW _ _ _ => true
  | .ldD _ _ _ => true
  | .ldBs _ _ _ => true
  | .ldHs _ _ _ => true
  | .ldWs _ _ _ => true
  | .ldcD _ _ _ => true
  | .stB _ _ _ => true
  | .stH _ _ _ => true
  | .stW _ _ _ => true
  | .stD _ _ _ => true
  | .ldx _ _ _ _ z => decide (z.toNat < 7)
  | .stx _ _ _ _ _ => true
  | .prdD _ _ _ => true
  | .pwrD _ _ _ => true
  | .amoW _ _ _ _ op => decide (op.toNat < 9)
  | .amoD _ _ _ _ op => decide (op.toNat < 9)
  | .casW _ _ _ _ => true
  | .casD _ _ _ _ => true
  | .fence => true
  | .rel c => decide (c.toNat ≠ 0)
  | .acq c => decide (c.toNat ≠ 0)
  | .wbr _ _ c => decide (c.toNat ≠ 0)
  | .invr _ _ c => decide (c.toNat ≠ 0)
  | .flr _ _ c => decide (c.toNat ≠ 0)
  | .icinv _ _ c => decide (c.toNat ≠ 0)
  | .tstat _ _ => true
  | .tgive _ => true
  | .ttake _ => true
  | .tempty _ => true
  | .twait _ _ => true
  | .sld _ _ => true
  | .sst _ _ => true
  | .sstop p => decide (p.toNat < 8)
  | .swait p => decide (p.toNat < 8)
  | .sstat _ p => decide (p.toNat < 11)
  | .spush _ _ _ => true
  | .spop _ => true
  | .cpy _ _ e => decide (e.toNat < 5)
  | .gath _ _ => true
  | .scat _ _ => true
  | .redc _ _ => true
  | .ewait _ => true
  | .epoll _ _ => true
  | .cfg _ _ => true
  | .start => true
  | .kerf => true
  | .erd _ _ _ => true
  | .round _ => true
  | .lstat _ _ => true
  | .barT => true
  | .phase _ => true
  | .cwait _ _ => true
  | .cadd _ _ => true
  | .notify _ _ => true
  | .cancel _ => true
  | .forkw _ _ n => decide (2 ≤ n.toNat) && decide (n.toNat ≤ 8)
  | .choose => true
  | .wyield _ => true
  | .region _ => true
  | .trap _ => true
  | .eret => true
  | .mfs _ r => sysRegListed r.toNat
  | .mts _ r => sysRegWritable r.toNat
  | .wfe => true
  | .brk _ => true
  | .waitEnds p => pageOk p
  | .elemAdd p e => pageOk p && siteOk e
  | .elemSub p e => pageOk p && siteOk e
  | .elemMul p e => pageOk p && siteOk e
  | .fma p e => pageOk p && siteOk e
  | .mac p e => pageOk p && siteOk e
  | .elemAbs p e => pageOk p && siteOk e
  | .neg p e => pageOk p && siteOk e
  | .elemMin p e => pageOk p && siteOk e
  | .elemMax p e => pageOk p && siteOk e
  | .minp p e => pageOk p && siteOk e
  | .maxp p e => pageOk p && siteOk e
  | .ceq p e => pageOk p && siteOk e
  | .cne p e => pageOk p && siteOk e
  | .clt p e => pageOk p && siteOk e
  | .cle p e => pageOk p && siteOk e
  | .elemSel p e => pageOk p && siteOk e
  | .elemAnd p e => pageOk p && siteOk e
  | .elemOr p e => pageOk p && siteOk e
  | .elemXor p e => pageOk p && siteOk e
  | .elemNot p e => pageOk p && siteOk e
  | .elemShl p e => pageOk p && siteOk e
  | .elemShr p e => pageOk p && siteOk e
  | .elemSra p e => pageOk p && siteOk e
  | .rshr p e => pageOk p && siteOk e
  | .req p e => pageOk p && siteOk e
  | .clmp p e => pageOk p && siteOk e
  | .pass p e => pageOk p && siteOk e
  | .bcst p e => pageOk p && siteOk e
  | .perm p e => pageOk p && siteOk e
  | .slide p e => pageOk p && siteOk e
  | .rcp p e => pageOk p && siteOk e
  | .rsq p e => pageOk p && siteOk e
  | .sqrt p e => pageOk p && siteOk e
  | .exp2 p e => pageOk p && siteOk e
  | .log2 p e => pageOk p && siteOk e
  | .tanh p e => pageOk p && siteOk e
  | .cvt p e => pageOk p && siteOk e
  | .bq p e => pageOk p && siteOk e
  | .dq p e => pageOk p && siteOk e
  | .pack p e => pageOk p && siteOk e
  | .unpk p e => pageOk p && siteOk e
  | .rsum p e => pageOk p && siteOk e
  | .rmax p e => pageOk p && siteOk e
  | .rmin p e => pageOk p && siteOk e
  | .acc p e => pageOk p && siteOk e
  | .mma p e => pageOk p && siteOk e
  | .mmao p e => pageOk p && siteOk e
  | .mmaz p e => pageOk p && siteOk e
  | .mmaTileWrite p e => pageOk p && siteOk e
  | .amul p e => pageOk p && siteOk e
  | .amma p e => pageOk p && siteOk e
  | .aconj p e => pageOk p && siteOk e
  | .anorm p e => pageOk p && siteOk e
  | .ainv p e => pageOk p && siteOk e
  | .algebraTableRead p e => pageOk p && siteOk e
  | .filt p e => pageOk p && siteOk e
  | .cmpt p e => pageOk p && siteOk e
  | .cnt p e => pageOk p && siteOk e
  | .mrk p e => pageOk p && siteOk e
  | .strip p e => pageOk p && siteOk e
  | .zip p e => pageOk p && siteOk e
  | .unzp p e => pageOk p && siteOk e
  | .pld p e => pageOk p && siteOk e
  | .pst p e => pageOk p && siteOk e
  | .lbuf p e => pageOk p && siteOk e
  | .tflip p e => pageOk p && siteOk e
  | .mld p e => pageOk p && siteOk e
  | .mst p e => pageOk p && siteOk e
  | .mamo p e => pageOk p && siteOk e
  | .elementMemoryComplete p e _ => pageOk p && siteOk e
  | .cmd p e => pageOk p && siteOk e
  | .steer p e => pageOk p && siteOk e
  | .merge p e => pageOk p && siteOk e
  | .carry p e => pageOk p && siteOk e
  | .mitre p e => pageOk p && siteOk e
  | .scaleToken p e k => pageOk p && siteOk e && decide (k < 4)
  | .configToken p e k => pageOk p && siteOk e && decide (k < 4)
  | .commandTokenAtElement p e k => pageOk p && siteOk e && decide (k < 4)
  | .tokenHop p e src => pageOk p && siteOk e && decide (src ≤ 16)
  | .loadPortDeliver p k => pageOk p && decide (k < 8)
  | .storePortAccept p k => pageOk p && decide (k < 8)
  | .streamFinish p k => pageOk p && decide (k < 8)
  | .engineTakeCommand p => pageOk p
  | .engineCommandComplete b g => decide (b < 8) && decide (g < 6)
  | .reduceCombine pid _ _ => decide (pid < 48)
  | .panelCopy pid _ _ _ => decide (pid < 48)
  | .readPkt _ => true
  | .writePkt _ => true
  | .atomicPkt _ => true
  | .dataPkt _ => true
  | .arespPkt _ => true
  | .ackPkt _ => true
  | .resendPkt _ => true
  | .ownernakPkt _ => true
  | .abandonPkt _ => true
  | .spanPkt _ => true
  | .spanackPkt _ => true
  | .spanresendPkt _ => true
  | .movePkt _ => true
  | .collPkt _ => true
  | .packetAtOutput _ => true
  | .retransmit a _ => decide (a.bay < 8)
  | .linkReplay _ => true
  | .responseTimeout a _ => decide (a.bay < 8)
  | .backgroundScrub b _ _ => decide (b < 8)
  | .notifyPageWrite vf q _ => decide (vf < 192) && decide (q < 64)
  | .scan vf q => decide (vf < 192) && decide (q < 64)
  | .qstarve vf q => decide (vf < 192) && decide (q < 64)
  | .queueCreate vf q => decide (vf < 192) && decide (q < 64)
  | .queueDestroy vf q => decide (vf < 192) && decide (q < 64)
  | .queueResume vf q => decide (vf < 192) && decide (q < 64)
  | .tensorCreate vf slot => decide (vf < 192) && decide (slot < 65536)
  | .tensorDestroy vf slot => decide (vf < 192) && decide (slot < 65536)
  | .inval vf slot => decide (vf < 192) && decide (slot < 65536)
  | .tensorTableWrite vf _ _ => decide (vf < 192)
  | .vpadd vf _ => decide (vf < 192)
  | .vptake vf => decide (vf < 192)
  | .vpabort vf _ => decide (vf < 192)
  | .pransGrant vf _ _ => decide (vf < 192)
  | .pransFail vf _ _ => decide (vf < 192)
  | .pransFailiso vf _ _ => decide (vf < 192)
  | .resetQueue vf q => decide (vf < 192) && decide (q < 64)
  | .resetLaunch vf _ => decide (vf < 192)
  | .resetEngine pid bay eng => decide (pid < 48) && decide (bay < 8) && decide (eng < 6)
  | .resetPartition pid => decide (pid < 48)
  | .resetDevice => true
  | .rungTimeout _ => true
  | .partitionCreate pid => decide (pid < 48)
  | .partitionDestroy pid => decide (pid < 48)
  | .partitionUpdate pid => decide (pid < 48)
  | .granuleGrant pid => decide (pid < 48)
  | .channelGrant h c => decide (h < 524288) && decide (c < 32)
  | .granuleRevoke pid => decide (pid < 48)
  | .partitionStatus pid => decide (pid < 48)
  | .savepoolWrite _ => true
  | .eqconsWrite vf _ => decide (vf < 192)
  | .hopinj _ => true
  | .registerWrite _ _ _ => true
  | .launchItem vf q => decide (vf < 192) && decide (q < 64)
  | .graphItem vf q => decide (vf < 192) && decide (q < 64)
  | .graphNodeBegin vf q _ _ => decide (vf < 192) && decide (q < 64)
  | .waitItem vf q => decide (vf < 192) && decide (q < 64)
  | .signalItem vf q => decide (vf < 192) && decide (q < 64)
  | .phaseCommand vf q => decide (vf < 192) && decide (q < 64)
  | .cancelCommand vf q => decide (vf < 192) && decide (q < 64)
  | .qfence vf q => decide (vf < 192) && decide (q < 64)
  | .nopItem vf q => decide (vf < 192) && decide (q < 64)
  | .phaseEnd pid _ => decide (pid < 48)
  | .trussEnd _ => true
  | .placeTruss _ => true
  | .priorityAging _ => true
  | .moveCopy => true
  | .moveRelease => true
  | .moveAbandon => true
  | .pageScrub p => pageOk p
  | .fabstall _ => true
  | .forkwTimeout _ => true
  | .sealSummary => true
  | .getMeasurements _ _ => true
  | .coldStart => true
  | .warmStart => true
  | .warmStartTimeout => true
  | .illegalWord w => (match decode w with | .ok _ => false | .error _ => true)
  | .waitCompletes vf q => decide (vf < 192) && decide (q < 64)

end Sys2Proof
end

