-- ==== Sys2Proof/Machine/Ops.lean ====
section
/-! DEFINITION. Named operations on the state: accessors, general registers and taint, completion of an
instruction with the loop-end action, taking a trap and returning from one, and the failure of a truss. -/

namespace Sys2Proof.Machine

/-- What a step answers. -/
abbrev Res := Host.Outcome State Fault Refusal

/-! ### Accessors -/

/-- A page. -/
def State.page (s : State) (p : Nat) : Page := fgetD s.pages p Page.reset

/-- Replaces a page. -/
def State.setPage (s : State) (p : Nat) (pg : Page) : State := { s with pages := fput s.pages p pg }

/-- The page of the current core. -/
def State.curPage (s : State) : Page := s.page s.cur

/-- The current core. -/
def State.core (s : State) : Core := (s.page s.cur).core

/-- Replaces the current core. -/
def State.setCore (s : State) (c : Core) : State := s.setPage s.cur { s.page s.cur with core := c }

/-- Changes the core of a page. -/
def State.modCore (s : State) (p : Nat) (f : Core → Core) : State :=
  s.setPage p { s.page p with core := f (s.page p).core }

/-- A partition. -/
def State.part (s : State) (n : Nat) : Partition := fgetD s.parts n Partition.reset

/-- Replaces a partition. -/
def State.setPart (s : State) (n : Nat) (p : Partition) : State := { s with parts := fput s.parts n p }

/-- Changes a partition. -/
def State.modPart (s : State) (n : Nat) (f : Partition → Partition) : State := s.setPart n (f (s.part n))

/-- A virtual function. -/
def State.vf (s : State) (n : Nat) : VF := fgetD s.vfs n VF.reset

/-- Replaces a virtual function. -/
def State.setVf (s : State) (n : Nat) (v : VF) : State := { s with vfs := fput s.vfs n v }

/-- A bay. -/
def State.bay (s : State) (b : Nat) : Bay := fgetD s.bays b Bay.reset

/-- Replaces a bay. -/
def State.setBay (s : State) (b : Nat) (x : Bay) : State := { s with bays := fput s.bays b x }

/-- A requester of a list. -/
def reqGet (l : List (AgentId × Requester)) (a : AgentId) : Requester :=
  match l with
  | [] => Requester.reset
  | (b, r) :: t => if b = a then r else reqGet t a

/-- Replaces a requester of a list, keeping its place. -/
def reqPut (l : List (AgentId × Requester)) (a : AgentId) (r : Requester) : List (AgentId × Requester) :=
  match l with
  | [] => [(a, r)]
  | (b, q) :: t => if b = a then (a, r) :: t else (b, q) :: reqPut t a r

/-- A requester. -/
def State.req (s : State) (a : AgentId) : Requester := reqGet s.reqs a

/-- Replaces a requester. -/
def State.setReq (s : State) (a : AgentId) (r : Requester) : State := { s with reqs := reqPut s.reqs a r }

/-- An element of a page. -/
def Page.elem (pg : Page) (e : Nat) : Elem := fgetD pg.elems e Elem.reset

/-- Replaces an element of a page. -/
def Page.setElem (pg : Page) (e : Nat) (x : Elem) : Page := { pg with elems := fput pg.elems e x }

/-- An element. -/
def State.elem (s : State) (p e : Nat) : Elem := (s.page p).elem e

/-- Replaces an element. -/
def State.setElem (s : State) (p e : Nat) (x : Elem) : State := s.setPage p ((s.page p).setElem e x)

/-- A tile of a page. -/
def Page.tile (pg : Page) (e t : Nat) : Tile := fgetD pg.tiles (e * 64 + t) Tile.reset

/-- Replaces a tile of a page. -/
def Page.setTile (pg : Page) (e t : Nat) (x : Tile) : Page := { pg with tiles := fput pg.tiles (e * 64 + t) x }

/-- A block of a tile: data and descriptor (R29). -/
def Tile.block (t : Tile) (k : Nat) : Data × Desc := fgetD t.blocks k (0, 0x7F00#16)

/-- Writes a block of a tile, keeping unwritten blocks unlisted. -/
def Tile.setBlock (t : Tile) (k : Nat) (d : Data × Desc) : Tile :=
  { t with blocks := if d = (0, 0x7F00#16) then fdel t.blocks k else fput t.blocks k d }

/-- A port of a page; codes 0–7. -/
def Page.port (pg : Page) (k : Nat) : Port := pg.ports[k % 8]'(Nat.mod_lt _ (by decide))

/-- Replaces a port of a page. -/
def Page.setPort (pg : Page) (k : Nat) (x : Port) : Page :=
  { pg with ports := pg.ports.set (k % 8) x (Nat.mod_lt _ (by decide)) }

/-- Bay of a page (R11). -/
def bayOf (p : Nat) : Nat := 4 * (p / 36 / 6) + p % 36 / 9

/-- Index of a page in its bay (R320). -/
def pageInBay (p : Nat) : Nat := 9 * (p / 36 % 6) + p % 36 % 9

/-- PAGEID of the page of a bay with an index (R320). -/
def pageOfBay (b k : Nat) : Nat := (6 * (b / 4) + k / 9) * 36 + (9 * (b % 4) + k % 9)

/-- The agent of a page: 0 core, 1 load ports, 2 store ports, 3 element memory (R320). -/
def pageAgent (p kind sub : Nat) : AgentId := ⟨bayOf p, 8 * pageInBay p + kind, sub⟩

/-- The truss of a page. -/
def State.trussOf (s : State) (p : Nat) : Option Truss :=
  if (s.page p).status = .used then fget s.trusses (s.page p).truss else none

/-- The launch of a truss. -/
def State.launchOf (s : State) (t : Truss) : Option Launch := fget s.launches t.launch

/-- The launch of the current core's truss. -/
def State.curLaunch (s : State) : Option Launch := (s.trussOf s.cur).bind s.launchOf

/-- Partition of the current core's truss. -/
def State.curPart (s : State) : Nat := ((s.trussOf s.cur).map Truss.part).getD 0x3F

/-- View of the current core's truss (R97). -/
def State.curView (s : State) : Nat := ((s.trussOf s.cur).map Truss.view).getD 0

/-- World depth of the current core's truss (R97). -/
def State.curDepth (s : State) : Nat := ((s.trussOf s.cur).map Truss.depth).getD 0

/-- PAGEIDs of a truss, by PAGEIX (R11, R20). -/
def Truss.pages (t : Truss) : List Nat :=
  (List.range (t.h * t.w)).map fun x => (t.row + x / t.w) * 36 + (t.col + x % t.w)

/-- Does the launch run in debug mode (R100)? -/
def State.debugLaunch (s : State) : Bool := (s.curLaunch.map Launch.debug).getD false

/-- Adds to a meter of a partition (R393); partitions 0–47. -/
def State.meter (s : State) (p m : Nat) (k : Nat) : State :=
  if p < 48 ∧ k ≠ 0 then
    { s with meters := fput s.meters (16 * p + m) (fgetD s.meters (16 * p + m) 0 + BitVec.ofNat 64 k) }
  else s

/-- A free value (log 2): an unconstrained word and the state that has used it. -/
def State.freeVal (s : State) : Word × State :=
  (Config.freeWord s.freeCount, { s with freeCount := s.freeCount + 1 })

/-! ### General registers and taint -/

/-- Sets or clears bit `k`. -/
def setBitTo {n : Nat} (x : BitVec n) (k : Nat) (b : Bool) : BitVec n :=
  if b then x ||| ((1 : BitVec n) <<< k) else x &&& ~~~((1 : BitVec n) <<< k)

/-- Reads a general register; g0 reads as zero (R94). -/
def Core.rd (c : Core) (r : Reg) : Word := if r = 0 then 0 else c.regs[r.val]

/-- The taint bit of a general register; g0 is never tainted (R94). -/
def Core.tainted (c : Core) (r : Reg) : Bool := if r = 0 then false else c.taint.getLsbD r.val

/-- Writes a general register and its taint bit; a write to g0 is discarded (R94, R95). -/
def Core.wr (c : Core) (r : Reg) (v : Word) (t : Bool) : Core :=
  if r = 0 then c else { c with regs := c.regs.set r.val v, taint := setBitTo c.taint r.val t }

/-! ### Loops -/

/-- A loop counter by number. -/
def Core.loop (c : Core) (k : Fin 3) : Loop := c.loops[k.val]

/-- Replaces a loop counter. -/
def Core.setLoop (c : Core) (k : Fin 3) (l : Loop) : Core := { c with loops := c.loops.set k.val l }

/-- The number of active loops (R117). -/
def Core.activeLoops (c : Core) : Nat :=
  (if (c.loop 0).act then 1 else 0) + (if (c.loop 1).act then 1 else 0) + (if (c.loop 2).act then 1 else 0)

/-- Deactivates a loop; the LEVEL of an inactive counter reads as 0 (R99). -/
def Loop.off (l : Loop) : Loop := { l with act := false, level := 0 }

/-- Deactivates a loop and every active loop of a higher LEVEL (R122). A loop of equal LEVEL stays, though it may have
started later (R116): the spec does not say which of the two it means (DESIGN CHOICE, log 103). -/
def Core.dropLoop (c : Core) (k : Fin 3) : Core :=
  let lv := (c.loop k).level.toNat
  let f (j : Fin 3) : Loop :=
    if j = k ∨ ((c.loop j).act = true ∧ lv < (c.loop j).level.toNat) then (c.loop j).off else c.loop j
  { c with loops := #v[f 0, f 1, f 2] }

/-- The active loop of highest level that satisfies a test; of two with equal LEVEL, which the spec does not order, the
one with the lowest counter number (DESIGN CHOICE, log 103). -/
def Core.topLoop (c : Core) (f : Loop → Bool) : Option (Fin 3) :=
  [(0 : Fin 3), 1, 2].foldl (fun best k =>
    let l := c.loop k
    if l.act && f l then
      match best with
      | none => some k
      | some j => if (c.loop j).level.toNat < l.level.toNat then some k else best
    else best) none

/-- The loop-end action at the address `at_`, for at most `n` loops (R118). -/
def loopEnd (at_ : Word) : Nat → Core → Core
  | 0, c => { c with pc := at_ + 4 }
  | n + 1, c =>
    match c.topLoop (fun l => decide (l.fin = at_)) with
    | none => { c with pc := at_ + 4 }
    | some k =>
      let l := c.loop k
      if 1 < l.count.toNat then
        { c.setLoop k { l with count := l.count - 1 } with pc := l.beg }
      else loopEnd at_ n (c.setLoop k l.off)

/-- Moves past the instruction at pc, with the loop-end action (R118). -/
def Core.advance (c : Core) : Core := loopEnd c.pc 3 c

/-- An address lies within a loop's body. -/
def Loop.has (l : Loop) (a : Word) : Bool := decide (l.beg.toNat ≤ a.toNat) && decide (a.toNat ≤ l.fin.toNat)

/-- A taken branch, J or JR to a target: deactivates each active loop whose body holds the branch and not
the target, as LBRK does (R116). -/
def Core.branchTo (c : Core) (target : Word) : Core :=
  let c' := [(0 : Fin 3), 1, 2].foldl (fun x k =>
    let l := x.loop k
    if l.act && l.has c.pc && !l.has target then x.dropLoop k else x) c
  { c' with pc := target }

/-! ### Failure of a truss -/

/-- The waits that a cancel, a losing commit or a stop abandons (R173). -/
def Wait.abandonable : Wait → Bool
  | .resp _ => false
  | .stall _ => false
  | .room => false
  | .writes _ => false
  | .ending => false
  | _ => true

/-- Asks a core of a stopping truss to stop: a wait is abandoned (R24, R173). -/
def Core.askStop (c : Core) : Core :=
  match c.run, c.wait with
  | .running, some w => if w.abandonable then { c with run := .stopped, wait := none, stage := 0, event := true }
                        else { c with event := true }
  | _, _ => { c with event := true }

/-- The pages that a truss holds now; none while it is saved or not placed. -/
def State.heldPages (s : State) (t : Nat) (x : Truss) : List Nat :=
  x.pages.filter fun p => decide ((s.page p).status = .used) && decide ((s.page p).truss = t)

/-- Stops a truss as by cancel: its cores stop at their next kerf (R24). -/
def State.stopTruss (s : State) (t : Nat) : State :=
  match fget s.trusses t with
  | none => s
  | some x =>
    if x.state = .ended ∨ x.state = .stopping then s
    else
      let s := (s.heldPages t x).foldl (fun s p => s.modCore p Core.askStop) s
      { s with trusses := fput s.trusses t { x with state := .stopping, request := true } }

/-- The trusses of a launch that still stand. -/
def State.launchTrusses (s : State) (l : Nat) : List Nat :=
  (s.trusses.filter fun x => decide (x.2.launch = l) && decide (x.2.state ≠ .ended)).map Prod.fst

/-- Stops every truss of a launch (R24, R349). -/
def State.stopLaunch (s : State) (l : Nat) : State := (s.launchTrusses l).foldl State.stopTruss s

/-- DETAIL of a failure: ELEM, PAGEIX and TRUSSIX (R353). -/
def detailOf (elem pageix trussix : Nat) : Word :=
  BitVec.ofNat 64 (elem % 4096 + pageix % 4096 * 2 ^ 12 + trussix % 65536 * 2 ^ 24)

/-- Records the failure of a launch, unless it has failed earlier (R405, R411). -/
def State.failLaunch (s : State) (l code : Nat) (detail : Word) : State :=
  match fget s.launches l with
  | none => s
  | some x => if x.failure.isSome then s
              else { s with launches := fput s.launches l { x with failure := some (code, detail) } }

/-- Marks a truss to be torn down without waiting for its cores (R349). -/
def State.markFailed (s : State) (t : Nat) : State :=
  { s with trusses := fmod s.trusses t fun x => { x with failure := true } }

/-- A rival of a fork ends as a loser, and its trusses are torn down (R442). -/
def State.loseRival (s : State) (f t code : Nat) (detail : Word) : State :=
  match fget s.forks f with
  | none => s
  | some k =>
    let k' := { k with rivals := k.rivals.map fun r =>
      if r.trusses.contains t ∧ !r.lost then { r with lost := true, score := none, failure := some (code, detail) } else r }
    let mine := (k.rivals.filter fun r => r.trusses.contains t).flatMap Rival.trusses
    mine.foldl (fun s t => (s.stopTruss t).markFailed t) { s with forks := fput s.forks f k' }

/-- The item of a truss reports a failure that stops nothing; in a world, the truss's rival ends as a loser (R405, R411, R442). -/
def State.failItem (s : State) (t code : Nat) (detail : Word) : State :=
  match fget s.trusses t with
  | none => s
  | some x =>
    match x.fork with
    | some f => s.loseRival f t code detail
    | none => s.failLaunch x.launch code detail

/-- A truss fails with a code (R349, R351); in a world, its rival ends as a loser (R442). -/
def State.failTruss (s : State) (t code : Nat) (elem pageix : Nat) : State :=
  match fget s.trusses t with
  | none => s
  | some x =>
    let d := detailOf elem pageix x.ix
    match x.fork with
    | some f => s.loseRival f t code d
    | none => ((s.failLaunch x.launch code d).markFailed t).stopLaunch x.launch

/-- The truss of a page fails, naming a site of that page. -/
def State.failPage (s : State) (p code site : Nat) : State :=
  s.failTruss (s.page p).truss code ((s.page p).ix * 64 + site) (s.page p).ix

/-! ### Traps -/

/-- Trap causes (R174). -/
def causeIllegal : Nat := 1
/-- MISALIGN. -/
def causeMisalign : Nat := 2
/-- PLATE_OWNER. -/
def causePlateOwner : Nat := 3
/-- HANDLE. -/
def causeHandle : Nat := 4
/-- BOUNDS. -/
def causeBounds : Nat := 5
/-- WORLD. -/
def causeWorld : Nat := 6
/-- OUTBOX_FULL. -/
def causeOutboxFull : Nat := 7
/-- FAULT_FAILED. -/
def causeFaultFailed : Nat := 8
/-- POISON. -/
def causePoison : Nat := 9
/-- HAZARD. -/
def causeHazard : Nat := 10
/-- BRK. -/
def causeBrk : Nat := 11
/-- TRAP. -/
def causeTrap : Nat := 12

/-- A core with its instruction's progress dropped. -/
def Core.clearStage (c : Core) : Core :=
  { c with stage := 0, wait := none, resp := [], failed := false, wbStall := false, scratch := [], fetched := none }

/-- The core stands between two instructions: the one at pc has not begun, nor has its fetch failed. -/
def Core.atBoundary (c : Core) : Bool := c.fetched.isNone && !(c.failed && !c.scratch.isEmpty)

/-- Trap entry (R175): with no handler, or inside it, the truss fails with 0x10 + cause (R351) and the core
stops; otherwise TCAUSE, TPC and TVAL are written, INH is set and pc becomes TVEC. -/
def takeTrap (cause : Nat) (tpc tval : Word) (s : State) : State :=
  let c := s.core.clearStage
  if c.tvec = 0 ∨ c.inh = true then
    (s.setCore { c with run := .stopped }).failTruss (s.curPage.truss) (0x10 + cause) 0 s.curPage.ix
  else
    s.setCore { c with tcause := BitVec.ofNat 64 cause, tpc := tpc, tval := tval, inh := true, pc := c.tvec }

/-- A trap of the instruction at pc, which changes nothing else (R174). -/
def trapHere (cause : Nat) (tval : Word) (s : State) : Res := .next (takeTrap cause s.core.pc tval s)

/-- The ILLEGAL trap of a word (R65). -/
def trapWord (i : Instr) (s : State) : Res :=
  trapHere causeIllegal (((encode i).getD 0).zeroExtend 64) s

/-- Return from a trap (R176). -/
def returnFromTrap (c : Core) : Core := { c with pc := c.tpc, inh := false }

/-! ### Completion -/

/-- The single step of R100, after an instruction that was issued with INH = 0. -/
def stepTrap (inh : Bool) (s : State) : State :=
  if s.core.sstep ∧ !inh then takeTrap causeBrk s.core.pc 0 s else s

/-- Completes the instruction at pc without a transfer: loop-end action, then single step (R100, R118). -/
def complete (c : Core) (s : State) : State := stepTrap s.core.inh (s.setCore c.clearStage.advance)

/-- Completes the instruction at pc with a transfer of control already in `c` (R118). -/
def completeAt (c : Core) (s : State) : State := stepTrap s.core.inh (s.setCore c.clearStage)

/-- The answer of an instruction that only writes a general register (R95, R118). -/
def writeReg (d : Reg) (v : Word) (t : Bool) (s : State) : Res := .next (complete (s.core.wr d v t) s)

/-- Leaves the instruction at pc waiting, at a stage (R173). -/
def waitFor (w : Wait) (stage : Nat) (s : State) : Res :=
  .next (s.setCore { s.core with wait := some w, stage := stage })

/-- A condition a core waits for has come true: it goes on at its next issue. -/
def Core.resume (c : Core) (stage : Nat) : Core := { c with wait := none, stage := stage }

end Sys2Proof.Machine
end

