-- ==== Sys2Proof/Machine/Operands.lean ====
section
/-! DEFINITION. Operand forms of the control-core instructions: effective addresses, branch targets, plate
addresses and tile selectors. -/

namespace Sys2Proof.Machine

/-- gA + imm (R68, R129). -/
def eaImm (c : Core) (a : Reg) (imm : BitVec 15) : Word := c.rd a + sext imm

/-- gA + (gB << sh) (R130). -/
def eaIdx (c : Core) (a b : Reg) (h : BitVec 2) : Word := c.rd a + (c.rd b <<< h.toNat)

/-- pc + 4·offset (R63, R111, R112). -/
def relTarget {n : Nat} (c : Core) (off : BitVec n) : Word := c.pc + (sext off <<< 2)

/-- SITE of a plate address (R127). -/
def plateSite (pa : Word) : Nat := bits pa.toNat 18 6
/-- TILE of a plate address. -/
def plateTile (pa : Word) : Nat := bits pa.toNat 12 6
/-- OFFSET of a plate address. -/
def plateOff (pa : Word) : Nat := bits pa.toNat 0 12
/-- DESC of a plate address. -/
def plateDesc (pa : Word) : Bool := pa.getLsbD 24
/-- Bits [63:25], which must be zero. -/
def plateHigh (pa : Word) : Nat := pa.toNat / 2 ^ 25

/-- Site of a tile selector (R142). -/
def selSite (x : Word) : Nat := bits x.toNat 6 6
/-- Tile of a tile selector. -/
def selTile (x : Word) : Nat := bits x.toNat 0 6
/-- Bits [63:12] of a tile selector, which must be zero. -/
def selHigh (x : Word) : Nat := x.toNat / 2 ^ 12

/-- The taint that an instruction with two register sources gives its result (R95). -/
def Core.taint2 (c : Core) (a b : Reg) : Bool := c.tainted a || c.tainted b

end Sys2Proof.Machine
end

