-- ==== Sys2Proof/Machine/Flags.lean ====
section
/-! DEFINITION. Flags and system registers: FLAGS (R98), LCACT (R99), DBGCTL (R100), TSTAT (R175), and the
read and write of every system register (R97). -/

namespace Sys2Proof.Machine

/-- FLAGS.DZ set by a zero divisor (R98, R105). -/
def Core.setDz (c : Core) : Core := { c with dz := true }

/-- FLAGS.DISC set by a load of a VOID block (R33, R98). -/
def Core.setDisc (c : Core) : Core := { c with disc := true }

/-- FLAGS as read (R98). -/
def Core.flagsWord (c : Core) : Word :=
  BitVec.ofNat 64 ((if c.dz then 1 else 0) + (if c.disc then 2 else 0))

/-- LEVEL of a counter as LCACT shows it (R99). -/
def Loop.levelRead (l : Loop) : Nat := if l.act then l.level.toNat else 0

/-- LCACT (R99). -/
def Core.lcact (c : Core) : Word :=
  BitVec.ofNat 64 ((if (c.loop 0).act then 1 else 0) + (if (c.loop 1).act then 2 else 0)
    + (if (c.loop 2).act then 4 else 0) + (c.loop 0).levelRead * 16 + (c.loop 1).levelRead * 64
    + (c.loop 2).levelRead * 256)

/-- COUNT, BEG or END of a loop counter, read at 0x050 + 3·k + w (R97). -/
def Loop.part (l : Loop) (w : Nat) : Word := if w = 0 then l.count else if w = 1 then l.beg else l.fin

/-- UNITPAGES: pages in working order (R97, R428). -/
def State.unitPages (s : State) : Nat :=
  ((List.range 432).filter fun p => !s.fuses.pages.contains p && !s.fuses.bays.contains (bayOf p)).length

/-- UNITBAYS (R97, R428). -/
def State.unitBays (s : State) : Nat :=
  (List.range 8).foldl (fun a b => if s.fuses.bays.contains b then a else a + 2 ^ b) 0

/-- LEASEPG of a partition (R372). -/
def Partition.leasepg (p : Partition) : Nat := leAt p.record 0 2

/-- CYCLE (R97): cc since the last cold or warm start. -/
def State.cycle (s : State) : Word := BitVec.ofNat 64 (s.now - s.cycle0)

/-- An identity register of the truss (R97). -/
def State.ident (s : State) (f : Truss → Nat) : Word := BitVec.ofNat 64 (((s.trussOf s.cur).map f).getD 0)

/-- An identity register of the launch (R97). -/
def State.identL (s : State) (f : Launch → Nat) : Word := BitVec.ofNat 64 ((s.curLaunch.map f).getD 0)

/-- A system register as MFS reads it (R97); `none` where the number names no register. -/
def State.sysRead (s : State) (n : Nat) : Option Word :=
  let c := s.core
  match n with
  | 0x000 => some (BitVec.ofNat 64 (bayOf s.cur))
  | 0x001 => some (BitVec.ofNat 64 s.cur)
  | 0x002 => some (BitVec.ofNat 64 s.curPage.ix)
  | 0x003 => some (s.ident Truss.ix)
  | 0x004 => some (s.identL Launch.ntruss)
  | 0x005 => some (s.ident Truss.h)
  | 0x006 => some (s.ident Truss.w)
  | 0x007 => some (s.identL fun l => l.ident.toNat)
  | 0x008 => some (BitVec.ofNat 64 s.curPart)
  | 0x010 => some (BitVec.ofNat 64 s.unitPages)
  | 0x011 => some (BitVec.ofNat 64 s.unitBays)
  | 0x012 => some (BitVec.ofNat 64 (s.part s.curPart).leasepg)
  | 0x013 => some (BitVec.ofNat 64 s.fuses.stepping)
  | 0x020 => some (s.ident Truss.world)
  | 0x021 => some (s.ident Truss.depth)
  | 0x022 => some (s.ident Truss.view)
  | 0x023 => some c.regno
  | 0x030 => some s.cycle
  | 0x031 => some c.flagsWord
  | 0x040 => some c.tvec
  | 0x041 => some c.tcause
  | 0x042 => some c.tpc
  | 0x043 => some c.tval
  | 0x044 => some (boolWord c.inh)
  | 0x050 => some ((c.loop 0).part 0)
  | 0x051 => some ((c.loop 0).part 1)
  | 0x052 => some ((c.loop 0).part 2)
  | 0x053 => some ((c.loop 1).part 0)
  | 0x054 => some ((c.loop 1).part 1)
  | 0x055 => some ((c.loop 1).part 2)
  | 0x056 => some ((c.loop 2).part 0)
  | 0x057 => some ((c.loop 2).part 1)
  | 0x058 => some ((c.loop 2).part 2)
  | 0x059 => some c.lcact
  | 0x060 => some (if s.debugLaunch then
      BitVec.ofNat 64 ((if c.haz then 1 else 0) + (if c.sstep then 2 else 0)) else 0)
  | k => if 0x100 ≤ k ∧ k ≤ 0x10F then some (fgetD s.meters (16 * s.curPart + (k - 0x100)) 0) else none

/-- A word with its low two bits zero (R175). -/
def clearLow2 (v : Word) : Word := v &&& ~~~(3 : Word)

/-- A system register written by MTS (R97, R98, R100, R175); `none` where MTS may not write it (R101). -/
def Core.sysWrite (c : Core) (debug : Bool) (n : Nat) (v : Word) : Option Core :=
  match n with
  | 0x031 => some { c with dz := v.getLsbD 0, disc := v.getLsbD 1 }
  | 0x040 => some { c with tvec := clearLow2 v }
  | 0x041 => some { c with tcause := v }
  | 0x042 => some { c with tpc := clearLow2 v }
  | 0x043 => some { c with tval := v }
  | 0x044 => some { c with inh := v.getLsbD 0 }
  | 0x060 => some (if debug then { c with haz := v.getLsbD 0, sstep := v.getLsbD 1 } else c)
  | _ => none

end Sys2Proof.Machine
end

