-- ==== Sys2Proof/Machine/Memory.lean ====
section
/-! DEFINITION. Memory contents: bytes and descriptors of HBM4 and host memory, the write of a block at its
home, and the layout of an HBM4 address (R27 to R33, R129, R285, R309, R369). -/

namespace Sys2Proof.Machine

/-! ### Formats of whole blocks -/

/-- FMT of a descriptor (R29). -/
def fmtOf (d : Desc) : BitVec 8 := d.extractLsb' 0 8
/-- SCALE of a descriptor (R29). -/
def scaleOf (d : Desc) : BitVec 8 := d.extractLsb' 8 8
/-- A descriptor from its parts. -/
def mkDesc (scale fmt : BitVec 8) : Desc := scale ++ fmt
/-- VOID at unit scale. -/
def descVoid : Desc := 0x7F00#16
/-- UINT8 at unit scale, which a core's store gives a VOID block (R33). -/
def descUint8 : Desc := 0x7F02#16
/-- POISON. -/
def descPoison : Desc := 0x7F0E#16

/-- The code is one of R30 and not reserved. -/
def fmtListed (f : BitVec 8) : Bool :=
  let n := f.toNat
  decide (n ≤ 0x07) || decide (n = 0x0E) ||
    (decide (0x10 ≤ n) && decide (n ≤ 0x2E) && decide (n % 8 ≤ 6))

/-- An integer format (R30). -/
def fmtInt (f : BitVec 8) : Bool := decide (1 ≤ f.toNat) && decide (f.toNat ≤ 4)

/-- The block or burst is read as POISON: POISON, a reserved code (R31), or an integer format at the NaN
scale (R32). -/
def readsPoison (f scale : BitVec 8) : Bool :=
  decide (f = 0x0E#8) || !fmtListed f || (fmtInt f && decide (scale = 0xFF#8))

/-- The block is read as POISON. -/
def descPoisoned (d : Desc) : Bool := readsPoison (fmtOf d) (scaleOf d)

/-- The block is VOID. -/
def descIsVoid (d : Desc) : Bool := decide (fmtOf d = 0#8)

/-! ### Bytes and blocks -/

/-- A byte of a cell list; an unlisted byte reads 0 (R29, R376; log 3 for host memory). -/
def readByte (cells : List Host.Cell) (a : Nat) : Byte := fgetD cells a 0

/-- Writes a byte, keeping zero bytes unlisted. -/
def writeByte (cells : List Host.Cell) (a : Nat) (b : Byte) : List Host.Cell :=
  if b = 0 then fdel cells a else fput cells a b

/-- Reads `n` bytes from `a`. -/
def readBytes (cells : List Host.Cell) (a n : Nat) : List Byte :=
  (List.range n).map fun k => readByte cells (a + k)

/-- Writes bytes from `a` up. -/
def writeBytes (cells : List Host.Cell) (a : Nat) (l : List Byte) : List Host.Cell :=
  match l with
  | [] => cells
  | b :: t => writeBytes (writeByte cells a b) (a + 1) t

/-- Reads one byte of memory. -/
def Memory.byte (m : Memory) : Phys → Byte
  | .hbm a => readByte m.cells a
  | .host a => readByte m.hostCells a
  | .remote _ _ => 0

/-- Sets a descriptor, keeping the default unlisted. -/
def setDesc (l : FMap Desc) (k : Nat) (d dflt : Desc) : FMap Desc := if d = dflt then fdel l k else fput l k d

/-- Reads a block: its data and descriptor. -/
def Memory.block (m : Memory) : Phys → Data × Desc
  | .hbm a => (dataOf (readBytes m.cells (a / 64 * 64) 64), fgetD m.descs (a / 64) descVoid)
  | .host a => (dataOf (readBytes m.hostCells (a / 64 * 64) 64), fgetD m.hostDescs (a / 64) descUint8)
  | .remote _ _ => (0, descPoison)

/-- Writes a block: its data and descriptor. -/
def Memory.setBlock (m : Memory) (p : Phys) (d : Data) (x : Desc) : Memory :=
  match p with
  | .hbm a => { m with cells := writeBytes m.cells (a / 64 * 64) (dataList d),
                       descs := setDesc m.descs (a / 64) x descVoid }
  | .host a => { m with hostCells := writeBytes m.hostCells (a / 64 * 64) (dataList d),
                        hostDescs := setDesc m.hostDescs (a / 64) x descUint8 }
  | .remote _ _ => m

/-- The canonical form of memory: addresses rise strictly and no entry equals what an unlisted one reads as. -/
def Memory.wf (m : Memory) : Bool :=
  frising m.cells && m.cells.all (fun c => decide (c.2 ≠ 0)) &&
  frising m.descs && m.descs.all (fun c => decide (c.2 ≠ descVoid)) &&
  frising m.hostCells && m.hostCells.all (fun c => decide (c.2 ≠ 0)) &&
  frising m.hostDescs && m.hostDescs.all (fun c => decide (c.2 ≠ descUint8))

/-- All 64 bytes of a mask. -/
def fullMask : BitVec 64 := BitVec.allOnes 64

/-- A POISON code in place of a reserved one (R31). -/
def storedDesc (d : Desc) : Desc := if fmtListed (fmtOf d) then d else mkDesc (scaleOf d) 0x0E#8

/-- What a write leaves in a block that held `old` (R129, R285, R152, R410), and whether an engine's write
made it POISON where descriptors differ (MIX). Unwritten bytes of a VOID block read as zero. -/
def applyWrite (old : Data × Desc) (w : BlockW) : (Data × Desc) × Bool :=
  let base : Data := if descIsVoid old.2 then 0 else old.1
  let full := decide (w.mask = fullMask)
  let d := mergeData base w.data w.mask
  let wd := storedDesc w.desc
  match w.mode with
  | 0 => ((d, if descIsVoid old.2 then descUint8 else old.2), false)
  | 1 =>
    let nd := if fmtOf wd = 0x0E#8 then descPoison
      else if full || descIsVoid old.2 || decide (old.2 = wd) then wd else descPoison
    ((if fmtOf wd = 0#8 then mergeData base 0 w.mask else d, nd), false)
  | 2 =>
    if full || decide (old.2 = wd) then ((d, wd), false)
    else ((d, descPoison), true)
  | _ => ((d, descPoison), false)

/-! ### HBM4 addresses -/

/-- The stack of an HBM4 address. -/
def stackOf (a : Nat) : Nat := a / 2 ^ 36
/-- Home bay of an HBM4 address (R28): stacks 2b and 2b + 1 are bay b's. -/
def homeBay (a : Nat) : Nat := stackOf a / 2
/-- The granule within its stack. -/
def granuleOf (a : Nat) : Nat := a / 2 ^ 21 % 2 ^ 15
/-- The channel of its stripe (R369). -/
def channelOf (a : Nat) : Nat := a / 2 ^ 8 % 32
/-- HBM4 address of a host granule number (R373) and an offset. -/
def hbmAddr (h off : Nat) : Nat := h / 2 ^ 15 * 2 ^ 36 + h % 2 ^ 15 * 2 ^ 21 + off % 2 ^ 21

/-- The owner of a granule at a channel (R378); 0x3F for none. -/
def State.ownerAt (s : State) (stack chan gran : Nat) : Nat :=
  fgetD (fgetD s.owners (stack * 32 + chan) []) gran 0x3F

/-- Does the channel serving an HBM4 address hold the partition as owner (R378)? -/
def State.owns (s : State) (part a : Nat) : Bool :=
  decide (s.ownerAt (stackOf a) (channelOf a) (granuleOf a) = part)

/-- Home bay of a place, for an agent of a bay (R28). -/
def Phys.home (bay : Nat) : Phys → Nat
  | .hbm a => homeBay a
  | _ => bay

/-- A place moved by an offset. -/
def Phys.plus (n : Nat) : Phys → Phys
  | .hbm a => .hbm (a + n)
  | .host a => .host (a + n)
  | .remote m a => .remote m (a + n)

/-- The block a place lies in, as its first byte. -/
def Phys.blk : Phys → Phys
  | .hbm a => .hbm (a / 64 * 64)
  | .host a => .host (a / 64 * 64)
  | .remote m a => .remote m (a / 64 * 64)

/-- Offset of a place within its block. -/
def Phys.low : Phys → Nat
  | .hbm a => a % 64
  | .host a => a % 64
  | .remote _ a => a % 64

end Sys2Proof.Machine
end

