-- ==== Sys2Proof/Machine/Xlate.lean ====
section
/-! DEFINITION. Tensors and translation: descriptors (R296), the panel-table walk (R300 to R303), views
(R437), the translation cache (R304), and the scheduler's own reads and writes of tensor-0 (log 11). -/

namespace Sys2Proof.Machine

/-! ### Guest-physical memory -/

/-- What a guest-physical address reaches. -/
inductive Guest where
  /-- An HBM4 address the partition owns at its channel. -/
  | ok (a : Nat)
  /-- A granule that is not mapped, or whose channel refuses (R303, R378). -/
  | refused (granule : Nat)
  deriving DecidableEq, Repr

/-- Guest-physical to host-physical through the granule map, with the channel's owner check (R376, R378). -/
def State.guest (s : State) (part ga : Nat) : Guest :=
  let g := ga / 2 ^ 21
  match fget (s.part part).granules g with
  | none => .refused g
  | some h =>
    let a := hbmAddr h ga
    if s.owns part a then .ok a else .refused g

/-- The 64-bit word at a guest-physical address, or the granule that refuses it. -/
def State.guestWord (s : State) (part ga : Nat) : Except Nat Nat :=
  match s.guest part ga with
  | .ok a => .ok (ofBytes (readBytes s.mem.cells a 8))
  | .refused g => .error g

/-! ### Tensor descriptors -/

/-- A tensor descriptor's RANK (R296). -/
def tRank (d : List Byte) : Nat := leAt d 0 1
/-- FMT. -/
def tFmt (d : List Byte) : BitVec 8 := BitVec.ofNat 8 (leAt d 1 1)
/-- LAYOUT. -/
def tLayout (d : List Byte) : Nat := leAt d 2 1
/-- SHARED. -/
def tShared (d : List Byte) : Bool := decide (leAt d 3 1 % 2 = 1)
/-- READONLY. -/
def tReadonly (d : List Byte) : Bool := decide (leAt d 3 1 / 2 % 2 = 1)
/-- NOFORK. -/
def tNofork (d : List Byte) : Bool := decide (leAt d 3 1 / 4 % 2 = 1)
/-- EXT of an axis: 1 above RANK (R297). -/
def tExt (d : List Byte) (k : Nat) : Nat := if k < tRank d then leAt d (8 + 4 * k) 4 else 1
/-- ROOT. -/
def tRoot (d : List Byte) : Nat := leAt d 24 8

/-- A slot of a partition's tensor table; absent slots are free at generation 0 (R298). -/
def Partition.slot (p : Partition) (n : Nat) : Slot := fgetD p.slots n ⟨0, 0, 0, []⟩

/-- Replaces a slot. -/
def Partition.setSlot (p : Partition) (n : Nat) (x : Slot) : Partition := { p with slots := fput p.slots n x }

/-- A handle is live: its slot is 0 or within the table, live, and of its generation (R295). -/
def State.handleOk (s : State) (part slot gen : Nat) : Bool :=
  if slot = 0 then decide (gen = 0)
  else
    let p := s.part part
    let x := p.slot slot
    decide (slot < p.twslots.toNat) && decide (x.state = 1) && decide (x.gen.toNat = gen)

/-- ROOT of a slot: tensor 0's stands in the first 64 bytes at TWBASE (R295). -/
def State.rootOf (s : State) (part slot : Nat) : Except Nat Nat :=
  if slot = 0 then s.guestWord part ((s.part part).twbase.toNat + 24)
  else .ok (tRoot ((s.part part).slot slot).bytes)

/-! ### The walk -/

/-- How a walk ends. -/
inductive Walk where
  /-- The leaf entry. -/
  | leaf (e : Nat)
  /-- An entry with V = 0 (R301). -/
  | fault
  /-- A translation error and its entry (R301). -/
  | bad (e : Nat)
  /-- An owner refusal of a node's guest granule (R301). -/
  | owner (g : Nat)
  deriving DecidableEq, Repr

/-- TGT of a leaf. -/
def leafTgt (e : Nat) : Nat := bits e 1 2
/-- READONLY of a leaf. -/
def leafRo (e : Nat) : Bool := e.testBit 3
/-- SHARED of a leaf. -/
def leafSh (e : Nat) : Bool := e.testBit 4
/-- NOFORK of a leaf. -/
def leafNf (e : Nat) : Bool := e.testBit 5

/-- A leaf entry's reserved bits are zero (R300). -/
def leafClean (e : Nat) : Bool :=
  decide (bits e 6 10 = 0) && decide (leafTgt e ≠ 3) &&
    (match leafTgt e with
     | 0 => decide (bits e 48 16 = 0)
     | 2 => decide (bits e 48 4 = 0)
     | _ => true)

/-- The three-level walk of panel `p` from ROOT (R300, R301). -/
def State.walk (s : State) (part root p : Nat) : Walk :=
  match s.guestWord part (root + 8 * bits p 21 11) with
  | .error g => .owner g
  | .ok e1 =>
    if e1 % 2 = 0 then .fault
    else if bits e1 1 13 ≠ 0 ∨ bits e1 48 16 ≠ 0 then .bad e1
    else
      match s.guestWord part (bits e1 14 34 * 2 ^ 14 + 8 * bits p 10 11) with
      | .error g => .owner g
      | .ok e2 =>
        if e2 % 2 = 0 then .fault
        else if bits e2 1 12 ≠ 0 ∨ bits e2 48 16 ≠ 0 then .bad e2
        else
          match s.guestWord part (bits e2 13 35 * 2 ^ 13 + 8 * bits p 0 10) with
          | .error g => .owner g
          | .ok e3 =>
            if e3 % 2 = 0 then .fault
            else if leafClean e3 then .leaf e3 else .bad e3

/-- The private panel of a view or of a view enclosing it, innermost first (R437). -/
def overlayOf (views : FMap View) : Nat → Nat → Nat → Nat → Option (Nat × Nat)
  | 0, _, _, _ => none
  | n + 1, v, slot, panel =>
    if v = 0 then none
    else
      match fget views v with
      | none => none
      | some x =>
        match x.overlay.find? fun o => o.1 == slot && o.2.1 == panel with
        | some o => some (v, o.2.2)
        | none => overlayOf views n x.parent slot panel

/-- The overlay panel that holds (slot, panel) for a view, with the view that holds it. -/
def State.overlay (s : State) (part v slot panel : Nat) : Option (Nat × Nat) :=
  overlayOf (s.part part).views 4 v slot panel

/-- Translation-cache entries of a partition on each bay (R372). -/
def Partition.xent (p : Partition) : Nat := leAt p.record 24 2

/-- Keeps a translation in a bay's cache, within the partition's quota (R304, R375). -/
def State.keepTlb (s : State) (b : Nat) (t : TlbEntry) : State :=
  let x := s.bay b
  let mine := x.tlb.filter fun e => e.part == t.part
  let quota := (s.part t.part).xent
  if quota = 0 then s
  else
    let old := if mine.length < quota then x.tlb else
      match mine with
      | [] => x.tlb
      | e :: _ => x.tlb.erase e
    s.setBay b { x with tlb := old ++ [t] }

/-- Translates panel `panel` of a slot in a view, for an agent of a bay (R304, R437); answers the walk and
the state with the translation cached. -/
def State.xlate (s : State) (b part view slot panel : Nat) : Walk × State :=
  match s.overlay part view slot panel with
  | some (_, g) => (.leaf (g * 2 ^ 16 + 1), s)
  | none =>
    match (s.bay b).tlb.find? fun e => e.part == part && e.view == view && e.slot == slot && e.panel == panel with
    | some e => (.leaf e.leaf.toNat, s)
    | none =>
      match s.rootOf part slot with
      | .error g => (.owner g, s)
      | .ok root =>
        match s.walk part root panel with
        | .leaf e => (.leaf e, s.keepTlb b ⟨part, view, slot, panel, BitVec.ofNat 64 e⟩)
        | w => (w, s)

/-- Where a leaf and an offset lead (R303): HBM4 through the granule map, host memory, or another module.
An HBM4 place carries its guest granule; an unmapped one is refused. -/
def State.placeOf (s : State) (part e off : Nat) : Except Nat Phys :=
  match leafTgt e with
  | 0 =>
    let ga := bits e 16 32 * 2 ^ 16 + off % 2 ^ 16
    match fget (s.part part).granules (ga / 2 ^ 21) with
    | none => .error (ga / 2 ^ 21)
    | some h => .ok (.hbm (hbmAddr h ga))
  | 1 => .ok (.host (bits e 16 48 * 2 ^ 16 + off % 2 ^ 16))
  | _ => .ok (.remote (bits e 52 12) (bits e 16 32 * 2 ^ 16 + off % 2 ^ 16))

/-- Guest granule of a leaf of TGT 0. -/
def leafGranule (e off : Nat) : Nat := (bits e 16 32 * 2 ^ 16 + off % 2 ^ 16) / 2 ^ 21

/-! ### The scheduler's own accesses (log 11) -/

/-- Where a tensor-0 address of a partition lies in the base view; `none` where it cannot be reached. -/
def State.t0 (s : State) (part addr : Nat) : Option Phys :=
  if 2 ^ 48 ≤ addr then none
  else
    match s.rootOf part 0 with
    | .error _ => none
    | .ok root =>
      match s.walk part root (addr / 2 ^ 16) with
      | .leaf e =>
        match s.placeOf part e addr with
        | .ok (.hbm a) => if s.owns part a then some (.hbm a) else none
        | .ok (.host a) => some (.host a)
        | _ => none
      | _ => none

/-- Bytes of the blocks from block address `a`, `n` blocks. -/
def State.t0Blocks (s : State) (part : Nat) : Nat → Nat → Option (List Byte)
  | 0, _ => some []
  | n + 1, a =>
    match s.t0 part a, s.t0Blocks part n (a + 64) with
    | some p, some t => some (dataList (s.mem.block p).1 ++ t)
    | _, _ => none

/-- Reads `n` bytes at a tensor-0 address. -/
def State.t0Read (s : State) (part addr n : Nat) : Option (List Byte) :=
  (s.t0Blocks part ((addr % 64 + n + 63) / 64) (addr / 64 * 64)).map fun l => (l.drop (addr % 64)).take n

/-- Reads a little-endian value of `n` bytes. -/
def State.t0Nat (s : State) (part addr n : Nat) : Option Nat := (s.t0Read part addr n).map ofBytes

/-- Writes bytes within one block at its home, with a core store's rule for the descriptor (R129). -/
def State.pokeBlock (s : State) (p : Phys) (l : List Byte) : State :=
  let k := p.low
  let w : BlockW := ⟨p, placeBytes (ofBytes l) k, descUint8, byteMask k l.length, 0⟩
  let r := (applyWrite (s.mem.block p) w).1
  { s with mem := s.mem.setBlock p r.1 r.2 }

/-- An access of one block by the scheduler counts in HBMRD or HBMWR, or in HOSTBYTES (R393; log 11). -/
def State.meterBlock (s : State) (part : Nat) (wr : Bool) (n : Nat) (p : Phys) : State :=
  match p with
  | .hbm _ => s.meter part (if wr then 8 else 7) 64
  | .host _ => s.meter part 13 n
  | .remote _ _ => s

/-- Writes bytes at a tensor-0 address, a block at a time. -/
def State.t0WriteAux (part : Nat) : Nat → Nat → List Byte → State → Option State
  | 0, _, _, s => some s
  | n + 1, a, l, s =>
    if l.isEmpty then some s
    else
      let k := 64 - a % 64
      match s.t0 part a with
      | none => none
      | some p => State.t0WriteAux part n (a + k) (l.drop k) ((s.pokeBlock p (l.take k)).meterBlock part true (Nat.min k l.length) p)

/-- Writes bytes at a tensor-0 address; `none` where part of it cannot be reached. -/
def State.t0Write (s : State) (part addr : Nat) (l : List Byte) : Option State :=
  State.t0WriteAux part (l.length / 64 + 2) addr l s

/-- Writes a value of `n` bytes, leaving the state as it is where the address cannot be reached. -/
def State.t0Put (s : State) (part addr n v : Nat) : State := (s.t0Write part addr (toBytes n v)).getD s

/-- Host memory bytes (R372, R451). -/
def State.hostRead (s : State) (addr n : Nat) : List Byte := readBytes s.mem.hostCells addr n

/-- Writes host memory bytes. -/
def State.hostWrite (s : State) (addr : Nat) (l : List Byte) : State :=
  { s with mem := { s.mem with hostCells := writeBytes s.mem.hostCells addr l } }

end Sys2Proof.Machine
end

