-- ==== Sys2Proof/Machine/Events.lean ====
section
/-! DEFINITION. Events and interrupts (R361 to R363, R373), and the requests that a stalled agent raises
(R369, R401, R402, R445). -/

namespace Sys2Proof.Machine

/-- Raises an MSI-X vector: a masked vector becomes pending, else its message is sent (R361). The table's
mask bit is bit 32 of the second word of a vector (PCIe layout). -/
def Msix.raise (m : Msix) (v : Nat) : Msix :=
  match fget m.table v with
  | some (_, w) => if w.getLsbD 32 then { m with pending := setBitTo m.pending v true } else { m with sent := v :: m.sent }
  | none => { m with pending := setBitTo m.pending v true }

/-- Raises a vector of a virtual function. -/
def State.raiseVf (s : State) (n v : Nat) : State :=
  let x := s.vf n
  s.setVf n { x with msix := x.msix.raise v }

/-- The 32 bytes of event record `n` (R362). -/
def eventBytes (n : Nat) (e : Event) : List Byte :=
  toBytes 8 (n + 1) ++ toBytes 8 e.type ++ toBytes 8 e.info0.toNat ++ toBytes 8 e.info1.toNat

/-- Capacity of a ring. -/
def EventRing.capacity (r : EventRing) : Nat := 2 ^ r.log.toNat

/-- Is there room for a record (R363)? -/
def EventRing.room (r : EventRing) : Bool := decide ((r.prod - r.cons).toNat < r.capacity)

/-- Writes a record into a function's ring and raises its vector; `none` where the ring is off, full or
cannot be reached. -/
def State.putEvent (s : State) (n : Nat) (e : Event) : Option State :=
  let x := s.vf n
  match x.part with
  | none => none
  | some p =>
    if x.eq.log.toNat = 0 ∨ !x.eq.room then none
    else
      match s.t0Write p (x.eq.base.toNat + 32 * (x.eq.prod.toNat % x.eq.capacity)) (eventBytes x.eq.prod.toNat e) with
      | none => none
      | some t =>
        let y := t.vf n
        some ((t.setVf n { y with eq := { y.eq with prod := y.eq.prod + 1 } }).raiseVf n (x.eq.vec.toNat % 32))

/-- An event that may be dropped when there is no room to hold it (R363). -/
def Event.droppable (e : Event) : Bool := decide (e.type = 2) || decide (e.type = 4)

/-- Sends an event to a virtual function (R362, R363): written, or held, or counted in EQDROP. Answers
whether it was queued or held. An event of a function whose ring is off is discarded. -/
def State.sendEvent (s : State) (n : Nat) (e : Event) : Bool × State :=
  let x := s.vf n
  if x.eq.log.toNat = 0 then (true, s)
  else
    match (if x.eq.held.isEmpty then s.putEvent n e else none) with
    | some t => (true, t)
    | none =>
      if x.eq.held.length < 64 then (true, s.setVf n { x with eq := { x.eq with held := x.eq.held ++ [e] } })
      else if e.droppable then (true, s.setVf n { x with eq := { x.eq with drop := x.eq.drop + 1 } })
      else (false, s)

/-- Writes as many held events of a function as its ring has room for. -/
def State.drainEvents (n : Nat) : Nat → State → State
  | 0, s => s
  | k + 1, s =>
    match (s.vf n).eq.held with
    | [] => s
    | e :: t =>
      match s.putEvent n e with
      | none => s
      | some s' =>
        let y := s'.vf n
        State.drainEvents n k (s'.setVf n { y with eq := { y.eq with held := t } })

/-- Sends an event to the physical function, whose ring lies in its own memory (R373). -/
def State.sendPfEvent (s : State) (e : Event) : State :=
  let r := s.pf.eq
  if r.log.toNat = 0 then s
  else if r.held.isEmpty && r.room then
    let s' := s.hostWrite (r.base.toNat + 32 * (r.prod.toNat % r.capacity)) (eventBytes r.prod.toNat e)
    { s' with pf := { s'.pf with eq := { r with prod := r.prod + 1 }, msix := s'.pf.msix.raise (r.vec.toNat % 32) } }
  else if r.held.length < 64 then { s with pf := { s.pf with eq := { r with held := r.held ++ [e] } } }
  else { s with pf := { s.pf with eq := { r with drop := r.drop + 1 } } }

/-- Writes held events of the physical function while its ring has room. -/
def State.drainPf : Nat → State → State
  | 0, s => s
  | k + 1, s =>
    match s.pf.eq.held with
    | [] => s
    | e :: t =>
      if s.pf.eq.room then
        State.drainPf k (({ s with pf := { s.pf with eq := { s.pf.eq with held := [] } } }.sendPfEvent e)
          |> fun x => { x with pf := { x.pf with eq := { x.pf.eq with held := t } } })
      else s

/-! ### Page requests and refusals -/

/-- Agent code, bay and write bit as PAGEREQ and ISOFAULT carry them (R362, R402). -/
def agentInfo (a : AgentId) (wr : Bool) : Nat :=
  a.code % 512 * 2 ^ 44 + a.bay % 8 * 2 ^ 41 + (if wr then 2 ^ 40 else 0)

/-- Slot, generation and panel as PAGEREQ and XLATEERR carry them (R402). -/
def panelInfo (slot gen panel : Nat) : Nat :=
  slot % 65536 + gen % 256 * 2 ^ 16 + panel % 2 ^ 32 * 2 ^ 24

/-- The function through which the launch of a truss was submitted. -/
def State.vfOfTruss (s : State) (t : Nat) : Nat :=
  (((fget s.trusses t).bind s.launchOf).map Launch.vf).getD 0

/-- The function an event of a page's agents goes to. -/
def State.vfOfPage (s : State) (p : Nat) : Nat := s.vfOfTruss (s.page p).truss

/-- The next request id, skipping 0 when it wraps (R402). -/
def ridNext (n : Nat) : Nat := if n + 1 = 2 ^ 32 then 1 else n + 1

/-- A translation fault of an agent: it joins the outstanding request for the panel or raises one (R402).
Answers the stall it takes; an event that cannot be queued stalls it on the event (R363). -/
def State.raiseFault (s : State) (part vfn : Nat) (a : AgentId) (slot gen panel : Nat) (wr : Bool) : Stall × State :=
  let p := s.part part
  match p.reqs.find? fun r => r.slot == slot && r.gen == gen && r.panel == panel with
  | some r =>
    let r' := if r.agents.any fun z => z.1 == a then r else { r with agents := r.agents ++ [(a, wr)] }
    (.fault r.rid, s.setPart part { p with reqs := p.reqs.map fun q => if q.rid == r.rid then r' else q })
  | none =>
    let rid := p.nextRid
    let info0 := agentInfo a wr + p.gen.toNat * 2 ^ 32 + rid
    let r := s.sendEvent vfn ⟨1, BitVec.ofNat 64 info0, BitVec.ofNat 64 (panelInfo slot gen panel)⟩
    if r.1 then
      let q := r.2.part part
      (.fault rid, r.2.setPart part { q with reqs := q.reqs ++ [⟨rid, slot, gen, panel, [(a, wr)]⟩], nextRid := ridNext rid })
    else (.event, s)

/-- A translation error: an XLATEERR event, and a failed page request at once (R301, R401); an event that cannot be queued stalls
the agent, which makes its access again once there is room (R363). -/
def State.raiseXlateErr (s : State) (vfn slot gen panel entry : Nat) : Option Stall × State :=
  let r := s.sendEvent vfn ⟨5, BitVec.ofNat 64 (panelInfo slot gen panel), BitVec.ofNat 64 entry⟩
  (if r.1 then none else some .event, r.2)

/-- An owner refusal: one ISOFAULT event (R369, R401). -/
def State.raiseIso (s : State) (vfn : Nat) (a : AgentId) (granule : Nat) (wr : Bool) : Stall × State :=
  let r := s.sendEvent vfn ⟨7, BitVec.ofNat 64 (agentInfo a wr), BitVec.ofNat 64 (granule % 2 ^ 27)⟩
  if r.1 then (.owner granule, r.2) else (.event, s)

/-- View exhaustion: the writer joins those that wait for a panel, and one VIEWEXHAUST event is sent until the view
has no agent stalled (R445). -/
def State.raiseExhaust (s : State) (part vfn view slot panel launch : Nat) (a : AgentId) : Stall × State :=
  let p := s.part part
  let join (s : State) : State := s.modPart part fun q => { q with starved := q.starved ++ [(a, view, slot, panel)] }
  match fget p.views view with
  | none => (.exhausted view, s)
  | some v =>
    if v.exhausted then (.exhausted view, join s)
    else
      let id := ((fget s.launches launch).map fun l => l.ident.toNat).getD 0
      let r := s.sendEvent vfn ⟨6, BitVec.ofNat 64 id, BitVec.ofNat 64 view⟩
      if r.1 then
        (.exhausted view, (join r.2).modPart part fun q => { q with views := fput q.views view { v with exhausted := true } })
      else (.event, s)

end Sys2Proof.Machine
end

