-- ==== Sys2Proof/Machine/Requests.lean ====
section
/-! DEFINITION. Requesters: how an agent's reads, writes and atomics become packets, the remote-data cache
beside them, and their bookkeeping (R307, R313, R314, R318 to R330, R452). -/

namespace Sys2Proof.Machine

/-! ### Routes -/

/-- The number of the output of bay `b` toward bay `d`; `b` itself for its bay-local output. -/
def outNo (b d : Nat) : Nat := b * 8 + d

/-- A switch output. -/
def State.out (s : State) (k : Nat) : SwitchOut := fgetD s.outs k SwitchOut.reset

/-- Replaces a switch output. -/
def State.setOut (s : State) (k : Nat) (o : SwitchOut) : State := { s with outs := fput s.outs k o }

/-- Bays that share a seam (R9). -/
def seamed (a b : Nat) : Bool :=
  (decide (a / 4 = b / 4) && (decide (a % 4 + 1 = b % 4) || decide (b % 4 + 1 = a % 4)))
    || (decide (a % 4 = b % 4) && decide (a / 4 ≠ b / 4))

/-- Bays passed along a row from column `c` to column `d`, `c` excluded. -/
def rowWalk (row c d : Nat) : List Nat :=
  if c < d then (List.range (d - c)).map fun k => row * 4 + c + k + 1
  else (List.range (c - d)).map fun k => row * 4 + c - k - 1

/-- The bays of a route: vertical seams of the source row first, then the horizontal seam (R452). -/
def routeBays (b d : Nat) : List Nat :=
  b :: rowWalk (b / 4) (b % 4) (d % 4) ++ (if b / 4 = d / 4 then [] else [d])

/-- The route that crosses the horizontal seam first (R452). -/
def routeBaysAlt (b d : Nat) : List Nat :=
  if b / 4 = d / 4 then routeBays b d
  else b :: (d / 4 * 4 + b % 4) :: rowWalk (d / 4) (b % 4) (d % 4)

/-- The links of a route work. -/
def State.linksWork (s : State) : List Nat → Bool
  | a :: b :: t => !(s.out (outNo a b)).failed && s.linksWork (b :: t)
  | _ => true

/-- Any route of working links, at most `n` bays long (R452). -/
def State.anyRoute (s : State) (d : Nat) : Nat → Nat → Option (List Nat)
  | 0, _ => none
  | n + 1, b =>
    if b = d then some [b]
    else
      (List.range 8).foldl (fun best x =>
        match best with
        | some r => some r
        | none => if seamed b x && !(s.out (outNo b x)).failed then (s.anyRoute d n x).map (b :: ·) else none) none

/-- The bays of the route a packet takes (R452). -/
def State.route (s : State) (b d : Nat) : List Nat :=
  if s.linksWork (routeBays b d) then routeBays b d
  else if s.linksWork (routeBaysAlt b d) then routeBaysAlt b d
  else (s.anyRoute d 8 b).getD (routeBays b d)

/-- The outputs of a route of bays, the local output of the last bay included. -/
def pathOf : List Nat → List Nat
  | [] => []
  | [d] => [outNo d d]
  | a :: b :: t => outNo a b :: pathOf (b :: t)

/-! ### Sending -/

/-- Class of an agent's memory packets: C2 from engines and the move unit, else C1 (R321). -/
def agentClass (a : AgentId) : Nat := if 0x1B0 ≤ a.code ∧ a.code ≤ 0x1B8 ∧ a.code ≠ 0x1B6 then 2 else 1

/-- The home of a bay (R320). -/
def homeAgent (b : Nat) : AgentId := ⟨b, 0x1B6, 0⟩

/-- A packet with no content. -/
def Packet.blank (op : PktOp) (part : Nat) (src dst : AgentId) (cls : Nat) : Packet where
  op := op
  part := part
  src := src
  dst := dst
  seq := 0
  tag := 0
  len := 0
  cls := cls
  trim := false
  vec := []
  slot := 0
  gen := 0
  off := 0
  phys := .hbm 0
  blocks := []
  words := []
  aop := 0
  width := 0
  n := 0
  note := 0
  path := []
  at_ := none
  metered := false
  retry := false
  guest := 0
  dmod := none
  smod := none
  bad := 0
  life := 0

/-- The guest granule that the map puts at an HBM4 place (R376). -/
def State.guestOf (s : State) (part : Nat) : Phys → Nat
  | .hbm a => (((s.part part).granules.find? fun x => x.2 == stackOf a * 2 ^ 15 + granuleOf a).map Prod.fst).getD 0
  | _ => 0

/-- The number of the output of a span port toward its link, after the 64 of the bays (R320). -/
def spanOut (a : AgentId) : Nat := 64 + 2 * a.bay + a.code % 2

/-- Is an agent a span port (R320)? -/
def isSpanPort (a : AgentId) : Bool := decide (a.code = 0x1C0) || decide (a.code = 0x1C1)

/-- The outputs that a packet passes from a bay to its destination: its route and the local output of its destination bay; of a
span port's to another module, the link of the port; of one that comes over a link, the local output alone (R320, R452). -/
def State.pathFrom (s : State) (b : Nat) (k : Packet) : List Nat :=
  if k.dmod.isSome && isSpanPort k.src then [spanOut k.src]
  else if k.smod.isSome && isSpanPort k.dst then [outNo k.dst.bay k.dst.bay]
  else pathOf (s.route b k.dst.bay)

/-- Puts a packet on its way from its source (R318, R452). -/
def State.send (s : State) (k : Packet) : State :=
  { s with packets := fput s.packets s.fresh { k with path := s.pathFrom k.src.bay k, at_ := none }, fresh := s.fresh + 1 }

/-- The page of an agent code, and its kind, for the agents of a page. -/
def agentPage (a : AgentId) : Option (Nat × Nat) :=
  if a.code < 432 then some (pageOfBay a.bay (a.code / 8), a.code % 8) else none

/-- The spill unit of a link in one direction, as an agent: R320 gives it no code, and it has that of the move unit of its bay,
which writes and reads in C2 as it does (R321, R356; log 13). -/
def spillAgent (n : Nat) (l : Link) (wr : Bool) : AgentId := ⟨l.bay, 0x1B8, 2 * n + (if wr then 1 else 2)⟩

/-- The link of a spill unit's agent. -/
def agentLink (a : AgentId) : Option Nat := if a.code = 0x1B8 ∧ 0 < a.sub then some ((a.sub - 1) / 2) else none

/-! ### Slices of a partition on a bay -/

/-- RDC slices of a partition on a bay (R372). -/
def Partition.rdcSlices (p : Partition) (b : Nat) : Nat := leAt p.record (16 + b) 1

/-- L2 slices of a partition on a bay (R372). -/
def Partition.l2Slices (p : Partition) (b : Nat) : Nat := leAt p.record (8 + b) 1

/-- Block number of an HBM4 place homed on another bay than `b`, if it is one. -/
def remoteBlock (b : Nat) : Phys → Option Nat
  | .hbm a => if homeBay a = b then none else some (a / 64)
  | _ => none

/-- Does the partition cache remote blocks on this bay (R308)? -/
def State.rdcOn (s : State) (b part : Nat) : Bool := decide (0 < (s.part part).rdcSlices b)

/-! ### The hazard detector (R272 to R274) -/

/-- The detector checks a page: its core has turned it on, in a launch in debug mode (R100). -/
def State.hazOn (s : State) (p : Nat) : Bool :=
  (s.page p).core.haz && ((((s.trussOf p).bind s.launchOf).map Launch.debug).getD false)

/-- An access of an agent of a page to a block has been issued and is not performed: a write that the page's bay does
not see yet (R138 at .B), or any when the other access writes. -/
def State.inFlight (s : State) (a : AgentId) (r : Requester) (ph : Phys) (wr : Bool) : Bool :=
  let at_ (k : Packet) : Bool := decide (k.phys.blk = ph.blk) || k.blocks.any fun w => decide (w.phys.blk = ph.blk)
  let seen (k : Packet) : Bool := decide (k.op = .write) && (remoteBlock a.bay ph).isSome && s.rdcOn a.bay k.part
  (r.kept.any fun k => at_ k.pkt && !seen k.pkt) || r.unsent.any at_
    || (wr && r.win.any fun e => e.got.isNone && decide (e.pkt.op = .read) && decide (e.pkt.phys.blk = ph.blk))

/-- A store port of a page, other than an agent, has gathered bytes of a block and not sent them. -/
def State.gathered (s : State) (p : Nat) (a : AgentId) (ph : Phys) : Bool :=
  [0, 1, 2, 3].any fun n => !(decide (a.code % 8 = 2) && decide (a.sub = n))
    && ((s.page p).port (4 + n)).buf.any fun w => decide (w.phys.blk = ph.blk)

/-- The core's L1D holds bytes of a block that are not written back: its store is not yet performed for the other
agents of its page. -/
def State.dirtyAt (s : State) (p : Nat) (ph : Phys) : Bool :=
  let part := ((s.trussOf p).map Truss.part).getD 0x3F
  (s.page p).core.l1d.any fun l => decide (l.dirty ≠ 0) &&
    match (s.xlate (bayOf p) part l.view 0 (l.line / 1024)).1 with
    | .leaf e =>
      match s.placeOf part e (l.line * 64) with
      | .ok q => decide (q.blk = ph.blk)
      | .error _ => false
    | _ => false

/-- Another agent of the page has an access to the block in flight, and one of the two writes (R272). -/
def State.hazardAt (s : State) (p : Nat) (a : AgentId) (ph : Phys) (wr : Bool) : Bool :=
  (s.reqs.any fun q => q.1 != a && (agentPage q.1).map Prod.fst == some p && s.inFlight q.1 q.2 ph wr)
    || s.gathered p a ph || (decide (a.code % 8 ≠ 0) && s.dirtyAt p ph)

/-- Slot, generation and block offset as TVAL gives them (R274). -/
def hazardKey (slot gen off : Nat) : Word :=
  BitVec.ofNat 64 ((slot % 2 ^ 16 + gen % 2 ^ 8 * 2 ^ 16) * 2 ^ 40 + off / 64 * 64 % 2 ^ 40)

/-- The detector sees an access of an agent of a page: a hazard is taken at the core's next boundary. What its region
reads it records from the first REGION on (R272 to R274). Of several hazards before that boundary the first is taken (DESIGN
CHOICE, log 116). -/
def State.noteAccess (s : State) (a : AgentId) (slot gen off : Nat) (ph : Phys) (wr : Bool) : State :=
  match agentPage a with
  | none => s
  | some (p, _) =>
    if !s.hazOn p then s
    else
      let c := (s.page p).core
      let bad := s.hazardAt p a ph wr || (wr && c.regionReads.contains ph.blk)
      s.modCore p fun c => { c with
        hazard := if bad && c.hazard.isNone then some (hazardKey slot gen off) else c.hazard,
        regionReads := if wr || (s.page p).region.isNone || c.regionReads.contains ph.blk || decide (4096 ≤ c.regionReads.length) then c.regionReads
                       else c.regionReads ++ [ph.blk] }

/-- The detector sees an access of a port or element; a core's are seen where its instruction makes them. -/
def State.noteOther (s : State) (a : AgentId) (slot gen off : Nat) (ph : Phys) (wr : Bool) : State :=
  if a.code % 8 = 0 then s else s.noteAccess a slot gen off ph wr

/-! ### Knowledge and indexes -/

/-- The vector K_d,h of a bay toward a home (R313). -/
def Bay.knowVec (b : Bay) (h : Nat) : List (BitVec 32) := (List.range 8).map fun e => fgetD b.know (h * 8 + e) 0

/-- The larger of two wrapping counts. -/
def maxWrap (x y : BitVec 32) : BitVec 32 := if geWrap x y then x else y

/-- Raises K_d,h[e] (R313). -/
def Bay.learn (b : Bay) (h e : Nat) (n : BitVec 32) : Bay :=
  { b with know := fput b.know (h * 8 + e) (maxWrap (fgetD b.know (h * 8 + e) 0) n) }

/-- Raises K_d,h by a vector. -/
def Bay.learnVec (b : Bay) (h : Nat) (v : List (BitVec 32)) : Bay :=
  (v.zipIdx).foldl (fun x p => x.learn h p.2 p.1) b

/-- The applied vector A_h (R313). -/
def Home.vec (h : Home) : List (BitVec 32) := (List.range 8).map fun e => fgetD h.applied e 0

/-- Two places lie in one block. -/
def Phys.sameBlock (p q : Phys) : Bool := decide (p.blk = q.blk)

/-- Does a write touch a block? -/
def Packet.touches (k : Packet) (p : Phys) : Bool := k.blocks.any fun w => w.phys.sameBlock p

/-- Another module's number, where a place is one of its panels (R319). -/
def Phys.module : Phys → Option (BitVec 12)
  | .remote m _ => some (BitVec.ofNat 12 m)
  | .hbm _ => none
  | .host _ => none

/-- Advances A_h over indexes applied ahead. -/
def Home.catchUp (e : Nat) : Nat → Home → Home
  | 0, h => h
  | k + 1, h =>
    let n := fgetD h.applied e 0 + 1
    if h.ahead.contains (e, n) then
      Home.catchUp e k { h with applied := fput h.applied e n, ahead := h.ahead.erase (e, n) }
    else h

/-- A write of bay `e` with index `n` is applied or abandoned (R313, R328). -/
def Home.mark (h : Home) (e : Nat) (n : BitVec 32) : Home :=
  if geWrap (fgetD h.applied e 0) n || h.ahead.contains (e, n) then h
  else ({ h with ahead := (e, n) :: h.ahead }).catchUp e (h.ahead.length + 1)

/-! ### The remote-data cache -/

/-- An RDC line of a partition. -/
def Bay.rdcLine (b : Bay) (part block : Nat) : Option RdcLine :=
  b.rdc.find? fun l => l.part == part && l.block == block

/-- A line of a block of which the bay knows nothing yet. -/
def RdcLine.blank (part block : Nat) : RdcLine := ⟨part, block, 0, descVoid, false, 0, []⟩

/-- RDC lines of one slice: 2 MiB of 64-byte lines (R308). -/
def rdcSliceLines : Nat := 32768

/-- Replaces or adds an RDC line in `slices` slices of its partition; a line that holds nothing is dropped, and of as
many others as the slices hold the oldest with no unacknowledged byte gives way (R307, R308; which, log 94). -/
def Bay.setRdc (b : Bay) (slices : Nat) (l : RdcLine) : Bay :=
  let rest := b.rdc.filter fun x => !(x.part == l.part && x.block == l.block)
  if l.valid = 0 ∧ l.unacked.isEmpty then { b with rdc := rest }
  else
    let mine := rest.filter fun x => x.part == l.part
    let rest := if mine.length < slices * rdcSliceLines then rest else
      match mine.reverse.find? fun x => x.unacked.isEmpty with
      | some x => rest.erase x
      | none => rest
    { b with rdc := l :: rest }

/-- Bytes of a line that are valid from the home or unacknowledged. -/
def RdcLine.held (l : RdcLine) : BitVec 64 := l.unacked.foldl (fun m u => m ||| u.2) l.valid

/-- Bytes of a line that are unacknowledged. -/
def RdcLine.pend (l : RdcLine) : BitVec 64 := l.unacked.foldl (fun m u => m ||| u.2) 0

/-- A bay's RDC can take blocks of a partition: those that are homed elsewhere and not cached find free ways, or ways that
no unacknowledged byte holds (R307, R308). -/
def State.rdcRoom (s : State) (b part : Nat) (ps : List Phys) : Bool :=
  let ks := (ps.filterMap (remoteBlock b)).foldl (fun l k => if l.contains k then l else l ++ [k]) []
  let mine := (s.bay b).rdc.filter fun l => l.part == part
  let new := ks.filter fun k => !mine.any fun l => l.block == k
  !s.rdcOn b part || decide (new.length + mine.length
    ≤ (s.part part).rdcSlices b * rdcSliceLines + (mine.filter fun l => l.unacked.isEmpty && !ks.contains l.block).length)

/-- A read of a block served by the bay's RDC: a line that covers the mask and whose descriptor is the block's (R129, R307,
R312). -/
def State.rdcHit (s : State) (b part : Nat) (p : Phys) (mask : BitVec 64) : Option RdcLine :=
  match remoteBlock b p with
  | none => none
  | some k =>
    if s.rdcOn b part then
      match (s.bay b).rdcLine part k with
      | some l => if l.known && decide (mask &&& ~~~l.held = 0) then some l else none
      | none => none
    else none

/-- Unacknowledged writes that a read of some bytes of a line sees. -/
def RdcLine.seen (l : RdcLine) (mask : BitVec 64) : List (BitVec 32) :=
  (l.unacked.filter fun u => decide (u.2 &&& mask ≠ 0)).map Prod.fst

/-- What a read of unacknowledged bytes does: K_d,h[d] rises (R313), and the reading agent's writes to other
homes are held (R314). -/
def State.seeUnacked (s : State) (a : AgentId) (h : Nat) (ns : List (BitVec 32)) : State :=
  ns.foldl (fun s n =>
    let s := s.setBay a.bay ((s.bay a.bay).learn h a.bay n)
    let r := s.req a
    s.setReq a { r with holds := if r.holds.contains (h, n) then r.holds else (h, n) :: r.holds }) s

/-- A write of the bay marks its bytes valid and unacknowledged in the RDC (R307). -/
def State.rdcWrite (s : State) (b part : Nat) (n : BitVec 32) (w : BlockW) : State :=
  match remoteBlock b w.phys with
  | none => s
  | some k =>
    if s.rdcOn b part then
      let x := s.bay b
      let l := (x.rdcLine part k).getD (RdcLine.blank part k)
      let known := l.known || (decide (w.mode ≠ 0) && decide (w.mask = fullMask))
      let z := if known then (applyWrite (l.data, l.desc) w).1 else (mergeData l.data w.data w.mask, l.desc)
      let l' := { l with data := z.1, desc := z.2, known := known, unacked := l.unacked ++ [(n, w.mask)] }
      s.setBay b (x.setRdc ((s.part part).rdcSlices b) l')
    else s

/-- An acknowledgement of a write: its bytes become ordinary valid bytes (R307). -/
def Bay.rdcAck (x : Bay) (n : BitVec 32) (block : Nat) : Bay :=
  { x with rdc := x.rdc.map fun l =>
      if l.block == block && l.unacked.any (fun u => u.1 == n) then
        { l with valid := l.valid ||| ((l.unacked.filter fun u => u.1 == n).foldl (fun m u => m ||| u.2) 0),
                 unacked := l.unacked.filter fun u => u.1 != n }
      else l }

/-- A write is given up: what it left in the line counts no more, and the home is asked for the block again (R307, R328). -/
def Bay.rdcGiveUp (x : Bay) (n : BitVec 32) (block : Nat) : Bay :=
  let ls := x.rdc.map fun l =>
    if l.block == block && l.unacked.any (fun u => u.1 == n) then
      { l with known := false, valid := 0, unacked := l.unacked.filter fun u => u.1 != n }
    else l
  { x with rdc := ls.filter fun l => !(l.valid == 0 && l.unacked.isEmpty) }

/-- An unacknowledged write of a bay to a home, by its index: the block of it at a place. -/
def State.pendingWrite (s : State) (b h : Nat) (n : BitVec 32) (p : Phys) : Option BlockW :=
  s.reqs.findSome? fun q =>
    if q.1.bay = b then
      (q.2.kept.find? fun x => decide (x.home = h) && decide (x.pkt.n = n)).bind fun x =>
        x.pkt.blocks.find? fun w => w.phys.sameBlock p
    else none

/-- What a bay sees of a block that its home has returned: with its writes of it, those acknowledged since the read was sent
and then those unacknowledged (R129, R307, R309). -/
def State.ownOver (s : State) (b : Nat) (l : Option RdcLine) (late : List BlockW) (w : BlockW) : Data × Desc :=
  let un := (l.map RdcLine.unacked).getD []
  let pend := un.filterMap fun u =>
    (s.pendingWrite b (w.phys.home b) u.1 w.phys).map fun x => { x with mask := x.mask &&& u.2 }
  (late ++ pend).foldl (fun z x => (applyWrite z x).1) (w.data, w.desc)

/-- A block returned from its home fills the bay's line, unacknowledged bytes kept (R307). -/
def State.rdcFill (s : State) (b part : Nat) (late : List BlockW) (w : BlockW) : State :=
  match remoteBlock b w.phys with
  | none => s
  | some k =>
    if s.rdcOn b part then
      let x := s.bay b
      let l := (x.rdcLine part k).getD (RdcLine.blank part k)
      let d := s.ownOver b (some l) late w
      s.setBay b (x.setRdc ((s.part part).rdcSlices b) { l with data := d.1, desc := d.2, known := true, valid := ~~~l.pend })
    else s

/-- Changes the reads through a bay's RDC, of blocks of a partition, that are under way. -/
def State.modReads (s : State) (b part : Nat) (at_ : Nat → Bool) (f : WinEntry → WinEntry) : State :=
  let hit (e : WinEntry) : Bool := e.got.isNone && decide (e.pkt.op = .read) && decide (e.pkt.part = part)
    && decide (e.pkt.note ≠ 1) && ((remoteBlock b e.pkt.phys).map at_).getD false
  let g (q : AgentId × Requester) : AgentId × Requester :=
    if q.1.bay = b then (q.1, { q.2 with win := q.2.win.map fun e => if hit e then f e else e }) else q
  { s with reqs := s.reqs.map g }

/-- An atomic changes bytes at the home that the bay's line does not have: they are valid there no more, and a read under
way does not bring them back. An unacknowledged write of them that the home has applied, by its vector, answers for them no
longer (R307, R309, R313). -/
def State.rdcAtomic (s : State) (b : Nat) (k : Packet) (applied : List (BitVec 32)) : State :=
  match remoteBlock b k.phys with
  | none => s
  | some n =>
    let m := byteMask k.phys.low k.width
    let old (u : BitVec 32 × BitVec 64) : BitVec 32 × BitVec 64 :=
      match applied[b]? with
      | some a => if geWrap a u.1 then (u.1, u.2 &&& ~~~m) else u
      | none => u
    let x := s.bay b
    (s.setBay b { x with rdc := x.rdc.map fun l =>
      if l.part == k.part && l.block == n then
        { l with known := false, valid := l.valid &&& ~~~m, unacked := l.unacked.map old } else l }).modReads b k.part
      (fun j => j == n) fun e => { e with stale := true }

/-- Invalidates a partition's valid bytes on a bay, keeping unacknowledged bytes; of every block, or of those a test selects.
What a read under way brings fills no line (R139, R140, R307, R312). -/
def State.rdcInval (s : State) (b part : Nat) (f : Nat → Bool) : State :=
  let x := s.bay b
  let ls := x.rdc.map fun l =>
    if l.part == part && f l.block then { l with valid := 0, known := l.known && decide (l.pend = fullMask) } else l
  (s.setBay b { x with rdc := ls.filter fun l => !(l.valid == 0 && l.unacked.isEmpty) }).modReads b part f
    fun e => { e with stale := true }

/-! ### Reads -/

/-- Is there a free place in the reorder window (R330)? -/
def Requester.windowRoom (r : Requester) : Bool := decide (r.win.length < 64)

/-- Is there room for a retained copy (R325)? -/
def Requester.keepRoom (r : Requester) : Bool := decide (r.kept.length + r.unsent.length < 32)

/-- The window entry of a tag. -/
def Requester.entry (r : Requester) (tag : Nat) : Option WinEntry := r.win.find? fun e => e.tag == tag

/-- A repeated read that still waits for its answer: a re-request outstanding (R327). -/
def WinEntry.again (e : WinEntry) : Bool := e.pkt.retry && e.got.isNone

/-- Keeps the window entries that a test selects; a repeat that is given up is outstanding no more (R327). -/
def Requester.keepEntries (r : Requester) (f : WinEntry → Bool) : Requester :=
  { r with win := r.win.filter f, rereq := r.rereq - (r.win.filter fun e => !f e && e.again).length }

/-- Drops a window entry. -/
def Requester.dropEntry (r : Requester) (tag : Nat) : Requester := r.keepEntries fun e => e.tag != tag

/-- Changes a window entry. -/
def Requester.modEntry (r : Requester) (tag : Nat) (f : WinEntry → WinEntry) : Requester :=
  { r with win := r.win.map fun e => if e.tag == tag then f e else e }

/-- A tag names a request that is outstanding. -/
def Requester.tagUsed (r : Requester) (t : Nat) : Bool :=
  (r.win.any fun e => e.tag == t) || (r.kept.any fun x => x.pkt.tag == t) || r.unsent.any fun k => k.tag == t

/-- The first tag that names no outstanding request, from one on, of the ten bits that the port number leaves (R319). At
most 64 reads and 32 writes are outstanding. -/
def Requester.tagFrom (r : Requester) : Nat → Nat → Nat
  | 0, t => t
  | n + 1, t => if r.tagUsed t then r.tagFrom n ((t + 1) % 1024) else t

/-- A requester's next tag, and the requester past it. -/
def Requester.takeTag (r : Requester) : Nat × Requester :=
  let t := r.tagFrom 128 r.tag
  (t, { r with tag := (t + 1) % 1024 })

/-- Opens a window entry for a request that is sent, or already answered; answers its tag. -/
def State.openEntry (s : State) (a : AgentId) (k : Packet) (got : Option (List BlockW × List Word × Nat)) : Nat × State :=
  let q := (s.req a).takeTag
  let r := q.2
  let tag := q.1
  let k := { k with tag := tag, guest := s.guestOf k.part k.phys, life := r.life }
  let e : WinEntry := ⟨tag, k, s.now, got, false, none, none, [], false⟩
  let s := s.setReq a { r with win := r.win ++ [e] }
  (tag, if got.isSome then s else s.send k)

/-- How a read meets the bay's RDC. -/
inductive ReadPath where
  /-- It asks the RDC first. -/
  | cached
  /-- The RDC has been asked, and does not hold the bytes. -/
  | miss
  /-- It reads at the home and bypasses the RDC (R310). -/
  | bypass
  deriving DecidableEq, Repr

/-- A read of a block for an agent: served from the bay's RDC where it holds the bytes wanted, else sent to the home.
NOTE 1 of the READ says that its answer bypasses the RDC. Answers the tag of its window entry. -/
def State.readReq (s : State) (a : AgentId) (part : Nat) (p : Phys) (slot gen off : Nat) (mask : BitVec 64)
    (path : ReadPath) : Nat × State :=
  let s := s.noteOther a slot gen off p false
  let h := p.home a.bay
  let k := { Packet.blank .read part a (homeAgent h) (agentClass a) with
    phys := p.blk, slot := slot, gen := gen, off := off / 64 * 64, len := 64, dmod := p.module,
    note := if path = .bypass then 1 else 0 }
  match (if path = .cached then s.rdcHit a.bay part p mask else none) with
  | some l =>
    let s := s.seeUnacked a h (l.seen mask)
    s.openEntry a k (some ([⟨p.blk, l.data, l.desc, l.held, 1⟩], [], 0))
  | none => s.openEntry a k none

/-! ### Writes -/

/-- Holds of a requester that stop a write to a home (R314). -/
def Requester.heldFor (r : Requester) (h : Nat) : Bool := r.holds.any fun x => x.1 != h

/-- Sends a write or atomic: takes its sequence number and index, keeps its copy and marks the RDC (R307,
R313, R325). -/
def State.launchWrite (s : State) (a : AgentId) (k : Packet) : State :=
  let h := k.dst.bay
  let r := s.req a
  let seq := fgetD r.seqs h 0
  let x := s.bay a.bay
  let n := fgetD x.nextN h 0 + 1
  let k := { k with seq := seq, n := n, vec := if a.bay = h then [] else x.knowVec h,
                    guest := s.guestOf k.part k.phys, life := r.life }
  let s := s.setBay a.bay { x with nextN := fput x.nextN h n }
  let s := s.setReq a { r with seqs := fput r.seqs h (seq + 1), kept := r.kept ++ [⟨h, seq, k, s.now, none, none⟩] }
  let s := if k.op = .write then k.blocks.foldl (fun s w => s.rdcWrite a.bay k.part n w) s else s.rdcAtomic a.bay k []
  s.send k

/-- A write cannot be sent yet: its requester is stalled (R369, R401), a hold of R314 stops it, there is no room for its copy
(R325), or unacknowledged bytes hold the ways of the bay's RDC that its blocks need (R307). -/
def State.mustWait (s : State) (a : AgentId) (k : Packet) : Bool :=
  (s.req a).stall.isSome || (s.req a).heldFor k.dst.bay || decide (32 ≤ (s.req a).kept.length)
    || (decide (k.op = .write) && !s.rdcRoom a.bay k.part (k.blocks.map BlockW.phys))

/-- A write or atomic of an agent, sent at once or once it need not wait. The hazard detector sees a store port's blocks as
it gathers them, and an atomic as a write and then, for the writes after it, as a read (R272, R273). -/
def State.submitWrite (s : State) (a : AgentId) (k : Packet) : State :=
  let note (s : State) (off : Nat) (p : Phys) : State :=
    let s := s.noteOther a k.slot k.gen off p true
    if k.op = .atomic then s.noteOther a k.slot k.gen off p false else s
  let s := if a.code % 8 = 2 then s else
    ((k.blocks.map BlockW.phys).zipIdx).foldl (fun s z => note s (k.off + 64 * z.2) z.1) s
  -- An atomic has the tag of its window entry.
  let q := if k.op = .write then (s.req a).takeTag else (k.tag, s.req a)
  let k := { k with tag := q.1 }
  let s := s.setReq a q.2
  if s.mustWait a k || !q.2.unsent.isEmpty then s.setReq a { q.2 with unsent := q.2.unsent ++ [k] }
  else s.launchWrite a k

/-- A write that touches a block and has not been sent: a later read of the block by the same agent waits (R131, R236,
R311). -/
def Requester.unsentAt (r : Requester) (p : Phys) : Bool := r.unsent.any fun k => k.touches p

/-- A WRITE of blocks that lie at one home. -/
def writePacket (a : AgentId) (part slot gen off : Nat) (bs : List BlockW) : Packet :=
  let p := match bs with
    | [] => Phys.hbm 0
    | w :: _ => w.phys
  { Packet.blank .write part a (homeAgent (p.home a.bay)) (agentClass a) with
    phys := p, slot := slot, gen := gen, off := off / 64 * 64, len := 64 * bs.length, blocks := bs, dmod := p.module }

/-- Sends held writes, oldest first, while they need not wait (R307, R314, R325). -/
def State.flushUnsent (a : AgentId) : Nat → State → State
  | 0, s => s
  | n + 1, s =>
    let r := s.req a
    match r.unsent with
    | [] => s
    | k :: t =>
      if s.mustWait a k then s
      else State.flushUnsent a n ((s.setReq a { r with unsent := t }).launchWrite a k)

/-- Every write of the requester is acknowledged (R138 at .M). -/
def Requester.allAcked (r : Requester) : Bool := r.kept.isEmpty && r.unsent.isEmpty

/-- Every write of the requester is visible in its bay (R138 at .B): acknowledged, or in the bay's RDC. -/
def State.bayVisible (s : State) (a : AgentId) : Bool :=
  let r := s.req a
  r.unsent.isEmpty && r.kept.all fun k =>
    k.pkt.op == .write && k.pkt.blocks.all fun w => (remoteBlock a.bay w.phys).isSome && s.rdcOn a.bay k.pkt.part

/-- Every write of the requester is complete at a scope: 1 .B, 2 .M, 3 .S (R138). -/
def State.completeAtScope (s : State) (a : AgentId) (sc : Nat) : Bool :=
  if sc = 1 then s.bayVisible a else (s.req a).allAcked

/-- The ABANDON of a retained write (R328). -/
def Retained.abandon (a : AgentId) (k : Retained) : Packet :=
  { Packet.blank .abandon k.pkt.part a (homeAgent k.home) 0 with
    seq := k.seq, n := k.pkt.n, blocks := k.pkt.blocks, dmod := k.pkt.dmod }

/-- A requester torn down sends ABANDON for each write it retains and forgets its reads: what still comes for it is late
(R328). -/
def State.tearRequester (s : State) (a : AgentId) : State :=
  let r := s.req a
  let s := r.kept.foldl (fun s k => s.send (k.abandon a)) s
  let s := s.setReq a { Requester.reset with seqs := r.seqs, tag := r.tag, life := r.life + 1 }
  -- Homes need no record of its sequence numbers, for it sends none of them again.
  let forget (z : Nat × Bay) : Nat × Bay :=
    (z.1, { z.2 with home := { z.2.home with seqDone := z.2.home.seqDone.filter fun y => y.1 != a } })
  let s := { s with bays := s.bays.map forget }
  -- The RDC's bytes of abandoned writes are no longer unacknowledged, and nothing waits for them.
  let s := r.kept.foldl (fun s k => s.setBay a.bay (k.pkt.blocks.foldl (fun b w =>
    match w.phys with
    | .hbm x => b.rdcGiveUp k.pkt.n (x / 64)
    | _ => b) (s.bay a.bay))) s
  { s with reqs := s.reqs.map fun q => if q.1.bay == a.bay then
      (q.1, { q.2 with holds := q.2.holds.filter fun x => !(r.kept.any fun k => k.home == x.1 && k.pkt.n == x.2) }) else q }

end Sys2Proof.Machine
end

