-- ==== Sys2Proof/Machine/CoreMem.lean ====
section
/-! DEFINITION. A control core's path to memory: translation with its checks, the L1D, copy-on-write, write-back
and the scopes (R129 to R132, R138 to R141, R310, R438). -/

namespace Sys2Proof.Machine

/-- The requester of the current core. -/
def State.me (s : State) : AgentId := pageAgent s.cur 0 0

/-- What a core access may go on with. -/
inductive Go (α : Type) where
  /-- It goes on. -/
  | ok (a : α) (s : State)
  /-- It has trapped or waits: the answer of the step. -/
  | stop (r : Res)

/-- Goes on with a value. -/
def Go.bind {α : Type} (g : Go α) (f : α → State → Res) : Res :=
  match g with
  | .ok a s => f a s
  | .stop r => r

/-- The core stalls at its stage (R132, R401). -/
def stallHere (st : Stall) (s : State) : Res := waitFor (.stall st) s.core.stage s

/-- The launch of the current core's truss reports FAILED(PAGEREQ) (R405). -/
def State.failPageReq (s : State) (p : Nat) : State :=
  match s.trussOf p with
  | none => s
  | some t => s.failItem (s.page p).truss 0x08 (detailOf ((s.page p).ix * 64) (s.page p).ix t.ix)

/-- The FAULT_FAILED trap of an access at `ea` (R132, R405). -/
def trapFailed (ea : Word) (s : State) : Res :=
  .next (takeTrap causeFaultFailed s.core.pc ea (s.failPageReq s.cur))

/-- Translates a tensor-0 address for the core: the leaf entry, or a stall, or FAULT_FAILED on a translation
error; a TGT 2 leaf traps with BOUNDS (R129, R132, R301, R302). -/
def coreXlate (ea : Word) (wr : Bool) (s : State) : Go Nat :=
  let panel := ea.toNat / 2 ^ 16
  let part := s.curPart
  let r := s.xlate (bayOf s.cur) part s.curView 0 panel
  let s := r.2
  match r.1 with
  | .leaf e => if leafTgt e = 2 then .stop (trapHere causeBounds ea s) else .ok e s
  | .fault =>
    let q := s.raiseFault part (s.vfOfPage s.cur) s.me 0 0 panel wr
    .stop (stallHere q.1 q.2)
  | .bad e =>
    match s.raiseXlateErr (s.vfOfPage s.cur) 0 0 panel e with
    | (some st, s) => .stop (stallHere st s)
    | (none, s) => .stop (trapFailed ea s)
  | .owner g =>
    let q := s.raiseIso (s.vfOfPage s.cur) s.me g wr
    .stop (stallHere q.1 q.2)

/-- The place of an address under its leaf; an unmapped guest granule stalls the core (R303, R369). -/
def corePlace (e : Nat) (ea : Word) (wr : Bool) (s : State) : Go Phys :=
  match s.placeOf s.curPart e ea.toNat with
  | .ok p => .ok p s
  | .error g =>
    let q := s.raiseIso (s.vfOfPage s.cur) s.me g wr
    .stop (stallHere q.1 q.2)

/-! ### Copy-on-write -/

/-- The world's view of a slot's panel is its own already, or needs no copy (R438, R439). -/
def State.ownPanel (s : State) (part view slot panel : Nat) (shared : Bool) : Bool :=
  if view = 0 ∨ shared then true
  else
    match fget (s.part part).views view with
    | none => true
    | some v => v.overlay.any fun o => o.1 == slot && o.2.1 == panel

/-- Starts the copy of a panel into one of the view pool, unless it is being copied; answers the stall of the
writing agent (R438, R445). -/
def State.startCopy (s : State) (part view slot panel vfn launch : Nat) (a : AgentId) : Stall × State :=
  let p := s.part part
  match fget p.views view with
  | none => (.copying view slot panel, s)
  | some v =>
    if v.copying.any (fun o => o.1 == slot && o.2.1 == panel) then (.copying view slot panel, s)
    else
      match p.pool with
      | [] => s.raiseExhaust part vfn view slot panel launch a
      | g :: t =>
        let v' := { v with copying := v.copying ++ [(slot, panel, g, 0)] }
        (.copying view slot panel, s.setPart part { p with pool := t, views := fput p.views view v' })

/-- A core's write to a panel of its view: goes on when the panel is its own, else stalls on the copy (R438). -/
def coreOwn (e : Nat) (ea : Word) (s : State) : Go Unit :=
  let panel := ea.toNat / 2 ^ 16
  if s.ownPanel s.curPart s.curView 0 panel (leafSh e) then .ok () s
  else
    let l := ((s.trussOf s.cur).map Truss.launch).getD 0
    let q := s.startCopy s.curPart s.curView 0 panel (s.vfOfPage s.cur) l s.me
    .stop (stallHere q.1 q.2)

/-! ### The L1D -/

/-- The L1D line of an address in a view. -/
def Core.line (c : Core) (line view : Nat) : Option L1Line :=
  c.l1d.find? fun l => l.line == line && l.view == view

/-- Lines of the L1D: 64 KiB of 64-byte lines (R15). -/
def l1dLines : Nat := 1024

/-- Replaces or adds an L1D line; of 1 024 others the oldest clean one is dropped (R15; which, log 94). Room is made
first where all are dirty (`makeRoom`). -/
def Core.setLine (c : Core) (l : L1Line) : Core :=
  let rest := c.l1d.filter fun x => !(x.line == l.line && x.view == l.view)
  let rest := if rest.length < l1dLines then rest else
    match rest.reverse.find? fun x => x.dirty == 0 with
    | some x => rest.erase x
    | none => rest
  { c with l1d := l :: rest }

/-- Fetched bytes enter a line; dirty bytes stay (R131, R139). -/
def Core.fill (c : Core) (line view : Nat) (w : BlockW) : Core :=
  let l := (c.line line view).getD ⟨line, view, 0, 0, 0, w.desc, false⟩
  c.setLine { l with data := mergeData w.data l.data l.dirty, valid := w.mask ||| l.dirty, desc := w.desc }

/-- A core's bytes enter a line (R131): write-allocate without fill. Until a fetch fills it, the spec gives such a line no
descriptor, and the model takes UINT8 (DESIGN CHOICE, log 110). -/
def Core.storeLine (c : Core) (line view off size v : Nat) : Core :=
  let l := (c.line line view).getD ⟨line, view, 0, 0, 0, descUint8, false⟩
  let m := byteMask off size
  c.setLine { l with data := setBytes l.data off size v, valid := l.valid ||| m, dirty := l.dirty ||| m }

/-- What a core sees of a fetched block: zero bytes of a VOID block, under its own dirty bytes (R129). -/
def seenData (d : Desc) (data : Data) (l : L1Line) : Data :=
  mergeData (if descIsVoid d then 0 else data) l.data l.dirty

/-- A line can enter the L1D: it is there, there is a place, or a clean line gives way. -/
def Core.hasRoom (c : Core) (line view : Nat) : Bool :=
  (c.line line view).isSome || decide (c.l1d.length < l1dLines) || c.l1d.any fun l => l.dirty == 0

/-- A line once its dirty bytes are on their way: a VOID block has become UINT8, its unwritten bytes zero (R129); a line
that an error has struck holds nothing more (R410). -/
def L1Line.written (l : L1Line) : L1Line :=
  let l := if descIsVoid l.desc then { l with data := seenData l.desc l.data l, desc := descUint8 } else l
  { l with valid := if l.bad then 0 else l.valid, dirty := 0, bad := false }

/-- Sends the dirty bytes of one line toward its home; `none` when the core must wait or trap, with the
answer. -/
def wbLine (l : L1Line) (s : State) : Go Unit :=
  let ea : Word := BitVec.ofNat 64 (l.line * 64)
  let stuck (r : Res) : Go Unit :=
    match r with
    | .next t => .stop (.next (if t.core.wait.isSome then t.setCore { t.core with wbStall := true } else t))
    | r => .stop r
  if s.core.failed && s.core.wbStall then
    -- A failed page request: the dirty bytes are lost with the access (R132).
    let c := s.core
    .stop (trapFailed ea (s.setCore (c.setLine { l with dirty := 0, valid := 0 })))
  else if !(s.req s.me).keepRoom || (s.req s.me).stall.isSome then .stop (waitFor .room s.core.stage s)
  else
    match coreXlate ea true s with
    | .stop r => stuck r
    | .ok e s =>
      match corePlace e ea true s with
      | .stop r => stuck r
      | .ok p s =>
        let w : BlockW := ⟨p, l.data, descUint8, l.dirty, if l.bad then 3 else 0⟩
        let s := s.submitWrite s.me (writePacket s.me s.curPart 0 0 ea.toNat [w])
        .ok () (s.setCore { s.core.setLine l.written with wbStall := false })

/-- Makes room for a line: with every line of a full L1D dirty, the oldest is written back first (R15, R131; which,
log 94). -/
def makeRoom (line : Nat) (s : State) : Go Unit :=
  if s.core.hasRoom line s.curView then .ok () s
  else
    match s.core.l1d.getLast? with
    | some l => wbLine l s
    | none => .ok () s

/-- The hazard detector sees an access of the core at a tensor-0 address (R272). -/
def State.noteCore (s : State) (ea : Word) (wr : Bool) : State :=
  if !s.hazOn s.cur then s
  else
    match (s.xlate (bayOf s.cur) s.curPart s.curView 0 (ea.toNat / 2 ^ 16)).1 with
    | .leaf e =>
      match s.placeOf s.curPart e ea.toNat with
      | .ok ph => s.noteAccess s.me 0 0 ea.toNat ph wr
      | .error _ => s
    | _ => s

/-- Bytes of an address read through the L1D, with the block's descriptor and which of them are dirty.
Stage 0 asks the memory path when the line lacks bytes, and a later stage takes the response. `fromHome` reads
clean bytes at the home (R310). The hazard detector sees the access as it is made (R272); a write of the same block that the
core has still to send goes first (R131). -/
def coreRead (ea : Word) (size : Nat) (fromHome : Bool) (s : State) : Go (Nat × Desc × Bool) :=
  let c := s.core
  let ln := ea.toNat / 64
  let off := ea.toNat % 64
  let m := byteMask off size
  let l0 := (c.line ln s.curView).getD ⟨ln, s.curView, 0, 0, 0, descUint8, false⟩
  if l0.dirty &&& m = m then
    if descPoisoned l0.desc then .stop (trapHere causePoison ea s)
    else .ok (dataBytes l0.data off size, descUint8, true) (s.noteCore ea false)
  else if !fromHome && decide (l0.valid &&& m = m) then
    .ok (dataBytes (seenData l0.desc l0.data l0) off size, l0.desc, false) (s.noteCore ea false)
  else
    match c.resp with
    | (_, w) :: rest =>
      -- The response to this instruction's read.
      let c' := { c with resp := rest }
      let c' := if fromHome then c' else c'.fill ln s.curView w
      .ok (dataBytes (seenData w.desc w.data l0) off size, w.desc, false) (s.setCore c')
    | [] =>
      match (if fromHome then Go.ok () s else makeRoom ln s) with
      | .stop r => .stop r
      | .ok _ s =>
      if s.core.failed then .stop (trapFailed ea s)
      else
        match coreXlate ea false s with
        | .stop r => .stop r
        | .ok e s =>
          match corePlace e ea false s with
          | .stop r => .stop r
          | .ok p s =>
            if (s.req s.me).unsentAt p then .stop (waitFor (.writes 1) c.stage s)
            else
            let s := s.noteCore ea false
            match (if fromHome then none else s.rdcHit s.me.bay s.curPart p m) with
            | some x =>
              -- The bay's remote-data cache answers at once, with the bytes that this load sees (R313, R314).
              let s := s.seeUnacked s.me (p.home s.me.bay) (x.seen m)
              let w : BlockW := ⟨p.blk, x.data, x.desc, m ||| (x.valid &&& ~~~x.pend), 1⟩
              .ok (dataBytes (seenData w.desc w.data l0) off size, w.desc, false)
                (s.setCore (s.core.fill ln s.curView w))
            | none =>
              let q := s.readReq s.me s.curPart p 0 0 ea.toNat m (if fromHome then .bypass else .miss)
              .stop (waitFor (.resp q.1) c.stage q.2)

/-- The 64 bytes of an aligned descriptor, read through the L1D: the core's own dirty bytes over those of its block, which
of a VOID block are zero (R145, R150). -/
def coreBlock (ea : Word) (s : State) : Go (List Byte) :=
  match coreRead ea 64 false s with
  | .stop r => .stop r
  | .ok (v, d, _) s =>
    if descPoisoned d then .stop (trapHere causePoison ea s)
    else .ok (toBytes 64 v) s

/-! ### Write-back and scopes -/

/-- Sends the dirty bytes of lines, oldest first. -/
def wbLines : List L1Line → State → Go Unit
  | [], s => .ok () s
  | l :: t, s =>
    match wbLine l s with
    | .stop r => .stop r
    | .ok _ s => wbLines t s

/-- Writes back the dirty lines a test selects and waits until the core's writes are complete at a scope
(R138, R139, R140). -/
def releaseLines (sel : L1Line → Bool) (sc : Nat) (s : State) : Go Unit :=
  match wbLines (s.core.l1d.reverse.filter fun l => sel l && decide (l.dirty ≠ 0)) s with
  | .stop r => .stop r
  | .ok _ s =>
    if s.completeAtScope s.me sc then .ok () s else .stop (waitFor (.writes sc) s.core.stage s)

/-- REL at a scope (R139). -/
def release (sc : Nat) (s : State) : Go Unit := releaseLines (fun _ => true) sc s

/-- Invalidates the clean bytes of the lines a test selects; dirty bytes stay (R139, R140). -/
def Core.invalClean (c : Core) (sel : L1Line → Bool) : Core :=
  { c with l1d := (c.l1d.map fun l => if sel l then { l with valid := l.dirty } else l).filter fun l =>
      decide (l.valid ≠ 0) }

/-- ACQ at a scope: 1 .B the L1D; 2 .M and 3 .S the partition's RDC lines on this bay too (R138, R139). -/
def acquire (sc : Nat) (s : State) : State :=
  let s := s.setCore (s.core.invalClean fun _ => true)
  if sc = 1 then s else s.rdcInval (bayOf s.cur) s.curPart fun _ => true

/-- A core access address is in range (R127). -/
def t0Range (ea : Word) : Bool := decide (ea.toNat < 2 ^ 48)

end Sys2Proof.Machine
end

