-- ==== Sys2Proof/Machine/LoadStore.lean ====
section
/-! DEFINITION. Loads, stores and plate accesses (R129 to R133). -/

namespace Sys2Proof.Machine

/-- How a load extends its bytes (R129). -/
def extend (size : Nat) (signed : Bool) (v : Nat) : Word :=
  if signed then
    match size with
    | 1 => (BitVec.ofNat 8 v).signExtend 64
    | 2 => (BitVec.ofNat 16 v).signExtend 64
    | 4 => (BitVec.ofNat 32 v).signExtend 64
    | _ => BitVec.ofNat 64 v
  else BitVec.ofNat 64 v

/-- A load's result: POISON traps; VOID sets DISC (R33, R129). -/
def loadResult (d : Reg) (ea : Word) (size : Nat) (signed taint : Bool) (r : Nat × Desc × Bool) (s : State) : Res :=
  if descPoisoned r.2.1 then trapHere causePoison ea s
  else
    let c := if descIsVoid r.2.1 then s.core.setDisc else s.core
    .next (complete (c.wr d (extend size signed r.1) taint) s)

/-- A load of `size` bytes at `ea` (R129): `home` for LDC.D and for a tainted address (R310). -/
def load (d : Reg) (ea : Word) (size : Nat) (signed taint home : Bool) (s : State) : Res :=
  if ea.toNat % size ≠ 0 then trapHere causeMisalign ea s
  else if !t0Range ea then trapHere causeBounds ea s
  else (coreRead ea size home s).bind (loadResult d ea size signed taint)

/-- A store of the low `size` bytes of `v` at `ea` (R129). -/
def store (ea : Word) (size : Nat) (v : Word) (s : State) : Res :=
  if ea.toNat % size ≠ 0 then trapHere causeMisalign ea s
  else if !t0Range ea then trapHere causeBounds ea s
  else if s.core.failed && !s.core.wbStall then trapFailed ea s
  else (coreXlate ea true s).bind fun e s =>
    if leafRo e then trapHere causeHandle ea s
    else if decide (0 < s.curDepth) && leafNf e then trapHere causeWorld ea s
    else (coreOwn e ea s).bind fun _ s => (makeRoom (ea.toNat / 64) s).bind fun _ s =>
      let s := s.noteCore ea true
      .next (complete (s.core.storeLine (ea.toNat / 64) s.curView (ea.toNat % 64) size v.toNat) s)

/-- An I-form load. -/
def loadImm (d a : Reg) (imm : BitVec 15) (size : Nat) (signed : Bool) (s : State) : Res :=
  load d (eaImm s.core a imm) size signed (s.core.tainted a) (s.core.tainted a) s

/-- An I-form store. -/
def storeImm (t a : Reg) (imm : BitVec 15) (size : Nat) (s : State) : Res :=
  store (eaImm s.core a imm) size (s.core.rd t) s

/-- LD.B (R129). -/
def execLdB (d a : Reg) (imm : BitVec 15) (s : State) : Res := loadImm d a imm 1 false s
/-- LD.H (R129). -/
def execLdH (d a : Reg) (imm : BitVec 15) (s : State) : Res := loadImm d a imm 2 false s
/-- LD.W (R129). -/
def execLdW (d a : Reg) (imm : BitVec 15) (s : State) : Res := loadImm d a imm 4 false s
/-- LD.D (R129). -/
def execLdD (d a : Reg) (imm : BitVec 15) (s : State) : Res := loadImm d a imm 8 false s
/-- LD.BS (R129). -/
def execLdBs (d a : Reg) (imm : BitVec 15) (s : State) : Res := loadImm d a imm 1 true s
/-- LD.HS (R129). -/
def execLdHs (d a : Reg) (imm : BitVec 15) (s : State) : Res := loadImm d a imm 2 true s
/-- LD.WS (R129). -/
def execLdWs (d a : Reg) (imm : BitVec 15) (s : State) : Res := loadImm d a imm 4 true s
/-- LDC.D (R129, R310): reads at the home and sets the taint of gD. -/
def execLdcD (d a : Reg) (imm : BitVec 15) (s : State) : Res := load d (eaImm s.core a imm) 8 false true true s

/-- ST.B (R129). -/
def execStB (t a : Reg) (imm : BitVec 15) (s : State) : Res := storeImm t a imm 1 s
/-- ST.H (R129). -/
def execStH (t a : Reg) (imm : BitVec 15) (s : State) : Res := storeImm t a imm 2 s
/-- ST.W (R129). -/
def execStW (t a : Reg) (imm : BitVec 15) (s : State) : Res := storeImm t a imm 4 s
/-- ST.D (R129). -/
def execStD (t a : Reg) (imm : BitVec 15) (s : State) : Res := storeImm t a imm 8 s

/-- Size in bytes and signedness of an LDX size code (R68); 7 is reserved. -/
def sizeOf3 (z : BitVec 3) : Option (Nat × Bool) :=
  match z.toNat with
  | 0 => some (1, false)
  | 1 => some (2, false)
  | 2 => some (4, false)
  | 3 => some (8, false)
  | 4 => some (1, true)
  | 5 => some (2, true)
  | 6 => some (4, true)
  | _ => none

/-- LDX (R130). -/
def execLdx (d a b : Reg) (h : BitVec 2) (z : BitVec 3) (s : State) : Res :=
  match sizeOf3 z with
  | none => trapWord (.ldx d a b h z) s
  | some (n, sg) => load d (eaIdx s.core a b h) n sg (s.core.taint2 a b) (s.core.taint2 a b) s

/-- STX (R130). -/
def execStx (t a b : Reg) (h z : BitVec 2) (s : State) : Res :=
  store (eaIdx s.core a b h) (2 ^ z.toNat) (s.core.rd t) s

/-! ### Plate -/

/-- The checks of a plate address (R133): `none` where it may go on. -/
def plateCheck (pa : Word) (s : State) : Option Res :=
  if (plateDesc pa = false ∧ pa.toNat % 8 ≠ 0) ∨ (plateDesc pa = true ∧ pa.toNat % 64 ≠ 0) then
    some (trapHere causeMisalign pa s)
  else if plateHigh pa ≠ 0 then some (trapHere causeBounds pa s)
  else if 47 ≤ plateTile pa ∨ (s.curPage.tile (plateSite pa) (plateTile pa)).state ≠ 3#2 then
    some (trapHere causePlateOwner (BitVec.ofNat 64 (bits pa.toNat 12 12)) s)
  else none

/-- PRD.D (R133). -/
def execPrdD (d a : Reg) (imm : BitVec 15) (s : State) : Res :=
  let pa := eaImm s.core a imm
  match plateCheck pa s with
  | some r => r
  | none =>
    let b := (s.curPage.tile (plateSite pa) (plateTile pa)).block (plateOff pa / 64)
    if plateDesc pa then writeReg d (b.2.zeroExtend 64) (s.core.tainted a) s
    else if descPoisoned b.2 then trapHere causePoison pa s
    else if descIsVoid b.2 then .next (complete (s.core.setDisc.wr d 0 (s.core.tainted a)) s)
    else writeReg d (BitVec.ofNat 64 (dataBytes b.1 (plateOff pa % 64) 8)) (s.core.tainted a) s

/-- What PWR.D leaves in a block of a tile (R133). -/
def plateWrite (b : Data × Desc) (desc : Bool) (off : Nat) (v : Word) : Data × Desc :=
  if desc then (b.1, v.extractLsb' 0 16)
  else if descIsVoid b.2 then (setBytes 0 off 8 v.toNat, descUint8)
  else (setBytes b.1 off 8 v.toNat, b.2)

/-- PWR.D (R133). -/
def execPwrD (t a : Reg) (imm : BitVec 15) (s : State) : Res :=
  let pa := eaImm s.core a imm
  match plateCheck pa s with
  | some r => r
  | none =>
    let pg := s.curPage
    let x := pg.tile (plateSite pa) (plateTile pa)
    let k := plateOff pa / 64
    let x' := x.setBlock k (plateWrite (x.block k) (plateDesc pa) (plateOff pa % 64) (s.core.rd t))
    .next (complete s.core (s.setPage s.cur (pg.setTile (plateSite pa) (plateTile pa) x')))

end Sys2Proof.Machine
end

