-- ==== Sys2Proof/Machine/Ordering.lean ====
section
/-! DEFINITION. FENCE and the scoped ordering and range operations (R136 to R141). -/

namespace Sys2Proof.Machine

/-- FENCE (R136): the core issues its accesses in order, so only the pc advances. -/
def execFence (s : State) : Res := .next (complete s.core s)

/-- REL (R139). -/
def execRel (c : BitVec 2) (s : State) : Res :=
  if c = 0 then trapWord (.rel c) s
  else (release c.toNat s).bind fun _ s => .next (complete s.core s)

/-- ACQ (R139). -/
def execAcq (c : BitVec 2) (s : State) : Res :=
  if c = 0 then trapWord (.acq c) s
  else
    let s' := acquire c.toNat s
    .next (complete s'.core s')

/-- A line overlaps the range [base, base + len) (R140). -/
def inRange (base len : Nat) (line : Nat) : Bool :=
  decide (len ≠ 0) && decide (line * 64 < base + len) && decide (base < line * 64 + 64)

/-- Ends of a range (R140): above 2^48 is BOUNDS. A length of 0 has no effect, and the model takes it to trap for no base,
though its end may lie above 2^48 (log 96). -/
def rangeBad (base len : Nat) : Bool := decide (len ≠ 0) && decide (2 ^ 48 < base + len)

/-- HBM4 base addresses of the panels of a range that the bay can translate, with their tensor-0 base. -/
def State.rangePanels (s : State) (base len : Nat) : List (Nat × Nat) :=
  let p0 := base / 2 ^ 16
  let n := (base + len + 2 ^ 16 - 1) / 2 ^ 16 - p0
  (List.range n).filterMap fun k =>
    match (s.xlate (bayOf s.cur) s.curPart s.curView 0 (p0 + k)).1 with
    | .leaf e =>
      match s.placeOf s.curPart e 0 with
      | .ok (.hbm a) => some (a, (p0 + k) * 2 ^ 16)
      | _ => none
    | _ => none

/-- Invalidates the partition's RDC lines of the bay whose blocks lie in a range; of more than 1 024 panels,
every line of the partition (R140, R141; log 12). -/
def State.rdcRange (s : State) (base len : Nat) : State :=
  if len = 0 then s
  else if 1024 * 2 ^ 16 < len then s.rdcInval (bayOf s.cur) s.curPart fun _ => true
  else
    let ps := s.rangePanels base len
    s.rdcInval (bayOf s.cur) s.curPart fun blk =>
      ps.any fun p => decide (p.1 ≤ blk * 64) && decide (blk * 64 < p.1 + 2 ^ 16)
        && inRange base len ((p.2 + (blk * 64 - p.1)) / 64)

/-- The reserved-scope and range checks of a range operation, then its effect (R65, R140). -/
def rangeOp (w : Instr) (a b : Reg) (c : BitVec 2) (f : Nat → Nat → State → Res) (s : State) : Res :=
  let base := (s.core.rd a).toNat
  let len := (s.core.rd b).toNat
  if c = 0 then trapWord w s
  else if rangeBad base len then trapHere causeBounds (s.core.rd a) s
  else f base len s

/-- WBR (R140). -/
def execWbr (a b : Reg) (c : BitVec 2) (s : State) : Res :=
  rangeOp (.wbr a b c) a b c (fun base len s =>
    if len = 0 then .next (complete s.core s)
    else (releaseLines (fun l => inRange base len l.line) c.toNat s).bind fun _ s => .next (complete s.core s)) s

/-- INVR (R140): clean bytes of the lines in range; at .M and .S the bay's RDC lines too. -/
def execInvr (a b : Reg) (c : BitVec 2) (s : State) : Res :=
  rangeOp (.invr a b c) a b c (fun base len s =>
    let s := s.setCore (s.core.invalClean fun l => inRange base len l.line)
    let s := if c.toNat = 1 then s else s.rdcRange base len
    .next (complete s.core s)) s

/-- FLR (R140): written back as WBR, then invalidated whole, with what the scope covers (R138). -/
def execFlr (a b : Reg) (c : BitVec 2) (s : State) : Res :=
  rangeOp (.flr a b c) a b c (fun base len s =>
    if len = 0 then .next (complete s.core s)
    else (releaseLines (fun l => inRange base len l.line) c.toNat s).bind fun _ s =>
      let x := s.core
      let s := s.setCore { x with l1d := x.l1d.filter fun l => !inRange base len l.line }
      let s := if c.toNat = 1 then s else s.rdcRange base len
      .next (complete s.core s)) s

/-- ICINV (R141): L1I lines in the range, and the loop buffer when its body overlaps the range. -/
def execIcinv (a b : Reg) (c : BitVec 2) (s : State) : Res :=
  rangeOp (.icinv a b c) a b c (fun base len s =>
    let x := s.core
    let hit := match x.lbufSpan with
      | some (lo, hi) => decide (len ≠ 0) && decide (lo < base + len) && decide (base < hi + 4)
      | none => false
    let x := { x with l1i := x.l1i.filter fun l => !inRange base len l.1 }
    let x := if hit then { x with lbuf := [], lbufSpan := none } else x
    let s := s.setCore x
    let s := if c.toNat = 1 then s else s.rdcRange base len
    .next (complete s.core s)) s

end Sys2Proof.Machine
end

