-- ==== Sys2Proof/Machine/Atomics.lean ====
section
/-! DEFINITION. Atomics, compare-and-swap (R134, R135) and the outbox of a world (R171, R443). -/

namespace Sys2Proof.Machine

/-! ### The outbox -/

/-- Entries in the outboxes of a fork's rival of a truss and of every enclosing world (R443). -/
def State.outboxCount (s : State) : Nat → Option Nat → Nat → Nat
  | 0, _, _ => 0
  | n + 1, f, t =>
    match f.bind (fget s.forks) with
    | none => 0
    | some k =>
      let mine := ((k.rivals.filter fun r => r.trusses.contains t).map fun r => r.outbox.length).sum
      let parent := (k.trusses.head?).getD 0
      mine + s.outboxCount n k.outer parent

/-- Appends an entry to the outbox of the rival of a truss. -/
def State.pushOutbox (s : State) (f t : Nat) (e : OutboxEntry) : State :=
  let put (r : Rival) : Rival := if r.trusses.contains t then { r with outbox := r.outbox ++ [e] } else r
  { s with forks := fmod s.forks f fun k => { k with rivals := k.rivals.map put } }

/-- Defers an operation of the current core (R171): OUTBOX_FULL at a 65th entry, else the instruction
completes with the operation in the outbox. -/
def deferOp (e : OutboxEntry) (c : Core) (s : State) : Res :=
  match s.trussOf s.cur with
  | none => .next (complete c s)
  | some t =>
    match t.fork with
    | none => .next (complete c s)
    | some f =>
      if 64 ≤ s.outboxCount 4 t.fork s.curPage.truss then trapHere causeOutboxFull 0 s
      else .next (complete c (s.pushOutbox f s.curPage.truss e))

/-! ### Operations -/

/-- The new value of an atomic of `w` bits (R69, R134); op 8 is SWAP, and 9 a CAS whose comparand is the high
half of the operand pair. -/
def atomicOp (op w : Nat) (old x : Nat) : Nat :=
  let m := 2 ^ w
  let sg (v : Nat) : Int := if v % m < m / 2 then (v % m : Nat) else ((v % m : Nat) : Int) - m
  let o := old % m
  let y := x % m
  match op with
  | 0 => (o + y) % m
  | 1 => o &&& y
  | 2 => o ||| y
  | 3 => o ^^^ y
  | 4 => if sg o ≤ sg y then o else y
  | 5 => if sg y ≤ sg o then o else y
  | 6 => if o ≤ y then o else y
  | 7 => if y ≤ o then o else y
  | _ => y

/-- Sends an atomic: a retained ATOMIC, and a window entry for its response (R316, R321, R325). Answers the
entry's tag. -/
def State.atomicReq (s : State) (a : AgentId) (part : Nat) (p : Phys) (slot gen off width aop : Nat)
    (words : List Word) : Nat × State :=
  let h := p.home a.bay
  let k := { Packet.blank .atomic part a (homeAgent h) 1 with
    phys := p, slot := slot, gen := gen, off := off, len := 8 * words.length, words := words, aop := aop,
    width := width, dmod := p.module, blocks := [⟨p.blk, 0, descUint8, byteMask p.low width, 0⟩] }
  let q := (s.req a).takeTag
  let r := q.2
  let tag := q.1
  let k := { k with tag := tag, life := r.life }
  let s := s.setReq a { r with win := r.win ++ [⟨tag, k, s.now, none, false, none, none, [], false⟩] }
  (tag, s.submitWrite a k)

/-- Acquire bit of an ordering field (R69). -/
def ordAcq (r : BitVec 2) : Bool := r.getLsbD 0
/-- Release bit of an ordering field. -/
def ordRel (r : BitVec 2) : Bool := r.getLsbD 1

/-- The result of an atomic's response (R134): POISON traps, VOID sets DISC, .W is sign-extended. -/
def atomicResult (d : Reg) (ea : Word) (size : Nat) (taint : Bool) (r : BitVec 2) (s : State) : Res :=
  let c := s.core
  let old := (c.scratch.head?).getD 0
  let note := ((c.scratch.drop 1).head?).getD 0
  if note = 2 then trapHere causePoison ea s
  else
    let c := if note = 1 then c.setDisc else c
    let v := if size = 4 then (old.extractLsb' 0 32 : BitVec 32).signExtend 64 else old
    let s := s.setCore (c.wr d v taint)
    let s := if ordAcq r then acquire 2 s else s
    .next (complete s.core s)

/-- An AMO or CAS (R134, R135). `deferred` is the outbox entry of a fire-and-forget form. -/
def atomic (d : Reg) (ea : Word) (size aop : Nat) (words : List Word) (taint cas : Bool) (r : BitVec 2)
    (s : State) : Res :=
  if s.core.stage = 1 then
    if s.core.failed then trapFailed ea s else atomicResult d ea size taint r s
  else if ea.toNat % size ≠ 0 then trapHere causeMisalign ea s
  else if !t0Range ea then trapHere causeBounds ea s
  else if s.core.failed && !s.core.wbStall then trapFailed ea s
  else (coreXlate ea true s).bind fun e s =>
    if leafRo e then trapHere causeHandle ea s
    else if decide (0 < s.curDepth) && leafSh e then
      if cas || decide (d ≠ 0) then trapHere causeWorld ea s
      else deferOp ⟨2, [ea, BitVec.ofNat 64 size, BitVec.ofNat 64 aop, r.zeroExtend 64] ++ words, [], s.curPage.truss, s.curPage.ix⟩ s.core s
    else if decide (0 < s.curDepth) && leafNf e then trapHere causeWorld ea s
    else (coreOwn e ea s).bind fun _ s =>
      (if ordRel r then release 2 s else .ok () s).bind fun _ s =>
        -- Write back and drop the line; the write precedes the atomic at the home (R329).
        (match s.core.line (ea.toNat / 64) s.curView with
          | some l => if l.dirty = 0 then Go.ok () s else wbLine l s
          | none => Go.ok () s).bind fun _ s =>
          let x := s.core
          let s := s.setCore { x with l1d := x.l1d.filter fun l => !(l.line == ea.toNat / 64 && l.view == s.curView) }
          if !(s.req s.me).keepRoom || (s.req s.me).stall.isSome then waitFor .room 0 s
          else (corePlace e ea true s).bind fun p s =>
            let s := (s.noteCore ea true).noteCore ea false
            let q := s.atomicReq s.me s.curPart p 0 0 ea.toNat size aop words
            waitFor (.resp q.1) 1 q.2

/-- An AMO of a width (R134). -/
def amo (w : Instr) (d a b : Reg) (r : BitVec 2) (op : BitVec 4) (size : Nat) (s : State) : Res :=
  if 9 ≤ op.toNat then trapWord w s
  else atomic d (s.core.rd a) size op.toNat [s.core.rd b] (s.core.taint2 a b) false r s

/-- A CAS of a width (R135): gD holds the expected value. -/
def cas (d a b : Reg) (r : BitVec 2) (size : Nat) (s : State) : Res :=
  atomic d (s.core.rd a) size 9 [s.core.rd b, s.core.rd d] (s.core.taint2 a b || s.core.tainted d) true r s

/-- AMO.W (R134). -/
def execAmoW (d a b : Reg) (r : BitVec 2) (op : BitVec 4) (s : State) : Res := amo (.amoW d a b r op) d a b r op 4 s
/-- AMO.D (R134). -/
def execAmoD (d a b : Reg) (r : BitVec 2) (op : BitVec 4) (s : State) : Res := amo (.amoD d a b r op) d a b r op 8 s
/-- CAS.W (R135). -/
def execCasW (d a b : Reg) (r : BitVec 2) (s : State) : Res := cas d a b r 4 s
/-- CAS.D (R135). -/
def execCasD (d a b : Reg) (r : BitVec 2) (s : State) : Res := cas d a b r 8 s

end Sys2Proof.Machine
end

