-- ==== Sys2Proof/Machine/Numeric.lean ====
section
/-! DEFINITION. Numbers: decoding of every format, rounding, conversion with flags, exact arithmetic, and the
special functions (R30 to R46, R49 to R51, R184, R193, R194).

A finite value is decoded exactly; a result is one call of `convert` on the exact value of the operation. A
format's magnitudes are ordered by their code, so that rounding picks one of two neighbouring codes. -/

namespace Sys2Proof

open Machine

/-! ### Flags (R44) -/

/-- Invalid operation. -/
def flInv : BitVec 8 := 1
/-- Overflow. -/
def flOvf : BitVec 8 := 2
/-- Underflow. -/
def flUnf : BitVec 8 := 4
/-- Inexact. -/
def flInx : BitVec 8 := 8
/-- Saturated. -/
def flSat : BitVec 8 := 16
/-- VOID consumed. -/
def flDisc : BitVec 8 := 32
/-- POISON consumed. -/
def flPois : BitVec 8 := 64
/-- amax ignored a NaN. -/
def flNans : BitVec 8 := 128

/-! ### Formats -/

/-- A floating format: significant bits, exponent of the least normal, largest finite magnitude code, whether
it has signs, infinities and −0. -/
structure FloatFmt where
  /-- Significant bits. -/
  p : Nat
  /-- Exponent of the least normal value. -/
  emin : Int
  /-- Code of the largest finite magnitude. -/
  top : Nat
  /-- It has a sign bit. -/
  signed : Bool
  /-- It has infinities. -/
  hasInf : Bool
  /-- Width in bits. -/
  width : Nat
  /-- It has −0. -/
  negZero : Bool
  /-- Its default NaN (R40). -/
  nan : Nat
  deriving DecidableEq, Repr

/-- The FP32 format. -/
def fp32 : FloatFmt := ⟨24, -126, 0x7F7FFFFF, true, true, 32, true, 0x7FC00000⟩

/-- The floating format of a code (R30, R36 to R40); `none` for integers, VOID, POISON and reserved codes. -/
def floatFmt (f : BitVec 8) : Option FloatFmt :=
  let n := f.toNat
  if n = 5 then some ⟨8, -126, 0x7F7F, true, true, 16, true, 0x7FC0⟩
  else if n = 6 then some ⟨11, -14, 0x7BFF, true, true, 16, true, 0x7E00⟩
  else if n = 7 then some fp32
  else if 0x10 ≤ n ∧ n ≤ 0x2E ∧ n % 8 ≤ 6 then
    let p := n % 8 + 1
    let inf := decide (n / 8 % 2 = 1)
    if n < 0x20 then some ⟨p, 1 - (2 : Int) ^ (7 - p), if inf then 0x7E else 0x7F, true, inf, 8, false, 0x80⟩
    else some ⟨p, 1 - (2 : Int) ^ (8 - p), if inf then 0xFD else 0xFE, false, inf, 8, false, 0xFF⟩
  else none

/-- Least and largest value of an integer format. -/
def intRange (f : BitVec 8) : Int × Int :=
  match f.toNat with
  | 1 => (-128, 127)
  | 2 => (0, 255)
  | 3 => (-32768, 32767)
  | _ => (-2147483648, 2147483647)

/-- Width in bits of a value of a format (R30); 0 for VOID and POISON. -/
def fmtBits (f : BitVec 8) : Nat :=
  match f.toNat with
  | 0 => 0
  | 1 => 8
  | 2 => 8
  | 3 => 16
  | 4 => 32
  | 5 => 16
  | 6 => 16
  | 7 => 32
  | 0x0E => 0
  | _ => 8

/-! ### Decoding -/

/-- m · 2^e. -/
def Num.pow2 (neg : Bool) (m : Nat) (e : Int) : Num :=
  if 0 ≤ e then .fin neg (m * 2 ^ e.toNat) 1 else .fin neg m (2 ^ (-e).toNat)

/-- x · 2^e (R46). -/
def Num.scale (x : Num) (e : Int) : Num :=
  match x with
  | .fin g n d => if 0 ≤ e then .fin g (n * 2 ^ e.toNat) d else .fin g n (d * 2 ^ (-e).toNat)
  | y => y

/-- The value of a magnitude code of a floating format, its exponent unbounded. -/
def FloatFmt.mag (k : FloatFmt) (neg : Bool) (idx : Nat) : Num :=
  let h := 2 ^ (k.p - 1)
  let qmin := k.emin - ((k.p : Int) - 1)
  if idx < h then .pow2 neg idx qmin else .pow2 neg (idx % h + h) (qmin + ((idx / h : Nat) : Int) - 1)

/-- Decodes a code of a floating format (R36, R38, R39). -/
def FloatFmt.decode (k : FloatFmt) (c : Nat) : Num :=
  let top := 2 ^ (k.width - 1)
  let neg := k.signed && decide (top ≤ c)
  let idx := if k.signed then c % top else c
  if k.width = 8 then
    if c = k.nan then .nan false
    else if k.hasInf && decide (idx = k.top + 1) then .inf neg
    else k.mag neg idx
  else if idx ≤ k.top then k.mag neg idx
  else if idx = k.top + 1 then .inf neg
  else .nan (decide (k.p ≠ 11) && decide (idx / 2 ^ (k.p - 2) % 2 = 0))

/-- Decodes the low bits of a slot as an integer of a format. -/
def intDecode (f : BitVec 8) (raw : Nat) : Int :=
  let w := fmtBits f
  let v := raw % 2 ^ w
  if f.toNat = 2 ∨ v < 2 ^ (w - 1) then v else (v : Int) - (2 : Int) ^ w

/-- A value as an element reads it. -/
inductive Val where
  /-- A number, exact. -/
  | num (x : Num)
  /-- Poisoned (R33). -/
  | poison
  deriving DecidableEq, Repr

/-- Decodes a slot's bits under a format and scale byte, with the flags of VOID and POISON (R31 to R33, R46).
`stored` takes an integer without its scale (R41). -/
def decodeVal (f s : BitVec 8) (stored : Bool) (raw : Nat) : Val × BitVec 8 :=
  if f = 0#8 then (.num .zero, flDisc)
  else if readsPoison f s then (.poison, flPois)
  else
    match floatFmt f with
    | some k =>
      let c := raw % 2 ^ k.width
      if s = 0xFF#8 then (.num (.nan false), 0) else (.num ((k.decode c).scale ((s.toNat : Int) - 127)), 0)
    | none =>
      let x := Num.ofInt (intDecode f raw)
      (.num (if stored then x else x.scale ((s.toNat : Int) - 127)), 0)

/-! ### Rounding (R43, R45) -/

/-- ⌊log2 (n / d)⌋ for positive n and d. -/
def floorLog2 (n d : Nat) : Int :=
  let a : Int := (Nat.log2 n : Int) - (Nat.log2 d : Int)
  let ge (e : Int) : Bool := if 0 ≤ e then decide (d * 2 ^ e.toNat ≤ n) else decide (d ≤ n * 2 ^ (-e).toNat)
  if ge a then a else a - 1

/-- Does rounding take the neighbour of larger magnitude: `odd` the parity of the smaller neighbour's code,
`rem / b` the fraction above it, not zero. -/
def roundsUp (rm : Nat) (neg odd : Bool) (rem b : Nat) : Bool :=
  match rm with
  | 0 => decide (b < 2 * rem) || (decide (2 * rem = b) && odd)
  | 1 => decide (b ≤ 2 * rem)
  | 2 => false
  | 3 => !neg
  | 4 => neg
  | _ => !odd

/-- Rounds n / d to a magnitude code of a format, its exponent unbounded: the code, and whether it is exact. -/
def FloatFmt.round (k : FloatFmt) (rm : Nat) (neg : Bool) (n d : Nat) : Nat × Bool :=
  if n = 0 then (0, true)
  else
    let qmin := k.emin - ((k.p : Int) - 1)
    let q := max (floorLog2 n d - ((k.p : Int) - 1)) qmin
    let a := if 0 ≤ q then n else n * 2 ^ (-q).toNat
    let b := if 0 ≤ q then d * 2 ^ q.toNat else d
    let idx := (q - qmin).toNat * 2 ^ (k.p - 1) + a / b
    let rem := a % b
    if rem = 0 then (idx, true) else (idx + (if roundsUp rm neg (decide (idx % 2 = 1)) rem b then 1 else 0), false)

/-- Rounds ± n / d to an integer, and whether it is exact. -/
def roundInt (rm : Nat) (neg : Bool) (n d : Nat) : Int × Bool :=
  let r := n / d
  let rem := n % d
  let m := if rem = 0 then r else r + (if roundsUp rm neg (decide (r % 2 = 1)) rem d then 1 else 0)
  (if neg then -(m : Int) else m, decide (rem = 0))

/-- Saturates an integer into a format; SAT when it does. -/
def saturate (f : BitVec 8) (v : Int) : Nat × BitVec 8 :=
  let r := intRange f
  let c (z : Int) : Nat := (z % (2 : Int) ^ fmtBits f).toNat
  if r.2 < v then (c r.2, flSat) else if v < r.1 then (c r.1, flSat) else (c v, 0)

/-- The code of a sign and magnitude code. -/
def FloatFmt.code (k : FloatFmt) (neg : Bool) (idx : Nat) : Nat :=
  if neg && k.signed && (decide (idx ≠ 0) || k.negZero) then 2 ^ (k.width - 1) + idx else idx

/-- ±Inf where the format has it, else its NaN with INV. -/
def FloatFmt.infCode (k : FloatFmt) (neg : Bool) : Nat × BitVec 8 :=
  if k.hasInf then (k.code neg (k.top + 1), 0) else (k.nan, flInv)

/-- Conversion to a floating format (R45). -/
def FloatFmt.convert (k : FloatFmt) (x : Num) (s rm ovr : Nat) : Nat × BitVec 8 :=
  match x.scale (127 - (s : Int)) with
  | .nan sg => (k.nan, if sg then flInv else 0)
  | .inf neg =>
    if neg && !k.signed then (0, flSat)
    else if ovr = 0 then (k.code neg k.top, flSat)
    else k.infCode neg
  | .fin neg n d =>
    if neg && !k.signed && decide (n ≠ 0) then (0, flSat)
    else
      let r := k.round rm neg n d
      let inx : BitVec 8 := if r.2 then 0 else flInx
      if k.top < r.1 then
        if ovr ≠ 2 then (k.code neg k.top, inx ||| flOvf)
        else let z := k.infCode neg; (z.1, z.2 ||| inx ||| flOvf)
      else
        let unf : BitVec 8 := if !r.2 && decide (r.1 < 2 ^ (k.p - 1)) then flUnf else 0
        (k.code neg r.1, inx ||| unf)

/-- convert(x, fmt, s, rm, ovr) of R45: the code and the flags set. -/
def convert (x : Num) (f : BitVec 8) (s rm ovr : Nat) : Nat × BitVec 8 :=
  match floatFmt f with
  | some k => k.convert x s rm ovr
  | none =>
    match x.scale (127 - (s : Int)) with
    | .nan _ => (0, flInv)
    | .inf neg =>
      let r := intRange f
      (((if neg then r.1 else r.2) % (2 : Int) ^ fmtBits f).toNat, flSat)
    | .fin neg n d =>
      let r := roundInt rm neg n d
      let z := saturate f r.1
      (z.1, z.2 ||| (if r.2 then 0 else flInx))

/-- convert(x, FP32, 0x7F, RNE, INF), the rounding of FP32 accumulators (R51, R54). -/
def toFp32 (x : Num) : BitVec 32 × BitVec 8 :=
  let r := fp32.convert x 127 0 2
  (BitVec.ofNat 32 r.1, r.2)

/-- The value of FP32 bits. -/
def ofFp32 (b : BitVec 32) : Num := fp32.decode b.toNat

/-! ### Exact arithmetic (R46, R184) -/

/-- Negation. -/
def Num.neg : Num → Num
  | .nan s => .nan s
  | .inf g => .inf (!g)
  | .fin g n d => .fin (!g) n d

/-- Magnitude. -/
def Num.abs : Num → Num
  | .nan s => .nan s
  | .inf _ => .inf false
  | .fin _ n d => .fin false n d

/-- A NaN. -/
def Num.isNan : Num → Bool
  | .nan _ => true
  | _ => false

/-- A signalling NaN. -/
def Num.isSnan : Num → Bool
  | .nan s => s
  | _ => false

/-- ±0. -/
def Num.isZero : Num → Bool
  | .fin _ n _ => decide (n = 0)
  | _ => false

/-- The NaN of two operands of which one is a NaN: signalling if either is, so that `convert` sets INV. -/
def nan2 (x y : Num) : Num := .nan (x.isSnan || y.isSnan)

/-- a + b, exact, with the sign rule of a zero sum (R184); INV for ∞ − ∞. -/
def Num.add (rm : Nat) (x y : Num) : Num × BitVec 8 :=
  match x, y with
  | .nan _, _ => (nan2 x y, 0)
  | _, .nan _ => (nan2 x y, 0)
  | .inf g, .inf h => if g = h then (.inf g, 0) else (.nan false, flInv)
  | .inf g, _ => (.inf g, 0)
  | _, .inf h => (.inf h, 0)
  | .fin g n d, .fin h m e =>
    if g = h then (.fin g (n * e + m * d) (d * e), 0)
    else
      let a := n * e
      let b := m * d
      if a = b then (.fin (decide (rm = 4)) 0 1, 0)
      else if b < a then (.fin g (a - b) (d * e), 0)
      else (.fin h (b - a) (d * e), 0)

/-- a × b, exact; INV for 0 × ∞. -/
def Num.mul (x y : Num) : Num × BitVec 8 :=
  match x, y with
  | .nan _, _ => (nan2 x y, 0)
  | _, .nan _ => (nan2 x y, 0)
  | .inf g, .inf h => (.inf (g != h), 0)
  | .inf g, .fin h m _ => if m = 0 then (.nan false, flInv) else (.inf (g != h), 0)
  | .fin g n _, .inf h => if n = 0 then (.nan false, flInv) else (.inf (g != h), 0)
  | .fin g n d, .fin h m e => (.fin (g != h) (n * m) (d * e), 0)

/-- a / b, exact, for a divisor that is not zero or NaN (R218). -/
def Num.div (x y : Num) : Num × BitVec 8 :=
  match x, y with
  | .nan _, _ => (nan2 x y, 0)
  | _, .nan _ => (nan2 x y, 0)
  | .inf _, .inf _ => (.nan false, flInv)
  | .inf g, .fin h _ _ => (.inf (g != h), 0)
  | .fin g _ _, .inf h => (.fin (g != h) 0 1, 0)
  | .fin g n d, .fin h m e => (.fin (g != h) (n * e) (d * m), 0)

/-- Is x < y as real values, with −0 and +0 equal; false with a NaN. -/
def Num.lt (x y : Num) : Bool :=
  match x, y with
  | .nan _, _ => false
  | _, .nan _ => false
  | .inf g, .inf h => g && !h
  | .inf g, _ => g
  | _, .inf h => !h
  | .fin g n d, .fin h m e =>
    let a : Int := if g then -((n * e : Nat) : Int) else ((n * e : Nat) : Int)
    let b : Int := if h then -((m * d : Nat) : Int) else ((m * d : Nat) : Int)
    decide (a < b)

/-- Equal as real values. -/
def Num.eqv (x y : Num) : Bool := !x.isNan && !y.isNan && !x.lt y && !y.lt x

/-- x below y with −0 below +0 (R49). -/
def Num.below (x y : Num) : Bool :=
  x.lt y || (x.eqv y && x.isZero && (match x, y with
    | .fin g _ _, .fin h _ _ => g && !h
    | _, _ => false))

/-- MIN, MAX, MINP, MAXP (R49): `max` the greater, `prop` NaNs propagate. A signalling NaN stays so, for
`convert` to flag. -/
def pickNum (max prop : Bool) (x y : Num) : Num :=
  if x.isSnan || y.isSnan then .nan true
  else if x.isNan && y.isNan then .nan false
  else if x.isNan then (if prop then .nan false else y)
  else if y.isNan then (if prop then .nan false else x)
  else if max then (if x.below y then y else x) else (if y.below x then y else x)

/-- Lifts an exact operation of two values over poison. -/
def Val.map2 (f : Num → Num → Num × BitVec 8) (x y : Val) : Val × BitVec 8 :=
  match x, y with
  | .num a, .num b => let r := f a b; (.num r.1, r.2)
  | _, _ => (.poison, 0)

/-! ### amax (R50) -/

/-- amax after a value: FP32 magnitude bits, rounded up; NANS for a NaN. -/
def amaxStep (m : BitVec 32) (v : Val) : BitVec 32 × BitVec 8 :=
  match v with
  | .poison => (m, 0)
  | .num x =>
    if x.isNan then (m, flNans)
    else
      let b := BitVec.ofNat 32 (fp32.convert x.abs 127 3 2).1
      (if m.toNat < b.toNat then b else m, 0)

/-! ### Special functions (R193, R194) -/

/-- ⌊√n⌋, one bit at a time. -/
def isqrtAux (n : Nat) : Nat → Nat → Nat
  | 0, r => r
  | k + 1, r =>
    let t := r + 2 ^ k
    isqrtAux n k (if t * t ≤ n then t else r)

/-- ⌊√n⌋. -/
def isqrt (n : Nat) : Nat := isqrtAux n (Nat.log2 n / 2 + 1) 0

/-- √(n / d) with a sticky bit below 2^−k of it: rounds as the exact root does. -/
def sqrtNum (n d : Nat) : Num :=
  let k := 80 + Nat.log2 d
  let big := n * 4 ^ k / d
  let r := isqrt big
  let exact := decide (r * r * d = n * 4 ^ k)
  .fin false (2 * r + (if exact then 0 else 1)) (2 ^ (k + 1))

/-- The fixed-point one of the series below, 2^112. -/
def fxOne : Nat := 2 ^ 112
/-- ⌊ln 2 · 2^112⌋. -/
def fxLn2 : Nat := 3599025928123676973540407451845618
/-- ⌊log2 e · 2^112⌋. -/
def fxLog2e : Nat := 7490900928631539394323262730195514

/-- Σ x^n / n! from term `t` on, for `k` terms. -/
def expSeries (x : Nat) : Nat → Nat → Nat → Nat
  | 0, _, _ => 0
  | k + 1, n, t => t + expSeries x k (n + 1) (t * x / (fxOne * (n + 1)))

/-- 2^f for a fixed-point fraction f below 1. -/
def fxExp2 (f : Nat) : Nat := expSeries (f * fxLn2 / fxOne) 32 0 fxOne

/-- Σ z^(2n+1) / (2n+1) from term `t` on, for `k` terms. -/
def atanhSeries (z2 : Nat) : Nat → Nat → Nat → Nat
  | 0, _, _ => 0
  | k + 1, n, t => t / (2 * n + 1) + atanhSeries z2 k (n + 1) (t * z2 / fxOne)

/-- log2 m for a fixed-point m from 1 to 2. -/
def fxLog2 (m : Nat) : Nat :=
  let z := (m - fxOne) * fxOne / (m + fxOne)
  2 * atanhSeries (z * z / fxOne) 40 0 z * fxLog2e / fxOne

/-- The place of an FP32 value in the order of FP32 values: its magnitude code, negated when negative. -/
def fp32Key (b : BitVec 32) : Int :=
  let m : Nat := b.toNat % 2 ^ 31
  if b.getLsbD 31 then -(m : Int) else m

/-- The FP32 value at a place. -/
def ofKey (k : Int) : BitVec 32 := BitVec.ofNat 32 (if k < 0 then 2 ^ 31 + (-k).toNat else k.toNat)

/-- The place of the FP32 value next to a magnitude, rounded down (2) or up (3); past the finite ones that of Inf. -/
def keyOf (rm n d : Nat) : Int := Nat.min (fp32.round rm false n d).1 0x7F800000

/-- Places within `u` units in the last place of ± n / d, a unit being that of this exact value (log 5), capped at
`top`. -/
def nearKeys (u : Nat) (neg : Bool) (n d top : Nat) : Int × Int :=
  let e := max (-149) (floorLog2 n d - 23)
  let un := u * 2 ^ e.toNat
  let ud := 2 ^ (-e).toNat
  let hi := min (top : Int) (keyOf 2 (n * ud + un * d) (d * ud))
  let lo := min hi (keyOf 3 (n * ud - un * d) (d * ud))
  if neg then (-hi, -lo) else (lo, hi)

/-- FP32 places that a special function may return (R194) for a finite, nonzero FP32 input ± n / d that is no
exact case and no special value of R193. -/
def allowedKeys (op : Nat) (neg : Bool) (n d : Nat) : Int × Int :=
  match op with
  | 0x40 => nearKeys 1 neg d n 0x7F800000
  | 0x41 =>
    match sqrtNum d n with
    | .fin _ a b => nearKeys 1 false a b 0x7F800000
    | _ => (0, 0)
  | 0x43 =>
    -- 2^(± n / d): the integer part and the fraction.
    if neg = false ∧ 128 * d < n then (0x7F800000, 0x7F800000)
    else if 1024 * d < n then (0, 2)
    else
      let i := n / d
      let f := n % d * fxOne / d
      if neg then
        let g := if f = 0 then 0 else fxOne - f
        let j := if f = 0 then i else i + 1
        nearKeys 2 false (fxExp2 g) (fxOne * 2 ^ j) 0x7F800000
      else nearKeys 2 false (fxExp2 f * 2 ^ i) fxOne 0x7F800000
  | 0x44 =>
    let e := floorLog2 n d
    let m := if 0 ≤ e then n * fxOne / (d * 2 ^ e.toNat) else n * 2 ^ (-e).toNat * fxOne / d
    let v : Int := e * ((fxOne : Nat) : Int) + ((fxLog2 m : Nat) : Int)
    if decide (d ≤ 2 * n) && decide (n < 2 * d) then
      -- Absolute bound 2^−23.
      let h : Int := ((fxOne / 2 ^ 23 : Nat) : Int)
      let key (z : Int) (up : Bool) : Int :=
        let w := z.natAbs
        if z < 0 then -((fp32.round (if up then 3 else 2) false w fxOne).1 : Int)
        else ((fp32.round (if up then 2 else 3) false w fxOne).1 : Int)
      (key (v - h) false, key (v + h) true)
    else nearKeys 2 (decide (v < 0)) v.natAbs fxOne 0x7F800000
  | _ =>
    -- tanh
    if 4096 * n < d then
      -- x − x³/3 for a small x.
      nearKeys 2 neg (n * (3 * d * d - n * n)) (3 * d * d * d) 0x3F800000
    else if 16 * d < n then (if neg then (-0x3F800000, -0x3F7FFFFE) else (0x3F7FFFFE, 0x3F800000))
    else
      let t := 2 * n * fxLog2e / d
      let big := fxExp2 (t % fxOne) * 2 ^ (t / fxOne)
      nearKeys 2 neg (big - fxOne) (big + fxOne) 0x3F800000

/-- A finite value's exact case (R194), if it is one. -/
def exactSpecial (op : Nat) (neg : Bool) (n d : Nat) : Option Num :=
  let two := isPow2 n && isPow2 d
  match op with
  | 0x40 => if two then some (.fin neg d n) else none
  | 0x41 =>
    if two ∧ floorLog2 n d % 2 = 0 then
      let e := floorLog2 n d / 2
      some (.pow2 false 1 (-e))
    else none
  | 0x43 =>
    if n % d = 0 ∧ ((neg = true ∧ n / d ≤ 149) ∨ (neg = false ∧ n / d ≤ 127)) then
      some (.pow2 false 1 (if neg then -((n / d : Nat) : Int) else ((n / d : Nat) : Int)))
    else none
  | 0x44 => if two then some (Num.ofInt (floorLog2 n d)) else none
  | _ => none

/-- Flags of an FP32 intermediate of magnitude code `k` that is not the exact value: it was rounded (R44, R278; log 5). -/
def intermediateFlags (k : Nat) : BitVec 8 :=
  flInx ||| (if k = 0x7F800000 then flOvf else if k < 0x00800000 then flUnf else 0)

/-- RCP, RSQ, SQRT, EXP2, LOG2 and TANH of a value (R193, R194): the result before its conversion, and the flags of the
evaluation. Where the spec allows several FP32 intermediates, `Config.specialChoice` picks one (log 5). -/
def special (op : Nat) (x : Num) : Num × BitVec 8 :=
  if x.isNan then (x, 0)
  else
    let b := (toFp32 x).1
    match ofFp32 b with
    | .nan s => (.nan s, 0)
    | .inf neg =>
      match op with
      | 0x40 => (.fin neg 0 1, 0)
      | 0x43 => if neg then (.zero, 0) else (.inf false, 0)
      | 0x45 => (.fin neg 1 1, 0)
      | 0x41 => if neg then (.nan false, flInv) else (.zero, 0)
      | _ => if neg then (.nan false, flInv) else (.inf false, 0)
    | .fin neg n d =>
      if n = 0 then
        match op with
        | 0x40 => (.inf neg, 0)
        | 0x41 => (.inf neg, 0)
        | 0x43 => (.fin false 1 1, 0)
        | 0x44 => (.inf true, 0)
        | _ => (.fin neg 0 1, 0)
      else if neg && (decide (op = 0x41) || decide (op = 0x42) || decide (op = 0x44)) then (.nan false, flInv)
      else if op = 0x42 then (sqrtNum n d, 0)
      else
        match exactSpecial op neg n d with
        | some y => let c := toFp32 y; (ofFp32 c.1, c.2)
        | none =>
          let r := allowedKeys op neg n d
          let c : Nat := Config.specialChoice op b % ((r.2 - r.1).toNat + 1)
          let k := r.1 + (c : Int)
          (ofFp32 (ofKey k), intermediateFlags k.natAbs)

end Sys2Proof
end

