-- ==== Sys2Proof/Machine/Tensors.lean ====
section
/-! DEFINITION. Tensor geometry: layouts (R283, R297), elements by row-major index, and references (R299). -/

namespace Sys2Proof.Machine

/-- Width in bytes of a format (R30); VOID, POISON and reserved codes count one byte. -/
def fmtBytes (f : BitVec 8) : Nat :=
  match f.toNat with
  | 0x03 => 2
  | 0x05 => 2
  | 0x06 => 2
  | 0x04 => 4
  | 0x07 => 4
  | _ => 1

/-- A format that may be a tensor's default or a stream's FMT: listed, not VOID, not POISON (R143, R296). -/
def fmtUsable (f : BitVec 8) : Bool := fmtListed f && decide (f ≠ 0#8) && decide (f ≠ 0x0E#8)

/-- Tensor 0 as a descriptor: 2^48 bytes, row-major, read as UINT8 (R295). Its extent does not fit the
4-byte field, so `Geo` carries it. -/
structure Geo where
  /-- Slot. -/
  slot : Nat
  /-- RANK. -/
  rank : Nat
  /-- Default format. -/
  fmt : BitVec 8
  /-- Layout code. -/
  layout : Nat
  /-- Extents, axis 0 first; 1 above RANK. -/
  ext : List Nat
  /-- SHARED. -/
  shared : Bool
  /-- READONLY. -/
  readonly : Bool
  /-- NOFORK. -/
  nofork : Bool
  deriving DecidableEq, Repr

/-- The geometry that a descriptor gives (R296). -/
def geoOf (slot : Nat) (d : List Byte) : Geo :=
  if slot = 0 then ⟨0, 1, 0x02#8, 0, [2 ^ 48, 1, 1, 1], false, false, false⟩
  else ⟨slot, tRank d, tFmt d, tLayout d, (List.range 4).map (tExt d), tShared d, tReadonly d, tNofork d⟩

/-- The geometry of a slot of a partition. -/
def State.geo (s : State) (part slot : Nat) : Geo := geoOf slot ((s.part part).slot slot).bytes

/-- Extent of an axis. -/
def Geo.e (g : Geo) (k : Nat) : Nat := (g.ext[k]?).getD 1

/-- Bytes of one element. -/
def Geo.width (g : Geo) : Nat := fmtBytes g.fmt

/-- Components of an algebra layout; 1 for the others (R283, R297). -/
def Geo.comps (g : Geo) : Nat :=
  match g.layout with
  | 3 => 2
  | 4 => 4
  | 5 => 8
  | 6 => 2
  | 7 => 4
  | 8 => 8
  | _ => 1

/-- A component-planar layout. -/
def Geo.planar (g : Geo) : Bool := decide (6 ≤ g.layout)

/-- Plane size Q of a planar layout, in whole blocks (R283). -/
def Geo.plane (g : Geo) : Nat :=
  64 * ((g.e 0 / g.comps * g.e 1 * g.e 2 * g.e 3 * g.width + 63) / 64)

/-- SIZE: bytes spanned (R297). -/
def Geo.size (g : Geo) : Nat :=
  if g.planar then g.comps * g.plane else g.e 0 * g.e 1 * g.e 2 * g.e 3 * g.width

/-- Byte offset of a coordinate (R283, R297). -/
def Geo.off (g : Geo) (a a1 a2 a3 : Nat) : Nat :=
  let w := g.width
  let m := (a3 * g.e 2 + a2) * g.e 1 + a1
  match g.layout with
  | 1 => (((a * g.e 1 + a1) * g.e 2 + a2) * g.e 3 + a3) * w
  | 2 =>
    let b0 := 64 / w
    let tile := ((a3 * g.e 2 + a2) * (g.e 1 / 16) + a1 / 16) * (g.e 0 / b0) + a / b0
    tile * 1024 + a1 % 16 * 64 + a % b0 * w
  | k =>
    if 6 ≤ k then
      let n := g.comps
      a % n * g.plane + (m * (g.e 0 / n) + a / n) * w
    else (m * g.e 0 + a) * w

/-- A coordinate lies inside the tensor. -/
def Geo.inside (g : Geo) (v : List Int) : Bool :=
  (List.range 4).all fun k =>
    let x := (v[k]?).getD 0
    decide (0 ≤ x) && decide (x < (g.e k : Int))

/-- Byte offset of an integer coordinate that lies inside. -/
def Geo.offC (g : Geo) (v : List Int) : Nat :=
  let f (k : Nat) : Nat := ((v[k]?).getD 0).toNat
  g.off (f 0) (f 1) (f 2) (f 3)

/-- Elements of the tensor. -/
def Geo.count (g : Geo) : Nat := g.e 0 * g.e 1 * g.e 2 * g.e 3

/-- Byte offset of the element with a row-major index over the shape (R151, R153, R232, R283). -/
def Geo.offI (g : Geo) (i : Nat) : Nat :=
  g.off (i % g.e 0) (i / g.e 0 % g.e 1) (i / (g.e 0 * g.e 1) % g.e 2) (i / (g.e 0 * g.e 1 * g.e 2))

/-- The descriptor keeps R296 and R297, and its SIZE does not exceed 2^48 (R298). -/
def descValid (slot : Nat) (d : List Byte) : Bool :=
  let g := geoOf slot d
  let raw (k : Nat) : Nat := leAt d (8 + 4 * k) 4
  decide (1 ≤ g.rank) && decide (g.rank ≤ 4) && fmtUsable g.fmt && decide (g.layout ≤ 8)
    && decide (leAt d 3 1 < 8) && decide (leAt d 6 2 = 0) && decide (leAt d 40 24 = 0)
    && ((List.range 4).all fun k => if k < g.rank then decide (1 ≤ raw k) else decide (raw k = 0))
    && decide (tRoot d % 2 ^ 14 = 0) && decide (tRoot d < 2 ^ 48)
    && (match g.layout with
        | 2 => decide (2 ≤ g.rank) && decide (g.e 0 % (64 / g.width) = 0) && decide (g.e 1 % 16 = 0)
        | k => if 3 ≤ k then decide (g.e 0 % g.comps = 0) else true)
    && decide (g.size ≤ 2 ^ 48)

/-! ### References (R299) -/

/-- Takes a reference to a slot; slot 0 needs none. -/
def State.refSlot (s : State) (part slot : Nat) : State :=
  if slot = 0 then s
  else s.modPart part fun p => let x := p.slot slot; p.setSlot slot { x with refs := x.refs + 1 }

/-- Releases a reference; a dead slot becomes free with its last one, and STATE = 0 is written in the table
(R299). -/
def State.unrefSlot (s : State) (part slot : Nat) : State :=
  if slot = 0 then s
  else
    let x := (s.part part).slot slot
    let x := { x with refs := x.refs - 1 }
    if x.state = 2 ∧ x.refs = 0 then
      let s := s.modPart part fun p => p.setSlot slot { x with state := 0 }
      match s.guest part ((s.part part).twbase.toNat + 64 * slot) with
      | .ok a => s.pokeBlock (.hbm (a + 5)) [0]
      | .refused _ => s
    else s.modPart part fun p => p.setSlot slot x

/-- Translates a byte offset of a slot, for an agent of a bay in a view, with the leaf entry it used. -/
def State.xlateOff (s : State) (b part view slot off : Nat) : Walk × State :=
  s.xlate b part view slot (off / 2 ^ 16)

/-- Flags of an address of a slot (R302): the leaf's for tensor 0, else the descriptor's; READONLY, SHARED,
NOFORK. -/
def Geo.flags (g : Geo) (leaf : Nat) : Bool × Bool × Bool :=
  if g.slot = 0 then (leafRo leaf, leafSh leaf, leafNf leaf) else (g.readonly, g.shared, g.nofork)

end Sys2Proof.Machine
end

