-- ==== Sys2Proof/Machine/Streams.lean ====
section
/-! DEFINITION. Stream descriptors, their walk, and the stream instructions (R143 to R149, R284). -/

namespace Sys2Proof.Machine

/-! ### The descriptor (R143) -/

/-- HANDLE. -/
def dHandle (d : List Byte) : Nat := leAt d 0 4
/-- NDIM. -/
def dNdim (d : List Byte) : Nat := leAt d 4 1
/-- BLEN. -/
def dBlen (d : List Byte) : Nat := leAt d 5 1
/-- FMT, 0xFF for ANY. -/
def dFmt (d : List Byte) : BitVec 8 := BitVec.ofNat 8 (leAt d 6 1)
/-- CTRL. -/
def dCtrl (d : List Byte) : Nat := leAt d 7 1
/-- PAD. -/
def dPad (d : List Byte) : Bool := (dCtrl d).testBit 0
/-- CSCOPE. -/
def dScope (d : List Byte) : Nat := bits (dCtrl d) 1 2
/-- CRX. -/
def dCrx (d : List Byte) : Bool := (dCtrl d).testBit 3
/-- EXT of a dimension. -/
def dExt (d : List Byte) (m : Nat) : Nat := leAt d (8 + 4 * m) 4
/-- STR of a dimension. -/
def dStr (d : List Byte) (m : Nat) : Int := leInt d (24 + 4 * m) 4
/-- BASE of an axis. -/
def dBase (d : List Byte) (k : Nat) : Int := leInt d (40 + 4 * k) 4
/-- AXIS of a dimension. -/
def dAxis (d : List Byte) (m : Nat) : Nat := bits (leAt d 56 1) (2 * m) 2
/-- RANKS of a dimension. -/
def dRank (d : List Byte) (m : Nat) : Nat := bits (leAt d 57 2) (3 * m) 3
/-- PADV. -/
def dPadv (d : List Byte) : Nat := leAt d 60 4

/-- Slot of a handle (R295). -/
def hSlot (h : Nat) : Nat := h % 2 ^ 16
/-- Generation of a handle. -/
def hGen (h : Nat) : Nat := bits h 16 8

/-- What the descriptor's own fields break (R143, R145): ILLEGAL; every field of a dimension above NDIM must be 0. -/
def streamIllegal (d : List Byte) : Bool :=
  decide (dNdim d = 0) || decide (4 < dNdim d) || decide (64 ≤ dBlen d) || decide (16 ≤ dCtrl d)
    || decide (dScope d = 0) || decide (dScope d = 3) || decide (2 ^ 24 ≤ dHandle d)
    || !(dFmt d == 0xFF#8 || fmtUsable (dFmt d)) || decide (2 ^ 12 ≤ leAt d 57 2) || decide (leAt d 59 1 ≠ 0)
    || (List.range 4).any fun m =>
        if m < dNdim d then decide (dExt d m = 0)
        else decide (dExt d m ≠ 0) || decide (dStr d m ≠ 0) || decide (dAxis d m ≠ 0) || decide (dRank d m ≠ 0)

/-- AXIS at or beyond the rank (R145), or a walk that splits interleaved values (R284). -/
def axisIllegal (d : List Byte) (g : Geo) : Bool :=
  ((List.range (dNdim d)).any fun m => decide (g.rank ≤ dAxis d m)) ||
    (decide (3 ≤ g.layout) && decide (g.layout ≤ 5) &&
      (decide (dBase d 0 % (g.comps : Int) ≠ 0) ||
        (List.range (dNdim d)).any fun m => decide (dAxis d m = 0) && decide (dStr d m % (g.comps : Int) ≠ 0)))

/-- The least and largest coordinate on an axis that the walk reaches. -/
def axisSpan (d : List Byte) (k : Nat) : Int × Int :=
  (List.range (dNdim d)).foldl (fun r m =>
    if dAxis d m = k then
      let x := ((dExt d m : Int) - 1) * dStr d m
      (r.1 + (if x < 0 then x else 0), r.2 + (if x < 0 then 0 else x))
    else r) (dBase d k, dBase d k)

/-- Some walk point's coordinate lies outside the tensor (R145). -/
def walkOutside (d : List Byte) (g : Geo) : Bool :=
  (List.range 4).any fun k =>
    let r := axisSpan d k
    decide (r.1 < 0) || decide ((g.e k : Int) ≤ r.2)

/-! ### The walk (R144) -/

/-- Walk points in all. -/
def dPoints (d : List Byte) : Nat := (List.range (dNdim d)).foldl (fun n m => n * dExt d m) 1

/-- i_m at walk point `n`. -/
def dIndex (d : List Byte) (n m : Nat) : Nat :=
  n / (List.range m).foldl (fun x j => x * dExt d j) 1 % dExt d m

/-- The coordinate of walk point `n`, axis by axis. -/
def dCoord (d : List Byte) (n : Nat) : List Int :=
  (List.range 4).map fun k =>
    (List.range (dNdim d)).foldl (fun c m => if dAxis d m = k then c + (dIndex d n m : Int) * dStr d m else c) (dBase d k)

/-- The end rank at walk point `n`: the largest RANKS[m] of the dimensions that end there with every one below
them. -/
def dEndRank (d : List Byte) (n : Nat) : BitVec 3 :=
  let go := (List.range (dNdim d)).foldl (fun (r : Bool × Nat) m =>
    if r.1 && decide (dIndex d n m + 1 = dExt d m) then (true, Nat.max r.2 (dRank d m)) else (false, r.2)) (true, 0)
  BitVec.ofNat 3 go.2

/-- The format a stream's slots have: FMT, or the tensor's default for ANY (R144). -/
def streamFmt (d : List Byte) (g : Geo) : BitVec 8 := if dFmt d = 0xFF#8 then g.fmt else dFmt d

/-- Values per token. -/
def slotsOf (f : BitVec 8) : Nat := 64 / fmtBytes f

/-- The coordinate of slot `j` of a point (R144, R284). -/
def slotCoord (g : Geo) (c : List Int) (j : Nat) : List Int :=
  match c with
  | [] => []
  | x :: t => (x + (if g.planar then (g.comps * j : Nat) else j)) :: t

/-- Byte offset of slot `j` of a point, if it lies inside the tensor. -/
def slotOff (g : Geo) (c : List Int) (j : Nat) : Option Nat :=
  let x := slotCoord g c j
  if g.inside x then some (g.offC x) else none

/-- A descriptor's reads at issue: ILLEGAL, BOUNDS, HANDLE and WORLD in the order of R128; `none` where the
stream may be issued. -/
def streamCheck (d : List Byte) (addr : Word) (k : Nat) (s : State) : Option Res :=
  let h := dHandle d
  let part := s.curPart
  let live := s.handleOk part (hSlot h) (hGen h)
  let g := s.geo part (hSlot h)
  let p := s.curPage.port k
  let clash := match p.bound with
    | some f => f != 0xFF#8 && dFmt d != 0xFF#8 && f != dFmt d
    | none => false
  if streamIllegal d || clash || (live && axisIllegal d g) then some (trapHere causeIllegal addr s)
  else if live && !dPad d && walkOutside d g then some (trapHere causeBounds addr s)
  else if !live then some (trapHere causeHandle (BitVec.ofNat 64 h) s)
  else if decide (4 ≤ k) && g.readonly then some (trapHere causeHandle (BitVec.ofNat 64 h) s)
  else if decide (4 ≤ k) && decide (0 < s.curDepth) && g.nofork then some (trapHere causeWorld (BitVec.ofNat 64 h) s)
  else none

/-- Bits [6:3] of SSTAT are cleared, and the discard of R148 ends, at an issue. -/
def Port.issue (p : Port) (x : Stream) : Port :=
  let p := { p with sticky := 0, discard := false }
  match p.act with
  | none => { p with act := some x, count := 0 }
  | some _ => { p with pend := some x }

/-- SLD and SST of port code `k` (R145). -/
def issueStream (k : Nat) (a : Reg) (s : State) : Res :=
  let addr := s.core.rd a
  if addr.toNat % 64 ≠ 0 then trapHere causeMisalign addr s
  else if !t0Range addr then trapHere causeBounds addr s
  else (coreBlock addr s).bind fun d s =>
    match streamCheck d addr k s with
    | some r => r
    | none =>
      let p := s.curPage.port k
      if p.act.isSome && p.pend.isSome then waitFor (.streamSlot k) 0 s
      else
        let h := dHandle d
        let x : Stream := ⟨d, hSlot h, hGen h, 0, 0, [], false⟩
        let s := s.refSlot s.curPart (hSlot h)
        let s := s.setPage s.cur (s.curPage.setPort k (p.issue x))
        .next (complete s.core s)

/-- SLD (R145): ports lp0–lp3. -/
def execSld (a : Reg) (p : BitVec 2) (s : State) : Res := issueStream p.toNat a s

/-- SST (R145): ports sp0–sp3; the word's port field holds 4 to 7. -/
def execSst (a : Reg) (p : BitVec 2) (s : State) : Res := issueStream (4 + p.toNat) a s

/-- SWAIT (R148): waits until the port holds no stream. -/
def execSwait (p : BitVec 3) (s : State) : Res :=
  let x := s.curPage.port p.toNat
  if s.core.stage = 1 ∨ (x.act.isNone = true ∧ x.pend.isNone = true) then .next (complete s.core s)
  else waitFor (.port p.toNat) 0 s

/-- The requester of a port. -/
def portAgent (p k : Nat) : AgentId := pageAgent p (if k < 4 then 1 else 2) (k % 4)

/-- The stall a port is in (R408). -/
def State.portStall (s : State) (p k : Nat) : Option Stall := (s.req (portAgent p k)).stall

/-- Tokens that crx holds: its DATA tokens, for it consumes SCALE tokens (R13, R149). -/
def Page.crxHeld (pg : Page) : Nat := pg.crx.countP fun t => decide (t.kind = 0)

/-- SSTAT of a port code (R148). -/
def State.sstat (s : State) (pn k : Nat) : Word :=
  let pg := s.page pn
  if k < 8 then
    let p := pg.port k
    BitVec.ofNat 64 (p.count.toNat * 2 ^ 32 + p.sticky.toNat * 8
      + (if (s.portStall pn k).isSome then 4 else 0) + (if p.pend.isSome then 2 else 0) + (if p.act.isSome then 1 else 0))
  else if k = 8 then BitVec.ofNat 64 (pg.ctx.length * 2 ^ 32)
  else if k = 9 then
    BitVec.ofNat 64 (pg.crxHeld * 2 ^ 32 + pg.lvalid.toNat * 2 ^ 16 + pg.lkind.toNat * 2 ^ 14 + pg.lrank.toNat * 2 ^ 11)
  else BitVec.ofNat 64 (pg.cmd.length * 2 ^ 32)

/-- SSTAT (R65, R148): port codes 0–10. -/
def execSstat (d : Reg) (p : BitVec 6) (s : State) : Res :=
  if 11 ≤ p.toNat then trapWord (.sstat d p) s
  else writeReg d (s.sstat s.cur p.toNat) false s

/-! ### Tokens of the core -/

/-- A DATA token with its parity (R83). -/
def dataToken (data : Data) (valid : BitVec 16) (rank : BitVec 3) : Token := ⟨0, rank, valid, data, parity data, false⟩

/-- The token's data was lost to an uncorrectable error on a hop, and it stands in a POISON burst of its own
(R410). -/
def Token.lost (t : Token) : Bool := decide (t.par ≠ parity t.data)

/-- A SCALE token (R84): BLEN, SCALE and FMT in lane 0. -/
def scaleToken (fmt scale : BitVec 8) (blen : Nat) : Token :=
  let d := BitVec.ofNat 512 (fmt.toNat + scale.toNat * 2 ^ 8 + blen % 64 * 2 ^ 16)
  ⟨1, 0, 1, d, parity d, false⟩

/-- SPUSH (R149): lanes 0–3 on ctx; waits while ctx holds 4 tokens. -/
def execSpush (a b : Reg) (k : BitVec 3) (s : State) : Res :=
  let pg := s.curPage
  if 4 ≤ pg.ctx.length then waitFor .ctxRoom 0 s
  else
    let d := BitVec.ofNat 512 ((s.core.rd a).toNat + (s.core.rd b).toNat * 2 ^ 64)
    let s := s.setPage s.cur { pg with ctx := pg.ctx ++ [dataToken d 0xF k] }
    .next (complete s.core s)

/-- Lane `l` of a token, an invalid lane reading as zero (R149). -/
def laneOrZero (t : Token) (l : Nat) : Nat := if t.valid.getLsbD l then (lane t.data l).toNat else 0

/-- A burst opened by a SCALE token (R84). -/
def burstOf (t : Token) : Burst :=
  let w := (lane t.data 0).toNat
  let f := BitVec.ofNat 8 w
  let sc := BitVec.ofNat 8 (w / 2 ^ 8)
  if t.valid.getLsbD 0 && decide (w / 2 ^ 22 = 0) && !t.lost then ⟨f, sc, bits w 16 6, bits w 16 6 + 1, false⟩
  else ⟨0x0E#8, 0x7F#8, 63, 64, true⟩

/-- A DATA token passes in a burst (R84): after its last, further tokens form a new burst alike. -/
def Burst.pass (b : Burst) : Burst := { b with left := if b.left ≤ 1 then b.blen + 1 else b.left - 1 }

/-- The burst reads as POISON (R31, R32, R84). -/
def Burst.poison (b : Burst) : Bool := b.bad || readsPoison b.fmt b.scale

/-- A CONFIG token still holds a valid word (R82). -/
def Token.words (t : Token) : List (Nat × Word32) :=
  (List.range 16).filterMap fun l => if t.valid.getLsbD l then some (l, lane t.data l) else none

/-- A CONFIG token that ends at a port with a word left fails the truss, naming the ELEM of its lowest lane (R82). -/
def State.strandedConfig (s : State) (p : Nat) (t : Token) : State :=
  match t.words with
  | [] => s
  | (_, w) :: _ => s.failTruss (s.page p).truss 0x03 (bits w.toNat 18 12) (s.page p).ix

/-- A token reaches crx: DATA waits for SPOP; SCALE holds no place and takes effect on the DATA tokens behind it;
a COMMAND token, and a CONFIG token with a word left, is discarded and fails the truss (R82, R149, R266). -/
def State.reachCrx (s : State) (p : Nat) (t : Token) : State :=
  let pg := s.page p
  let s := s.setPage p { pg with crx := if t.kind.toNat ≤ 1 then pg.crx ++ [t] else pg.crx,
                                 core := { pg.core with event := true } }
  match t.kind.toNat with
  | 2 => s.strandedConfig p t
  | 3 => s.failPage p 0x03 60
  | _ => s

/-- SPOP takes the tokens at the head of crx that are not DATA: SCALE tokens set its burst (R149). -/
def crxSkip (n : Nat) (s : State) : State :=
  match n with
  | 0 => s
  | k + 1 =>
    let pg := s.curPage
    match pg.crx with
    | [] => s
    | t :: rest =>
      let s' := s.setPage s.cur { pg with crx := rest }
      match t.kind.toNat with
      | 0 => s
      | 1 => crxSkip k (s'.setPage s.cur { s'.curPage with crxBurst := burstOf t })
      | 2 => crxSkip k (s'.strandedConfig s.cur t)
      | _ => crxSkip k (s'.failPage s.cur 0x03 60)

/-- SPOP (R149): waits for a DATA token on crx; one of a POISON burst is consumed and traps with POISON. -/
def execSpop (d : Reg) (s : State) : Res :=
  let s := crxSkip s.curPage.crx.length s
  let pg := s.curPage
  match pg.crx with
  | [] => waitFor .crxToken 0 s
  | t :: rest =>
    let bad := !t.out && (pg.crxBurst.poison || t.lost)
    let pg' := { pg with crx := rest, lvalid := t.valid, lkind := t.kind, lrank := t.rank,
                         crxBurst := if t.out then pg.crxBurst else pg.crxBurst.pass }
    let s := s.setPage s.cur pg'
    if bad then trapHere causePoison 0 s
    else writeReg d (BitVec.ofNat 64 (laneOrZero t 0 + laneOrZero t 1 * 2 ^ 32)) false s

end Sys2Proof.Machine
end

