-- ==== Sys2Proof/Machine/ElemCfg.lean ====
section
/-! DEFINITION. Element and router configuration: fields (R75, R77), the checks of one word (R74 to R81) and
the joined conditions of an element (R180, R211, R450). -/

namespace Sys2Proof.Machine

/-! ### Fields -/

/-- Reset value of a field (R75, R77). -/
def fieldReset (k : Nat) : BitVec 12 :=
  match k with
  | 1 => 0x040
  | 2 => 0x007
  | 5 => 0x07F
  | 45 => 0x03F
  | _ => 0

/-- A field of an element or router. -/
def Elem.fld (x : Elem) (k : Nat) : Nat := (fgetD x.cfg k (fieldReset k)).toNat

/-- Writes a field. -/
def Elem.setFld (x : Elem) (k : Nat) (v : BitVec 12) : Elem :=
  { x with cfg := if v = fieldReset k then fdel x.cfg k else fput x.cfg k v }

/-- OPC. -/
def Elem.opc (x : Elem) : Nat := bits (x.fld 0) 4 8
/-- VAR. -/
def Elem.var (x : Elem) : Nat := x.fld 0 % 16
/-- Values per lane: 1, 2 or 4. -/
def Elem.pack (x : Elem) : Nat := 2 ^ (bits (x.fld 1) 6 2 - 1)
/-- OCLS. -/
def Elem.ocls (x : Elem) : Nat := bits (x.fld 1) 3 3
/-- ICLS. -/
def Elem.icls (x : Elem) : Nat := x.fld 1 % 8
/-- TFMT. -/
def Elem.tfmt (x : Elem) : BitVec 8 := BitVec.ofNat 8 (x.fld 2)
/-- MODE.BURST: BLEN of emitted bursts. -/
def Elem.burst (x : Elem) : Nat := bits (x.fld 3) 7 5
/-- SIDE. -/
def Elem.side (x : Elem) : Bool := (x.fld 3).testBit 6
/-- AMAX. -/
def Elem.amaxOn (x : Elem) : Bool := (x.fld 3).testBit 5
/-- The overflow rule in force: MODE's, or the one switched by a ctl token (R196). -/
def Elem.ovr (x : Elem) : Nat := bits (match x.modeSw with
  | some m => m.toNat
  | none => x.fld 3) 3 2
/-- The rounding mode in force. -/
def Elem.rm (x : Elem) : Nat := (match x.modeSw with
  | some m => m.toNat
  | none => x.fld 3) % 8
/-- OUTS. -/
def Elem.outs (x : Elem) : Nat := bits (x.fld 4) 7 2
/-- IO.EMIT, the emit rank q. -/
def Elem.emit (x : Elem) : Nat := bits (x.fld 4) 4 3
/-- INS. -/
def Elem.insMask (x : Elem) : Nat := x.fld 4 % 16
/-- TSCALE. -/
def Elem.tscale (x : Elem) : Nat := x.fld 5 % 256
/-- TA. -/
def Elem.ta (x : Elem) : Nat := x.fld 6 % 64
/-- TB. -/
def Elem.tb (x : Elem) : Nat := bits (x.fld 6) 6 6
/-- TC. -/
def Elem.tc (x : Elem) : Nat := x.fld 7 % 64
/-- TD. -/
def Elem.td (x : Elem) : Nat := bits (x.fld 7) 6 6
/-- Constant K0–K3. -/
def Elem.k (x : Elem) (m : Nat) : BitVec 32 :=
  BitVec.ofNat 32 (x.fld (8 + 3 * m) + x.fld (9 + 3 * m) * 2 ^ 12 + x.fld (10 + 3 * m) % 256 * 2 ^ 24)
/-- ALG. -/
def Elem.alg (x : Elem) : Nat := x.fld 20 % 16
/-- ATILE. -/
def Elem.atile (x : Elem) : Nat := x.fld 21 % 64
/-- Parameter P0–P5. -/
def Elem.p (x : Elem) (m : Nat) : Nat := x.fld (22 + m)
/-- KOUT (R75). -/
def Elem.kout (x : Elem) : Nat := x.fld 30 % 4

/-- SHIM of a router output field (R77). -/
def Elem.shim (x : Elem) (f : Nat) : Nat := bits (x.fld f) 4 5
/-- KERF mark of a router output field. -/
def Elem.kerfMark (x : Elem) (f : Nat) : Bool := (x.fld f).testBit 9

/-- Keys of the hops of a router: 32–40 the output fields, 48 and 49 STEER's control and data inputs, 50 to 52
MERGE's control, A and B, 53 to 55 CARRY's control, L and I, 56 MITRE's input (R253). -/
def hopKeys : List Nat := [32, 33, 34, 35, 36, 37, 38, 39, 40, 48, 49, 50, 51, 52, 53, 54, 55, 56]

/-- The source code that drives a hop of a router (R77, R78). -/
def Elem.src (x : Elem) (h : Nat) : Nat :=
  match h with
  | 48 => bits (x.fld 41) 4 4
  | 49 => x.fld 41 % 16
  | 50 => bits (x.fld 42) 8 4
  | 51 => x.fld 42 % 16
  | 52 => bits (x.fld 42) 4 4
  | 53 => bits (x.fld 43) 8 4
  | 54 => bits (x.fld 43) 4 4
  | 55 => x.fld 43 % 16
  | 56 => if bits (x.fld 44) 4 2 = 0 then 0 else x.fld 44 % 16
  | f => x.fld f % 16

/-- A kerf hop: marked in its field, or driven by an output that KOUT marks (R75, R77, R92). -/
def Elem.kerfHop (x : Elem) (h : Nat) : Bool :=
  (decide (32 ≤ h) && decide (h ≤ 40) && x.kerfMark h)
    || (decide (x.src h = 6) && x.kout.testBit 0) || (decide (x.src h = 7) && x.kout.testBit 1)

/-- Slots of a hop, 1 + SHIM for a field's (R243, R253). -/
def Elem.hopSlots (x : Elem) (h : Nat) : Nat := if h < 48 then 1 + x.shim h else 1

/-! ### Places in the grid -/

/-- The router a page and site's side leads to: 1 N, 2 E, 3 S, 4 W (R9, R12). -/
def neighbour (p e d : Nat) : Option (Nat × Nat) :=
  let r := p / 36 * 8 + e / 8
  let c := p % 36 * 8 + e % 8
  let at_ (r c : Nat) : Nat × Nat := (r / 8 * 36 + c / 8, r % 8 * 8 + c % 8)
  match d with
  | 1 => if r = 0 then none else some (at_ (r - 1) c)
  | 2 => if c = 287 then none else some (at_ r (c + 1))
  | 3 => if r = 95 then none else some (at_ (r + 1) c)
  | 4 => if c = 0 then none else some (at_ r (c - 1))
  | _ => none

/-- Two pages hold pages of one truss. -/
def State.sameTruss (s : State) (p q : Nat) : Bool :=
  decide ((s.page p).status = .used) && decide ((s.page q).status = .used) && decide ((s.page p).truss = (s.page q).truss)

/-- The neighbour on a side that lies in the page's truss. -/
def State.inside (s : State) (p e d : Nat) : Option (Nat × Nat) :=
  match neighbour p e d with
  | some q => if s.sameTruss p q.1 then some q else none
  | none => none

/-- Inbound half of the edge port of a site: a port code 0–3, or 8 for ctx (R13). -/
def edgeIn (e : Nat) : Option Nat :=
  if e / 8 ≠ 7 then none else if e % 8 < 4 then some (e % 8) else if e % 8 = 4 then some 8 else none

/-- Outbound half of the edge port of a site: a port code 4–7, 9 for crx or 10 for cmd (R13). -/
def edgeOut (e : Nat) : Option Nat :=
  if e / 8 ≠ 7 then none
  else if e % 8 < 4 then some (4 + e % 8) else if e % 8 = 4 then some 9 else if e % 8 = 5 then some 10 else none

/-! ### Operations and what they use (R79, R180, R211) -/

/-- A row of the tables of R180 and R211. -/
structure OpRow where
  /-- Inputs: in0, in1, in2 as bits 0–2. -/
  ins : Nat
  /-- Largest VAR. -/
  vmax : Nat
  /-- VAR bits replace inputs by constants (R80). -/
  consts : Bool
  /-- 0 no TFMT; 1 TFMT, checked against the slot; 2 TFMT of a matrix operation. -/
  tfmt : Nat
  /-- MODE subfields used: [4] BURST, [3] SIDE, [2] AMAX, [1] OVR, [0] RM. -/
  mode : Nat
  /-- Uses EMIT. -/
  emit : Bool
  /-- Constants used beside those of VAR, as bits. -/
  ks : Nat
  /-- Parameters used, as bits. -/
  ps : Nat
  /-- Tile selectors used: TA, TB, TC, TD as bits 0–3. -/
  tiles : Nat
  /-- Uses ALG and ATILE. -/
  alg : Bool
  /-- Allowed OUTS, as bits by value. -/
  outs : Nat
  /-- Latency in fc (R210, R245). -/
  lat : Nat
  /-- Largest number of tokens one firing emits on an output, SCALE tokens included (R251). -/
  most : Nat
  deriving DecidableEq, Repr

/-- A lane operation with the fields of ADD (R180). -/
def addLike (ins vmax lat : Nat) : OpRow :=
  ⟨ins, vmax, true, 1, 0x13, false, 0, 0, 0, false, 0x2, lat, 2⟩

/-- A mover or logic operation (R180). -/
def moveLike (ins vmax ks ps lat : Nat) : OpRow := ⟨ins, vmax, true, 0, 0, false, ks, ps, 0, false, 0x2, lat, 2⟩

/-- A matrix operation (R211). -/
def matLike (ps tiles : Nat) (alg : Bool) (outs : Nat) : OpRow :=
  ⟨3, 0, false, 2, 0x13, true, 0, ps, tiles, alg, outs, 4, 33⟩

/-- Latency of a memory operation, which R245 leaves to memory: 32 firings in flight of a SCALE and a DATA token each
find their places in the result queue (R236, R251; log 101). -/
def memLat : Nat := 63

/-- The row of an opcode (R79, R180, R211); `none` for a reserved one. -/
def opRow (opc : Nat) : Option OpRow :=
  match opc with
  | 0x00 => some ⟨0, 0, false, 0, 0, false, 0, 0, 0, false, 0x1, 0, 0⟩
  | 0x01 => some (addLike 3 1 2)
  | 0x02 => some (addLike 3 1 2)
  | 0x03 => some (addLike 3 1 4)
  | 0x04 => some (addLike 7 3 4)
  | 0x05 => some { addLike 3 1 4 with emit := true }
  | 0x06 => some (addLike 1 0 2)
  | 0x07 => some (addLike 1 0 2)
  | 0x08 => some (addLike 3 1 2)
  | 0x09 => some (addLike 3 1 2)
  | 0x0A => some (addLike 3 1 2)
  | 0x0B => some (addLike 3 1 2)
  | 0x10 => some { addLike 3 1 2 with mode := 0x10 }
  | 0x11 => some { addLike 3 1 2 with mode := 0x10 }
  | 0x12 => some { addLike 3 1 2 with mode := 0x10 }
  | 0x13 => some { addLike 3 1 2 with mode := 0x10 }
  | 0x14 => some (addLike 7 3 2)
  | 0x18 => some (moveLike 3 1 0 0 1)
  | 0x19 => some (moveLike 3 1 0 0 1)
  | 0x1A => some (moveLike 3 1 0 0 1)
  | 0x1B => some (moveLike 1 0 0 0 1)
  | 0x1C => some (moveLike 3 1 0 0 1)
  | 0x1D => some (moveLike 3 1 0 0 1)
  | 0x1E => some (moveLike 3 1 0 0 1)
  | 0x20 => some { addLike 3 1 2 with mode := 0x11 }
  | 0x21 => some { addLike 7 3 4 with mode := 0x11, ps := 1 }
  | 0x22 => some (addLike 7 3 2)
  | 0x30 => some { moveLike 1 0 0 0 1 with outs := 0xA }
  | 0x31 => some (moveLike 1 0 0 1 1)
  | 0x32 => some (moveLike 1 0 3 0 1)
  | 0x33 => some { moveLike 1 0 0 3 1 with most := 4 }
  | 0x40 => some (addLike 1 0 10)
  | 0x41 => some (addLike 1 0 10)
  | 0x42 => some (addLike 1 0 10)
  | 0x43 => some (addLike 1 0 10)
  | 0x44 => some (addLike 1 0 10)
  | 0x45 => some (addLike 1 0 10)
  | 0x48 => some { addLike 1 0 3 with mode := 0x1F }
  | 0x49 => some { addLike 1 0 3 with mode := 0x1F, emit := true, most := 33 }
  | 0x4A => some { addLike 1 0 3 with mode := 0x1F, ks := 1, ps := 3 }
  | 0x4B => some { moveLike 1 0 0 0 1 with most := 3 }
  | 0x4C => some (moveLike 1 0 0 0 1)
  | 0x50 => some { addLike 1 0 5 with emit := true }
  | 0x51 => some { addLike 1 0 5 with emit := true }
  | 0x52 => some { addLike 1 0 5 with emit := true }
  | 0x53 => some { addLike 1 0 4 with emit := true }
  | 0x60 => some { matLike 0x17 0xB false 0x3 with most := 1 }
  | 0x61 => some (matLike 0x07 0x3 false 0x2)
  | 0x62 => some { matLike 0x17 0xF false 0x3 with most := 1 }
  | 0x68 => some { addLike 3 0 4 with alg := true, consts := false }
  | 0x69 => some (matLike 0x17 0xB true 0x3)
  | 0x6A => some { addLike 1 0 4 with alg := true, consts := false }
  | 0x6B => some { addLike 1 0 5 with alg := true, consts := false, ps := 1 }
  | 0x6C => some { addLike 1 0 12 with alg := true, consts := false }
  | 0x80 => some (moveLike 3 0 1 3 1)
  | 0x81 => some { moveLike 1 0 0 0 1 with most := 4 }
  | 0x88 => some { moveLike 1 0 7 3 2 with tfmt := 1, mode := 0x10 }
  | 0x89 => some (moveLike 1 0 0 3 1)
  | 0x8A => some (moveLike 1 0 0 1 1)
  | 0x90 => some (moveLike 3 0 0 0 1)
  | 0x91 => some { moveLike 1 0 0 0 1 with outs := 0x8 }
  | 0xA0 => some { moveLike 1 0 0 0xF 3 with tiles := 1 }
  | 0xA1 => some { moveLike 1 0 0 7 2 with tiles := 1, emit := true, outs := 0x3 }
  | 0xA2 => some { moveLike 1 0 0 0xF 2 with tiles := 3, emit := true, most := 16 }
  | 0xA3 => some { moveLike 1 0 0 5 1 with tiles := 1, outs := 0x3 }
  | 0xA8 => some { moveLike 1 0 1 1 memLat with outs := 0xA }
  | 0xA9 => some { moveLike 3 0 1 1 memLat with outs := 0x3 }
  | 0xAA => some { moveLike 3 8 1 1 memLat with consts := false, outs := 0xF }
  | 0xB0 => some (moveLike 1 0 3 3 1)
  | _ => none

/-- Places of an element's result queues, max(L + 1, E) (R251). -/
def Elem.places (x : Elem) : Nat :=
  match opRow x.opc with
  | some r => Nat.max (r.lat + 1) r.most
  | none => 0

/-! ### The check of one word (R74) -/

/-- A format code that configuration may name (R30, R31). -/
def wordFmtOk (v : Nat) : Bool := decide (v < 256) && fmtListed (BitVec.ofNat 8 v)

/-- A router output field's value is well formed at its site: no reserved bit or code, no side that leads out
of the truss, no unused half of an edge port (R13, R77, R78). -/
def State.routeOk (s : State) (p e f v : Nat) : Bool :=
  let c := v % 16
  decide (v < 2 ^ 10) && decide (c < 14)
    && (if decide (1 ≤ c) && decide (c ≤ 4) then (s.inside p e c).isSome else true)
    && (if c = 5 then (edgeIn e).isSome else true)
    && (if f = 36 ∧ c ≠ 0 then (edgeOut e).isSome else true)

/-- A source code of an operator (R78). -/
def State.srcOk (s : State) (p e c : Nat) : Bool :=
  decide (c < 14) && (if decide (1 ≤ c) && decide (c ≤ 4) then (s.inside p e c).isSome else true)
    && (if c = 5 then (edgeIn e).isSome else true)

/-- The value of a field write is valid on its own (R74, R75, R77). -/
def State.fieldOk (s : State) (p e f v : Nat) : Bool :=
  match f with
  | 0 => match opRow (v / 16) with
         | some r => decide (v % 16 ≤ r.vmax)
         | none => false
  | 1 => decide (v < 256) && decide (bits v 6 2 ≠ 0) && decide (bits v 3 3 ≤ 4) && decide (v % 8 ≤ 4)
  | 2 => wordFmtOk v
  | 3 => decide (v % 8 ≤ 5) && decide (bits v 3 2 ≤ 2)
  | 4 => decide (v < 2 ^ 9)
  | 5 => decide (v < 255)
  | 6 => true
  | 7 => true
  | 10 => decide (v < 256)
  | 13 => decide (v < 256)
  | 16 => decide (v < 256)
  | 19 => decide (v < 256)
  | 20 => decide (v ≤ 6) || decide (v = 15)
  | 21 => decide (v < 64)
  | 28 => false
  | 29 => false
  | 30 => decide (v < 4)
  | 31 => false
  | 41 => decide (v < 256) && s.srcOk p e (v % 16) && s.srcOk p e (bits v 4 4)
  | 42 => s.srcOk p e (v % 16) && s.srcOk p e (bits v 4 4) && s.srcOk p e (bits v 8 4)
      && (decide (v = 0) || decide (bits v 8 4 ≠ 0))
  | 43 => s.srcOk p e (v % 16) && s.srcOk p e (bits v 4 4) && s.srcOk p e (bits v 8 4)
  | 44 => decide (v < 64) && s.srcOk p e (v % 16)
  | 45 => false
  | 46 => decide (v < 256)
  | f => if f ≤ 27 then true else if 32 ≤ f ∧ f ≤ 40 then s.routeOk p e f v else false

/-! ### Joined conditions (R450) -/

/-- A format lies in a class (R76). -/
def inClass (c : Nat) (f : BitVec 8) : Bool :=
  let n := f.toNat
  match c with
  | 0 => fmtListed f
  | 1 => decide (n = 1) || decide (n = 3) || decide (n = 4)
  | 2 => decide (n = 2)
  | 3 => decide (5 ≤ n) && decide (n ≤ 7)
  | _ => decide (0x10 ≤ n) && fmtListed f

/-- Components n of the element's algebra (R60); `none` for a loaded one. -/
def presetComps (code : Nat) : Option Nat :=
  match code with
  | 0 => some 1
  | 1 => some 2
  | 2 => some 2
  | 3 => some 2
  | 4 => some 4
  | 5 => some 8
  | 6 => some 8
  | _ => none

/-- A tile ring T … T + m − 1 stays below tile 47 (R213). -/
def ringOk (t m : Nat) : Bool := decide (t + m ≤ 47)

/-- Inputs that the operation needs in INS, after constants and tiles (R80, R180, R211). -/
def Elem.wantIns (x : Elem) (r : OpRow) : Nat :=
  let base := r.ins
  if r.consts ∧ r.vmax ≠ 0 then
    base - (if x.var.testBit 0 then 2 else 0) - (if x.var.testBit 1 then 4 else 0)
  else if x.opc = 0x60 ∨ x.opc = 0x61 ∨ x.opc = 0x62 ∨ x.opc = 0x69 then
    (if (x.p 0).testBit 0 then 0 else 1) + (if (x.p 0).testBit 1 then 0 else 2)
  else if x.opc = 0x80 then (if x.p 0 = 0 then 3 else 1)
  else base

/-- The limits that an operation's own rule sets on its parameters. -/
def Elem.paramsOk (x : Elem) : Bool :=
  let n := 16 * x.pack
  let hi (m k : Nat) : Bool := decide (x.p m < 2 ^ k)
  let mat := !((x.p 0).testBit 0 && (x.p 0).testBit 1) && hi 0 4 && hi 2 6
    && ringOk x.ta (x.p 2 % 8 + 1) && ringOk x.tb (bits (x.p 2) 3 3 + 1) && decide (2 ≤ x.pack)
  let dst := hi 4 3 && ringOk x.td (x.p 4 % 8 + 1)
  let algOk := decide (x.atile ≤ 46) && (match presetComps x.alg with
    | some m => decide (m ≤ n)
    | none => true)
  let memOk := decide (x.k 0 < 0x01000000#32) && hi 0 3 && (decide (bits (x.p 0) 1 2 = 1) || decide (bits (x.p 0) 1 2 = 2))
  match x.opc with
  | 0x20 => decide (x.icls = 1 ∨ x.icls = 2) && fmtInt x.tfmt
  | 0x21 => decide (x.icls = 1) && fmtInt x.tfmt
  | 0x05 => decide (x.icls ≠ 0)
  | 0x31 => decide (x.p 0 < n)
  | 0x33 => decide (x.p 0 ≤ n) && hi 1 1
  | 0x49 => decide (x.ocls = 4)
  | 0x4A => decide (x.ocls = 3) && hi 1 1
  | 0x4B => decide (2 ≤ x.pack)
  | 0x4C => decide (2 ≤ x.pack)
  | 0x50 => decide (x.icls ≠ 0)
  | 0x53 => decide (x.icls ≠ 0)
  | 0x60 => mat && dst
  | 0x61 => mat
  | 0x62 => mat && dst && decide (x.tc ≤ 46)
  | 0x68 => algOk
  | 0x69 => mat && dst && algOk
  | 0x6A => algOk
  | 0x6B => algOk && hi 0 1
  | 0x6C => algOk
  | 0x80 => hi 0 1 && hi 1 1 && (decide (x.p 0 = 0) || decide ((x.k 0).toNat < 2 ^ 16))
  | 0x88 => decide (x.tfmt = 4#8) && hi 1 1 && hi 0 4
  | 0x89 => decide (x.p 0 ≠ 0) && decide (x.p 1 ≠ 0) && hi 1 3
  | 0x8A => decide (x.p 0 ≠ 0) && hi 0 3
  | 0xA0 => hi 0 6 && hi 1 6 && decide (x.p 0 + x.p 1 + 1 ≤ 64) && hi 2 3 && hi 3 1 && ringOk x.ta (x.p 2 % 8 + 1)
  | 0xA1 => hi 0 6 && hi 1 6 && decide (x.p 0 + x.p 1 + 1 ≤ 64) && hi 2 3 && ringOk x.ta (x.p 2 % 8 + 1)
  | 0xA2 => decide (x.p 0 ≠ 0) && decide (x.p 1 ≠ 0) && hi 1 3 && decide (x.p 2 < x.p 0) && hi 3 1
      && decide (x.ta ≤ x.tb) && decide (x.tb ≤ 46) && decide (x.p 1 * x.p 0 ≤ 64 * (x.tb - x.ta + 1))
  | 0xA3 => hi 0 1 && hi 2 3 && ringOk x.ta (x.p 2 % 8 + 1)
  | 0xA8 => memOk
  | 0xA9 => memOk
  | 0xAA => memOk && decide (x.p 0 % 2 = 0)
  | 0xB0 => hi 0 1 && (decide (x.p 0 = 0) ||
      (decide (x.p 1 % 16 ≤ 3) && decide (bits (x.p 1) 4 4 ≤ 4)
        && (decide (x.p 1 % 16 = 0) || decide (bits (x.p 1) 4 4 = 0)) && decide (bits (x.p 1) 9 3 = 0)
        && decide ((x.k 0).toNat % 64 = 0) && decide ((x.k 1).toNat < 2 ^ 16)))
  | _ => true

/-- Fields that the operation does not use are zero (R180, R211), and used tile selectors lie below 47. -/
def Elem.unusedOk (x : Elem) (r : OpRow) : Bool :=
  let ks := r.ks + (if r.consts ∧ r.vmax ≠ 0 then (if x.var.testBit 0 then 1 else 0) + (if x.var.testBit 1 then 2 else 0) else 0)
  let mode := bits (x.fld 3) 7 5
  ((List.range 4).all fun m => ks.testBit m || decide (x.k m = 0))
    && ((List.range 6).all fun m => r.ps.testBit m || decide (x.p m = 0))
    && (r.mode.testBit 4 || decide (mode = 0)) && (r.mode.testBit 3 || !x.side) && (r.mode.testBit 2 || !x.amaxOn)
    && (r.mode.testBit 1 || decide (bits (x.fld 3) 3 2 = 0)) && (r.mode.testBit 0 || decide (x.fld 3 % 8 = 0))
    && (r.emit || decide (x.emit = 0))
    && (if r.tiles.testBit 0 then decide (x.ta ≤ 46) else decide (x.ta = 0))
    && (if r.tiles.testBit 1 then decide (x.tb ≤ 46) else decide (x.tb = 0))
    && (if r.tiles.testBit 2 then decide (x.tc ≤ 46) else decide (x.tc = 0))
    && (if r.tiles.testBit 3 then decide (x.td ≤ 46) else decide (x.td = 0))
    && (r.alg || (decide (x.alg = 0) && decide (x.fld 21 = 0)))

/-- The joined conditions of an element's operation (R75, R76, R80, R180, R211); an inert element uses no field. -/
def Elem.opOk (x : Elem) : Bool :=
  match opRow x.opc with
  | none => false
  | some r =>
    let want := x.wantIns r + (if x.side then 8 else 0)
    decide (x.insMask = want) && r.outs.testBit x.outs
      && (if r.tfmt = 0 then decide (x.ocls = 0)
          else decide (x.tfmt ≠ 0#8) && decide (x.tfmt ≠ 0x0E#8) && inClass x.ocls x.tfmt)
      && (decide (r.tfmt ≠ 1) || decide (x.opc = 0x88) || decide (fmtBits x.tfmt * x.pack ≤ 32))
      && x.unusedOk r && x.paramsOk

/-- An operator that a source code names is configured, and LINK names an inbound endpoint (R78). -/
def Elem.srcReady (x : Elem) (c : Nat) : Bool :=
  match c with
  | 8 => decide (x.fld 41 ≠ 0)
  | 9 => decide (x.fld 41 ≠ 0)
  | 10 => decide (x.fld 42 ≠ 0)
  | 11 => decide (x.fld 43 ≠ 0)
  | 12 => decide (bits (x.fld 44) 4 2 ≠ 0)
  | 13 => (x.fld 46).testBit 7 && !(x.fld 46).testBit 6
  | _ => true

/-- The joined conditions of a router: sources name configured operators, and a route leaves the truss only at
an outbound link endpoint (R78). -/
def State.routerOk (s : State) (p e : Nat) : Bool :=
  let x := s.elem p e
  (hopKeys.all fun h => x.srcReady (x.src h)) &&
    ([1, 2, 3, 4].all fun d => decide (x.src (31 + d) = 0) || (s.inside p e d).isSome
      || ((x.fld 46).testBit 7 && (x.fld 46).testBit 6))

/-- Routers a token of a hop goes on to, within the truss: pairs of place and hop key that name it as a source. -/
def State.onward (s : State) (p e h : Nat) : List (Nat × Nat × Nat) :=
  if 32 ≤ h ∧ h ≤ 35 then
    match s.inside p e (h - 31) with
    | none => []
    | some (q, f) =>
      let back := match h with
        | 32 => 3
        | 33 => 4
        | 34 => 1
        | _ => 2
      (hopKeys.filter fun k => decide ((s.elem q f).src k = back)).map fun k => (q, f, k)
  else []

/-- Every end of the channels that start at a set of hops, at most `n` hops long (R238). -/
def State.ends (s : State) : Nat → List (Nat × Nat × Nat) → List (Nat × Nat × Nat)
  | 0, l => l
  | n + 1, l =>
    let step (z : Nat × Nat × Nat) : List (Nat × Nat × Nat) :=
      if 32 ≤ z.2.2 ∧ z.2.2 ≤ 35 then s.onward z.1 z.2.1 z.2.2 else [z]
    let l' := (l.flatMap step).eraseDups
    if l' = l then l else s.ends n l'

/-- The channel of a CMD element ends at its page's cmd port (R238). -/
def State.cmdRouteOk (s : State) (p e : Nat) : Bool :=
  let x := s.elem p e
  let start := (hopKeys.filter fun k => decide (x.src k = 6)).map fun k => (p, e, k)
  let l := s.ends 1024 start
  !l.isEmpty && l.all fun z => z == (p, 61, 36)

/-- The joined conditions of an element and its router (R450). -/
def State.elemOk (s : State) (p e : Nat) : Bool :=
  let x := s.elem p e
  x.opOk && s.routerOk p e && (decide (x.opc ≠ 0xB0) || s.cmdRouteOk p e)

end Sys2Proof.Machine
end

