-- ==== Sys2Proof/Machine/Ports.lean ====
section
/-! DEFINITION. Stream ports: delivery, acceptance, the finish of a stream, SSTOP and hot panels (R144 to R148,
R257, R265, R285, R286, R302, R305, R330, R369, R405). -/

namespace Sys2Proof.Machine

/-- Partition, view, depth and handle facts of a page's truss. -/
def State.ctx (s : State) (p : Nat) : Option (Truss × Nat) :=
  (s.trussOf p).map fun t => (t, t.part)

/-- The stream's tensor as it was named at issue (R299). -/
def State.streamGeo (s : State) (part : Nat) (x : Stream) : Geo := s.geo part x.slot

/-- Blocks of a walk point, as tensor block numbers in slot order without repeats. -/
def pointBlocks (d : List Byte) (g : Geo) (n : Nat) : List Nat :=
  let c := dCoord d n
  let f := streamFmt d g
  ((List.range (slotsOf f)).filterMap fun j => slotOff g c j).foldl (fun l o =>
    if l.contains (o / 64) then l else l ++ [o / 64]) []

/-! ### Hot panels (R305) -/

/-- Saturating add of one. -/
def satInc (x : BitVec 32) : BitVec 32 := if x = BitVec.allOnes 32 then x else x + 1

/-- Counts a token of a panel. -/
def Port.hotToken (p : Port) (slot panel : Nat) : Port :=
  if p.hot.any fun e => e.1 == slot && e.2.1 == panel then
    { p with hot := p.hot.map fun e =>
              if e.1 == slot && e.2.1 == panel then (e.1, e.2.1, satInc e.2.2.1, e.2.2.2) else e }
  else
    let n := p.untracked + 1
    if n < 16 then { p with untracked := n }
    else
      let rest := if p.hot.length < 64 then p.hot else
        match p.hot with
        | [] => []
        | e :: t =>
          let least := t.foldl (fun a b => if b.2.2.1.toNat < a.2.2.1.toNat then b else a) e
          p.hot.erase least
      { p with untracked := 0, hot := rest ++ [(slot, panel, 1, 0)] }

/-- Counts a token of each panel that its blocks lie in. -/
def Port.hotBlocks (p : Port) (slot : Nat) (bs : List Nat) : Port :=
  (bs.foldl (fun l b => if l.contains (b / 1024) then l else l ++ [b / 1024]) []).foldl (fun p x => p.hotToken slot x) p

/-! ### Translation for a port -/

/-- What a port's translation of a tensor block answers. -/
inductive PortX where
  /-- The place and the leaf. -/
  | ok (p : Phys) (leaf : Nat)
  /-- The port stalls. -/
  | stall (st : Stall)
  /-- A failed page request: FAIL, a translation error, or a panel on another module (R146, R301, R302). -/
  | failed
  deriving DecidableEq, Repr

/-- A page request of a port fails without having been sent: the launch reports FAILED(PAGEREQ) (R301, R302, R405). -/
def State.failPortReq (s : State) (p k : Nat) : State :=
  match s.trussOf p with
  | none => s
  | some t => s.failItem (s.page p).truss 0x08 (detailOf ((s.page p).ix * 64 + 56 + k % 4) (s.page p).ix t.ix)

/-- Translates a tensor block for a port. An access whose page request has been answered with failure fails whole (R405). -/
def portXlate (p k : Nat) (x : Stream) (blk : Nat) (wr : Bool) (s : State) : PortX × State :=
  match s.trussOf p with
  | none => (.failed, s)
  | some t =>
    if ((s.page p).port k).failNext then (.failed, s)
    else
      let a := portAgent p k
      let r := s.xlateOff (bayOf p) t.part t.view x.slot (blk * 64)
      let s' := r.2
      let owner (g : Nat) : PortX × State :=
        let q := s'.raiseIso (s'.vfOfPage p) a g wr
        (.stall q.1, q.2)
      match r.1 with
      | .leaf e =>
        match s'.placeOf t.part e (blk * 64) with
        | .ok (.remote _ _) => (.failed, s'.failPortReq p k)
        | .ok q => (.ok q e, s')
        | .error g => owner g
      | .fault =>
        let q := s'.raiseFault t.part (s'.vfOfPage p) a x.slot x.gen (blk / 1024) wr
        (.stall q.1, q.2)
      | .bad e =>
        match s'.raiseXlateErr (s'.vfOfPage p) x.slot x.gen (blk / 1024) e with
        | (some st, s') => (.stall st, s')
        | (none, s') => (.failed, s'.failPortReq p k)
      | .owner g => owner g

/-- Changes a port of a page. -/
def State.modPort (s : State) (p k : Nat) (f : Port → Port) : State :=
  s.setPage p ((s.page p).setPort k (f ((s.page p).port k)))

/-- Changes the active stream of a port. -/
def State.modStream (s : State) (p k : Nat) (f : Stream → Stream) : State :=
  s.modPort p k fun x => { x with act := x.act.map f }

/-- A port stalls (R401). -/
def State.stallPort (s : State) (p k : Nat) (st : Stall) : State :=
  let a := portAgent p k
  s.setReq a { s.req a with stall := some st }

/-! ### Load ports -/

/-- Issues the reads of one walk point, all its blocks together; `none` where the port has stalled. -/
def issuePoint (p k : Nat) (x : Stream) (bs : List Nat) (s : State) : Option (List Nat × State) × State :=
  bs.foldl (fun r b =>
    match r.1 with
    | none => r
    | some (tags, s) =>
      let q := portXlate p k x b false s
      match q.1 with
      | .ok ph _ =>
        let part := ((s.trussOf p).map Truss.part).getD 0x3F
        let z := q.2.readReq (portAgent p k) part ph x.slot x.gen (b * 64) fullMask .cached
        (some (tags ++ [z.1], z.2), z.2)
      | .failed =>
        let a := portAgent p k
        let z := q.2.openEntry a (Packet.blank .read 0 a a 1) (some ([], [], 2))
        let s' := z.2.setReq a ((z.2.req a).modEntry z.1 fun e => { e with failed := true })
        (some (tags ++ [z.1], s'), s')
      | .stall st =>
        -- Reads already sent for this point are forgotten and asked again with it.
        let a := portAgent p k
        let s' := q.2.setReq a (tags.foldl Requester.dropEntry (q.2.req a))
        (none, s'.stallPort p k st)) (some ([], s), s)

/-- Reads ahead while the reorder window has room (R330). -/
def issueAhead (p k : Nat) : Nat → State → State
  | 0, s => s
  | n + 1, s =>
    let y := (s.page p).port k
    match y.act, s.trussOf p with
    | some x, some t =>
      let g := s.streamGeo t.part x
      let bs := pointBlocks x.bytes g x.issued
      if (s.portStall p k).isSome ∨ dPoints x.bytes ≤ x.issued ∨ 64 < (s.req (portAgent p k)).win.length + bs.length then s
      else
        match issuePoint p k x bs s with
        | (some (tags, _), s') =>
          issueAhead p k n ((s'.modPort p k fun y => { y with failNext := false }).modStream p k fun z =>
            { z with issued := z.issued + 1, tags := z.tags ++ tags })
        | (none, s') => s'
    | _, _ => s

/-- The data of a point's token: slots inside the tensor from their blocks, pad slots from PADV (R144). -/
def pointData (d : List Byte) (g : Geo) (n : Nat) (bs : List (Nat × BlockW)) : Data × BitVec 16 :=
  let c := dCoord d n
  let f := streamFmt d g
  let w := fmtBytes f
  let slots := List.range (slotsOf f)
  let val (j : Nat) : Nat :=
    match slotOff g c j with
    | some o => ((bs.find? fun b => b.1 == o / 64).map fun b => dataBytes b.2.data (o % 64) w).getD 0
    | none => if dPad d then dPadv d % 2 ^ (8 * w) else 0
  let data := slots.foldl (fun (a : Nat) j => a + val j * 2 ^ (8 * w * j)) 0
  let bad := slots.filter fun j => (slotOff g c j).isNone && !dPad d
  let valid := bad.foldl (fun (v : BitVec 16) j => setBitTo v (j * w / 4) false) (BitVec.allOnes 16)
  (BitVec.ofNat 512 data, valid)

/-- The descriptor a token is announced under, and whether FMTERR is set (R31, R146). -/
def announceOf (d : List Byte) (g : Geo) (cur : Option Burst) (failed : Bool) (bs : List BlockW) : Desc × Nat × Bool :=
  let bl := dBlen d % 64
  if failed then (descPoison, bl, false)
  else
    match bs with
    | [] =>
      match cur with
      | some b => (mkDesc b.scale b.fmt, b.blen, false)
      | none => (mkDesc 0x7F#8 (streamFmt d g), bl, false)
    | w :: t =>
      let same := t.all fun x => decide (storedDesc x.desc = storedDesc w.desc)
      if !same then (descPoison, 0, false)
      else
        let f := fmtOf w.desc
        if !fmtListed f then (descPoison, bl, false)
        else if dFmt d != 0xFF#8 && f != dFmt d && f != 0#8 && f != 0x0E#8 then (descPoison, bl, true)
        else (w.desc, bl, false)

/-- Sets a sticky bit of SSTAT: 0 FAILED, 1 STOPPED, 2 POIS, 3 FMTERR. -/
def Port.stick (p : Port) (k : Nat) : Port := { p with sticky := setBitTo p.sticky k true }

/-- The token of the head point of a load stream, when all its reads have returned: the SCALE token due before
it, if one is, else the DATA token with the port and requester after it (R146). -/
def headToken (p k : Nat) (s : State) : Option (Token × State) :=
  let y := (s.page p).port k
  match y.act, s.trussOf p with
  | some x, some t =>
    let g := s.streamGeo t.part x
    let a := portAgent p k
    let r := s.req a
    let bs := pointBlocks x.bytes g x.pos
    let tags := x.tags.take bs.length
    let es := tags.filterMap r.entry
    if x.issued ≤ x.pos ∨ es.any (fun e => e.got.isNone) then none
    else
      let failed := es.any fun e => e.failed
      let ws := es.filterMap fun e => (e.got.map fun q => q.1.head?).join
      let an := announceOf x.bytes g y.burst failed ws
      let due := match y.burst with
        | none => true
        | some b => !(mkDesc b.scale b.fmt == an.1) || decide (b.blen ≠ an.2.1)
      if due then
        let tok := scaleToken (fmtOf an.1) (scaleOf an.1) an.2.1
        some (tok, s.modPort p k fun z => { z with burst := some ⟨fmtOf an.1, scaleOf an.1, an.2.1, an.2.1 + 1, false⟩ })
      else
        let dv := pointData x.bytes g x.pos (bs.zip ws)
        let dv := if failed then (0, dv.2) else dv
        let tok := dataToken dv.1 dv.2 (dEndRank x.bytes x.pos)
        let s := s.setReq a (tags.foldl Requester.dropEntry r)
        some (tok, s.modPort p k fun z =>
          let z := if failed then z.stick 0 else z
          let z := if an.2.2 then z.stick 3 else z
          let z := if descPoisoned an.1 then z.stick 2 else z
          let z := z.hotBlocks x.slot bs
          { z with count := z.count + 1, burst := z.burst.map Burst.pass,
                   act := z.act.map fun q => { q with pos := q.pos + 1, tags := q.tags.drop bs.length } })
  | _, _ => none

/-- The truss of a page is being moved (R385). -/
def State.inMove (s : State) (p : Nat) : Bool :=
  match s.move with
  | some m => decide ((s.page p).status = .used) && decide ((s.page p).truss = m.truss)
  | none => false

/-- The fabric of a page's truss runs: it is placed and not being copied (R385, R418). -/
def State.fabricRuns (s : State) (p : Nat) : Bool :=
  (s.trussOf p).isSome && !(s.inMove p && decide (((s.move.map Move.state).getD 0) = 1))

/-- The fabric-stall count of a page's truss starts again (R271). -/
def State.fabricMoved (s : State) (p : Nat) : State :=
  let t := (s.page p).truss
  { s with trusses := fmod s.trusses t fun x => { x with stallFc := 0, armed := true } }

/-- LOAD_PORT_DELIVER: reads ahead, then delivers one token to the edge-port queue when it has room and the
head point's data is in (R146, R265, R330). -/
def execLoadPortDeliver (p k : Nat) (s : State) : Res :=
  if !s.fabricRuns p ∨ 4 ≤ k then .next s
  else
    let s := if s.inMove p then s else issueAhead p k 64 s
    let y := (s.page p).port k
    if 4 ≤ y.queue.length then .next s
    else
      match y.rest with
      | t :: rest => .next ((s.modPort p k fun z => { z with rest := rest, queue := z.queue ++ [t] }).fabricMoved p)
      | [] =>
        match headToken p k s with
        | none => .next s
        | some (t, s') => .next ((s'.modPort p k fun z => { z with queue := z.queue ++ [t] }).fabricMoved p)

/-! ### Store ports -/

/-- A completion token (R147, R156): code, status and count, outside every burst. -/
def completionToken (code status count : Nat) : Token :=
  let d := BitVec.ofNat 512 (code % 256 + status % 128 * 256 + count % 2 ^ 32 * 2 ^ 32)
  { dataToken d 3 0 with out := true }

/-- Ends the active stream and drops the pending one, as SSTOP does, with STOPPED set; the stopped one counts as
finished, and owes its completion token where CTRL.CRX is set (R147, R148). -/
def State.stopPort (s : State) (p k : Nat) (tail : List Token) : State :=
  let y := (s.page p).port k
  let part := ((s.trussOf p).map Truss.part).getD 0x3F
  let s := match y.act with
    | some x => s.unrefSlot part x.slot
    | none => s
  let s := match y.pend with
    | some x => s.unrefSlot part x.slot
    | none => s
  let s := if y.act.isSome then s.modPort p k fun z => z.stick 1 else s
  let s := s.modPort p k fun z => { z with act := none, pend := none, discard := decide (4 ≤ k), rest := z.rest ++ tail,
                                           failNext := false }
  let s := s.setReq (portAgent p k) { (s.req (portAgent p k)).keepEntries (fun _ => false) with stall := none }
  let st := bits (s.sstat p k).toNat 0 7
  let s := match y.act with
    | some x =>
      if dCrx x.bytes then s.modPort p k fun z => { z with owed := z.owed ++ [(dScope x.bytes, completionToken k st z.count.toNat)] }
      else s
    | none => s
  -- The end of a stream is an event of the core (R179).
  if y.act.isSome ∨ y.pend.isSome then s.modCore p fun c => { c with event := true } else s

/-- Sends the blocks a store port has gathered (R369). -/
def flushBuf (p k : Nat) (s : State) : State :=
  let y := (s.page p).port k
  match y.act, s.trussOf p with
  | some x, some t =>
    if y.buf.isEmpty then s
    else
      let a := portAgent p k
      (s.submitWrite a (writePacket a t.part x.slot x.gen y.bufOff y.buf)).modPort p k fun z => { z with buf := [] }
  | _, _ => s

/-- Byte address of a place, for adjacency of blocks. -/
def Phys.addr : Phys → Nat
  | .hbm a => a
  | .host a => a
  | .remote _ a => a

/-- Does a block extend the run that a port has gathered: the next block of one 256-byte stripe (R369)? -/
def extendsRun (buf : List BlockW) (w : BlockW) : Bool :=
  match buf.getLast? with
  | none => true
  | some l => decide (l.phys.plus 64 = w.phys) && decide (l.phys.addr / 256 = w.phys.addr / 256)
      && decide (buf.length < 4)

/-- Adds a block to the run, sending the run before it when it does not extend it; the hazard
detector sees it (R272). -/
def addBlock (p k off : Nat) (w : BlockW) (s : State) : State :=
  let y := (s.page p).port k
  let s := if extendsRun y.buf w then s else flushBuf p k s
  let s := match y.act with
    | some x => s.noteAccess (portAgent p k) x.slot x.gen off w.phys true
    | none => s
  s.modPort p k fun z => { z with buf := z.buf ++ [w], bufOff := if z.buf.isEmpty then off else z.bufOff }

/-- The lanes of a walk point that a store writes: with PAD clear, one with a slot outside the tensor is invalid
(R144, R284). -/
def storeLanes (d : List Byte) (g : Geo) (c : List Int) (w slots : Nat) : BitVec 16 :=
  if dPad d then BitVec.allOnes 16
  else (List.range slots).foldl (fun (m : BitVec 16) j =>
    if (slotOff g c j).isNone then setBitTo m (j * w / 4) false else m) (BitVec.allOnes 16)

/-- The bytes that a DATA token writes in one tensor block: data and mask (R144, R285). -/
def tokenBlock (g : Geo) (c : List Int) (w slots blk : Nat) (t : Token) : Data × BitVec 64 :=
  (List.range slots).foldl (fun r j =>
    match slotOff g c j with
    | some o =>
      -- The bytes of the slot that lie in this block; an invalid lane's are not written.
      if t.valid.getLsbD (j * w / 4) then
        (List.range w).foldl (fun r b =>
          if (o + b) / 64 = blk then
            (setBytes r.1 ((o + b) % 64) 1 (dataBytes t.data (j * w + b) 1), r.2 ||| byteMask ((o + b) % 64) 1)
          else r) r
      else r
    | none => r) (0, 0)

/-- Blocks that a DATA token touches. -/
def tokenBlocks (g : Geo) (c : List Int) (w slots : Nat) : List Nat :=
  (List.range slots).foldl (fun l j =>
    match slotOff g c j with
    | some o => [o / 64, (o + w - 1) / 64].foldl (fun l b => if l.contains b then l else l ++ [b]) l
    | none => l) []

/-- Translates the blocks of a token, with the flag refusals of R302 and the copy of R438. -/
inductive StoreX where
  /-- Every block has its place, or `none` for a failed one. -/
  | ok (ps : List (Nat × Option Phys))
  /-- The port stalls. -/
  | stall (st : Stall)
  /-- A flag refuses the write: failure code. -/
  | refused (code : Nat)
  deriving DecidableEq, Repr

/-- Translates a token's blocks in order. -/
def storeXlate (p k : Nat) (x : Stream) (t : Truss) (g : Geo) : List Nat → State → StoreX × State
  | [], s => (.ok [], s)
  | b :: bs, s =>
    let q := portXlate p k x b true s
    match q.1 with
    | .stall st => (.stall st, q.2)
    | .failed =>
      match storeXlate p k x t g bs q.2 with
      | (.ok ps, s') => (.ok ((b, none) :: ps), s')
      | r => r
    | .ok ph e =>
      let fl := g.flags e
      if g.slot = 0 ∧ fl.1 = true then (.refused 0x04, q.2)
      else if g.slot = 0 ∧ 0 < t.depth ∧ fl.2.2 = true then (.refused 0x05, q.2)
      else if !q.2.ownPanel t.part t.view x.slot (b / 1024) fl.2.1 then
        let z := q.2.startCopy t.part t.view x.slot (b / 1024) (q.2.vfOfPage p) t.launch (portAgent p k)
        (.stall z.1, z.2)
      else
        match storeXlate p k x t g bs q.2 with
        | (.ok ps, s') => (.ok ((b, some ph) :: ps), s')
        | r => r

/-- A store port accepts a DATA token of its active stream: one walk point (R144, R146, R285, R286). A burst of a format without
a width takes the slot width of the tensor's FMT or default, and one written as POISON for its format or width sets POIS beside
FMTERR (DESIGN CHOICE, log 117). -/
def acceptData (p k : Nat) (x : Stream) (t : Truss) (tok : Token) (rest : List Token) (s : State) : State :=
  let y := (s.page p).port k
  let b := y.burst.getD Burst.reset
  let g := s.streamGeo t.part x
  let pois := !tok.out && (b.poison || tok.lost)
  let void := decide (b.fmt = 0#8)
  let err := !pois && !void && dFmt x.bytes != 0xFF#8 && b.fmt != dFmt x.bytes
  let wide := !pois && !void && decide (g.width < fmtBytes b.fmt)
  let bad := pois || err || wide
  let w := if pois || void then fmtBytes (streamFmt x.bytes g) else fmtBytes b.fmt
  let desc := if bad then descPoison else mkDesc b.scale b.fmt
  let c := dCoord x.bytes x.pos
  let slots := 64 / w
  let tok := { tok with valid := tok.valid &&& storeLanes x.bytes g c w slots }
  -- The blocks that receive a byte (R302).
  let bs := (tokenBlocks g c w slots).filter fun b => decide ((tokenBlock g c w slots b tok).2 ≠ 0)
  let r := s.req (portAgent p k)
  if r.stall.isSome || decide (32 < r.kept.length + r.unsent.length + bs.length + 1) then s
  else
    match storeXlate p k x t g bs s with
    | (.stall st, s') => s'.stallPort p k st
    | (.refused code, s') =>
      -- The write is not made: the token is dropped, the stream stops with what it has accepted sent, and the truss
      -- fails (R302).
      let s' := flushBuf p k (s'.modPort p k fun z => { z with queue := rest })
      (s'.stopPort p k []).failPage p code (56 + k % 4)
    | (.ok ps, s') =>
      let failed := ps.any fun q => q.2.isNone
      let s' := if failed then s' else
        ps.foldl (fun s q =>
          match q.2 with
          | some ph =>
            let dm := tokenBlock g c w slots q.1 tok
            addBlock p k (q.1 * 64) ⟨ph, dm.1, desc, dm.2, 1⟩ s
          | none => s) s'
      s'.modPort p k fun z =>
        let z := if failed then z.stick 0 else z
        let z := if err || wide then z.stick 3 else z
        let z := if bad then z.stick 2 else z
        let z := z.hotBlocks x.slot bs
        { z with queue := rest, count := z.count + 1, failNext := false, burst := some (if tok.out then b else b.pass),
                 act := z.act.map fun q => { q with pos := q.pos + 1 } }

/-- STORE_PORT_ACCEPT: the token at the head of the port's queue (R82, R257, R265, R266). -/
def execStorePortAccept (p k : Nat) (s : State) : Res :=
  if !s.fabricRuns p ∨ k < 4 then .next s
  else
    let y := (s.page p).port k
    match y.queue with
    | [] => .next s
    | tok :: rest =>
      let drop (s : State) : State := s.modPort p k fun z => { z with queue := rest }
      match tok.kind.toNat with
      | 1 =>
        -- With no stream the head token waits, except after SSTOP (R265).
        if y.act.isNone && !y.discard then .next s
        else .next ((s.modPort p k fun z => { z with queue := rest, burst := some (burstOf tok) }).fabricMoved p)
      | 2 => .next ((drop s).strandedConfig p tok)
      | 3 => .next ((drop s).failPage p 0x03 (56 + k % 4))
      | _ =>
        if y.discard ∨ tok.valid = 0 ∧ y.act.isSome = true then
          .next ((s.modPort p k fun z =>
            { z with queue := rest, burst := some ((z.burst.getD Burst.reset).pass) }).fabricMoved p)
        else
          match y.act, s.trussOf p with
          | some x, some t =>
            if dPoints x.bytes ≤ x.pos then .next s
            else
              let z := acceptData p k x t tok rest s
              .next (if ((z.page p).port k).queue.length < y.queue.length then z.fabricMoved p else z)
          | _, _ => .next s

/-! ### The finish of a stream -/

/-- Has the active stream of a port finished (R147)? -/
def State.streamDone (s : State) (p k : Nat) : Bool :=
  let y := (s.page p).port k
  match y.act with
  | none => false
  | some x =>
    decide (dPoints x.bytes ≤ x.pos) && (s.portStall p k).isNone &&
      (if k < 4 then y.queue.isEmpty && y.rest.isEmpty
       else y.buf.isEmpty && s.completeAtScope (portAgent p k) (dScope x.bytes))

/-- The token that a port owes for a stopped stream goes to crx, once what the stream has written is complete. -/
def payOwed (p k : Nat) (s : State) : State :=
  match ((s.page p).port k).owed with
  | [] => s
  | (sc, tok) :: rest =>
    if 4 ≤ (s.page p).crxHeld ∨ (4 ≤ k ∧ s.completeAtScope (portAgent p k) sc = false) then s
    else (s.modPort p k fun z => { z with owed := rest }).reachCrx p tok

/-- STREAM_FINISH: the active stream has finished; its completion token goes to crx, and the pending stream
becomes active (R147, R265). A store port first sends what it has gathered; a stopped stream's token goes first. -/
def execStreamFinish (p k : Nat) (s : State) : Res :=
  if !s.fabricRuns p then .next s
  else if !((s.page p).port k).owed.isEmpty then .next (payOwed p k s)
  else
    let y := (s.page p).port k
    match y.act, s.trussOf p with
    | some x, some t =>
      let s := if dPoints x.bytes ≤ x.pos ∧ !y.buf.isEmpty then flushBuf p k s else s
      if !s.streamDone p k then .next s
      else if dCrx x.bytes && decide (4 ≤ (s.page p).crxHeld) then .next s
      else
        let s := s.unrefSlot t.part x.slot
        let s := s.modPort p k fun z => { z with act := none, burst := if k < 4 then none else z.burst }
        let st := bits (s.sstat p k).toNat 0 7
        let pg := s.page p
        let s := if dCrx x.bytes then
          s.setPage p { pg with crx := pg.crx ++ [completionToken k st y.count.toNat] } else s
        let s := s.modPort p k fun z =>
          match z.pend with
          | some q => { z with act := some q, pend := none, count := 0 }
          | none => z
        .next (s.modCore p fun c => { c with event := true })
    | _, _ => .next s

/-- Tokens of the points whose data is already in, in order (R148). -/
def readTokens (p k : Nat) : Nat → State → List Token × State
  | 0, s => ([], s)
  | n + 1, s =>
    match headToken p k s with
    | none => ([], s)
    | some (t, s') =>
      let r := readTokens p k n s'
      (t :: r.1, r.2)

/-- SSTOP (R148): discards the pending stream and ends the active one at once. -/
def execSstop (p : BitVec 3) (s : State) : Res :=
  let k := p.toNat
  let r := if k < 4 then readTokens s.cur k 256 s else ([], flushBuf s.cur k s)
  let s := (r.2.stopPort s.cur k r.1).modPort s.cur k fun z => { z with burst := if k < 4 then none else z.burst }
  .next (complete s.core s)

end Sys2Proof.Machine
end

