-- ==== Sys2Proof/Machine/ElemCore.lean ====
section
/-! DEFINITION. The firing of an element: tokens at its inputs, what a firing plans, and the one shared operation
that carries a firing out (R34, R35, R76, R182, R183, R249 to R251, R269, R393). -/

namespace Sys2Proof.Machine

/-! ### Inputs -/

/-- The hop of an element input: in0, in1, in2, ctl are 0–3. -/
def inHop (i : Nat) : Nat := 37 + i

/-- The token at the head of a hop. -/
def Elem.hopHead (x : Elem) (h : Nat) : Option Token :=
  if x.closed && x.kerfHop h then none else ((fget x.hops h).getD []).head?

/-- Drops the token at the head of a hop. -/
def Elem.hopPop (x : Elem) (h : Nat) : Elem :=
  let l := ((fget x.hops h).getD []).drop 1
  { x with hops := fset x.hops h (if l.isEmpty then none else some l) }

/-- Puts a token at the tail of a hop. -/
def Elem.hopPush (x : Elem) (h : Nat) (t : Token) : Elem :=
  { x with hops := fput x.hops h ((fget x.hops h).getD [] ++ [t]) }

/-- A hop has a free slot (R253). -/
def Elem.hopRoom (x : Elem) (h : Nat) : Bool := decide (((fget x.hops h).getD []).length < x.hopSlots h)

/-- Changes an element. -/
def State.modElem (s : State) (p e : Nat) (f : Elem → Elem) : State := s.setElem p e (f (s.elem p e))

/-- Seam latency in fc (R2). -/
def State.seamFc (s : State) : Nat := if s.fuses.stepping = 0 then 10 else 8

/-- A hop toward a neighbour crosses a seam (R254). -/
def crossesSeam (p e h : Nat) : Bool :=
  if 32 ≤ h ∧ h ≤ 35 then
    match neighbour p e (h - 31) with
    | some q => decide (bayOf q.1 ≠ bayOf p)
    | none => false
  else false

/-- A hop has room for one more token: its slots and, over a seam, the tokens in flight (R253, R254). -/
def State.hopFree (s : State) (p e h : Nat) : Bool :=
  let x := s.elem p e
  let n := ((fget x.hops h).getD []).length + ((fget x.seam h).getD []).length
  decide (n < x.hopSlots h + (if crossesSeam p e h then s.seamFc else 0))

/-- A token enters a hop; over a seam it is first in flight (R254). -/
def State.enterHop (s : State) (p e h : Nat) (t : Token) : State :=
  if crossesSeam p e h then
    let due := s.now + 2 * (1 + s.seamFc)
    s.modElem p e fun x => { x with seam := fput x.seam h ((fget x.seam h).getD [] ++ [(due, t)]) }
  else s.modElem p e fun x => x.hopPush h t

/-- The parity that marks lost data. -/
def lostPar : BitVec 8 := 0xFF

/-- A token whose data is lost: zero, and marked so (R410). -/
def Token.marked (t : Token) : Token := if t.lost then { t with data := 0, par := lostPar } else t

/-- The DATA token at the head of an input. -/
def Elem.data (x : Elem) (i : Nat) : Option Token :=
  match x.hopHead (inHop i) with
  | some t => if t.kind = 0 then some t.marked else none
  | none => none

/-- The burst of an input. -/
def Elem.inBurst (x : Elem) (i : Nat) : Burst := x.ins[i % 4]'(Nat.mod_lt _ (by decide))

/-- Replaces the burst of an input. -/
def Elem.setBurst (x : Elem) (i : Nat) (b : Burst) : Elem :=
  { x with ins := x.ins.set (i % 4) b (Nat.mod_lt _ (by decide)) }

/-- Consumes the DATA token at the head of an input: it counts in its burst (R84, R250). -/
def Elem.eat (x : Elem) (i : Nat) : Elem := (x.setBurst i (x.inBurst i).pass).hopPop (inHop i)

/-- The format and scale that an input's token is read under: POISON for a lost token, a bad or POISON burst,
a format outside the input class, or one wider than a slot of `w` bits (R31, R35, R76, R84). -/
def Elem.inDesc (x : Elem) (i w : Nat) (t : Token) : Desc :=
  let b := x.inBurst i
  if t.lost || b.bad then descPoison
  else if decide (b.fmt = 0#8) then mkDesc b.scale 0#8
  else if readsPoison b.fmt b.scale || !inClass x.icls b.fmt || decide (w < fmtBits b.fmt) then descPoison
  else mkDesc b.scale b.fmt

/-- A burst that is POISON in its own right, and so already announced to those behind (R31, R33). -/
def Elem.native (x : Elem) (i : Nat) : Bool := let b := x.inBurst i; b.bad || readsPoison b.fmt b.scale

/-- POIS for a firing that takes a token of a burst outside ICLS from in0, in1 or in2, whatever the operation (R76). -/
def Elem.classFlags (x : Elem) (eats : Nat) : BitVec 8 :=
  let outside (i : Nat) : Bool := !x.native i && decide ((x.inBurst i).fmt ≠ 0#8) && !inClass x.icls (x.inBurst i).fmt
  if (List.range 3).any fun i => eats.testBit i && outside i then flPois else 0

/-- Flags of a token that an operation takes whole from an input: POIS for POISON, DISC for VOID (R33, R44). -/
def takenFlags (t : Token) (d : Desc) : BitVec 8 :=
  if t.valid = 0 then 0 else if fmtOf d = 0x0E#8 then flPois else if descIsVoid d then flDisc else 0

/-- The bits of a slot of `w` bits. -/
def slotBits (d : Data) (w s : Nat) : Nat := bits d.toNat (w * s) w

/-- A token's data from its slots of `w` bits. -/
def ofSlots (w : Nat) (l : List Nat) : Data :=
  BitVec.ofNat 512 ((l.zipIdx).foldl (fun a z => a + z.1 % 2 ^ w * 2 ^ (w * z.2)) 0)

/-- Slot width of the element. -/
def Elem.slotW (x : Elem) : Nat := 32 / x.pack

/-! ### Plans -/

/-- A token that a firing emits. -/
structure OutTok where
  /-- Its data, one free word a lane where the value is not given. -/
  data : Data
  /-- Valid lanes. -/
  valid : BitVec 16
  /-- RANK. -/
  rank : BitVec 3
  /-- Format and scale it is announced under, `none` for an operation that moves bits. -/
  desc : Option Desc
  /-- BLEN of its SCALE token. -/
  blen : Nat
  /-- Its poisoned lanes; it is emitted alone in a POISON burst when `pois` (R182). -/
  bad : BitVec 16
  /-- It is emitted in a POISON burst. -/
  pois : Bool
  /-- SCALE tokens forwarded in front of it. -/
  before : List Token
  deriving DecidableEq, Repr

/-- A firing. -/
structure Fire where
  /-- Inputs consumed, as bits. -/
  eats : Nat
  /-- The element after it, but for consumption and emission. -/
  x : Elem
  /-- Flags set (R44). -/
  fl : BitVec 8
  /-- Tokens on out0. -/
  out0 : List OutTok
  /-- Tokens on out1. -/
  out1 : List OutTok
  /-- Tiles of the site that it replaces. -/
  tiles : List (Nat × Tile)
  /-- Meters it adds to, beside FIRINGS (R393). -/
  mets : List (Nat × Nat)
  deriving DecidableEq, Repr

/-- What an element may do now. -/
inductive Plan where
  /-- An input or a tile it reads is missing, or a limit of its own holds it; `wr` when a tile it writes is not ready
  either or the wait counts as nothing, `dry` when the firing to come is known to write no output. -/
  | wait (wr : Bool) (dry : Bool := false)
  /-- Everything it reads is ready and a tile it writes is not. -/
  | blocked
  /-- It fires. -/
  | fire (f : Fire)
  /-- It is marked faulted (R18, R230). -/
  | fault
  /-- It is marked faulted and the truss fails with a code. -/
  | fail (code : Nat)
  deriving DecidableEq, Repr

/-- A plain firing. -/
def Fire.of (eats : Nat) (x : Elem) (out0 : List OutTok) : Fire := ⟨eats, x, 0, out0, [], [], []⟩

/-- A token of an operation that moves bits. -/
def moved (data : Data) (valid : BitVec 16) (rank : BitVec 3) : OutTok := ⟨data, valid, rank, none, 0, 0, false, []⟩

/-- A token announced under a descriptor. -/
def announced (x : Elem) (data : Data) (valid : BitVec 16) (rank : BitVec 3) (d : Desc) : OutTok :=
  ⟨data, valid, rank, some d, x.burst, 0, false, []⟩

/-! ### Emission -/

/-- The burst that an operation which moves bits announces for a burst of in0 (R189, R201, R202, R226, R227): a logic
operation's is UINT8 for VOID, and a packing one's has another BLEN. -/
def Elem.forwarded (x : Elem) (b : Burst) : Burst :=
  let opc := x.opc
  let re (n : Nat) : Burst := { b with blen := n - 1 }
  if b.bad then b
  else if 0x18 ≤ opc ∧ opc ≤ 0x1E then (if b.fmt = 0#8 then { b with fmt := 0x02#8, scale := 0x7F#8 } else b)
  else if opc = 0x4B then re ((b.blen + x.pack) / x.pack)
  else if opc = 0x4C then re (Nat.min ((b.blen + 1) * x.pack) 64)
  else if opc = 0x90 then re (Nat.min (2 * (b.blen + 1)) 64)
  else if opc = 0x91 then re ((b.blen + 2) / 2)
  else b

/-- The burst that an operation which moves bits works in now. -/
def Elem.home (x : Elem) : Burst := x.forwarded (x.inBurst 0)

/-- A lane-wise choice between two data. -/
def mixLanes (a b : Data) (m : BitVec 16) : Data :=
  (List.range 16).foldl (fun d l =>
    if m.getLsbD l then setBytes d (4 * l) 4 (lane b l).toNat else d) a

/-- Zeroes the lanes that are not valid. -/
def maskLanes (a : Data) (valid : BitVec 16) : Data := mixLanes a 0 (~~~valid)

/-- The burst in force on an output after a SCALE token. -/
def opened (f s : BitVec 8) (blen : Nat) : Option Burst := some ⟨f, s, blen, blen + 1, false⟩

/-- The mark of a one-token POISON burst that has been sent and must be followed by a reopening. -/
def reopenMark : Option Burst := some ⟨0x0E#8, 0x7F#8, 0, 1, true⟩

/-- The tokens sent for one emitted token, and the announcement after them (R182, R183). -/
def render (home : Burst) (ann : Option Burst) (o : OutTok) : List Token × Option Burst :=
  let tok := dataToken o.data o.valid o.rank
  let ann' := match o.before.getLast? with
    | some t => some (burstOf t)
    | none => ann
  if o.pois then (o.before ++ [scaleToken 0x0E#8 0x7F#8 0, tok], reopenMark)
  else
    match o.desc with
    | some d =>
      match ann' with
      | some b =>
        if !b.bad && mkDesc b.scale b.fmt == d then (o.before ++ [tok], ann')
        else (o.before ++ [scaleToken (fmtOf d) (scaleOf d) o.blen, tok], opened (fmtOf d) (scaleOf d) o.blen)
      | none => (o.before ++ [scaleToken (fmtOf d) (scaleOf d) o.blen, tok], opened (fmtOf d) (scaleOf d) o.blen)
    | none =>
      match ann' with
      | some b =>
        if decide (b.fmt = 0x0E#8) && ((b.bad && decide (b.blen = 0)) || !(home.bad || readsPoison home.fmt home.scale)) then
          (o.before ++ [scaleToken home.fmt home.scale home.blen, tok], opened home.fmt home.scale home.blen)
        else (o.before ++ [tok], ann')
      | none => (o.before ++ [tok], ann')

/-- The tokens sent for a list of emitted tokens. -/
def renderAll (home : Burst) (ann : Option Burst) : List OutTok → List Token × Option Burst
  | [] => ([], ann)
  | o :: t =>
    let r := render home ann o
    let q := renderAll home r.2 t
    (r.1 ++ q.1, q.2)

/-- Free places of a result queue (R251). -/
def Elem.free (x : Elem) (k : Nat) : Nat := x.places - (if k = 0 then x.q0.length else x.q1.length)

/-- The firing's outputs have room for all the tokens it writes (R249, R251). -/
def fireRoom (x : Elem) (f : Fire) : Bool :=
  let b := x.home
  decide ((renderAll b x.annc[0] f.out0).1.length ≤ x.free 0)
    && decide ((renderAll b x.annc[1] f.out1).1.length ≤ x.free 1)

/-- Gives the poisoned lanes of an emitted token free values: the spec states no data for them (log 2). -/
def freePoison (o : OutTok) (s : State) : OutTok × State :=
  if o.bad = 0 then (o, s)
  else
    let r := (List.range 16).foldl (fun (r : Data × State) l =>
      if o.bad.getLsbD l && o.valid.getLsbD l then
        let v := r.2.freeVal
        (setBytes r.1 (4 * l) 4 (v.1.toNat % 2 ^ 32), v.2)
      else r) (o.data, s)
    ({ o with data := r.1 }, r.2)

/-- Gives the poisoned lanes of a list free values. -/
def freePoisons : List OutTok → State → List OutTok × State
  | [], s => ([], s)
  | o :: t, s =>
    let r := freePoison o s
    let q := freePoisons t r.2
    (r.1 :: q.1, q.2)

/-! ### Parity (R83, R410) -/

/-- A token as the router of a site passes it on, after the parity check: `none` when it is discarded. Lost DATA and
SCALE tokens go on with zeroed data, and the launch fails; a CONFIG or COMMAND token fails the truss. -/
def State.checked (s : State) (p e : Nat) (t : Token) : Option Token × State :=
  if !t.lost then (some t, s)
  else
    match s.trussOf p with
    | none => (some t.marked, s)
    | some x =>
      let ix := (s.page p).ix
      if t.kind = 0 ∨ t.kind = 1 then (some t.marked, s.failItem (s.page p).truss 0x0A (detailOf (ix * 64 + e) ix x.ix))
      else (none, s.failPage p 0x0A e)

/-- The parity check of the heads of the inputs that a firing consumes. -/
def State.checkedInputs (s : State) (p e eats : Nat) : State :=
  (List.range 4).foldl (fun s i =>
    if eats.testBit i then
      match (s.elem p e).hopHead (inHop i) with
      | some t => (s.checked p e t).2
      | none => s
    else s) s

/-- Carries out a firing: its inputs are consumed, its tokens enter the result queues, its flags stick and its
meters count; a firing on a tile acquires at .M (R44, R76, R249 to R251, R269, R317, R393). -/
def State.applyFire (s : State) (p e : Nat) (f : Fire) : State :=
  let r0 := freePoisons f.out0 s
  let r1 := freePoisons f.out1 r0.2
  let s := r1.2.checkedInputs p e f.eats
  let x := s.elem p e
  let home := x.home
  let e0 := renderAll home x.annc[0] r0.1
  let e1 := renderAll home x.annc[1] r1.1
  let y := (List.range 4).foldl (fun (y : Elem) i => if f.eats.testBit i then y.eat i else y) f.x
  let y := { y with
    status := y.status ||| f.fl ||| x.classFlags f.eats, fire := y.fire + 1, q0 := y.q0 ++ e0.1, q1 := y.q1 ++ e1.1, annc := #v[e0.2, e1.2] }
  let s := s.setElem p e y
  let s := f.tiles.foldl (fun s z =>
    let pg := s.page p
    let moved := decide ((pg.tile e z.1).state ≠ z.2.state)
    s.setPage p { pg.setTile e z.1 z.2 with core := { pg.core with event := pg.core.event || moved } }) s
  let part := ((s.trussOf p).map Truss.part).getD 0x3F
  -- Firing on a tile is an acquire: what the bay holds clean of the partition is read again (R317).
  let s := if ((opRow x.opc).map OpRow.tiles).getD 0 = 0 then s else s.rdcInval (bayOf p) part fun _ => true
  let s := f.mets.foldl (fun s z => s.meter part z.1 z.2) s
  (s.meter part 6 1).fabricMoved p

/-- An element that fires at all now: its truss's fabric runs, and it is neither faulted nor between the words
of a unit of configuration (R249, R450), and holds the operation. -/
def State.elemLive (s : State) (p e opc : Nat) : Bool :=
  let x := s.elem p e
  s.fabricRuns p && decide (e < 64) && !x.faulted && x.judging.isEmpty && decide (x.opc = opc)

/-- Marks an element faulted (R18). -/
def State.markFaulted (s : State) (p e : Nat) : State := s.modElem p e fun x => { x with faulted := true }

/-- A firing of the operation `opc` under its plan (R249). -/
def fireOp (opc : Nat) (plan : Page → Nat → Plan) (p e : Nat) (s : State) : Res :=
  if s.elemLive p e opc then
    match plan (s.page p) e with
    | .wait _ _ => .next s
    | .blocked => .next s
    | .fire f => if fireRoom (s.elem p e) f then .next (s.applyFire p e f) else .next s
    | .fault => .next (s.markFaulted p e)
    | .fail code => .next ((s.markFaulted p e).failPage p code e)
  else .next s

/-- What an fc in which the element does not fire counts as: 1 STALL, 2 STARVE, 0 neither (R269). -/
def stallClass (x : Elem) (pl : Plan) : Nat :=
  let used (k : Nat) : Bool := x.outs.testBit k
  let room := (!used 0 || decide (0 < x.free 0)) && (!used 1 || decide (0 < x.free 1))
  match pl with
  | .wait wr dry => if (room || dry) && !wr then 2 else 0
  | .blocked => 1
  | .fire f => if fireRoom x f then 0 else 1
  | _ => 0

end Sys2Proof.Machine
end

