-- ==== Sys2Proof/Machine/Lane.lean ====
section
/-! DEFINITION. Lane operations of elements: arithmetic, comparison, logic, fixed point, special functions,
conversion, reductions, accumulation and lane movement (R180 to R210). -/

namespace Sys2Proof.Machine

/-! ### Reading values -/

/-- Valid slots of a token (R393). -/
def slotsValid (x : Elem) (t : Token) : Nat := popAux t.valid.toNat 16 * x.pack

/-- Inputs in0–in2 that the element uses. -/
def Elem.used (x : Elem) : List Nat := [0, 1, 2].filter fun i => x.insMask.testBit i

/-- Every used input holds a DATA token. -/
def Elem.ready (x : Elem) : Bool := x.used.all fun i => (x.data i).isSome

/-- Bits of the inputs used. -/
def Elem.usedMask (x : Elem) : Nat := x.insMask % 8

/-- The token of an input, empty when there is none. -/
def Elem.tok (x : Elem) (i : Nat) : Token := (x.data i).getD (dataToken 0 0 0)

/-- Is an input replaced by a constant (R80)? -/
def Elem.isConst (x : Elem) (i : Nat) : Bool :=
  (decide (i = 1) && x.var.testBit 0) || (decide (i = 2) && x.var.testBit 1)

/-- The descriptor that slot values of an input are read under; a constant is read under in0's (R80). -/
def Elem.argDesc (x : Elem) (i : Nat) : Desc :=
  if x.isConst i then x.inDesc 0 x.slotW (x.tok 0) else x.inDesc i x.slotW (x.tok i)

/-- Raw bits of a slot of an input or constant. -/
def Elem.argRaw (x : Elem) (i s : Nat) : Nat :=
  if x.isConst i then (x.k (i - 1)).toNat % 2 ^ x.slotW else slotBits (x.tok i).data x.slotW s

/-- The lane of slot `s` of an input is valid. -/
def Elem.argValid (x : Elem) (i s : Nat) : Bool := x.isConst i || (x.tok i).valid.getLsbD (s / x.pack)

/-- The value of a slot of an input: `none` in an invalid lane (R35, R46, R80, R182). -/
def Elem.arg (x : Elem) (stored : Bool) (s i : Nat) : Option (Val × BitVec 8) :=
  if x.argValid i s then
    let d := x.argDesc i
    some (decodeVal (fmtOf d) (scaleOf d) stored (x.argRaw i s))
  else none

/-- The format counts as an integer format for the choice of path: VOID does unless ICLS is IEEE or BIN8
(R33, R183). -/
def Elem.intLike (x : Elem) (f : BitVec 8) : Bool := fmtInt f || (decide (f = 0#8) && decide (x.icls < 3))

/-- The integer path (R183). -/
def Elem.intPath (x : Elem) : Bool :=
  fmtInt x.tfmt && x.used.all fun i => x.intLike (fmtOf (x.argDesc i))

/-- Scale of the output: 0x7F on the integer path, else TSCALE. -/
def Elem.outScale (x : Elem) (ip : Bool) : Nat := if ip then 127 else x.tscale

/-- A descriptor from a scale number and TFMT. -/
def Elem.outDesc (x : Elem) (scale : Nat) : Desc := mkDesc (BitVec.ofNat 8 scale) x.tfmt

/-- The largest RANK of the tokens of the used inputs (R182). -/
def Elem.rankIn (x : Elem) : BitVec 3 :=
  BitVec.ofNat 3 ((x.used.map fun i => (x.tok i).rank.toNat).foldl Nat.max 0)

/-- The flags of a list of answers. -/
def orFlags (l : List (BitVec 8)) : BitVec 8 := l.foldl (· ||| ·) 0

/-! ### The shared lane computation (R182, R183) -/

/-- Argument values of a slot. -/
abbrev Args := Nat → Option (Val × BitVec 8)

/-- One operand. -/
def op1 (f : Num → Num × BitVec 8) (g : Args) : Option (Val × BitVec 8) :=
  (g 0).map fun a =>
    match a.1 with
    | .num x => let r := f x; (.num r.1, a.2 ||| r.2)
    | .poison => (.poison, a.2)

/-- Two operands. -/
def op2 (f : Num → Num → Num × BitVec 8) (g : Args) : Option (Val × BitVec 8) :=
  match g 0, g 1 with
  | some a, some b => let r := Val.map2 f a.1 b.1; some (r.1, a.2 ||| b.2 ||| r.2)
  | _, _ => none

/-- Three operands. -/
def op3 (f : Num → Num → Num → Num × BitVec 8) (g : Args) : Option (Val × BitVec 8) :=
  match g 0, g 1, g 2 with
  | some a, some b, some c =>
    match a.1, b.1, c.1 with
    | .num x, .num y, .num z => let r := f x y z; some (.num r.1, a.2 ||| b.2 ||| c.2 ||| r.2)
    | _, _, _ => some (.poison, a.2 ||| b.2 ||| c.2)
  | _, _, _ => none

/-- A lane's results: `none` when a slot has none, else codes, poison and flags. -/
def laneOf (conv : Num → Nat × BitVec 8) (rs : List (Option (Val × BitVec 8))) : Option (List Nat × Bool × BitVec 8) :=
  rs.foldr (fun r acc =>
    match r, acc with
    | some (.num x, fl), some (cs, bad, fs) => let c := conv x; some (c.1 :: cs, bad, fl ||| c.2 ||| fs)
    | some (.poison, fl), some (cs, _, fs) => some (0 :: cs, true, fl ||| fs)
    | _, _ => none) (some ([], false, 0))

/-- The token and flags of a lane computation: `f` gives each slot's value, `conv` its code, under `d`. -/
def Elem.laneToken (x : Elem) (d : Desc) (f : Nat → Option (Val × BitVec 8)) (conv : Num → Nat × BitVec 8) :
    OutTok × BitVec 8 :=
  let p := x.pack
  let lanes := (List.range 16).map fun l => laneOf conv ((List.range p).map fun j => f (l * p + j))
  let slots := lanes.flatMap fun r => match r with
    | some (cs, _, _) => cs
    | none => List.replicate p 0
  let mask (g : Option (List Nat × Bool × BitVec 8) → Bool) : BitVec 16 :=
    (lanes.zipIdx).foldl (fun (m : BitVec 16) z => if g z.1 then setBitTo m z.2 true else m) 0
  let valid := mask Option.isSome
  let bad := mask fun r => match r with
    | some (_, b, _) => b
    | none => false
  let fl := orFlags (lanes.map fun r => match r with
    | some (_, _, fs) => fs
    | none => 0)
  (⟨ofSlots x.slotW slots, valid, x.rankIn, some d, x.burst, bad, decide (bad ≠ 0), []⟩, fl)

/-- The plan of a computing lane operation that fires on one token an input. -/
def lanePlan (sfu : Bool) (f : Elem → Args → Option (Val × BitVec 8)) (pg : Page) (e : Nat) : Plan :=
  let x := pg.elem e
  if !x.ready then .wait false
  else
    let ip := x.intPath
    let sc := x.outScale ip
    let r := x.laneToken (x.outDesc sc) (fun s => f x (x.arg ip s)) (fun v => convert v x.tfmt sc x.rm x.ovr)
    .fire { Fire.of x.usedMask x [r.1] with fl := r.2, mets := [(if sfu then 5 else 4, slotsValid x (x.tok 0))] }

/-! ### Arithmetic, minimum and maximum, special functions (R184, R186, R192, R193) -/

/-- R49 with its INV. -/
def pickV (max prop : Bool) (x y : Num) : Num × BitVec 8 :=
  match pickNum max prop x y with
  | .nan s => (.nan false, if s then flInv else 0)
  | z => (z, 0)

/-- Exact a × b + c (R184). -/
def fmaNum (rm : Nat) (a b c : Num) : Num × BitVec 8 :=
  let m := a.mul b
  let r := m.1.add rm c
  (r.1, m.2 ||| r.2)

/-- MINP(MAXP(a, lo), hi) (R192). -/
def clampNum (a lo hi : Num) : Num × BitVec 8 :=
  let m := pickV true true a lo
  let r := pickV false true m.1 hi
  (r.1, m.2 ||| r.2)

/-- ADD at an element (R184). -/
def elemAddPlan : Page → Nat → Plan := lanePlan false fun x => op2 (Num.add x.rm)
/-- ADD: its firing. -/
def execElemAdd (p e : Nat) (s : State) : Res := fireOp 0x01 elemAddPlan p e s
/-- SUB (R184). -/
def elemSubPlan : Page → Nat → Plan := lanePlan false fun x => op2 fun a b => a.add x.rm b.neg
/-- SUB: its firing. -/
def execElemSub (p e : Nat) (s : State) : Res := fireOp 0x02 elemSubPlan p e s
/-- MUL (R184). -/
def elemMulPlan : Page → Nat → Plan := lanePlan false fun _ => op2 Num.mul
/-- MUL: its firing. -/
def execElemMul (p e : Nat) (s : State) : Res := fireOp 0x03 elemMulPlan p e s
/-- FMA (R184). -/
def fmaPlan : Page → Nat → Plan := lanePlan false fun x => op3 (fmaNum x.rm)
/-- FMA: its firing. -/
def execFma (p e : Nat) (s : State) : Res := fireOp 0x04 fmaPlan p e s
/-- ABS (R184). -/
def elemAbsPlan : Page → Nat → Plan := lanePlan false fun _ => op1 fun a => (a.abs, 0)
/-- ABS: its firing. -/
def execElemAbs (p e : Nat) (s : State) : Res := fireOp 0x06 elemAbsPlan p e s
/-- NEG (R184). -/
def negPlan : Page → Nat → Plan := lanePlan false fun _ => op1 fun a => (a.neg, 0)
/-- NEG: its firing. -/
def execNeg (p e : Nat) (s : State) : Res := fireOp 0x07 negPlan p e s
/-- MIN (R186). -/
def elemMinPlan : Page → Nat → Plan := lanePlan false fun _ => op2 (pickV false false)
/-- MIN: its firing. -/
def execElemMin (p e : Nat) (s : State) : Res := fireOp 0x08 elemMinPlan p e s
/-- MAX (R186). -/
def elemMaxPlan : Page → Nat → Plan := lanePlan false fun _ => op2 (pickV true false)
/-- MAX: its firing. -/
def execElemMax (p e : Nat) (s : State) : Res := fireOp 0x09 elemMaxPlan p e s
/-- MINP (R186). -/
def minpPlan : Page → Nat → Plan := lanePlan false fun _ => op2 (pickV false true)
/-- MINP: its firing. -/
def execMinp (p e : Nat) (s : State) : Res := fireOp 0x0A minpPlan p e s
/-- MAXP (R186). -/
def maxpPlan : Page → Nat → Plan := lanePlan false fun _ => op2 (pickV true true)
/-- MAXP: its firing. -/
def execMaxp (p e : Nat) (s : State) : Res := fireOp 0x0B maxpPlan p e s
/-- CLMP (R192). -/
def clmpPlan : Page → Nat → Plan := lanePlan false fun _ => op3 clampNum
/-- CLMP: its firing. -/
def execClmp (p e : Nat) (s : State) : Res := fireOp 0x22 clmpPlan p e s
/-- RCP (R193). -/
def rcpPlan : Page → Nat → Plan := lanePlan true fun _ => op1 (special 0x40)
/-- RCP: its firing. -/
def execRcp (p e : Nat) (s : State) : Res := fireOp 0x40 rcpPlan p e s
/-- RSQ (R193). -/
def rsqPlan : Page → Nat → Plan := lanePlan true fun _ => op1 (special 0x41)
/-- RSQ: its firing. -/
def execRsq (p e : Nat) (s : State) : Res := fireOp 0x41 rsqPlan p e s
/-- SQRT (R193). -/
def sqrtPlan : Page → Nat → Plan := lanePlan true fun _ => op1 (special 0x42)
/-- SQRT: its firing. -/
def execSqrt (p e : Nat) (s : State) : Res := fireOp 0x42 sqrtPlan p e s
/-- EXP2 (R193). -/
def exp2Plan : Page → Nat → Plan := lanePlan true fun _ => op1 (special 0x43)
/-- EXP2: its firing. -/
def execExp2 (p e : Nat) (s : State) : Res := fireOp 0x43 exp2Plan p e s
/-- LOG2 (R193). -/
def log2Plan : Page → Nat → Plan := lanePlan true fun _ => op1 (special 0x44)
/-- LOG2: its firing. -/
def execLog2 (p e : Nat) (s : State) : Res := fireOp 0x44 log2Plan p e s
/-- TANH (R193). -/
def tanhPlan : Page → Nat → Plan := lanePlan true fun _ => op1 (special 0x45)
/-- TANH: its firing. -/
def execTanh (p e : Nat) (s : State) : Res := fireOp 0x45 tanhPlan p e s

/-! ### Compare and select (R187, R188) -/

/-- The plan of a compare: 1 or 0 in TFMT at scale 0x7F. -/
def comparePlan (f : Num → Num → Bool) (pg : Page) (e : Nat) : Plan :=
  let x := pg.elem e
  if !x.ready then .wait false
  else
    let cmp (a b : Num) : Num × BitVec 8 :=
      (Num.ofInt (if f a b then 1 else 0), if a.isSnan || b.isSnan then flInv else 0)
    let r := x.laneToken (x.outDesc 127) (fun s => op2 cmp (x.arg x.intPath s)) (fun v => convert v x.tfmt 127 0 0)
    .fire { Fire.of x.usedMask x [r.1] with fl := r.2, mets := [(4, slotsValid x (x.tok 0))] }

/-- CEQ (R187). -/
def ceqPlan : Page → Nat → Plan := comparePlan Num.eqv
/-- CEQ: its firing. -/
def execCeq (p e : Nat) (s : State) : Res := fireOp 0x10 ceqPlan p e s
/-- CNE (R187). -/
def cnePlan : Page → Nat → Plan := comparePlan fun a b => !a.eqv b
/-- CNE: its firing. -/
def execCne (p e : Nat) (s : State) : Res := fireOp 0x11 cnePlan p e s
/-- CLT (R187). -/
def cltPlan : Page → Nat → Plan := comparePlan Num.lt
/-- CLT: its firing. -/
def execClt (p e : Nat) (s : State) : Res := fireOp 0x12 cltPlan p e s
/-- CLE (R187). -/
def clePlan : Page → Nat → Plan := comparePlan fun a b => a.lt b || a.eqv b
/-- CLE: its firing. -/
def execCle (p e : Nat) (s : State) : Res := fireOp 0x13 clePlan p e s

/-- SEL of a slot: only c and the chosen value count (R188). -/
def selSlot (g : Args) : Option (Val × BitVec 8) :=
  match g 0 with
  | none => none
  | some (.poison, fl) => some (.poison, fl)
  | some (.num c, fl) =>
    let fl := fl ||| (if c.isSnan then flInv else 0)
    (g (if c.isZero || c.isNan then 2 else 1)).map fun v => (v.1, fl ||| v.2)

/-- SEL (R188). -/
def elemSelPlan : Page → Nat → Plan := lanePlan false fun _ => selSlot
/-- SEL: its firing. -/
def execElemSel (p e : Nat) (s : State) : Res := fireOp 0x14 elemSelPlan p e s

/-! ### Logic and shifts (R189) -/

/-- An operation that moves bits must emit the token in a POISON burst of its own. -/
def Elem.moverBad (x : Elem) (t : Token) : Bool := !x.native 0 && decide (fmtOf (x.inDesc 0 x.slotW t) = 0x0E#8) || t.lost

/-- The plan of a logic or shift operation on in0's slots and raw bits of in1. A constant has in0's format (R80), so that with
in0 VOID it reads as zero (DESIGN CHOICE, log 114). -/
def logicPlan (two : Bool) (f : Nat → Nat → Nat → Nat) (pg : Page) (e : Nat) : Plan :=
  let x := pg.elem e
  if !x.ready then .wait false
  else
    let t := x.tok 0
    let d0 := x.inDesc 0 x.slotW t
    let d1 := x.argDesc 1
    let w := if fmtBits (fmtOf d0) = 0 then 8 else fmtBits (fmtOf d0)
    let p0 := decide (fmtOf d0 = 0x0E#8)
    let p1 := two && decide (fmtOf d1 = 0x0E#8)
    let valid := if two && !x.isConst 1 then t.valid &&& (x.tok 1).valid else t.valid
    let a (s : Nat) : Nat := if fmtOf d0 = 0#8 then 0 else slotBits t.data x.slotW s % 2 ^ w
    let b (s : Nat) : Nat := if two && decide (fmtOf d1 ≠ 0#8) then x.argRaw 1 s else 0
    let data := ofSlots x.slotW ((List.range (16 * x.pack)).map fun s => f w (a s) (b s) % 2 ^ w)
    let some1 := decide (valid ≠ 0)
    let fl := (if some1 && (decide (fmtOf d0 = 0#8) || (two && decide (fmtOf d1 = 0#8))) then flDisc else 0)
      ||| (if some1 && (p0 || p1) then flPois else 0)
    let o := { moved (maskLanes data valid) valid x.rankIn with
      bad := if p0 || p1 then valid else 0, pois := some1 && (p0 || p1) && !x.native 0 }
    let o := { o with pois := o.pois || (some1 && p1) }
    .fire { Fire.of x.usedMask x [o] with fl := fl, mets := [(4, slotsValid x t)] }

/-- AND (R189). -/
def elemAndPlan : Page → Nat → Plan := logicPlan true fun _ a b => a &&& b
/-- AND: its firing. -/
def execElemAnd (p e : Nat) (s : State) : Res := fireOp 0x18 elemAndPlan p e s
/-- OR (R189). -/
def elemOrPlan : Page → Nat → Plan := logicPlan true fun _ a b => a ||| b
/-- OR: its firing. -/
def execElemOr (p e : Nat) (s : State) : Res := fireOp 0x19 elemOrPlan p e s
/-- XOR (R189). -/
def elemXorPlan : Page → Nat → Plan := logicPlan true fun _ a b => a ^^^ b
/-- XOR: its firing. -/
def execElemXor (p e : Nat) (s : State) : Res := fireOp 0x1A elemXorPlan p e s
/-- NOT (R189). -/
def elemNotPlan : Page → Nat → Plan := logicPlan false fun w a _ => ones w - a
/-- NOT: its firing. -/
def execElemNot (p e : Nat) (s : State) : Res := fireOp 0x1B elemNotPlan p e s
/-- SHL (R189). -/
def elemShlPlan : Page → Nat → Plan := logicPlan true fun _ a b => a * 2 ^ (b % 64)
/-- SHL: its firing. -/
def execElemShl (p e : Nat) (s : State) : Res := fireOp 0x1C elemShlPlan p e s
/-- SHR (R189). -/
def elemShrPlan : Page → Nat → Plan := logicPlan true fun _ a b => a / 2 ^ (b % 64)
/-- SHR: its firing. -/
def execElemShr (p e : Nat) (s : State) : Res := fireOp 0x1D elemShrPlan p e s
/-- SRA (R189): copies of the top bit come in. -/
def elemSraPlan : Page → Nat → Plan :=
  logicPlan true fun w a b =>
    (if a < 2 ^ (w - 1) then a else a + ones 64 * 2 ^ w) / 2 ^ (b % 64)
/-- SRA: its firing. -/
def execElemSra (p e : Nat) (s : State) : Res := fireOp 0x1E elemSraPlan p e s

/-! ### Fixed point (R190, R191) -/

/-- The integer of a value known to be one. -/
def Num.int (x : Num) : Int :=
  match x with
  | .fin g n d => if g then -((n / d : Nat) : Int) else ((n / d : Nat) : Int)
  | _ => 0

/-- The plan of an integer operation on stored integers, converted at scale 0x7F. -/
def intPlan (f : Elem → Args → Option (Val × BitVec 8)) (pg : Page) (e : Nat) : Plan :=
  let x := pg.elem e
  if !x.ready then .wait false
  else
    let r := x.laneToken (x.outDesc 127) (fun s => f x (x.arg true s)) (fun v => convert v x.tfmt 127 x.rm 0)
    .fire { Fire.of x.usedMask x [r.1] with fl := r.2, mets := [(4, slotsValid x (x.tok 0))] }

/-- a / 2^n, n = b[5:0] (R190). -/
def rshrNum (a b : Num) : Num × BitVec 8 := (a.scale (-((sextInt b : Nat) : Int)), 0)
where
  /-- The low six bits of an integer value. -/
  sextInt (b : Num) : Nat := (Sys2Proof.Machine.Num.int b % 64).toNat

/-- RSHR (R190). -/
def rshrPlan : Page → Nat → Plan := intPlan fun _ => op2 rshrNum
/-- RSHR: its firing. -/
def execRshr (p e : Nat) (s : State) : Res := fireOp 0x20 rshrPlan p e s

/-- Two's complement of 32 bits. -/
def s32 (x : BitVec 32) : Int := x.toInt

/-- The requantised value v + z, with INX (R191). -/
def reqNum (rm : Nat) (z a m : Int) (n : Nat) : Num × BitVec 8 :=
  let q := a * m
  let r := roundInt rm (decide (q < 0)) q.natAbs (2 ^ (31 + n))
  (Num.ofInt (r.1 + z), if r.2 then 0 else flInx)

/-- REQ of a slot: constants are read whole as INT32 (R191). -/
def reqSlot (x : Elem) (g : Args) : Option (Val × BitVec 8) :=
  let z := (BitVec.ofNat 12 (x.p 0)).toInt
  let g' (i : Nat) : Option (Val × BitVec 8) :=
    if x.isConst i then some (.num (Num.ofInt (if i = 1 then s32 (x.k 0) else ((x.k 1).toNat % 64 : Nat))), 0) else g i
  op3 (fun a b c => reqNum x.rm z (Num.int a) (Num.int b) ((Num.int c) % 64).toNat) g'

/-- REQ (R191). -/
def reqPlan : Page → Nat → Plan := intPlan reqSlot
/-- REQ: its firing. -/
def execReq (p e : Nat) (s : State) : Res := fireOp 0x21 reqPlan p e s

/-! ### Conversion (R195 to R197) -/

/-- A new burst of in0 starts with its head token (R84, R196). -/
def Elem.atBoundary (x : Elem) : Bool := let b := x.inBurst 0; decide (b.left = b.blen + 1)

/-- The switch of rounding mode and overflow rule by a ctl token at an in0 burst boundary (R196): whether ctl
is consumed, and the element after it; `none` when the token is refused. -/
def Elem.sideSwitch (x : Elem) : Option (Bool × Elem) :=
  if x.side && x.atBoundary then
    match x.data 3 with
    | none => some (false, x)
    | some t =>
      let v := (lane t.data 0).toNat
      if !t.valid.getLsbD 0 || decide (32 ≤ v) || decide (6 ≤ v % 8) || decide (v / 8 = 3) || t.lost then none
      else some (true, { x with modeSw := some (BitVec.ofNat 5 v) })
  else some (false, x)

/-- amax over the valid slots of in0, each with its scale (R50, R288). -/
def Elem.amaxToken (x : Elem) : BitVec 32 × BitVec 8 :=
  if x.amaxOn then
    (List.range (16 * x.pack)).foldl (fun r s =>
      match x.arg false s 0 with
      | some v => let z := amaxStep r.1 v.1; (z.1, r.2 ||| z.2)
      | none => r) (x.amax, 0)
  else (x.amax, 0)

/-- The plan of CVT and DQ, with the side port and amax. -/
def cvtPlan (fl0 : BitVec 8) (f : Elem → Args → Option (Val × BitVec 8)) (pg : Page) (e : Nat) : Plan :=
  let x := pg.elem e
  if !x.ready then .wait false
  else
    match x.sideSwitch with
    | none => .fail 0x03
    | some (ate, x) =>
      let ip := x.intPath
      let sc := x.outScale ip
      let r := x.laneToken (x.outDesc sc) (fun s => f x (x.arg ip s)) (fun v => convert v x.tfmt sc x.rm x.ovr)
      let m := x.amaxToken
      .fire { Fire.of (1 + if ate then 8 else 0) { x with amax := m.1 } [r.1] with
        fl := r.2 ||| m.2 ||| fl0, mets := [(4, slotsValid x (x.tok 0))] }

/-- CVT (R195). -/
def cvtFirePlan : Page → Nat → Plan := cvtPlan 0 fun _ => op1 fun a => (a, 0)
/-- CVT: its firing. -/
def execCvt (p e : Nat) (s : State) : Res := fireOp 0x48 cvtFirePlan p e s

/-- (x − z) × f of DQ (R197). A difference that cancels has the sign of R184's cancelled sum (DESIGN CHOICE, log 114). -/
def dqNum (x : Elem) (a : Num) : Num × BitVec 8 :=
  let z := if fmtInt (fmtOf (x.argDesc 0)) then (BitVec.ofNat 12 (x.p 0)).toInt else 0
  let d := if z = 0 then (a, 0) else a.add x.rm (Num.ofInt (-z))
  if (x.p 1).testBit 0 then
    match ofFp32 (x.k 0) with
    | .nan _ => (.nan a.isSnan, d.2)
    | f => let r := d.1.mul f; (r.1, d.2 ||| r.2)
  else d

/-- DQ (R197): a K0 that is a NaN sets INV once a firing. -/
def dqPlan (pg : Page) (e : Nat) : Plan :=
  let x := pg.elem e
  cvtPlan (if (x.p 1).testBit 0 && (ofFp32 (x.k 0)).isNan then flInv else 0) (fun x => op1 (dqNum x)) pg e
/-- DQ: its firing. -/
def execDq (p e : Nat) (s : State) : Res := fireOp 0x4A dqPlan p e s

/-! ### Accumulation (R185, R204) -/

/-- A clean accumulator. -/
def Acc.zero : Acc := ⟨0, false, false⟩

/-- The accumulators are INT32 (R185). -/
def Elem.accIsInt (x : Elem) : Bool := decide (x.icls = 1) || decide (x.icls = 2)

/-- Adds an exact value into an accumulator: FP32 with one rounding, or INT32 modulo 2^32 with OVF (R54). -/
def Acc.add (a : Acc) (int : Bool) (v : Val) (fl : BitVec 8) : Acc × BitVec 8 :=
  match v with
  | .poison => ({ a with seen := true, poison := true }, fl)
  | .num x =>
    if int then
      let z := a.bits.toInt + Num.int x
      (⟨BitVec.ofInt 32 z, true, a.poison⟩, fl ||| (if z < -2147483648 ∨ 2147483647 < z then flOvf else 0))
    else
      let y := (ofFp32 a.bits).add 0 x
      let r := toFp32 y.1
      (⟨r.1, true, a.poison⟩, fl ||| y.2 ||| r.2)

/-- The exact value of an accumulator. -/
def Acc.val (a : Acc) (int : Bool) : Val :=
  if a.poison then .poison else .num (if int then Num.ofInt a.bits.toInt else ofFp32 a.bits)

/-- Accumulator `k` of a list. -/
def accAt (l : List Acc) (k : Nat) : Acc := (l[k]?).getD Acc.zero

/-- The plan of MAC and ACC: `f` gives what each slot adds. -/
def accPlan (f : Args → Option (Val × BitVec 8)) (pg : Page) (e : Nat) : Plan :=
  let x := pg.elem e
  if !x.ready then .wait false
  else
    let int := x.accIsInt
    let n := 16 * x.pack
    let step := (List.range n).map fun s =>
      match f (x.arg int s) with
      | some v => (accAt x.acc s).add int v.1 v.2
      | none => (accAt x.acc s, 0)
    let acc := step.map Prod.fst
    let fl := orFlags (step.map Prod.snd)
    let mets := [(4, slotsValid x (x.tok 0))]
    if x.rankIn.toNat < x.emit then .fire { Fire.of x.usedMask { x with acc := acc } [] with fl := fl, mets := mets }
    else
      let sc := if int && fmtInt x.tfmt then 127 else x.tscale
      let r := x.laneToken (x.outDesc sc) (fun s => if (accAt acc s).seen then some ((accAt acc s).val int, 0) else none)
        (fun v => convert v x.tfmt sc x.rm x.ovr)
      .fire { Fire.of x.usedMask { x with acc := [] } [{ r.1 with rank := x.rankIn - BitVec.ofNat 3 x.emit }] with
        fl := fl ||| r.2, mets := mets }

/-- The exact product that MAC adds. -/
def macSlot (g : Args) : Option (Val × BitVec 8) := op2 Num.mul g

/-- MAC (R185). -/
def macPlan : Page → Nat → Plan := accPlan macSlot
/-- MAC: its firing. -/
def execMac (p e : Nat) (s : State) : Res := fireOp 0x05 macPlan p e s
/-- ACC (R204). -/
def accFirePlan : Page → Nat → Plan := accPlan (op1 fun a => (a, 0))
/-- ACC: its firing. -/
def execAcc (p e : Nat) (s : State) : Res := fireOp 0x53 accFirePlan p e s

/-! ### Reductions (R53, R203) -/

/-- One level of the tree: nodes 2i and 2i + 1 combine; a lone valid child passes (R53). -/
def treeLevel (f : Val → Val → Val × BitVec 8) : List (Option Val) → List (Option Val) × BitVec 8
  | a :: b :: t =>
    let r := treeLevel f t
    match a, b with
    | some x, some y => let z := f x y; (some z.1 :: r.1, z.2 ||| r.2)
    | some x, none => (some x :: r.1, r.2)
    | none, y => (y :: r.1, r.2)
  | l => (l, 0)

/-- The root of the pairwise tree, at most `n` levels. -/
def treeRoot (f : Val → Val → Val × BitVec 8) : Nat → List (Option Val) → Option Val × BitVec 8
  | 0, l => ((l.head?).join, 0)
  | n + 1, l => let r := treeLevel f l; let q := treeRoot f n r.1; (q.1, r.2 ||| q.2)

/-- The plan of RSUM, RMAX and RMIN: `f` combines, the root enters the accumulator. -/
def reducePlan (f : Val → Val → Val × BitVec 8) (add : Bool) (pg : Page) (e : Nat) : Plan :=
  let x := pg.elem e
  if !x.ready then .wait false
  else
    let ip := x.intPath
    let int := add && x.accIsInt
    let vs := (List.range (16 * x.pack)).map fun s => x.arg (if add then int else ip) s 0
    let fl0 := orFlags (vs.map fun v => match v with
      | some z => z.2
      | none => 0)
    let root := treeRoot f 6 (vs.map fun v => v.map Prod.fst)
    let a := accAt x.acc 0
    -- The accumulator after the root: RSUM in FP32 or INT32, RMAX and RMIN exactly.
    let r : Acc × Option Num × BitVec 8 :=
      match root.1 with
      | none => (a, (x.run.head?).join, 0)
      | some .poison => ({ a with seen := true, poison := true }, (x.run.head?).join, 0)
      | some (.num y) =>
        if add then let z := a.add int (.num y) 0; (z.1, none, z.2)
        else
          match (x.run.head?).join with
          | none => ({ a with seen := true }, some y, 0)
          | some z =>
            match f (.num z) (.num y) with
            | (.num w, fl) => ({ a with seen := true }, some w, fl)
            | (.poison, fl) => ({ a with seen := true, poison := true }, some z, fl)
    let fl := fl0 ||| root.2 ||| r.2.2
    let mets := [(4, slotsValid x (x.tok 0))]
    let a := r.1
    if x.rankIn.toNat < x.emit then
      .fire { Fire.of x.usedMask { x with acc := [a], run := [r.2.1] } [] with fl := fl, mets := mets }
    else
      let sc := if (if add then int && fmtInt x.tfmt else ip) then 127 else x.tscale
      let v : Val := if a.poison then .poison else if add then a.val int else .num (r.2.1.getD .zero)
      let z := match v with
        | .num y => convert y x.tfmt sc x.rm x.ovr
        | .poison => (0, 0)
      let o : OutTok := ⟨BitVec.ofNat 512 (if a.seen then z.1 % 2 ^ x.slotW else 0), if a.seen then 1 else 0, x.rankIn - BitVec.ofNat 3 x.emit,
        some (x.outDesc sc), x.burst, if a.poison then 1 else 0, a.poison, []⟩
      .fire { Fire.of x.usedMask { x with acc := [], run := [] } [o] with
        fl := fl ||| (if a.seen then z.2 else 0), mets := mets }

/-- RSUM's combining step in FP32. -/
def sumFp (x y : Val) : Val × BitVec 8 :=
  Val.map2 (fun a b => let z := a.add 0 b; let r := toFp32 z.1; (ofFp32 r.1, z.2 ||| r.2)) x y

/-- RSUM's combining step in INT32, modulo 2^32. -/
def sumInt (x y : Val) : Val × BitVec 8 :=
  Val.map2 (fun a b =>
    let z := Num.int a + Num.int b
    (Num.ofInt (BitVec.ofInt 32 z).toInt, if z < -2147483648 ∨ 2147483647 < z then flOvf else 0)) x y

/-- RSUM (R203). -/
def rsumPlan (pg : Page) (e : Nat) : Plan :=
  reducePlan (if (pg.elem e).accIsInt then sumInt else sumFp) true pg e
/-- RSUM: its firing. -/
def execRsum (p e : Nat) (s : State) : Res := fireOp 0x50 rsumPlan p e s
/-- RMAX (R203). -/
def rmaxPlan : Page → Nat → Plan := reducePlan (Val.map2 (pickV true false)) false
/-- RMAX: its firing. -/
def execRmax (p e : Nat) (s : State) : Res := fireOp 0x51 rmaxPlan p e s
/-- RMIN (R203). -/
def rminPlan : Page → Nat → Plan := reducePlan (Val.map2 (pickV false false)) false
/-- RMIN: its firing. -/
def execRmin (p e : Nat) (s : State) : Res := fireOp 0x52 rminPlan p e s

/-! ### Block quantisation (R198 to R200) -/

/-- A value of a held token, under the descriptor it arrived with; the firing that took it has set its flags. -/
def heldArg (x : Elem) (t : Token) (d : Desc) (s : Nat) : Option (Val × BitVec 8) :=
  if t.valid.getLsbD (s / x.pack) then
    some ((match (decodeVal (fmtOf d) (scaleOf d) false (slotBits t.data x.slotW s)).1 with
      | .num (.nan _) => .num (.nan false)
      | v => v), 0)
  else none

/-- The flags of the values that a firing of BQ takes from in0, set as it takes them (R44). -/
def bqFlags (x : Elem) (t : Token) (d : Desc) : BitVec 8 :=
  orFlags ((List.range (16 * x.pack)).map fun s =>
    if t.valid.getLsbD (s / x.pack) then
      match decodeVal (fmtOf d) (scaleOf d) false (slotBits t.data x.slotW s) with
      | (.num y, fl) => fl ||| (if y.isSnan then flInv else 0)
      | (.poison, fl) => fl
    else 0)

/-- ⌊log2⌋ of the largest finite value of a format (R199). -/
def fmtEmax (f : BitVec 8) : Int :=
  match floatFmt f with
  | some k =>
    match k.mag false k.top with
    | .fin _ n d => floorLog2 n d
    | _ => 0
  | none => 0

/-- The burst that BQ emits for its held tokens (R198, R199), each with its own RANK, and the flags of the conversion. -/
def bqBurst (x : Elem) (l : List (Token × Desc)) : List OutTok × BitVec 8 :=
  let n := 16 * x.pack
  let vals := l.flatMap fun z => (List.range n).filterMap (heldArg x z.1 z.2)
  let nums := vals.filterMap fun v => match v.1 with
    | .num y => some y
    | .poison => none
  let mags := nums.filterMap fun y => match y with
    | .fin _ a b => if a = 0 then none else some (Num.fin false a b)
    | _ => none
  let cnt := l.length - 1
  let poisoned := vals.any fun v => decide (v.1 = .poison)
  let allNan := !vals.isEmpty && nums.all Num.isNan
  let s : Nat :=
    if allNan then 255
    else
      match mags with
      | [] => x.tscale
      | m :: t =>
        match t.foldl (fun a b => if a.lt b then b else a) m with
        | .fin _ a b => (max 0 (min 254 (127 + floorLog2 a b - fmtEmax x.tfmt))).toNat
        | _ => x.tscale
  let d : Desc := if poisoned then descPoison else x.outDesc s
  let head := scaleToken (fmtOf d) (scaleOf d) cnt
  let toks := l.map fun z =>
    if poisoned then
      ((⟨0, z.1.valid, z.1.rank, some d, cnt, z.1.valid, false, []⟩ : OutTok), (0 : BitVec 8))
    else
      let r := x.laneToken d (fun k => heldArg x z.1 z.2 k)
        (fun v => if allNan then (0, 0) else convert v x.tfmt s x.rm x.ovr)
      ({ r.1 with rank := z.1.rank, blen := cnt, bad := 0, pois := false }, r.2)
  let outs := match toks with
    | [] => []
    | a :: t => { a.1 with before := [head] } :: t.map Prod.fst
  (outs, orFlags (toks.map Prod.snd))

/-- The plan of BQ: collects a burst, and emits it when it closes. -/
def bqPlan (pg : Page) (e : Nat) : Plan :=
  let x := pg.elem e
  if !x.ready then
    -- With one token missing the next firing writes the whole burst.
    .wait (decide (x.burst ≤ x.held.length) && decide (x.free 0 < x.burst + 2))
      (decide (x.emit = 0) && decide (x.held.length < x.burst))
  else
    match x.sideSwitch with
    | none => .fail 0x03
    | some (ate, x) =>
      let t := x.tok 0
      let d := x.inDesc 0 x.slotW t
      let held := x.held ++ [t]
      let ds := x.words ++ [d.zeroExtend 64]
      let m := x.amaxToken
      let fl := m.2 ||| bqFlags x t d
      let eats := 1 + if ate then 8 else 0
      let mets := [(4, slotsValid x t)]
      if held.length ≤ x.burst ∧ (x.emit = 0 ∨ t.rank.toNat < x.emit) then
        .fire { Fire.of eats { x with held := held, words := ds, amax := m.1 } [] with fl := fl, mets := mets }
      else
        let r := bqBurst x (held.zip (ds.map fun d => BitVec.ofNat 16 d.toNat))
        .fire { Fire.of eats { x with held := [], words := [], amax := m.1 } r.1 with fl := fl ||| r.2, mets := mets }

/-- BQ (R198, R199). -/
def execBq (p e : Nat) (s : State) : Res := fireOp 0x49 bqPlan p e s

/-! ### Packing (R201, R202) -/

/-- PACK gives a token's group out as POISON: its data is lost, or its format is wider than R201's 16/p bits or outside
ICLS. A burst that is POISON itself is announced so already. -/
def packBad (x : Elem) (t : Token) : Bool :=
  let f := (x.inBurst 0).fmt
  t.lost || (!x.native 0 && decide (f ≠ 0#8) && (decide (16 / x.pack < fmtBits f) || !inClass x.icls f))

/-- The token of a closed PACK group. -/
def packToken (x : Elem) (l : List Token) : OutTok :=
  let p := x.pack
  let w := x.slotW
  let slot (i : Nat) : Nat := match l[i / 16]? with
    | some t => bits t.data.toNat (32 * (i % 16)) w
    | none => 0
  let ok (i : Nat) : Bool := match l[i / 16]? with
    | some t => t.valid.getLsbD (i % 16)
    | none => false
  let valid := (List.range 16).foldl (fun (m : BitVec 16) z =>
    if (List.range p).all fun j => ok (z * p + j) then setBitTo m z true else m) 0
  let bad := l.any (packBad x)
  let rank := BitVec.ofNat 3 ((l.map fun t => t.rank.toNat).foldl Nat.max 0)
  let data := ofSlots w ((List.range (16 * p)).map slot)
  { moved (maskLanes data valid) valid rank with bad := if bad then valid else 0, pois := bad }

/-- The plan of PACK. -/
def packPlan (pg : Page) (e : Nat) : Plan :=
  let x := pg.elem e
  if !x.ready then .wait false
  else
    let t := x.tok 0
    let held := x.held ++ [t]
    let mets := [(4, popAux t.valid.toNat 16)]
    let fl := if packBad x t && decide (t.valid ≠ 0) then flPois else takenFlags t (x.inDesc 0 32 t)
    if held.length < x.pack ∧ t.rank = 0 then .fire { Fire.of 1 { x with held := held } [] with fl := fl, mets := mets }
    else .fire { Fire.of 1 { x with held := [] } [packToken x held] with fl := fl, mets := mets }

/-- PACK (R201). -/
def execPack (p e : Nat) (s : State) : Res := fireOp 0x4B packPlan p e s

/-- A position count of an operation. -/
def Elem.c (x : Elem) (k : Nat) : Nat := (x.cnt[k]?).getD 0

/-- The plan of UNPK: the input is consumed with the last of its tokens. -/
def unpkPlan (pg : Page) (e : Nat) : Plan :=
  let x := pg.elem e
  if !x.ready then .wait false
  else
    let t := x.tok 0
    let p := x.pack
    let w := x.slotW
    let k := x.c 0
    let last := decide (k + 1 = p)
    let data := ofSlots 32 ((List.range 16).map fun l => slotBits t.data w (16 * k + l))
    let valid := (List.range 16).foldl (fun (m : BitVec 16) l =>
      if t.valid.getLsbD ((16 * k + l) / p) then setBitTo m l true else m) 0
    let bad := x.moverBad t
    let o := { moved (maskLanes data valid) valid (if last then t.rank else 0) with
      bad := if bad then valid else 0, pois := bad }
    .fire { Fire.of (if last then 1 else 0) { x with cnt := if last then [] else [k + 1] } [o] with
      fl := takenFlags t (x.inDesc 0 w t), mets := [(4, slotsValid x t)] }

/-- UNPK (R202). -/
def execUnpk (p e : Nat) (s : State) : Res := fireOp 0x4C unpkPlan p e s

/-! ### Lane movement (R206 to R209) -/

/-- The plan of a mover that turns one token into one. -/
def movePlan (f : Elem → Token → Data × BitVec 16) (pg : Page) (e : Nat) : Plan :=
  let x := pg.elem e
  if !x.ready then .wait false
  else
    let t := x.tok 0
    let r := f x t
    let bad := x.moverBad t
    let o := { moved r.1 r.2 t.rank with bad := if bad then r.2 else 0, pois := bad }
    .fire { Fire.of 1 x [o] with
      out1 := if x.outs.testBit 1 then [o] else [], mets := [(4, slotsValid x t)] }

/-- PASS (R206). -/
def passPlan : Page → Nat → Plan := movePlan fun _ t => (t.data, t.valid)
/-- PASS: its firing. -/
def execPass (p e : Nat) (s : State) : Res := fireOp 0x30 passPlan p e s

/-- Every lane as the lane of one slot is. -/
def spread (b : Bool) : BitVec 16 := if b then BitVec.allOnes 16 else 0

/-- BCST (R207). -/
def bcstPlan : Page → Nat → Plan :=
  movePlan fun x t =>
    let v := slotBits t.data x.slotW (x.p 0 % 64)
    let ok := t.valid.getLsbD (x.p 0 % 64 / x.pack)
    (if ok then ofSlots x.slotW (List.replicate (16 * x.pack) v) else 0, spread ok)
/-- BCST: its firing. -/
def execBcst (p e : Nat) (s : State) : Res := fireOp 0x31 bcstPlan p e s

/-- π(l) of PERM (R208). -/
def permOf (x : Elem) (l : Nat) : Nat :=
  if l < 8 then bits (x.k 0).toNat (4 * l) 4 else bits (x.k 1).toNat (4 * (l - 8)) 4

/-- PERM (R208). -/
def permPlan : Page → Nat → Plan :=
  movePlan fun x t =>
    (ofSlots 32 ((List.range 16).map fun l => (lane t.data (permOf x l)).toNat),
      (List.range 16).foldl (fun (m : BitVec 16) l => if t.valid.getLsbD (permOf x l) then setBitTo m l true else m) 0)
/-- PERM: its firing. -/
def execPerm (p e : Nat) (s : State) : Res := fireOp 0x32 permPlan p e s

/-- The window of SLIDE from H and C, `none` for fill (R209): data and valid lanes. -/
def slideWindow (x : Elem) (h : Token) (c : Option Token) : Data × BitVec 16 :=
  let n := x.p 0
  let w := x.slotW
  let total := 16 * x.pack
  let pick (i : Nat) : Nat × Bool :=
    if i + n < total then (slotBits h.data w (i + n), h.valid.getLsbD ((i + n) / x.pack))
    else
      match c with
      | some t => (slotBits t.data w (i + n - total), t.valid.getLsbD ((i + n - total) / x.pack))
      | none => (0, !(x.p 1).testBit 0)
  let valid := (List.range 16).foldl (fun (m : BitVec 16) l =>
    if (List.range x.pack).all fun j => (pick (l * x.pack + j)).2 then setBitTo m l true else m) 0
  (maskLanes (ofSlots w ((List.range total).map fun i => (pick i).1)) valid, valid)

/-- A slide's window as it is emitted: the SCALE tokens that it first draws on in front of it, in a POISON
burst where H and C differ in format or scale. The held SCALE tokens are those before H, `cnt[0]` of them, then
those before the head of in0. -/
def slidePlan (pg : Page) (e : Nat) : Plan :=
  let x := pg.elem e
  let n := x.p 0
  let nh := x.c 0
  let mine := x.held2.take nh
  let next := x.held2.drop nh
  let hd : Desc := BitVec.ofNat 16 ((x.words.head?).getD 0).toNat
  -- The SCALE token that reopens H's burst behind a POISON burst.
  let hw := ((x.words[1]?).getD 0).toNat
  let again : List Token := match x.annc[0] with
    | some b => if b.bad && decide (b.blen = 0) then [scaleToken (BitVec.ofNat 8 hw) (BitVec.ofNat 8 (hw / 2 ^ 8)) (hw / 2 ^ 16)] else []
    | none => []
  let words (t : Token) : List Word :=
    let b := x.inBurst 0
    [(x.inDesc 0 x.slotW t).zeroExtend 64, BitVec.ofNat 64 (b.fmt.toNat + b.scale.toNat * 2 ^ 8 + b.blen * 2 ^ 16),
      if x.native 0 then 1 else 0]
  match x.held with
  | [] =>
    match x.data 0 with
    | none => .wait false true
    | some t =>
      -- The first token of a row is stored.
      .fire { Fire.of 1 { x with held := [t], words := words t, cnt := [x.held2.length] } []
        with mets := [(4, slotsValid x t)] }
  | h :: _ =>
    -- With P0 = N a window draws no slot from H.
    let ofH := decide (n < 16 * x.pack)
    -- A burst refused here is not yet announced as POISON to those behind: H's own burst, and C's.
    let bad0 := ofH && (h.lost || (decide (fmtOf hd = 0x0E#8) && decide ((x.words[2]?).getD 0 = 0)))
    if h.rank ≠ 0 then
      let r := slideWindow x h none
      let o := { moved r.1 r.2 h.rank with before := (if mine.isEmpty then again else mine), bad := if bad0 then r.2 else 0, pois := bad0 }
      .fire (Fire.of 0 { x with held := [], words := [], held2 := next, cnt := [0] } [o])
    else
      match x.data 0 with
      | none => .wait false
      | some t =>
        let cd := x.inDesc 0 x.slotW t
        let r := slideWindow x h (some t)
        let mixes := decide (0 < n) && ofH && decide (hd ≠ cd)
        let badC := decide (0 < n) && (t.lost || (decide (fmtOf cd = 0x0E#8) && !x.native 0))
        let bad := bad0 || badC || mixes
        let before := if !ofH && !next.isEmpty then next else if 0 < n then mine ++ next else mine
        let before := if before.isEmpty && !bad then again else before
        let o := { moved r.1 r.2 h.rank with before := before, bad := if bad then r.2 else 0, pois := bad }
        let x' := { x with held := [t], words := words t, held2 := if 0 < n then [] else next,
                           cnt := [if 0 < n then 0 else next.length] }
        .fire { Fire.of 1 x' [o] with mets := [(4, slotsValid x t)] }

/-- SLIDE (R209). -/
def execSlide (p e : Nat) (s : State) : Res := fireOp 0x33 slidePlan p e s

end Sys2Proof.Machine
end

