-- ==== Sys2Proof/Machine/Tables.lean ====
section
/-! DEFINITION. The algebra table that an element loads from a tile, and its read (R220, R279 to R281). -/

namespace Sys2Proof.Machine

/-- The words of a table tile: N, CONJ, METRIC and the 64 entry bytes. -/
def tableWords (t : Tile) : List (BitVec 32) :=
  let z (k : Nat) : Data := if descIsVoid (t.block k).2 then 0 else (t.block k).1
  let b0 := z 0
  let b1 := z 1
  BitVec.ofNat 32 (dataBytes b0 0 1) :: BitVec.ofNat 32 (dataBytes b0 1 1) :: BitVec.ofNat 32 (dataBytes b0 2 2)
    :: (List.range 64).map fun k => BitVec.ofNat 32 (dataBytes b1 k 1)

/-- The table is well formed for an element (R280). -/
def tableOk (x : Elem) (t : Tile) : Bool :=
  let l := tableWords t
  let w (k : Nat) : Nat := ((l[k]?).getD 0).toNat
  let n := w 0
  let d0 := (t.block 0).2
  let d1 := (t.block 1).2
  let b0 : Data := if descIsVoid d0 then 0 else (t.block 0).1
  (decide (n = 1) || decide (n = 2) || decide (n = 4) || decide (n = 8)) && !descPoisoned d0 && !descPoisoned d1
    && decide (dataBytes b0 4 60 = 0)
    && ((List.range 8).all fun k =>
        if k < n then decide (bits (w 2) (2 * k) 2 ≠ 2)
        else decide (bits (w 2) (2 * k) 2 = 0) && !(w 1).testBit k)
    && ((List.range (n * n)).all fun z =>
        let v := w (3 + z / n * 8 + z % n)
        decide (v < 32) && decide (v / 8 ≠ 2) && (decide (v / 8 = 0) || decide (v % 8 < n)))
    && decide (n ≤ 16 * x.pack)

/-- An element whose table is still to be read finds tile ATILE FULL and reads it; a malformed one marks it faulted
and fails the truss (R220, R281). -/
def State.readTable (s : State) (p e : Nat) : State :=
  let x := s.elem p e
  let algOp := decide (x.opc = 0x68) || decide (x.opc = 0x69) || decide (x.opc = 0x6A) || decide (x.opc = 0x6B)
    || decide (x.opc = 0x6C)
  if !s.fabricRuns p || decide (64 ≤ e) || x.faulted || !x.judging.isEmpty || !algOp || decide (x.alg ≠ 15) || !x.table.isEmpty then s
  else
    let t := (s.page p).tile e x.atile
    if t.state ≠ 1 then s
    else if tableOk x t then s.setElem p e { x with table := tableWords t }
    else (s.markFaulted p e).failPage p 0x03 e

/-- ALGEBRA_TABLE_READ (R220, R281). -/
def execAlgebraTableRead (p e : Nat) (s : State) : Res := .next (s.readTable p e)

end Sys2Proof.Machine
end

