-- ==== Sys2Proof/Machine/Matrix.lean ====
section
/-! DEFINITION. Algebras, their tables, the algebra operations and the matrix operations (R51, R52, R55 to R62,
R213 to R220, R275, R279 to R282). -/

namespace Sys2Proof.Machine

/-! ### Algebras (R56 to R62) -/

/-- An algebra: components, conjugation mask, metric by component, and the entry of i and j as sign and
component. -/
structure Algebra where
  /-- Components n. -/
  n : Nat
  /-- Conjugation mask. -/
  conj : Nat
  /-- Metric of each component. -/
  metric : List Int
  /-- Entries by i·8 + j. -/
  table : List (Int × Nat)
  deriving DecidableEq, Repr

/-- Sign of e_a · e_b of basis elements given as sets of generators, `sq` the squares of generators (R62): each
swap of two distinct generators negates, each equal pair gives its square. -/
def bladeSign (sq : List Int) (a b : Nat) : Int :=
  (List.range 4).foldl (fun (r : Int) g =>
    if b.testBit g then
      -- Generators of a above g are passed by e_g.
      let r := if popAux (a / 2 ^ (g + 1)) 4 % 2 = 1 then -r else r
      if a.testBit g then r * (sq[g]?).getD 0 else r
    else r) 1

/-- An algebra of basis elements given as sets of generators in ascending order. -/
def cliffordOf (blades : List Nat) (sq : List Int) (conj : Nat) (metric : List Int) : Algebra where
  n := blades.length
  conj := conj
  metric := metric
  table := (List.range 64).map fun z =>
    match blades[z / 8]?, blades[z % 8]? with
    | some a, some b => (bladeSign sq a b, blades.idxOf (a ^^^ b))
    | _, _ => (0, 0)

/-- The preset algebras (R60 to R62). -/
def preset (code : Nat) : Algebra :=
  match code with
  | 1 => cliffordOf [0, 1] [-1] 0b10 [1, 1]
  | 2 => cliffordOf [0, 1] [1] 0b10 [1, -1]
  | 3 => cliffordOf [0, 1] [0] 0b10 [1, 0]
  | 4 => cliffordOf [0, 1, 2, 3] [-1, -1] 0b1110 [1, 1, 1, 1]
  | 5 => cliffordOf [0, 1, 2, 4, 3, 5, 6, 7] [1, 1, 1] 0b11110000 [1, 1, 1, 1, 1, 1, 1, 1]
  | 6 => cliffordOf [0, 3, 5, 9, 6, 10, 12, 15] [1, -1, -1, -1] 0b01111110 [1, -1, -1, -1, 1, 1, 1, -1]
  | _ => cliffordOf [0] [] 0 [1]

/-- A 2-bit sign: 0b01 is +1, 0b11 is −1, else 0 (R56, R279). -/
def sign2 (v : Nat) : Int := if v = 1 then 1 else if v = 3 then -1 else 0

/-- The algebra that a read table stands for: its N, CONJ and METRIC words, then 64 entries. -/
def loadedAlgebra (l : List (BitVec 32)) : Algebra :=
  let w (k : Nat) : Nat := ((l[k]?).getD 0).toNat
  { n := w 0, conj := w 1, metric := (List.range 8).map fun k => sign2 (bits (w 2) (2 * k) 2),
    table := (List.range 64).map fun z => (sign2 (bits (w (3 + z)) 3 2), w (3 + z) % 8) }

/-- The element's algebra; `none` while a loaded table has not been read (R220). -/
def Elem.algebra (x : Elem) : Option Algebra :=
  if x.alg = 15 then (if x.table.isEmpty then none else some (loadedAlgebra x.table)) else some (preset x.alg)

/-- The entry of i and j. -/
def Algebra.entry (a : Algebra) (i j : Nat) : Int × Nat := (a.table[i * 8 + j]?).getD (0, 0)

/-- Σ of exact terms from +0, with the flags of the terms. -/
def foldNums : List (Num × BitVec 8) → Num × BitVec 8
  | [] => (.zero, 0)
  | t :: l =>
    let r := foldNums l
    ((t.1.add 0 r.1).1, t.2 ||| r.2)

/-- Σ of exact terms (R51, R57): +Inf and −Inf among them set INV, wherever they stand. -/
def sumNums (l : List (Num × BitVec 8)) : Num × BitVec 8 :=
  let r := foldNums l
  let has (g : Bool) : Bool := l.any fun t => decide (t.1 = .inf g)
  (r.1, r.2 ||| (if has true && has false then flInv else 0))

/-- The terms of component k of x·y (R57). -/
def Algebra.terms (a : Algebra) (x y : List Num) (k : Nat) : List (Num × BitVec 8) :=
  (List.range (a.n * a.n)).filterMap fun z =>
    let en := a.entry (z / a.n) (z % a.n)
    if en.1 = 0 ∨ en.2 ≠ k then none
    else
      let m := ((x[z / a.n]?).getD .zero).mul ((y[z % a.n]?).getD .zero)
      some (if en.1 < 0 then m.1.neg else m.1, m.2)

/-- Component k of the product of two values (R57, R218). -/
def Algebra.mul (a : Algebra) (x y : List Num) (k : Nat) : Num × BitVec 8 :=
  if (x ++ y).any Num.isNan then (.nan ((x ++ y).any Num.isSnan), 0) else sumNums (a.terms x y k)

/-- Conjugation (R59). -/
def Algebra.conjOf (a : Algebra) (x : List Num) : List Num :=
  (x.zipIdx).map fun z => if a.conj.testBit z.2 then z.1.neg else z.1

/-- The norm Σ metric_k · x_k² (R59). -/
def Algebra.norm (a : Algebra) (x : List Num) : Num × BitVec 8 :=
  sumNums ((x.zipIdx).filterMap fun z =>
    let g := (a.metric[z.2]?).getD 0
    if g = 0 then none
    else
      let m := z.1.mul z.1
      some (if g < 0 then m.1.neg else m.1, m.2))

/-- Component k of AINV (R218). -/
def Algebra.inv (a : Algebra) (x : List Num) (k : Nat) : Num × BitVec 8 :=
  if x.any Num.isNan then (.nan (x.any Num.isSnan), 0)
  else
    let n := a.norm x
    if n.1.isNan then (.nan false, n.2)
    else if n.1.isZero then (.nan false, n.2 ||| flInv)
    else
      let r := (((a.conjOf x)[k]?).getD .zero).div n.1
      (r.1, r.2 ||| n.2)

/-! ### Algebra operations on lanes (R55, R218) -/

/-- The components of the value that slot `s` belongs to; `none` where a lane of it is invalid. -/
def Elem.valueArg (x : Elem) (n s i : Nat) : Option (List Val × BitVec 8) :=
  let first := s / n * n
  let vs := (List.range n).map fun k => x.arg false (first + k) i
  vs.foldr (fun v acc =>
    match v, acc with
    | some a, some (l, fl) => some (a.1 :: l, a.2 ||| fl)
    | _, _ => none) (some ([], 0))

/-- Numbers of a list of values; `none` where one is poisoned. -/
def numsOf (l : List Val) : Option (List Num) :=
  l.foldr (fun v acc =>
    match v, acc with
    | .num y, some r => some (y :: r)
    | _, _ => none) (some [])

/-- The plan of an algebra operation: `f` gives component k from the operands' components. -/
def algPlan (two : Bool) (f : Elem → Algebra → List Num → List Num → Nat → Num × BitVec 8) (pg : Page) (e : Nat) : Plan :=
  let x := pg.elem e
  match x.algebra with
  | none => .wait false
  | some a =>
    if !x.ready then .wait false
    else
      let n := a.n
      let slot (s : Nat) : Option (Val × BitVec 8) :=
        match x.valueArg n s 0, (if two then x.valueArg n s 1 else some ([], 0)) with
        | some u, some v =>
          match numsOf u.1, numsOf v.1 with
          | some p, some q => let r := f x a p q (s % n); some (.num r.1, u.2 ||| v.2 ||| r.2)
          | _, _ => some (.poison, u.2 ||| v.2)
        | _, _ => none
      let r := x.laneToken (x.outDesc x.tscale) slot (fun v => convert v x.tfmt x.tscale x.rm x.ovr)
      let vals := (List.range (16 * x.pack / n)).countP fun v => (slot (v * n)).isSome
      .fire { Fire.of x.usedMask x [r.1] with fl := r.2, mets := if two then [(3, n * n * vals)] else [] }

/-- AMUL (R57, R218). -/
def amulPlan : Page → Nat → Plan := algPlan true fun _ a u v k => a.mul u v k
/-- AMUL: its firing. -/
def execAmul (p e : Nat) (s : State) : Res := fireOp 0x68 amulPlan p e s

/-- ACONJ (R59, R218). -/
def aconjPlan : Page → Nat → Plan :=
  algPlan false fun _ a u _ k =>
    if u.any Num.isNan then (.nan (u.any Num.isSnan), 0) else (((a.conjOf u)[k]?).getD .zero, 0)
/-- ACONJ: its firing. -/
def execAconj (p e : Nat) (s : State) : Res := fireOp 0x6A aconjPlan p e s

/-- ANORM (R59, R218): in component 0, or in every component with P0[0]. -/
def anormPlan : Page → Nat → Plan :=
  algPlan false fun x a u _ k =>
    if u.any Num.isNan then (.nan (u.any Num.isSnan), 0)
    else if k ≠ 0 ∧ !(x.p 0).testBit 0 then (.zero, 0) else a.norm u
/-- ANORM: its firing. -/
def execAnorm (p e : Nat) (s : State) : Res := fireOp 0x6B anormPlan p e s

/-- AINV (R218). -/
def ainvPlan : Page → Nat → Plan := algPlan false fun _ a u _ k => a.inv u k
/-- AINV: its firing. -/
def execAinv (p e : Nat) (s : State) : Res := fireOp 0x6C ainvPlan p e s

/-! ### Matrix operations (R214 to R219) -/

/-- What a matrix element takes one operand group from. -/
structure Group where
  /-- Its data. -/
  data : Data
  /-- The descriptor it is read under, POISON where it is not a matrix format (R214). -/
  desc : Desc
  /-- Valid lanes. -/
  valid : BitVec 16
  deriving DecidableEq, Repr

/-- One of the 32 matrix operand formats (R30). -/
def matrixFmt (f : BitVec 8) : Bool :=
  let n := f.toNat
  decide (n = 1) || decide (n = 2) || decide (n = 5) || decide (n = 6) || (decide (0x10 ≤ n) && fmtListed f)

/-- A group's descriptor as the operation reads it (R214): POISON for every format outside the 32, VOID with them,
for one wider than a slot, and for an integer format at scale 0xFF (R32). -/
def groupDesc (w : Nat) (d : Desc) : Desc :=
  if matrixFmt (fmtOf d) && decide (fmtBits (fmtOf d) ≤ w) && !descPoisoned d then d else descPoison

/-- Ring positions and group positions: [posA, ringA, posB, ringB, ringD, started]. -/
def Elem.pos (x : Elem) (k : Nat) : Nat := (x.cnt[k]?).getD 0

/-- The current tile of the A (0), B (1) or D (2) ring. -/
def Elem.ringTile (x : Elem) (k : Nat) : Nat :=
  match k with
  | 0 => x.ta + x.pos 1
  | 1 => x.tb + x.pos 3
  | _ => x.td + x.pos 4

/-- Length of a ring. -/
def Elem.ringLen (x : Elem) (k : Nat) : Nat :=
  match k with
  | 0 => x.p 2 % 8 + 1
  | 1 => bits (x.p 2) 3 3 + 1
  | _ => x.p 4 % 8 + 1

/-- Operand `k` comes from its tile ring. -/
def Elem.fromTile (x : Elem) (k : Nat) : Bool := (x.p 0).testBit k

/-- The operand group, if it is there. -/
def operandGroup (pg : Page) (e k : Nat) : Option Group :=
  let x := pg.elem e
  if x.fromTile k then
    let t := pg.tile e (x.ringTile k)
    if t.state = 1 then
      let b := t.block (x.pos (2 * k))
      some ⟨b.1, groupDesc x.slotW b.2, BitVec.allOnes 16⟩
    else none
  else (x.data k).map fun t => ⟨t.data, groupDesc x.slotW (x.inDesc k x.slotW t), t.valid⟩

/-- Slot `s` of a group as a value. -/
def Group.val (g : Group) (w : Nat) (stored : Bool) (s : Nat) : Val × BitVec 8 :=
  decodeVal (fmtOf g.desc) (scaleOf g.desc) stored (slotBits g.data w s)

/-- Component values of A[i][k] or B[k][j], `row` the one of i and j; `none` where a lane of the value is invalid
(R55, R214, R219). A value of a POISON group has none to give, and stands as zeros. -/
def Group.value (g : Group) (pack n row k G : Nat) (stored : Bool) : Option (List Num) :=
  let first := (row * G + k) * n
  if (List.range n).all fun c => g.valid.getLsbD ((first + c) / pack) then
    some ((List.range n).map fun c =>
      match (g.val (32 / pack) stored (first + c)).1 with
      | .num y => y
      | .poison => .zero)
  else none

/-- Some lane of the group is valid. -/
def Group.any (g : Group) : Bool := decide (g.valid ≠ 0)

/-- 8-bit integer operand. -/
def byteInt (f : BitVec 8) : Bool := decide (f = 1#8) || decide (f = 2#8)

/-- binary8 operand. -/
def isBin8 (f : BitVec 8) : Bool := decide (0x10 ≤ f.toNat) && fmtListed f

/-- Converts INT32 accumulators to FP32 (R215). -/
def accsToFp (l : List Acc) : List Acc × BitVec 8 :=
  let r := l.map fun a => let z := toFp32 (Num.ofInt a.bits.toInt); ({ a with bits := z.1 }, z.2)
  (r.map Prod.fst, orFlags (r.map Prod.snd))

/-- The load of tile TC by MMAZ (R216): accumulators and flags. -/
def loadC (t : Tile) (int : Bool) : List Acc × BitVec 8 :=
  let r := (List.range 256).map fun z =>
    let b := t.block (z / 16)
    let f := fmtOf b.2
    let raw := dataBytes b.1 (4 * (z % 16)) 4
    if f = 0#8 then (Acc.zero, flDisc)
    else if f = 7#8 ∨ f = 4#8 then
      match (decodeVal f (scaleOf b.2) false raw).1 with
      | .num y =>
        if int then let c := convert y 4#8 127 0 0; (⟨BitVec.ofNat 32 c.1, false, false⟩, c.2)
        else let c := toFp32 y; (⟨c.1, false, false⟩, c.2)
      | .poison => (⟨0, false, true⟩, flPois)
    else (⟨0, false, true⟩, flPois)
  (r.map Prod.fst, orFlags (r.map Prod.snd))

/-- One accumulator component after a group (R51, R52, R58, R215). -/
def accGroup (a : Algebra) (int : Bool) (old : Acc) (prods : List (List Num × List Num)) (k : Nat) : Acc × BitVec 8 :=
  if int then
    let z := (prods.map fun q => Num.int ((q.1.head?).getD .zero) * Num.int ((q.2.head?).getD .zero)).sum
    let t := old.bits.toInt + z
    ({ old with bits := BitVec.ofInt 32 t }, if t < -2147483648 ∨ 2147483647 < t then flOvf else 0)
  else
    let g := sumNums (prods.flatMap fun q => a.terms q.1 q.2 k)
    let s := (ofFp32 old.bits).add 0 g.1
    let c := toFp32 s.1
    ({ old with bits := c.1 }, g.2 ||| s.2 ||| c.2)

/-- The group position and ring after a group of operand `k`, and the tile it releases. -/
def advanceRing (pg : Page) (e k : Nat) (cnt : List Nat) : List Nat × List (Nat × Tile) :=
  let x := pg.elem e
  if x.fromTile k then
    let n := (if k = 0 then x.p 1 % 64 else bits (x.p 1) 6 6) + 1
    let q := x.pos (2 * k) + 1
    if q < n then (cnt.set (2 * k) q, [])
    else
      let c := (cnt.set (2 * k) 0).set (2 * k + 1) ((x.pos (2 * k + 1) + 1) % x.ringLen k)
      let t := x.ringTile k
      (c, if (x.p 0).testBit (2 + k) then [(t, { pg.tile e t with state := 0 })] else [])
  else (cnt, [])

/-- The scale of an emission (R216); INT32 results in an integer TFMT stand at unit scale (R41). -/
def emitScale (x : Elem) (int : Bool) : Nat := if int && fmtInt x.tfmt then 127 else x.tscale

/-- The results of an emission, `none` for a poisoned one, and the flags of their conversion. -/
def emitCodes (x : Elem) (accs : List Acc) (int : Bool) : List (Option Nat) × BitVec 8 :=
  let sc := emitScale x int
  let r := accs.map fun a =>
    match a.val int with
    | .poison => ((none : Option Nat), (0 : BitVec 8))
    | .num y => let c := convert y x.tfmt sc x.rm x.ovr; (some c.1, c.2)
  (r.map Prod.fst, orFlags (r.map Prod.snd))

/-- The tokens of an emission on out0 (R216, R219, R275). -/
def emitTokens (x : Elem) (int : Bool) (codes : List (Option Nat)) (rank : BitVec 3) : List OutTok :=
  let d := x.outDesc (emitScale x int)
  (List.range 16).map fun t =>
    let cs := (codes.drop (16 * t)).take 16
    let valid := BitVec.ofNat 16 (ones cs.length)
    let bad := ((cs.zipIdx).foldl (fun (m : BitVec 16) z => if z.1.isNone then setBitTo m z.2 true else m) 0)
    ⟨ofSlots 32 (cs.map fun c => c.getD 0), valid, if t = 15 then rank else 0, some d, 15, bad, decide (bad ≠ 0),
      if t = 0 then [scaleToken (fmtOf d) (scaleOf d) 15] else []⟩

/-- The largest RANK of the operands that come as tokens (R215). -/
def Elem.tokenRank (x : Elem) : Nat :=
  Nat.max (if x.fromTile 0 then 0 else (x.tok 0).rank.toNat) (if x.fromTile 1 then 0 else (x.tok 1).rank.toNat)

/-- Does the operation write C to its D ring? -/
def Elem.writesD (x : Elem) : Bool :=
  decide (x.opc = 0x60) || decide (x.opc = 0x62) || (decide (x.opc = 0x69) && decide (x.outs = 0))

/-- The operation sends a token for a written C (R216). -/
def Elem.tellsD (x : Elem) : Bool := x.outs.testBit 0 && decide (x.opc ≠ 0x69)

/-- A writing of C as it waits in the element: the tile with the RANK of its token and the descriptor, then each
result with 1 where it is poisoned. -/
def pendingC (tile : Nat) (rank : BitVec 3) (d : Desc) (codes : List (Option Nat)) : List (Nat × Nat) :=
  (tile * 8 + rank.toNat, d.toNat) :: codes.map fun c => match c with
    | some v => (v, 0)
    | none => (0, 1)

/-- The tile that the writing of C in progress goes to. -/
def Elem.targetC (x : Elem) : Nat := ((x.cRows.head?).map Prod.fst).getD 0 / 8

/-- The results of a writing of C. -/
def codesOf (l : List (Nat × Nat)) : List (Option Nat) := l.map fun z => if z.2 = 0 then some z.1 else none

/-- The plan of a matrix operation: one operand group a firing (R213 to R216, R219). A POISON group poisons the
accumulators that a pair of its valid values reaches. -/
def matrixPlan (pg : Page) (e : Nat) : Plan :=
  let x := pg.elem e
  match (if x.opc = 0x69 then x.algebra else some (preset 0)) with
  | none => .wait false
  | some alg =>
    if !x.cRows.isEmpty then
      -- A writing of C is in progress.
      if (pg.tile e x.targetC).state = 0 then .wait true else .blocked
    else
      -- With its tokens here and only a tile missing, the firing to come is known to emit or not.
      let here := (x.fromTile 0 || (x.data 0).isSome) && (x.fromTile 1 || (x.data 1).isSome)
      let missing : Plan :=
        let full := if x.writesD then decide ((pg.tile e (x.ringTile 2)).state ≠ 0) || (x.tellsD && decide (x.free 0 = 0))
          else decide (x.free 0 < 17)
        .wait (full && (decide (x.emit = 0) || (here && decide (x.emit ≤ x.tokenRank))))
          (here && decide (x.tokenRank < x.emit))
      match operandGroup pg e 0, operandGroup pg e 1 with
      | some A, some B =>
        let first := decide (x.pos 5 = 0)
        let tc := pg.tile e x.tc
        if x.opc = 0x62 ∧ first = true ∧ tc.state ≠ 1 then missing
        else
          let n := alg.n
          let G := x.pack
          let R := 16 / n
          let ints := byteInt (fmtOf A.desc) && byteInt (fmtOf B.desc) && decide (x.opc ≠ 0x69)
          let int := if first then ints else x.accInt && ints
          -- The accumulators before the group, in the type it leaves them.
          let size := R * R * n
          let start : List Acc × BitVec 8 :=
            if first then (if x.opc = 0x62 then loadC tc int else (List.replicate size Acc.zero, 0))
            else if x.accInt && !int then accsToFp x.acc else (x.acc, 0)
          let bad := decide (fmtOf A.desc = 0x0E#8) || decide (fmtOf B.desc = 0x0E#8)
          let av := (List.range R).map fun i => (List.range G).map fun g => A.value G n i g G int
          let bv := (List.range R).map fun j => (List.range G).map fun g => B.value G n j g G int
          let upd := (start.1.zipIdx).map fun z =>
            let i := z.2 / n / R
            let j := z.2 / n % R
            let prods := ((((av[i]?).getD []).zip ((bv[j]?).getD [])).filterMap fun q =>
              match q.1, q.2 with
              | some u, some v => some (u, v)
              | _, _ => none)
            if prods.isEmpty then (z.1, 0)
            else if bad then ({ z.1 with poison := true }, 0)
            else accGroup alg int z.1 prods (z.2 % n)
          let accs := upd.map Prod.fst
          let fl := start.2 ||| orFlags (upd.map Prod.snd)
            ||| (if (A.any && decide (fmtOf A.desc = 0x0E#8)) || (B.any && decide (fmtOf B.desc = 0x0E#8)) then flPois else 0)
          -- Products with both operands valid (R393).
          let vcount (l : List (List (Option (List Num)))) (g : Nat) : Nat := l.countP fun r => ((r[g]?).join).isSome
          let prods := ((List.range G).map fun g => vcount av g * vcount bv g).sum
          let met :=
            if x.opc = 0x69 then (3, n * n * prods)
            else if isBin8 (fmtOf A.desc) && isBin8 (fmtOf B.desc) then (0, prods)
            else if ints then (1, prods) else (2, prods)
          let c0 := (List.range 6).map x.pos
          let ra := advanceRing pg e 0 c0
          let rb := advanceRing pg e 1 ra.1
          let tiles := ra.2 ++ rb.2 ++ (if x.opc = 0x62 ∧ first = true then [(x.tc, { tc with state := 0 })] else [])
          let eats := (if x.fromTile 0 then 0 else 1) + (if x.fromTile 1 then 0 else 2)
          let rank := x.tokenRank
          if rank < x.emit then
            .fire { Fire.of eats { x with acc := accs, accInt := int, cnt := rb.1.set 5 1 } [] with fl := fl, tiles := tiles, mets := [met] }
          else
            let out : BitVec 3 := BitVec.ofNat 3 (rank - x.emit)
            let r := emitCodes x accs int
            if x.writesD then
              -- The firing waits for the tile that C goes to and for the place of its token (R213, R249).
              if (pg.tile e (x.ringTile 2)).state ≠ 0 ∨ (x.tellsD = true ∧ x.free 0 = 0) then .blocked
              else
                .fire { Fire.of eats { x with
                    acc := [], accInt := false, cnt := (rb.1.set 5 0).set 4 ((x.pos 4 + 1) % x.ringLen 2),
                    cRows := pendingC (x.ringTile 2) out (x.outDesc (emitScale x int)) r.1 } [] with
                  fl := fl ||| r.2, tiles := tiles, mets := [met] }
            else
              .fire { Fire.of eats { x with acc := [], accInt := false, cnt := rb.1.set 5 0 } (emitTokens x int r.1 out) with
                fl := fl ||| r.2, tiles := tiles, mets := [met] }
      | _, _ => missing

/-- MMA (R215). -/
def execMma (p e : Nat) (s : State) : Res := fireOp 0x60 matrixPlan p e s
/-- MMAO (R215, R216). -/
def execMmao (p e : Nat) (s : State) : Res := fireOp 0x61 matrixPlan p e s
/-- MMAZ (R215, R216). -/
def execMmaz (p e : Nat) (s : State) : Res := fireOp 0x62 matrixPlan p e s
/-- AMMA (R219). -/
def execAmma (p e : Nat) (s : State) : Res := fireOp 0x69 matrixPlan p e s

/-- The blocks of a tile that a writing of C leaves: results at byte s·w under the descriptor, POISON with zero
data where a result is poisoned, every other block VOID (R216). -/
def tileOfC (w : Nat) (d : Desc) (codes : List (Option Nat)) : FMap (Data × Desc) :=
  let per := 64 / w
  (List.range ((codes.length + per - 1) / per)).map fun b =>
    let cs := (codes.drop (per * b)).take per
    if cs.any Option.isNone then (b, (0, descPoison)) else (b, (ofSlots (8 * w) (cs.map fun c => c.getD 0), d))

/-- MMA_TILE_WRITE: the C of an emission is written into the D-ring tile that it took, the tile is FULL, and the token
of out0 follows (R216, R219). -/
def execMmaTileWrite (p e : Nat) (s : State) : Res :=
  let x := s.elem p e
  match x.cRows with
  | [] => .next s
  | (head, d) :: codes =>
    let t := x.targetC
    let old := (s.page p).tile e t
    if !s.elemLive p e x.opc || !x.writesD || decide (old.state ≠ 0) || (x.tellsD && decide (x.free 0 = 0)) then .next s
    else
      let d : Desc := BitVec.ofNat 16 d
      let blocks := (tileOfC (fmtBytes (fmtOf d)) d (codesOf codes)).filter fun b => decide (b.2 ≠ (0, 0x7F00#16))
      let tok := dataToken (BitVec.ofNat 512 t) 1 (BitVec.ofNat 3 (head % 8))
      let x' := { x with
        cRows := [],
        q0 := if x.tellsD then x.q0 ++ [tok] else x.q0 }
      let s := s.setElem p e x'
      .next (s.setPage p ((s.page p).setTile e t ⟨1, blocks⟩))

end Sys2Proof.Machine
end

