-- ==== Sys2Proof/Machine/ElemFlow.lean ====
section
/-! DEFINITION. Filters, markers and plate operations of elements, and CMD (R213, R221 to R231, R238). -/

namespace Sys2Proof.Machine

/-- A token moved from in0, in a POISON burst of its own where in0's class or width asks for it. -/
def movedFrom (x : Elem) (t : Token) (data : Data) (valid : BitVec 16) (rank : BitVec 3) : OutTok :=
  let bad := x.moverBad t
  { moved data valid rank with bad := if bad then valid else 0, pois := bad }

/-- A mask of the lanes that a test keeps. -/
def laneMask (f : Nat → Bool) : BitVec 16 :=
  (List.range 16).foldl (fun (m : BitVec 16) l => if f l then setBitTo m l true else m) 0

/-! ### FILT, CMPT, CNT, MRK, STRIP -/

/-- The plan of FILT (R221). A predicate that is a signalling NaN is false and sets no INV (DESIGN CHOICE, log 114). -/
def filtPlan (pg : Page) (e : Nat) : Plan :=
  let x := pg.elem e
  if !x.ready then .wait false
  else
    let t := x.tok 0
    let byTok := decide (x.p 0 = 0)
    let d1 := x.inDesc 1 x.slotW (x.tok 1)
    let p1 := byTok && decide (fmtOf d1 = 0x0E#8)
    let pred (l : Nat) : Val × BitVec 8 :=
      decodeVal (fmtOf d1) (scaleOf d1) false (slotBits (x.tok 1).data x.slotW (l * x.pack))
    let keep (l : Nat) : Bool :=
      if byTok then
        (x.tok 1).valid.getLsbD l && (match (pred l).1 with
          | .num v => !(v.isZero || v.isNan)
          | .poison => false)
      else (x.k 0).getLsbD l
    let valid := if p1 then t.valid else t.valid &&& laneMask keep
    let fl := takenFlags t (x.inDesc 0 x.slotW t) ||| (if p1 then flPois else 0)
      ||| (if byTok then takenFlags (x.tok 1) d1 else 0)
    let rank := x.rankIn
    let o := movedFrom x t (maskLanes t.data valid) valid rank
    let o := if p1 then { o with data := t.data, bad := 0, pois := true } else o
    let drop := (x.p 1).testBit 0 && decide (valid = 0) && decide (rank = 0)
    .fire { Fire.of x.usedMask x (if drop then [] else [o]) with fl := fl }

/-- FILT (R221). -/
def execFilt (p e : Nat) (s : State) : Res := fireOp 0x80 filtPlan p e s

/-- CMPT's appends: the held lanes, full tokens out. -/
def cmptFill : List (BitVec 32) → List (BitVec 32) → List (List (BitVec 32)) → List (BitVec 32) × List (List (BitVec 32))
  | [], h, out => (h, out)
  | v :: l, h, out => if h.length = 15 then cmptFill l [] (out ++ [h ++ [v]]) else cmptFill l (h ++ [v]) out

/-- The held lanes of CMPT. -/
def cmptHeld (x : Elem) : List (BitVec 32) :=
  match x.held with
  | [] => []
  | t :: _ => (List.range (popAux t.valid.toNat 16)).map fun l => lane t.data l

/-- A token of packed lanes. -/
def lanesToken (l : List (BitVec 32)) (rank : BitVec 3) : Token :=
  dataToken (ofSlots 32 (l.map BitVec.toNat)) (BitVec.ofNat 16 (ones l.length)) rank

/-- The plan of CMPT (R222). -/
def cmptPlan (pg : Page) (e : Nat) : Plan :=
  let x := pg.elem e
  if !x.ready then .wait false
  else
    let t := x.tok 0
    let lanes := ((List.range 16).filter fun l => t.valid.getLsbD l).map fun l => lane t.data l
    let r := cmptFill lanes (cmptHeld x) []
    let hadBad := decide (x.c 0 = 1)
    let bad := x.moverBad t || hadBad
    let out (l : List (BitVec 32)) (rank : BitVec 3) : OutTok :=
      let k := lanesToken l rank
      { moved k.data k.valid rank with bad := if bad then k.valid else 0, pois := bad && !l.isEmpty }
    let outs : List OutTok × List (BitVec 32) :=
      if t.rank = 0 then (r.2.map fun l => out l 0, r.1)
      else if !r.1.isEmpty then ((r.2.map fun l => out l 0) ++ [out r.1 t.rank], [])
      else if !lanes.isEmpty ∧ !r.2.isEmpty then
        -- The last append filled H: it carries the RANK.
        ((r.2.dropLast.map fun l => out l 0) ++ [out ((r.2.getLast?).getD []) t.rank], [])
      else ([out [] t.rank], [])
    let held := if outs.2.isEmpty then [] else [lanesToken outs.2 0]
    .fire { Fire.of 1 { x with held := held, cnt := if bad && !outs.2.isEmpty then [1] else [] } outs.1 with
      fl := takenFlags t (x.inDesc 0 x.slotW t) }

/-- CMPT (R222). -/
def execCmpt (p e : Nat) (s : State) : Res := fireOp 0x81 cmptPlan p e s

/-- Token `t` of CNT's run over n values from a in steps of d, L to a token (R223), with the bound's RANK. -/
def cntToken (x : Elem) (n : Nat) (a d : BitVec 32) (r : BitVec 3) (t : Nat) : OutTok :=
  let L := x.p 0 % 16 + 1
  let vals := (List.range (Nat.min L (n - t * L))).map fun l => (a + BitVec.ofNat 32 (t * L + l) * d).toNat
  let last := decide (n ≤ (t + 1) * L)
  announced x (ofSlots 32 vals) (BitVec.ofNat 16 (ones vals.length)) (if last then BitVec.ofNat 3 (Nat.min 7 (r.toNat + 1)) else 0)
    (mkDesc 0x7F#8 0x04#8)

/-- The plan of CNT: a bound starts a run, whose tokens leave one a firing (R223). -/
def cntPlan (pg : Page) (e : Nat) : Plan :=
  let x := pg.elem e
  let L := x.p 0 % 16 + 1
  let w (k : Nat) : Word := (x.words[k]?).getD 0
  let go (eats : Nat) (n : Nat) (a d : BitVec 32) (r : BitVec 3) (t : Nat) (fl : BitVec 8) : Plan :=
    let x' := { x with words := if n ≤ (t + 1) * L then [] else
      [BitVec.ofNat 64 n, a.zeroExtend 64, d.zeroExtend 64, r.zeroExtend 64, BitVec.ofNat 64 (t + 1)] }
    .fire { Fire.of eats x' [cntToken x n a d r t] with fl := fl }
  if !x.words.isEmpty then
    go 0 (w 0).toNat ((w 1).truncate 32) ((w 2).truncate 32) ((w 3).truncate 3) (w 4).toNat 0
  else if !x.ready then .wait false
  else
    let t := x.tok 0
    let own := decide (x.p 1 % 2 = 0)
    let arg (l : Nat) (dflt : BitVec 32) : BitVec 32 :=
      if own then (if t.valid.getLsbD l then lane t.data l else dflt) else x.k l
    let mark : OutTok := announced x 0 0 (BitVec.ofNat 3 (Nat.min 7 (t.rank.toNat + 1))) (mkDesc 0x7F#8 0x04#8)
    if own ∧ fmtOf (x.inDesc 0 32 t) = 0x0E#8 then
      .fire { Fire.of 1 x [{ mark with pois := true }] with fl := flPois }
    else
      let n := arg 0 0
      let neg := decide (n.toInt < 0)
      if neg ∨ n = 0 then .fire { Fire.of 1 x [mark] with fl := if neg then flSat else 0 }
      else go 1 n.toNat (arg 1 0) (arg 2 1) t.rank 0 0

/-- CNT (R223). -/
def execCnt (p e : Nat) (s : State) : Res := fireOp 0x88 cntPlan p e s

/-- The plan of MRK (R224). -/
def mrkPlan (pg : Page) (e : Nat) : Plan :=
  let x := pg.elem e
  if !x.ready then .wait false
  else
    let t := x.tok 0
    let m1 := x.p 1 % 8
    let c := if t.valid = 0 then x.c 0 else x.c 0 + 1
    let full := decide (t.valid ≠ 0) && decide (x.p 0 ≤ c)
    let rank := if full then Nat.max t.rank.toNat m1 else t.rank.toNat
    let c := if full ∨ m1 ≤ t.rank.toNat then 0 else c
    let o := movedFrom x t t.data t.valid (BitVec.ofNat 3 rank)
    .fire { Fire.of 1 { x with cnt := [c] } [o] with fl := takenFlags t (x.inDesc 0 x.slotW t) }

/-- MRK (R224). -/
def execMrk (p e : Nat) (s : State) : Res := fireOp 0x89 mrkPlan p e s

/-- The plan of STRIP (R225). -/
def stripPlan (pg : Page) (e : Nat) : Plan :=
  let x := pg.elem e
  if !x.ready then .wait false
  else
    let t := x.tok 0
    let rank : BitVec 3 := if t.rank.toNat ≤ x.p 0 % 8 then 0 else t.rank
    let o := movedFrom x t t.data t.valid rank
    let drop := decide (t.valid = 0) && decide (rank = 0)
    .fire { Fire.of 1 x (if drop then [] else [o]) with fl := takenFlags t (x.inDesc 0 x.slotW t) }

/-- STRIP (R225). -/
def execStrip (p e : Nat) (s : State) : Res := fireOp 0x8A stripPlan p e s

/-! ### ZIP and UNZP -/

/-- Output token `u` of a zipped pair (R226). -/
def zipToken (x : Elem) (a b : Token) (u : Nat) : Data × BitVec 16 :=
  let n := 16 * x.pack
  let w := x.slotW
  let src (o : Nat) : Nat := u * n / 2 + o / 2
  let pick (o : Nat) : Nat := slotBits (if o % 2 = 0 then a.data else b.data) w (src o)
  let ok (o : Nat) : Bool := (if o % 2 = 0 then a.valid else b.valid).getLsbD (src o / x.pack)
  let valid := laneMask fun l => (List.range x.pack).all fun j => ok (l * x.pack + j)
  (maskLanes (ofSlots w ((List.range n).map pick)) valid, valid)

/-- The plan of ZIP: the pair is consumed on the first of its two firings (R226). -/
def zipPlan (pg : Page) (e : Nat) : Plan :=
  let x := pg.elem e
  let out (a b : Token) (u : Nat) (rank : BitVec 3) (bad : Bool) : OutTok :=
    let r := zipToken x a b u
    if bad then ⟨r.1, r.2, rank, some descPoison, 1, r.2, false, []⟩ else moved r.1 r.2 rank
  match x.held with
  | a :: b :: _ =>
    let rank := if a.rank.toNat < b.rank.toNat then b.rank else a.rank
    .fire (Fire.of 0 { x with held := [], cnt := [] } [out a b 1 rank (decide (x.c 0 = 1))])
  | _ =>
    if !x.ready then .wait false
    else
      let a := x.tok 0
      let b := x.tok 1
      let d0 := x.inDesc 0 x.slotW a
      let bad := decide (d0 ≠ x.inDesc 1 x.slotW b) || x.moverBad a
      .fire (Fire.of 3 { x with held := [a, b], cnt := [if bad then 1 else 0] } [out a b 0 0 bad])

/-- ZIP (R226). -/
def execZip (p e : Nat) (s : State) : Res := fireOp 0x90 zipPlan p e s

/-- One output of UNZP: even slots for `o` = 0, odd for 1, of a first and perhaps a second token (R227). -/
def unzipToken (x : Elem) (a : Token) (b : Option Token) (o : Nat) : Data × BitVec 16 :=
  let n := 16 * x.pack
  let w := x.slotW
  let pick (k : Nat) : Nat × Bool :=
    let t := if k < n / 2 then some a else b
    let q := 2 * (k % (n / 2)) + o
    match t with
    | some t => (slotBits t.data w q, t.valid.getLsbD (q / x.pack))
    | none => (0, false)
  let valid := laneMask fun l => (List.range x.pack).all fun j => (pick (l * x.pack + j)).2
  (maskLanes (ofSlots w ((List.range n).map fun k => (pick k).1)) valid, valid)

/-- The plan of UNZP (R227). A SCALE token between the two of a pair goes on at once, and the pair is emitted after it
(DESIGN CHOICE, log 114). -/
def unzpPlan (pg : Page) (e : Nat) : Plan :=
  let x := pg.elem e
  if !x.ready then .wait false
  else
    let t := x.tok 0
    let close (a : Token) (b : Option Token) (bad : Bool) : Plan :=
      let rank := match b with
        | some c => if a.rank.toNat < c.rank.toNat then c.rank else a.rank
        | none => a.rank
      let out (o : Nat) : OutTok :=
        let r := unzipToken x a b o
        { moved r.1 r.2 rank with bad := if bad then r.2 else 0, pois := bad }
      .fire { Fire.of 1 { x with held := [], cnt := [] } [out 0] with out1 := [out 1] }
    match x.held with
    | a :: _ => close a (some t) (x.moverBad t || decide (x.c 0 = 1))
    | [] =>
      if t.rank ≠ 0 then close t none (x.moverBad t)
      else
        .fire (Fire.of 1 { x with held := [t], cnt := [if x.moverBad t then 1 else 0] } [])

/-- UNZP (R227). -/
def execUnzp (p e : Nat) (s : State) : Res := fireOp 0x91 unzpPlan p e s

/-! ### Plate operations -/

/-- Length of the run of consecutive blocks with one descriptor, from block `b` to below `stop`. -/
def runLen (t : Tile) (d : Desc) : Nat → Nat → Nat
  | 0, _ => 0
  | n + 1, b => if (t.block b).2 = d then 1 + runLen t d n (b + 1) else 0

/-- The plan of PLD: one block a firing; the trigger is consumed with the last (R228). `cnt` holds the blocks of
the pass emitted and the ring position. -/
def pldPlan (pg : Page) (e : Nat) : Plan :=
  let x := pg.elem e
  let tn := x.ta + x.c 1
  let tile := pg.tile e tn
  let b0 := x.p 0 % 64
  let k := x.c 0
  let b := tile.block (b0 + k)
  let starts := decide (k = 0) || decide ((tile.block (b0 + k - 1)).2 ≠ b.2)
  if !x.ready || decide (tile.state ≠ 1) then .wait (decide (x.free 0 < if starts then 2 else 1))
  else
    let t := x.tok 0
    let count := x.p 1 % 64 + 1
    let run := runLen tile b.2 (count - k) (b0 + k)
    let last := decide (k + 1 = count)
    let rel := last && (x.p 3).testBit 0
    let rank : BitVec 3 := if last then BitVec.ofNat 3 (Nat.min 7 (t.rank.toNat + 1)) else 0
    let o : OutTok := ⟨b.1, BitVec.allOnes 16, rank, some b.2, run - 1, 0, false,
      if starts then [scaleToken (fmtOf b.2) (scaleOf b.2) (run - 1)] else []⟩
    let ring := if rel then (x.c 1 + 1) % (x.p 2 % 8 + 1) else x.c 1
    .fire { Fire.of (if last then 1 else 0) { x with cnt := [if last then 0 else k + 1, ring] } [o] with
      tiles := if rel then [(tn, { tile with state := 0 })] else [] }

/-- PLD (R228). -/
def execPld (p e : Nat) (s : State) : Res := fireOp 0xA0 pldPlan p e s

/-- A token as a block of plate: a lane not valid leaves zero bytes (R229, R230). -/
def plateBlock (x : Elem) (t : Token) : Data × Desc :=
  (maskLanes t.data t.valid, storedDesc (x.inDesc 0 x.slotW t))

/-- The plan of PST: `cnt` holds the blocks written in the pass and the ring position (R229). -/
def pstPlan (pg : Page) (e : Nat) : Plan :=
  let x := pg.elem e
  let tn := x.ta + x.c 1
  let tile := pg.tile e tn
  let ready := decide (tile.state = 0)
  if !x.ready then .wait (!ready) (decide (x.emit = 0) && decide (x.c 0 < x.p 1 % 64))
  else if !ready then .blocked
  else
    let t := x.tok 0
    let b0 := x.p 0 % 64
    let k := x.c 0
    let q := x.emit
    let byRank := decide (1 ≤ q) && decide (q ≤ t.rank.toNat)
    let close := decide (k = x.p 1 % 64) || byRank
    let tile' := tile.setBlock (b0 + k) (plateBlock x t)
    let fl := takenFlags t (x.inDesc 0 x.slotW t)
    if !close then .fire { Fire.of 1 { x with cnt := [k + 1, x.c 1] } [] with tiles := [(tn, tile')], fl := fl }
    else
      let mine := tile'.blocks.filter fun b => decide (b0 ≤ b.1) && decide (b.1 ≤ b0 + k)
      let rank : BitVec 3 := if byRank then t.rank - BitVec.ofNat 3 q else 0
      let o := moved (ofSlots 32 [tn, k + 1]) 3 rank
      .fire { Fire.of 1 { x with cnt := [0, (x.c 1 + 1) % (x.p 2 % 8 + 1)] } (if x.outs.testBit 0 then [o] else []) with
        tiles := [(tn, ⟨1, mine⟩)], fl := fl }

/-- PST (R229). -/
def execPst (p e : Nat) (s : State) : Res := fireOp 0xA1 pstPlan p e s

/-- Tile and block of LBUF's buffer block. -/
def lbufAt (x : Elem) (k : Nat) : Nat × Nat := (x.ta + k / 64, k % 64)

/-- The plan of LBUF: `cnt` holds the column, the line and whether the tiles have been taken; `words` holds for
each buffer block the line it was written with, plus one (R230). -/
def lbufPlan (pg : Page) (e : Nat) : Plan :=
  let x := pg.elem e
  let tiles := (List.range (x.tb - x.ta + 1)).map fun k => x.ta + k
  let begun := decide (x.c 2 = 1)
  let empty := tiles.all fun k => decide ((pg.tile e k).state = 0)
  let full := tiles.all fun k => decide ((pg.tile e k).state = 1)
  if !x.ready then .wait ((!begun && !empty) || decide (x.free 0 < x.p 1 % 8 + 1))
  else if begun && !full then .fault
  else if !begun && !empty then .blocked
  else
    let t := x.tok 0
    let D := x.p 1 % 8 + 1
    let pitch := x.p 0
    let c := x.c 0
    let y := x.c 1
    let d0 := x.inDesc 0 x.slotW t
    let slotOf (line : Nat) : Nat := line % (D - 1) * pitch + c
    let tap (j : Nat) : OutTok :=
      let back := D - j
      let k := slotOf (y - back)
      let have_ := decide (back ≤ y) && decide ((x.words[k]?).getD 0 = BitVec.ofNat 64 (y - back + 1))
      let z := lbufAt x k
      let b := (pg.tile e z.1).block z.2
      if have_ then ⟨b.1, BitVec.allOnes 16, 0, some b.2, D - 1, 0, false, []⟩
      else ⟨0, if (x.p 3).testBit 0 then 0 else BitVec.allOnes 16, 0, some d0, D - 1, 0, false, []⟩
    let cur : OutTok := ⟨t.data, t.valid, BitVec.ofNat 3 (Nat.min 7 (t.rank.toNat + 1)), some d0, D - 1, 0, false, []⟩
    let taps := ((List.range (D - 1)).map fun j => tap (j + 1)) ++ [cur]
    let k := slotOf y
    let z := lbufAt x k
    let reset := decide (1 ≤ x.emit) && decide (x.emit ≤ t.rank.toNat)
    let wrap := decide (c = x.p 2)
    let words := if x.words.length ≤ k then x.words ++ List.replicate (k + 1 - x.words.length) 0 else x.words
    let x' := { x with
      cnt := [if reset || wrap then 0 else c + 1, if reset then 0 else if wrap then y + 1 else y, 1],
      words := if reset then [] else words.set k (BitVec.ofNat 64 (y + 1)) }
    let put (n : Nat) : Tile :=
      let q := { pg.tile e n with state := 1 }
      if n = z.1 then q.setBlock z.2 (plateBlock x t) else q
    .fire { Fire.of 1 x' taps with
      tiles := (if begun then [z.1] else tiles).map fun n => (n, put n),
      fl := takenFlags t d0 }

/-- LBUF (R230). -/
def execLbuf (p e : Nat) (s : State) : Res := fireOp 0xA2 lbufPlan p e s

/-- The plan of TFLIP: `cnt` holds the ring position (R231). -/
def tflipPlan (pg : Page) (e : Nat) : Plan :=
  let x := pg.elem e
  let tn := x.ta + x.c 0
  let tile := pg.tile e tn
  let toFull := decide (x.p 0 % 2 = 0)
  let ok := decide (tile.state = if toFull then 0 else 1)
  if !x.ready then .wait (toFull && !ok)
  else if !ok then (if toFull then .blocked else .wait false)
  else
    let t := x.tok 0
    .fire { Fire.of 1 { x with cnt := [(x.c 0 + 1) % (x.p 2 % 8 + 1)] }
        (if x.outs.testBit 0 then [moved t.data t.valid t.rank] else []) with
      tiles := [(tn, { tile with state := if toFull then 1 else 0 })] }

/-- TFLIP (R231). -/
def execTflip (p e : Nat) (s : State) : Res := fireOp 0xA3 tflipPlan p e s

/-! ### CMD (R238) -/

/-- The COMMAND token of a CMD firing: VOID reads as index 0. -/
def cmdToken (x : Elem) (t : Token) : Token :=
  if x.p 0 % 2 = 0 then { dataToken (maskLanes t.data t.valid) t.valid 0 with kind := 3 }
  else
    let p1 := x.p 1
    let idx := if t.valid.getLsbD 0 && !descIsVoid (x.inDesc 0 x.slotW t) then (lane t.data 0).toNat else 0
    let addr := (x.k 1).toNat * 2 ^ 32 + (x.k 0).toNat + 64 * idx
    let l0 := p1 % 16 + bits p1 4 4 * 2 ^ 8
    { dataToken (ofSlots 32 [l0, addr % 2 ^ 32, addr / 2 ^ 32 % 2 ^ 32, bits p1 8 1]) 0xF 0 with kind := 3 }

/-- The plan of CMD: its one token takes one place. -/
def cmdPlan (pg : Page) (e : Nat) : Plan :=
  let x := pg.elem e
  if !x.ready then .wait false
  else if x.free 0 = 0 then .blocked
  else .fire { Fire.of 1 x [] with fl := takenFlags (x.tok 0) (x.inDesc 0 x.slotW (x.tok 0)) }

/-- The token that CMD builds its command from: of a POISON index the spec gives no value, and it is free (log 100). -/
def cmdSource (x : Elem) (s : State) : Token × State :=
  let t := x.tok 0
  if x.p 0 % 2 = 1 ∧ fmtOf (x.inDesc 0 x.slotW t) = 0x0E#8 then
    let v := s.freeVal
    ({ t with data := setBytes t.data 0 4 (v.1.toNat % 2 ^ 32) }, v.2)
  else (t, s)

/-- CMD (R238). -/
def execCmd (p e : Nat) (s : State) : Res :=
  let x := s.elem p e
  match (if s.elemLive p e 0xB0 then cmdPlan (s.page p) e else .blocked) with
  | .fire f =>
    let r := cmdSource x s
    let k := cmdToken x r.1
    .next ((r.2.applyFire p e f).modElem p e fun y => { y with q0 := y.q0 ++ [k] })
  | _ => .next s

end Sys2Proof.Machine
end

