-- ==== Sys2Proof/Machine/ElemMem.lean ====
section
/-! DEFINITION. Memory operations of elements: MLD, MST, MAMO and the completion of their accesses (R232 to R237,
R299, R302, R405, R438). -/

namespace Sys2Proof.Machine

/-- The requester of an element memory unit. -/
def elemAgent (p e : Nat) : AgentId := pageAgent p 3 e

/-- Slot that K0 names. -/
def Elem.memSlot (x : Elem) : Nat := (x.k 0).toNat % 2 ^ 16
/-- Generation that K0 names. -/
def Elem.memGen (x : Elem) : Nat := bits (x.k 0).toNat 16 8
/-- Block mode. -/
def Elem.memBlock (x : Elem) : Bool := (x.p 0).testBit 0
/-- CSCOPE: 1 .B, 2 .M. -/
def Elem.memScope (x : Elem) : Nat := bits (x.p 0) 1 2

/-- The block index of a block-mode token (R232). -/
def blockIndex (t : Token) : Nat := (lane t.data 0).toNat + (lane t.data 1).toNat * 2 ^ 32

/-- The tensor byte offset that lane `l` of an index token addresses; `none` outside the tensor (R232, R283). -/
def laneOffset (g : Geo) (data : Data) (l : Nat) : Option Nat :=
  let i := (lane data l).toNat
  if i < g.count then some (g.offI i) else none

/-- A list without its repeats, in order of first appearance. -/
def firsts (l : List Nat) : List Nat := l.foldl (fun r k => if r.contains k then r else r ++ [k]) []

/-- The accesses of a firing: lane and tensor byte offset, in lane order; block mode has one, for lane 0. -/
def accessesOf (g : Geo) (blk : Bool) (data : Data) (valid : BitVec 16) : List (Nat × Nat) :=
  if blk then
    let b := bits data.toNat 0 64
    if valid.getLsbD 0 && valid.getLsbD 1 && decide (64 * b < g.size) then [(0, 64 * b)] else []
  else
    (List.range 16).filterMap fun l =>
      if valid.getLsbD l then (laneOffset g data l).map fun o => (l, o) else none

/-- Lanes whose index lies outside the tensor. -/
def lanesOutside (g : Geo) (blk : Bool) (data : Data) (valid : BitVec 16) : BitVec 16 :=
  if blk then
    if valid.getLsbD 0 && valid.getLsbD 1 && decide (g.size ≤ 64 * bits data.toNat 0 64) then BitVec.allOnes 16 else 0
  else laneMask fun l => valid.getLsbD l && (laneOffset g data l).isNone

/-- A page request of an element fails without having been sent: the launch reports FAILED(PAGEREQ) (R301, R302, R405). -/
def State.failElemReq (s : State) (p e : Nat) : State :=
  match s.trussOf p with
  | none => s
  | some t => s.failItem (s.page p).truss 0x08 (detailOf ((s.page p).ix * 64 + e) (s.page p).ix t.ix)

/-- A firing's access to a panel for which its page request has been answered with failure (R405): `cnt` holds 1 where the next
panel that faults is to fail, then the panels that have failed for the firing. -/
def Elem.failedPanel (x : Elem) (panel : Nat) : Bool := decide (x.c 0 = 1) || (x.cnt.drop 1).contains panel

/-- The firing's accesses to a panel fail. -/
def Elem.failPanel (x : Elem) (panel : Nat) : Elem :=
  { x with cnt := 0 :: (if (x.cnt.drop 1).contains panel then x.cnt.drop 1 else panel :: x.cnt.drop 1) }

/-- Translates a tensor block for an element (R237, R301, R302, R369, R405). -/
def elemXlate (p e : Nat) (t : Truss) (slot gen blk : Nat) (wr : Bool) (s : State) : PortX × State :=
  let a := elemAgent p e
  let panel := blk / 1024
  let r := s.xlateOff (bayOf p) t.part t.view slot (blk * 64)
  let s' := r.2
  let fault (f : State → Stall × State) : PortX × State :=
    if (s'.elem p e).failedPanel panel then (.failed, s'.modElem p e fun x => x.failPanel panel)
    else
      let q := f s'
      (.stall q.1, q.2)
  let owner (g : Nat) : PortX × State := fault fun s => s.raiseIso (s.vfOfPage p) a g wr
  match r.1 with
  | .leaf le =>
    match s'.placeOf t.part le (blk * 64) with
    | .ok (.remote _ _) => (.failed, s'.failElemReq p e)
    | .ok q => (.ok q le, s')
    | .error g => owner g
  | .fault => fault fun s => s.raiseFault t.part (s.vfOfPage p) a slot gen panel wr
  | .bad le =>
    match s'.raiseXlateErr (s'.vfOfPage p) slot gen panel le with
    | (some st, s') => (.stall st, s')
    | (none, s') => (.failed, s'.failElemReq p e)
  | .owner g => owner g

/-- What the translation of a firing's blocks answers. -/
inductive ElemX where
  /-- A place, or `none` for a failed access, by block. -/
  | ok (ps : List (Nat × Option Phys))
  /-- The element stalls. -/
  | stall (st : Stall)
  /-- A flag refuses the access: failure code. -/
  | refused (code : Nat)
  deriving DecidableEq, Repr

/-- Translates the blocks of a firing in order, with the flags of a write and the copy of R438. -/
def elemXlates (p e : Nat) (t : Truss) (g : Geo) (wr shOut : Bool) : List Nat → State → ElemX × State
  | [], s => (.ok [], s)
  | b :: bs, s =>
    let x := s.elem p e
    let q := elemXlate p e t x.memSlot x.memGen b wr s
    match q.1 with
    | .stall st => (.stall st, q.2)
    | .failed =>
      match elemXlates p e t g wr shOut bs q.2 with
      | (.ok ps, s') => (.ok ((b, none) :: ps), s')
      | r => r
    | .ok ph le =>
      let fl := g.flags le
      if wr && fl.1 then (.refused 0x04, q.2)
      else if wr && decide (0 < t.depth) && fl.2.2 then (.refused 0x05, q.2)
      else if wr && decide (0 < t.depth) && fl.2.1 && shOut then (.refused 0x05, q.2)
      else if wr && !q.2.ownPanel t.part t.view x.memSlot (b / 1024) fl.2.1 then
        let z := q.2.startCopy t.part t.view x.memSlot (b / 1024) (q.2.vfOfPage p) t.launch (elemAgent p e)
        (.stall z.1, z.2)
      else
        match elemXlates p e t g wr shOut bs q.2 with
        | (.ok ps, s') => (.ok ((b, some ph) :: ps), s')
        | r => r

/-- The failure code that a memory firing's tensor gives it before any access (R232, R235, R237): HANDLE for a handle
that is not live, a READONLY tensor or a MAMO format that is not INT32; in a world, WORLD for a write to a NOFORK
tensor and for MAMO's old values of a SHARED one. The flags of tensor 0 stand in its leaves (R302). -/
def memRefusal (s : State) (t : Truss) (x : Elem) (g : Geo) (wr : Bool) : Option Nat :=
  if !s.handleOk t.part x.memSlot x.memGen || (wr && g.readonly) || (decide (x.opc = 0xAA) && decide (g.fmt ≠ 4#8)) then some 0x04
  else if 0 < t.depth ∧ ((wr && g.nofork) || (decide (x.opc = 0xAA) && x.outs.testBit 0 && g.shared)) then some 0x05
  else none

/-- The outputs of a memory operation have room for one firing more: each one in flight has its tokens to place, a
SCALE and a DATA token on out0, but for MST's count, and a count on out1 (R236, R249, R251). -/
def memRoom (x : Elem) : Bool :=
  let n := x.mem.length + 1
  (!x.outs.testBit 0 || decide ((if x.opc = 0xA9 then 1 else 2) * n ≤ x.free 0))
    && (!x.outs.testBit 1 || decide (n ≤ x.free 1))

/-- The plan that the counters and the room test of a memory operation use; at 32 firings in flight it waits. -/
def memPlan (pg : Page) (e : Nat) : Plan :=
  let x := pg.elem e
  if !x.ready then .wait (!memRoom x)
  else if !memRoom x then .blocked
  else if 32 ≤ x.mem.length then .wait true
  else .fire (Fire.of x.usedMask x [])

/-- The descriptor that a memory operation reads an input's values under: they travel at packing 1 (R232). -/
def Elem.memDesc (x : Elem) (i : Nat) : Desc := x.inDesc i 32 (x.tok i)

/-- The index data of a memory firing: VOID indices are 0 (R33). -/
def Elem.memIndex (x : Elem) : Data := if descIsVoid (x.memDesc 0) then 0 else (x.tok 0).data

/-- The lanes of a memory firing. -/
def Elem.memValid (x : Elem) (wr : Bool) : BitVec 16 :=
  if wr && !x.memBlock then (x.tok 0).valid &&& (x.tok 1).valid else (x.tok 0).valid

/-- A memory firing whose indices, or MAMO's operands, are POISON: it makes no access, and its results are poisoned
(R33; log 100). -/
def Elem.memPoisoned (x : Elem) (opc : Nat) : Bool :=
  decide (fmtOf (x.memDesc 0) = 0x0E#8) || (decide (opc = 0xAA) && decide (fmtOf (x.memDesc 1) = 0x0E#8))

/-- The accesses of a memory firing. -/
def Elem.memAccesses (x : Elem) (g : Geo) (opc : Nat) (wr : Bool) : List (Nat × Nat) :=
  if x.memPoisoned opc then [] else accessesOf g x.memBlock x.memIndex (x.memValid wr)

/-- Flags of a memory firing (R33, R44, R232): POIS and DISC of what it takes, INV for a lane outside the tensor; none
for block mode without both index lanes. -/
def Elem.memFlags (x : Elem) (wr : Bool) (out : BitVec 16) : BitVec 8 :=
  if x.memBlock && !((x.tok 0).valid.getLsbD 0 && (x.tok 0).valid.getLsbD 1) then 0
  else takenFlags (x.tok 0) (x.memDesc 0) ||| (if wr then takenFlags (x.tok 1) (x.memDesc 1) else 0)
    ||| (if out = 0 then 0 else flInv)

/-- The firing has finished or been refused: the reference that a stalled one holds is dropped. -/
def State.endHeld (s : State) (p e part : Nat) : State :=
  let h := (s.elem p e).memRef
  (if h = 0 then s else s.unrefSlot part (h - 1)).modElem p e fun y => { y with memRef := 0 }

/-- A memory firing: `issue` sends the accesses of the translated blocks and answers their tags. It holds a reference
to its tensor from its first translation, so that a stalled one is not refused when it goes on (R237, R299). -/
def memFire (p e opc : Nat) (wr : Bool) (need : Nat → Requester → Bool)
    (issue : Truss → Geo → List (Nat × Nat) → List (Nat × Option Phys) → State → List Nat × State) (s : State) : Res :=
  let x := s.elem p e
  match s.trussOf p with
  | none => .next s
  | some t =>
    if !s.elemLive p e opc || !x.ready || !memRoom x || decide (32 ≤ x.mem.length) || (s.req (elemAgent p e)).stall.isSome then .next s
    else
      let g := s.geo t.part x.memSlot
      match (if x.memRef = 0 then memRefusal s t x g wr else none) with
      | some code => .next ((s.markFaulted p e).failPage p code e)
      | none =>
        let valid := x.memValid wr
        let acc := x.memAccesses g opc wr
        let out := if x.memPoisoned opc then 0 else lanesOutside g x.memBlock x.memIndex valid
        let blocks := firsts (acc.map fun z => z.2 / 64)
        if !need (if opc = 0xAA then acc.length else blocks.length) (s.req (elemAgent p e)) then .next s
        else
          match elemXlates p e t g wr (decide (opc = 0xAA) && x.outs.testBit 0) blocks s with
          | (.stall st, s) =>
            let a := elemAgent p e
            let s := s.setReq a { s.req a with stall := some st }
            .next (if x.memRef = 0 then
              (s.refSlot t.part x.memSlot).modElem p e fun y => { y with memRef := x.memSlot + 1 } else s)
          | (.refused code, s) => .next (((s.endHeld p e t.part).markFaulted p e).failPage p code e)
          | (.ok ps, s) =>
            let r := issue t g acc ps s
            let s := (r.2.refSlot t.part x.memSlot).endHeld p e t.part
            let x := s.elem p e
            let lost := laneMask fun l => acc.any fun z => z.1 == l && ps.any fun q => q.1 == z.2 / 64 && q.2.isNone
            let lost := if !x.memBlock then lost else
              if lost = 0 then (if wr then ~~~(x.tok 1).valid else 0) else BitVec.allOnes 16
            let f : MemFiring :=
              ⟨r.1, opc - 0xA8, x.var, x.memBlock, valid, out ||| lost, x.rankIn, (x.tok 0).rank, x.memIndex, x.memPoisoned opc, x.memDesc 1, 0,
                x.memSlot⟩
            .next (s.applyFire p e { Fire.of x.usedMask { x with mem := x.mem ++ [f], cnt := [] } [] with fl := x.memFlags wr out })

/-- Opens a window entry that has failed already. -/
def State.failedEntry (s : State) (a : AgentId) : Nat × State :=
  let z := s.openEntry a (Packet.blank .read 0 a a 1) (some ([], [], 2))
  (z.1, z.2.setReq a ((z.2.req a).modEntry z.1 fun e => { e with failed := true }))

/-- MLD (R233): reads the blocks of its indices. -/
def execMld (p e : Nat) (s : State) : Res :=
  memFire p e 0xA8 false (fun n r => decide (r.win.length + n ≤ 64)) (fun t _ _ ps s =>
    let x := s.elem p e
    ps.foldl (fun r q =>
      let z := match q.2 with
        | some ph => r.2.readReq (elemAgent p e) t.part ph x.memSlot x.memGen (q.1 * 64) fullMask .cached
        | none => r.2.failedEntry (elemAgent p e)
      (r.1 ++ [z.1], z.2)) ([], s)) s

/-- The block that MST writes at block number `b`: the valid lanes' values, or the whole token (R234). -/
def mstBlock (x : Elem) (g : Geo) (acc : List (Nat × Nat)) (b : Nat) (ph : Phys) : BlockW :=
  let t := x.tok 1
  let d := storedDesc (x.memDesc 1)
  if x.memBlock then ⟨ph, if descIsVoid d then 0 else maskLanes t.data t.valid, d, fullMask, 1⟩
  else
    let w := g.width
    let val (l : Nat) : Nat := if descIsVoid d then 0 else (lane t.data l).toNat
    let d := if w * 8 < fmtBits (fmtOf d) then descPoison else d
    let r := (acc.filter fun z => z.2 / 64 == b).foldl (fun (r : Data × BitVec 64) z =>
      (setBytes r.1 (z.2 % 64) w (val z.1), r.2 ||| byteMask (z.2 % 64) w)) (0, 0)
    ⟨ph, r.1, d, r.2, 1⟩

/-- MST (R234): writes its values, block by block. -/
def execMst (p e : Nat) (s : State) : Res :=
  memFire p e 0xA9 true (fun n r => decide (r.kept.length + r.unsent.length + n ≤ 32)) (fun t g acc ps s =>
    let x := s.elem p e
    ([], ps.foldl (fun s q =>
      match q.2 with
      | some ph =>
        s.submitWrite (elemAgent p e)
          (writePacket (elemAgent p e) t.part x.memSlot x.memGen (q.1 * 64) [mstBlock x g acc q.1 ph])
      | none => s) s)) s

/-- MAMO (R235): one atomic a valid lane, in ascending lane order. -/
def execMamo (p e : Nat) (s : State) : Res :=
  memFire p e 0xAA true (fun n r => decide (r.kept.length + r.unsent.length + n ≤ 32) && decide (r.win.length + n ≤ 64))
    (fun t _ acc ps s =>
      let x := s.elem p e
      acc.foldl (fun r z =>
        match (ps.find? fun q => q.1 == z.2 / 64).bind Prod.snd with
        | some ph =>
          let y := r.2.atomicReq (elemAgent p e) t.part (ph.plus (z.2 % 64)) x.memSlot x.memGen z.2 4 x.var
            [if descIsVoid (x.memDesc 1) then 0 else (lane (x.tok 1).data z.1).zeroExtend 64]
          (r.1 ++ [y.1], y.2)
        | none =>
          let y := r.2.failedEntry (elemAgent p e)
          (r.1 ++ [y.1], y.2)) ([], s)) s

/-! ### Completion (R233 to R237) -/

/-- The accesses that a firing in flight made. -/
def MemFiring.accesses (f : MemFiring) (g : Geo) : List (Nat × Nat) :=
  if f.poison then [] else accessesOf g f.blk f.data f.valid

/-- The result token of a firing that took POISON indices or operands (R33). -/
def poisonToken (f : MemFiring) : OutTok :=
  let v : BitVec 16 := if !f.blk then f.valid else if f.valid.getLsbD 0 && f.valid.getLsbD 1 then BitVec.allOnes 16 else 0
  { moved 0 v f.rank with bad := v, pois := decide (v ≠ 0) }

/-- A token of MLD from the entries of its blocks: the token, the flags, and the lanes read. -/
def mldToken (g : Geo) (f : MemFiring) (es : List WinEntry) : OutTok × BitVec 8 × Nat :=
  let acc := f.accesses g
  let blocks := firsts (acc.map fun z => z.2 / 64)
  let got (b : Nat) : Option BlockW :=
    match es[blocks.idxOf b]? with
    | some e => if e.failed then none else (e.got.bind fun q => q.1.head?)
    | none => none
  let valid : BitVec 16 := if f.blk then (if acc.isEmpty then 0 else BitVec.allOnes 16) else laneMask fun l => acc.any fun z => z.1 == l
  let ds := (blocks.map fun b => (got b).map fun w => storedDesc w.desc)
  let lost := ds.any Option.isNone
  let d0 := ((ds.head?).join).getD descPoison
  let mixed := ds.any fun d => decide (d ≠ some d0)
  let w := g.width
  let zero := descIsVoid d0
  let data : Data :=
    if f.blk then ((acc.head?).bind fun z => (got (z.2 / 64)).map BlockW.data).getD 0
    else ofSlots 32 ((List.range 16).map fun l =>
      match acc.find? fun z => z.1 == l with
      | some z => ((got (z.2 / 64)).map fun b => dataBytes b.data (z.2 % 64) w).getD 0
      | none => 0)
  let data := if zero then 0 else data
  let bad := lost || mixed
  let n := if f.blk then (if acc.isEmpty || lost then 0 else 16) else acc.countP fun z => (got (z.2 / 64)).isSome
  if f.poison then (poisonToken f, 0, 0)
  else if acc.isEmpty then (moved 0 0 f.rank, 0, 0)
  else
    (⟨data, valid, f.rank, some d0, 0, if bad then valid else 0, bad, []⟩,
      (if ds.any (fun d => (d.map descIsVoid).getD false) then flDisc else 0)
        ||| (if lost || ds.any (fun d => (d.map descPoisoned).getD false) then flPois else 0), n)

/-- A token of MAMO's old values, and the lanes performed. -/
def mamoToken (g : Geo) (f : MemFiring) (es : List WinEntry) : OutTok × BitVec 8 × Nat :=
  let acc := f.accesses g
  let ans := (acc.zip es).map fun z =>
    let q := z.2.got.getD ([], [], 2)
    (z.1.1, ((q.2.1.head?).getD 0).toNat, if z.2.failed then 2 else q.2.2)
  let valid := laneMask fun l => ans.any fun z => z.1 == l
  let bad := laneMask fun l => ans.any fun z => z.1 == l && z.2.2 == 2
  let data := ofSlots 32 ((List.range 16).map fun l => ((ans.find? fun z => z.1 == l).map fun z => z.2.1).getD 0)
  if f.poison then (poisonToken f, 0, 0)
  else (⟨data, valid, f.rank, some (mkDesc 0x7F#8 0x04#8), 0, bad, decide (bad ≠ 0), []⟩,
    (if ans.any fun z => z.2.2 == 1 then flDisc else 0) ||| (if bad = 0 then 0 else flPois),
    ans.countP fun z => z.2.2 != 2)

/-- A completion token: the count of lanes in lane 0 (R233 to R235), one DATA token with no SCALE token (log 69). -/
def countToken (n : Nat) (rank : BitVec 3) : OutTok := moved (BitVec.ofNat 512 n) 1 rank

/-- ELEMENT_MEMORY_COMPLETE: the oldest firing in flight, `n` = 0, completes once its reads have returned or its
writes are complete at CSCOPE, and leaves its tokens, its window entries and its reference (R233 to R237). A
younger firing waits for it, for outputs leave in firing order (R236). -/
def execElementMemoryComplete (p e n : Nat) (s : State) : Res :=
  let x := s.elem p e
  match x.mem, s.trussOf p with
  | f :: rest, some t =>
    let a := elemAgent p e
    let r := s.req a
    let es := f.tags.filterMap r.entry
    let g := s.geo t.part f.slot
    let done := if f.op = 1 then s.completeAtScope a x.memScope else es.all fun w => w.got.isSome
    if n ≠ 0 ∨ !done ∨ !s.fabricRuns p then .next s
    else
      let res : OutTok × BitVec 8 × Nat :=
        if f.op = 0 then mldToken g f es
        else if f.op = 2 then mamoToken g f es
        else
          let acc := f.accesses g
          (countToken 0 0, 0,
            if f.blk then (if acc.isEmpty then 0 else (List.range 16).countP fun l => !f.dropped.getLsbD l)
            else acc.countP fun z => !f.dropped.getLsbD z.1)
      let cnt := countToken res.2.2 f.irank
      let out0 := if x.outs.testBit 0 then [if f.op = 1 then cnt else res.1] else []
      let out1 := if x.outs.testBit 1 then [cnt] else []
      let fire : Fire := { Fire.of 0 x out0 with out1 := out1 }
      if !fireRoom x fire then .next s
      else
        let r0 := freePoisons out0 s
        let s := r0.2
        let home := x.home
        let e0 := renderAll home x.annc[0] r0.1
        let e1 := renderAll home x.annc[1] out1
        let x' := { x with
          mem := rest, q0 := x.q0 ++ e0.1, q1 := x.q1 ++ e1.1, annc := #v[e0.2, e1.2], status := x.status ||| res.2.1 }
        let s := s.setElem p e x'
        let s := s.setReq a (f.tags.foldl Requester.dropEntry (s.req a))
        .next (s.unrefSlot t.part f.slot)
  | _, _ => .next s

end Sys2Proof.Machine
end

