-- ==== Sys2Proof/Machine/CfgWords.lean ====
section
/-! DEFINITION. The effect of configuration words: field writes, port bindings, injections and control codes, and
the joined judgement of a unit of configuration (R73, R74, R81, R82, R157, R205, R213, R224, R242, R450). -/

namespace Sys2Proof.Machine

/-- KIND of a configuration word (R73). -/
def cwKind (w : Word32) : Nat := bits w.toNat 30 2
/-- ELEM. -/
def cwElem (w : Word32) : Nat := bits w.toNat 18 12
/-- FIELD. -/
def cwField (w : Word32) : Nat := bits w.toNat 12 6
/-- VALUE. -/
def cwValue (w : Word32) : Nat := w.toNat % 2 ^ 12

/-- Where a unit of configuration comes from. -/
inductive CwBy where
  /-- The image's CONFIG section. -/
  | image
  /-- The CFG segment that the core of page `p` loads. -/
  | segment (p : Nat)
  /-- A CONFIG token. -/
  | token
  deriving DecidableEq, Repr

/-- The unit of configuration: a core has at most one segment in progress; an image's and a token's are applied at
once. -/
def CwBy.unit : CwBy → Nat
  | .segment p => p
  | .image => 432
  | .token => 433

/-- What becomes of a word. -/
inductive CwRes where
  /-- It has taken effect. -/
  | ok (s : State)
  /-- It is refused (R74). -/
  | refused
  /-- An injection waits for room in a hop. -/
  | room (p e f : Nat)

/-! ### Held state of operations -/

/-- Changes the opcode: what the old operation holds is parked, and what the new one held before returns (R264). -/
def Elem.switchOp (x : Elem) (v : BitVec 12) : Elem :=
  let y := x.setFld 0 v
  if y.opc = x.opc then y
  else
    let h := fgetD x.parked y.opc ([], [], [], [])
    let rest := fdel x.parked y.opc
    let parked := if x.held.isEmpty ∧ x.held2.isEmpty ∧ x.cnt.isEmpty ∧ x.words.isEmpty then rest
                  else fput rest x.opc (x.held, x.held2, x.cnt, x.words)
    { y with held := h.1, held2 := h.2.1, cnt := h.2.2.1, words := h.2.2.2, parked := parked }

/-- The counts of an operation after ACCRST: tile-ring positions and MRK's count start again (R213, R215, R224). -/
def cntRestart (opc : Nat) (c : List Nat) : List Nat :=
  match opc with
  | 0xA0 => [(c.head?).getD 0, 0]
  | 0xA1 => [(c.head?).getD 0, 0]
  | 0xA3 => []
  | 0x89 => []
  | 0x60 => []
  | 0x61 => []
  | 0x62 => []
  | 0x69 => []
  | _ => c

/-- ACCRST (R81, R205, R242). -/
def Elem.accrst (x : Elem) : Elem :=
  { x with acc := [], accInt := false, run := [], amax := 0, cnt := cntRestart x.opc x.cnt,
           parked := x.parked.map fun z => (z.1, z.2.1, z.2.2.1, cntRestart z.1 z.2.2.2.1, z.2.2.2.2), carry := 0 }

/-- A field write (R75, R77): MODE ends a switched mode (R196), ALG and ATILE unload the algebra's table, and a
router output field sets its SHIM floor. -/
def Elem.writeField (x : Elem) (f : Nat) (v : BitVec 12) : Elem :=
  if f = 0 then x.switchOp v
  else
    let y := x.setFld f v
    if f = 3 then { y with modeSw := none }
    else if f = 20 ∨ f = 21 then { y with table := [] }
    else if 32 ≤ f ∧ f ≤ 40 then
      let k := bits v.toNat 4 5
      { y with floors := if k = 0 then fdel x.floors f else fput x.floors f k }
    else y

/-! ### One word -/

/-- A control word (R81). -/
def applyControl (by_ : CwBy) (p e f v : Nat) (s : State) : CwRes :=
  match f with
  | 0 => if v = 0 then .ok (s.modElem p e Elem.accrst) else .refused
  | 1 => if v = 0 then .ok (s.modElem p e fun x => { x with status := 0 }) else .refused
  | 2 => if v = 0 then .ok (s.modElem p e fun x => { x with fire := 0, stall := 0, starve := 0 }) else .refused
  | 3 =>
    if by_ ≠ .token ∧ (v = 1 ∨ v = 2 ∨ v = 4 ∨ v = 8) then
      let pg := s.page p
      let z := (e, BitVec.ofNat 4 v)
      .ok (s.setPage p { pg with startPts := if pg.startPts.contains z then pg.startPts else pg.startPts ++ [z] })
    else .refused
  | _ => .refused

/-- A port binding (R81, R92, R93): the entry must be the page's own for the port. -/
def applyBinding (img : Image) (p ix e f v : Nat) (s : State) : CwRes :=
  match img.ports[v]? with
  | some (pi, code, fmt) =>
    if f < 8 ∧ v < 256 ∧ e = 56 + f % 4 ∧ pi = ix ∧ code = f then
      .ok (s.setPage p ((s.page p).setPort f { (s.page p).port f with bound := some fmt }))
    else .refused
  | none => .refused

/-- A token injection (R81, R157): `inj` is the number that the unit has injected into the hop already. -/
def applyInjection (img : Image) (p e f v inj : Nat) (s : State) : CwRes :=
  match img.tokens[v]? with
  | some t =>
    let x := s.elem p e
    if f < 32 ∨ 40 < f ∨ fgetD x.floors f 0 < inj then .refused
    else if s.hopFree p e f then .ok (s.enterHop p e f { t with par := parity t.data })
    else .room p e f
  | none => .refused

/-- One word takes effect at page `p` (PAGEIX `ix`) and its site. -/
def applyAt (by_ : CwBy) (img : Image) (p ix : Nat) (w : Word32) (inj : Nat) (s : State) : CwRes :=
  let e := cwElem w % 64
  let f := cwField w
  let v := cwValue w
  match cwKind w with
  | 0 =>
    if s.fieldOk p e f v && (by_ == .image || decide (f ≠ 46)) then
      .ok (s.modElem p e fun x => x.writeField f (BitVec.ofNat 12 v))
    else .refused
  | 1 => if by_ = .token then .refused else applyBinding img p ix e f v s
  | 2 => if by_ = .token then .refused else applyInjection img p e f v inj s
  | _ => applyControl by_ p e f v s

/-- The page that a word names, within a truss. -/
def cwPage (t : Truss) (w : Word32) : Option Nat := t.pages[cwElem w / 64]?

/-- One word of a unit is applied: its element does not fire until it is judged (R450); an element that a refused
word names is marked faulted (R74). -/
def applyWord (by_ : CwBy) (img : Image) (t : Truss) (w : Word32) (inj : Nat) (s : State) : CwRes × State :=
  match cwPage t w with
  | none => (.refused, s)
  | some p =>
    match applyAt by_ img p (cwElem w / 64) w inj s with
    | .ok s' => let z := s'.modElem p (cwElem w % 64) fun x => { x with judging := (x.judging.filter fun u => u != by_.unit) ++ [by_.unit] }; (.ok z, z)
    | .refused => (.refused, s.markFaulted p (cwElem w % 64))
    | r => (r, s)

/-! ### Units -/

/-- Elements of a page that wait to be judged for a unit. -/
def Page.judged (pg : Page) (u : Nat) : List Nat := (pg.elems.filter fun z => z.2.judging.contains u).map Prod.fst

/-- Judges the elements that a unit named (R450): those that break a joined condition are marked faulted; answers
the lowest ELEM of them. -/
def State.judgeUnit (s : State) (t : Truss) (by_ : CwBy) : Option Nat × State :=
  let l := (t.pages.zipIdx).flatMap fun z => ((s.page z.1).judged by_.unit).map fun e => (z.1, z.2 * 64 + e)
  let bad := l.filter fun z => !s.elemOk z.1 (z.2 % 64)
  let s := l.foldl (fun s z => s.modElem z.1 (z.2 % 64) fun x => { x with judging := x.judging.filter fun u => u != by_.unit }) s
  let s := bad.foldl (fun s z => s.markFaulted z.1 (z.2 % 64)) s
  ((bad.head?).map Prod.snd, s)

/-- CONFIG_INVALID of a truss, naming an element of it. -/
def State.cfgInvalid (s : State) (t el : Nat) : State := s.failTruss t 0x03 el (el / 64)

/-- The words of a unit that needs no room (an image's): the state, and the ELEM of the first refused word. `done`
holds the injections made, by ELEM and field. -/
def applyUnit (by_ : CwBy) (img : Image) (t : Truss) : List Word32 → List (Nat × Nat) → State → Option Nat × State
  | [], _, s => s.judgeUnit t by_
  | w :: ws, done, s =>
    let key := (cwElem w, cwField w)
    match applyWord by_ img t w (done.filter fun k => k == key).length s with
    | (.ok s', _) => applyUnit by_ img t ws (if cwKind w = 2 then key :: done else done) s'
    | (_, s') => let r := s'.judgeUnit t by_; (some (cwElem w), r.2)

end Sys2Proof.Machine
end

