-- ==== Sys2Proof/Machine/ElemTokens.lean ====
section
/-! DEFINITION. SCALE, CONFIG and COMMAND tokens at the head of an element input (R82 to R85, R181, R183, R196,
R201, R202, R209, R212, R222, R226, R227, R250). -/

namespace Sys2Proof.Machine

/-- The site's fabric runs. -/
def State.siteLive (s : State) (p e : Nat) : Bool := s.fabricRuns p && decide (e < 64)

/-- A firing begun on an earlier token has output still to come: ZIP's second half, CNT's run, SLIDE's flush. -/
def Elem.midRun (x : Elem) : Bool :=
  match x.opc with
  | 0x90 => !x.held.isEmpty
  | 0x88 => !x.words.isEmpty
  | 0x33 => match x.held with
            | h :: _ => decide (h.rank ≠ 0)
            | [] => false
  | _ => false

/-- What an operation that moves bits sends for in0's SCALE token (R183, R212): what it flushes first, the token,
and whether out1 takes it too; `none` for one that forwards none. -/
def scaleForward (x : Elem) (t : Token) : Option (List OutTok × Token × Bool) :=
  let opc := x.opc
  let b := burstOf t
  let z := x.forwarded b
  let t := if z = b then t else scaleToken z.fmt z.scale z.blen
  if 0x18 ≤ opc ∧ opc ≤ 0x1E then some ([], t, false)
  else
    match opc with
    | 0x30 => some ([], t, x.outs.testBit 1)
    | 0x31 => some ([], t, false)
    | 0x32 => some ([], t, false)
    | 0x4B => some (if x.held.isEmpty then [] else [packToken x x.held], t, false)
    | 0x4C => some ([], t, false)
    | 0x80 => some ([], t, false)
    | 0x81 =>
      let bad := decide (x.c 0 = 1)
      some (x.held.map fun h => { moved h.data h.valid 0 with bad := if bad then h.valid else 0, pois := bad }, t, false)
    | 0x89 => some ([], t, false)
    | 0x8A => some ([], t, false)
    | 0x90 => some ([], t, false)
    | 0x91 => some ([], t, true)
    | 0xA0 => some ([], t, false)
    | 0xA2 => some ([], t, false)
    | _ => none

/-- The element after in0's SCALE token has closed what the operation held. -/
def Elem.closeHeld (x : Elem) : Elem :=
  match x.opc with
  | 0x4B => { x with held := [] }
  | 0x81 => { x with held := [], cnt := [] }
  | _ => x

/-- SLIDE keeps in0's SCALE token until a window draws on its burst (R209). -/
def Elem.keepScale (x : Elem) (t : Token) : Elem := { x with held2 := x.held2.take (x.c 0) ++ [t] }

/-- CONFIG_INVALID of a site's truss. -/
def State.siteInvalid (s : State) (p e : Nat) : State := s.failPage p 0x03 e

/-- A ctl token that is not DATA, with SIDE set: refused (R196). -/
def State.refuseCtl (s : State) (p e : Nat) : State :=
  ((s.modElem p e fun x => x.hopPop (inHop 3)).markFaulted p e).siteInvalid p e

/-- The head of an input, when it is of a kind. -/
def Elem.headOf (x : Elem) (k kind : Nat) : Option Token :=
  match x.hopHead (inHop k) with
  | some t => if t.kind.toNat = kind then some t else none
  | none => none

/-- SCALE_TOKEN: a SCALE token at the head of input `k` (R84, R181, R183, R212). -/
def execScaleToken (p e k : Nat) (s : State) : Res :=
  let x := s.elem p e
  if !s.siteLive p e ∨ 4 ≤ k then .next s
  else
    match x.headOf k 1 with
    | none => .next s
    | some t =>
      let take (y : Elem) : Elem := (y.setBurst k (burstOf t)).hopPop (inHop k)
      let s := (s.checked p e t).2
      if k = 3 ∧ x.side then .next (s.refuseCtl p e)
      else if k ≠ 0 then .next (s.modElem p e take)
      else if x.midRun then .next s
      else if x.opc = 0x33 then .next (s.modElem p e fun y => take (y.keepScale t))
      else
        match scaleForward x t with
        | none => .next (s.modElem p e take)
        | some (flush, tok, two) =>
          let r := freePoisons flush s
          let o := renderAll x.home x.annc[0] r.1
          if x.free 0 < o.1.length + 1 ∨ (two = true ∧ x.free 1 = 0) then .next s
          else
            let b := some (burstOf tok)
            .next (r.2.modElem p e fun y =>
              let z := take y.closeHeld
              { z with q0 := z.q0 ++ o.1 ++ [tok], q1 := if two then z.q1 ++ [tok] else z.q1,
                       annc := #v[b, if two then b else z.annc[1]] })

/-- COMMAND_TOKEN_AT_ELEMENT: forwarded from in0 to out0, else discarded with CONFIG_INVALID, the empty one of
an element that writes no out0 too (R181, R212; DESIGN CHOICE, log 115). -/
def execCommandTokenAtElement (p e k : Nat) (s : State) : Res :=
  let x := s.elem p e
  if !s.siteLive p e ∨ 4 ≤ k then .next s
  else
    match x.headOf k 3 with
    | none => .next s
    | some t =>
      if t.lost then .next ((s.checked p e t).2.modElem p e fun y => y.hopPop (inHop k))
      else if k = 3 ∧ x.side then .next (s.refuseCtl p e)
      else if k ≠ 0 then .next ((s.modElem p e fun y => y.hopPop (inHop k)).siteInvalid p e)
      else if x.midRun ∨ !x.mem.isEmpty then .next s
      else if x.outs.testBit 0 then
        if x.free 0 = 0 then .next s
        else .next (s.modElem p e fun y => { (y.hopPop (inHop 0)) with q0 := y.q0 ++ [t] })
      else .next ((s.modElem p e fun y => y.hopPop (inHop 0)).siteInvalid p e)

/-- The words of a CONFIG token that name an element, and the valid bits of the others. -/
def Token.split (t : Token) (el : Nat) : List Word32 × BitVec 16 :=
  let mine := t.words.filter fun z => decide (cwElem z.2 = el)
  (mine.map Prod.snd, mine.foldl (fun v z => setBitTo v z.1 false) t.valid)

/-- Some word of a CONFIG token is refused where the words before it have taken effect. -/
def tokenRefused (img : Image) (tr : Truss) : List Word32 → State → Bool
  | [], _ => false
  | w :: ws, s =>
    match applyWord .token img tr w 0 s with
    | (.ok s', _) => tokenRefused img tr ws s'
    | _ => true

/-- The words of a CONFIG token for its element: none of them takes effect where one is refused, and the element is
then faulted (R82); else they do, and the element is judged (R450). Answers the ELEM that fails the truss. -/
def State.applyToken (s : State) (img : Image) (tr : Truss) (p e el : Nat) (ws : List Word32) : Option Nat × State :=
  if tokenRefused img tr ws s then (some el, s.markFaulted p e) else applyUnit .token img tr ws [] s

/-- CONFIG_TOKEN: the element applies its own words, between firings, and forwards the others on out0 (R82, R181,
R212, R450); a CONFIG token at another input is discarded with CONFIG_INVALID. -/
def execConfigToken (p e k : Nat) (s : State) : Res :=
  let x := s.elem p e
  if !s.siteLive p e ∨ 4 ≤ k then .next s
  else
    match x.headOf k 2, s.trussOf p with
    | some t, some tr =>
      if t.lost then .next ((s.checked p e t).2.modElem p e fun y => y.hopPop (inHop k))
      else if k = 3 ∧ x.side then .next (s.refuseCtl p e)
      else if k ≠ 0 then .next ((s.modElem p e fun y => y.hopPop (inHop k)).siteInvalid p e)
      else if x.midRun ∨ !x.mem.isEmpty then .next s
      else
        let el := (s.page p).ix * 64 + e
        let img := ((s.launchOf tr).map Launch.img).getD Image.blank
        let z := t.split el
        let r := s.applyToken img tr p e el z.1
        let y := r.2.elem p e
        let fwd := decide (z.2 ≠ 0) && y.outs.testBit 0
        if fwd && decide (y.free 0 = 0) then .next s
        else
          let s' := r.2.modElem p e fun y =>
            let y := y.hopPop (inHop 0)
            if fwd then { y with q0 := y.q0 ++ [{ t with valid := z.2 }] } else y
          let s' := match r.1 with
            | some b => s'.cfgInvalid (s.page p).truss b
            | none => s'
          .next (if decide (z.2 ≠ 0) && !fwd then s'.siteInvalid p e else s')
    | _, _ => .next s

end Sys2Proof.Machine
end

