-- ==== Sys2Proof/Machine/Wire.lean ====
section
/-! DEFINITION. Packets as they lie on a link: header, vector extension, address word, payload and trailer (R318 to
R321). -/

namespace Sys2Proof.Machine

/-- OP of the header (R321). -/
def PktOp.code : PktOp → BitVec 6
  | .read => 0x01
  | .write => 0x03
  | .atomic => 0x04
  | .data => 0x08
  | .aresp => 0x09
  | .ack => 0x0A
  | .resend => 0x0B
  | .ownernak => 0x0C
  | .abandon => 0x0D
  | .span => 0x10
  | .spanack => 0x11
  | .spanresend => 0x12
  | .move => 0x18
  | .coll => 0x19

/-- The operations that name memory, and carry an address word (R318). -/
def PktOp.named : PktOp → Bool
  | .read | .write | .atomic => true
  | .data | .aresp | .ack | .resend | .ownernak | .abandon | .span | .spanack | .spanresend | .move | .coll => false

/-- The operations whose payload is blocks with a trailer (R321). -/
def PktOp.carriesBlocks : PktOp → Bool
  | .write | .data | .move | .coll => true
  | .read | .atomic | .aresp | .ack | .resend | .ownernak | .abandon | .span | .spanack | .spanresend => false

/-- The agent of the two ends that the tag belongs to: the requester (R319). -/
def Packet.requester (k : Packet) : AgentId :=
  match k.op with
  | .data | .aresp | .ack | .resend | .ownernak | .spanack | .spanresend => k.dst
  | .read | .write | .atomic | .abandon | .span | .move | .coll => k.src

/-- TAG: the requester's tag, under the port number of a port agent (R319, R320). -/
def Packet.tagField (k : Packet) : BitVec 12 :=
  let a := k.requester
  let port := if a.code < 432 ∧ (a.code % 8 = 1 ∨ a.code % 8 = 2) then a.sub % 4 else 0
  BitVec.ofNat 12 (port * 1024 + k.tag % 1024)

/-- Header bits [127:16] (R319): all but HCHK, the reserved bits zero. -/
def Packet.headerBits (k : Packet) : BitVec 112 :=
  k.dmod.getD Config.moduleNumber ++ k.smod.getD Config.moduleNumber ++ BitVec.ofNat 3 k.dst.bay ++ BitVec.ofNat 9 k.dst.code
    ++ BitVec.ofNat 3 k.src.bay ++ BitVec.ofNat 9 k.src.code ++ BitVec.ofNat 6 k.part ++ k.op.code ++ k.seq
    ++ k.tagField ++ BitVec.ofNat 9 k.len ++ BitVec.ofNat 2 k.cls ++ BitVec.ofBool k.trim
    ++ BitVec.ofBool (!k.vec.isEmpty) ++ (0 : BitVec 11)

/-- The header (R319). -/
def Packet.header (k : Packet) : BitVec 128 := k.headerBits ++ Config.headerCheck k.headerBits

/-- The address word: slot and generation in [63:40], in the order of a handle, and the offset of the first block in
[39:0] (R318). -/
def Packet.addrWord (k : Packet) : Word :=
  BitVec.ofNat 64 ((k.slot % 2 ^ 16 + k.gen % 2 ^ 8 * 2 ^ 16) * 2 ^ 40 + k.off % 2 ^ 40)

/-- The payload (R318, R321): the blocks, or the operand or result words. -/
def Packet.payloadBytes (k : Packet) : List Byte :=
  if k.op.carriesBlocks then (k.blocks.map fun w => dataList w.data).flatten
  else (k.words.map fun w => toBytes 8 w.toNat).flatten

/-- The trailer of block payloads: descriptor and byte mask of each block (R318). -/
def Packet.trailer (k : Packet) : List Byte :=
  if k.op.carriesBlocks then (k.blocks.map fun w => toBytes 2 w.desc.toNat ++ toBytes 8 w.mask.toNat).flatten else []

/-- A packet's bytes, in the order sent (R318). -/
def Packet.wire (k : Packet) : List Byte :=
  toBytes 16 k.header.toNat ++ (k.vec.map fun v => toBytes 4 v.toNat).flatten
    ++ (if k.op.named then toBytes 8 k.addrWord.toNat else []) ++ k.payloadBytes ++ k.trailer

/-- Bytes of a packet on a link (R318). -/
def Packet.bytes (k : Packet) : Nat := k.wire.length

/-- What a switch drops and counts as a link error: a header whose HCHK fails, a reserved OP or CLASS, or reserved bits that
are set (R321). No agent of the module forms such a packet; a turn spoils one, or brings it in. -/
def Packet.malformed (k : Packet) : Bool := decide (3 ≤ k.cls) || decide (k.bad ≠ 0)

end Sys2Proof.Machine
end

