-- ==== Sys2Proof/Machine/Packets.lean ====
section
/-! DEFINITION. Packets at switch outputs, homes and requesters (R292, R307, R309, R313, R314, R316, R318 to
R334, R378, R393, R409 to R412). -/

namespace Sys2Proof.Machine

/-! ### Outputs (R322 to R324) -/

/-- A packet carries a payload that can be trimmed: not a READ, whose LEN only asks (R321). -/
def Packet.payload (k : Packet) : Bool := decide (k.op ≠ .read) && decide (0 < k.len)

/-- The packets of a class queue of an output. -/
def State.queuePkts (s : State) (o c : Nat) : List (Nat × Packet) :=
  match (s.out o).queues.toList[c]? with
  | none => []
  | some l => l.filterMap fun i => (fget s.packets i).map fun k => (i, k)

/-- Bytes in a class queue. -/
def State.queueBytes (s : State) (o c : Nat) : Nat := ((s.queuePkts o c).map fun x => x.2.bytes).sum

/-- Rounds of the round-robin until a class of weight `w` and deficit `d` can send `n` bytes. -/
def roundsFor (d w n : Nat) : Nat := (n - d + (w * Nat.max 1 Config.drrQuantum - 1)) / (w * Nat.max 1 Config.drrQuantum)

/-- The class an output serves next, with the deficits after it: C0 first, then C1 and C2 by deficit
round-robin at weights 3 and 1 (R322). -/
def State.serveNext (s : State) (o : Nat) : Option (Nat × Vector Nat 2) :=
  let x := s.out o
  match s.queuePkts o 0, s.queuePkts o 1, s.queuePkts o 2 with
  | _ :: _, _, _ => some (0, x.deficit)
  | [], [], [] => none
  | [], _ :: _, [] => some (1, #v[0, 0])
  | [], [], _ :: _ => some (2, #v[0, 0])
  | [], a :: _, b :: _ =>
    let q := Nat.max 1 Config.drrQuantum
    let ra := roundsFor x.deficit[0] 3 a.2.bytes
    let rb := roundsFor x.deficit[1] 1 b.2.bytes
    if ra ≤ rb then some (1, #v[x.deficit[0] + ra * 3 * q - a.2.bytes, x.deficit[1] + ra * q])
    else some (2, #v[x.deficit[0] + rb * 3 * q, x.deficit[1] + rb * q - b.2.bytes])

/-- Replaces a class queue of an output. -/
def SwitchOut.setQueue (x : SwitchOut) (c : Nat) (l : List Nat) : SwitchOut :=
  if h : c < 3 then { x with queues := x.queues.set c l h } else x

/-- A packet leaves the output it stands in, when it is at the head of the class served next; a packet still
at its source, or held at its destination, leaves at once. -/
def State.depart (s : State) (i : Nat) (k : Packet) : Option State :=
  match k.at_ with
  | none => some s
  | some o =>
    match s.serveNext o with
    | none => none
    | some (c, d) =>
      let x := s.out o
      match x.queues.toList[c]? with
      | some (j :: t) =>
        if j = i then some (s.setOut o { x.setQueue c t with deficit := d, replays := 0 }) else none
      | _ => none

/-- Network share weight of a partition (R372). -/
def Partition.netw (p : Partition) : Nat := Nat.max 1 (leAt p.record 27 1)

/-- Removes a packet's payload: the shaving is reclassed to C0 (R324). -/
def Packet.trimmed (k : Packet) : Packet := { k with trim := true, len := 0, cls := 0, blocks := [], words := [] }

/-- Counts a trim: at the output, for the partition and its meter (R332, R393). -/
def State.countTrim (s : State) (o part : Nat) : State :=
  let x := s.out o
  let s := s.setOut o { x with trims := x.trims + 1 }
  (s.modPart part fun p => { p with shavsent := p.shavsent + 1 }).meter part 11 1

/-- The partition furthest over its share in a class queue of an output, the arriving packet included: ties go
to the arriving packet's partition, then to the lowest (R323). -/
def State.mostOver (s : State) (o c : Nat) (k : Packet) : Nat :=
  let l := (s.queuePkts o c).map Prod.snd ++ [k]
  let occ (p : Nat) : Nat := ((l.filter fun x => x.part == p).map Packet.bytes).sum
  -- Shares are compared across: occ p / w p against occ q / w q.
  let better (p q : Nat) : Bool := decide (occ q * (s.part p).netw < occ p * (s.part q).netw)
  (List.range 48).foldl (fun best p => if better p best then p else best) k.part

/-- Puts a packet into a class queue of an output. -/
def State.enqueue (s : State) (o i : Nat) (k : Packet) : State :=
  let x := s.out o
  let c := k.cls % 3
  let l := (x.queues.toList[c]?).getD []
  { s.setOut o (x.setQueue c (l ++ [i])) with packets := fput s.packets i { k with at_ := some o } }

/-- The queued packet of a partition that a trim takes: with a payload, the nearest to the tail (R323). -/
def State.trimTarget (s : State) (o c part : Nat) : Option (Nat × Packet) :=
  (s.queuePkts o c).reverse.find? fun x => x.2.part == part && x.2.payload

/-- Trims a queued packet; it moves to the C0 queue (R323, R324). -/
def State.trimQueued (s : State) (o c i : Nat) (k : Packet) : State :=
  let x := s.out o
  let l := (x.queues.toList[c]?).getD []
  let s := s.setOut o (x.setQueue c (l.erase i))
  (s.countTrim o k.part).enqueue o i k.trimmed

/-- Trim injection (R292, R333): counts first transmissions with a payload of C1 and C2, and selects every
N-th. -/
def State.injectCount (s : State) (o : Nat) (k : Packet) : Bool × State :=
  let x := s.out o
  if x.inject = 0 ∨ k.retry = true ∨ !k.payload ∨ k.cls = 0 then (false, s)
  else
    let n := x.injCount + 1
    if n % x.inject.toNat = 0 then (true, s.setOut o { x with injCount := 0 })
    else (false, s.setOut o { x with injCount := n })

/-- A class queue of an output has no room for some bytes; an empty one takes any packet. -/
def State.queueFull (s : State) (o c n : Nat) : Bool :=
  let q := s.queueBytes o c
  decide (Config.queueCapacity < q + n) && decide (q ≠ 0)

/-- What an output does with a packet that arrives at it. -/
inductive AtOutput where
  /-- It is queued in its class. -/
  | queued
  /-- It is trimmed, and its shaving queued in C0. -/
  | shaved
  /-- Another packet of the queue is trimmed, and it is queued. -/
  | other (i : Nat) (k : Packet)
  /-- The output upstream holds it (R322). -/
  | full
  deriving DecidableEq, Repr

/-- Judges a packet at an output (R292, R322 to R324): `inj` when the injection selects it. Above three quarters of the
queue's capacity a packet with a payload is subject to one trim: of the queued packet of the partition most over its
share, or its own; its own too where that partition has no payload in the queue (log 97). C0 is never trimmed, and a
shaving that finds its queue full is held upstream with the arriving packet. -/
def State.judgeAt (s : State) (o : Nat) (p : Packet) (inj : Bool) : AtOutput :=
  let c := p.cls % 3
  let own := if s.queueFull o 0 p.trimmed.bytes then .full else .shaved
  if inj then own
  else if p.payload && decide (p.cls ≠ 0) && decide (3 * Config.queueCapacity < 4 * s.queueBytes o c) then
    match (if s.mostOver o c p = p.part then none else s.trimTarget o c (s.mostOver o c p)) with
    | none => own
    | some (i, k) => if s.queueFull o 0 k.trimmed.bytes then .full else .other i k
  else if (decide (p.cls = 0) || !p.payload) && s.queueFull o c p.bytes then .full
  else .queued

/-- The retained copies of an agent: a span port's messages, else its requester's writes, moves and contributions
(R325, R326). -/
def State.keptOf (s : State) (a : AgentId) : List Retained :=
  if a.code = 0x1C0 ∨ a.code = 0x1C1 then fgetD s.spans (a.bay * 2 + a.code % 2) [] else (s.req a).kept

/-- Replaces the retained copies of an agent. -/
def State.setKept (s : State) (a : AgentId) (l : List Retained) : State :=
  if a.code = 0x1C0 ∨ a.code = 0x1C1 then
    { s with spans := fset s.spans (a.bay * 2 + a.code % 2) (if l.isEmpty then none else some l) }
  else s.setReq a { s.req a with kept := l }

/-- The retained copy that a response names: ACK and RESEND by sequence number too, the others by tag, for their SEQ is zero
(R319, R321). -/
def State.keptFor (s : State) (a : AgentId) (p : Packet) : Option Retained :=
  let seq (x : Retained) : Bool := (decide (p.op ≠ .ack) && decide (p.op ≠ .resend)) || decide (x.seq = p.seq)
  (s.keptOf a).find? fun x => decide (x.home = p.src.bay) && decide (x.pkt.tag = p.tag) && seq x

/-- A message, move or contribution that leaves its source for the first time is retained there: a span port keeps up to
1 MiB, another unit 32 packets, and either holds back what is beyond (R325, R326). `none` where it is held back. -/
def State.retain (s : State) (k : Packet) : Option State :=
  if k.at_.isSome || k.metered || k.retry then some s
  else
    let kept := s.keptOf k.src
    let entry : Retained := ⟨k.dst.bay, k.seq, k, s.now, none, none⟩
    match k.op with
    | .span =>
      if 2 ^ 20 < (kept.map fun x => x.pkt.len).sum + k.len then none else some (s.setKept k.src (kept ++ [entry]))
    | .move | .coll => if kept.length < 32 then some (s.setKept k.src (kept ++ [entry])) else none
    | .read | .write | .atomic | .data | .aresp | .ack | .resend | .ownernak | .abandon | .spanack | .spanresend => some s

/-- PACKET_AT_OUTPUT: the packet leaves the output it stands in and arrives at the next of its path, where it
is queued by class or trimmed (R292, R321 to R325, R332, R393). A full queue holds it upstream. Before a link that is
marked failed it takes another route (R412, R452). -/
def execPacketAtOutput (k : Nat) (s : State) : Res :=
  match fget s.packets k with
  | none => .next s
  | some p =>
    match p.path with
    | [] => .next s
    | o :: path =>
      if (s.out o).failed && decide (64 ≤ o) then
        -- A span port has one link: what comes to it is lost.
        .next { s.setOut o { s.out o with errors := (s.out o).errors + 1 } with packets := fdel s.packets k }
      else if (s.out o).failed then .next { s with packets := fput s.packets k { p with path := s.pathFrom (o / 8) p } }
      else
        let inj := s.injectCount o p
        let at_ := s.judgeAt o p inj.1
        if at_ = .full then .next s
        else
          match (inj.2.depart k p).bind fun s => s.retain p with
          | none => .next s
          | some s =>
            let s := if p.metered then s else s.meter p.part 9 p.bytes
            let p := { p with path := path, metered := true }
            if p.malformed then
              .next { s.setOut o { s.out o with errors := (s.out o).errors + 1 } with packets := fdel s.packets k }
            else
              match at_ with
              | .shaved => .next ((s.countTrim o p.part).enqueue o k p.trimmed)
              | .other i q => .next ((s.trimQueued o (p.cls % 3) i q).enqueue o k p)
              | .queued | .full => .next (s.enqueue o k p)

/-- A packet of an operation that has reached its destination and leaves its last output; the state without
it. -/
def State.arrive (s : State) (i : Nat) (op : PktOp) : Option (Packet × State) :=
  match fget s.packets i with
  | none => none
  | some k =>
    if k.op ≠ op ∨ !k.path.isEmpty then none
    else (s.depart i k).map fun s => (k, { s with packets := fdel s.packets i })

/-- A packet that its destination holds has left its last output: those behind it go on (R307, R329). -/
def State.hold (s : State) (i : Nat) (k : Packet) : State :=
  { s with packets := fput s.packets i { k with at_ := none } }

/-- A shaving reached its destination, which counts it whatever becomes of it (R332). -/
def State.received (s : State) (k : Packet) : State :=
  if k.trim then s.modPart k.part fun p => { p with shavrecv := p.shavrecv + 1 } else s

/-! ### Homes -/

/-- A reply from a packet's destination to its source. SEQ is that of a WRITE or ATOMIC in ACK and RESEND, and zero
elsewhere (R319, R321). -/
def Packet.reply (k : Packet) (op : PktOp) (cls : Nat) : Packet :=
  let b := Packet.blank op k.part k.dst k.src cls
  { b with seq := if op = .ack ∨ op = .resend then k.seq else 0, tag := k.tag, slot := k.slot, gen := k.gen, off := k.off,
           phys := k.phys, n := k.n, guest := k.guest, dmod := k.smod, smod := k.dmod, life := k.life }

/-- The channel serving a place holds the partition as owner; host memory has no owner (R378, R379). -/
def State.mayServe (s : State) (part : Nat) : Phys → Bool
  | .hbm a => s.owns part a
  | .host _ => true
  | .remote _ _ => false

/-- Writes of the requester before sequence `seq` that touch one of the blocks and that the home has neither
applied nor been told are abandoned (R329). -/
def State.holeBefore (s : State) (src : AgentId) (h : Nat) (seq : Option (BitVec 16)) (ps : List Phys) : Bool :=
  let kept : List Retained := (s.req src).kept.filter fun r => r.home == h
  let before := match seq with
    | some q => kept.takeWhile fun (r : Retained) => r.seq != q
    | none => kept
  before.any fun (r : Retained) => ps.any (fun p => r.pkt.touches p) && !((s.bay h).home.seqDone.contains (src, r.seq))

/-- The vector condition of R313. -/
def Home.vecOk (h : Home) (v : List (BitVec 32)) : Bool :=
  (v.zipIdx).all fun x => geWrap (fgetD h.applied x.2 0) x.1

/-- The retained copy of a write still exists: it has not been abandoned (R328). -/
def State.stillKept (s : State) (k : Packet) : Bool :=
  (s.req k.src).kept.any fun r => decide (r.home = k.dst.bay) && decide (r.seq = k.seq) && decide (k.life = (s.req k.src).life)

/-- A write or atomic has been applied: A_h and the sequence record advance (R313, R329). -/
def State.markApplied (s : State) (k : Packet) : State :=
  let b := s.bay k.dst.bay
  let h := b.home.mark k.src.bay k.n
  s.setBay k.dst.bay { b with home := { h with seqDone := (k.src, k.seq) :: h.seqDone } }

/-- Reads and writes of host memory count in HOSTBYTES (R393). -/
def State.meterHost (s : State) (part n : Nat) (p : Phys) : State :=
  match p with
  | .host _ => s.meter part 13 n
  | _ => s

/-- READ at the home: one of another module's panel goes out through a span port, and its answer comes in by a turn of its
own (R28, R393; log 111); an owner mismatch is refused with OWNERNAK; otherwise, once the requester's earlier
writes of the block are applied, DATA answers with A_h (R311, R313, R321, R378, R393). -/
def execReadPkt (k : Nat) (s : State) : Res :=
  match s.arrive k .read with
  | none => .next s
  | some (p, s') =>
    match p.phys with
    | .remote _ _ => .next (s'.meter p.part 10 p.bytes)
    | _ =>
      if !s'.mayServe p.part p.phys then .next (s'.send (p.reply .ownernak 0))
      else if s'.holeBefore p.src p.dst.bay none [p.phys] then .next (s'.hold k p)
      else
        let b := s'.mem.block p.phys
        let d := { p.reply .data p.cls with
          len := 64, vec := (s'.bay p.dst.bay).home.vec, blocks := [⟨p.phys, b.1, b.2, fullMask, 1⟩] }
        let s' := match p.phys with
          | .hbm _ => s'.meter p.part 7 64
          | _ => s'.meterHost p.part 64 p.phys
        .next (s'.send d)

/-- Applies the blocks of a write; answers whether one became POISON for differing descriptors. -/
def State.applyBlocks (s : State) (part : Nat) : List BlockW → Bool × State
  | [] => (false, s)
  | w :: t =>
    let r := applyWrite (s.mem.block w.phys) w
    let s := { s with mem := s.mem.setBlock w.phys r.1.1 r.1.2 }
    let s := match w.phys with
      | .hbm _ => s.meter part 8 64
      | _ => s.meterHost part 64 w.phys
    let z := s.applyBlocks part t
    (r.2 || z.1, z.2)

/-- What a WRITE or ATOMIC meets at its home, before it is applied. -/
inductive AtHome where
  /-- It may be applied. -/
  | apply
  /-- It is held behind a hole or its vector (R313, R329). -/
  | held
  /-- Its channel refuses it (R369, R378). -/
  | refused
  /-- It has been abandoned (R328). -/
  | gone
  /-- Its payload was trimmed (R326). -/
  | shaving
  /-- It goes out to another module through a span port (R28). -/
  | away
  deriving DecidableEq, Repr

/-- Judges a WRITE or ATOMIC at its home. -/
def State.judge (s : State) (p : Packet) : AtHome :=
  if !s.stillKept p then .gone
  else if p.trim then .shaving
  else if (p.phys.module).isSome then .away
  else if p.blocks.any fun w => !s.mayServe p.part w.phys then .refused
  else if s.holeBefore p.src p.dst.bay (some p.seq) (p.blocks.map BlockW.phys) then .held
  else if !(s.bay p.dst.bay).home.vecOk p.vec then .held
  else .apply

/-- What a WRITE or ATOMIC does at its home, with `f` the application. -/
def atHome (k : Nat) (op : PktOp) (f : Packet → State → State) (s : State) : Res :=
  match s.arrive k op with
  | none => .next s
  | some (p, s') =>
    match s'.judge p with
    | .gone => .next (s'.received p)
    | .shaving => .next ((s'.received p).send (p.reply .resend 0))
    | .refused => .next (s'.send (p.reply .ownernak 0))
    | .held => .next (s'.hold k p)
    | .away => .next (s'.meter p.part 10 p.bytes)
    | .apply => .next (f p (s'.markApplied p))

/-- WRITE at the home (R309, R313, R326, R329, R378): applied in the block's order and acknowledged. -/
def execWritePkt (k : Nat) (s : State) : Res :=
  atHome k .write (fun p s =>
    let r := s.applyBlocks p.part p.blocks
    r.2.send { p.reply .ack 0 with note := if r.1 then 1 else 0 }) s

/-- The read-modify-write of an atomic: old value, note (1 VOID, 2 POISON) and the block after it (R134,
R135). -/
def atomicApply (b : Data × Desc) (off width aop : Nat) (words : List Word) : Word × Nat × (Data × Desc) :=
  if descPoisoned b.2 then (0, 2, b)
  else
    let void := descIsVoid b.2
    let d : Data := if void then 0 else b.1
    let old := dataBytes d off width
    let w := 8 * width
    let x := ((words.head?).getD 0).toNat
    let new :=
      if aop = 9 then
        if old = (((words.drop 1).head?).getD 0).toNat % 2 ^ w then x % 2 ^ w else old
      else atomicOp aop w old x
    (BitVec.ofNat 64 old, if void then 1 else 0, (setBytes d off width new, if void then descUint8 else b.2))

/-- ATOMIC at the home's channel (R134, R316, R326, R393): one indivisible read-modify-write, answered by
ARESP. -/
def execAtomicPkt (k : Nat) (s : State) : Res :=
  atHome k .atomic (fun p s =>
    let r := atomicApply (s.mem.block p.phys) p.phys.low p.width p.aop p.words
    let s := { s with mem := s.mem.setBlock p.phys r.2.2.1 r.2.2.2 }
    let s := (s.meter p.part 15 1).meterHost p.part (2 * p.width) p.phys
    s.send { p.reply .aresp 0 with len := 8, words := [r.1], note := r.2.1, vec := (s.bay p.dst.bay).home.vec }) s

/-- An add or other atomic of the scheduler, or a deferred one, at its home; a POISON block is not written, and an address that
cannot be reached is left (R134, R165, R338, R443; log 11). -/
def State.homeAtomic (s : State) (part ea width aop : Nat) (words : List Word) : State :=
  match s.t0 part ea with
  | none => s
  | some p =>
    let r := atomicApply (s.mem.block p.blk) p.low width aop words
    let s := { s with mem := s.mem.setBlock p.blk r.2.2.1 r.2.2.2 }
    match p with
    | .hbm _ => s.meter part 15 1
    | _ => s.meterHost part (2 * width) p

/-- ABANDON at the home: the sequence number counts as applied with no effect (R328). -/
def execAbandonPkt (k : Nat) (s : State) : Res :=
  match s.arrive k .abandon with
  | none => .next s
  | some (p, s) =>
    let b := s.bay p.dst.bay
    .next (s.setBay p.dst.bay { b with home := b.home.mark p.src.bay p.n })

/-! ### Requesters -/

/-- A RESEND, DATA or ARESP for a requester that no longer exists is late; one that a live requester waits for no more is
only discarded (R328, R332). -/
def State.countLate (s : State) (p : Packet) : State :=
  if p.life = (s.req p.dst).life then s else s.modPart p.part fun x => { x with late := x.late + 1 }

/-- The window entry that an answer is for, in its requester's own life. -/
def State.answers (s : State) (p : Packet) : Option WinEntry :=
  if p.life = (s.req p.dst).life then (s.req p.dst).entry p.tag else none

/-- A re-request has succeeded: the pacing wait returns to 64 cc (R327). -/
def Requester.success (r : Requester) (retried : Bool) : Requester :=
  if retried then { r with pace := 64, rereq := r.rereq - 1 } else r

/-- The next re-request is due after the pacing wait, which doubles to at most 4 096 cc (R327). -/
def Requester.paced (r : Requester) (now : Nat) : Nat × Requester :=
  (now + r.pace, { r with pace := Nat.min 4096 (2 * r.pace) })

/-- Hands a core the block its instruction waits for. -/
def State.coreData (s : State) (a : AgentId) (tag : Nat) (w : BlockW) : State :=
  match agentPage a with
  | some (p, 0) =>
    let c := (s.page p).core
    if c.wait = some (.resp tag) then
      (s.modCore p fun c => { c with resp := c.resp ++ [(tag, w)], wait := none }).setReq a ((s.req a).dropEntry tag)
    else s
  | _ => s

/-- What a bay hands to a reader of the block that its home has returned: the block as the bay sees it, with the bytes of
its own writes, or as the home has it where the read bypasses the RDC (R307, R310). -/
def State.dataSeen (s : State) (a : AgentId) (p : Packet) (late : List BlockW) (w : BlockW) : BlockW × State :=
  let l := (remoteBlock a.bay w.phys).bind fun b => (s.bay a.bay).rdcLine p.part b
  let z := s.ownOver a.bay l late w
  ({ w with data := z.1, desc := z.2 },
   match l with
   | some x => if x.pend = 0 then s else s.seeUnacked a p.src.bay (x.seen fullMask)
   | none => s)

/-- DATA at the requester: K_d,h learns A_h, the bay's RDC line is filled, and the block enters the reorder
window; a shaving is asked for again (R307, R310, R313, R326, R328, R330). It waits while unacknowledged bytes hold every
way of the RDC that its line needs. -/
def execDataPkt (k : Nat) (s : State) : Res :=
  match s.arrive k .data with
  | none => .next s
  | some (p, s) =>
    let a := p.dst
    let r := s.req a
    match s.answers p with
    | none => .next ((s.received p).countLate p)
    | some e =>
      if e.got.isSome then .next (s.received p)
      else if p.trim then
        let q := r.paced s.now
        .next ((s.received p).setReq a (q.2.modEntry p.tag fun e => { e with due := some q.1 }))
      else
        match p.blocks with
        | [] => .next (s.setBay a.bay ((s.bay a.bay).learnVec p.src.bay p.vec))
        | w :: _ =>
          let past := decide (e.pkt.note = 1)
          let fills := !past && !e.stale
          if fills && !s.rdcRoom a.bay p.part [w.phys] then .next (s.hold k p)
          else
            let s := s.setBay a.bay ((s.bay a.bay).learnVec p.src.bay p.vec)
            -- Writes of the bay that the home had applied before it answered are in the block already.
            let late := (e.late.filter fun x => !geWrap ((p.vec[a.bay]?).getD 0) x.1).map Prod.snd
            let q := if past then (w, s) else (if fills then s.rdcFill a.bay p.part late w else s).dataSeen a p late w
            let s := q.2.setReq a (((q.2.req a).success e.again).modEntry p.tag fun e => { e with got := some ([q.1], [], 0) })
            .next (s.coreData a p.tag q.1)

/-- The reads of a bay under way take note of an acknowledged write: its bytes, which the bay has seen, stand over what an
older answer brings (R307, R312). -/
def State.noteLate (s : State) (a : AgentId) (x : Retained) : State :=
  if x.pkt.op ≠ .write then s
  else
    x.pkt.blocks.foldl (fun s w =>
      match remoteBlock a.bay w.phys with
      | none => s
      | some b =>
        if s.rdcOn a.bay x.pkt.part then
          s.modReads a.bay x.pkt.part (fun j => j == b) fun e => { e with late := e.late ++ [(x.pkt.n, w)] }
        else s) s

/-- A write that needs its retained copy no more, for it has been applied or is given up: the copy is released, its RDC
bytes are no longer unacknowledged, and the holds on it end (R307, R314, R325). -/
def State.letGo (s : State) (a : AgentId) (x : Retained) (applied : Bool) : State :=
  let s := (if applied then s.noteLate a x else s).setKept a ((s.keptOf a).erase x)
  let b := s.bay x.home
  let s := s.setBay x.home { b with home := { b.home with seqDone := b.home.seqDone.erase (a, x.seq) } }
  let s := s.setBay a.bay (x.pkt.blocks.foldl (fun (y : Bay) w =>
    match w.phys with
    | .hbm z => if applied then y.rdcAck x.pkt.n (z / 64) else y.rdcGiveUp x.pkt.n (z / 64)
    | _ => y) (s.bay a.bay))
  let drop (q : AgentId × Requester) : AgentId × Requester :=
    if q.1.bay = a.bay then (q.1, { q.2 with holds := q.2.holds.filter fun z => z != (x.home, x.pkt.n) }) else q
  let s := { s with reqs := s.reqs.map drop }
  (s.reqs.map Prod.fst).foldl (fun s q => if q.bay = a.bay then State.flushUnsent q 32 s else s) s

/-- An acknowledged write: as `letGo`, and where it was retransmitted its re-request has succeeded (R327). -/
def State.acked (s : State) (a : AgentId) (p : Packet) : State :=
  match s.keptFor a p with
  | none => s
  | some x => (s.setReq a ((s.req a).success x.pkt.retry)).letGo a x true

/-- A write that is given up: as `letGo`, and a re-request of it is outstanding no more (R327, R328). -/
def State.givenUp (s : State) (a : AgentId) (x : Retained) : State :=
  let r := s.req a
  (s.setReq a { r with rereq := if x.pkt.retry then r.rereq - 1 else r.rereq }).letGo a x false

/-- ARESP at the requester (R134, R313, R325, R326). -/
def execArespPkt (k : Nat) (s : State) : Res :=
  match s.arrive k .aresp with
  | none => .next s
  | some (p, s) =>
    let a := p.dst
    match s.answers p with
    | none => .next (s.countLate p)
    | some e =>
      let s := s.setBay a.bay ((s.bay a.bay).learnVec p.src.bay p.vec)
      let s := (s.acked a p).rdcAtomic a.bay e.pkt p.vec
      let s := s.setReq a ((s.req a).modEntry p.tag fun e => { e with got := some ([], p.words, p.note) })
      match agentPage a with
      | some (pg, 0) =>
        let c := (s.page pg).core
        if c.wait = some (.resp p.tag) then
          .next ((s.modCore pg fun c => { c with scratch := p.words ++ [BitVec.ofNat 64 p.note], wait := none }).setReq a
            ((s.req a).dropEntry p.tag))
        -- A CADD's response, for which nothing waits (R165).
        else .next (s.setReq a ((s.req a).dropEntry p.tag))
      | _ => .next s

/-- The engine of an agent code. -/
def agentEngine (a : AgentId) : Option Nat :=
  if 0x1B0 ≤ a.code ∧ a.code ≤ 0x1B5 then some (a.bay * 8 + (a.code - 0x1B0)) else none

/-- The engine's running command has met MIX (R152). -/
def Engine.setMix (x : Engine) : Engine :=
  match x.cmds with
  | [] => x
  | c :: t => { x with cmds := { c with mix := true } :: t }

/-- ACK at the requester (R152, R307, R314, R325, R331). -/
def execAckPkt (k : Nat) (s : State) : Res :=
  match s.arrive k .ack with
  | none => .next s
  | some (p, s) =>
    let s := match agentEngine p.dst with
      | some g => if p.note = 1 then { s with engines := fmod s.engines g Engine.setMix } else s
      | none => s
    .next (s.acked p.dst p)

/-- The retained copy that a RESEND or SPANRESEND names is due again after the pacing wait (R326, R327). `late` says whether
one that names none may count as late. -/
def State.askAgain (s : State) (p : Packet) (late : Bool) : State :=
  let a := p.dst
  match s.keptFor a p with
  | some x =>
    let q := (s.req a).paced s.now
    (s.setReq a q.2).setKept a ((s.keptOf a).map fun y => if y = x then { y with due := some q.1 } else y)
  | none => if late then s.countLate p else s

/-- RESEND at the requester: the retained copy is due again after the pacing wait (R326 to R328). -/
def execResendPkt (k : Nat) (s : State) : Res :=
  match s.arrive k .resend with
  | none => .next s
  | some (p, s) => .next (s.askAgain p true)

/-- The function an agent's events go to. -/
def State.vfOfAgent (s : State) (a : AgentId) : Nat :=
  match agentPage a with
  | some (p, _) => s.vfOfPage p
  | none =>
    match agentEngine a with
    | some g => (((fgetD s.engines g Engine.reset).cmds.head?).map fun c => s.vfOfTruss c.truss).getD 0
    | none =>
      match (agentLink a).bind (fget s.links) with
      | some l => (([l.prod, l.cons].filterMap id).find? fun t => (fget s.trusses t).isSome).elim 0 s.vfOfTruss
      | none => 0

/-- Sends a packet again, as a new transmission in its class. -/
def State.sendAgain (s : State) (k : Packet) : State := s.send { k with trim := false, retry := true, metered := false }

/-- Sends a re-request, which the partition counts (R326, R327, R332). -/
def State.resend (s : State) (k : Packet) : State :=
  (s.sendAgain k).modPart k.part fun p => { p with resends := p.resends + 1 }

/-- A place that the map now gives a guest granule, for a packet that was refused there. -/
def State.movedTo (s : State) (part guest : Nat) (p : Phys) : Phys :=
  match p with
  | .hbm a =>
    match fget (s.part part).granules guest with
    | some h => .hbm (hbmAddr h a)
    | none => p
  | q => q

/-- A refused packet as it is sent again, to the granule's place of now and to the home of that place. -/
def State.readdress (s : State) (g : Nat) (k : Packet) : Packet :=
  let p := s.movedTo k.part g k.phys
  { k with phys := p, dst := homeAgent (p.home k.src.bay), blocks := k.blocks.map fun w => { w with phys := s.movedTo k.part g w.phys } }

/-- The guest granules that have refused requests of a requester which it still holds. -/
def Requester.refusals (r : Requester) : List Nat :=
  r.kept.filterMap Retained.refused ++ r.win.filterMap WinEntry.refused

/-- A requester's stall on an owner refusal, as its requests still refused make it. -/
def Requester.restalled (r : Requester) : Requester :=
  { r with stall := (r.refusals.head?).map Stall.owner }

/-- A write refused at a place from which its granule has gone takes its number toward the home of the new place: the old
home is told that it will not come (R328, R377). -/
def State.rehome (s : State) (a : AgentId) (x : Retained) (k : Packet) : Retained × State :=
  if k.dst.bay = x.home then ({ x with refused := none, pkt := k }, s)
  else
    let h := k.dst.bay
    let s := s.send (x.abandon a)
    let r := s.req a
    let seq := fgetD r.seqs h 0
    let b := s.bay a.bay
    let n := fgetD b.nextN h 0 + 1
    let k := { k with seq := seq, n := n, vec := if a.bay = h then [] else b.knowVec h }
    let b := { x.pkt.blocks.foldl (fun (y : Bay) w => match w.phys with
      | .hbm z => y.rdcGiveUp x.pkt.n (z / 64)
      | _ => y) b with nextN := fput b.nextN h n }
    let s := (s.setBay a.bay b).setReq a { r with seqs := fput r.seqs h (seq + 1) }
    let s := if k.op = .write then k.blocks.foldl (fun s w => s.rdcWrite a.bay k.part n w) s else s
    (⟨h, seq, k, s.now, none, none⟩, s)

/-- A refused agent's requests for a guest granule are sent again, writes in sequence order, to the granule's place of now;
no trim counter counts them (R369, R371). Answers the tag of a read among them. -/
def State.resendRefused (s : State) (a : AgentId) (g : Nat) : Option Nat × State :=
  let again := (s.req a).kept.filter fun k => decide (k.refused = some g)
  let s := again.foldl (fun s x =>
    let z := s.rehome a x (s.readdress g x.pkt)
    let r := z.2.req a
    (z.2.setReq a { r with kept := r.kept.map fun y => if y = x then z.1 else y }).sendAgain z.1.pkt) s
  let reads := (s.req a).win.filter fun e => decide (e.refused = some g)
  let s := reads.foldl (fun s e =>
    let k := s.readdress g e.pkt
    let r := s.req a
    (s.setReq a (r.modEntry e.tag fun e => { e with refused := none, pkt := k })).sendAgain k) s
  ((reads.find? fun e => e.pkt.op == .read).map WinEntry.tag, s)

/-- A refused agent is resumed for a guest granule: it sends its refused requests again and, with none refused any more, goes
on; everything it has outstanding is timed again (R369, R412). -/
def State.resumeRequests (s : State) (a : AgentId) (g : Nat) : State :=
  let z := s.resendRefused a g
  let r := z.2.req a
  let s := z.2.setReq a { r.restalled with kept := r.kept.map fun k => { k with sent := s.now },
                                           win := r.win.map fun e => { e with sent := s.now } }
  let s := match agentPage a with
    | some (p, 0) => s.modCore p fun c =>
        match c.wait, z.1 with
        | some (.stall (.owner _)), some t => { c with wait := some (.resp t) }
        | some (.stall (.owner _)), none => { c with wait := none }
        | _, _ => c
    | _ => s
  State.flushUnsent a 32 s

/-- OWNERNAK at the requester (R369, R378, R401): it keeps its copy, sends nothing new and stalls, with one ISOFAULT event for
the refusal. A requester that the grant has already reached sends the request again at once. -/
def execOwnernakPkt (k : Nat) (s : State) : Res :=
  match s.arrive k .ownernak with
  | none => .next s
  | some (p, s) =>
    let a := p.dst
    let r := s.req a
    let kept := s.keptFor a p
    let wr := kept.isSome
    if p.life ≠ r.life ∨ (!wr && (r.entry p.tag).isNone) = true then .next s
    else if (agentPage a).any fun z => decide ((s.page z.1).status ≠ .used) then
      -- The last write-back of a truss that has left its page (R418): nothing of it is left to stall.
      .next ((kept.map fun x => s.givenUp a x).getD s)
    else
      let g := p.guest
      let q := if r.refusals.contains g then (Stall.owner g, s) else s.raiseIso (s.vfOfAgent a) a g wr
      let s := q.2
      let r := s.req a
      let r := if wr then { r with kept := r.kept.map fun x => if some x = kept then { x with refused := some g } else x }
        else r.modEntry p.tag fun e => { e with refused := some g }
      let s := s.setReq a { r with stall := if r.stall.isSome then r.stall else some q.1 }
      let s : State := match agentPage a with
        | some (pg, 0) => s.modCore pg fun c => if c.wait = some (.resp p.tag) ∧ wr = false then { c with wait := some (.stall q.1) } else c
        | _ => s
      .next (if s.mayServe p.part (s.movedTo p.part g p.phys) = true then s.resumeRequests a g else s)

/-- RETRANSMIT: the `n`-th of a requester's retained copies and window entries, when it is due and fewer than 8
re-requests are outstanding or it is one of them; its 2 ms begin anew (R326, R327, R412). -/
def execRetransmit (a : AgentId) (n : Nat) (s : State) : Res :=
  let r := s.req a
  let kept := s.keptOf a
  let full (again : Bool) : Bool := decide (8 ≤ r.rereq) && !again
  match kept[n]? with
    | some x =>
      match x.due with
      | some t =>
        if s.now < t || full x.pkt.retry then .next s
        else
          let k := { x.pkt with retry := true }
          let x' := { x with due := none, sent := s.now, pkt := k }
          let s := (s.setReq a { r with rereq := if x.pkt.retry then r.rereq else r.rereq + 1 }).setKept a (kept.set n x')
          .next (s.resend k)
      | none => .next s
    | none =>
      match r.win[n - kept.length]? with
      | some e =>
        match e.due with
        | some t =>
          if s.now < t || full e.pkt.retry then .next s
          else
            let k := { e.pkt with retry := true }
            let r' := { r with rereq := if e.pkt.retry then r.rereq else r.rereq + 1 }
            .next ((s.setReq a (r'.modEntry e.tag fun e => { e with due := none, sent := s.now, pkt := k })).resend k)
        | none => .next s
      | none => .next s

/-- 2 ms in cc of 1.6 GHz (R5, R412). -/
def responseTimeout : Nat := 3200000

/-- The truss an agent acts for. -/
def State.trussOfAgent (s : State) (a : AgentId) : Option Nat :=
  match agentPage a with
  | some (p, _) => if (s.page p).status = .used then some (s.page p).truss else none
  | none =>
    match agentEngine a with
    | some g => ((fgetD s.engines g Engine.reset).cmds.head?).map EngCmd.truss
    | none =>
      match agentLink a with
      | some l => (fget s.links l).bind fun x =>
          let ends := (if a.sub % 2 = 1 then [x.prod, x.cons] else [x.cons, x.prod]).filterMap id
          ends.find? fun t => (fget s.trusses t).isSome
      | none =>
        -- The move unit works for the truss that is moved, or for one that forks.
        if a.code ≠ 0x1B8 then none
        else
          match s.move with
          | some m => some m.truss
          | none => (s.forks.find? fun z => !z.2.tags.isEmpty && z.2.rivals.isEmpty).bind fun z => z.2.trusses.head?

/-- The DETAIL that names an agent (R353): ELEM 0 of its page for a core, the site of a port or element, the issuing
element of an engine's command. -/
def State.agentDetail (s : State) (a : AgentId) : Word :=
  let ix := (((s.trussOfAgent a).bind (fget s.trusses)).map Truss.ix).getD 0
  match agentPage a with
  | some (p, k) =>
    let site := if k = 0 then 0 else if k = 3 then a.sub else 56 + a.sub
    detailOf ((s.page p).ix * 64 + site) (s.page p).ix ix
  | none =>
    match (agentEngine a).bind fun g => (fgetD s.engines g Engine.reset).cmds.head? with
    | some c => detailOf c.elem (s.page c.page).ix ix
    | none => detailOf 0 0 ix

/-- The item of an agent completes FAILED(LINKERR), and DETAIL names the agent (R351, R411, R412). -/
def State.linkErr (s : State) (a : AgentId) : State :=
  match s.trussOfAgent a with
  | none => s
  | some t => s.failItem t 0x0A (s.agentDetail a)

/-- RESPONSE_TIMEOUT: a request with no answer for 2 ms from its last sending, while its requester is not stalled; one that
has been answered, and is due to be sent again, is not timed. A read counts as failed; a write is abandoned (R328, R412). `tag` names a window entry, else a retained copy's sequence number. -/
def execResponseTimeout (a : AgentId) (tag : Nat) (s : State) : Res :=
  let r := s.req a
  let held := match agentPage a with
    | some (p, 0) => match (s.page p).core.wait with
      | some (.stall _) => true
      | _ => false
    | _ => false
  if r.stall.isSome || held then .next s
  else
    match r.entry tag with
    | some e =>
      if e.got.isSome ∨ e.due.isSome = true ∨ s.now < e.sent + responseTimeout then .next s
      else
        let r := { r with rereq := if e.again then r.rereq - 1 else r.rereq }
        let s := (s.setReq a (r.modEntry tag fun e => { e with got := some ([], [], 2), failed := true })).linkErr a
        match agentPage a with
        | some (p, 0) =>
          .next (s.modCore p fun c => if c.wait = some (.resp tag) then { c with wait := none, failed := true } else c)
        | _ => .next s
    | none =>
      match (s.keptOf a).find? fun x => decide (x.seq.toNat = tag) && x.due.isNone && decide (x.sent + responseTimeout ≤ s.now) with
      | none => .next s
      | some x =>
        let s := if x.pkt.op = .write ∨ x.pkt.op = .atomic then s.send (x.abandon a) else s
        .next ((s.givenUp a x).linkErr a)

/-- LINK_REPLAY: the packet at the head of a link's output fails its check once more; after the eighth failure
the link is marked failed, the packet is a link error, and the packets behind it take other links (R412,
R452). -/
def execLinkReplay (k : Nat) (s : State) : Res :=
  match fget s.packets k with
  | none => .next s
  | some p =>
    match p.at_ with
    | none => .next s
    | some o =>
      let x := s.out o
      if (o / 8 = o % 8 ∧ o < 64) ∨ x.failed = true then .next s
      else if x.replays < 7 then .next (s.setOut o { x with replays := x.replays + 1 })
      else
        let ids := x.queues.toList.flatten
        let s := s.setOut o { x with failed := true, errors := x.errors + 1, replays := 0, queues := Vector.replicate 3 [] }
        let s := { s with packets := fdel s.packets k }
        .next (ids.foldl (fun s i =>
          match fget s.packets i with
          | some q => { s with packets := fput s.packets i { q with at_ := none, path := if 64 ≤ o then [o] else s.pathFrom (o / 8) q } }
          | none => s) s)

/-- BACKGROUND_SCRUB: the scrub of a bay finds `n` soft errors, corrected, and uncorrectable ones in the HBM4
blocks listed, which become POISON; both are counted, and no item fails (R409 to R411). -/
def execBackgroundScrub (b n : Nat) (bad : List Nat) (s : State) : Res :=
  let mine := bad.filter fun k => decide (homeBay (k * 64) = b)
  let s := mine.foldl (fun s k =>
    { s with mem := s.mem.setBlock (.hbm (k * 64)) (s.mem.block (.hbm (k * 64))).1 descPoison }) s
  let x := s.bay b
  .next (s.setBay b { x with errors := x.errors + BitVec.ofNat 64 (n + mine.length) })

/-! ### Span, move and collective packets -/

/-- What may come to a switch from outside the model's own agents (log 111): a message or contribution and their
answers; an answer to a request that has gone to another module; or a packet that a switch drops. -/
def State.external (s : State) (k : Packet) : Bool :=
  let mine (a : AgentId) : Bool :=
    ((s.req a).win.any fun e => e.tag == k.tag && e.pkt.dmod.isSome) || (s.keptOf a).any fun x => x.pkt.tag == k.tag && x.pkt.dmod.isSome
  k.malformed || (match k.op with
    | .span | .spanack | .spanresend | .coll => true
    | .data | .ack | .resend =>
      mine k.dst && k.vec.isEmpty && k.phys.module.isSome && k.blocks.all fun w => w.phys.module.isSome
    | .read | .write | .atomic | .aresp | .ownernak | .abandon | .move => false)

/-- A packet from outside is at its switch; one that comes over a span link counts there (R393). -/
def State.bringIn (s : State) (k : Packet) : State :=
  if !s.external k then s
  else
    let k := { k with at_ := none, metered := false, retry := false, trim := false, life := (s.req k.dst).life }
    (if k.smod.isSome then s.meter k.part 10 k.bytes else s).send k

/-- A packet of a span port goes out over its link, and counts there (R393); or `f` takes it at its span port. -/
def spanPacket (k : Nat) (op : PktOp) (f : Packet → State → State) (s : State) : Res :=
  match s.arrive k op with
  | none => .next s
  | some (p, s) => .next (if p.dmod.isSome then s.meter p.part 10 p.bytes else f p s)

/-- SPAN at its destination span port: acknowledged, or asked for again (R325, R326, R393). -/
def execSpanPkt (k : Nat) (s : State) : Res :=
  spanPacket k .span (fun p s =>
    if p.trim then (s.received p).send (p.reply .spanresend 0) else s.send (p.reply .spanack 0)) s

/-- SPANACK: the message is no longer retained (R325). -/
def execSpanackPkt (k : Nat) (s : State) : Res := spanPacket k .spanack (fun p s => s.acked p.dst p) s

/-- SPANRESEND: the source sends the retained message again (R326, R327). -/
def execSpanresendPkt (k : Nat) (s : State) : Res :=
  spanPacket k .spanresend (fun p s => s.askAgain p false) s

/-- MOVE and COLL at their destination unit: taken, or asked for again as a WRITE is (R321, R326). -/
def unitPacket (k : Nat) (op : PktOp) (s : State) : Res :=
  match s.arrive k op with
  | none => .next s
  | some (p, s) =>
    if p.trim then .next ((s.received p).send (p.reply .resend 0)) else .next (s.send (p.reply .ack 0))

/-- MOVE at its destination page's unit (R321, R326). -/
def execMovePkt (k : Nat) (s : State) : Res := unitPacket k .move s

/-- COLL at its reduce engine (R321, R326). -/
def execCollPkt (k : Nat) (s : State) : Res := unitPacket k .coll s

end Sys2Proof.Machine
end

