-- ==== Sys2Proof/Machine/Router.lean ====
section
/-! DEFINITION. Routers: the move of a token into a hop, sills, edge-port queues, links, and the operators STEER,
MERGE, CARRY and MITRE (R12, R13, R77, R78, R239 to R244, R253 to R255, R357, R368, R390, R391, R410, R416, R422). -/

namespace Sys2Proof.Machine

/-! ### Hops -/

/-- The partition register of a router (R12, R77). -/
def Elem.partReg (x : Elem) : Nat := x.fld 45 % 64

/-- Tokens of a hop that have crossed the seam stand in it. -/
def State.landHop (s : State) (p e h : Nat) : State :=
  match (s.elem p e).seam with
  | [] => s
  | _ =>
    let l := (fget (s.elem p e).seam h).getD []
    let here := l.takeWhile fun z => decide (z.1 ≤ s.now)
    let rest := l.drop here.length
    s.modElem p e fun x => { x with
      seam := fset x.seam h (if rest.isEmpty then none else some rest),
      hops := if here.isEmpty then x.hops else fput x.hops h ((fget x.hops h).getD [] ++ here.map Prod.snd) }

/-- Hops of a router that a source drives (R78). -/
def Elem.named (x : Elem) (src : Nat) : List Nat := hopKeys.filter fun h => decide (x.src h = src)

/-- Every hop that a source drives has room. -/
def State.namedFree (s : State) (p e src : Nat) : Bool := ((s.elem p e).named src).all fun h => s.hopFree p e h

/-- A token enters every hop that a source drives. -/
def State.enterNamed (s : State) (p e src : Nat) (t : Token) : State :=
  ((s.elem p e).named src).foldl (fun s h => s.enterHop p e h t) s

/-! ### Sills (R390, R391) -/

/-- A token is dropped at the sill between router (q, f), where it comes from, and router (p, e). -/
def State.sillDrop (s : State) (q f p e : Nat) : State :=
  let src := (s.elem q f).partReg
  let dst := (s.elem p e).partReg
  let s := if src = 0x3F then { s with freeSill := s.freeSill + 1 }
           else s.modPart src fun x => { x with silldrop := x.silldrop + 1 }
  let count := if src = 0x3F then s.freeSill else (s.part src).silldrop
  let low := q * 2 ^ 6 + f
  let info := dst * 2 ^ 30 + p * 2 ^ 21 + e * 2 ^ 15 + low
  let s := s.sendPfEvent ⟨2, BitVec.ofNat 64 info, count⟩
  if src = 0x3F ∨ (s.trussOf q).isNone then s
  else (s.sendEvent (s.vfOfPage q) ⟨2, BitVec.ofNat 64 low, count⟩).2

/-! ### Links (R356, R357, R416, R422) -/

/-- The link that a truss consumes from or produces into under a number. -/
def State.linkOf (s : State) (t num : Nat) (outw : Bool) : Option (Nat × Link) :=
  s.links.find? fun z => z.2.num == num && (if outw then z.2.prod == some t else z.2.cons == some t)

/-- Bytes of a spill ring that a token takes (log 13). -/
def spillBytes : Nat := Nat.max 1 Config.spillEntry

/-- Tokens that a link holds at most, its ring included (R161). -/
def Link.room (l : Link) : Nat := l.cap + (if l.spillSize = 0 then 0 else l.spillSize / spillBytes)

/-- Tokens ready for the consumer: those held from its count on (R416). -/
def Link.ready (l : Link) : Nat := l.first + l.queue.length - l.consN

/-- Free places of a link (R161, R416). -/
def Link.freeSpace (l : Link) : Nat := l.room - l.queue.length

/-- Places that a producer can fill: those free, and none is taken by tokens that a restarted one makes again (R161, R416). -/
def Link.takes (l : Link) : Nat := l.freeSpace + (l.hwm - l.prodN)

/-- Block addresses of the ring that token `i` lies in. -/
def Link.ringBlocks (l : Link) (i : Nat) : List Nat :=
  let off := i * spillBytes % l.spillSize
  (List.range (spillBytes / 64 + 2)).filterMap fun k =>
    let a := l.spillBase + off / 64 * 64 + 64 * k
    if a < l.spillBase + off + spillBytes ∧ a < l.spillBase + l.spillSize then some a else none

/-- The bytes of a ring block at an address that token `i` takes. -/
def Link.ringMask (l : Link) (i b : Nat) : BitVec 64 :=
  let lo := l.spillBase + i * spillBytes % l.spillSize
  let hi := Nat.min (lo + spillBytes) (l.spillBase + l.spillSize)
  let from_ := Nat.max lo b
  byteMask (from_ - b) (Nat.min hi (b + 64) - from_)

/-- The spill unit's translations of ring blocks for a link of page `p`'s truss: `none` and a stall where a panel
cannot be reached (R401, R422). -/
def spillReach (p : Nat) (a : AgentId) (l : Link) (wr : Bool) : List Nat → State → Option (List (Nat × Phys)) × State
  | [], s => (some [], s)
  | b :: bs, s =>
    let part := ((s.trussOf p).map Truss.part).getD 0x3F
    let vfn := s.vfOfPage p
    let stall (q : Stall × State) : Option (List (Nat × Phys)) × State :=
      (none, q.2.setReq a { q.2.req a with stall := some q.1 })
    let r := s.xlate (bayOf p) part 0 0 (b / 2 ^ 16)
    match r.1 with
    | .leaf e =>
      match r.2.placeOf part e b with
      | .ok ph =>
        match spillReach p a l wr bs r.2 with
        | (some t, s') => (some ((b, ph) :: t), s')
        | n => n
      | .error g => stall (r.2.raiseIso vfn a g wr)
    | .owner g => stall (r.2.raiseIso vfn a g wr)
    | .fault => stall (r.2.raiseFault part vfn a 0 0 (b / 2 ^ 16) wr)
    | .bad e =>
      match r.2.raiseXlateErr vfn 0 0 (b / 2 ^ 16) e with
      | (some st, s) => stall (st, s)
      -- A failed page request: both trusses of the link fail (R301, R405).
      | (none, s) => (none, ([l.prod, l.cons].filterMap id).foldl (fun s t => s.failTruss t 0x08 0 0) s)

/-- Free values for the bytes of a block: the spec gives a spill ring no layout (log 13). -/
def State.freeData (s : State) : Data × State :=
  (List.range 8).foldl (fun (z : Data × State) k =>
    let v := z.2.freeVal
    (setBytes z.1 (8 * k) 8 v.1.toNat, v.2)) ((0 : Data), s)

/-- A block of a SAVE area is written: the spec gives it no layout, so its bytes are free values (log 14). -/
def State.spillBlock (s : State) (ph : Phys) : State :=
  let r := s.freeData
  { r.2 with mem := r.2.mem.setBlock ph r.1 (r.2.mem.block ph).2 }

/-- A truss of the link is being copied by a move: the link passes no token (R386). -/
def State.linkHeld (s : State) (l : Link) : Bool :=
  match s.move with
  | some m => decide (m.state = 1) && (l.prod == some m.truss || l.cons == some m.truss)
  | none => false

/-- A token enters a link at its outbound endpoint on page `p`; `none` while the link has no room. One that overflows into the
ring leaves as writes of the spill unit in C2 (R356, R357, R422). -/
def State.linkIn (s : State) (p link : Nat) (l : Link) (t : Token) : Option State :=
  if l.prodN < l.hwm then
    -- A restarted producer makes this token again: it is discarded (R416).
    some { s with links := fput s.links link { l with prodN := l.prodN + 1, resOut := l.resOut - 1 } }
  else if l.room ≤ l.queue.length ∨ s.linkHeld l = true then none
  else
    let l' := { l with queue := l.queue ++ [t], prodN := l.prodN + 1, hwm := l.hwm + 1, resOut := l.resOut - 1 }
    let put (s : State) : State := { s with links := fput s.links link l' }
    if l.queue.length < l.cap then some (put s)
    else
      let a := spillAgent link l true
      let part := ((s.trussOf p).map Truss.part).getD 0x3F
      let bs := l.ringBlocks l.prodN
      let r := s.req a
      if r.stall.isSome || decide (32 < r.kept.length + r.unsent.length + bs.length) then none
      else
        match spillReach p a l true bs s with
        | (some ps, s') =>
          some (put (ps.foldl (fun s z =>
            let d := s.freeData
            d.2.submitWrite a (writePacket a part 0 0 z.1 [⟨z.2, d.1, descUint8, l.ringMask l.prodN z.1, 0⟩])) s'))
        | (none, s') => some s'

/-- The next token for a link's consumer on page `p`, and the state after it is taken; `none` where there is none, or
its ring has still to be read or cannot be. A failed read fails both trusses (R356, R405, R422). -/
def State.linkOut (s : State) (p link : Nat) (l : Link) : Option Token × State :=
  if l.ready = 0 ∨ s.linkHeld l = true then (none, s)
  else
    match l.queue[l.consN - l.first]? with
    | none => (none, s)
    | some t =>
      let a := spillAgent link l false
      let take (s : State) : Option Token × State :=
        (some t, { s with links := fput s.links link { l with consN := l.consN + 1, resIn := l.resIn - 1, reads := [] } })
      if l.consN - l.first < l.cap then take s
      else if (s.req a).stall.isSome then (none, s)
      else
        match l.reads with
        | [] =>
          match spillReach p a l false (l.ringBlocks l.consN) s with
          | (none, s') => (none, s')
          | (some ps, s') =>
            let part := ((s.trussOf p).map Truss.part).getD 0x3F
            let z := ps.foldl (fun (r : List Nat × State) z =>
              let q := r.2.readReq a part z.2 0 0 z.1 (l.ringMask l.consN z.1) .cached
              (r.1 ++ [q.1], q.2)) ([], s')
            (none, { z.2 with links := fput z.2.links link { l with reads := z.1 } })
        | tags =>
          let es := tags.filterMap (s.req a).entry
          if es.any fun e => e.got.isNone then (none, s)
          else
            let u := s.setReq a (tags.foldl Requester.dropEntry (s.req a))
            if es.any WinEntry.failed then (none, ([l.prod, l.cons].filterMap id).foldl (fun s t => s.failTruss t 0x08 0 0) u)
            else take u

/-! ### TOKEN_HOP -/

/-- The hop of the neighbour on side `d` that leads to a router: its south, west, north or east output. -/
def facing (d : Nat) : Nat :=
  match d with
  | 1 => 34
  | 2 => 35
  | 3 => 32
  | _ => 33

/-- The fabric at a page may move tokens: no move copies it now. -/
def State.hopsRun (s : State) (p : Nat) : Bool :=
  !(s.inMove p && decide (((s.move.map Move.state).getD 0) = 1)) && decide (p < 432)

/-- A token from a neighbour's hop moves on, is dropped at a sill, or is discarded where no field names its side
(R253, R368, R390). -/
def hopFromSide (p e d : Nat) (s : State) : State :=
  match neighbour p e d with
  | none => s
  | some (q, f) =>
    if !s.hopsRun q then s
    else
      let h := facing d
      let s := s.landHop q f h
      match (s.elem q f).hopHead h with
      | none => s
      | some t =>
        let pop (s : State) : State := s.modElem q f fun x => x.hopPop h
        let x := s.elem q f
        if (x.fld 46).testBit 7 && (x.fld 46).testBit 6 && (s.inside q f (h - 31)).isNone && decide (x.src h ≠ 0) then s
        else if x.partReg ≠ (s.elem p e).partReg then (pop s).sillDrop q f p e
        else if ((s.elem p e).named d).isEmpty then ((pop s).checked p e t).2
        else if !s.hopsRun p || !s.namedFree p e d then s
        else
          let r := (pop s).checked p e t
          match r.1 with
          | some t => r.2.enterNamed p e d t
          | none => r.2

/-- A token from the edge port of a site moves into the fabric (R13). -/
def hopFromEdge (p e : Nat) (s : State) : State :=
  if ((s.elem p e).named 5).isEmpty || !s.namedFree p e 5 then s
  else
    let go (t : Token) (s : State) : State :=
      let r := s.checked p e t
      match r.1 with
      | some t => r.2.enterNamed p e 5 t
      | none => r.2
    let pg := s.page p
    match edgeIn e with
    | some 8 =>
      match pg.ctx with
      | t :: rest => go t (s.setPage p { pg with ctx := rest })
      | [] => s
    | some k =>
      match (pg.port k).queue with
      | t :: rest => go t (s.modPort p k fun y => { y with queue := rest })
      | [] => s
    | none => s

/-- A token leaves a result queue of the element for every hop that names the output (R78, R251). -/
def hopFromElem (p e k : Nat) (s : State) : State :=
  let x := s.elem p e
  match (if k = 0 then x.q0 else x.q1) with
  | [] => s
  | t :: rest =>
    if (x.named (6 + k)).isEmpty || !s.namedFree p e (6 + k) then s
    else
      let s := s.modElem p e fun y => if k = 0 then { y with q0 := rest } else { y with q1 := rest }
      let r := s.checked p e t
      match r.1 with
      | some t => r.2.enterNamed p e (6 + k) t
      | none => r.2

/-- A token leaves a link at its inbound endpoint (R357). -/
def hopFromLink (p e : Nat) (s : State) : State :=
  let x := s.elem p e
  if !(x.fld 46).testBit 7 || (x.fld 46).testBit 6 || (x.named 13).isEmpty || !s.namedFree p e 13 then s
  else
    match s.linkOf (s.page p).truss (x.fld 46 % 64) false with
    | none => s
    | some (n, l) =>
      match s.linkOut p n l with
      | (some t, s') =>
        let r := s'.checked p e t
        match r.1 with
        | some t => r.2.enterNamed p e 13 t
        | none => r.2
      | (none, s') => s'

/-- A token of the REDGE hop enters the outbound half's queue of 4 tokens (R13). -/
def hopToEdge (p e : Nat) (s : State) : State :=
  match (s.elem p e).hopHead 36, edgeOut e with
  | some t, some k =>
    let pg := s.page p
    let len := if k = 9 then (if t.kind = 0 then pg.crxHeld else 0) else if k = 10 then (if t.kind = 2 then 0 else pg.cmd.length)
      else (pg.port k).queue.length
    if 4 ≤ len then s
    else
      let r := (s.modElem p e fun x => x.hopPop 36).checked p e t
      match r.1 with
      | none => r.2
      | some t =>
        let pg := r.2.page p
        match k with
        | 9 => r.2.reachCrx p t
        | 10 => if t.kind = 2 then r.2.strandedConfig p t else r.2.setPage p { pg with cmd := pg.cmd ++ [t] }
        | k => r.2.modPort p k fun y => { y with queue := y.queue ++ [t] }
  | _, _ => s

/-- The hop that an outbound endpoint feeds its link from: an output that leaves the truss (R78). -/
def State.linkHop (s : State) (p e : Nat) : Option Nat :=
  let x := s.elem p e
  if (x.fld 46).testBit 7 && (x.fld 46).testBit 6 then
    [32, 33, 34, 35].find? fun h => decide (x.src h ≠ 0) && (s.inside p e (h - 31)).isNone
  else none

/-- A token of an outbound endpoint's hop enters its link (R357). -/
def hopToLink (p e : Nat) (s : State) : State :=
  match s.linkHop p e with
  | none => s
  | some h =>
    let s := s.landHop p e h
    let x := s.elem p e
    match x.hopHead h, s.linkOf (s.page p).truss (x.fld 46 % 64) true with
    | some t, some (n, l) =>
      let r := s.checked p e t
      match r.1 with
      | none => r.2.modElem p e fun y => y.hopPop h
      | some t =>
        match r.2.linkIn p n l t with
        | some s' =>
          let done := ((fget s'.links n).map Link.prodN).getD 0
          if done = l.prodN then s' else s'.modElem p e fun y => y.hopPop h
        | none => s
    | _, _ => s

/-- TOKEN_HOP: the head token of source `src` of a router moves into every hop that names it (R253); sources 1 to
7 and 13 are those of R78, 14 is the REDGE hop into its port queue, and 15 an outbound endpoint into its link. -/
def execTokenHop (p e src : Nat) (s : State) : Res :=
  if 64 ≤ e then .next s
  else if 1 ≤ src ∧ src ≤ 4 then .next (hopFromSide p e src s)
  else if !s.fabricRuns p then .next s
  else
    match src with
    | 5 => .next (hopFromEdge p e s)
    | 6 => .next (hopFromElem p e 0 s)
    | 7 => .next (hopFromElem p e 1 s)
    | 13 => .next (hopFromLink p e s)
    | 14 => .next (hopToEdge p e s)
    | 15 => .next (hopToLink p e s)
    | _ => .next s

/-! ### Operators (R239 to R242) -/

/-- A control token is true (R239). -/
def Token.isTrue (t : Token) : Bool := t.valid.getLsbD 0 && decide (lane t.marked.data 0 ≠ 0)

/-- The hop of an operator input is emptied of its head. -/
def State.popHop (s : State) (p e h : Nat) : State := s.modElem p e fun x => x.hopPop h

/-- A CONFIG or COMMAND token at an operator input is discarded, and the truss fails (R239). -/
def State.refuseAt (s : State) (p e h : Nat) : State := (s.popHop p e h).siteInvalid p e

/-- Handles what is not DATA at the head of a control input: `none` when the head is DATA or the input is empty. -/
def controlHead (p e h : Nat) (s : State) : Option State :=
  match (s.elem p e).hopHead h with
  | none => none
  | some t =>
    match t.kind.toNat with
    | 0 => none
    | 1 => some ((s.checked p e t).2.popHop p e h)
    | _ => some (if t.lost then (s.checked p e t).2.popHop p e h else s.refuseAt p e h)

/-- A control token is consumed after its parity check (R83): its data is false when it is lost. -/
def State.takeControl (s : State) (p e h : Nat) (t : Token) : State := (s.checked p e t).2.popHop p e h

/-- The head token of a hop moves to the hops that name an output of an operator, after the parity check (R83). -/
def State.passOn (s : State) (p e h out : Nat) (t : Token) : State :=
  let r := (s.popHop p e h).checked p e t
  (match r.1 with
    | some t => r.2.enterNamed p e out t
    | none => r.2).fabricMoved p

/-- A data input that an operator reads: a SCALE token is forwarded, another kind that is not DATA is refused, and
a DATA token is passed, after which `f` applies (R239). -/
def passData (p e h out : Nat) (f : Elem → Elem) (s : State) : State :=
  match (s.elem p e).hopHead h with
  | none => s
  | some t =>
    match t.kind.toNat with
    | 0 => if s.namedFree p e out then (s.passOn p e h out t).modElem p e f else s
    | 1 => if s.namedFree p e out then s.passOn p e h out t else s
    | _ => if t.lost then (s.checked p e t).2.popHop p e h else s.refuseAt p e h

/-- STEER (R240). -/
def execSteer (p e : Nat) (s : State) : Res :=
  if !s.siteLive p e ∨ (s.elem p e).fld 41 = 0 then .next s
  else
    match controlHead p e 48 s with
    | some s' => .next s'
    | none =>
      let x := s.elem p e
      match x.hopHead 49 with
      | none => .next s
      | some d =>
        match d.kind.toNat with
        | 1 =>
          if s.namedFree p e 8 && s.namedFree p e 9 then
            .next ((s.passOn p e 49 8 d).enterNamed p e 9 d.marked)
          else .next s
        | 0 =>
          match x.hopHead 48 with
          | none => .next s
          | some c =>
            let out := if c.isTrue then 8 else 9
            if s.namedFree p e out then .next ((s.takeControl p e 48 c).passOn p e 49 out d) else .next s
        | _ => if s.namedFree p e 8 then .next (s.passOn p e 49 8 d) else .next s

/-- MERGE: takes a control token, then passes the next token of the source it selects (R241). -/
def execMerge (p e : Nat) (s : State) : Res :=
  if !s.siteLive p e ∨ (s.elem p e).fld 42 = 0 then .next s
  else
    let x := s.elem p e
    match controlHead p e 50 s with
    | some s' => .next s'
    | none =>
      if x.merge = 0 then
        match x.hopHead 50 with
        | none => .next s
        | some c => .next ((s.takeControl p e 50 c).modElem p e fun y => { y with merge := if c.isTrue then 1 else 2 })
      else .next (passData p e (if x.merge = 1 then 51 else 52) 10 (fun y => { y with merge := 0 }) s)

/-- CARRY (R242). -/
def execCarry (p e : Nat) (s : State) : Res :=
  if !s.siteLive p e ∨ (s.elem p e).fld 43 = 0 then .next s
  else
    let x := s.elem p e
    match controlHead p e 53 s with
    | some s' => .next s'
    | none =>
      match x.carry with
      | 0 => .next (passData p e 55 11 (fun y => { y with carry := 1 }) s)
      | 1 =>
        match x.hopHead 53 with
        | none => .next s
        | some c => .next ((s.takeControl p e 53 c).modElem p e fun y => { y with carry := if c.isTrue then 2 else 0 })
      | _ => .next (passData p e 54 11 (fun y => { y with carry := 1 }) s)

/-! ### MITRE (R244) -/

/-- Output token `j` of a block of rows, with slots of `32 / pack` bits. -/
def mitreToken (rows : List Token) (n pack j : Nat) (rank : BitVec 3) : Token :=
  let w := 32 / pack
  let row (i : Nat) : Option Token := rows[i]?
  let pick (i : Nat) : Nat := ((row i).map fun t => slotBits t.data w j).getD 0
  let okRow (i : Nat) : Bool := ((row i).map fun t => t.valid.getLsbD (j / pack)).getD false
  let valid := laneMask fun l => (List.range pack).all fun z => okRow (l * pack + z)
  dataToken (ofSlots w ((List.range n).map pick)) valid rank

/-- The tokens of a closed block: a SCALE token and N tokens. -/
def mitreBlock (rows : List (Desc × Token)) (shape : Nat) : List Token :=
  let pack := 2 ^ (shape - 1)
  let n := 16 * pack
  let d := ((rows.head?).map Prod.fst).getD descPoison
  let bad := rows.any (fun z => decide (z.1 ≠ d) || z.2.lost) || readsPoison (fmtOf d) (scaleOf d)
    || decide (fmtBits (fmtOf d) ≠ 32 / pack)
  let rank := (rows.map fun z => z.2.rank.toNat).foldl Nat.max 0
  let ts := rows.map Prod.snd
  (if bad then scaleToken 0x0E#8 0x7F#8 (n - 1) else scaleToken (fmtOf d) (scaleOf d) (n - 1)) ::
    (List.range n).map fun j => mitreToken ts n pack j (if j + 1 = n then BitVec.ofNat 3 rank else 0)

/-- MITRE: empties a closed block token by token, else takes a row (R244). Its input's SCALE tokens set the rows'
format and are not forwarded: the block sends its own. -/
def execMitre (p e : Nat) (s : State) : Res :=
  let x := s.elem p e
  let shape := bits (x.fld 44) 4 2
  if !s.siteLive p e ∨ shape = 0 then .next s
  else
    match x.mitreOut with
    | t :: rest =>
      if s.namedFree p e 12 then
        .next (((s.enterNamed p e 12 t).modElem p e fun y => { y with mitreOut := rest }).fabricMoved p)
      else .next s
    | [] =>
      match x.hopHead 56 with
      | none => .next s
      | some t =>
        let refused : Res := if t.lost then .next ((s.checked p e t).2.popHop p e 56) else .next (s.refuseAt p e 56)
        let s := (s.checked p e t).2
        match t.kind.toNat with
        | 1 => .next ((s.popHop p e 56).modElem p e fun y => { y with mitreBurst := burstOf t })
        | 0 =>
          let b := x.mitreBurst
          let d := if b.bad then descPoison else mkDesc b.scale b.fmt
          let rows := x.mitreIn ++ [(d, t.marked)]
          let full := decide (rows.length = 16 * 2 ^ (shape - 1)) || decide (t.rank ≠ 0)
          .next (((s.popHop p e 56).modElem p e fun y => { y with
            mitreBurst := b.pass, mitreIn := if full then [] else rows,
            mitreOut := if full then mitreBlock rows shape else [] }).fabricMoved p)
        | _ => refused

end Sys2Proof.Machine
end

