-- ==== Sys2Proof/Machine/Tiles.lean ====
section
/-! DEFINITION. Plate tile states (R16 to R19) and the tile instructions (R142, R317). -/

namespace Sys2Proof.Machine

/-- EMPTY (R17). -/
def tileEmpty : BitVec 2 := 0
/-- FULL. -/
def tileFull : BitVec 2 := 1
/-- ENGINE. -/
def tileEngine : BitVec 2 := 2
/-- CORE. -/
def tileCore : BitVec 2 := 3

/-- A core's transition that R18 allows: TGIVE 1, TTAKE 2, TEMPTY 3. -/
def coreMove (op : Nat) (st : BitVec 2) : Option (BitVec 2) :=
  match op with
  | 1 => if st = tileCore then some tileFull else none
  | 2 => if st = tileEmpty ∨ st = tileFull then some tileCore else none
  | _ => if st = tileFull ∨ st = tileCore then some tileEmpty else none

/-- The state of a tile of a page changes; it is an event for WFE of the page's core (R179). A table that is to be
read from the tile is read first: the read sees the tile as it was (R19, R281). -/
def State.setTileState (s : State) (p site tile : Nat) (st : BitVec 2) : State :=
  let s := if (s.elem p site).atile = tile then s.readTable p site else s
  let pg := s.page p
  let x := pg.tile site tile
  s.setPage p { (pg.setTile site tile { x with state := st }) with core := { pg.core with event := true } }

/-- The checks of a tile selector (R16, R142): BOUNDS for bits [63:12], PLATE_OWNER for tile 47 and above. -/
def tileCheck (sel : Word) (s : State) : Option Res :=
  if selHigh sel ≠ 0 then some (trapHere causeBounds sel s)
  else if 47 ≤ selTile sel then some (trapHere causePlateOwner sel s)
  else none

/-- A core's change of a tile (R18, R142). -/
def tileChange (op : Nat) (a : Reg) (s : State) : Res :=
  let sel := s.core.rd a
  match tileCheck sel s with
  | some r => r
  | none =>
    match coreMove op (s.curPage.tile (selSite sel) (selTile sel)).state with
    | none => trapHere causePlateOwner sel s
    | some st =>
      let s := s.setTileState s.cur (selSite sel) (selTile sel) st
      .next (complete s.core s)

/-- TGIVE (R142). -/
def execTgive (a : Reg) (s : State) : Res := tileChange 1 a s
/-- TTAKE (R142). -/
def execTtake (a : Reg) (s : State) : Res := tileChange 2 a s
/-- TEMPTY (R142). -/
def execTempty (a : Reg) (s : State) : Res := tileChange 3 a s

/-- TSTAT (R142, R317): performs ACQ.M, then writes the state code. -/
def execTstat (d a : Reg) (s : State) : Res :=
  let sel := s.core.rd a
  match tileCheck sel s with
  | some r => r
  | none =>
    let st := (s.curPage.tile (selSite sel) (selTile sel)).state
    writeReg d (st.zeroExtend 64) (s.core.tainted a) (acquire 2 s)

/-- TWAIT (R142, R317): waits for the state, then performs ACQ.M. -/
def execTwait (a : Reg) (st : BitVec 2) (s : State) : Res :=
  let sel := s.core.rd a
  match tileCheck sel s with
  | some r => r
  | none =>
    if s.core.stage = 1 ∨ (s.curPage.tile (selSite sel) (selTile sel)).state = st then
      let s := acquire 2 s
      .next (complete s.core s)
    else waitFor (.tile (selSite sel) (selTile sel) st) 0 s

end Sys2Proof.Machine
end

