-- ==== Sys2Proof/Machine/FabricOps.lean ====
section
/-! DEFINITION. Core instructions on the fabric: CFG, START, ERD, ROUND and LSTAT (R157, R158, R160 to R162). -/

namespace Sys2Proof.Machine

/-! ### CFG -/

/-- The image of the current core's launch. -/
def State.curImage (s : State) : Image :=
  ((s.curLaunch).map Launch.img).getD Image.blank

/-- The ELEM and field that an injection names, kept to count a segment's injections. -/
def injKey (w : Word32) : Word := BitVec.ofNat 64 (cwElem w * 64 + cwField w)

/-- Ends a segment: its elements are judged, and the truss fails where a word was refused or a joined condition is
broken (R157, R450). -/
def cfgEnd (refused : Option Nat) (s : State) : Res :=
  match s.trussOf s.cur with
  | none => .next (complete s.core s)
  | some t =>
    let r := s.judgeUnit t (.segment s.cur)
    let bad := match refused with
      | some e => some e
      | none => r.1
    let s := complete r.2.core r.2
    .next (match bad with
      | some e => s.cfgInvalid (s.page s.cur).truss e
      | none => s)

/-- Applies words of a fetched block from word `pos` of the segment; answers the position reached, the injections
made, and what stops it. -/
def cfgBlock (img : Image) (t : Truss) : List Word32 → Nat → List Word → State → Nat × List Word × CwRes × State
  | [], pos, done, s => (pos, done, .ok s, s)
  | w :: ws, pos, done, s =>
    let r := applyWord (.segment s.cur) img t w (done.filter fun k => k == injKey w).length s
    match r.1 with
    | .ok s' => cfgBlock img t ws (pos + 1) (if cwKind w = 2 then done ++ [injKey w] else done) s'
    | .refused => (pos, done, .refused, r.2)
    | .room p e f => (pos, done, .room p e f, s)

/-- The words of a block from byte `off` on, `n` of them. -/
def blockWords (d : Data) (off n : Nat) : List Word32 :=
  (List.range n).map fun k => lane d (off / 4 + k)

/-- One turn of CFG at word `pos`: takes the words of the block that has come, or asks for the next block in the
bay's scope (R157). -/
def cfgTurn (base : Word) (n pos : Nat) (done : List Word) (s : State) : Res :=
  let ea : Word := base + BitVec.ofNat 64 (4 * pos)
  if n ≤ pos then cfgEnd none s
  else
    let keep (s : State) (pos : Nat) (done : List Word) (resp : List (Nat × BlockW)) : State :=
      s.setCore { s.core with stage := 1, scratch := BitVec.ofNat 64 pos :: done, resp := resp }
    let use (tag : Nat) (w : BlockW) (s : State) : Res :=
      match s.trussOf s.cur with
      | none => .next s
      | some t =>
        if descPoisoned w.desc then
          let r := s.judgeUnit t (.segment s.cur)
          trapHere causePoison ea r.2
        else
          let data := if descIsVoid w.desc then 0 else w.data
          let off := ea.toNat % 64
          let k := Nat.min (n - pos) (16 - off / 4)
          let r := cfgBlock s.curImage t (blockWords data off k) pos done s
          match r.2.2.1 with
          | .ok _ => .next (keep r.2.2.2 r.1 r.2.1 [])
          | .refused => cfgEnd (some (cwElem ((blockWords data off k)[r.1 - pos]?.getD 0))) r.2.2.2
          | .room p e f => waitFor (.injRoom p e f) 1 (keep r.2.2.2 r.1 r.2.1 [(tag, w)])
    match s.core.resp with
    | (tag, w) :: _ => use tag w s
    | [] =>
      if s.core.failed then
        match s.trussOf s.cur with
        | none => .next s
        | some t => trapFailed ea (s.judgeUnit t (.segment s.cur)).2
      else
        let s := keep s pos done []
        match coreXlate ea false s with
        | .stop r => r
        | .ok e s =>
          match corePlace e ea false s with
          | .stop r => r
          | .ok p s =>
            let q := s.readReq s.me s.curPart p 0 0 ea.toNat fullMask .cached
            match (q.2.req q.2.me).entry q.1 with
            | some en =>
              match en.got with
              | some (w :: _, _, _) => use q.1 w (q.2.setReq q.2.me ((q.2.req q.2.me).dropEntry q.1))
              | _ => waitFor (.resp q.1) 1 q.2
            | none => waitFor (.resp q.1) 1 q.2

/-- CFG (R157). -/
def execCfg (a b : Reg) (s : State) : Res :=
  let base := s.core.rd a
  let n := (s.core.rd b).toNat
  if 65536 < n then trapWord (.cfg a b) s
  else if base.toNat % 4 ≠ 0 then trapHere causeMisalign base s
  else if n ≠ 0 ∧ 2 ^ 48 < base.toNat + 4 * n then trapHere causeBounds base s
  else
    match s.core.scratch with
    | [] => if n = 0 then .next (complete s.core s) else cfgTurn base n 0 [] s
    | pos :: done => cfgTurn base n pos.toNat done s

/-! ### START -/

/-- Inputs that START feeds on a page: pairs of site and hop (R81). -/
def Page.startHops (pg : Page) : List (Nat × Nat) :=
  pg.startPts.flatMap fun z => ([0, 1, 2, 3].filter fun i => z.2.getLsbD i).map fun i => (z.1, inHop i)

/-- Every START input has room. -/
def State.startReady (s : State) (p : Nat) : Bool :=
  (s.page p).startHops.all fun z => (s.elem p z.1).hopRoom z.2

/-- START: one token into every input that a STARTPT word names on the page (R158). -/
def execStart (s : State) : Res :=
  if s.startReady s.cur then
    let t := dataToken 1 1 0
    let s := s.curPage.startHops.foldl (fun s z => s.modElem s.cur z.1 fun x => x.hopPush z.2 t) s
    .next (complete s.core s)
  else waitFor .startRoom 0 s

/-! ### ERD -/

/-- A word of an element's state (R160). -/
def Elem.report (x : Elem) (what : Nat) : Word :=
  match what with
  | 0 => BitVec.ofNat 64 (x.amax.toNat * 2 ^ 32 + (if x.faulted then 256 else 0) + x.status.toNat)
  | 1 => x.fire
  | 2 => x.stall
  | _ => x.starve

/-- ERD (R160). -/
def execErd (d a : Reg) (w : BitVec 2) (s : State) : Res :=
  let el := s.core.rd a
  match (s.trussOf s.cur).bind fun t => if el.toNat < 4096 then t.pages[el.toNat / 64]? else none with
  | none => trapHere causeBounds el s
  | some p => writeReg d ((s.elem p (el.toNat % 64)).report w.toNat) (s.core.tainted a) s

/-! ### ROUND and LSTAT -/

/-- Entry of a round descriptor: link number, outbound, rate; `none` where a bit or the rate is not allowed. -/
def roundEntry (w : Nat) : Option (Nat × Bool × Nat) :=
  if bits w 7 9 ≠ 0 ∨ bits w 16 16 = 0 then none else some (w % 64, w.testBit 6, bits w 16 16)

/-- Can an entry be reserved on a link (R161)? -/
def Link.canReserve (l : Link) (outw : Bool) (rate : Nat) : Bool :=
  if outw then decide (rate + l.resOut ≤ l.takes) else decide (rate + l.resIn ≤ l.ready)

/-- Reserves an entry. -/
def Link.reserve (l : Link) (outw : Bool) (rate : Nat) : Link :=
  if outw then { l with resOut := l.resOut + rate } else { l with resIn := l.resIn + rate }

/-- Reserves every entry for a truss, or none. -/
def State.reserveAll (s : State) (t : Nat) : List (Nat × Bool × Nat) → Option State
  | [] => some s
  | (num, outw, rate) :: es =>
    match s.linkOf t num outw with
    | none => none
    | some (n, l) =>
      if l.canReserve outw rate then ({ s with links := fput s.links n (l.reserve outw rate) }).reserveAll t es else none

/-- Reads the words of a round descriptor through the L1D, 8 bytes at a time. -/
def roundBytes : Nat → Word → State → Go Nat
  | 0, _, s => .ok 0 s
  | n + 1, ea, s =>
    match coreRead ea 8 false s with
    | .stop r => .stop r
    | .ok (v, d, _) s =>
      if descPoisoned d then .stop (trapHere causePoison ea s)
      else
        match roundBytes n (ea + 8) s with
        | .stop r => .stop r
        | .ok t s => .ok (v + t * 2 ^ 64) s

/-- ROUND (R161). -/
def execRound (a : Reg) (s : State) : Res :=
  let ea := s.core.rd a
  if ea.toNat % 8 ≠ 0 then trapHere causeMisalign ea s
  else if 2 ^ 48 < ea.toNat + 8 then trapHere causeBounds ea s
  else (roundBytes 1 ea s).bind fun h s =>
    let n := h % 256
    if h ≠ n ∨ n = 0 ∨ 16 < n then trapWord (.round a) s
    else if 2 ^ 48 < ea.toNat + 8 + 4 * n then trapHere causeBounds ea s
    else (roundBytes ((n + 1) / 2) (ea + 8) s).bind fun v s =>
      let es := (List.range n).map fun k => roundEntry (bits v (32 * k) 32)
      if es.any Option.isNone then trapWord (.round a) s
      else
        let es := es.filterMap id
        let t := s.curPage.truss
        if es.any fun e => (s.linkOf t e.1 e.2.1).isNone then trapHere causeBounds ea s
        else
          match s.reserveAll t es with
          | some s' => .next (complete s'.core s')
          | none => waitFor (.links es) 0 s

/-- LSTAT's word (R162). -/
def Link.report (l : Link) (outw spst : Bool) : Word :=
  let sat (n : Nat) : Nat := Nat.min n 65535
  BitVec.ofNat 64 (sat l.queue.length + sat l.freeSpace * 2 ^ 16 + sat (if outw then l.resOut else l.resIn) * 2 ^ 32
    + (if spst then 2 ^ 48 else 0) + (if outw then 2 ^ 49 else 0))

/-- LSTAT (R162): of a number that the truss both produces into and consumes from, the link produced into. -/
def execLstat (d a : Reg) (s : State) : Res :=
  let v := s.core.rd a
  let t := s.curPage.truss
  if 63 < v.toNat then trapHere causeBounds v s
  else
    match s.linkOf t v.toNat true, s.linkOf t v.toNat false with
    | some (n, l), _ => writeReg d (l.report true (s.req (spillAgent n l true)).stall.isSome) (s.core.tainted a) s
    | none, some (n, l) => writeReg d (l.report false (s.req (spillAgent n l true)).stall.isSome) (s.core.tainted a) s
    | none, none => trapHere causeBounds v s

end Sys2Proof.Machine
end

