-- ==== Sys2Proof/Machine/Engines.lean ====
section
/-! DEFINITION. Engine commands: their descriptors and checks, issue by a core or by a COMMAND token, their progress
and completion, tickets and reduce groups (R14, R18, R150 to R156, R299, R302, R317, R360, R405, R438). -/

namespace Sys2Proof.Machine

/-! ### Descriptor fields -/

/-- CTRL of a command: at offset 8 of CPY and REDC, 12 of GATH and SCAT. -/
def gCtrl (op : Nat) (d : List Byte) : Nat := if op = 1 ∨ op = 2 then leAt d 12 4 else leAt d 8 4
/-- SPLATE. -/
def gSplate (op : Nat) (d : List Byte) : Bool := op ≠ 3 && (gCtrl op d).testBit 0
/-- DPLATE. -/
def gDplate (op : Nat) (d : List Byte) : Bool := op ≠ 3 && (gCtrl op d).testBit 1
/-- Bytes of an element. -/
def gElw (op : Nat) (d : List Byte) : Nat := 2 ^ bits (gCtrl op d) 4 2
/-- CSCOPE. -/
def gScope (op : Nat) (d : List Byte) : Nat := if op = 3 then bits (gCtrl op d) 16 2 else bits (gCtrl op d) 6 2
/-- NDIM of a CPY. -/
def gNdim (d : List Byte) : Nat := bits (leAt d 8 4) 2 2 + 1
/-- Extent of a CPY. -/
def gExt (d : List Byte) (m : Nat) : Nat := leAt d (12 + 2 * m) 2
/-- Source stride. -/
def gSstr (d : List Byte) (m : Nat) : Int := leInt d (20 + 4 * m) 4
/-- Destination stride. -/
def gDstr (d : List Byte) (m : Nat) : Int := leInt d (36 + 4 * m) 4
/-- SRC. -/
def gSrc (d : List Byte) : Nat := leAt d 0 4
/-- DST. -/
def gDst (d : List Byte) : Nat := leAt d 4 4
/-- IDX. -/
def gIdx (d : List Byte) : Nat := leAt d 8 4
/-- ROWLEN. -/
def gRowlen (d : List Byte) : Nat := leAt d 16 4
/-- NIDX. -/
def gNidx (d : List Byte) : Nat := leAt d 20 4
/-- SBASE. -/
def gSbase (op : Nat) (d : List Byte) : Nat := if op = 0 then leAt d 52 6 else leAt d 24 8
/-- DBASE. -/
def gDbase (op : Nat) (d : List Byte) : Nat := if op = 0 then leAt d 58 6 else leAt d 32 8
/-- IBASE. -/
def gIbase (d : List Byte) : Nat := leAt d 40 8
/-- SROW. -/
def gSrow (d : List Byte) : Nat := leAt d 48 8
/-- DROW. -/
def gDrow (d : List Byte) : Nat := leAt d 56 8
/-- Bytes of an index. -/
def gIw (d : List Byte) : Nat := if (leAt d 12 4).testBit 8 then 8 else 4
/-- OOB: fail. -/
def gOobFail (d : List Byte) : Bool := (leAt d 12 4).testBit 9
/-- Participants P of a REDC. -/
def gP (d : List Byte) : Nat := bits (leAt d 8 4) 8 8
/-- Operation of a REDC. -/
def gOp (d : List Byte) : Nat := leAt d 8 4 % 8
/-- GROUP number. -/
def gGroup (d : List Byte) : Nat := leAt d 12 4 % 2 ^ 16
/-- This participant's rank. -/
def gRank (d : List Byte) : Nat := leAt d 12 4 / 2 ^ 16
/-- COUNT of a REDC. -/
def gCount (d : List Byte) : Nat := leAt d 16 8
/-- SEQ. -/
def gSeq (d : List Byte) : Word := BitVec.ofNat 64 (leAt d 40 8)

/-! ### Sides -/

/-- One side of a command: a tensor handle or a plate tile (page of the grid, site, tile). -/
inductive Side where
  /-- A tensor. -/
  | tensor (g : Geo) (slot gen : Nat)
  /-- A tile. -/
  | plate (p site tile : Nat)
  deriving DecidableEq, Repr

/-- Elements of a side. -/
def Side.count (x : Side) (elw : Nat) : Nat :=
  match x with
  | .tensor g slot _ => if slot = 0 then 2 ^ 48 / elw else g.count
  | .plate _ _ _ => 4096 / elw

/-- Byte offset of element `i` of a side. -/
def Side.off (x : Side) (elw i : Nat) : Nat :=
  match x with
  | .tensor g slot _ => if slot = 0 then i * elw else g.offI i
  | .plate _ _ _ => i * elw

/-- The tensor of a handle, in a partition. -/
def State.tensorSide (s : State) (part h : Nat) : Side := .tensor (s.geo part (hSlot h)) (hSlot h) (hGen h)

/-- A plate selector: bits [31:18] are zero, and the page lies in the truss and in the bay (R151). -/
def plateSide (t : Truss) (bay sel : Nat) : Option Side :=
  match t.pages[bits sel 12 6]? with
  | some p => if bayOf p = bay then some (.plate p (bits sel 6 6) (sel % 64)) else none
  | none => none

/-! ### Elements of a command -/

/-- Index m of the n-th element of a CPY. -/
def gIndex (d : List Byte) (n m : Nat) : Nat := n / ((List.range m).foldl (fun a k => a * gExt d k) 1) % gExt d m

/-- Elements of a CPY. -/
def gTotal (d : List Byte) : Nat := (List.range (gNdim d)).foldl (fun a m => a * gExt d m) 1

/-- Source and destination element index of the n-th element of a CPY (R152). -/
def cpyPair (d : List Byte) (n : Nat) : Int × Int :=
  (List.range (gNdim d)).foldl (fun (z : Int × Int) m =>
    let i : Nat := gIndex d n m
    (z.1 + (i : Int) * gSstr d m, z.2 + (i : Int) * gDstr d m)) ((leAt d 52 6 : Int), (leAt d 58 6 : Int))

/-- Smallest and largest index of a side of a CPY. -/
def cpySpan (d : List Byte) (base : Nat) (str : Nat → Int) : Int × Int :=
  (List.range (gNdim d)).foldl (fun (z : Int × Int) m =>
    let e : Nat := gExt d m - 1
    let k := (e : Int) * str m
    if k < 0 then (z.1 + k, z.2) else (z.1, z.2 + k)) ((base : Int), (base : Int))

/-- An index lies within a side. -/
def spanIn (z : Int × Int) (count : Nat) : Bool := decide (0 ≤ z.1) && decide (z.2 < (count : Int))

/-- Rows of a GATH or SCAT over its indices, in order: source and destination row, `none` when its row lies
outside (R153). -/
def rowOf (op : Nat) (d : List Byte) (src dst : Nat) (n x : Nat) : Option (Nat × Nat) :=
  let r := if op = 1 then (x, n) else (n, x)
  let sEnd := gSbase op d + r.1 * gSrow d + gRowlen d
  let dEnd := gDbase op d + r.2 * gDrow d + gRowlen d
  if sEnd ≤ src ∧ dEnd ≤ dst then some r else none

/-- Element pairs of one row. -/
def rowPairs (op : Nat) (d : List Byte) (r : Nat × Nat) : List (Nat × Nat) :=
  (List.range (gRowlen d)).map fun j => (gSbase op d + r.1 * gSrow d + j, gDbase op d + r.2 * gDrow d + j)

/-- Rows in order, up to the first outside row when it fails the command; with the number skipped, and whether the
command fails. -/
def rowsUpTo (fail : Bool) : List (Option (Nat × Nat)) → List (Nat × Nat) × Nat × Bool
  | [] => ([], 0, false)
  | some r :: t => let z := rowsUpTo fail t; (r :: z.1, z.2.1, z.2.2)
  | none :: t => if fail then ([], 0, true) else let z := rowsUpTo fail t; (z.1, z.2.1 + 1, z.2.2)

/-! ### Checks (R150, R151, R153, R154) -/

/-- What a command's issue finds wrong, in the order of R128. -/
inductive EngBad where
  | illegal | bounds
  /-- HANDLE or WORLD, with the handle. -/
  | handle (h : Nat)
  | world (h : Nat)
  /-- PLATE_OWNER, with the selector. -/
  | owner (sel : Nat)
  deriving DecidableEq, Repr

/-- Tensor handles of a command: source, destination, index list. -/
def engHandles (op : Nat) (d : List Byte) : List Nat :=
  (if gSplate op d then [] else [gSrc d]) ++ (if gDplate op d then [] else [gDst d])
    ++ (if op = 1 ∨ op = 2 then [gIdx d] else [])

/-- Reserved bits and codes of a descriptor; bits [31:24] of a handle are reserved (R143, R150). The spec asks zero of
EXT at and above NDIM, and the model asks it of SSTR and DSTR too (DESIGN CHOICE, log 104). -/
def engIllegal (op : Nat) (d : List Byte) : Bool :=
  let c := gCtrl op d
  ((engHandles op d).any fun h => decide (2 ^ 24 ≤ h)) || match op with
  | 0 =>
    decide (gScope 0 d = 0) || decide (c / 256 ≠ 0)
      || ((List.range 4).any fun m => if m < gNdim d then decide (gExt d m = 0)
            else decide (gExt d m ≠ 0) || decide (gSstr d m ≠ 0) || decide (gDstr d m ≠ 0))
      || (gSplate 0 d && decide (gSrc d / 2 ^ 18 ≠ 0)) || (gDplate 0 d && decide (gDst d / 2 ^ 18 ≠ 0))
  | 3 =>
    decide (4 < gOp d) || decide (bits c 3 5 ≠ 0) || decide (gP d < 2) || decide (gScope 3 d < 2) || decide (c / 2 ^ 18 ≠ 0)
      || decide (gP d ≤ gRank d) || decide (leAt d 48 16 ≠ 0)
  | _ =>
    decide (gScope op d = 0) || decide (bits c 2 2 ≠ 0) || decide (c / 2 ^ 10 ≠ 0) || decide (gRowlen d = 0)
      || (gSplate op d && decide (gSrc d / 2 ^ 18 ≠ 0)) || (gDplate op d && decide (gDst d / 2 ^ 18 ≠ 0))

/-- The sides of a command on a page of bay `bay`. -/
def State.engSides (s : State) (op : Nat) (d : List Byte) (t : Truss) (bay : Nat) : Option (Side × Side) :=
  let side (plate : Bool) (h : Nat) : Option Side := if plate then plateSide t bay h else some (s.tensorSide t.part h)
  match side (gSplate op d) (gSrc d), side (gDplate op d) (gDst d) with
  | some a, some b => some (a, b)
  | _, _ => none

/-- A live tensor side whose default format has another width than ELW. -/
def Side.widthBad (x : Side) (elw : Nat) : Bool :=
  match x with
  | .tensor g slot _ => decide (slot ≠ 0) && decide (g.width ≠ elw)
  | .plate _ _ _ => false

/-- The indices of a command lie within its sides (R151, R153). An index list that reaches past its own tensor is taken
as one outside its side, which the spec does not say (DESIGN CHOICE, log 104). -/
def engInside (op : Nat) (d : List Byte) (a b : Side) (idxSize : Nat) : Bool :=
  let elw := gElw op d
  match op with
  | 0 => spanIn (cpySpan d (leAt d 52 6) (gSstr d)) (a.count elw) && spanIn (cpySpan d (leAt d 58 6) (gDstr d)) (b.count elw)
  | 3 => true
  | _ =>
    let last := gNidx d - 1
    let ok (base row count : Nat) : Bool := decide (gNidx d = 0) || decide (base + last * row + gRowlen d ≤ count)
    (if op = 1 then ok (gDbase op d) (gDrow d) (b.count elw) else ok (gSbase op d) (gSrow d) (a.count elw))
      && decide (gIbase d + gNidx d * gIw d ≤ idxSize)

/-- Width in bytes of a tensor side's default format; of tensor 0, one byte. -/
def Side.width (x : Side) : Nat :=
  match x with
  | .tensor g _ _ => g.width
  | .plate _ _ _ => 1

/-- REDC's ranges lie within its tensors. -/
def redcInside (d : List Byte) (a b : Side) : Bool :=
  decide (gSbase 3 d + gCount d ≤ a.count a.width) && decide (gDbase 3 d + gCount d ≤ b.count b.width)

/-- The state that a plate side must be in, and is not: its selector (R18, R152). -/
def State.engOwner (s : State) (d : List Byte) (a b : Side) : Option Nat :=
  let st (x : Side) : Option (BitVec 2) := match x with
    | .plate p e t => if 47 ≤ t then some 2 else some ((s.page p).tile e t).state
    | _ => none
  match st a, st b with
  | some x, some y =>
    if a = b then (if x = 1 then none else some (gSrc d))
    else if x ≠ 1 then some (gSrc d) else if y ≠ 0 then some (gDst d) else none
  | some x, none => if x ≠ 1 then some (gSrc d) else none
  | none, some y => if y ≠ 0 then some (gDst d) else none
  | none, none => none

/-- The checks of a command's issue (R128, R150); in a world, R444's. The spec names no cause for an ELW other than the
tensor's width, and the model takes ILLEGAL (DESIGN CHOICE, log 104). -/
def State.engCheck (s : State) (op : Nat) (d : List Byte) (t : Truss) (bay : Nat) : Option EngBad :=
  let elw := gElw op d
  let dead := (engHandles op d).filter fun h => !s.handleOk t.part (hSlot h) (hGen h)
  let sides := s.engSides op d t bay
  let idx := s.tensorSide t.part (gIdx d)
  let idxSize := match idx with
    | .tensor g slot _ => if slot = 0 then 2 ^ 48 else g.size
    | _ => 0
  let width := op ≠ 3 && dead.isEmpty && (match sides with
    | some (a, b) => a.widthBad elw || b.widthBad elw
    | none => false)
  if engIllegal op d || width then some .illegal
  else
    match sides with
    | none => some .bounds
    | some (a, b) =>
      if dead.isEmpty && !(engInside op d a b idxSize && (decide (op ≠ 3) || redcInside d a b)) then some .bounds
      else
        match dead with
        | h :: _ => some (.handle h)
        | [] =>
          match b with
          | .tensor g _ _ =>
            if g.readonly then some (.handle (gDst d))
            else if decide (0 < t.depth) && (g.nofork || decide (op = 3) || (decide (op ≠ 0) && g.shared)) then
              some (.world (gDst d))
            else (s.engOwner d a b).map .owner
          | _ => (s.engOwner d a b).map .owner

/-! ### Issue -/

/-- A command in its first state. -/
def EngCmd.start (op : Nat) (d : List Byte) (t : Truss) (trussId page : Nat) (ticket : Option Nat) : EngCmd where
  op := op
  bytes := d
  part := t.part
  truss := trussId
  view := t.view
  page := page
  ticket := ticket
  elem := 0
  crx := false
  status := 0
  pos := 0
  order := []
  skipped := 0
  mix := false
  cur := none
  tags := []
  idx := []
  draining := false
  vals := []
  phase := 0

/-- Sets the state of a plate side. -/
def State.setSide (s : State) (x : Side) (st : BitVec 2) : State :=
  match x with
  | .plate p e t => s.setTileState p e t st
  | _ => s

/-- Takes or releases a command's references (R299). -/
def State.refCmd (s : State) (op : Nat) (d : List Byte) (part : Nat) (take : Bool) : State :=
  (engHandles op d).foldl (fun s h => if take then s.refSlot part (hSlot h) else s.unrefSlot part (hSlot h)) s

/-- A checked command is issued: its tiles become ENGINE and its tensors are referenced (R18, R299). -/
def State.putCmd (s : State) (g : Nat) (c : EngCmd) (t : Truss) (bay : Nat) : State :=
  let s := match s.engSides c.op c.bytes t bay with
    | some (a, b) => (s.setSide a tileEngine).setSide b tileEngine
    | none => s
  let s := s.refCmd c.op c.bytes c.part true
  let e := fgetD s.engines g Engine.reset
  { s with engines := fput s.engines g { e with cmds := e.cmds ++ [c] } }

/-- The engine of a bay that a command of an opcode and engine field goes to: of the copy engines one that takes
commands and holds the fewest, the lowest of those (R71); `none` while none takes commands. -/
def State.chooseEngine (s : State) (bay op sel : Nat) : Option Nat :=
  let eng (k : Nat) : Engine := fgetD s.engines (bay * 8 + k) Engine.reset
  let pick (l : List Nat) : Option Nat :=
    (l.filter fun k => !(eng k).closed).foldl (fun b k =>
      match b with
      | none => some k
      | some j => if (eng k).cmds.length < (eng j).cmds.length then some k else some j) none
  (match op with
   | 0 => if sel = 0 then pick [0, 1, 2, 3] else pick [sel - 1]
   | 3 => pick [5]
   | _ => pick [4]).map fun k => bay * 8 + k

/-- Commands of a core that have not completed (R150). -/
def Core.outstanding (c : Core) : Nat := (c.tickets.filter fun t => decide (t.2 = 0)).length

/-- Records a ticket's status, keeping the 64 most recent tickets, and those of commands in flight (R150, R155). -/
def Core.setTicket (c : Core) (n st : Nat) : Core :=
  { c with tickets := (fput c.tickets n st).filter fun t => decide (t.2 = 0) || decide (c.ticket ≤ t.1 + 64),
           skips := c.skips.filter fun t => decide (c.ticket ≤ t.1 + 64) }

/-- The rows that a ticket's command skipped are counted in its status (R153; log 83). -/
def Core.setSkips (c : Core) (n rows : Nat) : Core := { c with skips := fset c.skips n (if rows = 0 then none else some rows) }

/-- Takes the next ticket with a status. -/
def Core.newTicket (c : Core) (st : Nat) : Core :=
  let n := c.ticket
  { c with ticket := n + 1 }.setTicket n st

/-- CPY, GATH, SCAT and REDC (R150 to R154): checks, then the command goes to its engine; a CPY of a world to a
SHARED tensor is deferred (R171). -/
def issueEngine (op sel : Nat) (d a : Reg) (s : State) : Res :=
  let addr := s.core.rd a
  if addr.toNat % 64 ≠ 0 then trapHere causeMisalign addr s
  else if !t0Range addr then trapHere causeBounds addr s
  else (coreBlock addr s).bind fun b s =>
    match s.trussOf s.cur with
    | none => .next s
    | some t =>
      let bay := bayOf s.cur
      match s.engCheck op b t bay with
      | some .illegal => trapHere causeIllegal addr s
      | some .bounds => trapHere causeBounds addr s
      | some (.handle h) => trapHere causeHandle (BitVec.ofNat 64 h) s
      | some (.world h) => trapHere causeWorld (BitVec.ofNat 64 h) s
      | some (.owner h) => trapHere causePlateOwner (BitVec.ofNat 64 h) s
      | none =>
        let taint := s.core.tainted a
        let shared := !gDplate op b && (s.geo t.part (hSlot (gDst b))).shared
        if op = 0 ∧ shared = true ∧ 0 < t.depth then
          let n := s.core.ticket
          deferOp ⟨4, [BitVec.ofNat 64 sel], b, s.curPage.truss, s.curPage.ix⟩ ((s.core.newTicket 1).wr d (BitVec.ofNat 64 n) taint) s
        else if 16 ≤ s.core.outstanding then waitFor .engineSlot 0 s
        else
          match s.chooseEngine bay op sel with
          | none => waitFor .engineSlot 0 s
          | some g =>
            let n := s.core.ticket
            let s := s.putCmd g (EngCmd.start op b t s.curPage.truss s.cur (some n)) t bay
            writeReg d (BitVec.ofNat 64 n) taint (s.setCore (s.core.newTicket 0))

/-- CPY (R151, R152). -/
def execCpy (d a : Reg) (e : BitVec 6) (s : State) : Res :=
  if 4 < e.toNat then trapWord (.cpy d a e) s else issueEngine 0 e.toNat d a s
/-- GATH (R153). -/
def execGath (d a : Reg) (s : State) : Res := issueEngine 1 0 d a s
/-- SCAT (R153). -/
def execScat (d a : Reg) (s : State) : Res := issueEngine 2 0 d a s
/-- REDC (R154). -/
def execRedc (d a : Reg) (s : State) : Res := issueEngine 3 0 d a s

/-! ### Tickets -/

/-- The agent of an engine. -/
def engAgent (g : Nat) : AgentId := ⟨g / 8, 0x1B0 + g % 8, 0⟩

/-- The engine that holds a page's command of a ticket as its running one. -/
def State.runsTicket (s : State) (p n : Nat) : Option Nat :=
  (s.engines.find? fun e => match e.2.cmds with
    | c :: _ => c.page == p && c.ticket == some n
    | [] => false).map Prod.fst

/-- The status of a ticket (R155): STALLED while its engine is, and UNKNOWN once 64 more recent ones have been issued. -/
def State.ticketStatus (s : State) (p : Nat) (n : Word) : Nat :=
  let c := (s.page p).core
  match (if n.toNat + 64 < c.ticket then none else fget c.tickets n.toNat) with
  | none => 6
  | some 0 =>
    match s.runsTicket p n.toNat with
    | some g => if (s.req (engAgent g)).stall.isSome then 2 else 0
    | none => 0
  | some k => k

/-- EWAIT (R155). -/
def execEwait (a : Reg) (s : State) : Res :=
  let n := s.core.rd a
  let st := s.ticketStatus s.cur n
  if s.core.stage = 1 ∨ (st ≠ 0 ∧ st ≠ 2) then .next (complete s.core s) else waitFor (.ticket n.toNat) 0 s

/-- EPOLL (R155). -/
def execEpoll (d a : Reg) (s : State) : Res :=
  writeReg d (BitVec.ofNat 64 (s.ticketStatus s.cur (s.core.rd a))) (s.core.tainted a) s

/-! ### COMMAND tokens (R156) -/

/-- The element that a COMMAND token at a page's cmd port comes from: back along the channel, through elements that
forward it, to a CMD element. -/
def State.cmdIssuer (s : State) : Nat → Nat → Nat → Nat → Option (Nat × Nat)
  | 0, _, _, _ => none
  | n + 1, p, e, h =>
    let x := s.elem p e
    let k := x.src h
    if k = 6 then if x.opc = 0xB0 then some (p, e) else s.cmdIssuer n p e 37
    else if 1 ≤ k ∧ k ≤ 4 then
      match s.inside p e k with
      | some q => s.cmdIssuer n q.1 q.2 (facing k)
      | none => none
    else none

/-- ELEM of a COMMAND token's issuer; of one that no channel leads back to, the cmd port's site. -/
def State.cmdElem (s : State) (p : Nat) : Nat :=
  let q := (s.cmdIssuer 4096 p 61 36).getD (p, 61)
  (s.page q.1).ix * 64 + q.2

/-- Lanes of a COMMAND token's packet: they end at the first invalid lane (R85). -/
def Token.lanesUsed (t : Token) : Nat := ((List.range 16).takeWhile fun l => t.valid.getLsbD l).length

/-- Fields of a COMMAND packet: command, engine field, descriptor address, crx; `none` for a malformed one. -/
def Token.packet (t : Token) : Option (Nat × Nat × Nat × Bool) :=
  let n := t.lanesUsed
  let w (l : Nat) : Nat := (lane t.data l).toNat
  let addr := w 1 + w 2 * 2 ^ 32
  let op := w 0 % 256
  let sel := bits (w 0) 8 8
  if n < 3 ∨ 4 < n ∨ 3 < op ∨ w 0 / 2 ^ 16 ≠ 0 ∨ 4 < sel ∨ (op ≠ 0 ∧ sel ≠ 0) ∨ addr % 64 ≠ 0 ∨ 2 ^ 48 ≤ addr
      ∨ (n = 4 ∧ 1 < w 3) then none
  else some (op, sel, addr, n = 4 && (w 3).testBit 0)

/-- A completion token of an element's command reaches crx: its count is a free value (R147, R156; log 2). A token at crx is an
event (R179). -/
def State.crxDone (s : State) (p st : Nat) : State :=
  let v := s.freeVal
  let pg := v.2.page p
  v.2.setPage p { pg with crx := pg.crx ++ [completionToken 0x0A st (v.1.toNat % 2 ^ 32)], core := { pg.core with event := true } }

/-- ENGINE_TAKE_COMMAND: an engine takes the COMMAND token at the head of a page's cmd port; its descriptor is read
when the engine comes to it (R13, R156). Another kind is no command: a SCALE token is consumed, a CONFIG or DATA
token fails the truss as a misplaced one does. -/
def execEngineTakeCommand (p : Nat) (s : State) : Res :=
  if !s.fabricRuns p || s.inMove p then .next s
  else
    let pg := s.page p
    match pg.cmd, s.trussOf p with
    | tok :: rest, some t =>
      let s' := s.setPage p { pg with cmd := rest }
      match tok.kind.toNat with
      | 1 => .next s'
      | 2 => .next (s'.strandedConfig p tok)
      | 0 => .next (s'.siteInvalid p 61)
      | _ =>
        let el := s.cmdElem p
        match tok.packet with
        | none =>
          -- It completes FAILED, with a completion token where its lane 3 asks for one.
          let asks := decide (tok.lanesUsed = 4) && (lane tok.data 3).toNat.testBit 0
          if asks && decide (4 ≤ pg.crxHeld) then .next s
          else .next ((if asks then s'.crxDone p 3 else s').cfgInvalid pg.truss el)
        | some (op, sel, addr, crx) =>
          match s.chooseEngine (bayOf p) op sel with
          | none => .next s
          | some g =>
            let c := { EngCmd.start op [] t pg.truss p none with elem := el, crx := crx, idx := [BitVec.ofNat 64 addr] }
            let e := fgetD s'.engines g Engine.reset
            .next { s' with engines := fput s'.engines g { e with cmds := e.cmds ++ [c] } }
    | _, _ => .next s

/-! ### Progress -/

/-- Changes the running command of an engine. -/
def State.modCmd (s : State) (g : Nat) (f : EngCmd → EngCmd) : State :=
  { s with engines := fmod s.engines g fun e =>
      match e.cmds with
      | [] => e
      | c :: t => { e with cmds := f c :: t } }

/-- Drops the window entries of the running command's reads. -/
def State.engDrop (s : State) (g : Nat) (tags : List Nat) : State :=
  s.setReq (engAgent g) (tags.foldl Requester.dropEntry (s.req (engAgent g)))

/-- The running command will complete FAILED: its reads are forgotten (R330). -/
def State.failCmd (s : State) (g : Nat) : State :=
  let tags := (((fgetD s.engines g Engine.reset).cmds.head?).map EngCmd.tags).getD []
  (s.engDrop g tags).modCmd g fun c => { c with status := 3, draining := true, tags := [] }

/-- The launch of a command reports FAILED(PAGEREQ) (R405). -/
def State.failCmdReq (s : State) (g : Nat) (c : EngCmd) : State :=
  let s := s.failCmd g
  match fget s.trusses c.truss with
  | none => s
  | some t => s.failItem c.truss 0x08 (detailOf ((s.page c.page).ix * 64) (s.page c.page).ix t.ix)

/-- An engine stalls (R401). -/
def State.stallEng (s : State) (g : Nat) (st : Stall) : State :=
  let a := engAgent g
  s.setReq a { s.req a with stall := some st }

/-- Translates a block of a tensor for an engine: its place and leaf, or the state with the engine stalled or its
command failed (R301, R302). -/
def engXlate (g : Nat) (c : EngCmd) (slot gen off : Nat) (wr : Bool) (s : State) : Except State (Phys × Nat × State) :=
  let a := engAgent g
  let vfn := s.vfOfTruss c.truss
  let r := s.xlateOff a.bay c.part c.view slot off
  let stall (q : Stall × State) : Except State (Phys × Nat × State) := .error (q.2.stallEng g q.1)
  match r.1 with
  | .leaf e =>
    match r.2.placeOf c.part e off with
    | .ok ph => .ok (ph, e, r.2)
    | .error gr => stall (r.2.raiseIso vfn a gr wr)
  | .fault => stall (r.2.raiseFault c.part vfn a slot gen (off / 2 ^ 16) wr)
  | .bad e =>
    match r.2.raiseXlateErr vfn slot gen (off / 2 ^ 16) e with
    | (some st, s) => .error (s.stallEng g st)
    | (none, s) => .error (s.failCmdReq g c)
  | .owner gr => stall (r.2.raiseIso vfn a gr wr)

/-- Asks for blocks of a tensor, all or none of them before a stall; answers their tags. A block that a write of the engine
has still to reach is read after it (R311). -/
def engRead (g : Nat) (c : EngCmd) (slot gen : Nat) (home : Bool) : List Nat → State → Except State (List Nat × State)
  | [], s => .ok ([], s)
  | b :: bs, s =>
    match engXlate g c slot gen (64 * b) false s with
    | .error s' => .error s'
    | .ok (ph, _, s') =>
      if (s'.req (engAgent g)).unsentAt ph then .error s'
      else
      let q := s'.readReq (engAgent g) c.part ph slot gen (64 * b) fullMask (if home then .bypass else .cached)
      match engRead g c slot gen home bs q.2 with
      | .error s'' => .error (s''.setReq (engAgent g) ((s''.req (engAgent g)).dropEntry q.1))
      | .ok (l, s'') => .ok (q.1 :: l, s'')

/-- The blocks that a command's reads brought, in order: `none` while one is missing; `some none` when one failed. -/
def State.engGot (s : State) (g : Nat) (tags : List Nat) : Option (Option (List BlockW)) :=
  let es := tags.filterMap (s.req (engAgent g)).entry
  if es.length < tags.length then some none
  else if es.any fun e => e.got.isNone then none
  else if es.any fun e => e.failed then some none
  else some (some (es.filterMap fun e => (e.got.map fun q => q.1.head?).join))

/-- Reads the blocks a position needs, where the window has room for them, or takes them when they are in: `f` goes on with
them (R330). -/
def engWith (g : Nat) (c : EngCmd) (slot gen : Nat) (home : Bool) (bs : List Nat) (f : List BlockW → State → State)
    (s : State) : State :=
  if bs.isEmpty then f [] s
  else if c.tags.isEmpty then
    if 64 < (s.req (engAgent g)).win.length + bs.length then s
    else
    match engRead g c slot gen home bs s with
    | .error s' => s'
    | .ok (l, s') => s'.modCmd g fun c => { c with tags := l }
  else
    match s.engGot g c.tags with
    | none => s
    | some none => (s.engDrop g c.tags).failCmd g
    | some (some ws) => f ws ((s.engDrop g c.tags).modCmd g fun c => { c with tags := [] })

/-- A malformed descriptor or refused plate side of an element's command, or one that its world refuses: it completes FAILED;
the truss fails with CONFIG_INVALID or WORLD, or the element is marked faulted for its refused transition (R18, R156, R444). -/
def State.badCommand (s : State) (g : Nat) (c : EngCmd) (b : EngBad) : State :=
  -- Nothing of the command has been taken: it completes without tiles or references.
  let s := (s.failCmd g).modCmd g fun c => { c with bytes := [] }
  match b with
  | .owner _ =>
    match (fget s.trusses c.truss).bind fun t => t.pages[c.elem / 64]? with
    | some p => s.markFaulted p (c.elem % 64)
    | none => s
  | .world _ => s.failTruss c.truss 0x05 c.elem (c.elem / 64)
  | .illegal | .bounds | .handle _ => s.cfgInvalid c.truss c.elem

/-- An element's CPY of a world to a SHARED tensor is deferred, and completes (R171); with the outbox full it is
refused, and the truss fails as of a world rule broken (R443, R444). -/
def State.deferCommand (s : State) (g : Nat) (c : EngCmd) (t : Truss) (d : List Byte) : State :=
  if 64 ≤ s.outboxCount 4 t.fork c.truss then
    ((s.failCmd g).modCmd g fun c => { c with bytes := [] }).failTruss c.truss 0x05 c.elem (c.elem / 64)
  else
    let s := s.modCmd g fun c => { c with draining := true, status := 1, tags := [] }
    match t.fork with
    | some f => s.pushOutbox f c.truss ⟨4, [BitVec.ofNat 64 (g % 8 + 1)], d, c.truss, (s.page c.page).ix⟩
    | none => s

/-- The descriptor of an element's command, read at module scope, and its checks; a CPY that its world defers is put in
the outbox (R156, R171). -/
def engFetch (g : Nat) (c : EngCmd) (t : Truss) (s : State) : State :=
  let addr := ((c.idx.head?).getD 0).toNat
  engWith g c 0 0 true [addr / 64] (fun ws s =>
    match ws with
    | w :: _ =>
      let d := if descIsVoid w.desc then List.replicate 64 (0 : Byte) else dataList w.data
      match (if descPoisoned w.desc then some EngBad.illegal else s.engCheck c.op d t (engAgent g).bay) with
      | some b => s.badCommand g c b
      | none =>
        if c.op = 0 ∧ gDplate 0 d = false ∧ (s.geo t.part (hSlot (gDst d))).shared = true ∧ 0 < t.depth then
          s.deferCommand g c t d
        else
        let s := s.modCmd g fun c => { c with bytes := d, idx := [] }
        let s := match s.engSides c.op d t (engAgent g).bay with
          | some (a, b) => (s.setSide a tileEngine).setSide b tileEngine
          | none => s
        s.refCmd c.op d c.part true
    | [] => s) s

/-- The next index words of a GATH or SCAT (R153). Of a POISON block, of which the spec gives no index, the bytes it holds
are taken (DESIGN CHOICE, log 104). -/
def engIndex (g : Nat) (c : EngCmd) (s : State) : State :=
  let h := gIdx c.bytes
  let w := gIw c.bytes
  let n := c.idx.length
  let off := gIbase c.bytes + n * w
  -- Indices of one block at a time; an index may straddle two blocks.
  let k := Nat.min (gNidx c.bytes - n) (Nat.max 1 ((64 - off % 64) / w))
  let bs := List.range ((off + k * w - 1) / 64 - off / 64 + 1) |>.map fun j => off / 64 + j
  engWith g c (hSlot h) (hGen h) false bs (fun ws s =>
    let l := ws.flatMap fun x => if descIsVoid x.desc then List.replicate 64 (0 : Byte) else dataList x.data
    s.modCmd g fun c => { c with idx := c.idx ++ (List.range k).map fun j => BitVec.ofNat 64 (leAt l (off % 64 + j * w) w) }) s

/-- Element pairs of a command whose indices are in, rows skipped, and whether an index fails it. -/
def EngCmd.plan (c : EngCmd) (a b : Side) : List (Nat × Nat) × Nat × Bool :=
  let elw := gElw c.op c.bytes
  if c.op = 0 then
    ((List.range (gTotal c.bytes)).map fun n => let z := cpyPair c.bytes n; (z.1.toNat, z.2.toNat), 0, false)
  else
    let z := rowsUpTo (gOobFail c.bytes) ((c.idx.zipIdx).map fun q =>
      rowOf c.op c.bytes (a.count elw) (b.count elw) q.2 q.1.toNat)
    (z.1.flatMap (rowPairs c.op c.bytes), z.2)

/-- Of the pairs that land in one destination block, the last for each element (R153). -/
def lastPairs (b : Side) (elw blk : Nat) (ps : List (Nat × Nat)) : List (Nat × Nat) :=
  (ps.filter fun z => decide (b.off elw z.2 / 64 = blk)).foldl (fun l z =>
    (l.filter fun q => decide (q.2 ≠ z.2)) ++ [z]) []

/-- A destination block made from its source blocks (R152): data, mask, descriptor, and whether the descriptors of
the sources differ. -/
def composeBlock (a b : Side) (elw : Nat) (ps : List (Nat × Nat)) (src : List (Nat × Data × Desc)) :
    Data × BitVec 64 × Desc × Bool :=
  let get (k : Nat) : Data × Desc := ((src.find? fun z => z.1 == k).map Prod.snd).getD (0, descPoison)
  let r := ps.foldl (fun (r : Data × BitVec 64) z =>
    let so := a.off elw z.1
    let dn := b.off elw z.2 % 64
    let blk := get (so / 64)
    let v := if descIsVoid blk.2 then 0 else dataBytes blk.1 (so % 64) elw
    (setBytes r.1 dn elw v, r.2 ||| byteMask dn elw)) ((0 : Data), (0 : BitVec 64))
  let ds := ps.map fun z => storedDesc (get (a.off elw z.1 / 64)).2
  let d := (ds.head?).getD descVoid
  let mixes := ds.any fun x => x ≠ d
  (r.1, r.2, if mixes then descPoison else d, mixes)

/-- The sides are one tensor, or one tile: a command may then write what it reads (R152). -/
def sameSide : Side → Side → Bool
  | .plate p e n, .plate p' e' n' => p == p' && e == e' && n == n'
  | .tensor _ slot _, .tensor _ slot' _ => slot == slot'
  | _, _ => false

/-- The source elements that a pair of a command may take its value from, its own first (R152). Where the destination of other
pairs is its source, old and new elements mix: what those pairs write there, and, within the block that is being written, what
is written into their sources in turn. For CPY, whose elements go in any order, so do the sources of every pair to the same
destination (log 28). -/
def openSources (op : Nat) (same : Bool) (pl mine : List (Nat × Nat)) (z : Nat × Nat) : List Nat :=
  let add (l : List Nat) (ps : List (Nat × Nat)) : List Nat := firsts (l ++ (ps.filter fun q => l.contains q.2).map Prod.fst)
  let l := firsts (z.1 :: if op = 0 then (pl.filter fun q => decide (q.2 = z.2)).map Prod.fst else [])
  if same && pl.any fun q => l.contains q.2 then add ((List.range 64).foldl (fun l _ => add l mine) l) pl else l

/-- Pairs with a source chosen freely for each that has more than one (R152; log 2, log 28). -/
def State.chooseSources (s : State) (l : List ((Nat × Nat) × List Nat)) : List (Nat × Nat) × State :=
  l.foldl (fun (r : List (Nat × Nat) × State) z =>
    if z.2.length ≤ 1 then (r.1 ++ [z.1], r.2)
    else
      let v := r.2.freeVal
      (r.1 ++ [((z.2[v.1.toNat % z.2.length]?).getD z.1.1, z.1.2)], v.2)) ([], s)

/-- A write to another module's panel in a world waits in its outbox as a span send (R171); with the outbox full the command
is refused and the truss fails as of a world rule broken (R443, R444). -/
def State.deferSpan (s : State) (g : Nat) (c : EngCmd) (t : Truss) (slot gen off : Nat) (w : BlockW) : State :=
  if 64 ≤ s.outboxCount 4 t.fork c.truss then (s.failCmd g).failTruss c.truss 0x05 c.elem (c.elem / 64)
  else
    let place : Nat × Nat := match w.phys with
      | .remote m a => (m, a)
      | .hbm a | .host a => (0, a)
    let n (k : Nat) : Word := BitVec.ofNat 64 k
    let e : OutboxEntry := ⟨3, [n g, n slot, n gen, n off, n place.1, n place.2, n w.desc.toNat, n w.mask.toNat],
      dataList w.data, c.truss, (s.page c.page).ix⟩
    let s := s.modCmd g fun c => { c with pos := c.pos + 1 }
    match t.fork with
    | some f => s.pushOutbox f c.truss e
    | none => s

/-- One block written to the destination: `none` while there is no room for it. -/
def engWrite (g : Nat) (c : EngCmd) (t : Truss) (b : Side) (blk : Nat) (w : BlockW) (s : State) : Option State :=
  match b with
  | .plate p e n =>
    let tile := (s.page p).tile e n
    let r := applyWrite (tile.block blk) w
    let s := s.setPage p ((s.page p).setTile e n (tile.setBlock blk r.1))
    some (s.modCmd g fun c => { c with mix := c.mix || r.2, pos := c.pos + 1 })
  | .tensor geo slot gen =>
    if !(s.req (engAgent g)).keepRoom then none
    else
      match engXlate g c slot gen (64 * blk) true s with
      | .error s' => some s'
      | .ok (ph, leaf, s') =>
        let fl := geo.flags leaf
        if slot = 0 ∧ fl.1 = true then some ((s'.failCmd g).failTruss c.truss 0x04 c.elem (c.elem / 64))
        else if slot = 0 ∧ 0 < t.depth ∧ fl.2.2 = true then
          some ((s'.failCmd g).failTruss c.truss 0x05 c.elem (c.elem / 64))
        else if !s'.ownPanel c.part c.view slot (blk / 1024) fl.2.1 then
          let z := s'.startCopy c.part c.view slot (blk / 1024) (s'.vfOfTruss c.truss) t.launch (engAgent g)
          some (z.2.stallEng g z.1)
        else if 0 < t.depth ∧ ph.module.isSome = true then some (s'.deferSpan g c t slot gen (64 * blk) { w with phys := ph })
        else
          let s' := s'.submitWrite (engAgent g) (writePacket (engAgent g) c.part slot gen (64 * blk) [{ w with phys := ph }])
          some (s'.modCmd g fun c => { c with pos := c.pos + 1 })

/-- One destination block of a CPY, GATH or SCAT is read for and written. -/
def engMove (g : Nat) (c : EngCmd) (t : Truss) (a b : Side) (pl : List (Nat × Nat)) (blk : Nat) (s : State) : State :=
  let elw := gElw c.op c.bytes
  let ps := lastPairs b elw blk pl
  let mine := pl.filter fun q => decide (b.off elw q.2 / 64 = blk)
  let blocks (l : List Nat) : List Nat := firsts (l.map fun n => a.off elw n / 64)
  let wide := ps.map fun z => (z, openSources c.op (sameSide a b) pl mine z)
  -- More blocks than the reorder window holds are not read for one block: the pairs then keep their own sources.
  let all := if 64 < (blocks (wide.flatMap Prod.snd)).length then ps.map fun z => (z, [z.1]) else wide
  let need := blocks (all.flatMap Prod.snd)
  let go (src : List (Nat × Data × Desc)) (s0 s : State) : State :=
    let x := s.chooseSources all
    let r := composeBlock a b elw x.1 src
    match engWrite g c t b blk ⟨.hbm 0, r.1, r.2.2.1, r.2.1, 2⟩ x.2 with
    | none => s0
    | some s' => s'.modCmd g fun c => { c with mix := c.mix || r.2.2.2 }
  match a with
  | .plate p e n => go (need.map fun k => (k, ((s.page p).tile e n).block k)) s s
  | .tensor _ slot gen =>
    if !(s.req (engAgent g)).keepRoom then s
    else engWith g c slot gen false need (fun ws s' => go (need.zip (ws.map fun w => (w.data, w.desc))) s s') s

/-- The destination blocks of a command that it has not taken yet. -/
def EngCmd.rest (c : EngCmd) (b : Side) (pl : List (Nat × Nat)) : List Nat :=
  (firsts (pl.map fun z => b.off (gElw c.op c.bytes) z.2 / 64)).filter fun k => !c.order.contains k

/-- The next of a CPY, GATH or SCAT: the block that was taken goes on; with it written another is taken, in an order
that is free (R152; log 2, log 28); with none left the command waits for its writes. -/
def engBlock (g : Nat) (c : EngCmd) (t : Truss) (a b : Side) (s : State) : State :=
  let pl := c.plan a b
  match c.order[c.pos]? with
  | some blk => engMove g c t a b pl.1 blk s
  | none =>
    let left := c.rest b pl.1
    match left with
    | [] => s.modCmd g fun c => { c with draining := true, skipped := pl.2.1, status := if pl.2.2 then 3 else c.status }
    | k :: _ =>
      let v := s.freeVal
      v.2.modCmd g fun c => { c with order := c.order ++ [(left[v.1.toNat % left.length]?).getD k] }

/-! ### Reductions (R154, R360) -/

/-- The value of an element of a block, for a reduction: an element of another width than the tensor's, or a POISON
one, is POISON. -/
def redcValue (g : Geo) (w : BlockW) (off : Nat) : Option Num :=
  if descIsVoid w.desc then some .zero
  else if fmtBytes (fmtOf w.desc) ≠ g.width then none
  else
    match (decodeVal (fmtOf w.desc) (scaleOf w.desc) (fmtInt g.fmt) (dataBytes w.data (off % 64) g.width)).1 with
    | .num x => some x
    | .poison => none

/-- The next source elements of a REDC, a block at a time; after the last, its contribution is made. -/
def redcRead (g : Nat) (c : EngCmd) (a : Side) (s : State) : State :=
  match a with
  | .plate _ _ _ => s
  | .tensor geo slot gen =>
    let n := c.vals.length
    let off (k : Nat) : Nat := a.off geo.width (gSbase 3 c.bytes + k)
    if gCount c.bytes ≤ n then
      let x : Contribution := ⟨c.part, gGroup c.bytes, gSeq c.bytes, gRank c.bytes, gP c.bytes, gOp c.bytes, gCount c.bytes,
        geo.fmt, c.vals, g, c.page, c.ticket⟩
      { (s.modCmd g fun c => { c with phase := 1 }) with groups := s.groups ++ [x] }
    else
      let k := ((List.range (Nat.min 64 (gCount c.bytes - n))).takeWhile fun j => off (n + j) / 64 = off n / 64).length
      engWith g c slot gen false [off n / 64] (fun ws s =>
        match ws with
        | w :: _ => s.modCmd g fun c => { c with vals := c.vals ++ (List.range k).map fun j => redcValue geo w (off (n + j)) }
        | [] => s) s

/-- The next destination block of a combined REDC. -/
def redcWrite (g : Nat) (c : EngCmd) (t : Truss) (b : Side) (s : State) : State :=
  match b with
  | .plate _ _ _ => s
  | .tensor geo _ _ =>
    let w := geo.width
    let off (k : Nat) : Nat := b.off w (gDbase 3 c.bytes + k)
    let all := List.range c.vals.length
    let blocks := firsts (all.map fun k => off k / 64)
    match blocks[c.pos]? with
    | none => s.modCmd g fun c => { c with draining := true }
    | some blk =>
      let mine := all.filter fun k => decide (off k / 64 = blk)
      let vals := mine.map fun k => (off k % 64, (c.vals[k]?).getD none)
      let bad := vals.any fun z => z.2.isNone
      let r := vals.foldl (fun (r : Data × BitVec 64) z =>
        let v := match z.2 with
          | some x => (convert x geo.fmt 127 0 2).1
          | none => 0
        (setBytes r.1 z.1 w v, r.2 ||| byteMask z.1 w)) ((0 : Data), (0 : BitVec 64))
      (engWrite g c t b blk ⟨.hbm 0, r.1, if bad then descPoison else mkDesc 0x7F#8 geo.fmt, r.2, 2⟩ s).getD s

/-- The integer that a whole value is; 0 for any other. -/
def wholeOf : Num → Int
  | .fin neg n d => if neg then -((n / d : Nat) : Int) else ((n / d : Nat) : Int)
  | _ => 0

/-- Two values combined by an operation of R154: SUM in FP32, or modulo 2^32 for integer formats. -/
def redcStep (op : Nat) (int : Bool) (x y : Option Num) : Option Num :=
  match x, y with
  | some x, some y =>
    match op with
    | 0 =>
      let z := (Num.add 0 x y).1
      if int then some (Num.ofInt ((BitVec.ofInt 32 (wholeOf z)).toInt)) else some (ofFp32 (toFp32 z).1)
    | 1 => some (pickNum true false x y)
    | 2 => some (pickNum false false x y)
    | 3 => some (pickNum true true x y)
    | _ => some (pickNum false true x y)
  | _, _ => none

/-- The combination of the contributions' values at one position, in ascending rank. -/
def redcCombine (op : Nat) (int : Bool) : List (Option Num) → Option Num
  | [] => none
  | v :: vs =>
    let v0 := if op = 0 && !int then v.map fun x => ofFp32 (toFp32 x).1 else v
    vs.foldl (redcStep op int) v0

/-- Inserts a contribution after those of its rank or a lower one. -/
def rankInsert (l : List Contribution) (x : Contribution) : List Contribution :=
  match l with
  | [] => [x]
  | y :: t => if x.rank < y.rank then x :: y :: t else y :: rankInsert t x

/-- Contributions of a group, in ascending rank. -/
def State.groupOf (s : State) (part group : Nat) (seq : Word) : List Contribution :=
  (s.groups.filter fun c => c.part == part && c.group == group && c.seq == seq).foldl rankInsert []

/-- Changes the command of a contribution. -/
def State.modContrib (s : State) (x : Contribution) (f : EngCmd → EngCmd) : State :=
  let mine (c : EngCmd) : Bool :=
    decide (c.op = 3) && decide (c.page = x.page) && decide (c.ticket = x.ticket) && decide (c.phase = 1)
      && decide (gGroup c.bytes = x.group) && decide (gSeq c.bytes = x.seq) && decide (gRank c.bytes = x.rank)
  let change (e : Engine) : Engine := { e with cmds := e.cmds.map fun c => if mine c then f c else c }
  { s with engines := fmod s.engines x.eng change }

/-- A participant of a group that has failed: its command completes FAILED and its launch FAILED(COLL); nothing is written
(R360). -/
def State.failContrib (s : State) (y : Contribution) : State :=
  let s := s.modContrib y fun c => { c with status := 3, draining := true }
  match ((fgetD s.engines y.eng Engine.reset).cmds.find? fun c => c.page == y.page && c.ticket == y.ticket) with
  | some c =>
    match fget s.trusses c.truss with
    | some t => s.failItem c.truss 0x09 (detailOf c.elem (s.page c.page).ix t.ix)
    | none => s
  | none => s

/-- REDUCE_COMBINE: a group whose P contributions have arrived combines them; one whose contributions disagree or repeat a
rank completes FAILED(COLL) on every participant, those that contribute later included, up to the largest P that one of them
has named (R154, R360; log 109). -/
def execReduceCombine (pid g : Nat) (q : BitVec 64) (s : State) : Res :=
  let l := s.groupOf pid g q
  let mine (z : Nat × Nat × Word × Nat) : Bool := z.1 == pid && z.2.1 == g && z.2.2.1 == q
  match l with
  | [] => .next s
  | x :: _ =>
    let uneven := l.any fun y => decide (y.p ≠ x.p) || decide (y.op ≠ x.op) || decide (y.count ≠ x.count) || decide (y.fmt ≠ x.fmt)
    let repeats := l.any fun y => decide (1 < l.countP fun z => z.rank == y.rank)
    let rest := s.groups.filter fun c => !(c.part == pid && c.group == g && c.seq == q)
    let s' := { s with groups := rest }
    let dead := (s.deadGroups.find? mine).map fun z => z.2.2.2
    if uneven || repeats || dead.isSome then
      let all := dead.getD (l.foldl (fun n y => Nat.max n y.p) 0)
      let left := if all ≤ l.length then [] else [(pid, g, q, all - l.length)]
      .next (l.foldl State.failContrib { s' with deadGroups := s.deadGroups.filter (fun z => !mine z) ++ left })
    else if l.length < x.p then .next s
    else
      let int := fmtInt x.fmt
      let res := (List.range x.count).map fun k => redcCombine x.op int (l.map fun y => (y.vals[k]?).getD none)
      .next (l.foldl (fun s y => s.modContrib y fun c => { c with vals := res, phase := 2, pos := 0 }) s')

/-! ### Completion -/

/-- The tiles of a completed command: a written tile becomes FULL, one that was only read EMPTY (R18, R152). -/
def State.releaseSides (s : State) (a b : Side) : State :=
  let s := if a = b then s else s.setSide a tileEmpty
  s.setSide b tileFull

/-- A command completes with its status: tiles and references released, ticket written, completion token sent
(R152, R155, R156, R299, R317). -/
def State.finishCmd (s : State) (g : Nat) (c : EngCmd) (t : Truss) (st : Nat) : State :=
  let s := if c.bytes.isEmpty then s
    else
      let s := match s.engSides c.op c.bytes t (engAgent g).bay with
        | some (a, b) => s.releaseSides a b
        | none => s
      s.refCmd c.op c.bytes c.part false
  let s := match c.ticket with
    | some n => s.modCore c.page fun k => { (k.setTicket n st).setSkips n c.skipped with event := true }
    | none => s
  let s := if c.crx then s.crxDone c.page st else s
  { s with engines := fmod s.engines g fun e => { e with cmds := e.cmds.drop 1 } }

/-- ENGINE_COMMAND_COMPLETE: an engine goes on with its running command, and completes it once its last block is
acknowledged: complete at .M, as the change of a plate side asks, and known not to have met MIX (R150 to R156, R317;
log 98). -/
def execEngineCommandComplete (b g : Nat) (s : State) : Res :=
  let k := b * 8 + g
  let e := fgetD s.engines k Engine.reset
  match e.cmds with
  | [] => .next s
  | c :: _ =>
    match fget s.trusses c.truss with
    | none => .next s
    | some t =>
      if (s.req (engAgent k)).stall.isSome ∨ 5 < g then .next s
      else if c.draining then
        let st := if c.status ≠ 0 then c.status else if c.mix then 5 else 1
        if s.completeAtScope (engAgent k) 2 = false ∨ (c.crx = true ∧ 4 ≤ (s.page c.page).crxHeld) then .next s
        else .next (s.finishCmd k c t st)
      else if c.bytes.isEmpty then .next (engFetch k c t s)
      else
        match s.engSides c.op c.bytes t b with
        | none => .next s
        | some (x, y) =>
          if c.op = 3 then
            .next (match c.phase with
              | 0 => redcRead k c x s
              -- The command waits for its group: the engine turns to the next one.
              | 1 => { s with engines := fmod s.engines k fun e => { e with cmds := e.cmds.drop 1 ++ e.cmds.take 1 } }
              | _ => redcWrite k c t y s)
          else if c.op ≠ 0 ∧ c.idx.length < gNidx c.bytes then .next (engIndex k c s)
          else .next (engBlock k c t x y s)

end Sys2Proof.Machine
end

