-- ==== Sys2Proof/Machine/Agents.lean ====
section
/-! DEFINITION. Stalled agents: which they are, how they resume and how a failed page request ends their access
(R369, R401, R404 to R408, R438, R445). -/

namespace Sys2Proof.Machine

/-! ### Who is stalled -/

/-- The partition that an agent acts for. -/
def State.agentPart (s : State) (a : AgentId) : Option Nat :=
  ((s.trussOfAgent a).bind (fget s.trusses)).map Truss.part

/-- The stall of an agent. -/
def State.agentStall (s : State) (a : AgentId) : Option Stall :=
  match agentPage a with
  | some (p, 0) =>
    match (s.page p).core.wait with
    | some (.stall st) => some st
    | _ => (s.req a).stall
  | _ => (s.req a).stall

/-- Every agent that may be stalled: cores, then requesters. -/
def State.agents (s : State) : List AgentId :=
  let cores := s.pages.map fun z => pageAgent z.1 0 0
  let reqs := (s.reqs.map Prod.fst).filter fun a => !cores.contains a
  cores ++ reqs

/-- Agents of a partition whose stall satisfies a test. -/
def State.stalled (s : State) (part : Nat) (f : Stall → Bool) : List AgentId :=
  s.agents.filter fun a => (s.agentPart a == some part) &&
    match s.agentStall a with
    | some st => f st
    | none => false

/-- Replaces the stall of a stalled agent; with none, it goes on from the access at which it stalled (R404). -/
def State.restall (s : State) (a : AgentId) (st : Option Stall) : State :=
  let s := match agentPage a with
    | some (p, 0) => s.modCore p fun c =>
        match c.wait with
        | some (.stall _) => { c with wait := st.map Wait.stall }
        | _ => c
    | _ => s
  let r := s.req a
  -- The 2 ms of R412 start again for everything outstanding.
  s.setReq a { r with stall := if r.stall.isSome then st else none,
                      kept := r.kept.map fun k => { k with sent := s.now },
                      win := r.win.map fun e => { e with sent := s.now } }

/-! ### Failed accesses (R405) -/

/-- A write that will not be made: its copy is dropped and its number abandoned (R328, R369). -/
def State.dropWrite (s : State) (a : AgentId) (k : Retained) : State :=
  (s.send (k.abandon a)).givenUp a k

/-- The accesses of a requester that a guest granule refused fail: writes are dropped, reads and atomics come back as failed
(R407). Answers the offset of a write that was dropped. -/
def State.failRefused (s : State) (a : AgentId) (g : Nat) : Option Nat × State :=
  let gone := (s.req a).kept.filter fun k => decide (k.refused = some g)
  let s := gone.foldl (fun s k => s.dropWrite a k) s
  let tags := (gone.filter fun k => decide (k.pkt.op = .atomic)).map fun k => k.pkt.tag
  let r := s.req a
  let hit (e : WinEntry) : Bool := decide (e.refused = some g) || (e.got.isNone && tags.contains e.tag)
  let lost := (gone.find? fun k => decide (k.pkt.op = .write)).map fun k => k.pkt.off
  let win := r.win.map fun e => if hit e then { e with got := some ([], [], 2), failed := true, refused := none } else e
  (lost, s.setReq a { r with win := win })

/-- The launch that an agent acts for reports FAILED(PAGEREQ) (R405). -/
def State.failAgentLaunch (s : State) (a : AgentId) : State :=
  match s.trussOfAgent a with
  | some t => s.failItem t 0x08 (s.agentDetail a)
  | none => s

/-- The access at which an agent stalled, which has sent no request, fails by its agent's rule (R405). -/
def State.failAccess (s : State) (a : AgentId) : State :=
  match agentPage a with
  | some (p, 0) => s.modCore p fun c => { c with wait := none, failed := true }
  | some (p, 3) => s.modElem p a.sub fun x => { x with cnt := 1 :: x.cnt.drop 1 }
  | some (p, k) => s.modPort p (if k = 1 then a.sub else 4 + a.sub) fun y => { y with failNext := true }
  | none =>
    match agentEngine a with
    | some g => s.failCmd g
    | none => s

/-- The stalled access of an agent fails, by its agent's rule; its launch reports FAILED(PAGEREQ) (R405). -/
def State.failAgent (s : State) (a : AgentId) : State :=
  let s := s.failAgentLaunch a
  match agentLink a with
  | some l =>
    match fget s.links l with
    | none => s
    | some x => ([x.prod, x.cons].filterMap id).foldl (fun s t => s.failTruss t 0x08 0 0) (s.restall a none)
  | none => (s.restall a none).failAccess a

/-- A core whose requests have been refused for good: a write that is lost traps at the next boundary, at once where its
instruction waits for it, and an access that it waits for has failed (R132, R407). -/
def Core.refusedFor (c : Core) (g : Nat) (lost : Option Word) (failed : Nat → Bool) : Core :=
  let c := { c with lost := if lost.isSome then lost else c.lost }
  match c.wait with
  | some .room | some (.writes _) | some .ending => if lost.isSome then c.clearStage else c
  | some (.resp t) => if failed t then { c with wait := none, failed := true } else c
  | some (.stall (.owner h)) => if h = g then { c with wait := none, failed := true } else c
  | _ => c

/-- FAILISO at an agent: what the guest granule has refused fails, by its agent's rule, and so does a walk or place that it
refused; the launch reports FAILED(PAGEREQ) (R369, R407). -/
def State.failIso (g : Nat) (s : State) (a : AgentId) : State :=
  let sent := (s.req a).refusals.contains g
  let s := s.failAgentLaunch a
  let z := s.failRefused a g
  if (agentLink a).isSome then z.2.failAgent a
  else
    let r := z.2.req a
    let mine := decide (r.stall = some (.owner g))
    let r := { r with kept := r.kept.map fun k => { k with sent := s.now }, win := r.win.map fun e => { e with sent := s.now } }
    let s := z.2.setReq a (if mine then r.restalled else r)
    let s := match agentPage a with
      | some (p, 0) =>
        s.modCore p fun c => c.refusedFor g (z.1.map (BitVec.ofNat 64)) fun t => ((r.entry t).map WinEntry.failed).getD false
      | some (p, 2) => if sent then s.modPort p (4 + a.sub) fun y => y.stick 0 else s.failAccess a
      | some _ => if sent then s else s.failAccess a
      | none => s.failAccess a
    State.flushUnsent a 32 s

/-! ### Resuming -/

/-- A refused agent is resumed for a guest granule (R369); a walk or place that was refused is tried again (R301). -/
def State.resumeOwner (s : State) (a : AgentId) (g : Nat) : State :=
  if (s.req a).refusals.contains g then s.resumeRequests a g else s.restall a none

/-- The agents of a partition that a guest granule has refused. -/
def State.refusedBy (s : State) (part g : Nat) : List AgentId :=
  s.agents.filter fun a => (s.agentPart a == some part) && (s.agentStall a).isSome
    && (decide (s.agentStall a = some (.owner g)) || (s.req a).refusals.contains g)

/-- A refused agent waits on a channel for a guest granule: the channel serves one of its refused requests, or its walk
or place was refused and no request was sent. -/
def State.awaitsChannel (s : State) (a : AgentId) (g h c : Nat) : Bool :=
  let r := s.req a
  let ks := (r.kept.filter fun k => k.refused = some g).map Retained.pkt
    ++ (r.win.filter fun e => e.refused = some g).map WinEntry.pkt
  let hits (p : Phys) : Bool :=
    match p with
    | .hbm x => decide (channelOf (hbmAddr h x) = c)
    | _ => false
  if ks.isEmpty then true else ks.any fun k => hits k.phys || k.blocks.any fun w => hits w.phys

/-! ### The view pool (R445) -/

/-- Writers that wait for a panel take the free ones, in the order in which they stalled. -/
def State.feedStarved (part : Nat) : Nat → State → State
  | 0, s => s
  | n + 1, s =>
    let p := s.part part
    match p.starved with
    | [] => s
    | (a, view, slot, panel) :: rest =>
      match fget p.views view with
      | none => State.feedStarved part n ((s.setPart part { p with starved := rest }).restall a none)
      | some v =>
        let sent := fun (s : State) => s.restall a (some (.copying view slot panel))
        let more := rest.any fun z => z.2.1 == view
        let v := { v with exhausted := v.exhausted && more }
        if v.copying.any fun o => o.1 == slot && o.2.1 == panel then
          State.feedStarved part n (sent (s.setPart part { p with starved := rest, views := fput p.views view v }))
        else
          match p.pool with
          | [] => s
          | g :: t =>
            let v := { v with copying := v.copying ++ [(slot, panel, g, 0)] }
            State.feedStarved part n (sent (s.setPart part { p with starved := rest, pool := t, views := fput p.views view v }))

/-- Panels return to the pool. -/
def State.givePanels (s : State) (part : Nat) (l : List Nat) : State :=
  let s := s.modPart part fun p => { p with pool := p.pool ++ l }
  State.feedStarved part (s.part part).starved.length s

/-! ### PANEL_COPY (R438) -/

/-- No bay's RDC serves what a guest panel held before (R307). -/
def State.forgetPanel (s : State) (part g : Nat) : State :=
  match s.guest part (g * 2 ^ 16) with
  | .ok a => (List.range 8).foldl (fun s b => s.rdcInval b part fun k => decide (a ≤ k * 64) && decide (k * 64 < a + 2 ^ 16)) s
  | .refused _ => s

/-- A copy has taken its last block: the overlay names the new panel, of whose earlier use no bay holds anything, and its writers
go on (R438, R439). -/
def State.endCopy (s : State) (part view slot panel g : Nat) : State :=
  let s := s.forgetPanel part g
  let s := s.modPart part fun p => { p with views := fmod p.views view fun v =>
    { v with copying := v.copying.filter fun o => !(o.1 == slot && o.2.1 == panel),
             overlay := v.overlay ++ [(slot, panel, g)] } }
  -- The view's own translations of the panel are of the parent's panel: they are dropped.
  let drop (b : Bay) : Bay := { b with tlb := b.tlb.filter fun e =>
    !(e.part == part && e.slot == slot && e.panel == panel && e.view != 0) }
  let s := { s with bays := s.bays.map fun (z : Nat × Bay) => (z.1, drop z.2) }
  let s := s.refSlot part slot
  (s.stalled part fun st => decide (st = Stall.copying view slot panel)).foldl (fun s a => s.restall a none) s

/-- PANEL_COPY: a copy engine copies the next block of a panel that a rival has written first, from what the parent
view holds of it now (R438). -/
def execPanelCopy (pid view slot panel : Nat) (s : State) : Res :=
  match fget (s.part pid).views view with
  | none => .next s
  | some v =>
    match v.copying.find? fun o => o.1 == slot && o.2.1 == panel with
    | none => .next s
    | some (_, _, g, n) =>
      let src := match (s.xlate 0 pid v.parent slot panel).1 with
        | .leaf e =>
          match s.placeOf pid e (64 * n) with
          | .ok p => if s.mayServe pid p then some (s.mem.block p) else none
          | .error _ => none
        | _ => none
      match src, s.guest pid (g * 2 ^ 16 + 64 * n) with
      | some b, .ok a =>
        let s := { s with mem := s.mem.setBlock (.hbm a) b.1 b.2 }
        let s := (s.meter pid 7 64).meter pid 8 64
        if n + 1 < 1024 then
          .next (s.modPart pid fun p => { p with views := fmod p.views view fun v =>
            { v with copying := v.copying.map fun o => if o.1 == slot && o.2.1 == panel then (o.1, o.2.1, g, n + 1) else o } })
        else .next (s.endCopy pid view slot panel g)
      | _, _ => .next s

end Sys2Proof.Machine
end

