-- ==== Sys2Proof/Machine/Arith.lean ====
section
/-! DEFINITION. Integer arithmetic, logic, compares and constants (R105 to R110). -/

namespace Sys2Proof.Machine

/-- An instruction of two register sources that writes `f a b` (R95). -/
def binary (f : Word → Word → Word) (d a b : Reg) (s : State) : Res :=
  writeReg d (f (s.core.rd a) (s.core.rd b)) (s.core.taint2 a b) s

/-- An instruction of one register source that writes `f a` (R95). -/
def unary (f : Word → Word) (d a : Reg) (s : State) : Res :=
  writeReg d (f (s.core.rd a)) (s.core.tainted a) s

/-- A division: writes `f a b`, or `z a` with FLAGS.DZ set when the divisor is zero (R105). -/
def divide (f : Word → Word → Word) (z : Word → Word) (d a b : Reg) (s : State) : Res :=
  let c := s.core
  let x := c.rd a
  let y := c.rd b
  if y = 0 then .next (complete (c.setDz.wr d (z x) (c.taint2 a b)) s)
  else writeReg d (f x y) (c.taint2 a b) s

/-- (s(a) × s(b))[127:64] (R105). -/
def mulHigh (x y : Word) : Word := BitVec.ofInt 64 (sval x * sval y / 2 ^ 64)
/-- (u(a) × u(b))[127:64] (R105). -/
def mulHighU (x y : Word) : Word := BitVec.ofNat 64 (x.toNat * y.toNat / 2 ^ 64)
/-- trunc(s(a) / s(b))[63:0] (R105). -/
def divS (x y : Word) : Word := BitVec.ofInt 64 (Int.tdiv (sval x) (sval y))
/-- s(a) − s(b) × trunc(s(a) / s(b)) (R105). -/
def remS (x y : Word) : Word := BitVec.ofInt 64 (sval x - sval y * Int.tdiv (sval x) (sval y))
/-- The unsigned quotient. -/
def divU (x y : Word) : Word := BitVec.ofNat 64 (x.toNat / y.toNat)
/-- The unsigned remainder. -/
def remU (x y : Word) : Word := BitVec.ofNat 64 (x.toNat % y.toNat)
/-- All ones, the quotient of a zero divisor. -/
def allOnes : Word := 0xFFFFFFFFFFFFFFFF#64
/-- A shift amount: g[b][5:0] (R106). -/
def shamt (y : Word) : Nat := y.toNat % 64
/-- (a >> n) OR (a << (64 − n)) (R106). -/
def rorWord (x : Word) (n : Nat) : Word := (x >>> n) ||| (x <<< (64 - n))

/-- ADD (R105). -/
def execAdd (d a b : Reg) (s : State) : Res := binary (fun x y => x + y) d a b s
/-- SUB (R105). -/
def execSub (d a b : Reg) (s : State) : Res := binary (fun x y => x - y) d a b s
/-- MUL (R105). -/
def execMul (d a b : Reg) (s : State) : Res := binary (fun x y => x * y) d a b s
/-- MULH (R105). -/
def execMulh (d a b : Reg) (s : State) : Res := binary mulHigh d a b s
/-- MULHU (R105). -/
def execMulhu (d a b : Reg) (s : State) : Res := binary mulHighU d a b s
/-- DIV (R105). -/
def execDiv (d a b : Reg) (s : State) : Res := divide divS (fun _ => allOnes) d a b s
/-- DIVU (R105). -/
def execDivu (d a b : Reg) (s : State) : Res := divide divU (fun _ => allOnes) d a b s
/-- REM (R105). -/
def execRem (d a b : Reg) (s : State) : Res := divide remS (fun x => x) d a b s
/-- REMU (R105). -/
def execRemu (d a b : Reg) (s : State) : Res := divide remU (fun x => x) d a b s

/-- AND (R106). -/
def execAnd (d a b : Reg) (s : State) : Res := binary (fun x y => x &&& y) d a b s
/-- OR (R106). -/
def execOr (d a b : Reg) (s : State) : Res := binary (fun x y => x ||| y) d a b s
/-- XOR (R106). -/
def execXor (d a b : Reg) (s : State) : Res := binary (fun x y => x ^^^ y) d a b s
/-- ANDN (R106). -/
def execAndn (d a b : Reg) (s : State) : Res := binary (fun x y => x &&& ~~~y) d a b s
/-- SHL (R106). -/
def execShl (d a b : Reg) (s : State) : Res := binary (fun x y => x <<< shamt y) d a b s
/-- SHR (R106). -/
def execShr (d a b : Reg) (s : State) : Res := binary (fun x y => x >>> shamt y) d a b s
/-- SRA (R106). -/
def execSra (d a b : Reg) (s : State) : Res := binary (fun x y => x.sshiftRight (shamt y)) d a b s
/-- ROR (R106). -/
def execRor (d a b : Reg) (s : State) : Res := binary (fun x y => rorWord x (shamt y)) d a b s
/-- CLZ (R106). -/
def execClz (d a : Reg) (s : State) : Res := unary (fun x => BitVec.ofNat 64 (clz64 x)) d a s
/-- CTZ (R106). -/
def execCtz (d a : Reg) (s : State) : Res := unary (fun x => BitVec.ofNat 64 (ctz64 x)) d a s
/-- POPC (R106). -/
def execPopc (d a : Reg) (s : State) : Res := unary (fun x => BitVec.ofNat 64 (pop64 x)) d a s
/-- UNTAINT (R95, R106). -/
def execUntaint (d : Reg) (s : State) : Res := writeReg d (s.core.rd d) false s

/-- MIN (R108). -/
def execMin (d a b : Reg) (s : State) : Res := binary (fun x y => if sval x ≤ sval y then x else y) d a b s
/-- MAX (R108). -/
def execMax (d a b : Reg) (s : State) : Res := binary (fun x y => if sval y ≤ sval x then x else y) d a b s
/-- MINU (R108). -/
def execMinu (d a b : Reg) (s : State) : Res := binary (fun x y => if x.toNat ≤ y.toNat then x else y) d a b s
/-- MAXU (R108). -/
def execMaxu (d a b : Reg) (s : State) : Res := binary (fun x y => if y.toNat ≤ x.toNat then x else y) d a b s
/-- SEQ (R108). -/
def execSeq (d a b : Reg) (s : State) : Res := binary (fun x y => boolWord (decide (x = y))) d a b s
/-- SLT (R108). -/
def execSlt (d a b : Reg) (s : State) : Res := binary (fun x y => boolWord (decide (sval x < sval y))) d a b s
/-- SLTU (R108). -/
def execSltu (d a b : Reg) (s : State) : Res :=
  binary (fun x y => boolWord (decide (x.toNat < y.toNat))) d a b s
/-- SEL (R108): the taint is the OR of all three. -/
def execSel (d a b c : Reg) (s : State) : Res :=
  writeReg d (if s.core.rd c ≠ 0 then s.core.rd a else s.core.rd b)
    (s.core.taint2 a b || s.core.tainted c) s

/-- ADDI (R109). -/
def execAddi (d a : Reg) (imm : BitVec 15) (s : State) : Res := unary (fun x => x + sext imm) d a s
/-- ANDI (R109). -/
def execAndi (d a : Reg) (imm : BitVec 15) (s : State) : Res := unary (fun x => x &&& sext imm) d a s
/-- ORI (R109). -/
def execOri (d a : Reg) (imm : BitVec 15) (s : State) : Res := unary (fun x => x ||| sext imm) d a s
/-- XORI (R109). -/
def execXori (d a : Reg) (imm : BitVec 15) (s : State) : Res := unary (fun x => x ^^^ sext imm) d a s
/-- SHLI (R109). -/
def execShli (d a : Reg) (n : BitVec 6) (s : State) : Res := unary (fun x => x <<< n.toNat) d a s
/-- SHRI (R109). -/
def execShri (d a : Reg) (n : BitVec 6) (s : State) : Res := unary (fun x => x >>> n.toNat) d a s
/-- SRAI (R109). -/
def execSrai (d a : Reg) (n : BitVec 6) (s : State) : Res := unary (fun x => x.sshiftRight n.toNat) d a s
/-- SLTI (R109). -/
def execSlti (d a : Reg) (imm : BitVec 15) (s : State) : Res :=
  unary (fun x => boolWord (decide (sval x < sval (sext imm)))) d a s

/-- 2^len − 1 with len = l + 1 (R107). -/
def fieldMask (l : BitVec 6) : Word := BitVec.ofNat 64 (ones (l.toNat + 1))

/-- BFX (R107). -/
def execBfx (d a : Reg) (l p : BitVec 6) (s : State) : Res :=
  if 64 < p.toNat + l.toNat + 1 then trapWord (.bfx d a l p) s
  else unary (fun x => (x >>> p.toNat) &&& fieldMask l) d a s

/-- BFI (R107): reads the old gD. -/
def execBfi (d a : Reg) (l p : BitVec 6) (s : State) : Res :=
  if 64 < p.toNat + l.toNat + 1 then trapWord (.bfi d a l p) s
  else
    let m := fieldMask l
    writeReg d ((s.core.rd d &&& ~~~(m <<< p.toNat)) ||| ((s.core.rd a &&& m) <<< p.toNat))
      (s.core.taint2 a d) s

/-- LI (R110): the taint is cleared. -/
def execLi (d : Reg) (imm : BitVec 20) (s : State) : Res := writeReg d (sext imm) false s

/-- LIH (R110): the taint of gD is kept. -/
def execLih (d : Reg) (imm : BitVec 20) (s : State) : Res :=
  writeReg d ((s.core.rd d <<< 20) ||| imm.zeroExtend 64) (s.core.tainted d) s

end Sys2Proof.Machine
end

