-- ==== Sys2Proof/Machine/Flow.lean ====
section
/-! DEFINITION. Branches, jumps and zero-overhead loops (R111 to R122). -/

namespace Sys2Proof.Machine

/-- A conditional branch (R111): taken, it transfers control under R116; untaken, it falls through. -/
def branchIf (cond : Word → Word → Bool) (a b : Reg) (off : BitVec 15) (s : State) : Res :=
  let c := s.core
  if cond (c.rd a) (c.rd b) then .next (completeAt (c.branchTo (relTarget c off)) s)
  else .next (complete c s)

/-- BEQ (R111). -/
def execBeq (a b : Reg) (off : BitVec 15) (s : State) : Res := branchIf (fun x y => decide (x = y)) a b off s
/-- BNE (R111). -/
def execBne (a b : Reg) (off : BitVec 15) (s : State) : Res := branchIf (fun x y => decide (x ≠ y)) a b off s
/-- BLT (R111). -/
def execBlt (a b : Reg) (off : BitVec 15) (s : State) : Res :=
  branchIf (fun x y => decide (sval x < sval y)) a b off s
/-- BGE (R111). -/
def execBge (a b : Reg) (off : BitVec 15) (s : State) : Res :=
  branchIf (fun x y => decide (sval y ≤ sval x)) a b off s
/-- BLTU (R111). -/
def execBltu (a b : Reg) (off : BitVec 15) (s : State) : Res :=
  branchIf (fun x y => decide (x.toNat < y.toNat)) a b off s
/-- BGEU (R111). -/
def execBgeu (a b : Reg) (off : BitVec 15) (s : State) : Res :=
  branchIf (fun x y => decide (y.toNat ≤ x.toNat)) a b off s

/-- J (R112, R116). -/
def execJ (off : BitVec 25) (s : State) : Res :=
  .next (completeAt (s.core.branchTo (relTarget s.core off)) s)

/-- JAL (R112): links g31 with its taint cleared, and deactivates no loop (R116). -/
def execJal (off : BitVec 25) (s : State) : Res :=
  let c := s.core
  .next (completeAt { c.wr 31 (c.pc + 4) false with pc := relTarget c off } s)

/-- JR (R113, R115, R116). -/
def execJr (a : Reg) (s : State) : Res :=
  let c := s.core
  let t := c.rd a
  if t.toNat % 4 ≠ 0 then trapHere causeMisalign t s else .next (completeAt (c.branchTo t) s)

/-- JALR (R113, R115): the target is read before gD is written; no loop is deactivated (R116). -/
def execJalr (d a : Reg) (s : State) : Res :=
  let c := s.core
  let t := c.rd a
  if t.toNat % 4 ≠ 0 then trapHere causeMisalign t s
  else if d = 0 then .next (completeAt (c.branchTo t) s)
  else .next (completeAt { c.wr d (c.pc + 4) false with pc := t } s)

/-- A loop counter field as a counter number; 0b11 is reserved (R63). -/
def lcOf (c : BitVec 2) : Option (Fin 3) :=
  match c.toNat with
  | 0 => some 0
  | 1 => some 1
  | 2 => some 2
  | _ => none

/-- A loop has started: the lines of its body are to be fetched, and the body of an outermost loop is the one that the
loop buffer, emptied, takes (R120, R121). -/
def Core.takeBody (c : Core) (l : Loop) (outermost : Bool) : Core :=
  let beg := l.beg.toNat
  let fin := l.fin.toNat
  let c := { c with due := c.due ++ (List.range (fin / 64 + 1 - beg / 64)).map fun k => beg / 64 + k }
  if outermost then { c with lbuf := [], lbufSpan := some (beg, fin) } else c

/-- LOOP and LOOPI (R117): a zero count skips the body; otherwise the loop starts. -/
def startLoop (w : Instr) (k : Fin 3) (count : Nat) (n : BitVec 8) (s : State) : Res :=
  let c := s.core
  let len := n.toNat + 1
  if (c.loop k).act then trapWord w s
  else if count = 0 then .next (completeAt { c with pc := c.pc + 4 + BitVec.ofNat 64 (4 * len) } s)
  else
    let l : Loop := ⟨true, BitVec.ofNat 2 c.activeLoops, BitVec.ofNat 64 count, c.pc + 4,
      c.pc + BitVec.ofNat 64 (4 * len)⟩
    -- The loop-end action of R118 applies to the loops that were active, and to the new one only at its END.
    let c' := (c.setLoop k l).takeBody l (c.activeLoops = 0)
    .next (complete c' s)

/-- LOOP (R117). -/
def execLoop (c : BitVec 2) (a : Reg) (n : BitVec 8) (s : State) : Res :=
  match lcOf c with
  | none => trapWord (.loop c a n) s
  | some k => startLoop (.loop c a n) k (s.core.rd a).toNat n s

/-- LOOPI (R117). -/
def execLoopi (c : BitVec 2) (n : BitVec 8) (k : BitVec 10) (s : State) : Res :=
  match lcOf c with
  | none => trapWord (.loopi c n k) s
  | some j => startLoop (.loopi c n k) j k.toNat n s

/-- LBRK (R122). -/
def execLbrk (c : BitVec 2) (s : State) : Res :=
  match lcOf c with
  | none => trapWord (.lbrk c) s
  | some k =>
    let x := s.core
    if (x.loop k).act then .next (completeAt { x.dropLoop k with pc := (x.loop k).fin + 4 } s)
    else trapWord (.lbrk c) s

end Sys2Proof.Machine
end

