-- ==== Sys2Proof/Machine/Fetch.lean ====
section
/-! DEFINITION. Instruction fetch (R104, R120, R121, R132). -/

namespace Sys2Proof.Machine

/-- The code area of the current core's launch: [IMAGE, IMAGE + SIZE) (R103, R349). The whole word must lie in it: the
spec does not say what becomes of a word that SIZE cuts, and the model takes it as outside (log 96). -/
def State.inCode (s : State) (a : Word) : Bool :=
  match s.curLaunch with
  | none => false
  | some l => decide (l.image ≤ a.toNat) && decide (a.toNat + 4 ≤ l.image + l.img.size)

/-- A page whose section the placer supplies: it holds only END (R93, R103). -/
def State.endOnly (s : State) : Bool :=
  match s.curLaunch with
  | none => false
  | some l => l.img.codes.all fun c => c.index ≠ 0xFFFF && c.index ≠ s.curPage.ix

/-- The address of the END-only section that the placer supplies: past every tensor-0 address (log 10). -/
def endOnlyPc : Word := 0xFFFF000000000000#64

/-- The loop buffer serves a fetch: the outermost loop is active and its body holds the address (R120). -/
def Core.bufferHas (c : Core) (a : Nat) : Bool :=
  (c.loops.toList.any fun l => l.act && decide (l.level = 0)) &&
    match c.lbufSpan with
    | some (lo, hi) => decide (lo ≤ a) && decide (a ≤ hi)
    | none => false

/-- Lines of the L1I: 32 KiB of 64-byte lines (R15). -/
def l1iLines : Nat := 512

/-- The body of an active loop takes words of a line: it stays in the L1I until the loop has ended (R121). -/
def Core.bodyLine (c : Core) (ln : Nat) : Bool :=
  c.loops.toList.any fun l => l.act && decide (l.beg.toNat / 64 ≤ ln) && decide (ln ≤ l.fin.toNat / 64)

/-- A line enters the L1I of the current core; of 512 others one that holds no body of an active loop makes room, which one
being open (R15, R121; log 2, log 94). Three bodies of 256 words take at most 51 lines. -/
def State.fillCode (s : State) (ln : Nat) (d : Data) : State :=
  let c := s.core
  if (fget c.l1i ln).isSome || decide (c.l1i.length < l1iLines) then s.setCore { c with l1i := fput c.l1i ln d }
  else
    let may := (c.l1i.map Prod.fst).filter fun k => !c.bodyLine k
    let v := s.freeVal
    v.2.setCore { c with l1i := fput (fdel c.l1i ((may[v.1.toNat % may.length]?).getD ln)) ln d }

/-- How the fetch of a line ends. -/
inductive CodeLine where
  /-- Its bytes. -/
  | bytes (d : Data) (s : State)
  /-- The core has trapped or waits. -/
  | stop (r : Res)

/-- The bytes of the line of a fetch address: from the L1I, or from memory as a tensor-0 load is translated (R104,
R132). The block's descriptor plays no part: the spec gives a fetch no outcome of VOID or POISON, and the bytes are taken
as they stand (log 96). -/
def codeLine (ea : Word) (s : State) : CodeLine :=
  let ln := ea.toNat / 64
  match fget s.core.l1i ln with
  | some d => .bytes d s
  | none =>
    let s := s.setCore { s.core with scratch := [BitVec.ofNat 64 ln] }
    if s.core.failed then .stop (trapFailed ea s)
    else
      match coreXlate ea false s with
      | .stop r => .stop r
      | .ok e s =>
        match corePlace e ea false s with
        | .stop r => .stop r
        | .ok p s =>
          match s.rdcHit s.me.bay s.curPart p fullMask with
          | some x =>
            let s := s.seeUnacked s.me (p.home s.me.bay) (x.seen fullMask)
            .bytes x.data ((s.setCore { s.core with scratch := [] }).fillCode ln x.data)
          | none =>
            let q := s.readReq s.me s.curPart p 0 0 ea.toNat fullMask .miss
            .stop (waitFor (.resp q.1) q.2.core.stage q.2)

/-- What a fetch under way has come to: the line that has come enters the L1I; a failure that was not of the line that pc
asks for is of one fetched ahead, which is given up. -/
def landLine (asked : Bool) (s : State) : State :=
  let c := s.core
  match c.scratch, c.resp with
  | n :: _, (_, w) :: _ => (s.setCore { c with resp := [], scratch := [] }).fillCode n.toNat w.data
  | n :: _, [] =>
    if c.failed && !(asked && decide (n.toNat = c.pc.toNat / 64)) then
      s.setCore { c with failed := false, scratch := [], due := c.due.filter fun k => decide (k ≠ n.toNat) }
    else s
  | [], _ => s

/-! ### The loop buffer (R120, R121) -/

/-- Addresses of the words of the body that the loop buffer serves. -/
def Core.bodyWords (c : Core) : List Nat :=
  match c.lbufSpan with
  | some (lo, hi) => (List.range ((hi - lo) / 4 + 1)).map fun k => lo + 4 * k
  | none => []

/-- The words of the body that lie in a line enter the loop buffer. -/
def Core.keepBody (c : Core) (ln : Nat) (d : Data) : Core :=
  { c with lbuf := (c.bodyWords.filter fun a => decide (a / 64 = ln)).foldl (fun m a => fput m a (lane d (a % 64 / 4))) c.lbuf }

/-- A fetch address that translates to a place of this module, without a fault. -/
def State.codeThere (s : State) (a : Nat) : Bool :=
  match (s.xlate (bayOf s.cur) s.curPart s.curView 0 (a / 2 ^ 16)).1 with
  | .leaf e => decide (leafTgt e ≠ 2) && (match s.placeOf s.curPart e a with
    | .ok _ => true
    | .error _ => false)
  | _ => false

/-- The lines of the bodies of loops that have started are fetched, into the L1I and, for the body that it serves, into
the loop buffer: a store into the body of an active loop is then seen by none of its later iterations (R120, R121). A line
that cannot be fetched without a fault or a failure is passed over (log 95). -/
def fetchBodies : List Nat → State → CodeLine
  | [], s => .bytes 0 (s.setCore { s.core with due := [] })
  | ln :: rest, s =>
    let a := 64 * ln
    let s := s.setCore { s.core with due := ln :: rest }
    let skip := !s.core.bodyLine ln || ((fget s.core.l1i ln).isNone
      && (!(s.inCode (BitVec.ofNat 64 a) || s.inCode (BitVec.ofNat 64 (a + 60))) || !s.codeThere a))
    if skip then fetchBodies rest s
    else
      match codeLine (BitVec.ofNat 64 a) s with
      | .stop r => .stop r
      | .bytes d s => fetchBodies rest (s.setCore (s.core.keepBody ln d))

/-- How a fetch ends. -/
inductive Fetched where
  /-- The word at pc. -/
  | word (w : Word32) (s : State)
  /-- The core has trapped or waits. -/
  | stop (r : Res)

/-- Fetches the word at the current core's pc: from the loop buffer, the L1I, or memory as a tensor-0 load is
translated (R104, R120, R121). The spec gives a fetch from a VOID or POISON block no outcome; the block's bytes are
executed (DESIGN CHOICE, log 96). -/
def fetch (s : State) : Fetched :=
  let pc := s.core.pc
  let a := pc.toNat
  if s.endOnly && decide (pc = endOnlyPc) then .word 0x3A000000#32 s
  else if !s.inCode pc then .stop (trapHere causeBounds pc s)
  else
    let held := if s.core.bufferHas a then fget s.core.lbuf a else none
    let s := landLine held.isNone s
    match (match held with
      | some _ => CodeLine.bytes 0 s
      | none => codeLine pc s) with
    | .stop r => .stop r
    | .bytes d s =>
      let w := held.getD (lane d (a % 64 / 4))
      if s.core.due.isEmpty then .word w s
      else
        match fetchBodies s.core.due s with
        | .stop r => .stop r
        | .bytes _ s => .word w s

end Sys2Proof.Machine
end

