-- ==== Sys2Proof/Machine/Images.lean ====
section
/-! DEFINITION. Truss images: their layout and checks (R91 to R93), and how a truss's pages and fabric are brought
up from one (R17, R103, R258 to R262). -/

namespace Sys2Proof.Machine

/-! ### CRC-32 -/

/-- One byte of the reflected CRC-32 of IEEE 802.3. -/
def crcByte (c : Nat) (b : Byte) : Nat :=
  (List.range 8).foldl (fun c _ => if c % 2 = 1 then (c / 2) ^^^ 0xEDB88320 else c / 2) (c ^^^ b.toNat)

/-- CRC-32 (R91). -/
def crc32 (l : List Byte) : Nat := (l.foldl crcByte 0xFFFFFFFF) ^^^ 0xFFFFFFFF

/-! ### Reading the layout -/

/-- A directory entry (R91). -/
structure DirEntry where
  /-- TYPE. -/
  type : Nat
  /-- INDEX. -/
  index : Nat
  /-- OFFSET. -/
  off : Nat
  /-- SIZE. -/
  size : Nat
  /-- AUX. -/
  aux : Nat
  deriving DecidableEq, Repr

/-- The first `k` pieces of `n` bytes. -/
def pieces (n : Nat) : Nat → List Byte → List (List Byte)
  | 0, _ => []
  | k + 1, l => l.take n :: pieces n k (l.drop n)

/-- The directory of an image (R91). -/
def imgDir (b : List Byte) : List DirEntry :=
  (pieces 16 (leAt b 10 2) (b.drop 64)).map fun e => ⟨leAt e 0 2, leAt e 2 2, leAt e 4 4, leAt e 8 4, leAt e 12 4⟩

/-- Bytes of an entry of a section type; 1 for a section of bytes. -/
def entryBytes (type : Nat) : Nat :=
  match type with
  | 1 => 4
  | 3 => 4
  | 4 => 8
  | 5 => 4
  | 6 => 4
  | 7 => 80
  | 8 => 16
  | 9 => 12
  | 11 => 4288
  | _ => 1

/-- The entries of the section of a type. -/
def imgEntries (b : List Byte) (dir : List DirEntry) (type : Nat) : List (List Byte) :=
  match dir.find? fun d => d.type == type with
  | none => []
  | some d => pieces (entryBytes type) (d.size / entryBytes type) ((b.drop d.off).take d.size)

/-- Bytes `k` to `k + n − 1` are zero. -/
def zeroAt (b : List Byte) (k n : Nat) : Bool := ((b.drop k).take n).all fun x => decide (x = 0)

/-- The header keeps R91. -/
def headerOk (b : List Byte) : Bool :=
  let h := leAt b 8 1
  let w := leAt b 9 1
  let size := leAt b 12 4
  decide (leAt b 0 4 = 0x49544441) && decide (leAt b 4 2 = 1) && decide (leAt b 6 2 < 2)
    && decide (1 ≤ h) && decide (h ≤ 8) && decide (1 ≤ w) && decide (w ≤ 8) && zeroAt b 20 44
    && decide (size = b.length) && decide (64 + 16 * leAt b 10 2 ≤ size)
    && decide (crc32 (listPut b 16 [0, 0, 0, 0]) = leAt b 16 4)

/-- A directory entry keeps R91 and R92 within an image of `size` bytes; a SIZE that is no whole number of entries is
refused too (DESIGN CHOICE, log 102). -/
def dirOk (size : Nat) (d : DirEntry) : Bool :=
  decide (1 ≤ d.type) && decide (d.type ≤ 11) && decide (d.off % 64 = 0) && decide (d.off + d.size ≤ size)
    && decide (d.size % entryBytes d.type = 0)
    && (if d.type = 1 then decide (d.aux % 4 = 0) && decide (d.size ≤ 2 ^ 18) else decide (d.index = 0) && decide (d.aux = 0))

/-- No value stands twice. -/
def distinct {α : Type} [BEq α] : List α → Bool
  | [] => true
  | a :: t => !t.contains a && distinct t

/-- The code sections keep R93's second check. -/
def codesOk (shared : Bool) (hw : Nat) (l : List DirEntry) : Bool :=
  if shared then l.map DirEntry.index == [0xFFFF]
  else l.all (fun d => decide (d.index < hw)) && distinct (l.map DirEntry.index)

/-! ### Sections -/

/-- Paths of a BALANCE group. -/
def balancePaths : Nat → List Nat → Option (List (List (Nat × Nat)) × List Nat)
  | 0, l => some ([], l)
  | _ + 1, [] => none
  | n + 1, k :: t =>
    if t.length < k ∨ (t.take k).any (fun w => decide (2 ^ 18 ≤ w)) then none
    else
      match balancePaths n (t.drop k) with
      | none => none
      | some r => some ((t.take k).map (fun w => (w % 4096, bits w 12 6)) :: r.1, r.2)

/-- Groups of a BALANCE section (R92); words that do not parse as groups refuse the image (DESIGN CHOICE, log 102). -/
def balanceGroups : Nat → List Nat → Option (List (List (List (Nat × Nat))))
  | 0, l => if l.isEmpty then some [] else none
  | n + 1, l =>
    match l with
    | [] => some []
    | g :: t =>
      match balancePaths (g / 2 ^ 16) t with
      | none => none
      | some r => (balanceGroups n r.2).map (r.1 :: ·)

/-- A TOKENS record (R92); the placer computes PAR. -/
def imgToken (e : List Byte) : Token :=
  let d := dataOf e
  ⟨BitVec.ofNat 2 (leAt e 66 1), BitVec.ofNat 3 (leAt e 67 1), BitVec.ofNat 16 (leAt e 64 2), d, parity d, false⟩

/-- A PLATE record (R92). -/
def imgPlate (e : List Byte) : PlateRec :=
  let sel := leAt e 0 4
  let blk (k : Nat) : Data × Desc := (dataOf (e.drop (192 + 64 * k)), BitVec.ofNat 16 (leAt e (64 + 2 * k) 2))
  ⟨bits sel 12 6, bits sel 6 6, sel % 64,
    (List.range 64).filterMap fun k => if blk k = (0, 0x7F00#16) then none else some (k, blk k)⟩

/-- The entries' reserved bits and codes are as R92 gives them. -/
def entriesOk (b : List Byte) (dir : List DirEntry) : Bool :=
  ((imgEntries b dir 4).all fun e => decide (leAt e 1 1 < 8) && zeroAt e 3 1)
    && ((imgEntries b dir 5).all fun e =>
      let v := leAt e 0 4
      let f := bits v 12 6
      decide (v < 2 ^ 19) && (decide (f = 30) || (decide (32 ≤ f) && decide (f ≤ 40) && decide (v < 2 ^ 18))))
    && ((imgEntries b dir 7).all fun e => decide (leAt e 66 1 < 4) && decide (leAt e 67 1 < 8) && zeroAt e 68 12)
    && ((imgEntries b dir 8).all fun e =>
      let ring := leAt e 8 4
      decide (leAt e 0 1 < 64) && decide (leAt e 1 1 < 2) && decide (1 ≤ leAt e 5 1) && decide (leAt e 5 1 ≤ 64)
        && zeroAt e 6 2 && zeroAt e 12 4 && (decide (ring = 0) || (decide (4096 ≤ ring) && isPow2 ring)))

/-- The last value that an image's CONFIG section writes to a field. -/
def lastField (ws : List Word32) (el f : Nat) : Nat :=
  match ws.reverse.find? fun w => cwKind w == 0 && cwElem w == el && cwField w == f with
  | some w => cwValue w
  | none => 0

/-- Elements and fields that field writes name. -/
def fieldKeys (ws : List Word32) : List (Nat × Nat) :=
  ((ws.filter fun w => cwKind w == 0).map fun w => (cwElem w, cwField w)).eraseDups

/-- The kerf marks set in CONFIG: ELEM, field, out1 (R93). -/
def kerfMarks (ws : List Word32) : List (Nat × Nat × Bool) :=
  (fieldKeys ws).flatMap fun z =>
    let v := lastField ws z.1 z.2
    if z.2 = 30 then
      (if v.testBit 0 then [(z.1, 30, false)] else []) ++ (if v.testBit 1 then [(z.1, 30, true)] else [])
    else if 32 ≤ z.2 ∧ z.2 ≤ 40 ∧ v.testBit 9 = true then [(z.1, z.2, false)] else []

/-- Two lists hold the same values. -/
def sameSet {α : Type} [BEq α] (a b : List α) : Bool := a.all b.contains && b.all a.contains

/-- Checks 3 to 7 of R93. A KERFS section that holds one entry twice does not equal the marks (DESIGN CHOICE, log 102). -/
def contentOk (i : Image) : Bool :=
  let marks := kerfMarks i.config
  let ends := (fieldKeys i.config).filterMap fun z =>
    let v := lastField i.config z.1 z.2
    if z.2 = 46 ∧ v.testBit 7 = true then some (z.1, v) else none
  sameSet marks i.kerfs && distinct i.kerfs
    && (i.config.all fun w => cwKind w != 1 ||
      match i.ports[cwValue w]? with
      | some z => decide (z.1 = cwElem w / 64) && decide (z.2.1 = cwField w)
      | none => false)
    && (i.config.all fun w => cwKind w != 2 || decide (cwValue w < i.tokens.length))
    && (ends.all fun z => i.links.any fun l => decide (l.num = z.2 % 64) && decide (l.out = z.2.testBit 6) && decide (l.elem = z.1))
    && (i.plate.all fun r => decide (r.tile ≤ 46) && decide (r.page < i.h * i.w))
    && distinct (i.plate.map fun r => (r.page, r.site, r.tile))

/-- The image that some bytes hold; `none` where a check of R93 fails. -/
def parseImage (b : List Byte) : Option Image :=
  if !headerOk b then none
  else
    let dir := imgDir b
    let h := leAt b 8 1
    let w := leAt b 9 1
    let code := dir.filter fun d => d.type == 1
    let plates := imgEntries b dir 11
    let others := (dir.filter fun d => d.type != 1).map DirEntry.type
    if !(dir.all (dirOk b.length) && distinct others && codesOk (leAt b 6 2 == 1) (h * w) code && entriesOk b dir
        && plates.all fun e => decide (leAt e 0 4 < 2 ^ 18) && zeroAt e 4 60) then none
    else
      let ws := imgEntries b dir 6
      match balanceGroups (ws.length + 1) (ws.map fun e => leAt e 0 4) with
      | none => none
      | some bal =>
        let dat := (dir.find? fun d => d.type == 2).getD ⟨2, 0, 0, 0, 0⟩
        let i : Image := ⟨h, w, b.length, code.map fun d => ⟨d.index, d.off, d.size, d.aux⟩,
          (imgEntries b dir 3).map fun e => BitVec.ofNat 32 (leAt e 0 4),
          (imgEntries b dir 4).map fun e => (leAt e 0 1, leAt e 1 1, BitVec.ofNat 8 (leAt e 2 1)),
          (imgEntries b dir 5).map fun e => (leAt e 0 4 % 4096, bits (leAt e 0 4) 12 6, (leAt e 0 4).testBit 18),
          bal, (imgEntries b dir 7).map imgToken,
          (imgEntries b dir 8).map fun e =>
            ⟨leAt e 0 1, leAt e 1 1 == 1, leAt e 2 2, leAt e 4 1, leAt e 5 1, leAt e 8 4⟩,
          (imgEntries b dir 9).map fun e => (leAt e 0 2, leAt e 2 2, leAt e 4 4, leAt e 8 4),
          plates.map imgPlate, dat.off, dat.size⟩
        if contentOk i then some i else none

/-- Reads and checks the image at a tensor-0 address (R93, R349, log 11). -/
def State.loadImage (s : State) (part addr : Nat) : Option Image :=
  match s.t0Read part addr 64 with
  | none => none
  | some h =>
    if leAt h 0 4 ≠ 0x49544441 then none
    else
      match s.t0Read part addr (leAt h 12 4) with
      | none => none
      | some b => parseImage b

/-! ### Shims (R258, R259) -/

/-- Depth of passing through an element: its latency and the tokens it takes before its first output (R258). -/
def Elem.passDepth (x : Elem) : Nat :=
  let lat := ((opRow x.opc).map OpRow.lat).getD 0
  lat + (match x.opc with
    | 0x49 => x.burst + 1
    | 0x4B => x.pack
    | 0xA2 => x.p 1 % 8
    | _ => 0)

/-- Rows of a mitre's block. -/
def Elem.mitreRows (x : Elem) : Nat := if bits (x.fld 44) 4 2 = 0 then 0 else 16 * 2 ^ (bits (x.fld 44) 4 2 - 1)

/-- Depth that a hop of a path adds, with what it passes through before the next hop: an element, a mitre, or STEER,
MERGE or CARRY at 1 fc (R245, R258). -/
def State.hopDepth (s : State) (t : Truss) (z : Nat × Nat) (next : Option (Nat × Nat)) : Nat :=
  match t.pages[z.1 / 64]? with
  | none => 0
  | some p =>
    let hop := 1 + (if crossesSeam p (z.1 % 64) z.2 then s.seamFc else 0)
    match next with
    | none => hop
    | some n =>
      match t.pages[n.1 / 64]? with
      | none => hop
      | some q =>
        let x := s.elem q (n.1 % 64)
        let src := x.src n.2
        if n.1 = z.1 ∧ 37 ≤ z.2 ∧ z.2 ≤ 40 ∧ (src = 6 ∨ src = 7) then hop + x.passDepth
        else if src = 12 then hop + x.mitreRows
        else if 8 ≤ src ∧ src ≤ 11 then hop + 1
        else hop

/-- A path passes through MLD, MST or MAMO, and its depth is memory's: shims do not balance it (R245, R258). -/
def State.memPath (s : State) (t : Truss) : List (Nat × Nat) → Bool
  | z :: n :: l =>
    let thru := match t.pages[n.1 / 64]? with
      | some q =>
        let x := s.elem q (n.1 % 64)
        let src := x.src n.2
        decide (n.1 = z.1) && decide (37 ≤ z.2) && decide (z.2 ≤ 40) && (decide (src = 6) || decide (src = 7))
          && decide (0xA8 ≤ x.opc) && decide (x.opc ≤ 0xAA)
      | none => false
    thru || s.memPath t (n :: l)
  | _ => false

/-- Depth of a path (R258). -/
def State.pathDepth (s : State) (t : Truss) : List (Nat × Nat) → Nat
  | [] => 0
  | z :: l => s.hopDepth t z l.head? + s.pathDepth t l

/-- Slots that hops take, from the last hop on, each up to 31 (R259). -/
def spreadSlots : Nat → List (Nat × Nat) → List ((Nat × Nat) × Nat)
  | _, [] => []
  | e, z :: l => (z, Nat.min e 31) :: spreadSlots (e - Nat.min e 31) l

/-- Slots that the balance groups add to hops (R259). -/
def State.shimWants (s : State) (t : Truss) (img : Image) : List ((Nat × Nat) × Nat) :=
  img.balance.flatMap fun g =>
    let g := g.filter fun path => !s.memPath t path
    let top := (g.map (s.pathDepth t)).foldl Nat.max 0
    g.flatMap fun path => spreadSlots (top - s.pathDepth t path) path.reverse

/-- Writes the SHIM of a hop, at least the image's floor and never below the tokens it holds minus 1 (R259, R386). -/
def Elem.setShim (x : Elem) (f want : Nat) : Elem :=
  let held := ((fget x.hops f).getD []).length - 1
  let v := Nat.min 31 (Nat.max held (Nat.max want (fgetD x.floors f 0)))
  let old := x.fld f
  if v = x.shim f then x else x.setFld f (BitVec.ofNat 12 (old % 16 + v * 16 + old / 512 * 512))

/-- The placer writes every SHIM of a truss (R259, R260). -/
def State.setShims (s : State) (t : Truss) (img : Image) : State :=
  let wants := s.shimWants t img
  (t.pages.zipIdx).foldl (fun s z =>
    let pg := s.page z.1
    let upd (e : Nat) (x : Elem) : Elem := (List.range 9).foldl (fun x k =>
      let key := (z.2 * 64 + e, 32 + k)
      x.setShim (32 + k) ((wants.filter fun w => w.1 == key).foldl (fun a w => Nat.max a w.2) 0)) x
    s.setPage z.1 { pg with elems := pg.elems.map fun (y : Nat × Elem) => (y.1, upd y.1 y.2) }) s

/-! ### Bring-up (R262) -/

/-- Tiles that the image preloads on a page: FULL, with the record's blocks (R17). -/
def imgTiles (img : Image) (ix : Nat) : FMap Tile :=
  (img.plate.filter fun r => r.page == ix).foldl (fun m r => fput m (r.site * 64 + r.tile) ⟨1, r.blocks⟩) []

/-- A page as its truss's fabric is brought up: everything at reset, with the preloaded tiles (R262). -/
def freshPage (img : Image) (tid ix : Nat) : Page :=
  { Page.reset with status := .used, truss := tid, ix := ix, tiles := imgTiles img ix }

/-- The placer writes the partition register of every router of a page (R12). -/
def Page.setPart (pg : Page) (part : Nat) : Page :=
  { pg with elems := (List.range 64).foldl (fun m e => fput m e ((pg.elem e).setFld 45 (BitVec.ofNat 12 part))) pg.elems }

/-- Every page of a truss is brought up from the image and its CONFIG section applied; answers the ELEM of a refused
word or of an element that breaks a joined condition (R262, R450). -/
def State.bringUp (s : State) (tid : Nat) (t : Truss) (img : Image) : Option Nat × State :=
  let s := (t.pages.zipIdx).foldl (fun s z => s.setPage z.1 (freshPage img tid z.2)) s
  let r := applyUnit .image img t img.config [] s
  let s := t.pages.foldl (fun s p => s.setPage p ((s.page p).setPart t.part)) r.2
  (r.1, s.setShims t img)

/-- Where a core starts (R103): in its page's code section or the shared one, else in the END-only section (log 10). -/
def startPc (img : Image) (base ix : Nat) : Word :=
  match img.codes.find? fun c => c.index == ix || c.index == 0xFFFF with
  | some c => BitVec.ofNat 64 (base + c.off + c.aux)
  | none => endOnlyPc

/-- The start state of a core (R103). -/
def startCore (l : Launch) (tix ix : Nat) : Core :=
  let c := { Core.reset with run := .running, pc := startPc l.img l.image ix }
  ((c.wr 1 l.args false).wr 2 (BitVec.ofNat 64 tix) false).wr 3 (BitVec.ofNat 64 l.ntruss) false

end Sys2Proof.Machine
end

