-- ==== Sys2Proof/Machine/Queues.lean ====
section
/-! DEFINITION. Queues: notifications, slots, scans, completion records and the queue-control operations
(R335 to R339, R344 to R347, R351 to R355, R361, R362). -/

namespace Sys2Proof.Machine

/-! ### Descriptors and items (R345, R348) -/

/-- RING. -/
def qRing (d : List Byte) : Nat := leAt d 0 8
/-- C = 2^LOGC. -/
def qCap (d : List Byte) : Nat := 2 ^ leAt d 8 1
/-- K = 2^LOGK. -/
def qRecs (d : List Byte) : Nat := 2 ^ leAt d 9 1
/-- NOPREEMPT. -/
def qNoPreempt (d : List Byte) : Bool := (leAt d 10 1).testBit 0
/-- IRQ. -/
def qIrq (d : List Byte) : Bool := (leAt d 10 1).testBit 1
/-- VEC. -/
def qVec (d : List Byte) : Nat := leAt d 11 1
/-- HEADW. -/
def qHeadw (d : List Byte) : Nat := leAt d 16 8
/-- CRING. -/
def qCring (d : List Byte) : Nat := leAt d 24 8
/-- CONSW. -/
def qConsw (d : List Byte) : Nat := leAt d 32 8
/-- SAVE. -/
def qSave (d : List Byte) : Nat := leAt d 40 8

/-- A queue descriptor keeps R345. -/
def qDescOk (d : List Byte) : Bool :=
  let lc := leAt d 8 1
  let lk := leAt d 9 1
  let al (a n : Nat) : Bool := decide (a % n = 0) && decide (a < 2 ^ 48)
  decide (1 ≤ lc) && decide (lc ≤ 16) && decide (1 ≤ lk) && decide (lk ≤ 16) && decide (leAt d 10 1 < 4)
    && decide (qVec d ≤ 31) && decide (leAt d 12 4 = 0) && decide (leAt d 48 16 = 0)
    && al (qRing d) 64 && al (qHeadw d) 8 && al (qCring d) 32 && al (qConsw d) 8 && al (qSave d) 64

/-- CMD of a packet. -/
def iCmd (b : List Byte) : Nat := leAt b 8 1
/-- FLOW. -/
def iFlow (b : List Byte) : Bool := (leAt b 9 1).testBit 0
/-- CONTINUE. -/
def iContinue (b : List Byte) : Bool := (leAt b 9 1).testBit 1
/-- PRIORITY. -/
def iPrio (b : List Byte) : Nat := bits (leAt b 9 1) 2 2
/-- TAG. -/
def iTag (b : List Byte) : Nat := leAt b 16 8
/-- Identifier: TAG[59:0]. -/
def iIdent (b : List Byte) : Nat := iTag b % 2 ^ 60

/-- The counter block that a LAUNCH or GRAPH packet names, or 0 (R353). -/
def iCtr (b : List Byte) : Nat :=
  let a := if iCmd b = 1 then leAt b 48 8 else if iCmd b = 2 then leAt b 32 8 else 0
  if a % 64 = 0 ∧ a < 2 ^ 48 then a else 0

/-- The key of a queue. -/
def qKey (vf q : Nat) : Nat := vf * 64 + q

/-- Changes a queue. -/
def State.modQueue (s : State) (k : Nat) (f : Queue → Queue) : State := { s with queues := fmod s.queues k f }

/-- The partition of a queue's function; 0x3F when it has none. -/
def State.queuePart (s : State) (k : Nat) : Nat := ((s.vf (k / 64)).part).getD 0x3F

/-! ### Completion records (R339, R353, R361) -/

/-- A counter block as its item reports: STATUS, CODE and DETAIL, then DONE (R353). -/
def State.reportCtr (s : State) (part ctr status code : Nat) (detail : Word) : State :=
  if ctr = 0 then s
  else
    let s := (s.t0Put part (ctr + 16) 1 status).t0Put part (ctr + 17) 1 code
    (s.t0Put part (ctr + 24) 8 detail.toNat).t0Put part (ctr + 8) 8 1

/-- The consumer has read enough records for item `n` (R346). -/
def State.recordRoom (s : State) (k : Nat) (x : Queue) (n : Nat) : Bool :=
  match s.t0Nat (s.queuePart k) (qConsw x.bytes) 8 with
  | some c => decide (n + 1 ≤ c + qRecs x.bytes)
  | none => false

/-- Writes the records of the items at the head of a queue that have completed, in queue order (R339, R346, R361). -/
def State.writeRecords (k : Nat) : Nat → State → State
  | 0, s => s
  | n + 1, s =>
    match fget s.queues k with
    | none => s
    | some x =>
      match x.items with
      | [] => s
      | i :: rest =>
        if i.state ≠ .done ∨ !s.recordRoom k x i.n then s
        else
          let word := i.status + (if i.status = 1 then i.code * 256 else 0)
          let rec32 := toBytes 8 (i.n + 1) ++ toBytes 8 word ++ toBytes 8 (iTag i.bytes) ++ toBytes 8 0
          let s := (s.t0Write (s.queuePart k) (qCring x.bytes + 32 * (i.n % qRecs x.bytes)) rec32).getD s
          let s := s.modQueue k fun x => { x with items := rest, recs := x.recs + 1 }
          let s := if qIrq x.bytes then s.raiseVf (k / 64) (qVec x.bytes % 32) else s
          State.writeRecords k n s

/-- Writes every record that is due. -/
def State.flushRecords (s : State) (k : Nat) : State :=
  State.writeRecords k (((fget s.queues k).map fun x => x.items.length).getD 0) s

/-- Replaces an item of a queue. -/
def Queue.modItem (x : Queue) (n : Nat) (f : Item → Item) : Queue :=
  { x with items := x.items.map fun i => if i.n = n then f i else i }

/-- An item completes: its counter block reports, and a queue whose item did not complete OK is stopped unless it has
CONTINUE (R352, R353). -/
def State.doneItem (s : State) (k n status code : Nat) (detail : Word) : State :=
  match (fget s.queues k).bind fun x => x.items.find? fun i => i.n == n with
  | none => s
  | some i =>
    let s := s.reportCtr (s.queuePart k) (iCtr i.bytes) status code detail
    s.modQueue k fun x =>
      let x := x.modItem n fun i => { i with state := .done, status := status, code := code, detail := detail }
      { x with stopped := x.stopped || (decide (status ≠ 0) && !iContinue i.bytes) }

/-- Items not yet begun of a stopped queue complete FAILED(DEP), and those that a cancel has marked CANCELLED, in order
(R24, R352). -/
def State.settleItems (k : Nat) : List Item → State → State
  | [], s => s
  | i :: t, s =>
    let stopped := ((fget s.queues k).map Queue.stopped).getD false
    let s := if i.state ≠ .held then s
      else if stopped then s.doneItem k i.n 1 0x07 0
      else if i.cancel then s.doneItem k i.n 2 0 0
      else s
    State.settleItems k t s

/-- The items of a queue. -/
def State.itemsOf (s : State) (k : Nat) : List Item := ((fget s.queues k).map Queue.items).getD []

/-- Settles a queue after an item has completed or been taken, and writes its records: twice over its items, for a cancelled
one may stop the queue for those before it. -/
def State.settle (s : State) (k : Nat) : State :=
  let s := State.settleItems k (s.itemsOf k) s
  (State.settleItems k (s.itemsOf k) s).flushRecords k

/-- An item completes, and its queue is settled. -/
def State.finishItem (s : State) (k n status code : Nat) (detail : Word) : State :=
  (s.doneItem k n status code detail).settle k

/-! ### Slots (R354, R355) -/

/-- Hardware slots. -/
def slotCount : Nat := 1024

/-- Queues that hold a slot. -/
def State.slotsUsed (s : State) : Nat := (s.queues.filter fun z => z.2.slot).length

/-- The pre-emptible queue with a slot that has gone longest without beginning an item. -/
def State.evictable (s : State) : Option Nat :=
  ((s.queues.filter fun z => z.2.slot && !qNoPreempt z.2.bytes).foldl (fun (b : Option (Nat × Queue)) z =>
    match b with
    | none => some z
    | some y => if z.2.lastBegin < y.2.lastBegin then some z else some y) none).map Prod.fst

/-- Writes a queue's state to its SAVE area of 64·C + 64 bytes: a block for its counts and one for each item held, as many as
the area takes, in a layout the spec does not give (log 14). -/
def State.saveQueue (s : State) (k : Nat) (x : Queue) : State :=
  (List.range (1 + Nat.min (qCap x.bytes) (x.items.filter fun i => decide (i.state = .held)).length)).foldl (fun s n =>
    match s.t0 (s.queuePart k) (qSave x.bytes + 64 * n) with
    | some p => s.spillBlock p
    | none => s) s

/-- A queue loses its slot. -/
def State.evict (s : State) (k : Nat) : State :=
  match fget s.queues k with
  | none => s
  | some x => (s.saveQueue k x).modQueue k fun x => { x with slot := false }

/-- Sets or clears a queue's bit in its function's pending bitmap. -/
def State.pendBit (s : State) (k : Nat) (b : Bool) : State :=
  let base := (s.vf (k / 64)).pendbase.toNat
  let part := s.queuePart k
  match s.t0Nat part base 8 with
  | some v => s.t0Put part base 8 (setBitTo (BitVec.ofNat 64 v) (k % 64) b).toNat
  | none => s

/-- A notification is kept for want of a slot: the largest tail is held (R355). -/
def State.keepNote (s : State) (k : Nat) (v : Word) : State :=
  let s := s.pendBit k true
  let x := s.vf (k / 64)
  let q := k % 64
  let pend := if x.pend.any fun z => z.1 == q then
      x.pend.map fun z => if z.1 == q then (q, if z.2.toNat < v.toNat then v else z.2) else z
    else x.pend ++ [(q, v)]
  let n := s.fresh
  ({ s with fresh := n + 1 }.setVf (k / 64) { x with pend := pend }).modQueue k fun y =>
    if y.starve.isSome then y else { y with starve := some (s.now, false), arrival := n }

/-- A queue takes a slot: a free one, else that of the queue to evict; `none` when every slot holds a NOPREEMPT
queue. -/
def State.takeSlot (s : State) (k : Nat) : Option State :=
  let map_ (s : State) : State := s.modQueue k fun x => { x with slot := true, starve := none }
  if s.slotsUsed < slotCount then some (map_ s)
  else s.evictable.map fun e => map_ (s.evict e)

/-- Applies the notifications kept for queues, in order of first arrival, while slots are free (R355). -/
def State.mapPending : Nat → State → State
  | 0, s => s
  | n + 1, s =>
    if slotCount ≤ s.slotsUsed then s
    else
      let w := (s.queues.filter fun z => z.2.starve.isSome && !z.2.slot).foldl (fun (b : Option (Nat × Queue)) z =>
        match b with
        | none => some z
        | some y => if z.2.arrival < y.2.arrival then some z else some y) none
      match w with
      | none => s
      | some (k, _) =>
        match s.takeSlot k with
        | none => s
        | some s =>
          let x := s.vf (k / 64)
          let v := ((x.pend.find? fun z => z.1 == k % 64).map Prod.snd).getD 0
          let s := s.setVf (k / 64) { x with pend := x.pend.filter fun z => z.1 != k % 64 }
          State.mapPending n ((s.pendBit k false).modQueue k fun y => { y with notes := y.notes ++ [v] })

/-! ### Notifications and scans (R335, R336, R344) -/

/-- notify(v) for queue `q` of a function: it waits for its scan; for a queue that does not exist it is counted
(R344, R354). -/
def State.notify (s : State) (vf q : Nat) (v : Word) : State :=
  let k := qKey vf q
  match fget s.queues k with
  | none =>
    let x := s.vf vf
    s.setVf vf { x with badnote := x.badnote + 1 }
  | some x =>
    if x.slot then s.modQueue k fun x => { x with notes := x.notes ++ [v] }
    else
      match s.takeSlot k with
      | some s => s.modQueue k fun x => { x with notes := x.notes ++ [v] }
      | none => s.keepNote k v

/-- NOTIFY_PAGE_WRITE: an 8-byte write of `v` at the page's offset 8·q; beyond q = 63 it is ignored. A function with no
partition has no queue, and counts it (R344). -/
def execNotifyPageWrite (vf q : Nat) (v : BitVec 64) (s : State) : Res :=
  if 64 ≤ q ∨ !s.start.ready then .next s else .next (s.notify vf q v)

/-- The bytes of a slot as its item holds them: of a POISON block only the publication word, for the packet is not read whole
(R339; log 11). -/
def State.packetRead (s : State) (part a : Nat) (b : List Byte) : List Byte :=
  match s.t0 part a with
  | some p => if descPoisoned (s.mem.block p.blk).2 then b.take 8 ++ List.replicate 56 0 else b
  | none => b

/-- Takes published items from a ring; answers the items and HEAD (R336). -/
def State.takeItems (s : State) (part : Nat) (d : List Byte) (tail : Word) : Nat → Word → List Item × Word
  | 0, head => ([], head)
  | n + 1, head =>
    if tail.toNat ≤ head.toNat then ([], head)
    else
      let a := qRing d + 64 * (head.toNat % qCap d)
      match s.t0Read part a 64 with
      | none => ([], head)
      | some b =>
        if leAt b 0 8 ≠ (head + 1).toNat then ([], head)
        else
          let i : Item := ⟨head.toNat, s.packetRead part a b, .held, 0, 0, false, 0, 0, 0⟩
          let r := s.takeItems part d tail n (head + 1)
          (i :: r.1, r.2)

/-- SCAN: the oldest notification is applied and followed by its scan (R336). -/
def execScan (vf q : Nat) (s : State) : Res :=
  let k := qKey vf q
  match fget s.queues k with
  | none => .next s
  | some x =>
    match x.notes with
    | [] => .next s
    | v :: notes =>
      let up := decide (x.tail.toNat < v.toNat)
      let x := { x with notes := notes, tail := if up then v else x.tail, stale := if up then x.stale else x.stale + 1 }
      let part := s.queuePart k
      let r := s.takeItems part x.bytes x.tail (qCap x.bytes + 1) x.head
      let x := { x with items := x.items ++ r.1, head := r.2 }
      let s := { s with queues := fput s.queues k x }
      let s := r.1.foldl (fun s i =>
        match s.t0 part (qRing x.bytes + 64 * (i.n % qCap x.bytes)) with
        | some p => s.meterBlock part false 64 p
        | none => s) s
      let s := if r.1.isEmpty then s else s.t0Put part (qHeadw x.bytes) 8 r.2.toNat
      .next (s.settle k)

/-- 1 ms in cc. -/
def oneMs : Nat := 1600000

/-- QSTARVE: a queue that has waited 1 ms for a slot sends one event (R355, R362). -/
def execQstarve (vf q : Nat) (s : State) : Res :=
  let k := qKey vf q
  match (fget s.queues k).bind Queue.starve with
  | some (t, false) =>
    if s.now < t + oneMs then .next s
    else
      let r := s.sendEvent vf ⟨3, BitVec.ofNat 64 q, 0⟩
      if r.1 then .next (r.2.modQueue k fun x => { x with starve := some (t, true) }) else .next s
  | _ => .next s

/-! ### Queue control (R347) -/

/-- QSTAT after an operation on a queue. -/
def State.qResult (s : State) (vf q result : Nat) : State :=
  s.setVf vf { s.vf vf with qstat := BitVec.ofNat 32 (q % 64 * 256 + result * 16) }

/-- QUEUE_CREATE (R345, R347); of a function with no partition no descriptor can be read. -/
def execQueueCreate (vf q : Nat) (s : State) : Res :=
  let x := s.vf vf
  let q := q % 64
  let k := qKey vf q
  if !s.start.ready then .next s
  else if (fget s.queues k).isSome then .next (s.qResult vf q 3)
  else
    match x.part.bind fun p => s.t0Read p x.qdesc.toNat 64 with
    | none => .next (s.qResult vf q 2)
    | some d =>
      if !qDescOk d then .next (s.qResult vf q 2)
      else
        let y : Queue := ⟨d, 0, 0, 0, [], 0, false, false, s.now, none, [], none, 0⟩
        .next ({ s with queues := fput s.queues k y }.qResult vf q 0)

/-- QUEUE_DESTROY (R347): its slot is free for the queues that wait. -/
def execQueueDestroy (vf q : Nat) (s : State) : Res :=
  let q := q % 64
  let k := qKey vf q
  if !s.start.ready then .next s
  else
  match fget s.queues k with
  | none => .next (s.qResult vf q 1)
  | some x =>
    if !x.items.isEmpty then .next (s.qResult vf q 3)
    else
      let s := if x.starve.isSome then s.pendBit k false else s
      let s := { s with queues := fdel s.queues k }
      let y := s.vf vf
      let s := s.setVf vf { y with pend := y.pend.filter fun z => z.1 != q }
      .next ((State.mapPending 64 s).qResult vf q 0)

/-- QUEUE_RESUME (R347): clears the stop of R352. -/
def execQueueResume (vf q : Nat) (s : State) : Res :=
  let q := q % 64
  let k := qKey vf q
  if !s.start.ready then .next s
  else
  match fget s.queues k with
  | none => .next (s.qResult vf q 1)
  | some _ => .next ((s.modQueue k fun x => { x with stopped := false }).qResult vf q 0)

end Sys2Proof.Machine
end

