-- ==== Sys2Proof/Machine/Jobs.lean ====
section
/-! DEFINITION. Jobs: their marks and statuses, who takes part, how a participant arrives at a phase, and what the phase
waits for (R23, R24, R331, R358, R359). -/

namespace Sys2Proof.Machine

/-- A field of a job block. -/
def State.jobWord (s : State) (part job k : Nat) : Nat := (s.t0Nat part (job + k) 8).getD 0

/-- What the device keeps of a job. -/
def State.jobOf (s : State) (part b : Nat) : Option Job := s.jobs.find? fun j => j.part == part && j.block == b

/-- Changes what is kept of a job. -/
def State.modJob (s : State) (part b : Nat) (f : Job → Job) : State :=
  { s with jobs := s.jobs.map fun j => if j.part = part ∧ j.block = b then f j else j }

/-- A job whose cancel mark is set: items below it that have not begun complete CANCELLED (R24). -/
def State.jobCancelled (s : State) (part b : Nat) : Bool := (s.jobOf part b).any Job.cancel

/-- The first naming of a job sets its phases outstanding, and it begins unmarked (R23, R358). -/
def State.openJob (s : State) (part b : Nat) : State :=
  if b = 0 then s
  else
    let new : Job := ⟨part, b, false, none, false, none, []⟩
    match s.t0Nat part (b + 32) 8, s.t0Nat part (b + 40) 8, s.t0Nat part b 8 with
    | some 0, some 0, some n =>
      { s with jobs := new :: s.jobs.filter fun j => !(j.part == part && j.block == b) }.t0Put part (b + 32) 8 n
    | _, _, _ => if (s.jobOf part b).isSome then s else { s with jobs := new :: s.jobs }

/-- The writes that the agents of some launches have made and that are not acknowledged, one not yet sent by the number it
will take (R23, R331). -/
def State.sendsOf (s : State) (ids : List Nat) : List (AgentId × Nat × BitVec 16) :=
  let mine (a : AgentId) : Bool := ((s.trussOfAgent a).bind (fget s.trusses)).any fun x => ids.contains x.launch
  (s.reqs.filter fun z => mine z.1).flatMap fun z =>
    (z.2.kept.map fun k => (z.1, k.home, k.seq)) ++ ((z.2.unsent.zipIdx).map fun k =>
      let h := k.1.dst.bay
      let before := ((z.2.unsent.take k.2).filter fun y => decide (y.dst.bay = h)).length
      (z.1, h, fgetD z.2.seqs h 0 + BitVec.ofNat 16 before))

/-- A write that an arrival waits for is still not acknowledged; an abandoned one is waited for no more. -/
def State.sendPending (s : State) (z : AgentId × Nat × BitVec 16) : Bool :=
  let r := s.req z.1
  let ahead := z.2.2 - fgetD r.seqs z.2.1 0
  (r.kept.any fun k => decide (k.home = z.2.1) && decide (k.seq = z.2.2)) || (!r.unsent.isEmpty && decide (ahead.toNat < 2 ^ 15))

/-- A participant arrives at the current phase, which then waits for what its launches have sent; `none` where the phases
are over or NPART have arrived. -/
def State.arrive1 (s : State) (part job : Nat) (ids : List Nat) : Option State :=
  if s.jobWord part job 32 = 0 ∨ s.jobWord part job 8 ≤ s.jobWord part job 24 then none
  else
    let sends := s.sendsOf ids
    some ((s.t0Put part (job + 24) 8 (s.jobWord part job 24 + 1)).modJob part job fun j => { j with sends := j.sends ++ sends })

/-- Launches that make one participant: the launch, or every launch of its graph that names the job (R359). -/
def State.participant (s : State) (id : Nat) (l : Launch) : List (Nat × Launch) :=
  match l.graph with
  | none => [(id, l)]
  | some (g, _) => s.launches.filter fun z => (z.2.graph.map Prod.fst == some g) && z.2.job == l.job

/-- Trusses of a launch by identifier. -/
def State.trussesOf (s : State) (id : Nat) : List (Nat × Truss) := s.trusses.filter fun z => z.2.launch == id

/-- A launch's participant has arrived at the current phase (R359). -/
def State.hasArrived (s : State) (l : Launch) : Bool :=
  match l.graph with
  | none => l.counted
  | some (g, _) => ((fget s.graphs g).map fun x => x.counted.contains l.job).getD false

/-- A launch's participant arrives: a graph once, whichever of its nodes begin after that. -/
def State.noteArrived (s : State) (id : Nat) (l : Launch) : State :=
  match l.graph with
  | none => { s with launches := fmod s.launches id fun l => { l with counted := true } }
  | some (g, _) => { s with graphs := fmod s.graphs g fun x => { x with counted := l.job :: x.counted } }

/-- A job or its current phase has been cancelled: its participants arrive no more (R24). -/
def State.phaseOff (s : State) (part b : Nat) : Bool := (s.jobOf part b).any fun j => j.cancel || j.phaseCancel

/-- A launch or graph arrives when each of its live trusses has executed the PHASE (R359); one that may not fails
FAILED(MALFORMED). -/
def State.tryArrive (s : State) (id : Nat) : State :=
  match fget s.launches id with
  | none => s
  | some l =>
    if l.job = 0 || s.hasArrived l || s.phaseOff l.part l.job then s
    else
      let mine := s.participant id l
      let waits := mine.any fun z => (s.trussesOf z.1).any fun t => !z.2.arrived.contains t.1
      if waits then s
      else
        match s.arrive1 l.part l.job (mine.map Prod.fst) with
        | some s => s.noteArrived id l
        | none =>
          -- DETAIL names the truss that arrived last.
          let ix := ((l.arrived.getLast?).bind (fget s.trusses)).map Truss.ix
          mine.foldl (fun s z => (s.failLaunch z.1 0x01 (detailOf 0 0 (ix.getD 0))).stopLaunch z.1) s

/-- Some node of a graph that names a job, other than node `m`, has not reported. -/
def Graph.jobLeft (g : Graph) (m job : Nat) : Bool :=
  (g.nodes.zipIdx).any fun z => z.2 != m && decide (z.1.2.2.2.1 < 2) && leAt z.1.1 56 8 == job

/-- A launch goes: if it is the last of its participant, the participant arrives by its end where it has not arrived and
a phase is left; else the rest of the participant may now have arrived. Answers whether it arrived beyond NPART, which
fails it (R359). -/
def State.leaveJob (s : State) (id : Nat) (l : Launch) : Bool × State :=
  if l.job = 0 then (false, s)
  else
    match (s.participant id l).filter fun z => z.1 != id with
    | (other, _) :: _ => (false, s.tryArrive other)
    | [] =>
      let left : Bool := match l.graph with
        | none => false
        | some (g, m) => ((fget s.graphs g).map fun x => x.jobLeft m l.job).getD false
      if left || s.hasArrived l || s.phaseOff l.part l.job then (false, s)
      else
        match s.arrive1 l.part l.job [id] with
        | some s => (false, s.noteArrived id l)
        | none => (decide (s.jobWord l.part l.job 32 ≠ 0), s)

/-! ### The end of phases (R23, R24, R359) -/

/-- The participants of a job's phase `n` leave it: cores that wait in it go on, and PHASE commands complete with a status. -/
def State.leavePhase (s : State) (pid job n status : Nat) : State :=
  let mine := (s.launches.filter fun z => z.2.part == pid && z.2.job == job).map Prod.fst
  let graph (g : Graph) : Graph := if g.part = pid then { g with counted := g.counted.filter fun b => b != job } else g
  let s := { s with graphs := s.graphs.map fun (z : Nat × Graph) => (z.1, graph z.2) }
  let s := mine.foldl (fun s id =>
    let s := { s with launches := fmod s.launches id fun l => { l with arrived := [], counted := false } }
    (s.trussesOf id).foldl (fun s z =>
      let s := { s with trusses := fmod s.trusses z.1 fun t => { t with phaseAt := [] } }
      (s.heldPages z.1 z.2).foldl (fun s p => s.modCore p fun c =>
        if c.wait = some (.phase n) then c.resume 2 else c) s) s) s
  let done := s.queues.flatMap fun z =>
    if s.queuePart z.1 = pid then
      (z.2.items.filter fun i => decide (i.state = .begun) && decide (iCmd i.bytes = 5) && decide (leAt i.bytes 24 8 = job)).map
        fun i => (z.1, i.n)
    else []
  done.foldl (fun s z => s.finishItem z.1 z.2 status 0 0) s

/-- `k` phases of a job end, the current one and those after it: the block is updated in its order, and the participants
leave. With its last phase the job ends, with status OK or, where it is marked, CANCELLED (R23, R24, R359). -/
def State.endPhases (s : State) (pid job k : Nat) : State :=
  let n := s.jobWord pid job 16
  let off := s.phaseOff pid job
  let s := s.t0Put pid (job + 16) 8 (n + k)
  let s := s.t0Put pid (job + 24) 8 0
  let s := s.t0Put pid (job + 40) 8 (s.jobWord pid job 40 + k)
  let s := s.t0Put pid (job + 32) 8 (s.jobWord pid job 32 - k)
  let last := decide (s.jobWord pid job 32 = 0)
  let s := s.modJob pid job fun j => { j with
    sends := [], phaseCancel := false, phaseStatus := some (if off then 2 else 0),
    status := if last then some (if j.cancel then 2 else 0) else j.status }
  s.leavePhase pid job n (if off then 2 else 0)

/-- Something below a job is under way: a launch that names it, or a node of a graph that has not reported. -/
def State.jobLive (s : State) (pid job : Nat) : Bool :=
  (s.launches.any fun z => z.2.part == pid && z.2.job == job)
    || s.graphs.any fun z => z.2.part == pid && z.2.nodes.any fun y => decide (y.2.2.2.1 < 2) && leAt y.1 56 8 == job

/-- What a cancel leaves of a job ends once nothing below it is under way and its sends are acknowledged: of a cancelled job
every phase, so that the job reports; of a cancelled phase that phase (R23, R24). -/
def State.settleJob (s : State) (pid job : Nat) : State :=
  match s.jobOf pid job with
  | none => s
  | some j =>
    if j.status.isSome || !(j.cancel || j.phaseCancel) || s.jobLive pid job || j.sends.any s.sendPending
        || decide (s.jobWord pid job 32 = 0) then s
    else s.endPhases pid job (if j.cancel then s.jobWord pid job 32 else 1)

end Sys2Proof.Machine
end

