-- ==== Sys2Proof/Machine/Teardown.lean ====
section
/-! DEFINITION. Tearing down trusses and completing launches and graph nodes (R23, R24, R299, R328, R349 to R353,
R380, R406, R418, R427, R436, R442). -/

namespace Sys2Proof.Machine

/-! ### Agents of a truss -/

/-- Agents leave the page requests and the queue for view panels; a request with no agent left is retired (R406). -/
def State.retire (s : State) (part : Nat) (f : AgentId → Bool) : State :=
  s.modPart part fun p =>
    let left := p.starved.filter fun z => !f z.1
    -- A view that no agent waits for any more may report its exhaustion again (R445).
    let view (z : Nat × View) : Nat × View :=
      (z.1, { z.2 with exhausted := z.2.exhausted && left.any fun y => y.2.1 == z.1 })
    { p with
      reqs := (p.reqs.map fun r => { r with agents := r.agents.filter fun z => !f z.1 }).filter fun r => !r.agents.isEmpty,
      starved := left, views := p.views.map view }

/-- A command's engine no longer knows it: its references end, its ticket reads CANCELLED, its contribution goes, and
if it was running its requests are abandoned (R155, R299, R360, R418). -/
def State.cancelCmd (s : State) (g : Nat) (c : EngCmd) (running : Bool) : State :=
  let s := if running then (s.tearRequester (engAgent g)).retire c.part fun a => a == engAgent g else s
  let s := if c.bytes.isEmpty then s else s.refCmd c.op c.bytes c.part false
  let s := { s with groups := s.groups.filter fun z =>
    !(z.eng == g && z.part == c.part && z.page == c.page && z.ticket == c.ticket) }
  match c.ticket with
  | some n => s.modCore c.page fun x => x.setTicket n 4
  | none => s

/-- Cancels the commands of an engine that a test selects. -/
def State.cancelOn (s : State) (f : EngCmd → Bool) (g : Nat) : State :=
  let e := fgetD s.engines g Engine.reset
  let s := (e.cmds.zipIdx).foldl (fun s z => if f z.1 then s.cancelCmd g z.1 (decide (z.2 = 0)) else s) s
  { s with engines := fmod s.engines g fun e => { e with cmds := e.cmds.filter fun c => !f c } }

/-- Cancels every engine command that a test selects. -/
def State.cancelCmds (s : State) (f : EngCmd → Bool) : State :=
  (s.engines.map Prod.fst).foldl (fun s g => s.cancelOn f g) s

/-- Slots that a page's streams and element firings refer to (R299). -/
def Page.refs (pg : Page) : List Nat :=
  let st (x : Option Stream) : List Nat := match x with
    | some y => [y.slot]
    | none => []
  (pg.ports.toList.flatMap fun y => st y.act ++ st y.pend) ++ pg.elems.flatMap fun z =>
    z.2.mem.map MemFiring.slot ++ (if z.2.memRef = 0 then [] else [z.2.memRef - 1])

/-- The requesters of a page are torn down (R328), its page requests retired and its references dropped. -/
def State.dropAgents (s : State) (p : Nat) : State :=
  let part := ((s.trussOf p).map Truss.part).getD 0x3F
  let mine (a : AgentId) : Bool := (agentPage a).map Prod.fst == some p
  let s := ((s.reqs.map Prod.fst).filter mine).foldl State.tearRequester s
  let s := s.retire part mine
  (s.page p).refs.foldl (fun s k => s.unrefSlot part k) s

/-- What a page keeps while it is scrubbed: its partition register (R380). -/
def Page.scrubbing (pg : Page) (now : Nat) : Page :=
  { Page.reset with status := .scrubbing now,
                    elems := pg.elems.map fun (z : Nat × Elem) => (z.1, Elem.reset.setFld 45 (BitVec.ofNat 12 (z.2.fld 45))) }

/-- A page is being scrubbed. -/
def Page.isScrubbing (pg : Page) : Bool := match pg.status with
  | .scrubbing _ => true
  | _ => false

/-- A page is released: it is scrubbed before it is used again (R380). -/
def State.releasePage (s : State) (p : Nat) : State :=
  let s := s.dropAgents p
  s.setPage p ((s.page p).scrubbing s.now)

/-- The fork and the rival that a truss belongs to, with the rival's index. -/
def State.rivalOf (s : State) (t : Nat) : Option (Nat × Fork × Nat × Rival) :=
  match (fget s.trusses t).bind Truss.fork with
  | none => none
  | some f =>
    match fget s.forks f with
    | none => none
    | some k => ((k.rivals.zipIdx).find? fun z => z.1.trusses.contains t).map fun z => (f, k, z.2, z.1)

/-- The rival of a truss has yielded, or is to once its cores have stopped: they stay at their kerfs until it is committed
(R170). -/
def State.yielded (s : State) (t : Nat) : Bool :=
  match s.rivalOf t with
  | some (_, _, _, r) => r.score.isSome || r.yielding.isSome
  | none => false

/-- Every rival of a fork has a score or has lost: it is being judged (R433, R442). -/
def Fork.judged (k : Fork) : Bool := !k.rivals.isEmpty && k.rivals.all fun r => r.score.isSome || r.lost

/-- A truss whose move is over: its request stays pending when it is being stopped or its rival has yielded (R24, R170). -/
def State.afterMove (s : State) (t : Nat) (x : Truss) : Truss :=
  { x with request := decide (x.state = .stopping) || s.yielded t }

/-- A core that waits at KERF for a move that is over goes on, unless it is to stay there. -/
def Core.offKerf (c : Core) (stay : Bool) : Core :=
  match c.wait with
  | some .kerf => if stay then c else c.resume 1
  | _ => c

/-- A move of a truss that has not reached COPY ends with nothing copied: MOVEABORT counts (R388). -/
def State.dropMove (s : State) : State :=
  match s.move with
  | none => s
  | some m =>
    match fget s.trusses m.truss with
    | none => { s with move := none }
    | some x =>
      let s := (s.heldPages m.truss x).foldl (fun s p =>
        let pg := s.page p
        s.setPage p { pg with core := pg.core.offKerf (s.yielded m.truss), elems := pg.elems.map fun z => (z.1, { z.2 with closed := false }) }) s
      let s := { s with move := none, trusses := fput s.trusses m.truss { s.afterMove m.truss x with aborted := some s.now } }
      s.modPart x.part fun p => { p with moveabort := p.moveabort + 1 }

/-- A truss is torn down at once: its commands are cancelled, its pages released (R427). -/
def State.tearTruss (s : State) (t : Nat) : State :=
  match fget s.trusses t with
  | none => s
  | some x =>
    let s := if (s.move.map Move.truss) = some t then s.dropMove else s
    let s := s.cancelCmds fun c => c.truss == t
    let s := (s.heldPages t x).foldl State.releasePage s
    { s with trusses := fdel s.trusses t }

/-! ### Views (R436) -/

/-- A view's private panels return to the pool, and its translations are dropped; its tag stays taken until the pages
are scrubbed. -/
def State.dropView (s : State) (part view : Nat) (pages : List Nat) : State :=
  match fget (s.part part).views view with
  | none => s
  | some v =>
    let panels := v.overlay.map (fun o => o.2.2) ++ v.copying.map fun o => o.2.2.1
    let s := { s with bays := s.bays.map fun (z : Nat × Bay) =>
      (z.1, { z.2 with tlb := z.2.tlb.filter fun e => !(e.part == part && e.view == view) }) }
    let s := s.modPart part fun p => { p with
      starved := p.starved.filter fun z => z.2.1 != view,
      views := if pages.isEmpty then fdel p.views view
               else fput p.views view { v with overlay := [], copying := [], lost := some pages } }
    s.givePanels part panels

/-- Every slot that a view's overlay names loses the view's reference (R433). -/
def State.unrefView (s : State) (part view : Nat) : State :=
  match fget (s.part part).views view with
  | none => s
  | some v => (v.overlay.map Prod.fst).foldl (fun s k => s.unrefSlot part k) s

/-- A rival's trusses are torn down and its view given up (R433, R442). -/
def State.tearRival (s : State) (part : Nat) (r : Rival) : State :=
  let pages := r.trusses.flatMap fun t => ((fget s.trusses t).map fun x => s.heldPages t x).getD []
  let s := r.trusses.foldl State.tearTruss s
  (s.unrefView part r.view).dropView part r.view pages

/-- A view tag is given up, unless it waits for its pages to be scrubbed (R436). -/
def State.freeTag (s : State) (part v : Nat) : State :=
  match fget (s.part part).views v with
  | none => s
  | some x => if x.lost.isSome then s else (s.unrefView part v).dropView part v []

/-! ### Launches -/

/-- OUTST of a counter block (R353). -/
def State.putOutst (s : State) (part ctr n : Nat) : State := if ctr = 0 then s else s.t0Put part ctr 8 n

/-- Status, code and DETAIL of a launch that completes (R24, R349, R405, R426). -/
def Launch.outcome (l : Launch) : Nat × Nat × Word :=
  if l.cancel then (2, 0, 0)
  else if l.reset then (3, 0, 0)
  else
    match l.failure with
    | some f => (1, f.1, f.2)
    | none => (0, 0, 0)

/-- States of a graph's nodes. -/
def Graph.states (g : Graph) : List Nat := g.nodes.map fun z => z.2.2.2.1

/-- Replaces the state of a node. -/
def Graph.setNode (g : Graph) (m st launch : Nat) : Graph :=
  { g with nodes := (g.nodes.zipIdx).map fun z => if z.2 = m then (z.1.1, z.1.2.1, z.1.2.2.1, st, launch) else z.1 }

/-- Status, code and DETAIL of a graph that completes: OK only if every node did (R350). -/
def Graph.outcome (g : Graph) : Nat × Nat × Word :=
  if g.cancel then (2, 0, 0)
  else if g.reset then (3, 0, 0)
  else
    match g.failure with
    | some f => (1, f.1, f.2)
    | none => (0, 0, 0)

/-- Links that nothing will use: their ends are gone or were never joined and cannot be. -/
def State.dropLinks (s : State) (dead : Link → Bool) : State :=
  let up (o : Option Nat) : Bool := match o with
    | some t => (fget s.trusses t).isSome
    | none => false
  let s := { s with links := s.links.filter fun z => up z.2.prod || up z.2.cons || !(z.2.cons.isSome || dead z.2) }
  let gone (a : AgentId) : Bool := match agentLink a with
    | some l => (fget s.links l).isNone
    | none => false
  let s := ((s.reqs.map Prod.fst).filter gone).foldl State.tearRequester s
  (s.parts.map Prod.fst).foldl (fun s p => s.retire p gone) s

/-- A graph whose nodes have all reported completes (R350). -/
def State.settleGraph (s : State) (g : Nat) : State :=
  match fget s.graphs g with
  | none => s
  | some x =>
    if x.states.all fun st => decide (2 ≤ st) then
      let o := x.outcome
      let ls := x.nodes.map fun z => z.2.2.2.2
      let s := { s with graphs := fdel s.graphs g }
      let s := s.dropLinks fun l => ls.contains l.maker.1
      s.finishItem (qKey x.vf x.queue) x.item o.1 o.2.1 o.2.2
    else s

/-- A node of a graph has reported: OUTST falls, and the graph notes the first that is not OK (R350, R353). -/
def State.nodeDone (s : State) (g m : Nat) (o : Nat × Nat × Word) : State :=
  match fget s.graphs g with
  | none => s
  | some x =>
    let launch := ((x.nodes[m]?).map fun z => z.2.2.2.2).getD 0
    let y := x.setNode m (if o.1 = 0 then 2 else 3) launch
    let bad := if o.1 = 1 then (o.2.1, o.2.2) else (0x07, 0)
    let y := { y with failure := if y.failure.isSome ∨ o.1 = 0 then y.failure else some bad }
    let s := { s with graphs := fput s.graphs g y }
    (s.putOutst x.part x.ctr (y.states.filter fun st => decide (st < 2)).length).settleGraph g

/-- A launch completes: its item or node reports (R23, R353). -/
def State.finishLaunch (s : State) (id : Nat) : State :=
  match fget s.launches id with
  | none => s
  | some l =>
    let left := s.leaveJob id l
    let o := if left.1 && decide (l.outcome.1 = 0) then (1, 0x01, 0) else l.outcome
    let s := ({ left.2 with launches := fdel left.2.launches id }).settleJob l.part l.job
    match l.graph with
    | none => (s.dropLinks fun _ => false).finishItem (qKey l.vf l.queue) l.item o.1 o.2.1 o.2.2
    | some (g, m) => (s.reportCtr l.part l.ctr o.1 o.2.1 o.2.2).nodeDone g m o

/-- Forks of a launch. -/
def State.launchForks (s : State) (id : Nat) : List (Nat × Fork) := s.forks.filter fun z => z.2.launch == id

/-- A launch none of whose trusses stands, and that places no more, completes (R23, R24). -/
def State.settleLaunch (s : State) (id : Nat) : State :=
  match fget s.launches id with
  | none => s
  | some l =>
    let done := decide (l.placed = l.ntruss) || l.cancel || l.reset || l.failure.isSome
    if done && (s.launchTrusses id).isEmpty then
      -- What is left of its worlds goes with it (R442).
      let s := (s.launchForks id).foldl (fun s z => z.2.tags.foldl (fun s v => s.freeTag l.part v) s) s
      let s := { s with forks := s.forks.filter fun z => z.2.launch != id }
      let s := { s with launches := fmod s.launches id fun l => { l with outst := 0 } }
      (s.putOutst l.part l.ctr 0).finishLaunch id
    else s

/-- A truss of the base view has gone: it counts out of its launch (R23). -/
def State.countOut (s : State) (id : Nat) : State :=
  let s := { s with launches := fmod s.launches id fun l => { l with outst := l.outst - 1 } }
  match fget s.launches id with
  | none => s
  | some l =>
    let s := s.putOutst l.part l.ctr l.outst
    (if (s.launchTrusses id).isEmpty then s else s.tryArrive id).settleLaunch id

/-! ### TRUSS_END -/

/-- A core of a stopping truss has stopped: at a kerf, at its end, in a wait that the stop abandons, or stalled
(R24, R125, R173, R408). -/
def State.coreHalted (s : State) (p : Nat) : Bool :=
  let c := (s.page p).core
  decide (c.run ≠ .running) || (match c.wait with
    | some w => w.abandonable
    | none => false) || (s.agentStall (pageAgent p 0 0)).isSome

/-- Every channel of a page is empty: hops, tokens over a seam, result queues, and the queues of the edge ports but
crx (R13, R23). -/
def Page.quiet (pg : Page) : Bool :=
  (pg.elems.all fun z => z.2.hops.isEmpty && z.2.seam.isEmpty && z.2.q0.isEmpty && z.2.q1.isEmpty)
    && (pg.ports.toList.all fun y => y.queue.isEmpty) && pg.ctx.isEmpty && pg.cmd.isEmpty

/-! ### PAGE_SCRUB -/

/-- A page has been scrubbed for the view of a rival that lost; the tag is free after its last (R436). -/
def scrubbedFor (p : Nat) (z : Nat × View) : Option (Nat × View) :=
  match z.2.lost with
  | none => some z
  | some l =>
    let l := l.filter fun q => q != p
    if l.isEmpty then none else some (z.1, { z.2 with lost := some l })

/-- PAGE_SCRUB: the scrub of a released page ends (R380); of one whose core has written back at its pre-emption, not before
those writes are acknowledged (R418). -/
def execPageScrub (p : Nat) (s : State) : Res :=
  match (s.page p).status with
  | .scrubbing _ =>
    if !(s.req (pageAgent p 0 0)).allAcked then .next s
    else
    let s := { s with pages := fdel s.pages p }
    .next { s with parts := s.parts.map fun (z : Nat × Partition) =>
      (z.1, { z.2 with views := z.2.views.filterMap (scrubbedFor p) }) }
  | _ => .next s

end Sys2Proof.Machine
end

