-- ==== Sys2Proof/Machine/Place.lean ====
section
/-! DEFINITION. The placer: positions, placing and starting trusses, links, compaction, pre-emption and restart
(R12, R17, R20 to R22, R26, R103, R262, R356, R365, R366, R382 to R385, R398, R415 to R421). -/

namespace Sys2Proof.Machine

/-! ### Leases and positions (R365, R372, R382, R428) -/

/-- LEASEPG (R372). -/
def Partition.lease (p : Partition) : Nat := leAt p.record 0 2
/-- Bays that may hold the partition's trusses; BAYMASK 0 means every bay (R372). -/
def Partition.bayOk (p : Partition) (b : Nat) : Bool := decide (leAt p.record 2 1 = 0) || (leAt p.record 2 1).testBit b

/-- Pages of a rectangle. -/
def rectPages (row col h w : Nat) : List Nat := (List.range (h * w)).map fun x => (row + x / w) * 36 + (col + x % w)

/-- Destination pages of a move. -/
def Move.dest (m : Move) (x : Truss) : List Nat := rectPages m.row m.col x.h x.w

/-- Pages at which a truss counts: in COPY its destination pages, else those it holds (R382). -/
def State.countedPages (s : State) (t : Nat) (x : Truss) : List Nat :=
  match s.move with
  | some m => if m.truss = t ∧ m.state = 1 then m.dest x else s.heldPages t x
  | none => s.heldPages t x

/-- Pages that a partition's trusses take (R382). -/
def State.trussPages (s : State) (part : Nat) : List Nat :=
  (s.trusses.filter fun z => z.2.part == part).flatMap fun z => s.countedPages z.1 z.2

/-- Pages being scrubbed after a partition's trusses: they count as in use (R380). -/
def State.scrubPages (s : State) (part : Nat) : List Nat :=
  (s.pages.filter fun z => z.2.isScrubbing && (z.2.elem 0).fld 45 == part).map Prod.fst

/-- Pages of a partition's lease that are in use (R365, R380). -/
def State.usedPages (s : State) (part : Nat) : List Nat := s.trussPages part ++ s.scrubPages part

/-- A page in working order (R428). -/
def State.pageWorks (s : State) (p : Nat) : Bool := !s.fuses.pages.contains p && !s.fuses.bays.contains (bayOf p)

/-- No edge within a rectangle has lost its channels (R428). -/
def State.edgesWork (s : State) (row col h w : Nat) : Bool :=
  (rectPages row col h w).all fun p =>
    (decide (p % 36 = col + w - 1) || !s.fuses.edges.contains (p * 2))
      && (decide (p / 36 = row + h - 1) || !s.fuses.edges.contains (p * 2 + 1))

/-- Origins at which a rectangle fits the grid, smallest page column first, then smallest page row (R365). -/
def origins (h w : Nat) : List (Nat × Nat) :=
  (List.range (37 - w)).flatMap fun c => (List.range (13 - h)).map fun r => (r, c)

/-- The first position whose pages all pass a test, in working order and in bays the partition allows (R365). -/
def State.spot (s : State) (part h w : Nat) (ok : Nat → Bool) : Option (Nat × Nat) :=
  (origins h w).find? fun z =>
    ((rectPages z.1 z.2 h w).all fun p => s.pageWorks p && (s.part part).bayOk (bayOf p) && ok p)
      && s.edgesWork z.1 z.2 h w

/-- A page is in no truss's use (R365). -/
def State.pageFree (s : State) (p : Nat) : Bool := decide ((s.page p).status = .free)

/-- Where a truss of a partition may be placed now: a free position, within the lease (R365, R382). -/
def State.freeSpot (s : State) (part h w : Nat) : Option (Nat × Nat) :=
  if (s.part part).lease < (s.usedPages part).length + h * w then none else s.spot part h w s.pageFree

/-! ### Pinning (R384) -/

/-- 10 ms in cc. -/
def tenMs : Nat := 16000000

/-- A truss within a FORKW, or one of a rival that a CHOOSE or the judgement of its fork is committing (R384, R446). -/
def State.inFork (s : State) (t : Nat) (x : Truss) : Bool :=
  decide (x.state = .forking) || ((s.heldPages t x).any fun p => decide ((s.page p).core.wait = some .fork))
    || match s.rivalOf t with
      | some (_, k, _, r) => r.choosing || k.judged
      | none => false

/-- Some agent of a truss is stalled (R401, R408). -/
def State.trussStalled (s : State) (t : Nat) : Bool :=
  s.agents.any fun a => (s.trussOfAgent a == some t) && (s.agentStall a).isSome

/-- The conditions of R384 that are not about time. -/
def State.pinnedNow (s : State) (t : Nat) (x : Truss) : Bool :=
  (((s.launchOf x).map fun l => l.img.kerfs.isEmpty).getD true) || s.trussStalled t || s.inFork t x

/-- A truss is pinned (R384). -/
def State.pinned (s : State) (t : Nat) (x : Truss) : Bool :=
  s.pinnedNow t x || decide (s.now < x.since + tenMs)
    || (match x.aborted with
      | some a => decide (s.now < a + tenMs)
      | none => false)

/-- A truss may be moved: it runs, some core of it has not ended, and it is not pinned (R125, R384). -/
def State.canMove (s : State) (t : Nat) (x : Truss) : Bool :=
  decide (x.state = .running) && decide (0 < x.cores) && !s.pinned t x

/-! ### Links (R356) -/

/-- Bytes of spill rings that a truss of an image takes. -/
def Image.spillBytes (i : Image) : Nat := (i.links.map LinkEntry.spill).sum

/-- The spill ring of a LINKS entry lies after those of lower link numbers (R356). -/
def Image.spillBefore (i : Image) (e : LinkEntry) : Nat :=
  ((i.links.filter fun x => decide (x.num < e.num)).map LinkEntry.spill).sum
    + ((i.links.takeWhile fun x => !(x.num == e.num && x.out == e.out)).filter fun x => x.num == e.num).foldl (fun a x => a + x.spill) 0

/-- The truss whose outbound links the inbound ones of a truss join: the launch and TRUSSIX of the producer (R356). -/
def State.upstream (s : State) (l : Launch) (ix : Nat) (id : Nat) : Option (Nat × Nat) :=
  if 0 < ix then some (id, ix - 1)
  else
    match l.graph with
    | some (g, m) =>
      match fget s.graphs g with
      | none => none
      | some x =>
        -- The node whose JOIN names this one's links.
        match x.nodes[m]? with
        | none => none
        | some z =>
          if z.2.2.1 = 0xFF then none
          else (x.nodes[z.2.2.1]?).map fun y => (y.2.2.2.2, leAt y.1 12 2 - 1)
    | none => l.joins

/-- A link made by a producer under a number and not yet joined. -/
def State.openLink (s : State) (up : Option (Nat × Nat)) (num : Nat) : Option (Nat × Link) :=
  match up with
  | none => none
  | some m => s.links.find? fun z => z.2.maker == m && z.2.num == num && z.2.cons.isNone

/-- An inbound link of a graph node that is placed already and whose JOIN names a node whose last truss this is. -/
def State.waitingLink (s : State) (l : Launch) (ix num : Nat) : Option (Nat × Link) :=
  match l.graph with
  | none => none
  | some (g, m) =>
    match fget s.graphs g with
    | none => none
    | some x =>
      if ix + 1 ≠ l.ntruss then none
      else
        let ids := (x.nodes.filter fun z => z.2.2.1 == m).map fun z => z.2.2.2.2
        let heads := (s.trusses.filter fun z => ids.contains z.2.launch && decide (z.2.ix = 0)).map Prod.fst
        s.links.find? fun z => z.2.num == num && z.2.prod.isNone && heads.any fun t => z.2.cons == some t

/-- The links of a truss as it is placed: its outbound ones are made, its inbound ones joined (R356). -/
def State.makeLinks (s : State) (id : Nat) (l : Launch) (tid ix : Nat) : State :=
  let spill := if l.ctr = 0 then 0 else (s.t0Nat l.part (l.ctr + 32) 8).getD 0
  let up := s.upstream l ix id
  let bay := (((fget s.trusses tid).bind fun t => t.pages.head?).map bayOf).getD 0
  l.img.links.foldl (fun s e =>
    if e.out then
      let base := spill + ix * l.img.spillBytes + l.img.spillBefore e
      let k : Link := ⟨some tid, none, e.num, e.cap, base, e.spill, [], 0, 0, 0, 0, 0, 0, 0, [], bay, (id, ix)⟩
      match s.waitingLink l ix e.num with
      | some (n, y) => { s with links := fput s.links n { k with cons := y.cons } }
      | none => { s with links := fput s.links s.fresh k, fresh := s.fresh + 1 }
    else
      match s.openLink up e.num with
      | some (n, k) => { s with links := fput s.links n { k with cons := some tid } }
      | none =>
        let k : Link := ⟨none, some tid, e.num, e.cap, 0, 0, [], 0, 0, 0, 0, 0, 0, 0, [], bay, (0, 0)⟩
        { s with links := fput s.links s.fresh k, fresh := s.fresh + 1 }) s

/-! ### Placing and starting (R103, R262, R349) -/

/-- The cores of a placed truss start (R103). -/
def State.startTruss (s : State) (l : Launch) (z : Nat × Truss) : State :=
  if z.2.state ≠ .running then s
  else ((s.heldPages z.1 z.2).zipIdx).foldl (fun s q => s.modCore q.1 fun _ => startCore l z.2.ix q.2) s

/-- The next truss of a launch is placed at a position; once the last is, every core starts (R349). -/
def State.placeAt (s : State) (id : Nat) (l : Launch) (row col : Nat) : State :=
  let tid := s.fresh
  let t : Truss := ⟨id, l.placed, l.img.h, l.img.w, row, col, l.part, .running, l.img.h * l.img.w, 0, 0, 0, none,
    s.now, none, false, 0, true, [], false, [], [], s.now⟩
  let l := { l with placed := l.placed + 1, since := s.now, compacted := false }
  let s := { s with trusses := fput s.trusses tid t, launches := fput s.launches id l, fresh := s.fresh + 1 }
  let s := s.makeLinks id l tid t.ix
  let r := s.bringUp tid t l.img
  match r.1 with
  | some el => r.2.cfgInvalid tid el
  | none => if l.placed = l.ntruss then (r.2.trussesOf id).foldl (fun s z => s.startTruss l z) r.2 else r.2

/-! ### Moves begin (R385) -/

/-- HOLD: kerf hops stop, and the move request reaches every core (R179, R385). -/
def State.beginMove (s : State) (t : Nat) (x : Truss) (row col : Nat) : State :=
  let s := (s.heldPages t x).foldl (fun s p =>
    let pg := s.page p
    s.setPage p { pg with core := { pg.core with event := true },
                          elems := pg.elems.map fun z => (z.1, { z.2 with closed := true }) }) s
  { s with move := some ⟨t, row, col, 0, s.now, List.range (x.h * x.w), 0⟩,
           trusses := fput s.trusses t { x with request := true } }

/-! ### Compaction (R366) -/

/-- Inserts a truss by origin page column, then origin page row. -/
def byOrigin (z : Nat × Truss) : List (Nat × Truss) → List (Nat × Truss)
  | [] => [z]
  | y :: t => if z.2.col * 12 + z.2.row < y.2.col * 12 + y.2.row then z :: y :: t else y :: byOrigin z t

/-- Compaction begins for a waiting launch, saved truss or fork of a partition. -/
def State.beginCompact (s : State) (part forId : Nat) : State :=
  let bays := (List.range 8).filter (s.part part).bayOk
  let inDomain (z : Nat × Truss) : Bool :=
    let ps := s.heldPages z.1 z.2
    !ps.isEmpty && ps.all fun p => bays.contains (bayOf p)
  let l := (s.trusses.filter fun z => inDomain z && s.canMove z.1 z.2).foldl
    (fun l z => byOrigin z l) []
  { s with compact := some ⟨forId, bays, l.map Prod.fst⟩ }

/-- Where compaction puts a truss: its first position that overlaps no other truss (R366). -/
def State.target (s : State) (c : Compaction) (t : Nat) (x : Truss) : Option (Nat × Nat) :=
  s.spot x.part x.h x.w fun p => c.bays.contains (bayOf p)
    && (decide ((s.page p).status ≠ .used) || decide ((s.page p).truss = t))

/-- Compaction has been carried through: what it was made for is tried again. -/
def State.endCompact (s : State) (c : Compaction) : State :=
  { s with compact := none, launches := fmod s.launches c.forId fun l => { l with compacted := true } }

/-- The next step of the compaction in progress: the next truss is settled, by a move if it can lie further west. -/
def State.stepCompact (s : State) : State :=
  match s.compact with
  | none => s
  | some c =>
    match c.movable with
    | [] => s.endCompact c
    | t :: rest =>
      let c := { c with movable := rest }
      let s := { s with compact := some c }
      match fget s.trusses t with
      | none => s
      | some x =>
        if !s.canMove t x then s
        else
          match s.target c t x with
          | some (r, k) => if r = x.row ∧ k = x.col then s else s.beginMove t x r k
          | none => s

/-! ### Pre-emption (R417 to R421) -/

/-- Tiles that a page's saved state holds: those of the keep mask and the shadow tiles, none of a page with no
restart record (R418). -/
def Page.savedTiles (pg : Page) : Nat :=
  match pg.region with
  | some r => 64 * (pop64 (r.keep.zeroExtend 64) + 1)
  | none => 0

/-- Host granules that saving a truss takes (R419). -/
def State.saveSize (s : State) (t : Nat) (x : Truss) : Nat :=
  Config.savedGranules (x.h * x.w) (((s.heldPages t x).map fun p => (s.page p).savedTiles).sum)

/-- Granules of the save pool that saved trusses take. -/
def State.poolUsed (s : State) : Nat :=
  ((s.trusses.filter fun z => decide (z.2.state = .saved)).map fun z =>
    Config.savedGranules (z.2.h * z.2.w) ((z.2.saved.map Page.savedTiles).sum)).sum

/-- The pool has room for a truss (R419). -/
def State.poolRoom (s : State) (t : Nat) (x : Truss) : Bool :=
  decide (s.poolUsed + s.saveSize t x ≤ s.pf.savepool.toNat % 2 ^ 16)

/-- A truss can resume: its image has a REGIONS section (R417). -/
def State.resumable (s : State) (x : Truss) : Bool := ((s.launchOf x).map fun l => !l.img.regions.isEmpty).getD false

/-- The dirty lines of a page's L1D, oldest first. -/
def Page.dirtyLines (pg : Page) : List L1Line := pg.core.l1d.reverse.filter fun l => decide (l.dirty ≠ 0)

/-- Dirty lines of a page whose core stands still leave for their homes, as WBR.M sends them (R291, R418, R440): each a packet of
its own, which the home may refuse (R378). Answers the lines that cannot be sent, of panels that have lost their translation or
granule since they were stored to. -/
def State.writeLines (s : State) (p part : Nat) (ls : List L1Line) : List L1Line × State :=
  let a := pageAgent p 0 0
  ls.foldl (fun z l =>
    match (z.2.xlate (bayOf p) part l.view 0 (l.line / 1024)).1 with
    | .leaf e =>
      match z.2.placeOf part e (l.line * 64) with
      | .ok ph =>
        (z.1, z.2.submitWrite a (writePacket a part 0 0 (l.line * 64) [⟨ph, l.data, descUint8, l.dirty, if l.bad then 3 else 0⟩]))
      | .error _ => (z.1 ++ [l], z.2)
    | _ => (z.1 ++ [l], z.2)) ([], s)

/-- The state that a kept tile had before a command made it ENGINE (R418): FULL for a source, EMPTY for a
destination. -/
def State.unseize (s : State) (c : EngCmd) (t : Truss) : State :=
  if c.bytes.isEmpty then s
  else
    match s.engSides c.op c.bytes t (bayOf c.page) with
    -- Of a tile that is both, the source's state, which the command required (R152).
    | some (a, b) => (s.setSide b tileEmpty).setSide a tileFull
    | none => s

/-- What is saved of a page (R418). -/
def Page.kept (pg : Page) : Page :=
  let cnt (x : Elem) : Elem := { Elem.reset with fire := x.fire, stall := x.stall, starve := x.starve }
  let keep : BitVec 47 := match pg.region with
    | some r => r.keep
    | none => 0
  { Page.reset with region := pg.region, ix := pg.ix,
                    core := { Core.reset with run := pg.core.run },
                    elems := if pg.region.isSome then pg.elems.map fun (z : Nat × Elem) => (z.1, cnt z.2) else [],
                    tiles := if pg.region.isSome then
                        pg.tiles.filter fun z => decide (z.1 % 64 = 47) || keep.getLsbD (z.1 % 64) else [] }

/-- A truss is pre-empted: saved and torn down (R418). -/
def State.saveTruss (s : State) (t : Nat) : State :=
  match fget s.trusses t with
  | none => s
  | some x =>
    let s := if (s.move.map Move.truss) = some t then s.dropMove else s
    let cmds := (s.engines.flatMap fun z => z.2.cmds).filter fun c => c.truss == t
    let s := cmds.foldl (fun s c => s.unseize c x) s
    let s := s.cancelCmds fun c => c.truss == t
    let pages := s.heldPages t x
    let saved := pages.map fun p => (s.page p).kept
    let dirty := pages.map fun p => (p, (s.page p).dirtyLines)
    -- Writes that no home has applied are abandoned with the pages' requesters; then the dirty bytes leave. Those that cannot are
    -- lost with the truss (DESIGN CHOICE, log 113).
    let s := pages.foldl State.releasePage s
    let s := dirty.foldl (fun s z => (s.writeLines z.1 x.part z.2).2) s
    { s with trusses := fput s.trusses t { x with state := .saved, saved := saved, request := false, phaseAt := [],
                                                  since := s.now },
             launches := fmod s.launches x.launch fun l => { l with since := s.now, compacted := false } }

/-- A lease cut or reset rung pre-empts a truss: it is saved if it can resume and the pool has room, else torn down,
and its launch completes RESET (R417, R419). -/
def State.preempt (s : State) (t : Nat) : State :=
  match fget s.trusses t with
  | none => s
  | some x =>
    if s.resumable x && s.poolRoom t x && decide (x.depth = 0) && decide (x.state = .running) then s.saveTruss t
    else
      let s := { s with launches := fmod s.launches x.launch fun l => { l with reset := true } }
      let all := s.launchTrusses x.launch
      (all.foldl State.tearTruss s).settleLaunch x.launch

/-- Queue priority of a truss's launch. -/
def State.trussPrio (s : State) (x : Truss) : Nat := ((s.launchOf x).map Launch.prio).getD 0

/-- Inserts a truss in the order of R383: lowest queue priority first, then the most recently placed. -/
def State.byCut (s : State) (z : Nat × Truss) : List (Nat × Truss) → List (Nat × Truss)
  | [] => [z]
  | y :: t =>
    if s.trussPrio z.2 < s.trussPrio y.2 ∨ (s.trussPrio z.2 = s.trussPrio y.2 ∧ y.2.placedAt < z.2.placedAt) then z :: y :: t
    else y :: s.byCut z t

/-- A truss in COPY: nothing but RELEASE ends its move (R388). -/
def State.copying (s : State) (t : Nat) : Bool :=
  match s.move with
  | some m => decide (m.truss = t) && decide (m.state = 1)
  | none => false

/-- Trusses of a partition that priority may pre-empt, in order (R417, R421, R446). -/
def State.victims (s : State) (part prio : Nat) : List (Nat × Truss) :=
  (s.trusses.filter fun z => decide (z.2.part = part) && decide (s.trussPrio z.2 < prio) && decide (z.2.depth = 0)
      && decide (z.2.state = .running) && s.resumable z.2 && !s.copying z.1 && !s.inFork z.1 z.2).foldl
    (fun l z => s.byCut z l) []

/-- A rectangle would find room were some trusses gone. -/
def State.roomWithout (s : State) (part h w : Nat) (gone : List (Nat × Truss)) : Bool :=
  let freed := gone.flatMap fun z => s.heldPages z.1 z.2
  decide ((s.trussPages part).length + h * w ≤ (s.part part).lease + freed.length)
    && (s.spot part h w fun p => decide ((s.page p).status ≠ .used) || freed.contains p).isSome

/-- The fewest victims, in order, without which a rectangle would find room. -/
def State.enoughVictims (s : State) (part h w : Nat) : List (Nat × Truss) → List (Nat × Truss) → Option (List (Nat × Truss))
  | [], taken => if s.roomWithout part h w taken then some taken else none
  | z :: t, taken =>
    if s.roomWithout part h w taken then some taken else s.enoughVictims part h w t (taken ++ [z])

/-- A launch that cannot be placed even after compaction pre-empts trusses of its partition of lower priority, if that
makes room and the pool holds them (R417, R419). -/
def State.preemptFor (s : State) (part h w prio : Nat) : State :=
  match s.enoughVictims part h w (s.victims part prio) [] with
  | none => s
  | some l =>
    if s.poolUsed + (l.map fun z => s.saveSize z.1 z.2).sum ≤ s.pf.savepool.toNat % 2 ^ 16 then
      l.foldl (fun s z => s.saveTruss z.1) s
    else s

/-! ### Restart (R398, R415, R416, R420) -/

/-- An element at a restart: the recorded fields and snapshot, the counters as saved, the rest at placement. -/
def restartElem (r : Region) (saved : FMap Elem) (part e : Nat) : Elem :=
  let b := fgetD r.snaps e Elem.reset
  let c := fgetD saved e Elem.reset
  let x := { b with cfg := (fget r.fields e).getD [], fire := c.fire, stall := c.stall, starve := c.starve }
  let fl := (List.range 9).filterMap fun k => let f := 32 + k; if x.shim f = 0 then none else some (f, x.shim f)
  { x with floors := fl }.setFld 45 (BitVec.ofNat 12 part)

/-- A page whose core had executed a REGION takes up its record: the state of R398, with no stream; its core stands at
the REGION, or stays ended. -/
def State.restartPage (s : State) (tid part ix p : Nat) (sp : Page) (r : Region) (img : Image) : State :=
  let pg0 := s.page p
  let core := if sp.core.run = .ended then { Core.reset with run := .ended } else { r.core with run := .running }
  let pg : Page := { Page.reset with
    status := .used, truss := tid, ix := ix, core := core, region := some r, restart := decide (sp.core.run ≠ .ended),
    startPts := pg0.startPts, tiles := sp.tiles,
    elems := (List.range 64).map fun e => (e, { restartElem r sp.elems part e with hops := (pg0.elem e).hops }) }
  let bind (pg : Page) (k : Nat) : Page := pg.setPort k { (pg.port k) with bound := (pg0.port k).bound }
  let s := s.setPage p ((List.range 8).foldl bind pg)
  -- Each link endpoint of the page goes back to its recorded count (R416).
  let back (l : Link) (e : LinkEntry) : Link :=
    let n := ((r.links.find? fun z => z.1 == e.num && z.2.1 == e.out).map fun z => z.2.2).getD 0
    if e.out then { l with prodN := n, resOut := 0 } else { l with consN := n, resIn := 0, reads := [] }
  (img.links.filter fun e => decide (e.elem / 64 = ix)).foldl (fun s e =>
    match s.linkOf tid e.num e.out with
    | some (n, l) => { s with links := fput s.links n (back l e) }
    | none => s) s

/-- A page with no restart record takes its placement state; its link endpoints begin again (R415, R416). -/
def State.reentryPage (s : State) (tid ix p : Nat) (sp : Page) (l : Launch) (tix : Nat) : State :=
  let s := s.modCore p fun _ =>
    match sp.core.run with
    | .ended => { Core.reset with run := .ended }
    | .idle => if l.placed = l.ntruss then startCore l tix ix else Core.reset
    | _ => startCore l tix ix
  (l.img.links.filter fun e => decide (e.elem / 64 = ix)).foldl (fun s e =>
    match s.linkOf tid e.num e.out with
    | some (n, k) =>
      let k' : Link := if e.out then { k with prodN := 0, resOut := 0 } else { k with consN := k.recN, resIn := 0 }
      { s with links := fput s.links n k' }
    | none => s) s

/-- A saved truss is placed again and every page restarts (R415, R420). -/
def State.restoreAt (s : State) (tid : Nat) (t : Truss) (l : Launch) (row col : Nat) : State :=
  let x := { t with row := row, col := col, state := .running, saved := [], since := s.now, placedAt := s.now, stallFc := 0, armed := true }
  let s := { s with trusses := fput s.trusses tid x }
  let r := s.bringUp tid x l.img
  let s := (x.pages.zip t.saved).foldl (fun s z =>
    match z.2.region with
    | some rec_ => s.restartPage tid x.part z.2.ix z.1 z.2 rec_ l.img
    | none => s.reentryPage tid z.2.ix z.1 z.2 l x.ix) r.2
  let s := s.setShims x l.img
  match r.1 with
  | some el => s.cfgInvalid tid el
  | none => s

/-! ### Trying to place -/

/-- What a waiting launch or saved truss asks for: partition, height, width, priority. -/
structure Ask where
  /-- Partition. -/
  part : Nat
  /-- Height. -/
  h : Nat
  /-- Width. -/
  w : Nat
  /-- Priority. -/
  prio : Nat
  /-- Compaction has been carried through. -/
  compacted : Bool
  deriving DecidableEq, Repr

/-- Places what is asked for, or compacts once, or pre-empts for it, or lets it wait (R365, R417). -/
def State.tryPlace (s : State) (id : Nat) (a : Ask) (place : Nat → Nat → State) : State :=
  match s.freeSpot a.part a.h a.w with
  | some (r, c) => place r c
  | none =>
    if (s.part a.part).lease < (s.usedPages a.part).length + a.h * a.w ∨ a.compacted = true then
      s.preemptFor a.part a.h a.w a.prio
    else s.beginCompact a.part id

/-- PLACE of the next truss of a launch. -/
def State.placeLaunch (s : State) (id : Nat) (l : Launch) : State :=
  if l.placed < l.ntruss ∧ !l.cancel ∧ !l.reset ∧ l.failure.isNone then
    s.tryPlace id ⟨l.part, l.img.h, l.img.w, l.prio, l.compacted⟩ fun r c => s.placeAt id l r c
  else s

/-- What the cores of a saved truss wrote back is still on its way from its old pages (R418). -/
def State.stillWriting (s : State) (x : Truss) : Bool :=
  x.pages.any fun p => decide ((s.page p).status ≠ .used) && !(s.req (pageAgent p 0 0)).allAcked

/-- PLACE of a saved truss, once its write-backs are acknowledged (R418, R420). -/
def State.placeSaved (s : State) (tid : Nat) (t : Truss) : State :=
  match (if s.stillWriting t then none else fget s.launches t.launch) with
  | none => s
  | some l =>
    s.tryPlace t.launch ⟨t.part, t.h, t.w, l.prio, l.compacted⟩ fun r c => s.restoreAt tid t l r c

/-- PRIORITY_AGING: a launch that waits to be placed, or that has a saved truss, rises one step after each 1 ms, up to
the top (R26, R420). -/
def execPriorityAging (l : Nat) (s : State) : Res :=
  match fget s.launches l with
  | none => .next s
  | some x =>
    let waits := decide (x.placed < x.ntruss) || (s.trussesOf l).any fun z => decide (z.2.state = .saved)
    if waits && decide (x.since + oneMs ≤ s.now) && decide (x.prio < 3) then
      .next { s with launches := fput s.launches l { x with prio := x.prio + 1, since := x.since + oneMs, compacted := false } }
    else .next s

end Sys2Proof.Machine
end

