-- ==== Sys2Proof/Machine/Items.lean ====
section
/-! DEFINITION. The items of a queue: which may begin, and what LAUNCH, GRAPH, WAIT, SIGNAL, PHASE, CANCEL, QFENCE and
NOP do (R23, R24, R26, R338, R346, R348 to R353, R358, R359). -/

namespace Sys2Proof.Machine

/-! ### Which items may begin (R346, R352) -/

/-- The oldest item of a queue that has not begun, with the items before it. -/
def Queue.next (x : Queue) : Option (List Item × Item) :=
  let before := x.items.takeWhile fun i => decide (i.state ≠ .held)
  (x.items[before.length]?).map fun i => (before, i)

/-- Every truss of an item's launch or graph is placed (R352). -/
def State.allPlaced (s : State) (i : Item) : Bool :=
  let placed (id : Nat) : Bool := match fget s.launches id with
    | some l => decide (l.placed = l.ntruss)
    | none => true
  if i.state = .done then true
  else
    match iCmd i.bytes with
    | 1 => placed i.work
    | 2 =>
      match fget s.graphs i.work with
      | none => true
      | some g => g.nodes.all fun z => decide (2 ≤ z.2.2.2.1) || (decide (z.2.2.2.1 = 1) && placed z.2.2.2.2)
    | _ => true

/-- An item may begin after the items before it (R352). -/
def State.afterOk (s : State) (before : List Item) (i : Item) : Bool :=
  let prev := before.getLast?
  let work := iCmd i.bytes = 1 ∨ iCmd i.bytes = 2
  if work ∧ iFlow i.bytes = true then
    match prev with
    | some p => s.allPlaced p
    | none => true
  else if work then before.all fun p => decide (p.state = .done) || decide (2 < iCmd p.bytes)
  else
    match prev with
    | some p => decide (p.state = .done)
    | none => true

/-- The oldest item of a queue, if it may begin now. -/
def State.ready (s : State) (k : Nat) (x : Queue) : Option Item :=
  match x.next with
  | none => none
  | some (before, i) =>
    if x.slot && !x.stopped && s.recordRoom k x i.n && s.afterOk before i then some i else none

/-- The queue served next: of those with a ready item the highest priority, and of equals the next in turn (R26,
R352). -/
def State.servedNext (s : State) : Option (Nat × Item) :=
  let l := s.queues.filterMap fun z => (s.ready z.1 z.2).map fun i => (z.1, i)
  let top := (l.map fun z => iPrio z.2.bytes).foldl Nat.max 0
  let l := l.filter fun z => iPrio z.2.bytes == top
  if !s.start.ready then none
  else
  match l.find? fun z => decide ((s.served.toList[top]?).getD 0 < z.1) with
  | some z => some z
  | none => l.head?

/-! ### Packets (R338, R348) -/

/-- An address of a packet is aligned and within tensor-0 (R345). -/
def addrOk (a n : Nat) : Bool := decide (a % n = 0) && decide (a < 2 ^ 48)

/-- A packet keeps the layout of its command (R338, R348). -/
def packetOk (b : List Byte) : Bool :=
  decide (bits (leAt b 9 1) 4 4 = 0) &&
  match iCmd b with
  | 1 => decide (leAt b 10 1 < 2) && zeroAt b 11 1 && zeroAt b 14 2 && decide (1 ≤ leAt b 12 2) && decide (leAt b 12 2 ≤ 432)
      && addrOk (leAt b 24 8) 64 && addrOk (leAt b 32 8) 1 && addrOk (leAt b 48 8) 64 && addrOk (leAt b 56 8) 64
  | 2 => zeroAt b 12 4 && zeroAt b 40 24 && decide (1 ≤ leAt b 10 2) && decide (leAt b 10 2 ≤ 64)
      && addrOk (leAt b 24 8) 1 && addrOk (leAt b 32 8) 64
  | 3 => zeroAt b 10 6 && zeroAt b 40 24 && addrOk (leAt b 24 8) 8
  | 4 => zeroAt b 10 6 && zeroAt b 40 24 && addrOk (leAt b 24 8) 8
  | 5 => zeroAt b 10 6 && zeroAt b 40 24 && addrOk (leAt b 24 8) 64
  | 6 => zeroAt b 10 6 && zeroAt b 32 32
  | 7 => zeroAt b 10 6 && zeroAt b 24 40
  | 8 => zeroAt b 10 6 && zeroAt b 24 40
  | _ => false

/-- A live launch of a partition holds an identifier. -/
def State.launchNamed (s : State) (part ident : Nat) : Bool :=
  s.launches.any fun z => z.2.part == part && z.2.ident.toNat == ident

/-- A live item of the same level and partition holds the identifier (R348). -/
def State.duplicate (s : State) (part : Nat) (b : List Byte) : Bool :=
  match iCmd b with
  | 1 => s.launchNamed part (iIdent b)
  | 2 => s.graphs.any fun z => z.2.part == part && z.2.ident.toNat == iIdent b
  | 5 => s.queues.any fun z => (s.queuePart z.1 == part) && z.2.items.any fun i =>
      decide (i.state = .begun) && decide (iCmd i.bytes = 5) && decide (iIdent i.bytes = iIdent b)
  | _ => false

/-- An item begins: it is marked, and its queue has been served at its priority. -/
def State.markBegun (s : State) (k n : Nat) : State :=
  let i := (fget s.queues k).bind fun x => x.items.find? fun i => i.n == n
  let prio := (i.map fun i => iPrio i.bytes).getD 0
  { s with served := s.served.setIfInBounds prio k }.modQueue k fun x =>
    { (x.modItem n fun i => { i with state := .begun, since := s.now }) with lastBegin := s.now }

/-- The item of command `cmd` that a function's queue begins now, if it is the one served; a packet that breaks its
layout or repeats an identifier completes FAILED(MALFORMED) (R348). -/
def beginItem (cmd : Nat → Bool) (vf q : Nat) (f : Nat → Item → State → State) (s : State) : Res :=
  match s.servedNext with
  | none => .next s
  | some (k, i) =>
    if k ≠ qKey vf (q % 64) ∨ cmd (iCmd i.bytes) = false then .next s
    else
      let u := s.markBegun k i.n
      if !packetOk i.bytes || s.duplicate (s.queuePart k) i.bytes then .next (u.finishItem k i.n 1 0x01 0)
      else .next (f k i u)

/-! ### Launches (R349) -/

/-- The checks of a LAUNCH packet beside its layout: its image, or a failure code (R93, R349). -/
def State.launchCheck (s : State) (part : Nat) (b : List Byte) : Except Nat Image :=
  match s.loadImage part (leAt b 24 8) with
  | none => .error 0x02
  | some img =>
    if leAt b 48 8 = 0 ∧ (img.links.any fun e => decide (e.spill ≠ 0)) = true then .error 0x01
    else if (s.part part).lease < leAt b 12 2 * (img.h * img.w) ∨ (s.spot part img.h img.w fun _ => true).isNone = true then
      .error 0x06
    else .ok img

/-- A checked launch is set up: its DATA section is copied, its counter block counts its trusses, and it waits to be
placed (R349). -/
def State.setUpLaunch (s : State) (part vf queue item prio : Nat) (graph : Option (Nat × Nat)) (b : List Byte) (img : Image)
    (joins : Option (Nat × Nat)) : Nat × State :=
  let id := s.fresh
  let dbg := (leAt b 10 1).testBit 0 && (leAt (s.part part).record 3 1).testBit 0
  let l : Launch := ⟨BitVec.ofNat 60 (iIdent b), part, vf, queue, item, graph, leAt b 12 2, leAt b 24 8, img,
    BitVec.ofNat 64 (leAt b 40 8), leAt b 48 8, leAt b 56 8, dbg, 0, leAt b 12 2, none, false, false, prio, s.now,
    [], false, false, joins⟩
  let s := { s with launches := fput s.launches id l, fresh := id + 1 }
  let s := s.putOutst part l.ctr l.ntruss
  let s := match (if leAt b 32 8 = 0 then none else s.t0Read part (l.image + img.dataOff) img.dataSize) with
    | some d => (s.t0Write part (leAt b 32 8) d).getD s
    | none => s
  (id, s.openJob part l.job)

/-- The launch whose links the next FLOW launch of a queue joins is another one now, or none: what the one before made is
dropped unless the launch that begins joins it (R356). -/
def State.nextLaunch (s : State) (k : Nat) (joined : Bool) (next : Option (Nat × Nat)) : State :=
  let s := match (fget s.queues k).bind Queue.lastLaunch with
    | some m => if joined then s else s.dropLinks fun l => l.maker == m
    | none => s
  s.modQueue k fun x => { x with lastLaunch := next }

/-- Marks which launch or graph an item works on. -/
def State.setWork (s : State) (k n id : Nat) : State :=
  s.modQueue k fun x => x.modItem n fun i => { i with work := id }

/-- The mark of R24 reaches a counter block (R353). -/
def State.markCtr (s : State) (part ctr : Nat) : State := if ctr = 0 then s else s.t0Put part (ctr + 18) 1 1

/-- An item that a mark has reached before it begins: its counter block is marked, and it completes as `f` says (R24). -/
def State.cancelled (s : State) (part ctr : Nat) (f : State → State) : State := f (s.markCtr part ctr)

/-- LAUNCH (R349); below a cancelled job it completes CANCELLED (R24). With FLOW it joins the links of the launch before it
in its queue (R356). -/
def execLaunchItem (vf q : Nat) (s : State) : Res :=
  beginItem (fun c => c == 1) vf q (fun k i s =>
    let part := s.queuePart k
    match s.launchCheck part i.bytes with
    | .error c => (s.nextLaunch k false none).finishItem k i.n 1 c 0
    | .ok img =>
      let s := s.openJob part (leAt i.bytes 56 8)
      if s.jobCancelled part (leAt i.bytes 56 8) then
        (s.nextLaunch k false none).cancelled part (iCtr i.bytes) fun s => s.finishItem k i.n 2 0 0
      else
        let joins := if iFlow i.bytes then (fget s.queues k).bind Queue.lastLaunch else none
        let r := s.setUpLaunch part (k / 64) (k % 64) i.n (iPrio i.bytes) none i.bytes img joins
        (r.2.setWork k i.n r.1).nextLaunch k joins.isSome (some (r.1, leAt i.bytes 12 2 - 1))) s

/-! ### Graphs (R350) -/

/-- A node of a graph's table: its LAUNCH packet, PRED and JOIN; `none` where the entry breaks R350. -/
def State.graphNode (s : State) (part n m : Nat) (e : List Byte) : Option (List Byte × Word × Nat) :=
  let pred := leAt e 8 8
  let join := leAt e 16 1
  if pred / 2 ^ n ≠ 0 ∨ pred.testBit m ∨ (join ≠ 0xFF ∧ (n ≤ join ∨ join = m)) ∨ !zeroAt e 17 15 then none
  else
    match s.t0Read part (leAt e 0 8) 64 with
    | none => none
    | some b =>
      -- PUB, FLAGS and TAG[63:60] of a node's packet are ignored.
      let b := listPut b 9 [0]
      if iCmd b = 1 ∧ packetOk b = true ∧ (s.launchCheck part b).toBool = true then some (b, BitVec.ofNat 64 pred, join) else none

/-- Takes out nodes whose predecessors are out, `n` times; a cycle leaves some. -/
def peelNodes : Nat → List (Nat × Word) → List (Nat × Word)
  | 0, l => l
  | n + 1, l => peelNodes n (l.filter fun z => l.any fun y => z.2.getLsbD y.1)

/-- GRAPH: its table is checked whole before any node begins (R350). -/
def execGraphItem (vf q : Nat) (s : State) : Res :=
  beginItem (fun c => c == 2) vf q (fun k i s =>
    let part := s.queuePart k
    let n := leAt i.bytes 10 2
    match s.t0Read part (leAt i.bytes 24 8) (32 * n) with
    | none => s.finishItem k i.n 1 0x01 0
    | some tab =>
      let ns := ((pieces 32 n tab).zipIdx).map fun z => s.graphNode part n z.2 z.1
      let ids := ns.map fun z => (z.map fun y => iIdent y.1).getD 0
      let cyc := peelNodes n ((ns.zipIdx).map fun z => (z.2, (z.1.map fun y => y.2.1).getD 0))
      if ns.any Option.isNone || !cyc.isEmpty || !distinct ids || ids.any (s.launchNamed part) then s.finishItem k i.n 1 0x01 0
      else
        let id := s.fresh
        let nodes := (ns.filterMap fun z => z).map fun z => (z.1, z.2.1, z.2.2, 0, 0)
        let g : Graph := ⟨BitVec.ofNat 60 (iIdent i.bytes), k / 64, k % 64, i.n, part, leAt i.bytes 32 8, nodes, false, none, false, []⟩
        let s := { s with graphs := fput s.graphs id g, fresh := id + 1 }
        (s.putOutst part g.ctr n).setWork k i.n id) s

/-- A waiting node completes without beginning, with a status and code. -/
def State.skipNode (s : State) (g m : Nat) (o : Nat × Nat × Word) : State :=
  match fget s.graphs g with
  | none => s
  | some x =>
    match x.nodes[m]? with
    | none => s
    | some z => (s.reportCtr x.part (leAt z.1 48 8) o.1 o.2.1 o.2.2).nodeDone g m o

/-- A waiting node that a cancel reaches: it is marked, and completes CANCELLED (R24). -/
def State.cancelNode (s : State) (g m : Nat) : State :=
  match (fget s.graphs g).bind fun x => (x.nodes[m]?).map fun z => (x.part, leAt z.1 48 8) with
  | some (part, ctr) => s.cancelled part ctr fun s => s.skipNode g m (2, 0, 0)
  | none => s

/-- GRAPH_NODE_BEGIN: node `m` of the graph that item `n` of a queue set up begins once its predecessors are all OK; it
completes FAILED(DEP) as soon as one is not (R350). A node whose identifier a live launch holds completes
FAILED(MALFORMED) (R348), and one below a cancelled job CANCELLED (R24). -/
def execGraphNodeBegin (vf q n m : Nat) (s : State) : Res :=
  let k := qKey vf (q % 64)
  match (fget s.queues k).bind fun x => x.items.find? fun i => decide (i.n = n) && decide (i.state = .begun) && decide (iCmd i.bytes = 2) with
  | none => .next s
  | some i =>
    match fget s.graphs i.work with
    | none => .next s
    | some g =>
      match g.nodes[m]? with
      | none => .next s
      | some z =>
        let preds := (g.nodes.zipIdx).filter fun y => z.2.1.getLsbD y.2
        if z.2.2.2.1 ≠ 0 then .next s
        else if preds.any fun y => decide (y.1.2.2.2.1 = 3) then .next (s.skipNode i.work m (1, 0x07, 0))
        else if preds.all fun y => decide (y.1.2.2.2.1 = 2) then
          let s := s.openJob g.part (leAt z.1 56 8)
          if s.jobCancelled g.part (leAt z.1 56 8) then .next (s.cancelNode i.work m)
          else if s.launchNamed g.part (iIdent z.1) then .next (s.skipNode i.work m (1, 0x01, 0))
          else
          match s.launchCheck g.part z.1 with
          | .error c => .next (s.skipNode i.work m (1, c, 0))
          | .ok img =>
            let r := s.setUpLaunch g.part g.vf g.queue g.item (iPrio i.bytes) (some (i.work, m)) z.1 img none
            .next { r.2 with graphs := fmod r.2.graphs i.work fun g => g.setNode m 1 r.1 }
        else .next s

/-! ### WAIT, SIGNAL, QFENCE, NOP (R338, R350) -/

/-- A WAIT's word has reached its value. -/
def State.waitMet (s : State) (k : Nat) (i : Item) : Bool :=
  match s.t0Nat (s.queuePart k) (leAt i.bytes 24 8) 8 with
  | some v => decide (leAt i.bytes 32 8 ≤ v)
  | none => false

/-- WAIT: it begins, and completes at once where its word has reached VALUE already (R350). -/
def execWaitItem (vf q : Nat) (s : State) : Res :=
  beginItem (fun c => c == 3) vf q (fun k i s => if s.waitMet k i then s.finishItem k i.n 0 0 0 else s) s

/-- WAIT_COMPLETES: a begun WAIT of a queue completes once the word at ADDR holds at least VALUE (R350). -/
def execWaitCompletes (vf q : Nat) (s : State) : Res :=
  let k := qKey vf (q % 64)
  match (fget s.queues k).bind fun x => x.items.find? fun i =>
      decide (i.state = .begun) && decide (iCmd i.bytes = 3) && s.waitMet k i with
  | some i => .next (s.finishItem k i.n 0 0 0)
  | none => .next s

/-- SIGNAL: VALUE is added to the counter at its home as CADD adds, as a release at .M; it waits while the counter cannot be
reached (R165, R338, log 11). -/
def execSignalItem (vf q : Nat) (s : State) : Res :=
  beginItem (fun c => c == 4) vf q (fun k i s =>
    let part := s.queuePart k
    let a := leAt i.bytes 24 8
    if (s.t0 part a).isSome then
      (s.homeAtomic part a 8 0 [BitVec.ofNat 64 (leAt i.bytes 32 8)]).finishItem k i.n 0 0 0
    else s.modQueue k fun x => x.modItem i.n fun i => { i with state := .held }) s

/-- QFENCE: it begins after the item before it, and completes once every earlier item of its queue has (R350). -/
def execQfence (vf q : Nat) (s : State) : Res :=
  let k := qKey vf (q % 64)
  let early (s : State) (n : Nat) : Bool :=
    (((fget s.queues k).map Queue.items).getD []).all fun i => decide (n ≤ i.n) || decide (i.state = .done)
  match (fget s.queues k).bind fun x => x.items.find? fun i => decide (i.state = .begun) && decide (iCmd i.bytes = 7) with
  | some i => if early s i.n then .next (s.finishItem k i.n 0 0 0) else .next s
  | none => beginItem (fun c => c == 7) vf q (fun k i s => if early s i.n then s.finishItem k i.n 0 0 0 else s) s

/-- NOP completes at once; so does a packet of an unlisted command, FAILED(MALFORMED) (R348, R350). -/
def execNopItem (vf q : Nat) (s : State) : Res :=
  beginItem (fun c => c == 8 || c == 0 || decide (8 < c)) vf q (fun k i s => s.finishItem k i.n 0 0 0) s

/-! ### Cancel (R24) -/

/-- A cancel reaches a launch: its mark is set and its trusses stop (R24, R353, R442). -/
def State.cancelLaunch (s : State) (id : Nat) : State :=
  match fget s.launches id with
  | none => s
  | some l =>
    let s := { s with launches := fput s.launches id { l with cancel := true } }
    let s := s.markCtr l.part l.ctr
    (s.stopLaunch id).settleLaunch id

/-- A cancel reaches a graph: nodes not begun complete CANCELLED, the launches of the others are cancelled (R24). -/
def State.cancelGraph (s : State) (id : Nat) : State :=
  match fget s.graphs id with
  | none => s
  | some g =>
    let s := { s with graphs := fput s.graphs id { g with cancel := true } }
    let s := s.markCtr g.part g.ctr
    (g.nodes.zipIdx).foldl (fun s z =>
      if z.1.2.2.2.1 = 0 then s.cancelNode id z.2
      else if z.1.2.2.2.1 = 1 then s.cancelLaunch z.1.2.2.2.2 else s) s

/-- The launches and graphs that take part in a job are cancelled: what stands below a job or one of its phases (R23,
R24, R359). -/
def State.cancelBelow (s : State) (part job : Nat) : State :=
  let names (g : Graph) : Bool := g.nodes.any fun z => leAt z.1 56 8 == job
  let gs := (s.graphs.filter fun z => z.2.part == part && names z.2).map Prod.fst
  let s := gs.foldl State.cancelGraph s
  let ls := (s.launches.filter fun z => z.2.part == part && z.2.job == job && z.2.graph.isNone).map Prod.fst
  ls.foldl State.cancelLaunch s

/-- A LAUNCH item, or a GRAPH item by one of its nodes, names a job. -/
def State.namesJob (s : State) (part job : Nat) (i : Item) : Bool :=
  match iCmd i.bytes with
  | 1 => leAt i.bytes 56 8 == job
  | 2 => ((s.t0Read part (leAt i.bytes 24 8) (32 * leAt i.bytes 10 2)).map (pieces 32 (leAt i.bytes 10 2))).any fun l =>
      l.any fun e => (s.t0Read part (leAt e 0 8) 64).any fun b => leAt b 56 8 == job
  | _ => false

/-- An item of a queue at a level holds an identifier: a launch, graph or phase by its TAG; of a job, by its block's
address, the items that name the block (R167, R348; log 30). -/
def State.levelHit (s : State) (part level ident : Nat) (i : Item) : Bool :=
  match level with
  | 1 => decide (iCmd i.bytes = 1) && decide (iIdent i.bytes = ident)
  | 2 => decide (iCmd i.bytes = 2) && decide (iIdent i.bytes = ident)
  | 3 => decide (iCmd i.bytes = 5) && decide (iIdent i.bytes = ident)
  | _ => s.namesJob part ident i || (decide (iCmd i.bytes = 5) && decide (leAt i.bytes 24 8 = ident))

/-- The items that a cancel marks before they begin, with the PHASE commands that wait for a phase it cancels: the mark
reaches a counter block at once, and they complete CANCELLED in queue order (R24, R352). -/
def State.cancelQueued (s : State) (part : Nat) (hit : Item → Bool) : State :=
  ((s.queues.map Prod.fst).filter fun k => s.queuePart k == part).foldl (fun s k =>
    let items := ((fget s.queues k).map Queue.items).getD []
    let held := items.filter fun i => decide (i.state = .held) && hit i
    let s := held.foldl (fun s i => s.markCtr part (iCtr i.bytes)) s
    let mark (i : Item) : Item := if i.state = .held ∧ hit i = true then { i with cancel := true } else i
    let s := s.modQueue k fun x => { x with items := x.items.map mark }
    let begun := items.filter fun i => decide (iCmd i.bytes = 5) && decide (i.state = .begun) && hit i
    (begun.foldl (fun s i => s.doneItem k i.n 2 0 0) s).settle k) s

/-- CANCEL of a level and identifier of a partition: every live item that holds them and what stands below it, begun or
not (R24, R167, R350). A phase is named by a PHASE command that waits for it, and its mark reaches the graphs and
launches that take part in it; a job is named by the address of its block (log 30). -/
def State.cancelItems (s : State) (part level ident : Nat) : State :=
  match level with
  | 1 =>
    let s := s.cancelQueued part (s.levelHit part 1 ident)
    let s := ((s.launches.filter fun z => z.2.part == part && z.2.ident.toNat == ident).map Prod.fst).foldl State.cancelLaunch s
    -- Nodes of graphs that have not begun.
    (s.graphs.filter fun z => z.2.part == part).foldl (fun s z => (z.2.nodes.zipIdx).foldl (fun s n =>
      if n.1.2.2.2.1 = 0 ∧ iIdent n.1.1 = ident then s.cancelNode z.1 n.2 else s) s) s
  | 2 =>
    let s := s.cancelQueued part (s.levelHit part 2 ident)
    ((s.graphs.filter fun z => z.2.part == part && z.2.ident.toNat == ident).map Prod.fst).foldl State.cancelGraph s
  | 3 =>
    let waits := (s.queues.filter fun z => s.queuePart z.1 == part).flatMap fun z =>
      z.2.items.filter fun i => decide (i.state = .begun) && s.levelHit part 3 ident i
    let s := (waits.map fun i => leAt i.bytes 24 8).foldl (fun s job =>
      -- Launches and graphs that would take part in the phase and have not begun complete CANCELLED too.
      let s := (s.modJob part job fun j => { j with phaseCancel := true }).cancelQueued part (s.namesJob part job)
      (s.cancelBelow part job).settleJob part job) s
    s.cancelQueued part (s.levelHit part 3 ident)
  | 4 =>
    match s.jobOf part ident with
    | some j =>
      if j.status.isSome then s
      else 
        let s := (s.modJob part ident fun j => { j with cancel := true }).cancelQueued part (s.levelHit part 4 ident)
        (s.cancelBelow part ident).settleJob part ident
    | none => s
  | _ => s

/-- CANCEL: the marks are set, and it completes OK whether or not an item matched (R350). -/
def execCancelCommand (vf q : Nat) (s : State) : Res :=
  beginItem (fun c => c == 6) vf q (fun k i s =>
    let t := leAt i.bytes 24 8
    (s.cancelItems (s.queuePart k) (t / 2 ^ 60) (t % 2 ^ 60)).finishItem k i.n 0 0 0) s

/-! ### Phases (R359) -/

/-- PHASE as a command: it arrives as it begins, and completes when the phase ends (R359). -/
def execPhaseCommand (vf q : Nat) (s : State) : Res :=
  beginItem (fun c => c == 5) vf q (fun k i s =>
    let part := s.queuePart k
    let job := leAt i.bytes 24 8
    let s := s.openJob part job
    if job = 0 ∨ s.jobWord part job 16 ≠ leAt i.bytes 32 8 then s.finishItem k i.n 1 0x01 0
    else
      if s.jobCancelled part job then s.finishItem k i.n 2 0 0
      else
      match s.arrive1 part job [] with
      | some s => s
      | none => s.finishItem k i.n 1 0x01 0) s

/-- PHASE_END: a phase ends once NPART participants have arrived and every send before an arrival is acknowledged; the
block is updated, and the participants leave (R331, R359). One that a cancel has reached ends when nothing of it is left
(R24). -/
def execPhaseEnd (pid : Nat) (job : BitVec 64) (s : State) : Res :=
  let job := job.toNat
  let sends : Bool := (s.spans.any fun z => z.2.any fun k => k.pkt.part == pid)
    || ((s.jobOf pid job).map fun j => j.sends.any s.sendPending).getD false
  let full : Bool := decide (s.jobWord pid job 24 = s.jobWord pid job 8) && decide (s.jobWord pid job 8 ≠ 0)
  if job = 0 ∨ s.jobWord pid job 32 = 0 ∨ sends = true then .next s
  else if full then .next (s.endPhases pid job 1)
  else .next (s.settleJob pid job)

end Sys2Proof.Machine
end

