-- ==== Sys2Proof/Machine/ElemPlans.lean ====
section
/-! DEFINITION. The plan of each element operation by opcode, for the counters of R269 and the watchdog of R271. -/

namespace Sys2Proof.Machine

/-- When and what the operation of an opcode fires; an opcode that no operation has never fires (R249). -/
def planOf (opc : Nat) : Page → Nat → Plan :=
  match opc with
  | 0x01 => elemAddPlan
  | 0x02 => elemSubPlan
  | 0x03 => elemMulPlan
  | 0x04 => fmaPlan
  | 0x05 => macPlan
  | 0x06 => elemAbsPlan
  | 0x07 => negPlan
  | 0x08 => elemMinPlan
  | 0x09 => elemMaxPlan
  | 0x0A => minpPlan
  | 0x0B => maxpPlan
  | 0x10 => ceqPlan
  | 0x11 => cnePlan
  | 0x12 => cltPlan
  | 0x13 => clePlan
  | 0x14 => elemSelPlan
  | 0x18 => elemAndPlan
  | 0x19 => elemOrPlan
  | 0x1A => elemXorPlan
  | 0x1B => elemNotPlan
  | 0x1C => elemShlPlan
  | 0x1D => elemShrPlan
  | 0x1E => elemSraPlan
  | 0x20 => rshrPlan
  | 0x21 => reqPlan
  | 0x22 => clmpPlan
  | 0x30 => passPlan
  | 0x31 => bcstPlan
  | 0x32 => permPlan
  | 0x33 => slidePlan
  | 0x40 => rcpPlan
  | 0x41 => rsqPlan
  | 0x42 => sqrtPlan
  | 0x43 => exp2Plan
  | 0x44 => log2Plan
  | 0x45 => tanhPlan
  | 0x48 => cvtFirePlan
  | 0x49 => bqPlan
  | 0x4A => dqPlan
  | 0x4B => packPlan
  | 0x4C => unpkPlan
  | 0x50 => rsumPlan
  | 0x51 => rmaxPlan
  | 0x52 => rminPlan
  | 0x53 => accFirePlan
  | 0x60 => matrixPlan
  | 0x61 => matrixPlan
  | 0x62 => matrixPlan
  | 0x68 => amulPlan
  | 0x69 => matrixPlan
  | 0x6A => aconjPlan
  | 0x6B => anormPlan
  | 0x6C => ainvPlan
  | 0x80 => filtPlan
  | 0x81 => cmptPlan
  | 0x88 => cntPlan
  | 0x89 => mrkPlan
  | 0x8A => stripPlan
  | 0x90 => zipPlan
  | 0x91 => unzpPlan
  | 0xA0 => pldPlan
  | 0xA1 => pstPlan
  | 0xA2 => lbufPlan
  | 0xA3 => tflipPlan
  | 0xA8 => memPlan
  | 0xA9 => memPlan
  | 0xAA => memPlan
  | 0xB0 => cmdPlan
  | _ => fun _ _ => .wait false

end Sys2Proof.Machine
end

