-- ==== Sys2Proof/Machine/Moves.lean ====
section
/-! DEFINITION. A move of a truss after its HOLD: QUIESCE, COPY, REBIND and RELEASE, and its abandonment (R385 to
R389). -/

namespace Sys2Proof.Machine

/-! ### QUIESCE (R385) -/

/-- An event answers the state it was given: it has nothing to do. -/
def still (r : Res) (s : State) : Bool :=
  match r with
  | .next t => decide (t = s)
  | _ => false

/-- The firing of whatever operation a site's element holds. -/
def fireSite (p e : Nat) (s : State) : Res :=
  let opc := (s.elem p e).opc
  match opc with
  | 0xA8 => execMld p e s
  | 0xA9 => execMst p e s
  | 0xAA => execMamo p e s
  | 0xB0 => execCmd p e s
  | _ => fireOp opc (planOf opc) p e s

/-- Nothing at a site can fire, pass a token or take one, and no token of it is over a seam, in a result queue or in a
memory access (R385). -/
def State.siteStill (s : State) (p e : Nat) : Bool :=
  let x := s.elem p e
  ([1, 2, 3, 4, 5, 6, 7, 13, 14, 15].all fun src => still (execTokenHop p e src s) s)
    && still (execSteer p e s) s && still (execMerge p e s) s && still (execCarry p e s) s && still (execMitre p e s) s
    && ((List.range 4).all fun k =>
      still (execScaleToken p e k s) s && still (execCommandTokenAtElement p e k s) s && still (execConfigToken p e k s) s)
    && still (fireSite p e s) s
    && ([1, 2, 3, 4].all fun d =>
      match neighbour p e d with
      | some (q, f) => decide (hopFromSide q f (facing d - 31) s = s)
      | none => true)
    && x.seam.isEmpty && x.q0.isEmpty && x.q1.isEmpty && x.mem.isEmpty

/-- A requester waits for nothing. -/
def Requester.quiet (r : Requester) : Bool := r.win.isEmpty && r.kept.isEmpty && r.unsent.isEmpty

/-- A port moves nothing and waits for nothing (R385). -/
def State.portStill (s : State) (p k : Nat) : Bool :=
  (s.req (portAgent p k)).quiet && decide (k < 4 ∨ still (execStorePortAccept p k s) s = true)

/-- A core waits at KERF, has ended, or does not run (R385). -/
def Core.atKerf (c : Core) : Bool := decide (c.run ≠ .running) || decide (c.wait = some .kerf)

/-- A command that has, or may yet prove to have, a plate side. -/
def EngCmd.plated (c : EngCmd) : Bool := c.bytes.isEmpty || gSplate c.op c.bytes || gDplate c.op c.bytes

/-- QUIESCE has been reached (R385). -/
def State.quiescent (s : State) (t : Nat) (x : Truss) : Bool :=
  ((s.heldPages t x).all fun p =>
    (s.page p).core.atKerf && ((List.range 8).all fun k => s.portStill p k)
      && ((List.range 64).all fun e => s.siteStill p e && (s.req (elemAgent p e)).quiet))
    && s.engines.all fun z => z.2.cmds.all fun c => !(decide (c.truss = t) && c.plated)

/-! ### COPY (R387) -/

/-- The move unit of a bay (R320). -/
def moverAgent (b : Nat) : AgentId := ⟨b, 0x1B8, 0⟩

/-- Blocks of the plate of a page: 12 MiB (R387). -/
def plateBlocks : Nat := 12 * 2 ^ 20 / 64

/-- Blocks that one MOVE packet carries: the spec does not say how a page is cut into packets (log 31). -/
def moveBlocks : Nat := 1 + Config.moveCut % 4

/-- Block `n` of the plate of a page, site by site and tile by tile. -/
def State.plateBlock (s : State) (p n : Nat) : BlockW :=
  let b := ((s.page p).tile (n / 3072) (n / 64 % 48)).block (n % 64)
  ⟨.hbm 0, b.1, b.2, fullMask, 1⟩

/-- What a step of copying a page has come to. -/
inductive CopyX where
  /-- Nothing can be done now. -/
  | wait
  /-- A packet has been sent: the blocks sent so far. -/
  | sent (n : Nat) (s : State)
  /-- Every packet has been acknowledged, and the page counted. -/
  | done (s : State)

/-- The next step of the copying of a page's plate to another page as MOVE traffic of the partition, of which `n` blocks have
been sent: another packet goes while fewer than 32 are retained, and the page is copied once all are acknowledged (R325,
R326, R387). The places take what the packets carry when the copying is over, for nothing can read them before. -/
def State.copyPlate (s : State) (part p q n : Nat) : CopyX :=
  let a := moverAgent (bayOf p)
  let out := s.packets.filter fun z => z.2.op == .move && z.2.src == a && !z.2.metered
  if n < plateBlocks then
    if 32 ≤ (s.keptOf a).length + out.length then .wait
    else
      let r := (s.req a).takeTag
      let k : Packet := { Packet.blank .move part a (moverAgent (bayOf q)) 2 with
        tag := r.1, len := 64 * moveBlocks, life := r.2.life,
        blocks := (List.range moveBlocks).map fun j => s.plateBlock p (n + j) }
      .sent (n + moveBlocks) ((s.setReq a r.2).send k)
  else if (s.keptOf a).isEmpty && out.isEmpty then .done (s.meter part 12 (12 * 2 ^ 20))
  else .wait

/-- The order in which pages are copied: by destination page column and then page row, ascending toward the west or
north, else descending (R387). -/
def copyOrder (row col : Nat) (x : Truss) : List Nat :=
  let up := (List.range x.w).flatMap fun c => (List.range x.h).map fun r => r * x.w + c
  if col < x.col ∨ (col = x.col ∧ row < x.row) then up else up.reverse

/-- COPY begins: the destination pages are the truss's, and their routers' PART is the partition (R382, R385). -/
def State.beginCopy (s : State) (m : Move) (x : Truss) : State :=
  let s := ((m.dest x).filter fun p => !x.pages.contains p).foldl (fun s p =>
    s.setPage p ({ Page.reset with status := .used, truss := m.truss }.setPart x.part)) s
  { s with move := some { m with state := 1, left := copyOrder m.row m.col x, sent := 0 } }

/-- A condition of R388 holds, or its cores have all ended (R125): a move of the truss that is not in COPY is abandoned. -/
def State.moveHit (s : State) (m : Move) (x : Truss) : Bool :=
  decide (m.since + oneMs < s.now) || decide (x.state ≠ .running) || decide (x.cores = 0) || s.pinnedNow m.truss x

/-- The page of a truss at page index `i`, with that of a rectangle of its size. -/
def Truss.pagePair (x : Truss) (new : List Nat) (i : Nat) : Nat × Nat := ((x.pages[i]?).getD 0, (new[i]?).getD 0)

/-- MOVE_COPY: once the truss is quiescent COPY begins; then each event sends one more MOVE packet of the page being copied,
or ends that page, and 12 MiB are counted for it (R385, R387, R393). The copied contents are seen at their new place from RELEASE on, and nothing can read them
before (R389). -/
def execMoveCopy (s : State) : Res :=
  match s.move with
  | none => .next s
  | some m =>
    match fget s.trusses m.truss with
    | none => .next s
    | some x =>
      if m.state = 0 then
        if !s.moveHit m x && s.quiescent m.truss x && ((m.dest x).all fun p => s.pageFree p || x.pages.contains p) then
          .next (s.beginCopy m x)
        else .next s
      else
        match m.left with
        | [] => .next s
        | i :: rest =>
          let z := x.pagePair (m.dest x) i
          match s.copyPlate x.part z.1 z.2 m.sent with
          | .wait => .next s
          | .sent n s => .next { s with move := some { m with sent := n } }
          | .done s => .next { s with move := some { m with left := rest, sent := 0 } }

/-! ### REBIND and RELEASE (R385, R386) -/

/-- A page as it stands at its new place: the L1I and loop buffer are refilled from memory, hot-panel entries are
cleared, kerfs pass tokens again and a core that waits at KERF goes on, unless it is to stay there (R170, R386). -/
def Page.moved (stay : Bool) (pg : Page) : Page :=
  { pg with core := { pg.core.offKerf stay with l1i := [], lbuf := [] },
            ports := pg.ports.map fun y => { y with hot := [], untracked := 0 },
            elems := pg.elems.map fun (z : Nat × Elem) => (z.1, { z.2 with closed := false }) }

/-- Where a page of a moved truss has gone. -/
def movedPage (old new : List Nat) (p : Nat) : Nat :=
  match (old.zip new).find? fun z => z.1 == p with
  | some z => z.2
  | none => p

/-- What names a page of the truss from outside it names its new page: engine commands, contributions, and the current
core. -/
def State.repoint (s : State) (t : Nat) (old new : List Nat) : State :=
  let f := movedPage old new
  let cmd (c : EngCmd) : EngCmd := if c.truss = t then { c with page := f c.page } else c
  let eng (z : Nat × Engine) : Nat × Engine := (z.1, { z.2 with cmds := z.2.cmds.map cmd })
  { s with engines := s.engines.map eng,
           groups := s.groups.map fun z => { z with page := f z.page },
           cur := f s.cur }

/-- MOVE_RELEASE: after every page is copied, the truss stands at its new pages: shims are recomputed, its cores go on
after KERF, MOVES counts, and the old pages are scrubbed (R385, R386). -/
def execMoveRelease (s : State) : Res :=
  match s.move with
  | none => .next s
  | some m =>
    match fget s.trusses m.truss with
    | none => .next s
    | some x =>
      if m.state = 0 ∨ !m.left.isEmpty then .next s
      else
        let old := x.pages
        let new := m.dest x
        let contents := old.map fun p => (s.page p).moved (s.yielded m.truss)
        let s := (old.filter fun p => !new.contains p).foldl (fun s p => s.setPage p ((s.page p).scrubbing s.now)) s
        let s := (new.zip contents).foldl (fun s z => s.setPage z.1 (z.2.setPart x.part)) s
        let s := s.repoint m.truss old new
        let x := { s.afterMove m.truss x with row := m.row, col := m.col, since := s.now }
        let s := { s with move := none, trusses := fput s.trusses m.truss x }
        let s := match s.launchOf x with
          | some l => s.setShims x l.img
          | none => s
        .next (s.modPart x.part fun p => { p with moves := p.moves + 1 })

/-! ### Abandonment (R388) -/

/-- MOVE_ABANDON: a move that has not reached QUIESCE within 1 ms, whose truss has become pinned, or that a cancel has
reached, ends with nothing copied (R388). -/
def execMoveAbandon (s : State) : Res :=
  match s.move with
  | none => .next s
  | some m =>
    match fget s.trusses m.truss with
    | none => .next { s with move := none }
    | some x =>
      if m.state = 0 ∧ s.moveHit m x = true then .next s.dropMove else .next s

end Sys2Proof.Machine
end

