-- ==== Sys2Proof/Machine/Seals.lean ====
section
/-! DEFINITION. SHA-384, the seal chain and the SPDM measurements (R393 to R396). -/

namespace Sys2Proof.Machine

/-! ### SHA-384 -/

/-- The greatest `r` below `2 ^ bits` more than `acc` whose `k`-th power is at most `x`, one bit at a time. -/
def rootFrom (k x : Nat) : Nat → Nat → Nat
  | 0, acc => acc
  | b + 1, acc => rootFrom k x b (if (acc + 2 ^ b) ^ k ≤ x then acc + 2 ^ b else acc)

/-- The primes below 410, the 80 that SHA-384 takes its constants from. -/
def shaPrimes : List Nat :=
  (List.range 410).filter fun p => 2 ≤ p && (List.range 21).all fun d => d < 2 || p ≤ d || p % d != 0

/-- The first 64 bits of the fraction of the `k`-th root of `p`. -/
def rootFraction (k p : Nat) : Word := BitVec.ofNat 64 (rootFrom k (p * 2 ^ (64 * k)) 72 0)

/-- The round constants of SHA-384: the cube roots of the first 80 primes. -/
def shaK : List Word := shaPrimes.map (rootFraction 3)

/-- The initial hash words of SHA-384: the square roots of the ninth to the sixteenth prime. -/
def shaH0 : List Word := ((shaPrimes.drop 8).take 8).map (rootFraction 2)

/-- Three rotations of one word, folded by exclusive or. -/
def shaMix (r1 r2 r3 : Nat) (x : Word) : Word :=
  [r1, r2, r3].foldl (fun acc r => acc ^^^ x.rotateRight r) 0

/-- Two rotations of one word and a shift, folded by exclusive or. -/
def shaStir (r1 r2 sh : Nat) (x : Word) : Word :=
  [r1, r2].foldl (fun acc r => acc ^^^ x.rotateRight r) (x >>> sh)

/-- A message padded to whole blocks of 128 bytes: a one bit, zeros, and its length in bits, most significant first. -/
def shaPad (l : List Byte) : List Byte :=
  l ++ 0x80 :: (List.replicate ((239 - l.length % 128) % 128) 0 ++ (toBytes 16 (8 * l.length)).reverse)

/-- The first `n` words of a message, most significant byte first. -/
def shaWords (n : Nat) (l : List Byte) : List Word :=
  (List.range n).map fun k => BitVec.ofNat 64 (ofBytes ((l.drop (8 * k)).take 8).reverse)

/-- The schedule of a block extended by `n` words: each from those 2, 7, 15 and 16 before it. -/
def shaExtend : Nat → List Word → List Word
  | 0, w => w
  | n + 1, w =>
    let back (k : Nat) : Word := w.getD (w.length - k) 0
    shaExtend n (w ++ [back 16 + shaStir 1 8 7 (back 15) + back 7 + shaStir 19 61 6 (back 2)])

/-- One round on the eight working words, with the sum of its constant and its schedule word. -/
def shaRound (v : List Word) (kw : Word) : List Word :=
  let x (k : Nat) : Word := v.getD k 0
  let up := kw + x 7 + shaMix 14 18 41 (x 4) + (x 6 ^^^ (x 4 &&& (x 5 ^^^ x 6)))
  let down := shaMix 28 34 39 (x 0) + ((x 0 &&& x 1) ||| (x 2 &&& (x 0 ||| x 1)))
  (up + down) :: v.take 3 ++ (x 3 + up) :: (v.drop 4).take 3

/-- Folds the first `n` blocks of a message into the hash words. -/
def shaBlocks : Nat → List Byte → List Word → List Word
  | 0, _, h => h
  | n + 1, l, h =>
    let v := (List.zipWith (· + ·) shaK (shaExtend 64 (shaWords 16 l))).foldl shaRound h
    shaBlocks n (l.drop 128) (List.zipWith (· + ·) h v)

/-- SHA-384 of a message: 48 bytes. -/
def sha384 (l : List Byte) : List Byte :=
  let m := shaPad l
  ((shaBlocks (m.length / 128) m shaH0).take 6).flatMap fun (x : Word) => (toBytes 8 x.toNat).reverse

/-! ### The chain (R394, R395) -/

/-- The 6 144 bytes of a record's meters. -/
def meterBytes (m : FMap Word) : List Byte := (List.range 768).flatMap fun k => toBytes 8 (fgetD m k 0).toNat

/-- The 6 216 bytes of seal record `n` (R395). -/
def SealRec.bytes (r : SealRec) (n : Nat) : List Byte :=
  toBytes 8 n ++ toBytes 8 r.time.toNat ++ toBytes 4 r.kind ++ toBytes 4 r.info ++ r.prev ++ meterBytes r.meters

/-- Appends a record with the values of all meters now; the latest 4 096 are kept (R394, R395). -/
def State.appendSeal (s : State) (kind info : Nat) : State :=
  let c := s.chain
  let r : SealRec := ⟨s.cycle, kind, info, c.head, s.meters⟩
  let old := if 4096 ≤ c.next then fdel c.records (c.next - 4096) else c.records
  { s with chain := { c with next := c.next + 1, head := sha384 (r.bytes c.next), records := fput old c.next r } }

/-- The seal interval in cc (R373). -/
def State.sealInterval (s : State) : Nat := s.pf.sealper.toNat * 1600000

/-- SEAL: every SEALPER ms a record of KIND 0 is appended (R394). -/
def execSealSummary (s : State) : Res :=
  if s.now < s.chain.since + s.sealInterval then .next s
  else
    let s := s.appendSeal 0 0
    .next { s with chain := { s.chain with since := s.chain.since + s.sealInterval } }

/-- SEALDATA: the 8 bytes at SEALOFF of record SEALSEL, zero if it is not retained (R373). -/
def State.sealData (s : State) : Word :=
  match fget s.chain.records s.pf.sealsel.toNat with
  | some r => BitVec.ofNat 64 (leAt (r.bytes s.pf.sealsel.toNat) s.pf.sealoff.toNat 8)
  | none => 0

/-! ### Measurements (R396) -/

/-- The value of a measurement index, if it has one. -/
def State.measurement (s : State) (idx : Nat) : Option (List Byte) :=
  let n := s.chain.next - 1
  let r := fgetD s.chain.records n ⟨0, 0, 0, [], []⟩
  if 1 ≤ idx ∧ idx ≤ 15 then some (Config.firmwareMeasurement s.start.colds idx)
  else if idx = 0x3F then some (toBytes 8 n ++ toBytes 8 r.time.toNat ++ s.chain.head)
  else if 0x40 ≤ idx ∧ idx < 0x70 then
    let p := idx - 0x40
    some (toBytes 8 n ++ toBytes 8 r.time.toNat
      ++ ((List.range 16).flatMap fun m => toBytes 8 (fgetD r.meters (16 * p + m) 0).toNat) ++ s.chain.head)
  else none

/-- GET_MEASUREMENTS of one index, signed when the request asks for it (R396). -/
def execGetMeasurements (idx : Nat) (sign : Bool) (s : State) : Res :=
  if !s.start.ready then .next s
  else
    let a : SpdmAnswer := match s.measurement idx with
      | none => .invalid
      | some v => .value v (if sign then some (Config.attestationSignature s.start.colds v) else none)
    .next { s with spdm := a :: s.spdm }

end Sys2Proof.Machine
end

