-- ==== Sys2Proof/Machine/Worlds.lean ====
section
/-! DEFINITION. Worlds: the steps that a core makes at a kerf, FORKW and the placing of its copies, the commit of a
rival and the end of a loser, WYIELD, CHOOSE and VPABORT (R159, R166, R168 to R171, R432 to R446), and TRUSS_END. -/

namespace Sys2Proof.Machine

/-! ### The steps of a kerf (R159) -/

/-- A core has a command outstanding with a plate side. -/
def State.plateCmds (s : State) (p : Nat) : Bool :=
  s.engines.any fun z => z.2.cmds.any fun c => c.page == p && c.ticket.isSome && c.plated

/-- Steps 1 to 3 of KERF in the current core: it waits for its accesses and for its commands with a plate side, writes
back its L1D as WBR.M and invalidates it (R159). -/
def kerfSteps (s : State) : Go Unit :=
  if !s.completeAtScope s.me 2 then .stop (waitFor (.writes 2) s.core.stage s)
  else if s.plateCmds s.cur then .stop (waitFor .plateCmds s.core.stage s)
  else
    match release 2 s with
    | .stop r => .stop r
    | .ok _ s => .ok () (s.setCore { s.core with l1d := [] })

/-- A request of the placer or scheduler reaches a truss: its cores wake from WFE (R179). -/
def State.wakeTruss (s : State) (t : Nat) (x : Truss) : State :=
  (s.heldPages t x).foldl (fun s p => s.modCore p fun c => { c with event := true }) s

/-! ### Forks -/

/-- The trusses that fork together: the launch's, or those of the rival (R168). -/
def State.forkGroup (s : State) (t : Nat) (x : Truss) : List Nat :=
  match s.rivalOf t with
  | some (_, _, _, r) => r.trusses
  | none => ((s.trussesOf x.launch).filter fun z => z.2.fork.isNone).map Prod.fst

/-- The fork that a group of trusses has begun and not yet carried out. -/
def State.openFork (s : State) (group : List Nat) : Option (Nat × Fork) :=
  s.forks.find? fun z => z.2.rivals.isEmpty && z.2.trusses == group

/-- FORKW has its result in the core of a page, which completes it at its next turn (R168). -/
def State.giveFork (s : State) (v : Word) (p : Nat) : State :=
  s.modCore p fun c => { c.resume 1 with scratch := [v] }

/-- A fork ends without happening: every core that waits in it receives a value (R168). -/
def State.refuseFork (s : State) (f : Nat) (k : Fork) (v : Word) : State :=
  k.arrived.foldl (fun s z => s.giveFork v z.1) { s with forks := fdel s.forks f }

/-- Cores that disagree on n all trap with WORLD (R168). -/
def State.trapFork (s : State) (f : Nat) (k : Fork) : State :=
  k.arrived.foldl (fun s z =>
    let t := { s with cur := z.1 }
    { takeTrap causeWorld t.core.pc 0 t with cur := s.cur }) { s with forks := fdel s.forks f }

/-- View tags of a partition that are free (R436). -/
def State.freeTags (s : State) (part : Nat) : List Nat :=
  ((List.range 63).map fun k => k + 1).filter fun v => (fget (s.part part).views v).isNone

/-- Every core of the group has arrived: they agree on n, n tags are free and are taken, and the placing of the copies
begins, with its time limit (R168, R432, R436). -/
def State.beginFork (s : State) (f : Nat) (k : Fork) (part timeout : Nat) : State :=
  if k.arrived.any fun z => z.2 != k.n then s.trapFork f k
  else
    let free := s.freeTags part
    if free.length < k.n then s.refuseFork f k (BitVec.ofInt 64 (-2))
    else
      let tags := free.take k.n
      let v : View := ⟨k.view, [], [], k.launch, false, none⟩
      let s := s.modPart part fun p => { p with views := tags.foldl (fun m t => fput m t v) p.views }
      { s with forks := fput s.forks f { k with tags := tags, deadline := s.now + Nat.min timeout 1000000 * 1600 } }

/-- A core arrives at FORKW (R168). -/
def joinFork (a : Reg) (n : Nat) (s : State) : Res :=
  match s.trussOf s.cur with
  | none => .next s
  | some x =>
    let t := s.curPage.truss
    let group := s.forkGroup t x
    let c := s.core
    let s := s.setCore { c with wait := some .fork, stage := 0 }
    let new : Fork := ⟨x.launch, n, [], 0, group, x.view, x.depth, x.world, x.fork, [], [], [], (0, 0)⟩
    let r : Nat × Fork × State := match s.openFork group with
      | some (f, k) => (f, k, s)
      | none => (s.fresh, new, group.foldl (fun s t =>
          match fget s.trusses t with
          | some x => s.wakeTruss t x
          | none => s) { s with fresh := s.fresh + 1 })
    let k : Fork := { r.2.1 with arrived := r.2.1.arrived ++ [(s.cur, n)] }
    let s := r.2.2
    let s := { s with forks := fput s.forks r.1 k }
    -- Every core of every truss of the launch, one that has ended and will never arrive included.
    let cores : Nat := ((s.launchOf x).map fun l => l.ntruss * (l.img.h * l.img.w)).getD (x.h * x.w)
    .next (if k.arrived.length = cores then s.beginFork r.1 k x.part (c.rd a).toNat else s)

/-- FORKW (R168, R432): the core arrives as at a kerf and waits; once the fork has happened or failed, gD receives what it
came to. -/
def execForkw (d a : Reg) (n : BitVec 15) (s : State) : Res :=
  if n.toNat < 2 ∨ 8 < n.toNat then trapWord (.forkw d a n) s
  else if s.core.stage = 1 then
    .next (complete (s.core.wr d ((s.core.scratch.head?).getD 0) (s.core.tainted a)) s)
  else if 3 ≤ s.curDepth then trapHere causeWorld 0 s
  else (kerfSteps s).bind fun _ s => joinFork a n.toNat s

/-! ### Placing the copies (R365, R432) -/

/-- The copies that a fork asks for: rival and original truss, in the order of placing. -/
def Fork.wanted (k : Fork) : List (Nat × Nat) :=
  (List.range (k.n - 1)).flatMap fun j => k.trusses.map fun t => (j + 1, t)

/-- A copy of a truss is placed at a position: its pages are taken (R365, R432). -/
def State.placeCopy (s : State) (f : Nat) (k : Fork) (x : Truss) (rival row col : Nat) : State :=
  let tid := s.fresh
  let y := { x with row := row, col := col, state := .forking, view := (k.tags[rival]?).getD 0, world := rival,
                    depth := k.depth + 1, fork := some f, since := s.now, placedAt := s.now, aborted := none, request := false,
                    stallFc := 0, armed := true, saved := [] }
  let s := { s with trusses := fput s.trusses tid y, fresh := tid + 1,
                    forks := fput s.forks f { k with made := k.made ++ [tid] },
                    launches := fmod s.launches k.launch fun l => { l with compacted := false } }
  (y.pages.zipIdx).foldl (fun s z =>
    s.setPage z.1 ({ Page.reset with status := .used, truss := tid, ix := z.2 }.setPart x.part)) s

/-- A stream of a copy goes on at its walk position: what was read ahead is read again. -/
def Stream.again (x : Stream) : Stream := { x with issued := x.pos, tags := [], draining := false }

/-- The statuses of a copied core's tickets: those of commands outstanding are free values, for the copy has no such
command and the spec gives them none (log 2). -/
def freeTickets : List (Nat × Nat) → State → FMap Nat × State
  | [], s => ([], s)
  | (n, st) :: t, s =>
    if st = 0 then
      let v := s.freeVal
      let r := freeTickets t v.2
      ((n, v.1.toNat % 6) :: r.1, r.2)
    else
      let r := freeTickets t s
      ((n, st) :: r.1, r.2)

/-- The page of a copy takes the original's contents (R432). -/
def State.clonePage (s : State) (tid : Nat) (part p q : Nat) : State :=
  let pg := s.page p
  let r := freeTickets pg.core.tickets s
  let core := { pg.core with l1d := [], l1i := [], lbuf := [], regionReads := [], tickets := r.1 }
  let port (y : Port) : Port :=
    { y with act := y.act.map Stream.again, pend := y.pend.map Stream.again, hot := [], untracked := 0, buf := [], failNext := false }
  let pg := { pg with truss := tid, core := core, ports := pg.ports.map port }.setPart part
  let s := r.2.setPage q pg
  pg.refs.foldl (fun s k => s.refSlot part k) s

/-- The links within a set of trusses, and those of its copy. -/
def State.cloneLinks (s : State) (old new : List Nat) : State :=
  let f (o : Option Nat) : Option Nat := o.bind fun t => ((old.zip new).find? fun z => z.1 == t).map Prod.snd
  (s.links.filter fun z => (f z.2.prod).isSome && (f z.2.cons).isSome).foldl (fun s z =>
    { s with links := fput s.links s.fresh { z.2 with prod := f z.2.prod, cons := f z.2.cons, reads := [] },
             fresh := s.fresh + 1 }) s

/-- Every element memory access of a truss has left its tokens. -/
def State.memDone (s : State) (t : Nat) : Bool :=
  match fget s.trusses t with
  | none => true
  | some x => (s.heldPages t x).all fun p => (s.page p).elems.all fun z => z.2.mem.isEmpty

/-- The copies of rival `j` of a fork, in the order of the originals. -/
def Fork.copies (k : Fork) (j : Nat) : List Nat :=
  if j = 0 then k.trusses else (k.made.drop ((j - 1) * k.trusses.length)).take k.trusses.length

/-- A truss becomes part of a rival. -/
def Truss.enter (x : Truss) (k : Fork) (f j : Nat) : Truss :=
  { x with state := .running, fork := some f, world := j, depth := k.depth + 1, view := (k.tags[j]?).getD 0 }

/-- The copies take the originals' contents, and the cores of every rival complete their FORKW (R168, R432). -/
def State.finishFork (s : State) (f : Nat) (k : Fork) (part : Nat) : State :=
  let pagesOf (s : State) (t : Nat) : List Nat := ((fget s.trusses t).map Truss.pages).getD []
  -- What a store port has gathered belongs to the time before the fork.
  let s := (k.trusses.flatMap (pagesOf s)).foldl (fun s p =>
    (List.range 4).foldl (fun s j => flushBuf p (4 + j) s) s) s
  let s := (List.range (k.n - 1)).foldl (fun s j =>
    let new := k.copies (j + 1)
    let s := (k.trusses.zip new).foldl (fun s z =>
      ((pagesOf s z.1).zip (pagesOf s z.2)).foldl (fun s q => s.clonePage z.2 part q.1 q.2) s) s
    s.cloneLinks k.trusses new) s
  let rivals := (List.range k.n).map fun j => (⟨k.copies j, (k.tags[j]?).getD 0, none, false, none, false, [], none⟩ : Rival)
  let s := { s with forks := fput s.forks f { k with rivals := rivals, arrived := [] } }
  (List.range k.n).foldl (fun s j =>
    let ts := k.copies j
    let s := { s with trusses := ts.foldl (fun m t => fmod m t fun x => x.enter k f j) s.trusses }
    let s := k.arrived.foldl (fun s z =>
      -- The core of the rival's truss at the place of the one that arrived.
      match (k.trusses.zip ts).findSome? fun y => ((pagesOf s y.1).zip (pagesOf s y.2)).find? fun q => q.1 == z.1 with
      | some q => s.giveFork (BitVec.ofNat 64 j) q.2
      | none => s) s
    match (k.trusses.head?).bind (fget s.trusses) with
    | some x => match s.launchOf x with
      | some l => ts.foldl (fun s t => match fget s.trusses t with
          | some y => s.setShims y l.img
          | none => s) s
      | none => s
    | none => s) s

/-- The pages of a fork's trusses and of their copies, in the order in which their plates are copied (R387, R432). -/
def State.copyList (s : State) (k : Fork) : List (Nat × Nat) :=
  (List.range (k.n - 1)).flatMap fun j => (k.trusses.zip (k.copies (j + 1))).flatMap fun z =>
    match fget s.trusses z.1, fget s.trusses z.2 with
    | some x, some y => (copyOrder y.row y.col x).map (x.pagePair y.pages)
    | _, _ => []

/-- PLACE for a fork: within its time the next copy is placed, or the placer compacts for it; after the last, the plates are
copied, page by page, and the fork happens once the element memory accesses under way have left their tokens (R168, R432, R446). -/
def State.placeFork (s : State) (f : Nat) (k : Fork) : State :=
  match fget s.launches k.launch with
  | none => s
  | some l =>
    if k.tags.isEmpty ∨ !k.rivals.isEmpty ∨ l.cancel ∨ l.reset ∨ k.trusses.any (fun t =>
        ((fget s.trusses t).map fun x => decide (x.state = .running)) != some true) then s
    else
      match k.wanted[k.made.length]? with
      | none =>
        match (s.copyList k)[k.copied.1]? with
        | none => if k.trusses.all s.memDone then s.finishFork f k l.part else s
        | some (p, q) =>
          match s.copyPlate l.part p q k.copied.2 with
          | .wait => s
          | .sent n s => { s with forks := fput s.forks f { k with copied := (k.copied.1, n) } }
          | .done s => { s with forks := fput s.forks f { k with copied := (k.copied.1 + 1, 0) } }
      | some (j, t) =>
        match (if k.deadline ≤ s.now then none else fget s.trusses t) with
        | none => s
        | some x =>
          match s.freeSpot x.part x.h x.w with
          | some (r, c) => s.placeCopy f k x j r c
          | none =>
            if (s.part x.part).lease < (s.usedPages x.part).length + x.h * x.w ∨ l.compacted = true then s
            else s.beginCompact x.part k.launch

/-- Copies placed for a fork that does not happen are given up, with its tags (R168). -/
def State.undoCopies (s : State) (part : Nat) (k : Fork) : State :=
  k.tags.foldl (fun s v => s.freeTag part v) (k.made.foldl State.tearTruss s)

/-- FORKW_TIMEOUT: the copies were not all placed in time (R168). -/
def execForkwTimeout (f : Nat) (s : State) : Res :=
  match fget s.forks f with
  | none => .next s
  | some k =>
    if k.tags.isEmpty ∨ !k.rivals.isEmpty ∨ s.now < k.deadline ∨ k.made.length = k.wanted.length then .next s
    else
      let part := ((fget s.launches k.launch).map Launch.part).getD 0x3F
      .next ((s.undoCopies part k).refuseFork f k (BitVec.ofInt 64 (-1)))

/-- PLACE: while no move is in progress, the compaction in progress takes its next step, or the next truss of a launch,
a saved truss, or the next copy of a fork is placed (R365, R385, R420, R432). -/
def execPlaceTruss (t : Nat) (s : State) : Res :=
  if s.move.isSome then .next s
  else if s.compact.isSome then .next s.stepCompact
  else
    match fget s.launches t with
    | some l => .next (s.placeLaunch t l)
    | none =>
      match fget s.trusses t with
      | some x => .next (if x.state = .saved then s.placeSaved t x else s)
      | none =>
        match fget s.forks t with
        | some k => .next (s.placeFork t k)
        | none => .next s

/-! ### The panels of a winner (R433, R441) -/

/-- The guest address of a panel's leaf entry, for a slot that is live. -/
def State.leafAt (s : State) (part slot panel : Nat) : Option Nat :=
  if slot ≠ 0 ∧ ((s.part part).slot slot).state ≠ 1 then none
  else
    match s.rootOf part slot with
    | .error _ => none
    | .ok root =>
      match s.guestWord part (root + 8 * bits panel 21 11) with
      | .error _ => none
      | .ok e1 =>
        if e1 % 2 = 0 then none
        else
          match s.guestWord part (bits e1 14 34 * 2 ^ 14 + 8 * bits panel 10 11) with
          | .error _ => none
          | .ok e2 => if e2 % 2 = 0 then none else some (bits e2 13 35 * 2 ^ 13 + 8 * bits panel 0 10)

/-- A private panel replaces a panel-table entry, whose flags stay; answers the panel that is displaced or cannot be
installed, for the pool (R433). -/
def State.putLeaf (s : State) (part slot panel g : Nat) : Option Nat × State :=
  match s.leafAt part slot panel with
  | none => (some g, s)
  | some a =>
    match s.guestWord part a, s.guest part a with
    | .ok e, .ok h =>
      let new := e % 2 ^ 16 / 8 * 8 + 1 + g * 2 ^ 16
      let old := if e % 2 = 1 ∧ leafTgt e = 0 then some (bits e 16 32) else none
      (old, s.pokeBlock (.hbm h) (toBytes 8 new))
    | _, _ => (some g, s)

/-- Bays forget what a test selects of their translations: a shootdown. -/
def State.shootdown (s : State) (f : TlbEntry → Bool) : State :=
  { s with bays := s.bays.map fun (z : Nat × Bay) => (z.1, { z.2 with tlb := z.2.tlb.filter fun e => !f e }) }

/-- One panel of a winner replaces its parent's; the panel displaced is free once nothing uses it any more (R304, R433, R441). -/
def State.mergePanel (s : State) (part parent : Nat) (o : Nat × Nat × Nat) : State :=
  let s := s.shootdown fun e => e.part == part && e.slot == o.1 && e.panel == o.2.1
  let leave (s : State) (l : List Nat) : State := s.modPart part fun p =>
    { p with displaced := p.displaced ++ l.map fun g => (o.1, o.2.1, g) }
  if parent = 0 then
    let r := s.putLeaf part o.1 o.2.1 o.2.2
    leave (r.2.unrefSlot part o.1) r.1.toList
  else
    match fget (s.part part).views parent with
    | none => s.givePanels part [o.2.2]
    | some v =>
      let was := v.overlay.filter fun y => y.1 == o.1 && y.2.1 == o.2.1
      let v := { v with overlay := (v.overlay.filter fun y => !(y.1 == o.1 && y.2.1 == o.2.1)) ++ [o] }
      let s := s.modPart part fun p => { p with views := fput p.views parent v }
      let s := if was.isEmpty then s else s.unrefSlot part o.1
      leave s (was.map fun y => y.2.2)

/-- A winner's view is merged into its parent, and its tag is free (R433, R436). Writers that waited for a panel of the
view go on, in the parent view. -/
def State.mergeView (s : State) (part parent view : Nat) : State :=
  match fget (s.part part).views view with
  | none => s
  | some v =>
    let waits := s.stalled part fun st => match st with
      | .copying w _ _ => w == view
      | .exhausted w => w == view
      | _ => false
    let s := s.shootdown fun e => e.part == part && e.view == view
    let s := s.modPart part fun p => { p with views := fdel p.views view, starved := p.starved.filter fun z => z.2.1 != view }
    let s := v.overlay.foldl (fun s o => s.mergePanel part parent o) s
    let s := s.givePanels part (v.copying.map fun o => o.2.2.1)
    waits.foldl (fun s a => s.restall a none) s

/-! ### Outboxes (R171, R433, R443) -/

/-- notify() as a core of a launch makes it: a function index with no function is counted against the launch's own
(R166, R344). -/
def State.notifyOp (s : State) (part vfn : Nat) (sel tail : Word) : State :=
  match s.vfs.find? fun z => z.2.part == some part && z.2.index == bits sel.toNat 6 2 with
  | some (n, _) => s.notify n (sel.toNat % 64) tail
  | none =>
    let x := s.vf vfn
    s.setVf vfn { x with badnote := x.badnote + 1 }

/-- The page on which a deferred operation was deferred, as its truss stands now. -/
def State.entryPage (s : State) (e : OutboxEntry) : Option Nat :=
  (fget s.trusses e.truss).bind fun x => (s.heldPages e.truss x).find? fun p => (s.page p).ix == e.ix

/-- A deferred operation is performed in the base view, with the ordering that its instruction gives: of the commit's release
nothing is left to be released, and an atomic with ACQ acquires at module scope for its core (R134, R433, R443). A CPY goes to
the engine it names, or to the first when no copy engine takes commands; one that its checks refuse by then is not performed
(DESIGN CHOICE, log 41). -/
def State.perform (s : State) (part vfn : Nat) (e : OutboxEntry) : State :=
  let w (k : Nat) : Word := (e.words[k]?).getD 0
  match e.kind with
  | 0 => s.notifyOp part vfn (w 0) (w 1)
  | 1 => s.homeAtomic part (w 0).toNat 8 0 [w 1]
  | 2 =>
    let s := s.homeAtomic part (w 0).toNat (w 1).toNat (w 2).toNat (e.words.drop 4)
    match s.entryPage e with
    | some p => if ordAcq (BitVec.ofNat 2 (w 3).toNat) then { acquire 2 { s with cur := p } with cur := s.cur } else s
    | none => s
  | 3 =>
    let n (k : Nat) : Nat := (w k).toNat
    let g := n 0
    let b : BlockW := ⟨.remote (n 4) (n 5), dataOf e.bytes, BitVec.ofNat 16 (n 6), BitVec.ofNat 64 (n 7), 2⟩
    s.submitWrite (engAgent g) (writePacket (engAgent g) part (n 1) (n 2) (n 3) [b])
  | 4 =>
    match fget s.trusses e.truss, s.entryPage e with
    | some t, some p =>
      let bay := bayOf p
      let g := (s.chooseEngine bay 0 (w 0).toNat).getD (bay * 8 + ((w 0).toNat - 1))
      if (s.engCheck 0 e.bytes t bay).isNone then s.putCmd g (EngCmd.start 0 e.bytes t e.truss p none) t bay else s
    | _, _ => s
  | _ => s

/-- Appends entries to the outbox of the rival that a truss belongs to. -/
def State.appendOutbox (s : State) (f t : Nat) (l : List OutboxEntry) : State :=
  let put (r : Rival) : Rival := if r.trusses.contains t then { r with outbox := r.outbox ++ l } else r
  { s with forks := fmod s.forks f fun k => { k with rivals := k.rivals.map put } }

/-! ### Commit (R433, R441, R442) -/

/-- A rival is torn down where it stands, with every world nested in it (R433, R441). -/
def State.discardRival (part f : Nat) : Nat → Rival → State → State
  | 0, r, s => s.tearRival part r
  | n + 1, r, s =>
    let inner := s.forks.filter fun z => z.2.outer == some f && z.2.trusses.any r.trusses.contains
    let s := inner.foldl (fun s z =>
      let s := { s with forks := fdel s.forks z.1 }
      let s := z.2.rivals.foldl (fun s q => State.discardRival part z.1 n q s) s
      s.undoCopies part z.2) s
    s.tearRival part r

/-- A core of the winner's, in the parent world: of its world's lines, which have been written back, none is left, and a core that
the yield or the CHOOSE held goes on (R169, R170, R433, R440). A core that waits in a CHOOSE of its own executes it again, in the
parent world (DESIGN CHOICE, log 41). -/
def Core.rejoin (c : Core) (view : Nat) : Core :=
  let c := { c with l1d := c.l1d.filter fun l => l.view != view }
  match c.wait with
  | some .yielded => c.resume 1
  | some .kerf => c.resume 1
  | some .choose => c.resume 0
  | _ => c

/-- A fork that the cores of a committed rival have begun, and that has not happened yet, goes on in the parent world, with
the copies placed for it (R168, R169). -/
def State.raiseForks (s : State) (f part view : Nat) (k : Fork) : State :=
  let mine := s.forks.filter fun z => z.2.outer == some f && z.2.rivals.isEmpty
  mine.foldl (fun s z =>
    let y : Fork := { z.2 with depth := k.depth, view := k.view, world := k.world, outer := k.outer }
    let lift (x : Truss) : Truss := { x with depth := k.depth + 1 }
    let s := { s with forks := fput s.forks z.1 y, trusses := y.made.foldl (fun m t => fmod m t lift) s.trusses }
    s.modPart part fun p => { p with views := p.views.map fun (v : Nat × View) =>
      (v.1, if y.tags.contains v.1 ∧ v.2.parent = view then { v.2 with parent := k.view } else v.2) }) s

/-- The rivals of a fork that a test selects are torn down, each once: what is left of one holds no view and no outbox
(R433, R436, R442). -/
def State.dropRivals (s : State) (f part : Nat) (sel : Nat → Rival → Bool) : State :=
  match fget s.forks f with
  | none => s
  | some k =>
    let gone := (k.rivals.zipIdx).filter fun z => sel z.2 z.1 && z.1.view != 0
    let s := gone.foldl (fun s z => s.discardRival part f 4 z.1) s
    let empty (z : Rival × Nat) : Rival := if sel z.2 z.1 then { z.1 with view := 0, outbox := [] } else z.1
    { s with forks := fmod s.forks f fun k => { k with rivals := (k.rivals.zipIdx).map empty } }

/-- A rival is committed (R433): the losers go, its panels replace the parent's, its outbox is released, and its
trusses go on in the parent world. -/
def State.commit (s : State) (f : Nat) (k : Fork) (i : Nat) : State :=
  match k.rivals[i]?, fget s.launches k.launch with
  | some w, some l =>
    let s := s.dropRivals f l.part fun j _ => j != i
    let s := ({ s with forks := fdel s.forks f }).raiseForks f l.part w.view k
    let back (x : Truss) : Truss :=
      { x with fork := k.outer, world := k.world, depth := k.depth, view := k.view, request := decide (x.state = .stopping) }
    let s := w.trusses.foldl (fun s t =>
      match fget s.trusses t with
      | none => s
      | some x =>
        let s := (s.heldPages t x).foldl (fun s p => s.modCore p fun c => c.rejoin w.view) s
        { s with trusses := fput s.trusses t (back x) }) s
    let cmd (c : EngCmd) : EngCmd := if w.trusses.contains c.truss ∧ c.view = w.view then { c with view := k.view } else c
    let eng (z : Nat × Engine) : Nat × Engine := (z.1, { z.2 with cmds := z.2.cmds.map cmd })
    let s := { s with engines := s.engines.map eng }
    -- The committed trusses stand in the originals' place (R446), in their links, and in the enclosing rivals and their outboxes.
    let as (t : Nat) : Nat := (((k.trusses.zip w.trusses).find? fun z => t == z.1).map Prod.snd).getD t
    let s := { s with links := s.links.map fun (z : Nat × Link) => (z.1, { z.2 with prod := z.2.prod.map as, cons := z.2.cons.map as }) }
    let entry (e : OutboxEntry) : OutboxEntry := { e with truss := as e.truss }
    let seat (r : Rival) : Rival := { r with trusses := r.trusses.map as, outbox := r.outbox.map entry }
    let outer (z : Nat × Fork) : Nat × Fork :=
      (z.1, if z.2.launch = k.launch ∧ z.2.depth < k.depth then { z.2 with trusses := z.2.trusses.map as, rivals := z.2.rivals.map seat } else z.2)
    let s := { s with forks := s.forks.map outer }
    let s := s.mergeView l.part k.view w.view
    match k.outer with
    | none => w.outbox.foldl (fun s e => s.perform l.part l.vf e) s
    | some g => s.appendOutbox g ((w.trusses.head?).getD 0) w.outbox
  | _, _ => s

/-- The highest score of the rivals that yielded, ties going to the lowest index (R433). -/
def bestRival (l : List Rival) : Option (Nat × Int) :=
  (l.zipIdx).foldl (fun b z =>
    if z.1.lost then b
    else
      match z.1.score, b with
      | some x, none => some (z.2, x)
      | some x, some y => if y.2 < x then some (z.2, x) else b
      | none, _ => b) none

/-- Pages of a rival. -/
def State.rivalPages (s : State) (r : Rival) : List Nat :=
  r.trusses.flatMap fun t => ((fget s.trusses t).map fun x => s.heldPages t x).getD []

/-- Every core of a rival has stopped at a kerf or at its end, or is the one that yields (R170). -/
def State.rivalStopped (s : State) (r : Rival) : Bool :=
  (s.rivalPages r).all fun p =>
    let c := (s.page p).core
    decide (c.run ≠ .running) || decide (c.wait = some .kerf) || decide (c.wait = some .yielded)

/-- Every core of a rival of a fork has passed END, and no fork within it is open (R442). -/
def State.rivalEnded (s : State) (f : Nat) (r : Rival) : Bool :=
  r.trusses.all fun t => match fget s.trusses t with
    | some x => decide (x.fork = some f) && decide (x.cores = 0)
    | none => false

/-- The score that a rival has come to: its WYIELD's, once its other cores have stopped; −2^63 when all of its cores have ended
without one (R170, R442). -/
def State.scored (s : State) (f : Nat) (r : Rival) : Rival :=
  if r.score.isSome || r.lost then r
  else
    match r.yielding with
    | some x => if s.rivalStopped r then { r with score := some x } else r
    | none => if s.rivalEnded f r then { r with score := some (-(2 ^ 63)) } else r

/-- Writes and reads that a rival's agents have issued are complete at .M, those of a store port's gathered blocks among them. -/
def State.rivalDone (s : State) (r : Rival) : Bool :=
  ((s.rivalPages r).all fun p => (s.page p).ports.toList.all fun y => y.buf.isEmpty)
    && s.reqs.all fun z => !((s.trussOfAgent z.1).any r.trusses.contains)
      || (s.completeAtScope z.1 2 && z.2.unsent.isEmpty)

/-- What the store ports of a rival have gathered is sent. -/
def State.flushStores (s : State) (r : Rival) : State :=
  (s.rivalPages r).foldl (fun s p => (List.range 4).foldl (fun s k => flushBuf p (4 + k) s) s) s

/-- A truss of a launch is being copied: nothing changes its place before RELEASE (R388). -/
def State.launchCopying (s : State) (id : Nat) : Bool := (s.launchTrusses id).any s.copying

/-- A fork is settled: its losers are torn down, and once every rival has yielded or ended it is judged, and the winner committed
when what it has issued is complete at .M (R170, R433, R442). A nested fork none of whose rivals is left ends its enclosing rival,
and one whose winner's cores have all ended gives it its score. -/
def State.settleFork : Nat → Nat → State → State
  | 0, _, s => s
  | n + 1, f, s =>
    match (fget s.forks f).map Fork.launch with
    | none => s
    | some id =>
      if s.launchCopying id then s
      else
        let part := ((fget s.launches id).map Launch.part).getD 0x3F
        let s := { s with forks := fmod s.forks f fun k => { k with rivals := k.rivals.map (s.scored f) } }
        let s := s.dropRivals f part fun _ r => r.lost
        match fget s.forks f, fget s.launches id with
        | some k, some l =>
          if l.cancel ∨ l.reset ∨ !k.judged then s
          else
            match bestRival k.rivals with
            | some b =>
              match k.rivals[b.1]? with
              | none => s
              | some r =>
                if s.rivalDone r then
                  let s := s.commit f k b.1
                  match k.outer with
                  | none => s
                  | some g => State.settleFork n g s
                else s.flushStores r
            | none =>
              let why := (k.rivals.findSome? Rival.failure).getD (0x05, 0)
              let s := { s with forks := fdel s.forks f }
              match k.outer with
              | none => (s.failLaunch id why.1 why.2).settleLaunch id
              | some g => State.settleFork n g (s.loseRival g ((k.trusses.head?).getD 0) why.1 why.2)
        | _, _ => s

/-- A fork is settled, and then each that encloses it. -/
def State.settleForks : Nat → Nat → State → State
  | 0, _, s => s
  | n + 1, f, s =>
    let up := (fget s.forks f).bind Fork.outer
    let s := State.settleFork 4 f s
    match up with
    | none => s
    | some g => State.settleForks n g s

/-! ### WYIELD (R170, R432) -/

/-- WYIELD ends its rival with a score, once the rival's other cores have stopped at their next KERF or END; the core goes on once
its rival has been committed (R170, R432). It wakes no core that waits in WFE (R179). -/
def execWyield (a : Reg) (s : State) : Res :=
  if s.core.stage = 1 then .next (complete s.core s)
  else
    match s.trussOf s.cur with
    | none => .next s
    | some x =>
      let t := s.curPage.truss
      if s.curPage.ix ≠ 0 ∨ x.ix ≠ 0 ∨ x.depth = 0 then trapHere causeWorld 0 s
      else (kerfSteps s).bind fun _ s =>
        let score := sval (s.core.rd a)
        let s := s.setCore { s.core with wait := some .yielded, stage := 0 }
        match s.rivalOf t with
        | none => .next s
        | some (f, k, i, r) =>
          let ask (m : FMap Truss) (t : Nat) : FMap Truss := fmod m t fun y => { y with request := true }
          let rs := (k.rivals.zipIdx).map fun z => if z.2 = i then { z.1 with yielding := some score } else z.1
          .next (State.settleFork 4 f { s with trusses := r.trusses.foldl ask s.trusses,
                                               forks := fput s.forks f { k with rivals := rs } })

/-! ### CHOOSE (R169, R440) -/

/-- The core of a page is held by a CHOOSE of its rival (R440). -/
def State.chosen (s : State) (p : Nat) : Bool :=
  match s.rivalOf (s.page p).truss with
  | some (_, _, _, r) => r.choosing && decide ((s.page p).status = .used)
  | none => false

/-- A core held at an instruction boundary writes back and invalidates its L1D (R440). -/
def holdTurn (s : State) : Res :=
  match kerfSteps (s.setCore { s.core with scratch := [], resp := [] }) with
  | .stop r => r
  | .ok _ s => .next s

/-- A core is held for a CHOOSE: it has ended, stands between instructions with its L1D written back, or waits. -/
def State.held (s : State) (p : Nat) : Bool :=
  let c := (s.page p).core
  decide (p = s.cur) || decide (c.run ≠ .running) || (match c.wait with
    | none => c.atBoundary && c.l1d.isEmpty
    | some w => w.abandonable)

/-- Everything a rival has issued is complete at .M, and its cores are held (R440). -/
def State.chooseReady (s : State) (r : Rival) : Bool :=
  r.score.isNone && !r.lost && ((s.rivalPages r).all s.held)
    && (s.reqs.all fun z => !((s.trussOfAgent z.1).any r.trusses.contains)
      || (s.completeAtScope z.1 2 && z.2.unsent.isEmpty && z.2.win.all fun e => e.got.isSome))
    && (s.engines.all fun z => z.2.cmds.all fun c => !r.trusses.contains c.truss) && !(r.trusses.any s.copying)

/-- What the waiting cores of a rival hold dirty is written back, their L1Ds are invalidated, and what its store ports have
gathered is sent (R440). A line that cannot be sent stays, and the commit waits for it (DESIGN CHOICE, log 113). -/
def State.flushRival (s : State) (part : Nat) (r : Rival) : State :=
  let s := (s.rivalPages r).foldl (fun s p =>
    let z := s.writeLines p part (s.page p).dirtyLines
    z.2.modCore p fun c => { c with l1d := z.1 }) s
  s.flushStores r

/-- The commit of a CHOOSE; the core waits until its rival is ready. What the rival's cores and store ports then still hold
leaves them, and the commit is made once that is complete too (R440). -/
def chooseNow (s : State) : Res :=
  match s.rivalOf s.curPage.truss with
  | none => .next (complete s.core s)
  | some (f, k, i, r) =>
    match fget s.launches k.launch with
    | none => .next s
    | some l =>
      if s.chooseReady r && !l.cancel && !l.reset then
        if s.core.scratch.isEmpty || (s.rivalPages r).any fun p => !(s.page p).dirtyLines.isEmpty then
          let s := s.flushRival l.part r
          waitFor .choose 1 (s.setCore { s.core with scratch := [1] })
        else
          let s := s.commit f k i
          let s := match k.outer with
            | none => s
            | some g => State.settleFork 4 g s
          .next (complete s.core s)
      else waitFor .choose 1 s

/-- CHOOSE (R169, R440). -/
def execChoose (s : State) : Res :=
  if s.core.stage = 1 then chooseNow s
  else if s.curDepth = 0 then trapHere causeWorld 0 s
  else (kerfSteps s).bind fun _ s =>
    match s.rivalOf s.curPage.truss with
    | none => .next (complete s.core s)
    | some (f, k, i, _) =>
      let rs := (k.rivals.zipIdx).map fun z => if z.2 = i then { z.1 with choosing := true } else z.1
      let s := s.setCore { s.core with scratch := [] }
      chooseNow { s with forks := fput s.forks f { k with rivals := rs } }

/-! ### VPABORT (R445) -/

/-- The world of a view tag ends as a loser, with every world nested in it, for a code (R442, R445). -/
def State.abortView (s : State) (part v code : Nat) : State :=
  match s.forks.find? fun z => (((fget s.launches z.2.launch).map Launch.part) == some part)
      && z.2.rivals.any fun r => r.view == v && !r.lost with
  | none => s
  | some (f, k) =>
    match k.rivals.find? fun r => r.view == v with
    | none => s
    | some r => State.settleFork 4 f (s.loseRival f ((r.trusses.head?).getD 0) code 0)

/-- VPABORT (R445): a tag that no world holds, or a reserved bit, is ignored. -/
def execVpabort (vf : Nat) (v : BitVec 64) (s : State) : Res :=
  match (s.vf vf).part with
  | none => .next s
  | some part => if 64 ≤ v.toNat ∨ !s.start.ready then .next s else .next (s.abortView part v.toNat 0x05)

/-! ### TRUSS_END -/

/-- Everything that a truss's agents have issued is done: element accesses and commands are complete, and every write is
acknowledged (R23, R352). -/
def State.trussQuiet (s : State) (t : Nat) (pages : List Nat) : Bool :=
  (pages.all fun p => (s.page p).elems.all (fun z => z.2.mem.isEmpty) && ((s.page p).ports.toList.all fun y => y.buf.isEmpty)
    && !(s.reqs.any fun r => (agentPage r.1).map Prod.fst == some p && !r.2.quiet))
    && s.engines.all fun z => z.2.cmds.all fun c => c.truss != t

/-- TRUSS_END: a truss that has ended, has failed, or has been stopped is torn down and counts out of its launch
(R23, R24, R349); a truss in COPY waits for RELEASE (R388). Of a rival's truss, which counts nothing, the fork is settled, with
which a rival that has ended as a loser goes whole (R442, R446). -/
def execTrussEnd (t : Nat) (s : State) : Res :=
  match fget s.trusses t with
  | none => .next s
  | some x =>
    let pages := s.heldPages t x
    let copying := s.copying t
    let ended := decide (x.state = .running) && decide (x.cores = 0) && !pages.isEmpty && !copying
      && (pages.all fun p => (s.page p).quiet) && s.trussQuiet t pages
    let stopped := decide (x.state = .stopping) && !copying && (x.failure || pages.all s.coreHalted)
    match x.fork with
    | none => .next (if ended || stopped then (s.tearTruss t).countOut x.launch else s)
    | some f =>
      let s := State.settleForks 4 f s
      .next (if stopped && !x.failure then (s.tearTruss t).settleLaunch x.launch else s)

end Sys2Proof.Machine
end

