-- ==== Sys2Proof/Machine/Resets.lean ====
section
/-! DEFINITION. The reset ladder and the module's starts (R373, R423 to R430). -/

namespace Sys2Proof.Machine

/-! ### The physical function's command status (R373) -/

/-- PSTAT.BUSY. -/
def State.pfBusy (s : State) : Bool := s.pf.pstat.getLsbD 0

/-- PSTAT after an operation on a partition. -/
def State.pfResult (s : State) (pid result : Nat) (busy : Bool) : State :=
  { s with pf := { s.pf with pstat := BitVec.ofNat 64 (pid % 64 * 256 + result * 16 + (if busy then 1 else 0)) } }

/-- The result field of a status register, the rest kept. -/
def withResult (x : Word) (result : Nat) : Word := (x &&& ~~~(0xF0 : Word)) ||| BitVec.ofNat 64 (result * 16)

/-- Carries out an operation of the physical function on a partition that must exist: not while the host link is down;
while another is busy it is ignored and gives BUSY; BADPART for a partition that does not exist (R373). -/
def pfOp (pid : Nat) (exists_ : Bool) (f : State → State) (s : State) : Res :=
  if !s.start.ready then .next s
  else if s.pfBusy then .next { s with pf := { s.pf with pstat := withResult s.pf.pstat 4 } }
  else if 47 < pid ∨ (s.part pid).live ≠ exists_ then .next (s.pfResult pid 1 false)
  else .next (f s)

/-! ### What a rung does (R424 to R427) -/

/-- Pages that a launch's trusses hold. -/
def State.launchPages (s : State) (id : Nat) : List Nat := (s.trussesOf id).flatMap fun z => s.heldPages z.1 z.2

/-- A launch ends with RESET: its trusses are torn down at once, and with them its rivals and saved trusses; one that a
move is copying waits for RELEASE (R388, R421, R427, R446). -/
def State.resetLaunch (s : State) (id : Nat) : State :=
  if (fget s.launches id).isNone || (s.trussesOf id).any fun z => s.copying z.1 then s
  else
    let s := { s with launches := fmod s.launches id fun l => { l with reset := true } }
    ((s.launchTrusses id).foldl State.tearTruss s).settleLaunch id

/-- A graph ends with RESET: nodes not begun report it, and the launches of the others are reset (R424). -/
def State.resetGraph (s : State) (id : Nat) : State :=
  match fget s.graphs id with
  | none => s
  | some g =>
    let s := { s with graphs := fput s.graphs id { g with reset := true } }
    (g.nodes.zipIdx).foldl (fun s z =>
      if z.1.2.2.2.1 = 0 then s.skipNode id z.2 (3, 0, 0)
      else if z.1.2.2.2.1 = 1 then s.resetLaunch z.1.2.2.2.2 else s) s

/-- Every item of a queue but its begun launches and graphs completes RESET, in queue order (R424, R426). -/
def State.resetItems (s : State) (k : Nat) : State :=
  let l := ((fget s.queues k).map Queue.items).getD []
  let work (i : Item) : Bool := decide (i.state = .begun) && (iCmd i.bytes == 1 || iCmd i.bytes == 2)
  let s := l.foldl (fun s i => if decide (i.state = .done) || work i then s else s.doneItem k i.n 3 0 0) s
  s.flushRecords k

/-- QUEUE: the queue is stopped, and what has not begun completes RESET (R424). -/
def State.beginQueueReset (s : State) (k : Nat) : State :=
  (s.modQueue k fun x => { x with stopped := true }).resetItems k

/-- The begun launches of a queue, those of graphs left to their graph. -/
def State.queueLaunches (s : State) (k : Nat) : List Nat :=
  (s.launches.filter fun z => z.2.graph.isNone && qKey z.2.vf z.2.queue == k).map Prod.fst

/-- The begun graphs of a queue. -/
def State.queueGraphs (s : State) (k : Nat) : List Nat :=
  (s.graphs.filter fun z => qKey z.2.vf z.2.queue == k).map Prod.fst

/-- The begun launches and graphs of a queue receive LAUNCH (R424). -/
def State.resetQueueWork (s : State) (k : Nat) : State :=
  let s := (s.queueLaunches k).foldl State.resetLaunch s
  ((s.queueGraphs k).foldl State.resetGraph s).flushRecords k

/-- Queues of a partition. -/
def State.partQueues (s : State) (pid : Nat) : List Nat :=
  (s.queues.filter fun z => s.queuePart z.1 == pid).map Prod.fst

/-- Jobs that have not ended, of those that a test selects, end with RESET (R23, R425, R429). -/
def State.resetJobs (s : State) (f : Job → Bool) : State :=
  { s with jobs := s.jobs.map fun j => if f j && j.status.isNone then { j with status := some 3 } else j }

/-- PARTITION begins: every queue is treated as under QUEUE, the page requests are retired and GEN advances (R425). -/
def State.beginPartReset (s : State) (pid : Nat) : State :=
  let s := (s.partQueues pid).foldl State.beginQueueReset s
  (s.resetJobs fun j => j.part == pid).modPart pid fun p => { p with reqs := [], gen := p.gen + 1 }

/-- PARTITION: every launch and graph is reset, engine commands are dropped, and once no write is retained the RDC
lines are invalidated (R425). -/
def State.partResetWork (s : State) (pid : Nat) : State :=
  let s := ((s.launches.filter fun z => z.2.part == pid).map Prod.fst).foldl State.resetLaunch s
  let s := (s.partQueues pid).foldl State.resetQueueWork s
  if (s.trusses.any fun z => z.2.part == pid) then s
  else
    let s := s.cancelCmds fun c => c.part == pid
    { s with bays := s.bays.map fun (z : Nat × Bay) => (z.1, { z.2 with rdc := z.2.rdc.filter fun l => l.part != pid }) }

/-- ENGINE: the partition's commands are dropped, and an idle engine is reinitialised (R424). -/
def State.engineResetWork (s : State) (g pid : Nat) : State := s.cancelOn (fun c => c.part == pid) g

/-! ### Starts (R429, R430) -/

/-- A switch output whose queues have been emptied. -/
def SwitchOut.cleared (o : SwitchOut) : SwitchOut :=
  { o with queues := Vector.replicate 3 [], deficit := Vector.replicate 2 0, replays := 0 }

/-- A partition whose agents are all gone: its views return their panels, and no reference is left (R299, R436). -/
def Partition.rested (p : Partition) : Partition :=
  let back := p.views.flatMap fun z => z.2.overlay.map (fun o => o.2.2) ++ z.2.copying.map fun o => o.2.2.1
  let slot (z : Nat × Slot) : Nat × Slot := (z.1, { z.2 with refs := 0, state := if z.2.state = 2 then 0 else z.2.state })
  { p with reqs := [], starved := [], views := [], pool := p.pool ++ back, slots := p.slots.map slot }

/-- A page that was in use is scrubbed. -/
def State.scrubAll (s : State) : State :=
  { s with pages := s.pages.map fun (z : Nat × Page) => (z.1, match z.2.status with
      | .used => z.2.scrubbing s.now
      | _ => z.2) }

/-- A move that has not reached COPY is abandoned; none is left (R388). -/
def State.endMove (s : State) : State := { s.dropMove with move := none, compact := none }

/-- A warm start begins: every running item ends with RESET, the pages in use are scrubbed, and the network and the
engines start anew; partitions, granule maps, queues, tensor tables and meters are kept (R429). -/
def State.beginWarm (s : State) : State :=
  let s := s.endMove
  let s := (s.launches.map Prod.fst).foldl State.resetLaunch s
  let s := (s.graphs.map Prod.fst).foldl State.resetGraph s
  -- Begun items that are neither launches nor graphs.
  let s := (s.queues.map Prod.fst).foldl (fun s k =>
    let l := (((fget s.queues k).map Queue.items).getD []).filter fun i => decide (i.state = .begun)
    (l.foldl (fun s i => s.doneItem k i.n 3 0 0) s).settle k) s
  let s := s.scrubAll.resetJobs fun _ => true
  { s with trusses := [], launches := [], graphs := [], links := [], forks := [], engines := [], groups := [], deadGroups := [],
           reqs := [], packets := [], spans := [],
           outs := s.outs.map fun (z : Nat × SwitchOut) => (z.1, z.2.cleared),
           bays := s.bays.map fun (z : Nat × Bay) => (z.1, { Bay.reset with errors := z.2.errors }),
           parts := s.parts.map fun (z : Nat × Partition) => (z.1, z.2.rested),
           start := { s.start with running := some (2, s.now), ready := false } }

/-- A move in COPY is in progress: what would end it waits for RELEASE (R388). -/
def State.inCopy (s : State) : Bool := (s.move.map Move.state) == some 1

/-- A warm start is begun, after the RELEASE of a move in COPY (R388, R429). -/
def State.startWarm (s : State) : State :=
  if s.inCopy then { s with start := { s.start with running := some (3, s.now), ready := false } } else s.beginWarm

/-- A warm start whose pages are all scrubbed completes: a record of KIND 2 is appended and the host link resumes
(R394, R429). -/
def State.settleStart (s : State) : State :=
  match s.start.running with
  | none => s
  | some (k, t) =>
    if k = 3 then
      if s.inCopy then s else let s := s.beginWarm; { s with start := { s.start with running := some (2, t) } }
    else if s.pages.any fun z => z.2.isScrubbing then s
    else
      let s := ({ s with cycle0 := s.now }).appendSeal 2 0
      { s with start := { s.start with running := none, failures := 0, ready := true } }

/-- The fuse map with units added that it does not list (R428). -/
def Fuses.extend (f g : Fuses) : Fuses :=
  let add (l m : List Nat) : List Nat := l ++ m.filter fun k => !l.contains k
  { f with pages := add f.pages g.pages, channels := add f.channels g.channels, edges := add f.edges g.edges, bays := add f.bays g.bays }

/-- What is left by a cold start: the seal chain, host memory and the fuse map, which repair extends by the units that have failed
since the last one (R394, R428, R429). -/
def State.coldBase (s : State) : State :=
  { State.reset with
    now := s.now, cycle0 := s.now, mem := s.mem, fuses := s.fuses.extend s.worn, chain := s.chain, spdm := s.spdm, turns := s.turns,
    cur := s.cur, freeCount := s.freeCount, fresh := s.fresh, pf := { PF.reset with debug := s.pf.debug } }

/-- A cold start that fails: the host link shows the device as not ready, and the failing step is kept (R430). -/
def State.coldFailed (s : State) (step : Nat) : State := { s.coldBase with start := ⟨none, 0, step, s.start.colds, false⟩ }

/-- A cold start (R429): every partition is destroyed, every meter is reset, and a record of KIND 1 joins the chain.
A module whose bay 0 has failed does not start (R428, R430). -/
def State.coldStart (s : State) : State :=
  if s.coldBase.fuses.bays.contains 0 then s.coldFailed 1
  else { s.coldBase.appendSeal 1 0 with start := ⟨none, 0, 0, s.start.colds + 1, true⟩ }

/-- A warm start fails: another is tried, and after the third failure in a row a cold start is performed (R430). -/
def State.warmFailed (s : State) : State :=
  if 2 ≤ s.start.failures then s.coldStart
  else { s with start := { s.start with failures := s.start.failures + 1 } }.startWarm

/-- COLD_START (R429). -/
def execColdStart (s : State) : Res := .next s.coldStart

/-- WARM_START: one already in progress absorbs another (R424, R429); a module that has not started makes none. -/
def execWarmStart (s : State) : Res :=
  if s.start.running.isSome || !s.start.ready then .next s else .next s.startWarm.settleStart

/-- 200 ms in cc. -/
def warmTimeout : Nat := 320000000

/-- WARM_START_TIMEOUT: a warm start not complete within 200 ms fails (R430). -/
def execWarmStartTimeout (s : State) : Res :=
  match s.start.running with
  | none => .next s
  | some (_, t) =>
    if s.now < t + warmTimeout then .next s else .next s.warmFailed

/-! ### The ladder (R423, R424) -/

/-- A rung's work, as far as it can be done now; pages torn down are noted. -/
def State.rungWork (s : State) (r : Rung) : State × Rung :=
  let mine (z : Nat × Truss) : Bool := z.2.part == r.part
  let held : List Nat := match r.rung with
    | 2 => s.launchPages r.target
    | 4 => (s.trusses.filter mine).flatMap fun (z : Nat × Truss) => s.heldPages z.1 z.2
    | _ => []
  let t := match r.rung with
    | 1 => s.resetQueueWork r.target
    | 2 => s.resetLaunch r.target
    | 3 => s.engineResetWork r.target r.part
    | 4 => s.partResetWork r.part
    | _ => s
  (t, { r with pages := r.pages ++ held.filter fun p => (t.page p).isScrubbing })

/-- A rung is confirmed (R424). -/
def State.rungDone (s : State) (r : Rung) : Bool :=
  let clear := r.pages.all fun p => !(s.page p).isScrubbing
  match r.rung with
  | 1 => ((fget s.queues r.target).map fun x => x.items.isEmpty).getD true
  | 2 => (fget s.launches r.target).isNone && clear
  | 3 => (fgetD s.engines r.target Engine.reset).cmds.isEmpty
  | 4 => clear && (s.trusses.all fun z => z.2.part != r.part) && (s.engines.all fun z => z.2.cmds.all fun c => c.part != r.part)
      && (s.partQueues r.part).all fun k => ((fget s.queues k).map fun x => x.items.isEmpty).getD true
  | _ => s.start.running.isNone

/-- A confirmed rung ends: an engine takes commands again. -/
def State.endRung (s : State) (r : Rung) : State :=
  if r.rung = 3 then { s with engines := fmod s.engines r.target fun e => { e with closed := false } } else s

/-- RSTSTAT of a function: result, highest rung, BUSY. -/
def State.rstStat (s : State) (v result top : Nat) (busy : Bool) : State :=
  s.setVf v { s.vf v with rststat := BitVec.ofNat 64 (result * 16 + top * 2 + (if busy then 1 else 0)) }

/-- BUSY of the functions that asked clears with the last of their rungs. -/
def State.clearRst (s : State) (asked : List Nat) : State :=
  asked.foldl (fun s v =>
    if s.rungs.any fun r => r.vf == some v then s
    else s.setVf v { s.vf v with rststat := (s.vf v).rststat &&& ~~~(1 : Word) }) s

/-- A rung covers what another would do (R424). -/
def Rung.covers (r x : Rung) : Bool :=
  decide (r.rung = 5) || (r.rung == 4 && r.part == x.part && decide (x.rung ≤ 4))
    || (r.rung == x.rung && r.target == x.target && r.part == x.part)

/-- The rungs in progress that cover what another would do: they have not been absorbed themselves (R424). -/
def State.covering (s : State) (x : Rung) : List Rung := s.rungs.filter fun r => !r.absorbed && r.covers x

/-- The highest rung reached for a request, with those that cover it. -/
def State.coverTop (s : State) (x : Rung) : Nat := ((s.covering x).map Rung.top).foldl Nat.max x.top

/-- RSTSTAT of the function that asked for a rung shows the highest reached for it (R424). -/
def State.reportTop (s : State) (r : Rung) : State :=
  match r.vf with
  | none => s
  | some v =>
    let x := (s.vf v).rststat
    s.setVf v { s.vf v with rststat := (x &&& ~~~(0xE : Word)) ||| BitVec.ofNat 64 (Nat.max r.top (bits x.toNat 1 3) * 2) }

/-- Every rung in progress goes on, and the confirmed ones end; one that was absorbed ends with those that cover it (R424). -/
def State.settleRungs (s : State) : State :=
  if s.rungs.isEmpty then s
  else
    let all := s.rungs
    let work (s : State) (r : Rung) : State :=
      let q := s.rungWork r
      if q.1.rungDone q.2 then q.1.endRung q.2 else { q.1 with rungs := q.1.rungs ++ [q.2] }
    let wait (s : State) (r : Rung) : State :=
      if (s.covering r).isEmpty then s
      else
        let r := { r with top := s.coverTop r }
        { s with rungs := s.rungs ++ [r] }.reportTop r
    let s := (all.filter fun r => !r.absorbed).foldl work { s with rungs := [] }
    ((all.filter Rung.absorbed).foldl wait s).clearRst (all.filterMap Rung.vf)

/-- A rung is applied to a target; one that others cover is absorbed, and waits for them (R424). -/
def State.applyRung (s : State) (r : Rung) : State :=
  if !(s.covering r).isEmpty then { s with rungs := s.rungs ++ [{ r with absorbed := true, top := s.coverTop r }] }
  else
    let s := match r.rung with
      | 1 => s.beginQueueReset r.target
      | 3 => { s with engines := fput s.engines r.target { fgetD s.engines r.target Engine.reset with closed := true } }
      | 4 => s.beginPartReset r.part
      | 5 => if s.start.running.isSome then s else s.startWarm
      | _ => s
    { s with rungs := s.rungs ++ [r] }

/-- A function's request for a rung. -/
def State.askRung (s : State) (v : Nat) (r : Rung) : State :=
  (((s.applyRung r).rstStat v 0 (s.coverTop r) true).settleRungs).clearRst [v]

/-- RSTCMD of a function that has a partition (R423). -/
def rstOp (vf : Nat) (f : Nat → State → Option Rung) (s : State) : Res :=
  if !s.start.ready then .next s
  else
    match (s.vf vf).part with
    -- A function with no partition has no target.
    | none => .next (s.rstStat vf 1 0 false)
    | some part =>
      if (s.vf vf).rststat.getLsbD 0 then .next (s.setVf vf { s.vf vf with rststat := withResult (s.vf vf).rststat 4 })
      else
        match f part s with
        | none => .next (s.rstStat vf 1 0 false)
        | some r => .next (s.askRung vf r)

/-- RESET_QUEUE (R423, R424). -/
def execResetQueue (vf q : Nat) (s : State) : Res :=
  rstOp vf (fun part s =>
    if 63 < q ∨ (fget s.queues (qKey vf q)).isNone = true then none
    else some ⟨1, part, qKey vf q, [], some vf, s.now, 1, false⟩) s

/-- RESET_LAUNCH: the rung LAUNCH on a live launch of the partition (R423, R424). -/
def execResetLaunch (vf lid : Nat) (s : State) : Res :=
  rstOp vf (fun part s =>
    (s.launches.find? fun z => z.2.part == part && z.2.ident.toNat == lid).map fun z =>
      ⟨2, part, z.1, [], some vf, s.now, 2, false⟩) s

/-- PSTAT.BUSY clears when nothing of the operation is left (R373, R374). -/
def State.settlePf (s : State) : State :=
  if s.pfBusy && s.grants.isEmpty && (s.parts.all fun z => decide (z.2.pending = 0)) && (s.rungs.all fun r => r.vf.isSome) then
    { s with pf := { s.pf with pstat := s.pf.pstat &&& ~~~(1 : Word) } }
  else s

/-- A rung that the physical function asks for (R373, R423). -/
def State.pfRung (s : State) (pid : Nat) (r : Rung) : State :=
  (((s.applyRung r).pfResult pid 0 true).settleRungs).settlePf

/-- RESET_ENGINE: engines 0 to 5 of a bay; any other gives BADREC (R423, R424). -/
def execResetEngine (pid bay eng : Nat) (s : State) : Res :=
  pfOp pid true (fun s =>
    if 7 < bay ∨ 5 < eng then s.pfResult pid 2 false
    else s.pfRung pid ⟨3, pid, bay * 8 + eng, [], none, s.now, 3, false⟩) s

/-- RESET_PARTITION (R423, R425). -/
def execResetPartition (pid : Nat) (s : State) : Res :=
  pfOp pid true (fun s => s.pfRung pid ⟨4, pid, pid, [], none, s.now, 4, false⟩) s

/-- RESET_DEVICE ignores the partition field: a warm start (R373, R424). -/
def execResetDevice (s : State) : Res :=
  if !s.start.ready then .next s
  else if s.pfBusy then .next { s with pf := { s.pf with pstat := withResult s.pf.pstat 4 } }
  else .next ((s.pfRung 0 ⟨5, 0, 0, [], none, s.now, 5, false⟩).settleStart.settleRungs.settlePf)

/-! ### Timeouts (R424) -/

/-- A rung's timeout in cc. -/
def rungTimeoutCc (n : Nat) : Nat :=
  match n with
  | 1 => 160000
  | 2 => 1600000
  | 3 => 3200000
  | 4 => 32000000
  | _ => warmTimeout

/-- The targets that remain of a rung, for the next one. -/
def State.remaining (s : State) (r : Rung) : List Rung :=
  let up (n target : Nat) : Rung := ⟨n, r.part, target, [], r.vf, s.now, n, false⟩
  match r.rung with
  | 1 =>
    let ofGraph := s.launches.filter fun z => match z.2.graph with
      | some (g, _) => (s.queueGraphs r.target).contains g
      | none => false
    (s.queueLaunches r.target ++ ofGraph.map Prod.fst).map fun l => up 2 l
  | 2 =>
    let holds (e : Engine) : Bool := e.cmds.any fun c => ((fget s.trusses c.truss).map Truss.launch) == some r.target
    (s.engines.filter fun z => holds z.2).map fun z => up 3 z.1
  | 3 => [up 4 r.part]
  | 4 => [up 5 0]
  | _ => []

/-- RUNG_TIMEOUT: the `n`-th rung in progress, unconfirmed within its timeout, has the next rung applied to the targets
that remain; the highest rung reached is reported (R424). -/
def execRungTimeout (n : Nat) (s : State) : Res :=
  match s.rungs[n]? with
  | none => .next s
  | some r =>
    if r.absorbed ∨ s.now < r.since + rungTimeoutCc r.rung then .next s
    else
      match s.remaining r with
      | [] => .next s
      | l =>
        let r := { r with since := s.now, top := r.rung + 1 }
        -- Requests that this rung absorbed wait for the next rung too.
        let mine := s.rungs.filter fun x => x.absorbed && r.covers x
        let s := { s with rungs := listSet s.rungs n r }
        let s := (l ++ mine.flatMap fun (x : Rung) => l.map fun (u : Rung) => { u with vf := x.vf }).foldl State.applyRung s
        .next (s.reportTop r).settleRungs.settleStart

end Sys2Proof.Machine
end

