-- ==== Sys2Proof/Machine/Parts.lean ====
section
/-! DEFINITION. Partitions, lease cuts and granules: the operations of the physical function's partition window
(R372 to R378, R381, R383, R417, R419, R446). -/

namespace Sys2Proof.Machine

/-! ### Records (R372, R375) -/

/-- The virtual functions that a record names, with their places; 0xFF is none. -/
def recordVfs (r : List Byte) : List (Nat × Nat) :=
  ((List.range 4).map fun k => (leAt r (4 + k) 1, k)).filter fun z => z.1 != 0xFF

/-- A record keeps R372. -/
def recordOk (r : List Byte) : Bool :=
  let vs := (recordVfs r).map Prod.fst
  decide (leAt r 0 2 ≤ 432) && decide (leAt r 3 1 < 2) && (vs.all fun v => decide (v ≤ 191)) && distinct vs
    && ((List.range 8).all fun b => decide (leAt r (8 + b) 1 ≤ 64) && decide (leAt r (16 + b) 1 ≤ 16))
    && decide (leAt r 24 2 % 64 = 0) && decide (leAt r 24 2 ≤ 16384)
    && decide (1 ≤ leAt r 26 1) && decide (leAt r 26 1 ≤ 32) && decide (1 ≤ leAt r 27 1) && zeroAt r 30 34

/-- The records of the partitions beside one. -/
def State.otherRecords (s : State) (pid : Nat) : List (List Byte) :=
  (s.parts.filter fun z => z.2.live && z.1 != pid).map fun z => z.2.record

/-- With a record for a partition, every sum of R375 stays within its limit. -/
def State.sumsOk (s : State) (pid : Nat) (r : List Byte) : Bool :=
  let l := r :: s.otherRecords pid
  let sum (k n : Nat) : Nat := (l.map fun x => leAt x k n).sum
  decide (sum 0 2 ≤ s.unitPages) && ((List.range 8).all fun b => decide (sum (8 + b) 1 ≤ 64) && decide (sum (16 + b) 1 ≤ 16))
    && decide (sum 24 2 ≤ 16384) && decide (sum 26 1 ≤ 32) && decide (sum 28 2 ≤ 65536)

/-- A record's function is attached to another partition. -/
def State.vfTaken (s : State) (pid : Nat) (r : List Byte) : Bool :=
  (recordVfs r).any fun z => match (s.vf z.1).part with
    | some p => p != pid
    | none => false

/-- The record at PDESC, in the physical function's own memory (R372). -/
def State.pdescRecord (s : State) : List Byte := s.hostRead (s.pf.pdesc.toNat / 64 * 64) 64

/-! ### CREATE (R374) -/

/-- A function with no queue and its registers at reset, attached to a partition or to none. -/
def State.resetVf (s : State) (v : Nat) (part : Option Nat) (index : Nat) : State :=
  let s := { s with queues := s.queues.filter fun z => z.1 / 64 != v }
  s.setVf v { VF.reset with part := part, index := index }

/-- A new partition under a record; the counts that only a cold start resets are kept (R332, R374, R402). -/
def Partition.fresh (old : Option Partition) (r : List Byte) : Partition :=
  match old with
  | none => { Partition.reset with live := true, record := r }
  | some p => { Partition.reset with
      live := true, record := r, gen := p.gen + 1, moves := p.moves, moveabort := p.moveabort, silldrop := p.silldrop,
      shavsent := p.shavsent, shavrecv := p.shavrecv, resends := p.resends, late := p.late }

/-- PARTITION_CREATE (R374, R394). -/
def execPartitionCreate (pid : Nat) (s : State) : Res :=
  pfOp pid false (fun s =>
    let r := s.pdescRecord
    if !recordOk r then s.pfResult pid 2 false
    else if s.vfTaken pid r then s.pfResult pid 3 false
    else if !s.sumsOk pid r then s.pfResult pid 5 false
    else
      let s := s.setPart pid (Partition.fresh (fget s.parts pid) r)
      let s := (recordVfs r).foldl (fun s z => s.resetVf z.1 (some pid) z.2) s
      (s.appendSeal 3 pid).pfResult pid 0 false) s

/-! ### Lease cuts (R383, R417, R446) -/

/-- A truss stands in a bay that its partition may not use. -/
def State.outsideBays (s : State) (z : Nat × Truss) : Bool :=
  (s.countedPages z.1 z.2).any fun p => !(s.part z.2.part).bayOk (bayOf p)

/-- Pages of a partition are more than its lease, or some lie in a bay it may not use. -/
def State.over (s : State) (pid : Nat) (pages : List Nat) : Bool :=
  decide ((s.part pid).lease < pages.length) || pages.any fun p => !(s.part pid).bayOk (bayOf p)

/-- A partition's pages in use are not within its lease and bays (R380, R383). -/
def State.overLease (s : State) (pid : Nat) : Bool := s.over pid (s.usedPages pid)

/-- The first truss in a removed bay that can be moved into the allowed bays, and where (R365, R383). -/
def State.moveOut (s : State) (pid : Nat) : Option (Nat × Truss × Nat × Nat) :=
  s.trusses.findSome? fun z =>
    if z.2.part == pid && s.outsideBays z && s.canMove z.1 z.2 then
      (s.spot pid z.2.h z.2.w s.pageFree).map fun q => (z.1, z.2, q.1, q.2)
    else none

/-- The trusses of a partition that stand, in the order in which a cut pre-empts them: lowest queue priority, then most
recently placed (R383). -/
def State.cutOrder (s : State) (pid : Nat) : List (Nat × Truss) :=
  (s.trusses.filter fun z => z.2.part == pid && !(s.heldPages z.1 z.2).isEmpty).foldl (fun l z => s.byCut z l) []

/-- Rivals of a fork that have not lost. -/
def Fork.live (k : Fork) : List Rival := k.rivals.filter fun r => !r.lost

/-- The innermost fork of a launch that has two live rivals or more, and the truss that names the one with the highest
index. -/
def State.spareRival (s : State) (launch : Nat) : Option (Nat × Nat) :=
  let l := s.forks.filter fun z => z.2.launch == launch && decide (2 ≤ z.2.live.length)
  let inner := l.foldl (fun b z =>
    match b with
    | none => some z
    | some y => if y.2.depth ≤ z.2.depth then some z else b) none
  inner.bind fun z => (z.2.live.getLast?).bind fun r => (r.trusses.head?).map fun t => (z.1, t)

/-- What a lease cut aborts first: a rival of the first launch in its order that has one to spare (R446). -/
def State.cutRival (s : State) (pid : Nat) : Option (Nat × Nat) :=
  (s.cutOrder pid).findSome? fun z => if 0 < z.2.depth then s.spareRival z.2.launch else none

/-- A move of the partition's that has not reached COPY leads into a removed bay: the cut abandons it (R388). -/
def State.movesWrong (s : State) (pid : Nat) : Bool :=
  match s.move with
  | none => false
  | some m =>
    match fget s.trusses m.truss with
    | none => false
    | some x => x.part == pid && decide (m.state = 0) && (m.dest x).any fun p => !(s.part pid).bayOk (bayOf p)

/-- A truss of the partition's is being moved out of a removed bay. -/
def State.movingOut (s : State) (pid : Nat) : Bool :=
  match s.move with
  | none => false
  | some m =>
    match fget s.trusses m.truss with
    | none => false
    | some x => x.part == pid && s.outsideBays (m.truss, x)

/-- A lease or bay cut goes on: a truss is moved out of a removed bay, one at a time; when none can be, rivals are aborted as
losers, and then trusses pre-empted, until the partition's trusses are within its lease and bays. It waits for a move in
COPY, a FORKW and a commit, and abandons a move that has not reached COPY (R383, R388, R421, R446). -/
def State.cutLease (pid : Nat) : Nat → State → State
  | 0, s => s
  | n + 1, s =>
    if !s.over pid (s.trussPages pid) then s
    else
      let s := if s.movesWrong pid then s.dropMove else s
      match s.moveOut pid with
      | some (t, x, r, c) => if s.move.isSome then s else s.beginMove t x r c
      | none =>
        if s.movingOut pid then s
        else
          match s.cutRival pid with
          | some (f, t) =>
            if ((fget s.trusses t).map fun x => s.copying t || s.inFork t x).getD false then s
            else State.cutLease pid n (State.settleFork 4 f (s.loseRival f t 0x05 0))
          | none =>
            match (s.cutOrder pid).head? with
            | none => s
            | some (t, x) => if s.copying t || s.inFork t x then s else State.cutLease pid n (s.preempt t)

/-! ### UPDATE (R374, R381) -/

/-- What the slices taken from a partition on a bay still wait for: the writes that were unacknowledged when they were taken,
for which line lies in which slice is not known; and lines with unacknowledged bytes for which the slices left have no place
(R307, R381). -/
def State.rdcBusy (s : State) (pid b : Nat) : Bool :=
  let mine := (s.bay b).rdc.filter fun l => l.part == pid && !l.unacked.isEmpty
  decide ((s.part pid).rdcSlices b * rdcSliceLines < mine.length)
    || (s.part pid).emptying.any fun z => z.1 == b && mine.any fun l => l.block == z.2.1 && l.unacked.any fun u => u.1 == z.2.2

/-- The unacknowledged writes of a partition's RDC lines on a bay. -/
def State.rdcPending (s : State) (pid b : Nat) : List (Nat × Nat × BitVec 32) :=
  ((s.bay b).rdc.filter fun l => l.part == pid).flatMap fun l => l.unacked.map fun u => (b, l.block, u.1)

/-- Slices taken from a partition are emptied of what they hold clean, and wait for the bytes in
them that are not acknowledged (R381). -/
def State.takeSlices (s : State) (pid : Nat) (old new : List Byte) : State :=
  let lost := (List.range 8).filter fun b => decide (leAt new (16 + b) 1 < leAt old (16 + b) 1)
  let s := lost.foldl (fun s b => s.rdcInval b pid fun _ => true) s
  let xent := leAt new 24 2
  let trim (b : Bay) : Bay :=
    let mine := b.tlb.filter fun e => e.part == pid
    { b with tlb := (b.tlb.filter fun e => e.part != pid) ++ mine.drop (mine.length - xent) }
  { s with bays := s.bays.map fun (z : Nat × Bay) => (z.1, trim z.2) }.modPart pid fun p =>
    { p with pending := 3 + 8 * (lost.map fun b => 2 ^ b).sum, emptying := lost.flatMap (s.rdcPending pid) }

/-- The slices of a partition are left with the lines that have unacknowledged bytes, on the bays that lost slices. -/
def State.dropSlices (s : State) (pid mask : Nat) : State :=
  let drop (z : Nat × Bay) : Nat × Bay :=
    if mask.testBit z.1 then (z.1, { z.2 with rdc := z.2.rdc.filter fun l => l.part != pid || !l.unacked.isEmpty }) else z
  { s with bays := s.bays.map drop }

/-- An UPDATE goes on, and completes when the partition is within its lease and its slices are empty (R374, R383). -/
def State.settleUpdate (s : State) (pid : Nat) : State :=
  let s := State.cutLease pid s.trusses.length s
  let mask := (s.part pid).pending / 8
  if s.overLease pid || (List.range 8).any fun b => mask.testBit b && s.rdcBusy pid b then s
  else (s.dropSlices pid mask).modPart pid fun p => { p with pending := 0, emptying := [] }

/-! ### REVOKE (R377) -/

/-- A host granule loses its owner at every channel. -/
def State.disown (s : State) (h : Nat) : State :=
  { s with owners := s.owners.map fun (z : Nat × FMap Nat) =>
      if z.1 / 32 = h / 2 ^ 15 then (z.1, fdel z.2 (h % 2 ^ 15)) else z }

/-- An RDC line lies in a host granule. -/
def RdcLine.inGranule (l : RdcLine) (h : Nat) : Bool :=
  decide (stackOf (l.block * 64) = h / 2 ^ 15) && decide (granuleOf (l.block * 64) = h % 2 ^ 15)

/-- A granule is revoked: no owner, no cached line, no map entry; accesses past the owner check are performed (R377). -/
def State.revoke (s : State) (pid g h : Nat) : State :=
  let s := s.disown h
  let s := { s with bays := s.bays.map fun (z : Nat × Bay) => (z.1, { z.2 with rdc := z.2.rdc.filter fun l => !l.inGranule h }) }
  s.modPart pid fun p => { p with granules := fdel p.granules g }

/-- PARG of GRANT and REVOKE: guest granule and host granule (R373). -/
def State.pargPair (s : State) : Nat × Nat := (bits s.pf.parg.toNat 0 27, bits s.pf.parg.toNat 32 19)

/-- GRANULE_REVOKE (R377). -/
def execGranuleRevoke (pid : Nat) (s : State) : Res :=
  pfOp pid true (fun s =>
    let z := s.pargPair
    if fget (s.part pid).granules z.1 = some z.2 then (s.revoke pid z.1 z.2).pfResult pid 0 false
    else s.pfResult pid 2 false) s

/-! ### DESTROY (R374) -/

/-- A partition whose reset is confirmed is destroyed: its granules are revoked, its functions detached, its slices freed
its jobs forgotten, and its queues' slots given to those that wait for one (R355); its meters and monotonic counts are kept (R374, R393). -/
def State.finishDestroy (s : State) (pid : Nat) : State :=
  let p := s.part pid
  let s := p.granules.foldl (fun s z => s.revoke pid z.1 z.2) s
  let s := (recordVfs p.record).foldl (fun s z => s.resetVf z.1 none 0) s
  let s := { s with bays := s.bays.map fun (z : Nat × Bay) => (z.1, { z.2 with
    rdc := z.2.rdc.filter fun l => l.part != pid, tlb := z.2.tlb.filter fun e => e.part != pid }),
                    jobs := s.jobs.filter fun j => j.part != pid }
  let q := { Partition.fresh (some p) (List.replicate 64 0) with live := false, gen := p.gen }
  (State.mapPending s.queues.length (s.setPart pid q)).appendSeal 4 pid

/-- The partition operations in progress go on, and PSTAT.BUSY clears with the last (R374). -/
def State.settleParts (s : State) : State :=
  let one (s : State) (pid : Nat) : State :=
    let k := (s.part pid).pending
    if k % 8 = 3 then s.settleUpdate pid
    else if k = 2 ∧ (s.rungs.all fun r => r.vf.isSome || r.part != pid) = true then s.finishDestroy pid
    else s
  ((s.parts.map Prod.fst).foldl one s).settlePf

/-- PARTITION_UPDATE (R374, R375, R381, R383). -/
def execPartitionUpdate (pid : Nat) (s : State) : Res :=
  pfOp pid true (fun s =>
    let r := s.pdescRecord
    let old := (s.part pid).record
    if !recordOk r || decide (leAt r 4 4 ≠ leAt old 4 4) then s.pfResult pid 2 false
    else if !s.sumsOk pid r then s.pfResult pid 5 false
    else
      let s := s.modPart pid fun p => { p with record := r }
      ((s.takeSlices pid old r).pfResult pid 0 true).settleParts) s

/-- PARTITION_DESTROY: a partition reset, then everything else once it is confirmed (R374). -/
def execPartitionDestroy (pid : Nat) (s : State) : Res :=
  pfOp pid true (fun s =>
    let s := s.modPart pid fun p => { p with pending := 2 }
    (s.pfRung pid ⟨4, pid, pid, [], none, s.now, 4, false⟩).settleParts) s

/-! ### STATUS (R374) -/

/-- PARTITION_STATUS writes its block at PDESC + 64 (R374). -/
def execPartitionStatus (pid : Nat) (s : State) : Res :=
  pfOp pid true (fun s =>
    let p := s.part pid
    let b := toBytes 8 p.moves.toNat ++ toBytes 8 p.moveabort.toNat ++ toBytes 8 p.silldrop.toNat
      ++ toBytes 8 (s.usedPages pid).length ++ List.replicate 32 0
    (s.hostWrite (s.pf.pdesc.toNat / 64 * 64 + 64) b).pfResult pid 0 false) s

/-! ### GRANT (R29, R369, R376) -/

/-- A stack is out of service: a channel of it or its bay has failed (R428). -/
def State.stackFailed (s : State) (k : Nat) : Bool :=
  (s.fuses.channels.any fun c => decide (c / 32 = k)) || s.fuses.bays.contains (k / 2)

/-- A host granule has an owner at some channel, or is being granted. -/
def State.owned (s : State) (h : Nat) : Bool :=
  ((List.range 32).any fun c => decide (s.ownerAt (h / 2 ^ 15) c (h % 2 ^ 15) ≠ 0x3F)) || s.grants.any fun z => z.2.2.1 == h

/-- GRANULE_GRANT: the map takes the entry at once, and each of the stack's channels has still to apply it (R376). -/
def execGranuleGrant (pid : Nat) (s : State) : Res :=
  pfOp pid true (fun s =>
    let (g, h) := s.pargPair
    if 16 ≤ h / 2 ^ 15 ∨ s.stackFailed (h / 2 ^ 15) = true then s.pfResult pid 2 false
    else if s.owned h || s.pf.pool.contains h || (fget (s.part pid).granules g).isSome then s.pfResult pid 3 false
    else
      let s := s.modPart pid fun p => { p with granules := fput p.granules g h }
      { s with grants := s.grants ++ (List.range 32).map fun c => (pid, g, h, c) }.pfResult pid 0 true) s

/-- The stripes of a granule at a channel become zero data with descriptor 0x7F00. -/
def State.zeroStripes (s : State) (h c : Nat) : State :=
  let mine (a : Nat) : Bool :=
    decide (stackOf a = h / 2 ^ 15) && decide (granuleOf a = h % 2 ^ 15) && decide (channelOf a = c)
  { s with mem := { s.mem with cells := s.mem.cells.filter fun x => !mine x.1,
                               descs := s.mem.descs.filter fun x => !mine (x.1 * 64) } }

/-- Sets the owner of a host granule at a channel. -/
def State.setOwner (s : State) (h c part : Nat) : State :=
  let k := h / 2 ^ 15 * 32 + c
  { s with owners := fput s.owners k (fput (fgetD s.owners k []) (h % 2 ^ 15) part) }

/-- CHANNEL_GRANT: a channel zeroes its stripes of a host granule, sets the owner, and resumes the agents that it
refused for the granule (R369, R376). -/
def execChannelGrant (h c : Nat) (s : State) : Res :=
  match s.grants.find? fun z => z.2.2.1 == h && z.2.2.2 == c with
  | none => .next s
  | some z =>
    let part := z.1
    let g := z.2.1
    let s := { s with grants := s.grants.erase z }
    let s := (s.zeroStripes h c).setOwner h c part
    let l := (s.refusedBy part g).filter fun a => s.awaitsChannel a g h c
    .next (l.foldl (fun s a => s.resumeOwner a g) s).settlePf

/-! ### The save pool (R419) -/

/-- The first `n` unowned granules from host granule `h` up, of stacks in service. -/
def State.poolFrom (s : State) : Nat → Nat → Nat → List Nat
  | 0, _, _ => []
  | fuel + 1, n, h =>
    if n = 0 then []
    else if s.stackFailed (h / 2 ^ 15) || s.owned h then s.poolFrom fuel n (h + 1)
    else h :: s.poolFrom fuel (n - 1) (h + 1)

/-- SAVEPOOL_WRITE: ignored with a reserved bit set, or while any truss is saved (R343, R419). -/
def execSavepoolWrite (v : BitVec 64) (s : State) : Res :=
  if !s.start.ready ∨ 2 ^ 16 ≤ v.toNat ∨ (s.trusses.any fun z => decide (z.2.state = .saved)) = true then .next s
  else .next { s with pf := { s.pf with savepool := v, pool := s.poolFrom (2 ^ 19) v.toNat 0 } }

end Sys2Proof.Machine
end

