-- ==== Sys2Proof/Machine/Regions.lean ====
section
/-! DEFINITION. KERF, REGION and the restart record (R159, R172, R398, R414 to R416). -/

namespace Sys2Proof.Machine

/-! ### Stopping at a cut point (R24, R159) -/

/-- The current core's truss has a request pending, and whether it is to stop. -/
def State.curRequest (s : State) : Bool := ((s.trussOf s.cur).map Truss.request).getD false

/-- The current core's truss is being stopped. -/
def State.curStopping (s : State) : Bool := ((s.trussOf s.cur).map fun x => decide (x.state = .stopping)).getD false

/-- The current core stops for good: its truss is torn down (R24). -/
def stopHere (s : State) : Res := .next (s.setCore { s.core with run := .stopped, wait := none })

/-- KERF (R159): 1 cc with no request pending; else the three steps, and the core holds there until the placer is done,
or stops. -/
def execKerf (s : State) : Res :=
  if s.core.stage = 1 ∨ s.curRequest = false then
    if s.curStopping then (kerfSteps s).bind fun _ s => stopHere s else .next (complete s.core s)
  else (kerfSteps s).bind fun _ s => if s.curStopping then stopHere s else waitFor .kerf 0 s

/-! ### The record (R414) -/

/-- The base of the current page's code section, for offsets of REGIONS entries. -/
def State.codeBase (s : State) : Option Nat :=
  match s.curLaunch with
  | none => none
  | some l => (l.img.codes.find? fun c => c.index == s.curPage.ix || c.index == 0xFFFF).map fun c => l.image + c.off

/-- The REGIONS entry whose start offset is the pc (R92, R172). -/
def State.regionHere (s : State) : Option (Nat × Nat × Nat × Nat) :=
  match s.codeBase, s.curLaunch with
  | some b, some l => l.img.regions.find? fun z => (z.1 == s.curPage.ix || z.1 == 0xFFFF) && b + z.2.2.1 == s.core.pc.toNat
  | _, _ => none

/-- An element's snapshot: accumulators, amax and status (R172). -/
def Elem.snap (x : Elem) : Elem :=
  { Elem.reset with acc := x.acc, accInt := x.accInt, run := x.run, amax := x.amax, status := x.status }

/-- An element's fields as the record holds them: PART left out, each SHIM at the image's floor (R414). -/
def Elem.fieldsKept (x : Elem) : FMap (BitVec 12) :=
  let base := { Elem.reset with cfg := x.cfg }
  let y := (List.range 9).foldl (fun (y : Elem) k =>
    let f := 32 + k
    y.setFld f (BitVec.ofNat 12 (y.fld f % 16 + fgetD x.floors f 0 % 32 * 16 + y.fld f / 512 * 512))) base
  (y.setFld 45 (fieldReset 45)).cfg

/-- The bytes of an element's shadow tile (R414). -/
def Elem.shadow (x : Elem) : List Byte :=
  let acc := (x.acc.take 256).flatMap fun a => toBytes 4 a.bits.toNat
  acc ++ List.replicate (1024 - acc.length) 0 ++ toBytes 4 x.amax.toNat ++ [x.status] ++ List.replicate 3067 0

/-- The snapshot enters an element's shadow tile. -/
def Page.putShadow (pg : Page) (e : Nat) : Page :=
  let b := (pg.elem e).shadow
  let blk (k : Nat) : Data := dataOf ((b.drop (64 * k)).take 64)
  let bs : FMap (Data × Desc) := (List.range 64).filterMap fun k => if blk k = 0 then none else some (k, (blk k, 0x7F00#16))
  let t : Tile := { pg.tile e 47 with blocks := bs }
  if t = Tile.reset then { pg with tiles := fdel pg.tiles (e * 64 + 47) } else pg.setTile e 47 t

/-- The streams of a page: port, whether pending, stream. -/
def Page.streams (pg : Page) : List (Nat × Bool × Stream) :=
  (List.range 8).flatMap fun k =>
    let y := pg.port k
    (match y.act with
      | some x => [(k, false, x)]
      | none => []) ++ (match y.pend with
      | some x => [(k, true, x)]
      | none => [])

/-- The commands of a page that are outstanding, its core's and its elements' (R172, R414). -/
def State.pageCmds (s : State) (p : Nat) : List KeptCmd :=
  s.engines.flatMap fun z => (z.2.cmds.filter fun c => decide (c.page = p)).map fun c =>
    ⟨c.op, if c.op = 0 then z.1 % 8 + 1 else 0, c.bytes, if c.bytes.isEmpty then (c.idx.head?).getD 0 else 0, c.ticket,
      c.elem, c.crx⟩

/-- A core as the record holds it: nothing of an instruction in progress, no cached bytes. -/
def Core.recorded (c : Core) : Core :=
  { c.clearStage with l1d := [], l1i := [], lbuf := [], regionReads := [], hazard := none }

/-- The counts of the page's link endpoints: link number, outbound, PROD or CONS (R416). -/
def State.linkCounts (s : State) (t ix : Nat) (img : Image) : List (Nat × Bool × Nat) :=
  (img.links.filter fun e => decide (e.elem / 64 = ix)).filterMap fun e =>
    (s.linkOf t e.num e.out).map fun z => (e.num, e.out, if e.out then z.2.prodN else z.2.consN)

/-- Tokens that a link's consumer had taken at its REGION are freed (R357, R416). -/
def Link.free (l : Link) : Link :=
  { l with recN := l.consN, queue := l.queue.drop (l.consN - l.first), first := Nat.max l.first l.consN }

/-- Frees the tokens of the page's inbound links. -/
def State.freeLinks (s : State) (t ix : Nat) (img : Image) : State :=
  (img.links.filter fun e => decide (e.elem / 64 = ix) && !e.out).foldl (fun s e =>
    match s.linkOf t e.num false with
    | some (n, l) => { s with links := fput s.links n l.free }
    | none => s) s

/-- REGION writes the page's record and its shadow tiles, and frees the link tokens that its page has taken (R172,
R414, R416). -/
def State.recordRegion (s : State) (img : Image) (number : Nat) (code : Nat × Nat) (mask : Word) : State :=
  let pg := s.curPage
  let c := { pg.core with regno := BitVec.ofNat 64 number, regionReads := [] }
  let r : Region := {
    regno := c.regno, code := code, core := c.recorded, streams := pg.streams, cmds := s.pageCmds s.cur,
    fields := pg.elems.map fun z => (z.1, z.2.fieldsKept),
    snaps := pg.elems.filterMap fun z => if z.2.snap = Elem.reset then none else some (z.1, z.2.snap),
    links := s.linkCounts pg.truss pg.ix img, keep := mask.truncate 47 }
  let pg := (List.range 64).foldl Page.putShadow { pg with core := c, region := some r }
  (s.setPage s.cur pg).freeLinks pg.truss pg.ix img

/-! ### Restart (R415) -/

/-- A recorded stream is issued again at its walk position; one whose tensor is gone fails the truss with HANDLE. -/
def State.reissueStream (s : State) (z : Nat × Bool × Stream) : State :=
  let x := z.2.2
  if !s.handleOk s.curPart x.slot x.gen then s.failPage s.cur 0x04 (56 + z.1 % 4)
  else
    let s := s.refSlot s.curPart x.slot
    let y := (s.curPage).port z.1
    let y := if z.2.1 then { y with pend := some x.again } else { y with act := some x.again, count := BitVec.ofNat 32 x.pos }
    s.setPage s.cur (s.curPage.setPort z.1 y)

/-- A recorded command is issued again whole, a core's with its ticket, and its plate tiles become ENGINE again; one whose
tensors or tiles it can name no more completes FAILED, and an element's then as one whose descriptor is refused does (R156,
R415). -/
def State.reissueCmd (s : State) (t : Truss) (z : KeptCmd) : State :=
  let bay := bayOf s.cur
  let c := { EngCmd.start z.op z.bytes t s.curPage.truss s.cur z.ticket with elem := z.elem, crx := z.crx }
  let s := match z.ticket with
    | some n => s.setCore (s.core.setTicket n 0)
    | none => s
  let gone := (engHandles z.op z.bytes).any (fun h => !s.handleOk t.part (hSlot h) (hGen h)) || (s.engSides z.op z.bytes t bay).isNone
  match s.chooseEngine bay z.op z.sel, !z.bytes.isEmpty && gone with
  | some g, false =>
    if z.bytes.isEmpty then
      { s with engines := fput s.engines g (let e := fgetD s.engines g Engine.reset; { e with cmds := e.cmds ++ [{ c with idx := [z.addr] }] }) }
    else s.putCmd g c t bay
  | _, _ =>
    match z.ticket with
    | some n => s.setCore (s.core.setTicket n 3)
    | none => s.cfgInvalid s.curPage.truss z.elem

/-- An engine that a restarted page's recorded commands need takes no command now (R415, R424). -/
def State.reissueWaits (s : State) : Bool :=
  s.curPage.restart && (s.curPage.region.map Region.cmds).any fun l =>
    l.any fun z => (s.chooseEngine (bayOf s.cur) z.op z.sel).isNone

/-- Before the REGION of a restarted page records anew, what its record holds is issued again (R415). -/
def State.reissue (s : State) (t : Truss) : State :=
  match s.curPage.restart, s.curPage.region with
  | true, some r =>
    let s := r.streams.foldl State.reissueStream s
    let s := r.cmds.foldl (fun s z => s.reissueCmd t z) s
    s.setPage s.cur { s.curPage with restart := false }
  | _, _ => s

/-- REGION (R172, R414, R415); a truss being stopped stops here as at a kerf (R24). -/
def execRegion (a : Reg) (s : State) : Res :=
  match s.regionHere, s.trussOf s.cur, s.curLaunch with
  | some z, some t, some l =>
    let mask := s.core.rd a
    if mask.toNat / 2 ^ 47 ≠ 0 then trapWord (.region a) s
    else if 0 < t.depth then trapHere causeWorld 0 s
    else if s.curStopping then (kerfSteps s).bind fun _ s => stopHere s
    else if s.reissueWaits then waitFor .engineSlot 0 s
    else
      let s := (s.reissue t).recordRegion l.img z.2.1 z.2.2 mask
      .next (complete s.core s)
  | _, _, _ => trapWord (.region a) s

end Sys2Proof.Machine
end

