-- ==== Sys2Proof/Machine/Sync.lean ====
section
/-! DEFINITION. END, the synchronising instructions of a core, and the end of its waits (R124, R125, R163 to R167,
R173, R179). -/

namespace Sys2Proof.Machine

/-! ### END (R124) -/

/-- A core still has a stream, a command or an access in progress (R124, R164). -/
def State.coreBusy (s : State) (p : Nat) : Bool :=
  ((s.page p).ports.toList.any fun y => y.act.isSome || y.pend.isSome)
    || (s.engines.any fun z => z.2.cmds.any fun c => c.page == p && c.ticket.isSome)
    || !s.completeAtScope (pageAgent p 0 0) 2

/-- The current core has ended, with its loops discarded: it counts out of its truss; in a world that may complete its rival's
score (R23, R124, R170, R442). -/
def State.countCore (s : State) : State :=
  let pg := s.curPage
  let c := pg.core
  let off := #v[(c.loop 0).off, (c.loop 1).off, (c.loop 2).off]
  let s := s.setPage s.cur { pg with core := { c.clearStage with run := .ended, loops := off } }
  let s := { s with trusses := fmod s.trusses pg.truss fun x => { x with cores := x.cores - 1, endedAt := x.endedAt ++ [pg.ix] } }
  match s.rivalOf pg.truss with
  | none => s
  | some (f, _, _, _) => State.settleFork 4 f s

/-- END (R124): its steps in order. The loops, which nothing reads meanwhile, are discarded as it completes, so that one
that traps in its write-back leaves them as they were (R118, R174). -/
def execEndCore (s : State) : Res :=
  if s.coreBusy s.cur then waitFor .ending 0 s
  else (release 2 s).bind fun _ s => .next s.countCore

/-! ### BAR.T and PHASE (R163, R164) -/

/-- Every core of a page's truss has reached its `n`-th BAR.T or has passed END (R163). -/
def State.barrierMet (s : State) (p n : Nat) : Bool :=
  match s.trussOf p with
  | none => false
  | some x => (s.heldPages (s.page p).truss x).all fun q =>
      let c := (s.page q).core
      decide (c.run = .ended) || decide (n ≤ c.barrier)

/-- BAR.T (R163). -/
def execBarT (s : State) : Res :=
  let c := s.core
  if c.stage = 1 then .next (complete c s)
  else
    let s := s.setCore { c with barrier := c.barrier + 1 }
    if s.barrierMet s.cur (c.barrier + 1) then .next (complete s.core s) else waitFor (.barrier (c.barrier + 1)) 0 s

/-- Every core of a truss has executed its PHASE or has ended: the truss arrives, and with the last of them its
participant (R164, R359). -/
def State.phaseArrive (s : State) : State :=
  let pg := s.curPage
  let s := { s with trusses := fmod s.trusses pg.truss fun x => { x with phaseAt := x.phaseAt ++ [pg.ix] } }
  match fget s.trusses pg.truss with
  | none => s
  | some x =>
    let all := (List.range (x.h * x.w)).all fun k => x.phaseAt.contains k || x.endedAt.contains k
    if all then
      let s := { s with launches := fmod s.launches x.launch fun l => { l with arrived := l.arrived ++ [pg.truss] } }
      s.tryArrive x.launch
    else s

/-- PHASE (R164): the number is checked; then the core waits for its work and performs REL.S, arrives, and after the
phase has ended performs ACQ.S. -/
def execPhase (a : Reg) (s : State) : Res :=
  let n := s.core.rd a
  match s.core.stage with
  | 2 =>
    let s := acquire 3 s
    .next (complete s.core s)
  | st =>
    let job := (s.curLaunch.map Launch.job).getD 0
    if st = 0 ∧ (job = 0 ∨ s.jobWord s.curPart job 16 ≠ n.toNat) then trapHere causeBounds n s
    else if st = 0 ∧ 0 < s.curDepth then trapHere causeWorld 0 s
    else
      let s := s.setCore { s.core with stage := 1 }
      if s.coreBusy s.cur then waitFor .quiet 1 s
      else (release 3 s).bind fun _ s =>
        let s := s.setCore { s.core with wait := some (.phase n.toNat), stage := 1 }
        .next s.phaseArrive

/-! ### CWAIT and CADD (R165) -/

/-- The 8-byte counter at a tensor-0 address, as its home holds it in the view of a page's truss. -/
def State.counterAt (s : State) (p addr : Nat) : Option Nat :=
  match s.trussOf p with
  | none => none
  | some t =>
    match (s.xlate (bayOf p) t.part t.view 0 (addr / 2 ^ 16)).1 with
    | .leaf e =>
      match s.placeOf t.part e addr with
      | .ok ph =>
        if s.mayServe t.part ph then
          let b := s.mem.block ph.blk
          if descPoisoned b.2 then none else some (if descIsVoid b.2 then 0 else dataBytes b.1 ph.low 8)
        else none
      | .error _ => none
    | _ => none

/-- CWAIT (R165): reads the counter at its home, and waits until it holds enough; then ACQ.M. -/
def execCwait (a b : Reg) (s : State) : Res :=
  let ea := s.core.rd a
  let n := (s.core.rd b).toNat
  if s.core.stage = 1 then
    let s := acquire 2 s
    .next (complete s.core s)
  else if ea.toNat % 8 ≠ 0 then trapHere causeMisalign ea s
  else if !t0Range ea then trapHere causeBounds ea s
  else (coreRead ea 8 true s).bind fun z s =>
    if descPoisoned z.2.1 then trapHere causePoison ea s
    else if n ≤ z.1 then
      let s := acquire 2 s
      .next (complete s.core s)
    else waitFor (.counter ea.toNat n) 0 s

/-- CADD (R165): REL.M, then an addition at the counter's home, for which the core does not wait; in a world it is
deferred (R171). -/
def execCadd (a b : Reg) (s : State) : Res :=
  let ea := s.core.rd a
  let v := s.core.rd b
  if ea.toNat % 8 ≠ 0 then trapHere causeMisalign ea s
  else if !t0Range ea then trapHere causeBounds ea s
  else if s.core.failed then trapFailed ea s
  else (coreXlate ea true s).bind fun e s =>
    if leafRo e then trapHere causeHandle ea s
    else if 0 < s.curDepth then deferOp ⟨1, [ea, v], [], s.curPage.truss, s.curPage.ix⟩ s.core s
    else (release 2 s).bind fun _ s =>
      let x := s.core
      let s := s.setCore { x with l1d := x.l1d.filter fun l => !(l.line == ea.toNat / 64 && l.view == s.curView) }
      if !(s.req s.me).keepRoom || (s.req s.me).stall.isSome then waitFor .room 0 s
      else (corePlace e ea true s).bind fun p s =>
        let s := s.noteCore ea true
        let q := s.atomicReq s.me s.curPart p 0 0 ea.toNat 8 0 [v]
        .next (complete q.2.core q.2)

/-! ### NOTIFY and CANCEL (R166, R167) -/

/-- NOTIFY (R166): REL.M, then notify(); in a world it is deferred (R171). -/
def execNotify (a b : Reg) (s : State) : Res :=
  let sel := s.core.rd a
  let tail := s.core.rd b
  if sel.toNat / 2 ^ 8 ≠ 0 then trapHere causeBounds sel s
  else if 0 < s.curDepth then deferOp ⟨0, [sel, tail], [], s.curPage.truss, s.curPage.ix⟩ s.core s
  else (release 2 s).bind fun _ s =>
    let s := s.notifyOp s.curPart ((s.curLaunch.map Launch.vf).getD 0) sel tail
    .next (complete s.core s)

/-- CANCEL (R167): the level and identifier are g[a]'s. -/
def execCancel (a : Reg) (s : State) : Res :=
  let v := s.core.rd a
  let level := v.toNat / 2 ^ 60
  if level < 1 ∨ 4 < level then trapHere causeBounds v s
  else if 0 < s.curDepth then trapHere causeWorld 0 s
  else
    let s := s.cancelItems s.curPart level (v.toNat % 2 ^ 60)
    .next (complete s.core s)

/-! ### WAIT_ENDS (R173) -/

/-- The condition that a wait of a page's core waits for holds now; a wait that another event ends answers false. -/
def State.waitOver (s : State) (p : Nat) : Wait → Bool
  | .resp _ => false
  | .stall _ => false
  | .room => (s.req (pageAgent p 0 0)).keepRoom && (s.req (pageAgent p 0 0)).stall.isNone
  | .writes sc => s.completeAtScope (pageAgent p 0 0) sc
  | .tile site tile st => decide (((s.page p).tile site tile).state = st)
  | .port k => ((s.page p).port k).act.isNone && ((s.page p).port k).pend.isNone
  | .streamSlot k => ((s.page p).port k).act.isNone || ((s.page p).port k).pend.isNone
  | .ticket n => decide (s.ticketStatus p (BitVec.ofNat 64 n) ≠ 0) && decide (s.ticketStatus p (BitVec.ofNat 64 n) ≠ 2)
  | .engineSlot => decide ((s.page p).core.outstanding < 16) || (s.page p).restart
  | .ctxRoom => decide ((s.page p).ctx.length < 4)
  | .crxToken => decide (0 < (s.page p).crxHeld)
  | .startRoom => s.startReady p
  | .injRoom q e f => s.hopFree q e f
  | .counter addr n => (s.counterAt p addr).any fun v => decide (n ≤ v)
  | .links es => (s.reserveAll (s.page p).truss es).isSome
  | .barrier n => s.barrierMet p n
  | .phase _ => false
  | .fork => false
  | .kerf => false
  | .wfe t => (s.page p).core.event || decide (t + 65536 ≤ s.now)
  | .quiet => !s.coreBusy p
  | .ending => !s.coreBusy p
  | .plateCmds => !s.plateCmds p
  | .choose =>
    match s.rivalOf (s.page p).truss with
    | some r => s.chooseReady r.2.2.2
    | none => true
  | .yielded => false

/-- A wait for a condition, after which the instruction completes; after any other it goes on where it stood. -/
def Wait.final : Wait → Bool
  | .tile _ _ _ => true
  | .port _ => true
  | .ticket _ => true
  | .counter _ _ => true
  | .barrier _ => true
  | .wfe _ => true
  | .choose => true
  | _ => false

/-- WAIT_ENDS: the condition that the core of a page waits for has come true, or WFE has waited 65 536 cc, and the core
goes on (R173, R179). -/
def execWaitEnds (p : Nat) (s : State) : Res :=
  let c := (s.page p).core
  match c.wait with
  | some w =>
    if c.run = .running ∧ s.waitOver p w = true then
      .next (s.modCore p fun c => c.resume (if w.final then 1 else c.stage))
    else .next s
  | none => .next s

end Sys2Proof.Machine
end

