-- ==== Sys2Proof/Machine/System.lean ====
section
/-! DEFINITION. System instructions: TRAP, ERET, MFS, MTS, WFE, BRK, and a word that decodes to nothing
(R65, R101, R173 to R179). -/

namespace Sys2Proof.Machine

/-- TRAP and BRK complete before they trap: TPC is the pc that the loop-end action leaves (R118, R177). -/
def trapAfter (cause : Nat) (n : BitVec 15) (s : State) : Res :=
  let c := s.core.clearStage.advance
  .next (takeTrap cause c.pc (n.zeroExtend 64) (s.setCore c))

/-- TRAP n (R177). -/
def execTrap (n : BitVec 15) (s : State) : Res := trapAfter causeTrap n s

/-- BRK n (R177). -/
def execBrk (n : BitVec 15) (s : State) : Res := trapAfter causeBrk n s

/-- ERET (R176). -/
def execEret (s : State) : Res :=
  if s.core.inh then .next (completeAt (returnFromTrap s.core) s) else trapWord .eret s

/-- MFS (R101, R178). -/
def execMfs (d : Reg) (r : BitVec 12) (s : State) : Res :=
  match s.sysRead r.toNat with
  | some v => writeReg d v false s
  | none => trapWord (.mfs d r) s

/-- MTS (R101, R178). -/
def execMts (a : Reg) (r : BitVec 12) (s : State) : Res :=
  match s.core.sysWrite s.debugLaunch r.toNat (s.core.rd a) with
  | some c => .next (complete c s)
  | none => trapWord (.mts a r) s

/-- WFE (R179): returns when an event has occurred since the previous WFE, and then forgets it. -/
def execWfe (s : State) : Res :=
  let c := s.core
  if c.event || decide (c.stage = 1) then .next (complete { c with event := false } s)
  else waitFor (.wfe s.now) 1 s

/-- A word that encodes no instruction traps with ILLEGAL; TVAL receives the word (R65). -/
def execIllegalWord (w : Word32) (s : State) : Res := trapHere causeIllegal (w.zeroExtend 64) s

end Sys2Proof.Machine
end

