-- ==== Sys2Proof/Machine/Windows.lean ====
section
/-! DEFINITION. The register windows of the functions: tensors and invalidation, the view pool, answers to page
requests, event rings, debug controls, and the registers with no operation of their own (R295 to R299, R304, R305,
R332, R333, R343 to R347, R361 to R364, R368, R373, R401 to R407, R423, R445). -/

namespace Sys2Proof.Machine

/-- What a function's host does through its window: nothing while the host link is down. The partition is 0x3F, none, for a
function that has none (R343; log 99). -/
def vfOp (vf : Nat) (f : Nat → State → State) (s : State) : Res :=
  if s.start.ready then .next (f (((s.vf vf).part).getD 0x3F) s) else .next s

/-- What it does to its partition: nothing without one. -/
def partOp (vf : Nat) (f : Nat → State → State) (s : State) : Res :=
  match (s.vf vf).part with
  | none => .next s
  | some part => if s.start.ready then .next (f part s) else .next s

/-! ### The tensor window (R298, R299, R304) -/

/-- TWSTAT after an operation on a slot. -/
def State.twResult (s : State) (vf part slot result : Nat) (busy : Bool) : State :=
  let gen := ((s.part part).slot slot).gen.toNat
  s.setVf vf { s.vf vf with twstat := BitVec.ofNat 64 (gen * 256 + result * 16 + (if busy then 1 else 0)) }

/-- TWSTAT with another result, the rest kept. -/
def State.twBusy (s : State) (vf result : Nat) : State :=
  s.setVf vf { s.vf vf with twstat := withResult (s.vf vf).twstat result }

/-- A TWCMD operation: ignored with result BUSY while an INVAL of the function has not completed (R298). -/
def twOp (vf : Nat) (f : Nat → State → State) (s : State) : Res :=
  vfOp vf (fun part s => if (s.vf vf).twinv.isSome then s.twBusy vf 4 else f part s) s

/-- Guest-physical address of a slot's descriptor (R295). -/
def State.slotAddr (s : State) (part slot : Nat) : Nat := (s.part part).twbase.toNat + 64 * slot

/-- The descriptor of a slot as it stands in the table. -/
def State.slotBytes (s : State) (part slot : Nat) : Option (List Byte) :=
  match s.guest part (s.slotAddr part slot) with
  | .ok a => some (dataList (s.mem.block (.hbm a)).1)
  | .refused _ => none

/-- Writes device fields of a slot's descriptor in the table. -/
def State.pokeSlot (s : State) (part slot k : Nat) (l : List Byte) : State :=
  match s.guest part (s.slotAddr part slot) with
  | .ok a => s.pokeBlock (.hbm (a + k)) l
  | .refused _ => s

/-- TENSOR_CREATE (R296 to R298). -/
def execTensorCreate (vf slot : Nat) (s : State) : Res :=
  twOp vf (fun part s =>
    let slot := slot % 2 ^ 16
    let x := (s.part part).slot slot
    if slot = 0 ∨ (s.part part).twslots.toNat ≤ slot then s.twResult vf part slot 1 false
    else if x.state ≠ 0 then s.twResult vf part slot 3 false
    else
      match s.slotBytes part slot with
      | none => s.twResult vf part slot 2 false
      | some d =>
        if !descValid slot d then s.twResult vf part slot 2 false
        else
          let d := listPut d 4 [x.gen, 1]
          let d := listPut d 32 (toBytes 8 (geoOf slot d).size)
          let s := (s.pokeSlot part slot 4 [x.gen, 1]).pokeSlot part slot 32 (toBytes 8 (geoOf slot d).size)
          let s := s.modPart part fun p => p.setSlot slot { x with state := 1, refs := 0, bytes := d }
          s.twResult vf part slot 0 false) s

/-- TENSOR_DESTROY: the slot is dead until its last reference is released (R298, R299). -/
def execTensorDestroy (vf slot : Nat) (s : State) : Res :=
  twOp vf (fun part s =>
    let slot := slot % 2 ^ 16
    let x := (s.part part).slot slot
    if slot = 0 ∨ x.state ≠ 1 then s.twResult vf part slot 1 false
    else
      let st := if x.refs = 0 then 0 else 2
      let s := s.pokeSlot part slot 4 [x.gen + 1, BitVec.ofNat 8 st]
      let s := s.modPart part fun p => p.setSlot slot { x with state := st, gen := x.gen + 1 }
      s.twResult vf part slot 0 false) s

/-- An access of a packet falls in panels [first, first + count) of a slot. -/
def Packet.inPanels (k : Packet) (slot first count : Nat) : Bool :=
  let q := k.off / 2 ^ 16
  k.slot == slot && decide (first ≤ q) && decide (q < first + count)

/-- A store port of a page holds blocks of a slot's panels that it has gathered and not sent. -/
def State.gathers (s : State) (part slot first count : Nat) (z : Nat × Page) : Bool :=
  ((s.trussOf z.1).map Truss.part) == some part && z.2.ports.toList.any fun y =>
    (y.act.any fun x => x.slot == slot) && !y.buf.isEmpty && (List.range y.buf.length).any fun n =>
      decide (first ≤ (y.bufOff + 64 * n) / 2 ^ 16) && decide ((y.bufOff + 64 * n) / 2 ^ 16 < first + count)

/-- An access of the partition to panels of a slot, which used its translation, has not been performed (R304). -/
def State.panelsBusy (s : State) (part slot first count : Nat) : Bool :=
  let hit (k : Packet) : Bool := k.part == part && k.inPanels slot first count
  s.pages.any (s.gathers part slot first count) || s.reqs.any fun r => (r.2.kept.any fun k => hit k.pkt) || r.2.unsent.any hit || r.2.win.any fun e => e.got.isNone && hit e.pkt

/-- Cached translations of panels of a slot are dropped on every bay (R304). -/
def State.dropPanels (s : State) (part slot first count : Nat) : State :=
  s.shootdown fun e => e.part == part && e.slot == slot && decide (first ≤ e.panel) && decide (e.panel < first + count)

/-- INVALs go on: one completes when every access that used a dropped translation has been performed, in the order in
which those of a partition were written (R304, R375). -/
def State.settleInvals (s : State) : State :=
  s.vfs.foldl (fun s z =>
    match (s.vf z.1).twinv with
    | some (slot, first, count, at_) =>
      let part := ((s.vf z.1).part).getD 0x3F
      let earlier := s.vfs.any fun y => y.2.part == some part && match y.2.twinv with
        | some w => decide (w.2.2.2 < at_)
        | none => false
      if earlier || s.panelsBusy part slot first count then s
      else (s.setVf z.1 { s.vf z.1 with twinv := none }).twResult z.1 part slot 0 false
    | none => s) s

/-- Panels that commits have displaced return to the view pool as nothing uses them any more (R304, R433). -/
def State.settlePanels (s : State) : State :=
  (s.parts.map Prod.fst).foldl (fun s pid =>
    let busy := (s.part pid).displaced.filter fun o => s.panelsBusy pid o.1 o.2.1 1
    let free := (s.part pid).displaced.filter fun o => !s.panelsBusy pid o.1 o.2.1 1
    if free.isEmpty then s
    else (s.modPart pid fun p => { p with displaced := busy }).givePanels pid (free.map fun o => o.2.2)) s

/-- INVAL of the panels that TWARG gives (R304). -/
def execInval (vf slot : Nat) (s : State) : Res :=
  twOp vf (fun part s =>
    let slot := slot % 2 ^ 16
    let arg := (s.vf vf).twarg.toNat
    let first := arg % 2 ^ 32
    let count := arg / 2 ^ 32
    let s := s.dropPanels part slot first count
    let s := s.setVf vf { s.vf vf with twinv := some (slot, first, count, s.fresh) }
    (({ s with fresh := s.fresh + 1 }).twResult vf part slot 0 true).settleInvals) s

/-- TENSOR_TABLE_WRITE of TWBASE at offset 0 or TWSLOTS at 8: ignored with result BUSY while a slot other than 0 is live
or dead (R298, R343). -/
def execTensorTableWrite (vf off : Nat) (v : BitVec 64) (s : State) : Res :=
  partOp vf (fun part s =>
    let used := (s.part part).slots.any fun z => z.1 != 0 && decide (z.2.state ≠ 0)
    if off ≠ 0 ∧ off ≠ 8 then s
    else if used then s.twBusy vf 4
    else if off = 0 then s.modPart part fun p => { p with twbase := BitVec.ofNat 64 (v.toNat / 64 * 64) }
    else if isPow2 v.toNat && decide (16 ≤ v.toNat) && decide (v.toNat ≤ 65536) then s.modPart part fun p => { p with twslots := v }
    else s) s

/-! ### The view pool (R445) -/

/-- Pool panels held by a partition's views. -/
def Partition.panelsHeld (p : Partition) : Nat := (p.views.map fun z => z.2.overlay.length + z.2.copying.length).sum

/-- VPADD: at most 65 536 panels, and no reserved bit (R445). -/
def execVpadd (vf : Nat) (v : BitVec 64) (s : State) : Res :=
  partOp vf (fun part s =>
    let p := s.part part
    if v.toNat % 2 ^ 16 ≠ 0 ∨ 2 ^ 48 ≤ v.toNat ∨ 65536 ≤ p.pool.length + p.panelsHeld then s
    else s.givePanels part [v.toNat / 2 ^ 16]) s

/-- VPTAKE: a read takes the free panel added first and returns its address, 0 when none is free (R445). -/
def execVptake (vf : Nat) (s : State) : Res :=
  partOp vf (fun part s =>
    match (s.part part).pool with
    | [] => s.setVf vf { s.vf vf with rdata := 0 }
    | g :: t =>
      let s := s.modPart part fun p => { p with pool := t }
      s.setVf vf { s.vf vf with rdata := BitVec.ofNat 64 (g * 2 ^ 16) }) s

/-! ### Answers to page requests (R403 to R407) -/

/-- An answer that is ignored counts in LATE (R406). -/
def State.lateAnswer (s : State) (part : Nat) : State := s.modPart part fun p => { p with prLate := p.prLate + 1 }

/-- A refused write of PRANS counts in BAD (R403). -/
def State.badAnswer (s : State) (part : Nat) : State := s.modPart part fun p => { p with prBad := p.prBad + 1 }

/-- The agents of a request that are still stalled on it. -/
def State.requestAgents (s : State) (r : PageReq) : List (AgentId × Bool) :=
  r.agents.filter fun z => decide (s.agentStall z.1 = some (.fault r.rid))

/-- The outstanding request that an answer names, which then is outstanding no more; a late answer is counted (R406). -/
def takeRequest (gen : BitVec 8) (rid : BitVec 32) (part : Nat) (f : PageReq → State → State) (s : State) : State :=
  let p := s.part part
  match (if p.gen = gen then p.reqs.find? fun r => r.rid == rid.toNat else none) with
  | none => s.lateAnswer part
  | some r => f r (s.setPart part { p with reqs := p.reqs.filter fun q => q.rid != r.rid })

/-- An agent walks again: it goes on, or meets an entry with V = 0 and joins a new request (R404). -/
def State.rewalk (s : State) (part : Nat) (r : PageReq) (z : AgentId × Bool) : State :=
  let again : Bool := match s.rootOf part r.slot with
    | .ok root => decide (s.walk part root r.panel = .fault)
    | .error _ => false
  if again then
    let q := s.raiseFault part (s.vfOfAgent z.1) z.1 r.slot r.gen r.panel z.2
    q.2.restall z.1 (some q.1)
  else s.restall z.1 none

/-- PRANS_GRANT (R404). -/
def execPransGrant (vf : Nat) (gen : BitVec 8) (rid : BitVec 32) (s : State) : Res :=
  partOp vf (fun part s =>
    takeRequest gen rid part (fun r s => (s.requestAgents r).foldl (fun s z => s.rewalk part r z) s) s) s

/-- PRANS_FAIL: each stalled access ends by its agent's rule (R405). -/
def execPransFail (vf : Nat) (gen : BitVec 8) (rid : BitVec 32) (s : State) : Res :=
  partOp vf (fun part s =>
    takeRequest gen rid part (fun r s => (s.requestAgents r).foldl (fun s z => s.failAgent z.1) s) s) s

/-- PRANS_FAILISO of a guest granule (R403, R406, R407). -/
def execPransFailiso (vf : Nat) (gen : BitVec 8) (granule : BitVec 32) (s : State) : Res :=
  partOp vf (fun part s =>
    let g := granule.toNat
    if 2 ^ 27 ≤ g then s.badAnswer part
    else
      let l := s.refusedBy part g
      if (s.part part).gen ≠ gen ∨ l.isEmpty = true then s.lateAnswer part
      else l.foldl (State.failIso g) s) s

/-! ### Event rings (R362, R363, R373) -/

/-- The guest granule that refused an access of an agent, and whether it was a write. -/
def Requester.refusal (r : Requester) : Option (Nat × Bool) :=
  match r.kept.findSome? Retained.refused with
  | some g => some (g, true)
  | none => (r.win.findSome? WinEntry.refused).map fun g => (g, false)

/-- An agent that an event held stalled goes on once there is room: a refusal sends its event, any other access is
made again (R363). -/
def State.unholdEvent (s : State) (a : AgentId) : State :=
  match (s.req a).refusal with
  | some (g, wr) =>
    let q := s.raiseIso (s.vfOfAgent a) a g wr
    q.2.restall a (some q.1)
  | none => s.restall a none

/-- Held events of a function are written as its ring has room, and agents held for want of room go on (R363). -/
def State.ringOpened (s : State) (vf part : Nat) : State :=
  let s := State.drainEvents vf (s.vf vf).eq.held.length s
  if (s.vf vf).eq.held.length < 64 then
    ((s.stalled part fun st => decide (st = .event)).filter fun a => s.vfOfAgent a == vf).foldl State.unholdEvent s
  else s

/-- EQCONS_WRITE: EQCONS is not lowered; raising it frees room (R362, R363). -/
def execEqconsWrite (vf : Nat) (v : BitVec 64) (s : State) : Res :=
  vfOp vf (fun part s =>
    let x := s.vf vf
    if v.toNat < x.eq.cons.toNat then s else (s.setVf vf { x with eq := { x.eq with cons := v } }).ringOpened vf part) s

/-! ### Debug controls (R333, R368) -/

/-- Injected tokens enter their hops as these have room, by way of the seam where the hop crosses one (R254, R368). -/
def State.pushInjected (s : State) : State :=
  s.pf.injWait.foldl (fun s z =>
    let (p, e, f, t) := z
    if s.hopFree p e f then s.enterHop p e f t
    else { s with pf := { s.pf with injWait := s.pf.injWait ++ [z] } }) { s with pf := { s.pf with injWait := [] } }

/-- HOPINJ: in debug mode, one token for a router output hop (R368). -/
def execHopinj (v : BitVec 64) (s : State) : Res :=
  let n := v.toNat
  let f := bits n 15 6
  let p := bits n 6 9
  if !s.start.ready ∨ !s.pf.debug ∨ bits n 21 11 ≠ 0 ∨ f < 32 ∨ 35 < f ∨ 431 < p then .next s
  else
    let d : Data := BitVec.ofNat 512 (n / 2 ^ 32)
    let t : Token := ⟨0, 0, 1, d, parity d, false⟩
    .next { s with pf := { s.pf with hopinj := v, injWait := s.pf.injWait ++ [(p, n % 64, f, t)] } }.pushInjected

/-! ### MSI-X (R343, R361) -/

/-- A write of half an entry of an MSI-X table: message address, or message data and vector control. A vector that is
unmasked while pending sends its message. -/
def Msix.write (m : Msix) (n : Nat) (high : Bool) (v : Word) : Msix :=
  let old := fgetD m.table n (0, BitVec.ofNat 64 (2 ^ 32))
  let new := if high then (old.1, v) else (v, old.2)
  let m := { m with table := fput m.table n new }
  if m.pending.getLsbD n && !new.2.getLsbD 32 then
    { m with pending := setBitTo m.pending n false, sent := n :: m.sent }
  else m

/-! ### Registers with no operation of their own (R343) -/

/-- An address register takes an aligned address (R343). -/
def alignTo (v : BitVec 64) (n : Nat) : BitVec 64 := BitVec.ofNat 64 (v.toNat / n * n)

/-- A write of PRANS: a bad ANS or a reserved bit counts in BAD (R403). -/
def writePrans (vf : Nat) (v : BitVec 64) (s : State) : Res :=
  let n := v.toNat
  let gen := BitVec.ofNat 8 (bits n 32 8)
  let low := BitVec.ofNat 32 (n % 2 ^ 32)
  if bits n 42 22 ≠ 0 then partOp vf (fun part s => s.badAnswer part) s
  else
    match bits n 40 2 with
    | 1 => execPransGrant vf gen low s
    | 2 => execPransFail vf gen low s
    | 3 => execPransFailiso vf gen low s
    | _ => partOp vf (fun part s => s.badAnswer part) s

/-- A write of TWCMD (R298). -/
def writeTwcmd (vf : Nat) (v : BitVec 64) (s : State) : Res :=
  let slot := v.toNat % 2 ^ 16
  let op := bits v.toNat 16 4
  if 2 ^ 20 ≤ v.toNat ∨ op = 0 ∨ 3 < op then twOp vf (fun part s => s.twResult vf part slot 5 false) s
  else if op = 1 then execTensorCreate vf slot s
  else if op = 2 then execTensorDestroy vf slot s
  else execInval vf slot s

/-- A write of QCMD (R347). -/
def writeQcmd (vf : Nat) (v : BitVec 64) (s : State) : Res :=
  let q := v.toNat % 64
  let op := bits v.toNat 8 2
  if 2 ^ 10 ≤ v.toNat ∨ bits v.toNat 6 2 ≠ 0 ∨ op = 0 then vfOp vf (fun _ s => s.qResult vf q 5) s
  else if op = 1 then execQueueCreate vf q s
  else if op = 2 then execQueueDestroy vf q s
  else execQueueResume vf q s

/-- A write of RSTCMD: a rung other than 1 and 2, or a queue number above 63, gives BADTARGET (R423). -/
def writeRstcmd (vf : Nat) (v : BitVec 64) (s : State) : Res :=
  let target := v.toNat % 2 ^ 60
  match v.toNat / 2 ^ 60 with
  | 1 => execResetQueue vf target s
  | 2 => execResetLaunch vf target s
  | _ => rstOp vf (fun _ _ => none) s

/-- A write of a register of a function's event ring that has no operation of its own (R343, R362). -/
def EventRing.write (r : EventRing) (off : Nat) (v : BitVec 64) : EventRing :=
  match off with
  | 0x00 => { r with base := alignTo v 32 }
  | 0x08 => if v.toNat ≤ 12 then { r with log := v } else r
  | 0x20 => if v.toNat < 32 then { r with vec := v } else r
  | _ => r

/-- A write to a function's window (R343). -/
def writeVf (vf off : Nat) (v : BitVec 64) (s : State) : Res :=
  let set (f : VF → VF) : Res := vfOp vf (fun _ s => s.setVf vf (f (s.vf vf))) s
  if off % 8 ≠ 0 ∨ 2 ^ 15 ≤ off then .next s
  else if off < 0x1000 then
    if off < 0x200 then execNotifyPageWrite vf (off / 8) v s else .next s
  else if 0x6000 ≤ off ∧ off < 0x6200 then
    set fun x => { x with msix := x.msix.write ((off - 0x6000) / 16) (decide (off % 16 = 8)) v }
  else
    match off with
    | 0x1000 => set fun x => { x with qdesc := alignTo v 64 }
    | 0x1008 => writeQcmd vf v s
    | 0x1018 => set fun x => { x with pendbase := alignTo v 8 }
    | 0x1028 => writeRstcmd vf v s
    | 0x2000 => execTensorTableWrite vf 0 v s
    | 0x2008 => execTensorTableWrite vf 8 v s
    | 0x2010 => writeTwcmd vf v s
    | 0x2018 => set fun x => { x with twarg := v }
    | 0x2028 => execVpadd vf v s
    | 0x2040 => execVpabort vf v s
    | 0x4000 => if v.toNat < 2 ^ 18 then set fun x => { x with hpsel := v } else .next s
    | 0x5018 => execEqconsWrite vf v s
    | 0x5030 => writePrans vf v s
    | _ =>
      if 0x5000 ≤ off ∧ off < 0x5030 then
        vfOp vf (fun part s =>
          (s.setVf vf { s.vf vf with eq := (s.vf vf).eq.write (off - 0x5000) v }).ringOpened vf part) s
      else .next s

/-- A write of PCMD (R373). -/
def writePcmd (v : BitVec 64) (s : State) : Res :=
  let pid := v.toNat % 64
  let arg := s.pf.parg.toNat
  if !s.start.ready then .next s
  else if s.pfBusy then .next { s with pf := { s.pf with pstat := withResult s.pf.pstat 4 } }
  else if 2 ^ 11 ≤ v.toNat ∨ bits v.toNat 6 2 ≠ 0 then .next (s.pfResult pid 6 false)
  else
    match bits v.toNat 8 3 with
    | 1 => execPartitionCreate pid s
    | 2 => execPartitionDestroy pid s
    | 3 => execPartitionUpdate pid s
    | 4 => execGranuleGrant pid s
    | 5 => execGranuleRevoke pid s
    | 6 => execPartitionStatus pid s
    | 7 =>
      let rung := bits arg 0 3
      if rung = 3 ∧ bits arg 3 1 = 0 ∧ bits arg 7 1 = 0 ∧ arg < 2 ^ 11 then execResetEngine pid (bits arg 4 3) (bits arg 8 3) s
      else if arg = 4 then execResetPartition pid s
      else if arg = 5 then execResetDevice s
      else .next (s.pfResult pid 2 false)
    | _ => .next (s.pfResult pid 6 false)

/-- A write to the physical function's partition window (R373); at 0x1000 + 8·k to the trim-injection control of switch
output `k`, at 0x5008 to HOPINJ, and at 0x6000 to its MSI-X table, which the spec does not place (R333, R361, R368). -/
def writePf (off : Nat) (v : BitVec 64) (s : State) : Res :=
  let set (f : PF → PF) : Res := if s.start.ready then .next { s with pf := f s.pf } else .next s
  let n := v.toNat
  match off with
  | 0x00 => set fun x => { x with pdesc := alignTo v 64 }
  | 0x08 => if bits n 27 5 = 0 ∧ n < 2 ^ 51 then set fun x => { x with parg := v } else .next s
  | 0x10 => writePcmd v s
  | 0x20 => if 10 ≤ n ∧ n ≤ 60000 then set fun x => { x with sealper := v } else .next s
  | 0x28 => set fun x => { x with sealsel := v }
  | 0x30 => if n % 8 = 0 ∧ n < 6216 then set fun x => { x with sealoff := v } else .next s
  | 0x40 => execSavepoolWrite v s
  | 0x5008 => execHopinj v s
  | 0x60 =>
    if n < s.pf.eq.cons.toNat ∨ !s.start.ready then .next s
    else .next (State.drainPf 64 { s with pf := { s.pf with eq := { s.pf.eq with cons := v } } })
  | _ =>
    if off = 0x48 ∨ off = 0x50 ∨ off = 0x68 then
      if s.start.ready then
        .next (State.drainPf 64 { s with pf := { s.pf with eq := s.pf.eq.write (if off = 0x68 then 0x20 else off - 0x48) v } })
      else .next s
    else if 0x1000 ≤ off ∧ off < 0x1200 ∧ off % 8 = 0 ∧ s.pf.debug ∧ n < 2 ^ 16 ∧ s.start.ready then
      let k := (off - 0x1000) / 8
      .next (s.setOut k { s.out k with inject := BitVec.ofNat 16 n, injCount := 0 })
    else if 0x6000 ≤ off ∧ off < 0x6200 ∧ off % 8 = 0 then
      set fun x => { x with msix := x.msix.write ((off - 0x6000) / 16) (decide (off % 16 = 8)) v }
    else .next s

/-- REGISTER_WRITE: a write of 8 bytes to a window, under the common rules of R343; an unlisted offset is ignored. -/
def execRegisterWrite (win : RegWindow) (off : Nat) (v : BitVec 64) (s : State) : Res :=
  match win with
  | .vf n => writeVf n off v s
  | .pf => writePf off v s

/-! ### Reads (R343) -/

/-- The hot-panel entry that HPSEL selects, for a page that the partition occupies (R305, R364). -/
def State.hotEntry (s : State) (part sel : Nat) : Word × Word :=
  let p := bits sel 0 9
  if ((s.trussOf p).map Truss.part) ≠ some part then (0, 0)
  else
    match ((s.page p).port (bits sel 9 3)).hot[bits sel 12 6]? with
    | none => (0, 0)
    | some e => (BitVec.ofNat 64 (e.2.1 % 2 ^ 32 * 2 ^ 16 + e.1 % 2 ^ 16),
        BitVec.ofNat 64 (e.2.2.2.toNat * 2 ^ 32 + e.2.2.1.toNat))

/-- Queues of a function that hold a hardware slot (QMAP). -/
def State.qmap (s : State) (vf : Nat) : Word :=
  s.queues.foldl (fun x z => if z.1 / 64 = vf ∧ z.2.slot = true then setBitTo x (z.1 % 64) true else x) 0

/-- What a read of a register of a function's window returns; 0 for an unlisted offset (R343). VPTAKE, whose read has an
effect, is the event of that name. -/
def State.readVf (s : State) (vf off : Nat) : Word :=
  let x := s.vf vf
  let part := x.part.getD 0x3F
  let p := s.part part
  let hi (a b : Nat) : Word := BitVec.ofNat 64 (a * 2 ^ 32 + b)
  match off with
  | 0x1000 => x.qdesc
  | 0x1010 => hi x.badnote.toNat x.qstat.toNat
  | 0x1018 => x.pendbase
  | 0x1020 => s.qmap vf
  | 0x1030 => x.rststat
  | 0x2000 => p.twbase
  | 0x2008 => p.twslots
  | 0x2018 => x.twarg
  | 0x2020 => x.twstat
  | 0x2030 => hi p.panelsHeld p.pool.length
  | 0x3000 => p.shavsent
  | 0x3008 => p.shavrecv
  | 0x3010 => p.resends
  | 0x3018 => p.late
  | 0x4000 => x.hpsel
  | 0x4008 => (s.hotEntry part x.hpsel.toNat).1
  | 0x4010 => (s.hotEntry part x.hpsel.toNat).2
  | 0x5000 => x.eq.base
  | 0x5008 => x.eq.log
  | 0x5010 => x.eq.prod
  | 0x5018 => x.eq.cons
  | 0x5020 => x.eq.vec
  | 0x5028 => x.eq.drop
  | 0x5038 => hi p.prLate.toNat (p.prBad.toNat * 2 ^ 16 + p.reqs.length % 2 ^ 16)
  | 0x7000 => x.msix.pending.zeroExtend 64
  | k =>
    if 0x6000 ≤ k ∧ k < 0x6200 then
      let e := fgetD x.msix.table ((k - 0x6000) / 16) (0, BitVec.ofNat 64 (2 ^ 32))
      if k % 16 = 0 then e.1 else e.2
    else 0

/-- What a read of the physical function's windows returns (R373): the partition window, and at 0x1000 + 8·k the
trim-injection control of output `k`, 0 outside debug mode, at 0x2000 + 8·k its trims, at 0x3000 + 8·k its link errors, at
0x4000 + 8·b the errors of bay `b`, at 0x5000 the failing step of a cold start, and at 0x5008 HOPINJ as it was last
written, 0 outside debug mode, places that the spec does not give (R332, R333, R368, R409, R412, R430; log 99). -/
def State.readPf (s : State) (off : Nat) : Word :=
  match off with
  | 0x00 => s.pf.pdesc
  | 0x08 => s.pf.parg
  | 0x18 => s.pf.pstat
  | 0x20 => s.pf.sealper
  | 0x28 => s.pf.sealsel
  | 0x30 => s.pf.sealoff
  | 0x38 => s.sealData
  | 0x40 => s.pf.savepool
  | 0x48 => s.pf.eq.base
  | 0x50 => s.pf.eq.log
  | 0x58 => s.pf.eq.prod
  | 0x60 => s.pf.eq.cons
  | 0x68 => s.pf.eq.vec
  | 0x70 => s.pf.eq.drop
  | k =>
    let n := (k - 0x1000) % 0x1000 / 8
    if k = 0x5000 then BitVec.ofNat 64 s.start.failing
    else if k = 0x5008 then if s.pf.debug then s.pf.hopinj else 0
    else if k % 8 ≠ 0 ∨ k < 0x1000 ∨ 64 ≤ n ∨ 0x4040 ≤ k then 0
    else if k < 0x2000 then if s.pf.debug then (s.out n).inject.zeroExtend 64 else 0
    else if k < 0x3000 then (s.out n).trims
    else if k < 0x4000 then (s.out n).errors
    else (s.bay n).errors

end Sys2Proof.Machine
end

