-- ==== Sys2Proof/Machine/Time.lean ====
section
/-! DEFINITION. The passing of time (R5, R97, R269, R271, R305, R393), the fabric-stall watchdog, and the errors that
strike (R409 to R412, R430). -/

namespace Sys2Proof.Machine

/-! ### Counts of one stretch of time -/

/-- Elements of a page that neither fire nor wait for nothing count STALL or STARVE (R269). -/
def countPage (n : Nat) (run : Bool) (pg : Page) : Page :=
  let one (z : Nat × Elem) : Nat × Elem :=
    let x := z.2
    if x.opc = 0 ∨ x.faulted = true ∨ x.judging ≠ [] then z
    else
      match stallClass x (planOf x.opc pg z.1) with
      | 1 => (z.1, { x with stall := x.stall + BitVec.ofNat 64 n })
      | 2 => (z.1, { x with starve := x.starve + BitVec.ofNat 64 n })
      | _ => z
  if run then { pg with elems := pg.elems.map one } else pg

/-- Saturating addition to a count of 32 bits (R305). -/
def satAdd (x : BitVec 32) (n : Nat) : BitVec 32 :=
  if 2 ^ 32 ≤ x.toNat + n then BitVec.allOnes 32 else x + BitVec.ofNat 32 n

/-- The slot and panels that a port with room for a token, or a store port with one to write, waits on: those of the
reads of its head point that have not come back, and those of a point whose translation stalls it (R305). -/
def State.waitsOn (s : State) (p k : Nat) : List (Nat × Nat) :=
  let y := (s.page p).port k
  let r := s.req (portAgent p k)
  match y.act, s.trussOf p with
  | some x, some t =>
    let bs := pointBlocks x.bytes (s.streamGeo t.part x) x.pos
    let here := (bs.map fun b => (x.slot, b / 1024)).eraseDups
    if k < 4 then
      if 4 ≤ y.queue.length then []
      else if x.pos < x.issued then
        ((((x.tags.take bs.length).filterMap r.entry).filter fun e => e.got.isNone).map fun e =>
          (e.pkt.slot, e.pkt.off / 2 ^ 16)).eraseDups
      else if r.stall.isSome then here else []
    else if y.queue.isEmpty ∨ r.stall.isNone then [] else here
  | _, _ => []

/-- Ports count STARVE of the panels that they wait on (R305). -/
def State.countPorts (s : State) (n p : Nat) : State :=
  (List.range 8).foldl (fun s k =>
    match s.waitsOn p k with
    | [] => s
    | l => s.modPort p k fun y => { y with hot := y.hot.map fun e =>
        if (l.contains (e.1, e.2.1)) = true then (e.1, e.2.1, e.2.2.1, satAdd e.2.2.2 n) else e }) s

/-- A port, element or engine command of a truss waits on memory (R271). -/
def State.awaitsMemory (s : State) (t : Nat) : Bool :=
  s.reqs.any fun z =>
    let core := match agentPage z.1 with
      | some (_, k) => decide (k = 0)
      | none => false
    !core && s.trussOfAgent z.1 == some t
      && (!z.2.kept.isEmpty || !z.2.unsent.isEmpty || z.2.win.any fun e => e.got.isNone)

/-- The watchdog of a truss counts now: it is placed and has not ended, be it being stopped or a copy whose fork has yet to happen
(R271, R388, R408). -/
def State.watching (s : State) (t : Nat) (x : Truss) : Bool :=
  (decide (x.state = .running) || decide (x.state = .stopping) || decide (x.state = .forking)) && !s.awaitsMemory t && !s.trussStalled t && (s.move.map Move.truss) != some t

/-- `n` fc of a truss's fabric-stall watchdog (R271). -/
def State.watch (s : State) (n : Nat) (z : Nat × Truss) : Nat × Truss :=
  (z.1, { z.2 with stallFc := if s.watching z.1 z.2 then z.2.stallFc + n else 0 })

/-- PAGEUS for `n` µs: pages of each placed truss, moves excluded (R393). -/
def State.meterPages (s : State) (n : Nat) : State :=
  s.trusses.foldl (fun s z =>
    if (s.move.map Move.truss) = some z.1 then s else s.meter z.2.part 14 (n * (s.heldPages z.1 z.2).length)) s

/-- What `n` fc and `us` µs count: nothing moves within them (R269, R271, R305, R393). -/
def State.countTime (s : State) (n us : Nat) : State :=
  let s0 := s
  let pages := s.pages.map fun (z : Nat × Page) => (z.1, countPage n (s0.fabricRuns z.1) z.2)
  let s := { s with pages := pages, trusses := s.trusses.map (s0.watch n) }
  let s := (s.pages.map Prod.fst).foldl (fun s p => s.countPorts n p) s
  s.meterPages us

/-- What firmware, the placer and the functions' windows carry on as time passes. -/
def State.carryOn (s : State) : State :=
  let s := (s.queues.map Prod.fst).foldl State.flushRecords s
  (s.settleInvals.settlePanels.settleStart.settleRungs.settleParts).pushInjected

/-- `cc` cycles of 1.6 GHz pass; an fc is two of them (R5). -/
def passTime (cc : Nat) (s : State) : State :=
  let n := (s.now + cc) / 2 - s.now / 2
  let us := (s.now + cc) / 1600 - s.now / 1600
  { s.countTime n us with now := s.now + cc }.carryOn

/-! ### FABSTALL (R271) -/

/-- An element holds a head token at an input. -/
def Elem.hasHead (x : Elem) : Bool := (List.range 4).any fun i => (x.hopHead (inHop i)).isSome

/-- The lowest ELEM of a truss that holds a head token and cannot fire (R271); 0 where none does (DESIGN CHOICE, log 116). -/
def State.stuckElem (s : State) (t : Nat) (x : Truss) : Nat :=
  let sites := ((s.heldPages t x).zipIdx).flatMap fun z => (List.range 64).map fun e => (z.1, z.2, e)
  ((sites.find? fun z => (s.elem z.1 z.2.2).hasHead && still (fireSite z.1 z.2.2 s) s).map fun z => z.2.1 * 64 + z.2.2).getD 0

/-- FABSTALL: the count has reached 2^20 fc, and one event goes to the launch's function; the truss is not stopped
(R271, R362). -/
def execFabstall (t : Nat) (s : State) : Res :=
  match fget s.trusses t with
  | none => .next s
  | some x =>
    if x.stallFc < 2 ^ 20 ∨ x.armed = false then .next s
    else
      let id := ((s.launchOf x).map fun l => l.ident.toNat).getD 0
      let info := x.ix % 2 ^ 16 + s.stuckElem t x % 2 ^ 12 * 2 ^ 16
      let s := { s with trusses := fput s.trusses t { x with armed := false } }
      .next (s.sendEvent (s.vfOfTruss t) ⟨4, BitVec.ofNat 64 id, BitVec.ofNat 64 info⟩).2

/-! ### Errors (R409 to R411) -/

/-- The launch of a page's truss completes FAILED(LINKERR) (R411). -/
def State.pageLinkErr (s : State) (p : Nat) : State :=
  match s.trussOf p with
  | none => s
  | some t => s.failItem (s.page p).truss 0x0A (detailOf 0 (s.page p).ix t.ix)

/-- The token at the head of a hop with bits of its data flipped; its parity stands, and the next router detects it
(R83, R409). -/
def Elem.flip (x : Elem) (h : Nat) (bits : Data) : Elem :=
  match fgetD x.hops h [] with
  | [] => x
  | t :: rest => { x with hops := fput x.hops h ({ t with data := t.data ^^^ bits } :: rest) }

/-- An L1D line with an error in 8 of its bytes: the clean ones are dropped, and with dirty ones among them the dirty bytes of
the line will be written back as POISON (R409, R410). -/
def Core.strikeL1d (c : Core) (line view word : Nat) : Core :=
  let m := byteMask (8 * (word % 8)) 8
  let f (l : L1Line) : L1Line :=
    if l.line == line && l.view == view then
      { l with valid := l.valid &&& (~~~m ||| l.dirty), bad := l.bad || decide (l.dirty &&& m ≠ 0) }
    else l
  { c with l1d := (c.l1d.map f).filter fun l => decide (l.valid ≠ 0) }

/-- An L1I line, and the loop buffer, are dropped for an error and fetched again (R409, R410). -/
def Core.strikeCode (c : Core) (line : Nat) : Core := { c with l1i := fdel c.l1i line, lbuf := [] }

/-- An RDC line becomes POISON (R409, R410). -/
def Bay.strikeRdc (x : Bay) (part block : Nat) : Bay :=
  { x with rdc := x.rdc.map fun l => if l.part == part && l.block == block then { l with desc := descPoison } else l }

/-- An error strikes (R409, R410); one in a step of a start makes it fail (R430). -/
def strike (u : Upset) (s : State) : State :=
  match u with
  | .memory block a =>
    { s with mem := s.mem.setBlock (.hbm (block * 64)) (s.mem.block (.hbm (block * 64))).1 descPoison }.linkErr a
  | .tile p site tile blk =>
    let t := (s.page p).tile site tile
    (s.setPage p ((s.page p).setTile site tile (t.setBlock (blk % 64) ((t.block (blk % 64)).1, descPoison)))).pageLinkErr p
  | .token p e hop bits => s.modElem p e fun x => x.flip hop bits
  | .control p e _ => s.failPage p 0x0A e
  | .l1d p line view word => (s.modCore p fun c => c.strikeL1d line view word).pageLinkErr p
  | .code p line => (s.modCore p fun c => c.strikeCode line).pageLinkErr p
  | .rdc b part block a => (s.setBay b ((s.bay b).strikeRdc part block)).linkErr a
  | .header k => { s with packets := fmod s.packets k fun q => { q with bad := 1 } }
  | .core p => s.failPage p 0x0A 0
  | .elem p e => s.failPage p 0x0A e
  | .warmStep => if s.start.running.isSome then s.warmFailed else s
  | .coldStep step => s.coldFailed step
  | .wear pages channels edges bays => { s with worn := s.worn.extend ⟨pages, channels, edges, bays, s.fuses.stepping⟩ }

end Sys2Proof.Machine
end

