-- ==== Sys2Proof/Machine/Dispatch.lean ====
section
/-! DEFINITION. The dispatch: one arm for each instruction, which calls its meaning. -/

namespace Sys2Proof.Machine

def exec (i : Instr) (s : State) : Host.Outcome State Fault Refusal :=
  match i with
  | .add d a b => Sys2Proof.Machine.execAdd d a b s
  | .sub d a b => Sys2Proof.Machine.execSub d a b s
  | .mul d a b => Sys2Proof.Machine.execMul d a b s
  | .mulh d a b => Sys2Proof.Machine.execMulh d a b s
  | .mulhu d a b => Sys2Proof.Machine.execMulhu d a b s
  | .div d a b => Sys2Proof.Machine.execDiv d a b s
  | .divu d a b => Sys2Proof.Machine.execDivu d a b s
  | .rem d a b => Sys2Proof.Machine.execRem d a b s
  | .remu d a b => Sys2Proof.Machine.execRemu d a b s
  | .and d a b => Sys2Proof.Machine.execAnd d a b s
  | .or d a b => Sys2Proof.Machine.execOr d a b s
  | .xor d a b => Sys2Proof.Machine.execXor d a b s
  | .andn d a b => Sys2Proof.Machine.execAndn d a b s
  | .shl d a b => Sys2Proof.Machine.execShl d a b s
  | .shr d a b => Sys2Proof.Machine.execShr d a b s
  | .sra d a b => Sys2Proof.Machine.execSra d a b s
  | .ror d a b => Sys2Proof.Machine.execRor d a b s
  | .clz d a => Sys2Proof.Machine.execClz d a s
  | .ctz d a => Sys2Proof.Machine.execCtz d a s
  | .popc d a => Sys2Proof.Machine.execPopc d a s
  | .untaint d => Sys2Proof.Machine.execUntaint d s
  | .min d a b => Sys2Proof.Machine.execMin d a b s
  | .max d a b => Sys2Proof.Machine.execMax d a b s
  | .minu d a b => Sys2Proof.Machine.execMinu d a b s
  | .maxu d a b => Sys2Proof.Machine.execMaxu d a b s
  | .seq d a b => Sys2Proof.Machine.execSeq d a b s
  | .slt d a b => Sys2Proof.Machine.execSlt d a b s
  | .sltu d a b => Sys2Proof.Machine.execSltu d a b s
  | .sel d a b c => Sys2Proof.Machine.execSel d a b c s
  | .addi d a imm => Sys2Proof.Machine.execAddi d a imm s
  | .andi d a imm => Sys2Proof.Machine.execAndi d a imm s
  | .ori d a imm => Sys2Proof.Machine.execOri d a imm s
  | .xori d a imm => Sys2Proof.Machine.execXori d a imm s
  | .shli d a n => Sys2Proof.Machine.execShli d a n s
  | .shri d a n => Sys2Proof.Machine.execShri d a n s
  | .srai d a n => Sys2Proof.Machine.execSrai d a n s
  | .slti d a imm => Sys2Proof.Machine.execSlti d a imm s
  | .bfx d a l p => Sys2Proof.Machine.execBfx d a l p s
  | .bfi d a l p => Sys2Proof.Machine.execBfi d a l p s
  | .li d imm => Sys2Proof.Machine.execLi d imm s
  | .lih d imm => Sys2Proof.Machine.execLih d imm s
  | .beq a b off => Sys2Proof.Machine.execBeq a b off s
  | .bne a b off => Sys2Proof.Machine.execBne a b off s
  | .blt a b off => Sys2Proof.Machine.execBlt a b off s
  | .bge a b off => Sys2Proof.Machine.execBge a b off s
  | .bltu a b off => Sys2Proof.Machine.execBltu a b off s
  | .bgeu a b off => Sys2Proof.Machine.execBgeu a b off s
  | .j off => Sys2Proof.Machine.execJ off s
  | .jal off => Sys2Proof.Machine.execJal off s
  | .jr a => Sys2Proof.Machine.execJr a s
  | .jalr d a => Sys2Proof.Machine.execJalr d a s
  | .loop c a n => Sys2Proof.Machine.execLoop c a n s
  | .loopi c n k => Sys2Proof.Machine.execLoopi c n k s
  | .lbrk c => Sys2Proof.Machine.execLbrk c s
  | .endCore => Sys2Proof.Machine.execEndCore s
  | .ldB d a imm => Sys2Proof.Machine.execLdB d a imm s
  | .ldH d a imm => Sys2Proof.Machine.execLdH d a imm s
  | .ldW d a imm => Sys2Proof.Machine.execLdW d a imm s
  | .ldD d a imm => Sys2Proof.Machine.execLdD d a imm s
  | .ldBs d a imm => Sys2Proof.Machine.execLdBs d a imm s
  | .ldHs d a imm => Sys2Proof.Machine.execLdHs d a imm s
  | .ldWs d a imm => Sys2Proof.Machine.execLdWs d a imm s
  | .ldcD d a imm => Sys2Proof.Machine.execLdcD d a imm s
  | .stB t a imm => Sys2Proof.Machine.execStB t a imm s
  | .stH t a imm => Sys2Proof.Machine.execStH t a imm s
  | .stW t a imm => Sys2Proof.Machine.execStW t a imm s
  | .stD t a imm => Sys2Proof.Machine.execStD t a imm s
  | .ldx d a b h z => Sys2Proof.Machine.execLdx d a b h z s
  | .stx t a b h z => Sys2Proof.Machine.execStx t a b h z s
  | .prdD d a imm => Sys2Proof.Machine.execPrdD d a imm s
  | .pwrD t a imm => Sys2Proof.Machine.execPwrD t a imm s
  | .amoW d a b r op => Sys2Proof.Machine.execAmoW d a b r op s
  | .amoD d a b r op => Sys2Proof.Machine.execAmoD d a b r op s
  | .casW d a b r => Sys2Proof.Machine.execCasW d a b r s
  | .casD d a b r => Sys2Proof.Machine.execCasD d a b r s
  | .fence => Sys2Proof.Machine.execFence s
  | .rel c => Sys2Proof.Machine.execRel c s
  | .acq c => Sys2Proof.Machine.execAcq c s
  | .wbr a b c => Sys2Proof.Machine.execWbr a b c s
  | .invr a b c => Sys2Proof.Machine.execInvr a b c s
  | .flr a b c => Sys2Proof.Machine.execFlr a b c s
  | .icinv a b c => Sys2Proof.Machine.execIcinv a b c s
  | .tstat d a => Sys2Proof.Machine.execTstat d a s
  | .tgive a => Sys2Proof.Machine.execTgive a s
  | .ttake a => Sys2Proof.Machine.execTtake a s
  | .tempty a => Sys2Proof.Machine.execTempty a s
  | .twait a st => Sys2Proof.Machine.execTwait a st s
  | .sld a p => Sys2Proof.Machine.execSld a p s
  | .sst a p => Sys2Proof.Machine.execSst a p s
  | .sstop p => Sys2Proof.Machine.execSstop p s
  | .swait p => Sys2Proof.Machine.execSwait p s
  | .sstat d p => Sys2Proof.Machine.execSstat d p s
  | .spush a b k => Sys2Proof.Machine.execSpush a b k s
  | .spop d => Sys2Proof.Machine.execSpop d s
  | .cpy d a e => Sys2Proof.Machine.execCpy d a e s
  | .gath d a => Sys2Proof.Machine.execGath d a s
  | .scat d a => Sys2Proof.Machine.execScat d a s
  | .redc d a => Sys2Proof.Machine.execRedc d a s
  | .ewait a => Sys2Proof.Machine.execEwait a s
  | .epoll d a => Sys2Proof.Machine.execEpoll d a s
  | .cfg a b => Sys2Proof.Machine.execCfg a b s
  | .start => Sys2Proof.Machine.execStart s
  | .kerf => Sys2Proof.Machine.execKerf s
  | .erd d a w => Sys2Proof.Machine.execErd d a w s
  | .round a => Sys2Proof.Machine.execRound a s
  | .lstat d a => Sys2Proof.Machine.execLstat d a s
  | .barT => Sys2Proof.Machine.execBarT s
  | .phase a => Sys2Proof.Machine.execPhase a s
  | .cwait a b => Sys2Proof.Machine.execCwait a b s
  | .cadd a b => Sys2Proof.Machine.execCadd a b s
  | .notify a b => Sys2Proof.Machine.execNotify a b s
  | .cancel a => Sys2Proof.Machine.execCancel a s
  | .forkw d a n => Sys2Proof.Machine.execForkw d a n s
  | .choose => Sys2Proof.Machine.execChoose s
  | .wyield a => Sys2Proof.Machine.execWyield a s
  | .region a => Sys2Proof.Machine.execRegion a s
  | .trap n => Sys2Proof.Machine.execTrap n s
  | .eret => Sys2Proof.Machine.execEret s
  | .mfs d r => Sys2Proof.Machine.execMfs d r s
  | .mts a r => Sys2Proof.Machine.execMts a r s
  | .wfe => Sys2Proof.Machine.execWfe s
  | .brk n => Sys2Proof.Machine.execBrk n s
  | .waitEnds p => Sys2Proof.Machine.execWaitEnds p s
  | .elemAdd p e => Sys2Proof.Machine.execElemAdd p e s
  | .elemSub p e => Sys2Proof.Machine.execElemSub p e s
  | .elemMul p e => Sys2Proof.Machine.execElemMul p e s
  | .fma p e => Sys2Proof.Machine.execFma p e s
  | .mac p e => Sys2Proof.Machine.execMac p e s
  | .elemAbs p e => Sys2Proof.Machine.execElemAbs p e s
  | .neg p e => Sys2Proof.Machine.execNeg p e s
  | .elemMin p e => Sys2Proof.Machine.execElemMin p e s
  | .elemMax p e => Sys2Proof.Machine.execElemMax p e s
  | .minp p e => Sys2Proof.Machine.execMinp p e s
  | .maxp p e => Sys2Proof.Machine.execMaxp p e s
  | .ceq p e => Sys2Proof.Machine.execCeq p e s
  | .cne p e => Sys2Proof.Machine.execCne p e s
  | .clt p e => Sys2Proof.Machine.execClt p e s
  | .cle p e => Sys2Proof.Machine.execCle p e s
  | .elemSel p e => Sys2Proof.Machine.execElemSel p e s
  | .elemAnd p e => Sys2Proof.Machine.execElemAnd p e s
  | .elemOr p e => Sys2Proof.Machine.execElemOr p e s
  | .elemXor p e => Sys2Proof.Machine.execElemXor p e s
  | .elemNot p e => Sys2Proof.Machine.execElemNot p e s
  | .elemShl p e => Sys2Proof.Machine.execElemShl p e s
  | .elemShr p e => Sys2Proof.Machine.execElemShr p e s
  | .elemSra p e => Sys2Proof.Machine.execElemSra p e s
  | .rshr p e => Sys2Proof.Machine.execRshr p e s
  | .req p e => Sys2Proof.Machine.execReq p e s
  | .clmp p e => Sys2Proof.Machine.execClmp p e s
  | .pass p e => Sys2Proof.Machine.execPass p e s
  | .bcst p e => Sys2Proof.Machine.execBcst p e s
  | .perm p e => Sys2Proof.Machine.execPerm p e s
  | .slide p e => Sys2Proof.Machine.execSlide p e s
  | .rcp p e => Sys2Proof.Machine.execRcp p e s
  | .rsq p e => Sys2Proof.Machine.execRsq p e s
  | .sqrt p e => Sys2Proof.Machine.execSqrt p e s
  | .exp2 p e => Sys2Proof.Machine.execExp2 p e s
  | .log2 p e => Sys2Proof.Machine.execLog2 p e s
  | .tanh p e => Sys2Proof.Machine.execTanh p e s
  | .cvt p e => Sys2Proof.Machine.execCvt p e s
  | .bq p e => Sys2Proof.Machine.execBq p e s
  | .dq p e => Sys2Proof.Machine.execDq p e s
  | .pack p e => Sys2Proof.Machine.execPack p e s
  | .unpk p e => Sys2Proof.Machine.execUnpk p e s
  | .rsum p e => Sys2Proof.Machine.execRsum p e s
  | .rmax p e => Sys2Proof.Machine.execRmax p e s
  | .rmin p e => Sys2Proof.Machine.execRmin p e s
  | .acc p e => Sys2Proof.Machine.execAcc p e s
  | .mma p e => Sys2Proof.Machine.execMma p e s
  | .mmao p e => Sys2Proof.Machine.execMmao p e s
  | .mmaz p e => Sys2Proof.Machine.execMmaz p e s
  | .mmaTileWrite p e => Sys2Proof.Machine.execMmaTileWrite p e s
  | .amul p e => Sys2Proof.Machine.execAmul p e s
  | .amma p e => Sys2Proof.Machine.execAmma p e s
  | .aconj p e => Sys2Proof.Machine.execAconj p e s
  | .anorm p e => Sys2Proof.Machine.execAnorm p e s
  | .ainv p e => Sys2Proof.Machine.execAinv p e s
  | .algebraTableRead p e => Sys2Proof.Machine.execAlgebraTableRead p e s
  | .filt p e => Sys2Proof.Machine.execFilt p e s
  | .cmpt p e => Sys2Proof.Machine.execCmpt p e s
  | .cnt p e => Sys2Proof.Machine.execCnt p e s
  | .mrk p e => Sys2Proof.Machine.execMrk p e s
  | .strip p e => Sys2Proof.Machine.execStrip p e s
  | .zip p e => Sys2Proof.Machine.execZip p e s
  | .unzp p e => Sys2Proof.Machine.execUnzp p e s
  | .pld p e => Sys2Proof.Machine.execPld p e s
  | .pst p e => Sys2Proof.Machine.execPst p e s
  | .lbuf p e => Sys2Proof.Machine.execLbuf p e s
  | .tflip p e => Sys2Proof.Machine.execTflip p e s
  | .mld p e => Sys2Proof.Machine.execMld p e s
  | .mst p e => Sys2Proof.Machine.execMst p e s
  | .mamo p e => Sys2Proof.Machine.execMamo p e s
  | .elementMemoryComplete p e n => Sys2Proof.Machine.execElementMemoryComplete p e n s
  | .cmd p e => Sys2Proof.Machine.execCmd p e s
  | .steer p e => Sys2Proof.Machine.execSteer p e s
  | .merge p e => Sys2Proof.Machine.execMerge p e s
  | .carry p e => Sys2Proof.Machine.execCarry p e s
  | .mitre p e => Sys2Proof.Machine.execMitre p e s
  | .scaleToken p e k => Sys2Proof.Machine.execScaleToken p e k s
  | .configToken p e k => Sys2Proof.Machine.execConfigToken p e k s
  | .commandTokenAtElement p e k => Sys2Proof.Machine.execCommandTokenAtElement p e k s
  | .tokenHop p e src => Sys2Proof.Machine.execTokenHop p e src s
  | .loadPortDeliver p k => Sys2Proof.Machine.execLoadPortDeliver p k s
  | .storePortAccept p k => Sys2Proof.Machine.execStorePortAccept p k s
  | .streamFinish p k => Sys2Proof.Machine.execStreamFinish p k s
  | .engineTakeCommand p => Sys2Proof.Machine.execEngineTakeCommand p s
  | .engineCommandComplete b g => Sys2Proof.Machine.execEngineCommandComplete b g s
  | .reduceCombine pid g q => Sys2Proof.Machine.execReduceCombine pid g q s
  | .panelCopy pid view slot panel => Sys2Proof.Machine.execPanelCopy pid view slot panel s
  | .readPkt k => Sys2Proof.Machine.execReadPkt k s
  | .writePkt k => Sys2Proof.Machine.execWritePkt k s
  | .atomicPkt k => Sys2Proof.Machine.execAtomicPkt k s
  | .dataPkt k => Sys2Proof.Machine.execDataPkt k s
  | .arespPkt k => Sys2Proof.Machine.execArespPkt k s
  | .ackPkt k => Sys2Proof.Machine.execAckPkt k s
  | .resendPkt k => Sys2Proof.Machine.execResendPkt k s
  | .ownernakPkt k => Sys2Proof.Machine.execOwnernakPkt k s
  | .abandonPkt k => Sys2Proof.Machine.execAbandonPkt k s
  | .spanPkt k => Sys2Proof.Machine.execSpanPkt k s
  | .spanackPkt k => Sys2Proof.Machine.execSpanackPkt k s
  | .spanresendPkt k => Sys2Proof.Machine.execSpanresendPkt k s
  | .movePkt k => Sys2Proof.Machine.execMovePkt k s
  | .collPkt k => Sys2Proof.Machine.execCollPkt k s
  | .packetAtOutput k => Sys2Proof.Machine.execPacketAtOutput k s
  | .retransmit a n => Sys2Proof.Machine.execRetransmit a n s
  | .linkReplay k => Sys2Proof.Machine.execLinkReplay k s
  | .responseTimeout a tag => Sys2Proof.Machine.execResponseTimeout a tag s
  | .backgroundScrub b n bad => Sys2Proof.Machine.execBackgroundScrub b n bad s
  | .notifyPageWrite vf q v => Sys2Proof.Machine.execNotifyPageWrite vf q v s
  | .scan vf q => Sys2Proof.Machine.execScan vf q s
  | .qstarve vf q => Sys2Proof.Machine.execQstarve vf q s
  | .queueCreate vf q => Sys2Proof.Machine.execQueueCreate vf q s
  | .queueDestroy vf q => Sys2Proof.Machine.execQueueDestroy vf q s
  | .queueResume vf q => Sys2Proof.Machine.execQueueResume vf q s
  | .tensorCreate vf slot => Sys2Proof.Machine.execTensorCreate vf slot s
  | .tensorDestroy vf slot => Sys2Proof.Machine.execTensorDestroy vf slot s
  | .inval vf slot => Sys2Proof.Machine.execInval vf slot s
  | .tensorTableWrite vf off v => Sys2Proof.Machine.execTensorTableWrite vf off v s
  | .vpadd vf v => Sys2Proof.Machine.execVpadd vf v s
  | .vptake vf => Sys2Proof.Machine.execVptake vf s
  | .vpabort vf v => Sys2Proof.Machine.execVpabort vf v s
  | .pransGrant vf gen rid => Sys2Proof.Machine.execPransGrant vf gen rid s
  | .pransFail vf gen rid => Sys2Proof.Machine.execPransFail vf gen rid s
  | .pransFailiso vf gen granule => Sys2Proof.Machine.execPransFailiso vf gen granule s
  | .resetQueue vf q => Sys2Proof.Machine.execResetQueue vf q s
  | .resetLaunch vf lid => Sys2Proof.Machine.execResetLaunch vf lid s
  | .resetEngine pid bay eng => Sys2Proof.Machine.execResetEngine pid bay eng s
  | .resetPartition pid => Sys2Proof.Machine.execResetPartition pid s
  | .resetDevice => Sys2Proof.Machine.execResetDevice s
  | .rungTimeout n => Sys2Proof.Machine.execRungTimeout n s
  | .partitionCreate pid => Sys2Proof.Machine.execPartitionCreate pid s
  | .partitionDestroy pid => Sys2Proof.Machine.execPartitionDestroy pid s
  | .partitionUpdate pid => Sys2Proof.Machine.execPartitionUpdate pid s
  | .granuleGrant pid => Sys2Proof.Machine.execGranuleGrant pid s
  | .channelGrant h c => Sys2Proof.Machine.execChannelGrant h c s
  | .granuleRevoke pid => Sys2Proof.Machine.execGranuleRevoke pid s
  | .partitionStatus pid => Sys2Proof.Machine.execPartitionStatus pid s
  | .savepoolWrite v => Sys2Proof.Machine.execSavepoolWrite v s
  | .eqconsWrite vf v => Sys2Proof.Machine.execEqconsWrite vf v s
  | .hopinj v => Sys2Proof.Machine.execHopinj v s
  | .registerWrite win off v => Sys2Proof.Machine.execRegisterWrite win off v s
  | .launchItem vf q => Sys2Proof.Machine.execLaunchItem vf q s
  | .graphItem vf q => Sys2Proof.Machine.execGraphItem vf q s
  | .graphNodeBegin vf q n m => Sys2Proof.Machine.execGraphNodeBegin vf q n m s
  | .waitItem vf q => Sys2Proof.Machine.execWaitItem vf q s
  | .signalItem vf q => Sys2Proof.Machine.execSignalItem vf q s
  | .phaseCommand vf q => Sys2Proof.Machine.execPhaseCommand vf q s
  | .cancelCommand vf q => Sys2Proof.Machine.execCancelCommand vf q s
  | .qfence vf q => Sys2Proof.Machine.execQfence vf q s
  | .nopItem vf q => Sys2Proof.Machine.execNopItem vf q s
  | .phaseEnd pid job => Sys2Proof.Machine.execPhaseEnd pid job s
  | .trussEnd t => Sys2Proof.Machine.execTrussEnd t s
  | .placeTruss t => Sys2Proof.Machine.execPlaceTruss t s
  | .priorityAging l => Sys2Proof.Machine.execPriorityAging l s
  | .moveCopy => Sys2Proof.Machine.execMoveCopy s
  | .moveRelease => Sys2Proof.Machine.execMoveRelease s
  | .moveAbandon => Sys2Proof.Machine.execMoveAbandon s
  | .pageScrub p => Sys2Proof.Machine.execPageScrub p s
  | .fabstall t => Sys2Proof.Machine.execFabstall t s
  | .forkwTimeout f => Sys2Proof.Machine.execForkwTimeout f s
  | .sealSummary => Sys2Proof.Machine.execSealSummary s
  | .getMeasurements idx sign => Sys2Proof.Machine.execGetMeasurements idx sign s
  | .coldStart => Sys2Proof.Machine.execColdStart s
  | .warmStart => Sys2Proof.Machine.execWarmStart s
  | .warmStartTimeout => Sys2Proof.Machine.execWarmStartTimeout s
  | .illegalWord w => Sys2Proof.Machine.execIllegalWord w s
  | .waitCompletes vf q => Sys2Proof.Machine.execWaitCompletes vf q s

end Sys2Proof.Machine
end

