-- ==== Sys2Proof/Machine/Turns.lean ====
section
/-! DEFINITION. What each kind of turn does (log 1), and the load that `withFetchWord` stands for. -/

namespace Sys2Proof.Machine

/-- The L1D evicts a line: its dirty bytes go to their home, or it stays while they cannot (R131, R306). -/
def evictLine (p line view : Nat) (s : State) : State :=
  let s := { s with cur := p }
  let c := s.core
  match c.line line view with
  | none => s
  | some l =>
    if c.wait.isSome ∨ !c.resp.isEmpty then s
    else
    let drop (s : State) : State :=
      let x := s.core
      s.setCore { x with l1d := x.l1d.filter fun y => !(y.line == line && y.view == view) }
    if l.dirty = 0 then drop s
    else if c.failed = true then s
    else
      match wbLine l s with
      | .ok _ s' => drop s'
      | .stop _ => s

/-- A core's L1I evicts a line (R15), but none of the body of an active loop, whose later iterations see no store into it
(R121). -/
def dropCodeLine (p line : Nat) (s : State) : State :=
  s.modCore p fun c => if c.bodyLine line then c else { c with l1i := fdel c.l1i line }

/-- A bay forgets a translation (R304). -/
def forgetTlb (b part view slot panel : Nat) (s : State) : State :=
  let x := s.bay b
  s.setBay b { x with tlb := x.tlb.filter fun e =>
    !(e.part == part && e.view == view && e.slot == slot && e.panel == panel) }

/-- A bay drops the clean bytes of an RDC line (R307). -/
def forgetRdc (b part block : Nat) (s : State) : State := s.rdcInval b part fun k => k == block

/-- The word at pc is decoded and executed. -/
def execWord (w : Word32) (s : State) : Res :=
  match decode w with
  | .ok i => exec i s
  | .error _ => execIllegalWord w s

/-- A word is fetched and executed. -/
def fetchTurn (s : State) : Res :=
  match fetch s with
  | .stop r => r
  | .word w s' => execWord w (s'.setCore { s'.core with fetched := some w })

/-- One turn of a page's core: it goes on with the instruction in progress; or, between two instructions, it traps for a
write that has been lost, writes back its L1D where a CHOOSE of its rival holds it, takes a pending hazard, or fetches and
executes one word. A core that waits, is held or does not run does nothing (R126, R173, R274, R369, R407, R440). -/
def coreTurn (p : Nat) (s : State) : Res :=
  let s := { s with cur := p }
  let c := s.core
  -- A refused write holds its core in place (R369, R401).
  if c.run ≠ .running ∨ c.wait.isSome = true ∨ (s.req s.me).stall.isSome = true then .next s
  else
    match c.fetched with
    | some w => execWord w s
    | none =>
      if !c.atBoundary then fetchTurn s
      else
        match c.lost, c.hazard with
        | some v, _ => .next (takeTrap causeFaultFailed c.pc v (s.setCore { c with lost := none }))
        | none, h =>
          -- A write-back between instructions that has failed still has to trap.
          if s.chosen p ∨ c.failed = true then holdTurn s
          else
            match h with
            | some v => .next (takeTrap causeHazard c.pc v (s.setCore { c with hazard := none }))
            | none => fetchTurn s

/-- Puts a one-page truss on the current page, where it has none whose core runs: the load that
`withFetchWord` stands for (log 9). -/
def placeOne (s : State) : State :=
  let t := s.fresh
  let img : Image := ⟨1, 1, 64, [⟨0xFFFF, 0, 64, 0⟩], [], [], [], [], [], [], [], [], 0, 0⟩
  let l : Launch := ⟨0, 0, 0, 0, 0, none, 1, 0, img, 0, 0, 0, false, 1, 1, none, false, false, 0, 0, [], false, false, none⟩
  let x : Truss := ⟨t + 1, 0, 1, 1, s.cur / 36, s.cur % 36, 0, .running, 1, 0, 0, 0, none, s.now, none, false, 0, true,
    [], false, [], [], s.now⟩
  let core := { Core.reset with run := .running }
  let core := core.wr 3 1 false
  { s with trusses := fput s.trusses t x, launches := fput s.launches (t + 1) l, fresh := t + 2,
           pages := fput s.pages s.cur { Page.reset with status := .used, truss := t, core := core } }

/-- Makes the current core ready to issue at its pc, within its code area. -/
def readyToFetch (s : State) : State :=
  let s := if s.core.run = .running ∧ (s.curLaunch).isSome = true then s else placeOne s
  let base := s.core.pc.toNat / 64 * 64
  let s := match s.trussOf s.cur with
    | none => s
    | some t =>
      if s.inCode s.core.pc && !s.endOnly then s
      else { s with launches := fmod s.launches t.launch fun l =>
               { l with image := base, img := { l.img with size := 64, codes := [⟨0xFFFF, 0, 64, 0⟩] } } }
  let s := s.setReq s.me { s.req s.me with stall := none }
  s.setCore { s.core.clearStage with lbuf := [], lbufSpan := none, due := [], hazard := none, lost := none }

/-- Stores a word where the current core fetches next: in its L1I line. -/
def putFetchWord (w : Word32) (s : State) : State :=
  let c := s.core
  let a := c.pc.toNat
  let d := (fget c.l1i (a / 64)).getD 0
  s.setCore { c with l1i := fput c.l1i (a / 64) (setBytes d (a % 64) 4 w.toNat) }

end Sys2Proof.Machine
end

