-- ==== Sys2Proof/Machine/Step.lean ====
section
/-! DEFINITION. One step of the module: the next turn of `State.turns` is taken; with no turn given, the current
core moves if it can, and otherwise one cc passes (log 1). -/

namespace Sys2Proof.Machine

/-- What a turn does. -/
def takeTurn (t : Turn) (s : State) : Host.Outcome State Fault Refusal :=
  match t with
  | .core p => coreTurn p s
  | .event i => exec i s
  | .tick cc => .next (passTime cc s)
  | .evict p line view => .next (evictLine p line view s)
  | .dropL1i p line => .next (dropCodeLine p line s)
  | .dropTlb b part view slot panel => .next (forgetTlb b part view slot panel s)
  | .dropRdc b part block => .next (forgetRdc b part block s)
  | .upset u => .next (strike u s)
  | .arrive k => .next (s.bringIn k)
  | .contribute c => .next { s with groups := s.groups ++ [{ c with eng := 64, page := 432, ticket := none }] }
  | .hostWrite addr bytes =>
    if 2 ^ 64 < addr + bytes.length then .fault (.hostAddress addr) else .next (s.hostWrite addr bytes)

/-- One step. -/
def step (s : State) : Host.Outcome State Fault Refusal :=
  match s.turns with
  | t :: ts => takeTurn t { s with turns := ts }
  | [] =>
    if s.core.run = .running ∧ s.core.wait.isNone = true ∧ (s.req (pageAgent s.cur 0 0)).stall.isNone = true then coreTurn s.cur s
    else .next (passTime 1 s)

/-- The state in which the next step fetches and runs the word `w` (log 9): the page of the current core
holds a running truss, its core waits for nothing, the word stands in its L1I at pc, and the turn is its own. -/
def State.withFetchWord (s : State) (nbits w : Nat) : State :=
  let t := putFetchWord (BitVec.ofNat 32 (w % 2 ^ nbits)) (readyToFetch s)
  { t with turns := .core t.cur :: t.turns }

end Sys2Proof.Machine
end

