-- ==== Sys2Proof/Safety.lean ====
section
/-! DEFINITION. The terms in which statements about the machine are made: what a step may change, what it is for a
control-core instruction to complete, and the invariants of a run. -/

namespace Sys2Proof.Claims

open Sys2Proof.Machine

/-! ### Frames -/

/-- Nothing of the module but pages differs, and of the pages only the core of the current one: every byte of memory,
every tile, element, port and queue stays. -/
def CoreOnly (s t : State) : Prop :=
  t = { s with pages := t.pages } ∧ (∀ p, p ≠ s.cur → t.page p = s.page p)
    ∧ t.page s.cur = { s.page s.cur with core := t.core } ∧ ∀ a, t.mem.byte a = s.mem.byte a

/-- Of a core, only general registers, taint bits, the pc, the loops and FLAGS can differ; what the instruction at the
pc had under way is over. -/
def CoreKept (c c' : Core) : Prop :=
  c' = { c with regs := c'.regs, taint := c'.taint, pc := c'.pc, loops := c'.loops, dz := c'.dz, disc := c'.disc,
                stage := 0, wait := none, resp := [], failed := false, wbStall := false, scratch := [], fetched := none }

/-- gD and its taint bit take new values, unless gD is g0; every other register and taint bit stays (R94, R95). -/
def Sets (d : Reg) (v : Word) (tn : Bool) (c c' : Core) : Prop :=
  ∀ r, c'.rd r = (if r = d ∧ d ≠ 0 then v else c.rd r) ∧ c'.tainted r = (if r = d ∧ d ≠ 0 then tn else c.tainted r)

/-- No active loop ends at the pc. -/
def NoLoopEnd (c : Core) : Prop := ∀ k, (c.loop k).act = true → (c.loop k).fin ≠ c.pc

/-- The pc and the loops are those past the word at pc: with an active loop that ends there, what the loop-end action leaves
(R118). -/
def PcPast (c c' : Core) : Prop := c'.pc = c.advance.pc ∧ c'.loops = c.advance.loops

/-- The core takes no single step after the instruction at its pc (R100). -/
def NotStepping (s : State) : Prop := s.core.sstep = false ∨ s.core.inh = true

/-- An instruction leaves the state `t`: it writes gD, and FLAGS as given. -/
structure Result (s t : State) (d : Reg) (v : Word) (tn dz disc : Bool) : Prop where
  /-- Only the core differs. -/
  only : CoreOnly s t
  /-- Of the core, only what is named. -/
  kept : CoreKept s.core t.core
  /-- gD. -/
  sets : Sets d v tn s.core t.core
  /-- FLAGS. -/
  flags : t.core.dz = dz ∧ t.core.disc = disc
  /-- The pc. -/
  pc : PcPast s.core t.core

/-- The instruction completes with `v` in gD and `tn` as its taint, FLAGS unchanged. -/
def Writes (i : Instr) (d : Reg) (v : Word) (tn : Bool) (s : State) : Prop :=
  ∃ t, exec i s = .next t ∧ Result s t d v tn s.core.dz s.core.disc

/-- The instruction completes and writes no general register, FLAGS unchanged. -/
def Passes (i : Instr) (s : State) : Prop := Writes i 0 0 false s

/-- The instruction completes with the pc at `target`; only the pc, and the loops named, differ in the core. -/
def JumpsTo (i : Instr) (target : Word) (loops : Vector Loop 3) (s : State) : Prop :=
  ∃ t, exec i s = .next t ∧ CoreOnly s t ∧ t.core = { s.core.clearStage with pc := target, loops := loops }

/-- Registers, taint bits, loops, FLAGS and the trap registers of a core are those of another, and its pc too: nothing
that a program can name has changed. -/
def SameNamed (c c' : Core) : Prop :=
  (∀ r, c'.rd r = c.rd r ∧ c'.tainted r = c.tainted r) ∧ c'.pc = c.pc ∧ c'.loops = c.loops ∧ c'.dz = c.dz
    ∧ c'.disc = c.disc ∧ c'.tvec = c.tvec ∧ c'.tcause = c.tcause ∧ c'.tpc = c.tpc ∧ c'.tval = c.tval ∧ c'.inh = c.inh
    ∧ c'.regno = c.regno

/-! ### Traps -/

/-- The instruction traps with a cause and TVAL, TPC its own address: what `takeTrap` leaves (R174, R175). -/
def TrapsAs (i : Instr) (cause : Nat) (tval : Word) (s : State) : Prop :=
  exec i s = .next (takeTrap cause s.core.pc tval s)

/-- The instruction traps with ILLEGAL, TVAL its word (R65, R101). -/
def Illegal (i : Instr) (s : State) : Prop := ∃ w, encode i = some w ∧ TrapsAs i 1 (w.zeroExtend 64) s

/-! ### Wider frames -/

/-- Requesters are as they were, but that reads under way may be marked as too old to fill a line. -/
def ReadsKept (s t : State) : Prop :=
  ∀ a, t.req a = { s.req a with win := (t.req a).win }
    ∧ (t.req a).win.map (fun e => { e with stale := false }) = (s.req a).win.map fun e => { e with stale := false }

/-- Of the module, only pages, translation caches and remote-data caches differ, with the marks of reads under way, no other
page than the current one, and memory reads as before. -/
def CacheFrame (s t : State) : Prop :=
  t = { s with pages := t.pages, bays := t.bays, reqs := t.reqs } ∧ ReadsKept s t ∧ (∀ p, p ≠ s.cur → t.page p = s.page p)
    ∧ ∀ a, t.mem.byte a = s.mem.byte a

/-- Every core is as it was, but for the event that WFE waits for. -/
def CoresKept (s t : State) : Prop :=
  ∀ p, (t.page p).core = { (s.page p).core with event := (t.page p).core.event }

/-- The instruction waits at its pc: nothing that a program can name has changed, and the core waits for `w`. -/
def WaitsFor (i : Instr) (w : Wait) (s : State) : Prop :=
  ∃ t, exec i s = .next t ∧ CoreOnly s t ∧ t.core.wait = some w ∧ SameNamed s.core t.core

/-! ### Invariants and runs -/

/-- Memory is in its canonical form: addresses rise, and no entry equals what an unlisted address reads as. -/
def MemoryCanonical (s : State) : Prop := s.mem.wf = true

/-- A step goes on. -/
def Goes (s : State) : Prop := ∃ t, step s = .next t

/-- A run of `n` steps from `s` ends in `t`. -/
def Runs : Nat → State → State → Prop
  | 0, s, t => t = s
  | n + 1, s, t => ∃ u, step s = .next u ∧ Runs n u t

end Sys2Proof.Claims
end

