-- ==== Sys2Proof/Certificates/Slice0/Obligations.lean ====
section
/-! DEFINITION. The statements: what the numbered rules of the spec say of the machine, for the provers.

`exec i s = .next t` says that instruction `i` completes in `s` and leaves `t`; the frames (`CoreOnly`, `CoreKept`,
`Result`) are defined in Safety. Where a statement says only where an instruction completes, another says where it
traps. -/

open Sys2Proof Sys2Proof.Machine Sys2Proof.Claims

/-! ## Encoding -/

/-- Decode and encode agree: the word that the encoding tables give an instruction decodes to that instruction, with
every operand at every value the encoding admits (R63 to R72). -/
def Obligations.DecodeOfEncode : Prop := ∀ i w, encode i = some w → decode w = .ok i

/-- No bit of a word is dropped: a word that decodes is the word of the instruction it decodes to (R63 to R72). -/
def Obligations.EncodeOfDecode : Prop := ∀ w i, decode w = .ok i → encode i = some w

/-- Words of the spec's own examples decode as it says: SUB g3, g4, g5; CLZ g2, g3; UNTAINT g7; BFX g5, g6, 8, 12;
SEL g9, g1, g2, g3; LI g5, 0x12345; LIH g5, 0x6789A; JR g31; JALR g31, g8; LBRK lc1; SPUSH ctx, g5, g6, 1; START;
BAR.T; ERET; WFE; END; FENCE. -/
def Obligations.ExampleWords : Prop :=
  decode 0x02321401#32 = .ok (.sub 3 4 5) ∧ decode 0x04218008#32 = .ok (.clz 2 3)
    ∧ decode 0x0470000B#32 = .ok (.untaint 7) ∧ decode 0x185302C8#32 = .ok (.bfx 5 6 11 8)
    ∧ decode 0x06910C27#32 = .ok (.sel 9 2 3 1) ∧ decode 0x1C512345#32 = .ok (.li 5 0x12345)
    ∧ decode 0x1E56789A#32 = .ok (.lih 5 0x6789A) ∧ decode 0x300F8000#32 = .ok (.jr 31)
    ∧ decode 0x33F40000#32 = .ok (.jalr 31 8) ∧ decode 0x38800000#32 = .ok (.lbrk 1)
    ∧ decode 0x8C029881#32 = .ok (.spush 5 6 1) ∧ decode 0xAE000000#32 = .ok .start
    ∧ decode 0xC0000000#32 = .ok .barT ∧ decode 0xE2000000#32 = .ok .eret
    ∧ decode 0xE8000000#32 = .ok .wfe ∧ decode 0x3A000000#32 = .ok .endCore ∧ decode 0x68000000#32 = .ok .fence

/-! ## A step of a core -/

/-- What a core may do at its turn: it runs, has nothing under way, is held by no stall and no CHOOSE, and has neither a lost write
nor a hazard to take. -/
def Claims.MayIssue (p : Nat) (s : State) : Prop :=
  let c := (s.page p).core
  c.run = .running ∧ c.clearStage = c ∧ c.lost = none ∧ c.hazard = none ∧ s.chosen p = false
    ∧ (s.req (pageAgent p 0 0)).stall = none

/-- The word `w` stands at the pc of the current core: in its code area, in an L1I line, with no loop buffer in play and no line of a
loop's body still to be fetched. -/
def Claims.WordAt (w : Word32) (s : State) : Prop :=
  s.endOnly = false ∧ s.inCode s.core.pc = true ∧ s.core.bufferHas s.core.pc.toNat = false ∧ s.core.due = []
    ∧ ∃ d, fget s.core.l1i (s.core.pc.toNat / 64) = some d ∧ lane d (s.core.pc.toNat % 64 / 4) = w

/-- The current core holds `w` as the instruction it has under way. -/
def Claims.holding (w : Word32) (s : State) : State := s.setCore { s.core with fetched := some w }

/-- A step runs the decoded instruction: where the turn is a core's that may issue, and the word at its pc decodes to
`i`, the step is `exec i` in the state in which that core is the current one, the turn is taken and the core holds the word; and a
core that has an instruction under way and waits for nothing executes that one. -/
def Obligations.StepRunsDecoded : Prop :=
  ∀ (s : State) (p : Nat) (ts : List Turn) (w : Word32) (i : Instr), s.turns = .core p :: ts → decode w = .ok i →
    (Claims.MayIssue p s → Claims.WordAt w { s with turns := ts, cur := p } →
      step s = exec i (Claims.holding w { s with turns := ts, cur := p }))
    ∧ ((s.page p).core.run = .running → (s.page p).core.wait = none → (s.req (pageAgent p 0 0)).stall = none →
      (s.page p).core.fetched = some w → step s = exec i { s with turns := ts, cur := p })

/-- A word that decodes to no instruction traps with ILLEGAL: TPC receives its address and TVAL the word (R65). -/
def Claims.StepTrapsUndecoded : Prop :=
  ∀ (s : State) (p : Nat) (ts : List Turn) (w : Word32) (e : DecodeError),
    s.turns = .core p :: ts → Claims.MayIssue p s → Claims.WordAt w { s with turns := ts, cur := p } →
      decode w = .error e →
        step s = .next (takeTrap 1 (s.page p).core.pc (w.zeroExtend 64) { s with turns := ts, cur := p })
          ∧ exec (.illegalWord w) { s with turns := ts, cur := p } = step s

/-- With no turn given, the current core moves where it can; otherwise one cc passes, and only then (the model's
choice of who moves, log 1). -/
def Claims.StepWithoutTurns : Prop :=
  ∀ s : State, s.turns = [] →
    let can := s.core.run = .running ∧ s.core.wait = none ∧ (s.req (pageAgent s.cur 0 0)).stall = none
    (can → step s = step { s with turns := [.core s.cur] }) ∧ (¬ can → step s = step { s with turns := [.tick 1] })

/-! ## Integer arithmetic (R105 to R110) -/

/-- ADD, SUB, MUL, MULH and MULHU: the low or high half of the exact result in gD, its taint the OR of the operands',
FLAGS and all else unchanged (R95, R105). -/
def Claims.AddSubMulResults : Prop :=
  ∀ (s : State) (d a b : Reg), NotStepping s →
    let x := s.core.rd a
    let y := s.core.rd b
    let tn := s.core.tainted a || s.core.tainted b
    Writes (.add d a b) d (x + y) tn s ∧ Writes (.sub d a b) d (x - y) tn s ∧ Writes (.mul d a b) d (x * y) tn s
      ∧ Writes (.mulh d a b) d ((x.signExtend 128 * y.signExtend 128).extractLsb' 64 64) tn s
      ∧ Writes (.mulhu d a b) d ((x.zeroExtend 128 * y.zeroExtend 128).extractLsb' 64 64) tn s

/-- DIV, DIVU, REM and REMU by a divisor other than 0: quotient toward zero and remainder of the dividend's sign, FLAGS
unchanged; by 0, all ones or the dividend, with FLAGS.DZ set (R95, R98, R105). -/
def Claims.DivisionResults : Prop :=
  ∀ (s : State) (d a b : Reg), NotStepping s →
    let x := s.core.rd a
    let y := s.core.rd b
    let tn := s.core.tainted a || s.core.tainted b
    (y ≠ 0 →
      Writes (.div d a b) d (x.sdiv y) tn s ∧ Writes (.divu d a b) d (x / y) tn s
        ∧ Writes (.rem d a b) d (x.srem y) tn s ∧ Writes (.remu d a b) d (x % y) tn s)
      ∧ (y = 0 → ∀ i v, (i, v) ∈ [(Instr.div d a b, BitVec.allOnes 64), (.divu d a b, BitVec.allOnes 64),
          (.rem d a b, x), (.remu d a b, x)] →
        ∃ t, exec i s = .next t ∧ Result s t d v tn true s.core.disc)

/-- AND, OR, XOR, ANDN, SHL, SHR, SRA and ROR, bit by bit; a shift takes g[b][5:0] (R95, R106). -/
def Claims.LogicAndShiftResults : Prop :=
  ∀ (s : State) (d a b : Reg), NotStepping s →
    let x := s.core.rd a
    let y := s.core.rd b
    let n := y.toNat % 64
    let tn := s.core.tainted a || s.core.tainted b
    Writes (.and d a b) d (x &&& y) tn s ∧ Writes (.or d a b) d (x ||| y) tn s ∧ Writes (.xor d a b) d (x ^^^ y) tn s
      ∧ Writes (.andn d a b) d (x &&& ~~~y) tn s ∧ Writes (.shl d a b) d (x <<< n) tn s
      ∧ Writes (.shr d a b) d (x >>> n) tn s ∧ Writes (.sra d a b) d (x.sshiftRight n) tn s
      ∧ ∃ v : Word, Writes (.ror d a b) d v tn s ∧ ∀ k, k < 64 → v.getLsbD k = x.getLsbD ((k + n) % 64)

/-- CLZ, CTZ and POPC count the leading zeros, the trailing zeros and the ones of gA; UNTAINT clears the taint of gD and
keeps its value (R95, R106). -/
def Claims.BitCountResults : Prop :=
  ∀ (s : State) (d a : Reg), NotStepping s →
    let x := s.core.rd a
    let tn := s.core.tainted a
    (∃ n, n ≤ 64 ∧ Writes (.clz d a) d (BitVec.ofNat 64 n) tn s ∧ (∀ k, 64 ≤ k + n → x.getLsbD k = false)
        ∧ (n < 64 → x.getLsbD (63 - n) = true))
      ∧ (∃ n, n ≤ 64 ∧ Writes (.ctz d a) d (BitVec.ofNat 64 n) tn s ∧ (∀ k, k < n → x.getLsbD k = false)
        ∧ (n < 64 → x.getLsbD n = true))
      ∧ Writes (.popc d a) d (BitVec.ofNat 64 ((List.range 64).countP fun k => x.getLsbD k)) tn s
      ∧ Writes (.untaint d) d (s.core.rd d) false s

/-- BFX and BFI, bit by bit, for a field within the word; a field that passes bit 63 traps with ILLEGAL (R95, R107).
`l` is the length minus 1. -/
def Claims.BitFieldResults : Prop :=
  ∀ (s : State) (d a : Reg) (l p : BitVec 6),
    let x := s.core.rd a
    let len := l.toNat + 1
    (p.toNat + len ≤ 64 → NotStepping s →
      (∃ v : Word, Writes (.bfx d a l p) d v (s.core.tainted a) s
          ∧ ∀ k, k < 64 → v.getLsbD k = (decide (k < len) && x.getLsbD (p.toNat + k)))
        ∧ ∃ v : Word, Writes (.bfi d a l p) d v (s.core.tainted a || s.core.tainted d) s
          ∧ ∀ k, k < 64 → v.getLsbD k =
            (if p.toNat ≤ k ∧ k < p.toNat + len then x.getLsbD (k - p.toNat) else (s.core.rd d).getLsbD k))
      ∧ (64 < p.toNat + len → ∀ i, i = Instr.bfx d a l p ∨ i = Instr.bfi d a l p → ∃ w, encode i = some w
        ∧ exec i s = .next (takeTrap 1 s.core.pc (w.zeroExtend 64) s))

/-- MIN, MAX, MINU, MAXU, SEQ, SLT, SLTU and SEL; the taint of SEL's gD is the OR of all three (R95, R108). -/
def Claims.CompareAndSelectResults : Prop :=
  ∀ (s : State) (d a b c : Reg), NotStepping s →
    let x := s.core.rd a
    let y := s.core.rd b
    let tn := s.core.tainted a || s.core.tainted b
    Writes (.min d a b) d (if x.toInt ≤ y.toInt then x else y) tn s
      ∧ Writes (.max d a b) d (if x.toInt ≥ y.toInt then x else y) tn s
      ∧ Writes (.minu d a b) d (if x ≤ y then x else y) tn s ∧ Writes (.maxu d a b) d (if x ≥ y then x else y) tn s
      ∧ Writes (.seq d a b) d (if x = y then 1 else 0) tn s
      ∧ Writes (.slt d a b) d (if x.toInt < y.toInt then 1 else 0) tn s
      ∧ Writes (.sltu d a b) d (if x < y then 1 else 0) tn s
      ∧ Writes (.sel d a b c) d (if s.core.rd c = 0 then y else x) (tn || s.core.tainted c) s

/-- The I-form and U-form arithmetic: immediates sign-extended, LIH's zero-extended; LI clears the taint of gD and LIH
keeps it (R95, R109, R110). -/
def Claims.ImmediateResults : Prop :=
  ∀ (s : State) (d a : Reg) (imm : BitVec 15) (n : BitVec 6) (u : BitVec 20), NotStepping s →
    let x := s.core.rd a
    let y : Word := imm.signExtend 64
    let tn := s.core.tainted a
    Writes (.addi d a imm) d (x + y) tn s ∧ Writes (.andi d a imm) d (x &&& y) tn s
      ∧ Writes (.ori d a imm) d (x ||| y) tn s ∧ Writes (.xori d a imm) d (x ^^^ y) tn s
      ∧ Writes (.shli d a n) d (x <<< n.toNat) tn s ∧ Writes (.shri d a n) d (x >>> n.toNat) tn s
      ∧ Writes (.srai d a n) d (x.sshiftRight n.toNat) tn s
      ∧ Writes (.slti d a imm) d (if x.toInt < imm.toInt then 1 else 0) tn s
      ∧ Writes (.li d u) d (u.signExtend 64) false s
      ∧ Writes (.lih d u) d ((s.core.rd d <<< 20) ||| u.zeroExtend 64) (s.core.tainted d) s

/-! ## Branches, jumps and loops (R111 to R122) -/

/-- An active loop of `c` whose body holds the pc and not `target`: a transfer to `target` leaves it (R116). -/
def Claims.Leaves (c : Core) (target : Word) (l : Loop) : Prop :=
  l.act = true ∧ l.beg.toNat ≤ c.pc.toNat ∧ c.pc.toNat ≤ l.fin.toNat
    ∧ ¬ (l.beg.toNat ≤ target.toNat ∧ target.toNat ≤ l.fin.toNat)

/-- The loops after a transfer to `target`: each loop left, and each active loop of a higher LEVEL than one, is
inactive at LEVEL 0 with its other parts kept; the rest are unchanged (R99, R116, R122). -/
def Claims.LoopsAfter (c : Core) (target : Word) (loops : Vector Loop 3) : Prop :=
  ∀ j : Fin 3,
    ((∃ k, Claims.Leaves c target (c.loop k) ∧
        (j = k ∨ ((c.loop j).act = true ∧ (c.loop k).level.toNat < (c.loop j).level.toNat))) →
      loops[j.val] = { c.loop j with act := false, level := 0 })
    ∧ ((¬ ∃ k, Claims.Leaves c target (c.loop k) ∧
        (j = k ∨ ((c.loop j).act = true ∧ (c.loop k).level.toNat < (c.loop j).level.toNat))) →
      loops[j.val] = c.loop j)

/-- The conditional branches: taken, pc + 4·offset with the loops of R116; not taken, the next word. No register, taint
bit or flag changes (R95, R111, R116). -/
def Claims.BranchResults : Prop :=
  ∀ (s : State) (a b : Reg) (off : BitVec 15), NotStepping s →
    let x := s.core.rd a
    let y := s.core.rd b
    let target : Word := s.core.pc + 4 * off.signExtend 64
    ∀ i (c : Prop), (i, c) ∈ [(Instr.beq a b off, x = y), (.bne a b off, x ≠ y), (.blt a b off, x.toInt < y.toInt),
        (.bge a b off, x.toInt ≥ y.toInt), (.bltu a b off, x.toNat < y.toNat), (.bgeu a b off, x.toNat ≥ y.toNat)] →
      (c → ∃ loops, JumpsTo i target loops s ∧ Claims.LoopsAfter s.core target loops) ∧ (¬ c → Passes i s)

/-- J and JR, with the loops of R116; a misaligned JR traps with MISALIGN, TVAL the target, and changes nothing else
(R112, R113, R115, R116). -/
def Claims.JumpResults : Prop :=
  ∀ (s : State) (a : Reg) (off : BitVec 25),
    let target : Word := s.core.pc + 4 * off.signExtend 64
    let x := s.core.rd a
    (NotStepping s → ∃ loops, JumpsTo (.j off) target loops s ∧ Claims.LoopsAfter s.core target loops)
      ∧ (NotStepping s → x.toNat % 4 = 0 → ∃ loops, JumpsTo (.jr a) x loops s ∧ Claims.LoopsAfter s.core x loops)
      ∧ (x.toNat % 4 ≠ 0 → exec (.jr a) s = .next (takeTrap 2 s.core.pc x s))

/-- JAL and JALR: the link pc + 4 with its taint cleared, the target read before the link is written, no loop touched;
JALR with g0 is JR; a misaligned target traps with MISALIGN (R95, R112, R113, R115, R116). -/
def Claims.LinkResults : Prop :=
  ∀ (s : State) (d a : Reg) (off : BitVec 25),
    let x := s.core.rd a
    (NotStepping s → ∃ t, exec (.jal off) s = .next t ∧ CoreOnly s t
        ∧ Sets 31 (s.core.pc + 4) false s.core t.core
        ∧ t.core = { s.core.clearStage with regs := t.core.regs, taint := t.core.taint,
                                             pc := s.core.pc + 4 * off.signExtend 64 })
      ∧ (NotStepping s → x.toNat % 4 = 0 → d ≠ 0 → ∃ t, exec (.jalr d a) s = .next t ∧ CoreOnly s t
        ∧ Sets d (s.core.pc + 4) false s.core t.core
        ∧ t.core = { s.core.clearStage with regs := t.core.regs, taint := t.core.taint, pc := x })
      ∧ exec (.jalr 0 a) s = exec (.jr a) s
      ∧ (x.toNat % 4 ≠ 0 → exec (.jalr d a) s = .next (takeTrap 2 s.core.pc x s))
      ∧ encode (.jr 0) = some 0x30000000 ∧ encode (.jalr 0 0) = some 0x32000000
      ∧ encode (.jr 31) = some 0x300F8000 ∧ encode (.jalr 31 8) = some 0x33F40000

/-- A loop counter that is inactive starts: COUNT, BEG, END, and as LEVEL the number of loops active; the other two are
unchanged, and the pc moves on where no active loop, this one included, ends at it. A count of 0 skips the body; an
active or reserved counter traps with ILLEGAL (R117). -/
def Claims.LoopStarts : Prop :=
  ∀ (s : State) (k : Fin 3) (a : Reg) (n : BitVec 8) (cnt : BitVec 10),
    let c := BitVec.ofNat 2 k.val
    let len : Word := n.zeroExtend 64 + 1
    ∀ i (count : Word), (i, count) ∈ [(Instr.loop c a n, s.core.rd a), (.loopi c n cnt, cnt.zeroExtend 64)] →
      ((s.core.loop k).act = false → NotStepping s →
        (count = 0 → JumpsTo i (s.core.pc + 4 + 4 * len) s.core.loops s)
        ∧ (count ≠ 0 → NoLoopEnd s.core →
          ∃ t, exec i s = .next t ∧ CoreOnly s t
            ∧ t.core = { s.core.clearStage with pc := s.core.pc + 4, loops := t.core.loops, lbuf := t.core.lbuf,
                                                 lbufSpan := t.core.lbufSpan, due := t.core.due }
            ∧ t.core.loop k = ⟨true, BitVec.ofNat 2 ((List.finRange 3).countP fun j => (s.core.loop j).act), count,
                s.core.pc + 4, s.core.pc + 4 * len⟩
            ∧ ∀ j, j ≠ k → t.core.loop j = s.core.loop j))
      ∧ ((s.core.loop k).act = true → ∃ w, encode i = some w ∧
        exec i s = .next (takeTrap 1 s.core.pc (w.zeroExtend 64) s))
      ∧ ∀ j, j = Instr.loop 3 a n ∨ j = .loopi 3 n cnt → ∃ w, encode j = some w ∧
        exec j s = .next (takeTrap 1 s.core.pc (w.zeroExtend 64) s)

/-- The loop-end action: of the active loops that end at the pc, taken from the highest LEVEL down, those with no
iteration left go inactive, and the first with one left starts its next; with none left the pc moves on (R118). Here
`k` is the loop that goes on, if any, and the LEVELs of the loops in question differ. -/
def Claims.LoopEndAction : Prop :=
  ∀ c : Core,
    let ends (j : Fin 3) : Prop := (c.loop j).act = true ∧ (c.loop j).fin = c.pc
    (∀ i j, ends i → ends j → (c.loop i).level = (c.loop j).level → i = j) →
      ((∀ j, ends j → (c.loop j).count.toNat ≤ 1) →
        c.advance.pc = c.pc + 4 ∧ ∀ j, (ends j → c.advance.loop j = { c.loop j with act := false, level := 0 })
          ∧ (¬ ends j → c.advance.loop j = c.loop j))
      ∧ ∀ k, ends k → 1 < (c.loop k).count.toNat →
        (∀ j, ends j → (c.loop k).level.toNat < (c.loop j).level.toNat → (c.loop j).count.toNat ≤ 1) →
        c.advance.pc = (c.loop k).beg ∧ c.advance.loop k = { c.loop k with count := (c.loop k).count - 1 }
          ∧ ∀ j, j ≠ k →
            (ends j → (c.loop k).level.toNat < (c.loop j).level.toNat →
              c.advance.loop j = { c.loop j with act := false, level := 0 })
            ∧ (¬ (ends j ∧ (c.loop k).level.toNat < (c.loop j).level.toNat) → c.advance.loop j = c.loop j)

/-- LBRK leaves a loop: the pc after its END, the counter and every active one of a higher LEVEL inactive. An inactive
counter, and the reserved code, trap with ILLEGAL and the word (R122). -/
def Claims.LoopBreaks : Prop :=
  ∀ (s : State) (k : Fin 3),
    ((s.core.loop k).act = true → NotStepping s →
      ∃ loops : Vector Loop 3, JumpsTo (.lbrk (BitVec.ofNat 2 k.val)) ((s.core.loop k).fin + 4) loops s
        ∧ ∀ j : Fin 3, loops[j.val] =
          (if j = k ∨ ((s.core.loop j).act = true ∧ (s.core.loop k).level.toNat < (s.core.loop j).level.toNat) then
            { s.core.loop j with act := false, level := 0 } else s.core.loop j))
      ∧ ((s.core.loop k).act = false → ∃ w, encode (.lbrk (BitVec.ofNat 2 k.val)) = some w ∧
        exec (.lbrk (BitVec.ofNat 2 k.val)) s = .next (takeTrap 1 s.core.pc (w.zeroExtend 64) s))
      ∧ exec (.lbrk 3) s = .next (takeTrap 1 s.core.pc 0x39800000 s)
      ∧ encode (.lbrk 0) = some 0x38000000 ∧ encode (.lbrk 1) = some 0x38800000

/-- Loops: see `LoopStarts`, `LoopEndAction` and `LoopBreaks`. -/
def Obligations.LoopResults : Prop := Claims.LoopStarts ∧ Claims.LoopEndAction ∧ Claims.LoopBreaks

/-- A step of a core whose word decodes to nothing, and a step with no turn given: see `StepTrapsUndecoded` and
`StepWithoutTurns`. -/
def Obligations.StepOtherwise : Prop := Claims.StepTrapsUndecoded ∧ Claims.StepWithoutTurns

/-- Arithmetic: see `AddSubMulResults` and `DivisionResults`. -/
def Obligations.ArithmeticResults : Prop := Claims.AddSubMulResults ∧ Claims.DivisionResults

/-- Logic, shifts, bit counts and bit fields: see `LogicAndShiftResults`, `BitCountResults` and `BitFieldResults`. -/
def Obligations.BitResults : Prop := Claims.LogicAndShiftResults ∧ Claims.BitCountResults ∧ Claims.BitFieldResults

/-- Comparisons, selection and immediates: see `CompareAndSelectResults` and `ImmediateResults`. -/
def Obligations.SelectionResults : Prop := Claims.CompareAndSelectResults ∧ Claims.ImmediateResults

/-- Branches, jumps and links: see `BranchResults`, `JumpResults` and `LinkResults`. -/
def Obligations.TransferResults : Prop := Claims.BranchResults ∧ Claims.JumpResults ∧ Claims.LinkResults

/-! ## General registers and system registers (R94 to R101) -/

/-- g0 reads as zero, is never tainted, and a write to it is discarded, without a trap: the instruction only passes; a
write to another register changes that one and its taint bit (R94, R95). -/
def Obligations.GeneralRegisters : Prop :=
  (∀ (s : State) (a b : Reg) (u : BitVec 20), NotStepping s → Passes (.add 0 a b) s ∧ Passes (.li 0 u) s)
  ∧ ∀ (c : Core) (d r : Reg) (v : Word) (tn : Bool),
    c.rd 0 = 0 ∧ c.tainted 0 = false ∧ c.wr 0 v tn = c
      ∧ (d ≠ 0 → (c.wr d v tn).rd d = v ∧ (c.wr d v tn).tainted d = tn)
      ∧ (r ≠ d → (c.wr d v tn).rd r = c.rd r ∧ (c.wr d v tn).tainted r = c.tainted r)
      ∧ c.wr d v tn = { c with regs := (c.wr d v tn).regs, taint := (c.wr d v tn).taint }

/-- The numbers of R97 whose value is a field of the state, for a core of truss `t` and launch `l`. -/
def Claims.SystemRegisters (s : State) (t : Truss) (l : Launch) : List (BitVec 12 × Word) :=
  let c := s.core
  let n (k : Nat) : Word := BitVec.ofNat 64 k
  [(0x000, n (bayOf s.cur)), (0x001, n s.cur), (0x002, n (s.page s.cur).ix), (0x003, n t.ix), (0x004, n l.ntruss),
   (0x005, n t.h), (0x006, n t.w), (0x007, n l.ident.toNat), (0x008, n t.part),
   (0x010, n ((List.range 432).countP fun p => !s.fuses.pages.contains p && !s.fuses.bays.contains (bayOf p))),
   (0x012, n (leAt (s.part t.part).record 0 2)), (0x013, n s.fuses.stepping),
   (0x020, n t.world), (0x021, n t.depth), (0x022, n t.view), (0x023, c.regno),
   (0x030, n (s.now - s.cycle0)),
   (0x031, (if c.dz then 1 else 0) + (if c.disc then 2 else 0)),
   (0x040, c.tvec), (0x041, c.tcause), (0x042, c.tpc), (0x043, c.tval), (0x044, if c.inh then 1 else 0),
   (0x050, (c.loop 0).count), (0x051, (c.loop 0).beg), (0x052, (c.loop 0).fin),
   (0x053, (c.loop 1).count), (0x054, (c.loop 1).beg), (0x055, (c.loop 1).fin),
   (0x056, (c.loop 2).count), (0x057, (c.loop 2).beg), (0x058, (c.loop 2).fin),
   (0x060, if l.debug then (if c.haz then 1 else 0) + (if c.sstep then 2 else 0) else 0)]

/-- MFS sets gD to the register that the number names and clears its taint (R97 to R100, R178). -/
def Claims.SystemRegisterReads : Prop :=
  ∀ (s : State) (d : Reg) (t : Truss) (l : Launch), s.trussOf s.cur = some t → fget s.launches t.launch = some l →
    NotStepping s →
      (∀ r v, (r, v) ∈ Claims.SystemRegisters s t l → Writes (.mfs d r) d v false s)
      ∧ (∃ v : Word, Writes (.mfs d 0x011) d v false s
          ∧ ∀ b, b < 64 → v.getLsbD b = (decide (b < 8) && !s.fuses.bays.contains b))
      ∧ (∃ v : Word, Writes (.mfs d 0x059) d v false s ∧ v.getLsbD 3 = false ∧ v.extractLsb' 10 54 = 0
          ∧ ∀ k : Fin 3, v.getLsbD k.val = (s.core.loop k).act
            ∧ v.extractLsb' (4 + 2 * k.val) 2 = if (s.core.loop k).act then (s.core.loop k).level else 0)
      ∧ ∀ m, m < 16 → Writes (.mfs d (BitVec.ofNat 12 (0x100 + m))) d (fgetD s.meters (16 * t.part + m) 0) false s

/-- What MTS writes to a core, by number: FLAGS bits [1:0]; TVEC and TPC with their low two bits zero; TCAUSE and TVAL;
INH; and DBGCTL, in debug mode alone (R97, R98, R100, R175). -/
def Claims.SystemWrites (c : Core) (debug : Bool) (v : Word) : List (BitVec 12 × Core) :=
  [(0x031, { c with dz := v.getLsbD 0, disc := v.getLsbD 1 }),
   (0x040, { c with tvec := v - v % 4 }), (0x041, { c with tcause := v }), (0x042, { c with tpc := v - v % 4 }),
   (0x043, { c with tval := v }), (0x044, { c with inh := v.getLsbD 0 }),
   (0x060, if debug then { c with haz := v.getLsbD 0, sstep := v.getLsbD 1 } else c)]

/-- MTS writes the register and changes nothing else (R97, R98, R100, R175, R178). -/
def Claims.SystemRegisterWrites : Prop :=
  ∀ (s : State) (a : Reg) (r : BitVec 12) (c : Core), (r, c) ∈ Claims.SystemWrites s.core s.debugLaunch (s.core.rd a) →
    c.sstep = false ∨ s.core.inh = true →
      ∃ t, exec (.mts a r) s = .next t ∧ CoreOnly s t ∧ PcPast s.core t.core
        ∧ t.core = { c.clearStage with pc := t.core.pc, loops := t.core.loops }

/-- The numbers that name a register (R97), and those of them that MTS may write. -/
def Claims.Listed (r : BitVec 12) : Prop :=
  let n := r.toNat
  n ≤ 0x008 ∨ (0x010 ≤ n ∧ n ≤ 0x013) ∨ (0x020 ≤ n ∧ n ≤ 0x023) ∨ n = 0x030 ∨ n = 0x031 ∨ (0x040 ≤ n ∧ n ≤ 0x044)
    ∨ (0x050 ≤ n ∧ n ≤ 0x059) ∨ n = 0x060 ∨ (0x100 ≤ n ∧ n ≤ 0x10F)

/-- See `Claims.Listed`. -/
def Claims.Writable (r : BitVec 12) : Prop :=
  r.toNat = 0x031 ∨ (0x040 ≤ r.toNat ∧ r.toNat ≤ 0x044) ∨ r.toNat = 0x060

/-- MFS and MTS with an unlisted number, and MTS of an RO register, trap with ILLEGAL: TVAL holds the word, and no
general register changes, nor any system register but those that trap entry writes (R101). -/
def Claims.SystemRegisterTraps : Prop :=
  ∀ (s : State) (x : Reg) (r : BitVec 12) (i : Instr),
    (i = .mfs x r ∧ ¬ Claims.Listed r) ∨ (i = .mts x r ∧ ¬ Claims.Writable r) →
      Illegal i s
        ∧ ∀ t, exec i s = .next t →
          (∀ g, t.core.rd g = s.core.rd g ∧ t.core.tainted g = s.core.tainted g)
            ∧ t.core.dz = s.core.dz ∧ t.core.disc = s.core.disc ∧ t.core.tvec = s.core.tvec
            ∧ t.core.sstep = s.core.sstep ∧ t.core.haz = s.core.haz ∧ t.core.regno = s.core.regno
            ∧ t.core.loops = s.core.loops ∧ t.meters = s.meters

/-! ## Traps (R174 to R179) -/

/-- Trap entry: with a handler, and outside it, TCAUSE, TPC and TVAL are written, INH is set and pc becomes TVEC.
Otherwise the core stops where it stands and the truss fails: its launch, when it has not failed before and the truss
is in no world, fails with 0x10 + cause. Memory is as it was (R175, R351). -/
def Obligations.TrapEntry : Prop :=
  ∀ (s : State) (cause : Nat) (tpc tval : Word),
    let t := takeTrap cause tpc tval s
    (s.core.tvec ≠ 0 → s.core.inh = false →
      CoreOnly s t ∧ t.core = { s.core.clearStage with tcause := BitVec.ofNat 64 cause, tpc := tpc, tval := tval,
                                                       inh := true, pc := s.core.tvec })
      ∧ (s.core.tvec = 0 ∨ s.core.inh = true →
        t.core.run = .stopped ∧ SameNamed s.core t.core ∧ t.mem = s.mem
          ∧ ∀ x l, fget s.trusses (s.page s.cur).truss = some x → x.fork = none →
            fget s.launches x.launch = some l → l.failure = none →
              fget t.launches x.launch =
                some { l with failure := some (0x10 + cause, detailOf 0 (s.page s.cur).ix x.ix) })

/-- TRAP n and BRK n trap with their causes and TVAL n, once the pc has moved past them (R118, R177). -/
def Claims.SoftwareTraps : Prop :=
  ∀ (s : State) (n : BitVec 15),
    encode (.trap n) = some (0xE0000000#32 ||| n.zeroExtend 32)
      ∧ encode (.brk n) = some (0xEA000000#32 ||| n.zeroExtend 32)
      ∧ ∀ i cause, (i, cause) ∈ [(Instr.trap n, 12), (.brk n, 11)] →
        ∃ u, CoreOnly s u ∧ u.core = s.core.clearStage.advance
          ∧ exec i s = .next (takeTrap cause u.core.pc (n.zeroExtend 64) u)
          ∧ (s.core.tvec ≠ 0 → s.core.inh = false → NoLoopEnd s.core → ∃ t, exec i s = .next t ∧ CoreOnly s t
            ∧ t.core = { s.core.clearStage with tcause := BitVec.ofNat 64 cause, tpc := s.core.pc + 4,
                                                 tval := n.zeroExtend 64, inh := true, pc := s.core.tvec })

/-- ERET returns to TPC and clears INH; outside a handler it traps with ILLEGAL (R176). -/
def Claims.TrapReturn : Prop :=
  decode 0xE2000000#32 = .ok .eret
    ∧ ∀ s : State,
      (s.core.inh = true → ∃ t, exec .eret s = .next t ∧ CoreOnly s t
        ∧ t.core = { s.core.clearStage with pc := s.core.tpc, inh := false })
      ∧ (s.core.inh = false → TrapsAs .eret 1 0xE2000000 s)

/-- TRAP, BRK and ERET: see `SoftwareTraps` and `TrapReturn`. -/
def Obligations.TrapInstructions : Prop := Claims.SoftwareTraps ∧ Claims.TrapReturn

/-- Under single step, an instruction issued outside the handler has its whole effect and then traps with BRK, TVAL 0
and TPC the next instruction's address; one issued inside the handler does not step (R100). Said here of a register
operation, an immediate, a load of an immediate and a jump that leaves no loop. -/
def Obligations.SingleStep : Prop :=
  ∀ (s : State) (d a b : Reg) (imm : BitVec 15) (u : BitVec 20) (off : BitVec 25), s.core.sstep = true →
    let t2 := s.core.tainted a || s.core.tainted b
    (s.core.inh = false →
      (∀ i v tn, (i, v, tn) ∈ [(Instr.add d a b, s.core.rd a + s.core.rd b, t2),
          (.xor d a b, s.core.rd a ^^^ s.core.rd b, t2),
          (.addi d a imm, s.core.rd a + imm.signExtend 64, s.core.tainted a), (.li d u, u.signExtend 64, false)] →
        ∃ t, Result s t d v tn s.core.dz s.core.disc ∧ exec i s = .next (takeTrap 11 t.core.pc 0 t))
      ∧ ((∀ k, (s.core.loop k).act = false) → ∃ t, CoreOnly s t
          ∧ t.core = { s.core.clearStage with pc := s.core.pc + 4 * off.signExtend 64 }
          ∧ exec (.j off) s = .next (takeTrap 11 t.core.pc 0 t)))
      ∧ (s.core.inh = true → Writes (.add d a b) d (s.core.rd a + s.core.rd b) t2 s)

/-- WFE completes at once where an event has occurred since the last WFE, and forgets it; else it waits. WAIT_ENDS
lets it go on after an event, or after 65 536 cc without one, and not before (R173, R179). -/
def Claims.EventWaits : Prop :=
  ∀ s : State,
    (NotStepping s → s.core.event = true ∨ s.core.stage = 1 →
      ∃ t, exec .wfe s = .next t ∧ CoreOnly s t ∧ PcPast s.core t.core
        ∧ t.core = { s.core.clearStage with event := false, pc := t.core.pc, loops := t.core.loops })
      ∧ (s.core.event = false → s.core.stage ≠ 1 → WaitsFor .wfe (.wfe s.now) s)
      ∧ ∀ p t0, (s.page p).core.wait = some (.wfe t0) → (s.page p).core.run = .running →
        ((s.page p).core.event = true ∨ t0 + 65536 ≤ s.now →
          exec (.waitEnds p) s = .next (s.setPage p { s.page p with core :=
            { (s.page p).core with wait := none, stage := 1 } }))
        ∧ ((s.page p).core.event = false → s.now < t0 + 65536 → exec (.waitEnds p) s = .next s)

/-- WAIT_ENDS: a core that waits for a tile, a port, a free stream, ctx, crx, an engine slot or its own writes goes on
when the condition holds, and only the core of its page changes; while it does not hold nothing changes (R142, R145,
R148, R149, R150, R173). -/
def Claims.WaitsEnd : Prop :=
  ∀ (s : State) (p : Nat) (w : Wait) (cond : Prop) (st : Nat) (site tile k : Nat) (x : BitVec 2) (sc : Nat),
    let pg := s.page p
    (w, cond, st) ∈ [(Wait.tile site tile x, (pg.tile site tile).state = x, 1),
        (.port k, (pg.port k).act = none ∧ (pg.port k).pend = none, 1),
        (.streamSlot k, (pg.port k).act = none ∨ (pg.port k).pend = none, pg.core.stage),
        (.ctxRoom, pg.ctx.length < 4, pg.core.stage), (.crxToken, 0 < pg.crxHeld, pg.core.stage),
        (.engineSlot, pg.core.tickets.countP (fun t => t.2 = 0) < 16 ∨ pg.restart = true, pg.core.stage),
        (.writes sc, s.completeAtScope (pageAgent p 0 0) sc = true, pg.core.stage)] →
      pg.core.run = .running → pg.core.wait = some w →
        (cond → exec (.waitEnds p) s = .next (s.setPage p { pg with core := { pg.core with wait := none, stage := st } }))
          ∧ (¬ cond → exec (.waitEnds p) s = .next s)

/-- System registers: see `SystemRegisterTraps`, `SystemRegisterReads` and `SystemRegisterWrites`. -/
def Obligations.SystemRegisterResults : Prop :=
  Claims.SystemRegisterTraps ∧ Claims.SystemRegisterReads ∧ Claims.SystemRegisterWrites

/-- Waits: see `EventWaits` and `WaitsEnd`. -/
def Obligations.WaitResults : Prop := Claims.EventWaits ∧ Claims.WaitsEnd

/-! ## Loads, stores and plate accesses (R127 to R133) -/

/-- The loads but LDC.D, with effective address, size, whether sign-extended, and the taint of the address registers
(R129, R130). -/
def Claims.Loads (c : Core) (d a b : Reg) (imm : BitVec 15) (h : BitVec 2) : List (Instr × Word × Nat × Bool × Bool) :=
  let e := c.rd a + imm.signExtend 64
  let x := c.rd a + (c.rd b <<< h.toNat)
  let ta := c.tainted a
  let tx := c.tainted a || c.tainted b
  [(.ldB d a imm, e, 1, false, ta), (.ldH d a imm, e, 2, false, ta), (.ldW d a imm, e, 4, false, ta),
   (.ldD d a imm, e, 8, false, ta), (.ldBs d a imm, e, 1, true, ta), (.ldHs d a imm, e, 2, true, ta),
   (.ldWs d a imm, e, 4, true, ta), (.ldx d a b h 0, x, 1, false, tx), (.ldx d a b h 1, x, 2, false, tx),
   (.ldx d a b h 2, x, 4, false, tx), (.ldx d a b h 3, x, 8, false, tx), (.ldx d a b h 4, x, 1, true, tx),
   (.ldx d a b h 5, x, 2, true, tx), (.ldx d a b h 6, x, 4, true, tx)]

/-- The stores, with effective address and size (R129, R130). -/
def Claims.Stores (c : Core) (v a b : Reg) (imm : BitVec 15) (h : BitVec 2) : List (Instr × Word × Nat) :=
  let e := c.rd a + imm.signExtend 64
  let x := c.rd a + (c.rd b <<< h.toNat)
  [(.stB v a imm, e, 1), (.stH v a imm, e, 2), (.stW v a imm, e, 4), (.stD v a imm, e, 8), (.stx v a b h 0, x, 1),
   (.stx v a b h 1, x, 2), (.stx v a b h 2, x, 4), (.stx v a b h 3, x, 8)]

/-- Bytes [lo, lo + n) of a mask are all set. -/
def Claims.Covers (m : BitVec 64) (lo n : Nat) : Prop := ∀ k, k < n → m.getLsbD (lo + k) = true

/-- A word made of `size` bytes, zero- or sign-extended. -/
def Claims.Extended (v : Word) (size : Nat) (signed : Bool) (f : Nat → Byte) : Prop :=
  (∀ k, k < size → v.extractLsb' (8 * k) 8 = f k)
    ∧ ∀ j, 8 * size ≤ j → j < 64 → v.getLsbD j = (signed && v.getLsbD (8 * size - 1))

/-- A core may complete a load: it takes no single step, its accesses are not checked for hazards, and the address is
aligned and in range. -/
def Claims.MayAccess (s : State) (ea : Word) (size : Nat) : Prop :=
  NotStepping s ∧ s.hazOn s.cur = false ∧ ea.toNat % size = 0 ∧ ea.toNat < 2 ^ 48

/-- A load whose bytes the L1D holds, with an untainted address: the bytes of the line, of a VOID block the core's own
dirty bytes and else zero with FLAGS.DISC set; a POISON block traps with POISON. Nothing else changes (R33, R95, R129,
R130, R131). -/
def Claims.LoadResults : Prop :=
  ∀ (s : State) (d a b : Reg) (imm : BitVec 15) (h : BitVec 2) (i : Instr) (ea : Word) (size : Nat) (sg : Bool)
    (l : L1Line), (i, ea, size, sg, false) ∈ Claims.Loads s.core d a b imm h → Claims.MayAccess s ea size →
      s.core.line (ea.toNat / 64) s.curView = some l →
        let off := ea.toNat % 64
        (Claims.Covers l.dirty off size ∨ Claims.Covers l.valid off size) →
          (descPoisoned l.desc = true → TrapsAs i 9 ea s)
          ∧ (descPoisoned l.desc = false → ∃ t v disc, exec i s = .next t ∧ Result s t d v false s.core.dz disc
            ∧ Claims.Extended v size sg (fun k =>
                if descIsVoid l.desc = true ∧ l.dirty.getLsbD (off + k) = false then 0 else dataByte l.data (off + k))
            ∧ (disc = true ↔ s.core.disc = true ∨ (descIsVoid l.desc = true ∧ ¬ Claims.Covers l.dirty off size)))

/-- LDC.D, and a load with a tainted address, once the answer of the block's home is at hand: the home's bytes under
the core's own dirty ones, whatever clean bytes the L1D holds, which stays as it is; the taint of gD is set (R95, R129,
R130, R310). -/
def Claims.LoadsFromHome : Prop :=
  ∀ (s : State) (d a b : Reg) (imm : BitVec 15) (h : BitVec 2) (i : Instr) (ea : Word) (size : Nat) (sg : Bool)
    (tag : Nat) (w : BlockW) (rest : List (Nat × BlockW)),
    (i, ea, size, sg, true) ∈ (Instr.ldcD d a imm, s.core.rd a + imm.signExtend 64, 8, false, true)
        :: Claims.Loads s.core d a b imm h → Claims.MayAccess s ea size → s.core.resp = (tag, w) :: rest →
      let off := ea.toNat % 64
      let dirty (k : Nat) : Prop := ∃ l, s.core.line (ea.toNat / 64) s.curView = some l ∧ l.dirty.getLsbD k = true
      (∃ k, k < size ∧ ¬ dirty (off + k)) →
        (descPoisoned w.desc = true → TrapsAs i 9 ea s)
        ∧ (descPoisoned w.desc = false → ∃ t v, exec i s = .next t
          ∧ Result s t d v true s.core.dz (s.core.disc || descIsVoid w.desc) ∧ t.core.l1d = s.core.l1d
          ∧ ∃ f : Nat → Byte, Claims.Extended v size sg f ∧ ∀ k, k < size →
            (∀ l, s.core.line (ea.toNat / 64) s.curView = some l → l.dirty.getLsbD (off + k) = true →
              f k = dataByte l.data (off + k))
            ∧ (¬ dirty (off + k) → f k = if descIsVoid w.desc then 0 else dataByte w.data (off + k)))

/-- Loads and stores of a misaligned address trap with MISALIGN, and of one above 2^48 with BOUNDS, TVAL the address;
LDX of the reserved size traps with ILLEGAL (R65, R128, R129, R130). -/
def Obligations.AccessTraps : Prop :=
  ∀ (s : State) (d a b : Reg) (imm : BitVec 15) (h : BitVec 2) (i : Instr) (ea : Word) (size : Nat),
    ((∃ sg tn, (i, ea, size, sg, tn) ∈ (Instr.ldcD d a imm, s.core.rd a + imm.signExtend 64, 8, false, true)
        :: Claims.Loads s.core d a b imm h) ∨ (i, ea, size) ∈ Claims.Stores s.core d a b imm h) →
      (ea.toNat % size ≠ 0 → TrapsAs i 2 ea s)
        ∧ (ea.toNat % size = 0 → 2 ^ 48 ≤ ea.toNat → TrapsAs i 5 ea s) ∧ Illegal (.ldx d a b h 7) s

/-- A store, once its page's leaf entry `e` is known: to another module BOUNDS, READONLY HANDLE, NOFORK in a world
WORLD. Else, where the view owns the panel or needs no copy and the L1D has room, its bytes enter the line and become
dirty: every other byte of the line stays, another line is kept unless it is clean and makes room, and no byte of memory
changes. Where all 1 024 lines are dirty, one is written back first, its dirty bytes in a WRITE that the core retains or has
still to send, or the core waits until it can make one (R15, R129, R130, R131, R302, R325). -/
def Obligations.StoreResults : Prop :=
  ∀ (s u : State) (v a b : Reg) (imm : BitVec 15) (h : BitVec 2) (i : Instr) (ea : Word) (size e : Nat),
    (i, ea, size) ∈ Claims.Stores s.core v a b imm h → Claims.MayAccess s ea size → s.core.failed = false →
      s.xlate (bayOf s.cur) s.curPart s.curView 0 (ea.toNat / 2 ^ 16) = (.leaf e, u) →
        u = { s with bays := u.bays }
        ∧ (leafTgt e = 2 → exec i s = .next (takeTrap 5 s.core.pc ea u))
        ∧ (leafTgt e ≠ 2 → leafRo e = true → exec i s = .next (takeTrap 4 s.core.pc ea u))
        ∧ (leafTgt e ≠ 2 → leafRo e = false → 0 < s.curDepth → leafNf e = true →
          exec i s = .next (takeTrap 6 s.core.pc ea u))
        ∧ (leafTgt e ≠ 2 → leafRo e = false → (s.curDepth = 0 ∨ leafNf e = false) →
          s.ownPanel s.curPart s.curView 0 (ea.toNat / 2 ^ 16) (leafSh e) = true →
          s.core.hasRoom (ea.toNat / 64) s.curView = true →
            let old := (s.core.line (ea.toNat / 64) s.curView).getD ⟨ea.toNat / 64, s.curView, 0, 0, 0, descUint8, false⟩
            let off := ea.toNat % 64
            ∃ t l, exec i s = .next t ∧ CoreOnly u t ∧ PcPast s.core t.core
              ∧ t.core = { s.core.clearStage with pc := t.core.pc, loops := t.core.loops, l1d := t.core.l1d }
              ∧ t.core.line (ea.toNat / 64) s.curView = some l ∧ l.desc = old.desc
              ∧ (∀ k, k < 64 →
                (off ≤ k ∧ k < off + size → l.dirty.getLsbD k = true ∧ l.valid.getLsbD k = true
                  ∧ dataByte l.data k = (s.core.rd v).extractLsb' (8 * (k - off)) 8)
                ∧ (¬ (off ≤ k ∧ k < off + size) → l.dirty.getLsbD k = old.dirty.getLsbD k
                  ∧ l.valid.getLsbD k = old.valid.getLsbD k ∧ dataByte l.data k = dataByte old.data k))
              ∧ ∀ n w, (n, w) ≠ (ea.toNat / 64, s.curView) → t.core.line n w = s.core.line n w
                ∨ (1024 ≤ s.core.l1d.length ∧ ∃ x, s.core.line n w = some x ∧ x.dirty = 0))
        ∧ (leafTgt e ≠ 2 → leafRo e = false → (s.curDepth = 0 ∨ leafNf e = false) →
          s.ownPanel s.curPart s.curView 0 (ea.toNat / 2 ^ 16) (leafSh e) = true →
          s.core.hasRoom (ea.toNat / 64) s.curView = false →
            let r := s.req s.me
            (r.stall ≠ none ∨ 32 ≤ r.kept.length + r.unsent.length → ∃ t, exec i s = .next t ∧ CoreOnly u t
              ∧ t.core.wait = some .room ∧ SameNamed s.core t.core ∧ t.core.l1d = s.core.l1d)
            ∧ ∀ x e' u' ph, s.core.l1d.getLast? = some x → r.stall = none → r.kept.length + r.unsent.length < 32 →
              let wa : Word := BitVec.ofNat 64 (x.line * 64)
              u.xlate (bayOf s.cur) s.curPart s.curView 0 (wa.toNat / 2 ^ 16) = (.leaf e', u') → leafTgt e' ≠ 2 →
              u'.placeOf s.curPart e' wa.toNat = .ok ph →
                ∃ t l k, exec i s = .next t ∧ t.mem = s.mem ∧ PcPast s.core t.core
                  ∧ k ∈ (t.req s.me).kept.map Retained.pkt ++ (t.req s.me).unsent ∧ k.op = .write
                  ∧ k.blocks = [⟨ph, x.data, descUint8, x.dirty, if x.bad then 3 else 0⟩]
                  ∧ t.core.line (ea.toNat / 64) s.curView = some l
                  ∧ ∀ j, ea.toNat % 64 ≤ j → j < ea.toNat % 64 + size → l.dirty.getLsbD j = true
                    ∧ dataByte l.data j = (s.core.rd v).extractLsb' (8 * (j - ea.toNat % 64)) 8)

/-- A plate address for PRD.D and PWR.D: a block of a tile below 47, in state CORE, aligned as DESC asks (R127, R133). -/
def Claims.PlateOk (s : State) (pa : Word) : Prop :=
  (pa.getLsbD 24 = false → pa.toNat % 8 = 0) ∧ (pa.getLsbD 24 = true → pa.toNat % 64 = 0) ∧ pa.toNat < 2 ^ 25
    ∧ bits pa.toNat 12 6 < 47 ∧ ((s.page s.cur).tile (bits pa.toNat 18 6) (bits pa.toNat 12 6)).state = 3

/-- The block that a plate address names. -/
def Claims.PlateBlock (s : State) (pa : Word) : Data × Desc :=
  ((s.page s.cur).tile (bits pa.toNat 18 6) (bits pa.toNat 12 6)).block (bits pa.toNat 6 6)

/-- PRD.D reads 8 bytes of a block, zero with FLAGS.DISC of a VOID one, or its descriptor; POISON traps. PWR.D writes 8
bytes, a VOID block becoming UINT8 at scale 0x7F with its other bytes zero, or the descriptor alone. Every other block
and tile, and all memory, stay. Bad addresses trap with MISALIGN, BOUNDS and PLATE_OWNER, in that order (R95, R133). -/
def Obligations.PlateAccess : Prop :=
  ∀ (s : State) (x a : Reg) (imm : BitVec 15),
    let pa := s.core.rd a + imm.signExtend 64
    let b := Claims.PlateBlock s pa
    let off := bits pa.toNat 0 6
    (Claims.PlateOk s pa → NotStepping s →
      (pa.getLsbD 24 = true → Writes (.prdD x a imm) x (b.2.zeroExtend 64) (s.core.tainted a) s)
      ∧ (pa.getLsbD 24 = false →
        (descPoisoned b.2 = true → TrapsAs (.prdD x a imm) 9 pa s)
        ∧ (descIsVoid b.2 = true → ∃ t, exec (.prdD x a imm) s = .next t
          ∧ Result s t x 0 (s.core.tainted a) s.core.dz true)
        ∧ (descPoisoned b.2 = false → descIsVoid b.2 = false → ∃ v : Word,
          Writes (.prdD x a imm) x v (s.core.tainted a) s
            ∧ ∀ k, k < 8 → v.extractLsb' (8 * k) 8 = dataByte b.1 (off + k)))
      ∧ ∃ t, exec (.pwrD x a imm) s = .next t ∧ t = { s with pages := t.pages }
        ∧ (∀ p, p ≠ s.cur → t.page p = s.page p) ∧ (∀ m, t.mem.byte m = s.mem.byte m)
        ∧ t.page s.cur = { s.page s.cur with core := t.core, tiles := (t.page s.cur).tiles }
        ∧ t.core = { s.core.clearStage with pc := t.core.pc, loops := t.core.loops } ∧ PcPast s.core t.core
        ∧ (∀ y z, y < 64 → z < 64 → ((t.page s.cur).tile y z).state = ((s.page s.cur).tile y z).state
          ∧ ∀ k, (y, z, k) ≠ (bits pa.toNat 18 6, bits pa.toNat 12 6, bits pa.toNat 6 6) →
            ((t.page s.cur).tile y z).block k = ((s.page s.cur).tile y z).block k)
        ∧ let n := Claims.PlateBlock t pa
          (pa.getLsbD 24 = true → n.1 = b.1 ∧ n.2 = (s.core.rd x).extractLsb' 0 16)
          ∧ (pa.getLsbD 24 = false → n.2 = (if descIsVoid b.2 then descUint8 else b.2)
            ∧ ∀ k, k < 64 → dataByte n.1 k =
              (if off ≤ k ∧ k < off + 8 then (s.core.rd x).extractLsb' (8 * (k - off)) 8
               else if descIsVoid b.2 then 0 else dataByte b.1 k)))
    ∧ ∀ i, i = Instr.prdD x a imm ∨ i = Instr.pwrD x a imm →
      let bad := (pa.getLsbD 24 = false ∧ pa.toNat % 8 ≠ 0) ∨ (pa.getLsbD 24 = true ∧ pa.toNat % 64 ≠ 0)
      (bad → TrapsAs i 2 pa s) ∧ (¬ bad → 2 ^ 25 ≤ pa.toNat → TrapsAs i 5 pa s)
        ∧ (¬ bad → pa.toNat < 2 ^ 25 → ¬ Claims.PlateOk s pa →
          TrapsAs i 3 (BitVec.ofNat 64 (bits pa.toNat 12 12)) s)

/-! ## Atomics, ordering and tiles (R134 to R142) -/

/-- The atomics, with operation (9 for CAS), size, request words and result taint (R134, R135). -/
def Claims.Atomics (c : Core) (d a b : Reg) (r : BitVec 2) (op : BitVec 4) :
    List (Instr × Nat × Nat × List Word × Bool) :=
  let tn := c.tainted a || c.tainted b
  [(.amoW d a b r op, op.toNat, 4, [c.rd b], tn), (.amoD d a b r op, op.toNat, 8, [c.rd b], tn),
   (.casW d a b r, 9, 4, [c.rd b, c.rd d], tn || c.tainted d), (.casD d a b r, 9, 8, [c.rd b, c.rd d], tn || c.tainted d)]

/-- An atomic whose old value has come back: it enters gD, of a .W form sign-extended, with FLAGS.DISC set for a VOID
block; a POISON block traps. With an acquire, the clean bytes of the L1D and the RDC go as by ACQ.M (R95, R134, R135). -/
def Claims.AtomicResults : Prop :=
  ∀ (s : State) (d a b : Reg) (r : BitVec 2) (op : BitVec 4) (i : Instr) (aop size : Nat) (ws : List Word) (tn : Bool)
    (old note : Word), (i, aop, size, ws, tn) ∈ Claims.Atomics s.core d a b r op → aop ≤ 9 → op.toNat ≤ 8 →
      s.core.stage = 1 → s.core.failed = false → s.core.scratch = [old, note] →
        (note = 2 → TrapsAs i 9 (s.core.rd a) s)
        ∧ (note ≠ 2 → NotStepping s →
          let v : Word := if size = 4 then (old.extractLsb' 0 32).signExtend 64 else old
          let disc := s.core.disc || decide (note = 1)
          (r.getLsbD 0 = false → ∃ t, exec i s = .next t ∧ Result s t d v tn s.core.dz disc)
          ∧ (r.getLsbD 0 = true → ∃ t, exec i s = .next t ∧ CacheFrame s t ∧ Sets d v tn s.core t.core
            ∧ PcPast s.core t.core ∧ t.core.dz = s.core.dz ∧ t.core.disc = disc
            ∧ (∀ l ∈ t.core.l1d, l.valid = l.dirty)
            ∧ ∀ l ∈ (t.bay (bayOf s.cur)).rdc, l.part = s.curPart → l.valid = 0))

/-- An atomic's issue outside a world: aligned, in range, its panel writable and HBM4 or host memory, no release to
perform, its line clean and room for its request. It waits for the home's answer, its window entry holds the request,
its line leaves the L1D, and memory and registers are as they were. Else it traps (R128, R134, R135). -/
def Claims.AtomicIssue : Prop :=
  ∀ (s u : State) (d a b : Reg) (r : BitVec 2) (op : BitVec 4) (i : Instr) (aop size e : Nat) (ws : List Word)
    (tn : Bool) (ph : Phys), (i, aop, size, ws, tn) ∈ Claims.Atomics s.core d a b r op → op.toNat ≤ 8 →
      s.core.stage = 0 → s.core.failed = false →
        let ea := s.core.rd a
        (ea.toNat % size ≠ 0 → TrapsAs i 2 ea s)
        ∧ (ea.toNat % size = 0 → 2 ^ 48 ≤ ea.toNat → TrapsAs i 5 ea s)
        ∧ (ea.toNat % size = 0 → ea.toNat < 2 ^ 48 →
          s.xlate (bayOf s.cur) s.curPart s.curView 0 (ea.toNat / 2 ^ 16) = (.leaf e, u) → leafTgt e ≠ 2 →
            (leafRo e = true → exec i s = .next (takeTrap 4 s.core.pc ea u))
            ∧ (leafRo e = false → s.curDepth = 0 → s.curView = 0 → r.getLsbD 1 = false → s.hazOn s.cur = false →
              (∀ l, s.core.line (ea.toNat / 64) s.curView = some l → l.dirty = 0) →
              (s.req s.me).kept.length + (s.req s.me).unsent.length < 32 → (s.req s.me).stall = none →
              s.placeOf s.curPart e ea.toNat = .ok ph →
                ∃ t k, exec i s = .next t ∧ t.core.wait = some (.resp k.tag) ∧ t.core.stage = 1
                  ∧ SameNamed s.core t.core ∧ t.mem = s.mem ∧ t.core.line (ea.toNat / 64) s.curView = none
                  ∧ (t.req s.me).win.getLast? = some k ∧ (t.req s.me).win.length = (s.req s.me).win.length + 1
                  ∧ k.tag = ((s.req s.me).takeTag).1 ∧ k.pkt.op = .atomic ∧ k.pkt.aop = aop ∧ k.pkt.width = size ∧ k.pkt.words = ws ∧ k.pkt.phys = ph))

/-- An AMO of a reserved operation traps with ILLEGAL (R65, R69); the nine operations on 32 and 64 bits: ADD wraps,
AND, OR and XOR, MIN and MAX signed, MINU and MAXU unsigned, SWAP (R134). -/
def Claims.AtomicOperations : Prop :=
  (∀ (s : State) (d a b : Reg) (r : BitVec 2) (op : BitVec 4), 9 ≤ op.toNat →
      Illegal (.amoW d a b r op) s ∧ Illegal (.amoD d a b r op) s)
    ∧ ∀ (w : Nat), w = 32 ∨ w = 64 → ∀ o x : BitVec w,
      let f (op : Nat) : Nat := atomicOp op w o.toNat x.toNat
      f 0 = (o + x).toNat ∧ f 1 = (o &&& x).toNat ∧ f 2 = (o ||| x).toNat ∧ f 3 = (o ^^^ x).toNat
        ∧ f 4 = (if o.toInt ≤ x.toInt then o else x).toNat ∧ f 5 = (if x.toInt ≤ o.toInt then o else x).toNat
        ∧ f 6 = (if o ≤ x then o else x).toNat ∧ f 7 = (if x ≤ o then o else x).toNat ∧ f 8 = x.toNat

/-- FENCE only moves the pc (R136). REL at scope .B, .M or .S completes where the L1D holds no dirty byte and the
core's writes are complete at the scope, and else waits for them. ACQ drops every clean byte of the L1D, keeps the
dirty ones, and at .M and .S drops the partition's acknowledged bytes of the bay's RDC. Scope 0 is ILLEGAL (R138,
R139). -/
def Claims.ScopeResults : Prop :=
  ∀ (s : State) (c : BitVec 2),
    (NotStepping s → Passes .fence s)
      ∧ Illegal (.rel 0) s ∧ Illegal (.acq 0) s
      ∧ (c ≠ 0 → (∀ l ∈ s.core.l1d, l.dirty = 0) →
        (s.completeAtScope s.me c.toNat = true → NotStepping s → Passes (.rel c) s)
        ∧ (s.completeAtScope s.me c.toNat = false → WaitsFor (.rel c) (.writes c.toNat) s))
      ∧ (c ≠ 0 → NotStepping s → ∃ t, exec (.acq c) s = .next t ∧ CacheFrame s t ∧ PcPast s.core t.core
        ∧ t.core = { s.core.clearStage with pc := t.core.pc, loops := t.core.loops, l1d := t.core.l1d }
        ∧ (∀ l, l ∈ t.core.l1d ↔ l.dirty ≠ 0 ∧ l.valid = l.dirty ∧ ∃ v, { l with valid := v } ∈ s.core.l1d)
        ∧ (c = 1 → t.bays = s.bays ∧ t.reqs = s.reqs)
        ∧ (c ≠ 1 → ∀ l ∈ (t.bay (bayOf s.cur)).rdc, l.part = s.curPart → l.valid = 0))

/-- A core that has performed a REL, so that it goes on, has no dirty byte left in its L1D, and its writes are complete
at the scope (R138, R139): said of a core without a trap handler, which goes on only by completing. -/
def Claims.ReleaseLeavesNothing : Prop :=
  ∀ (s t : State) (c : BitVec 2), s.core.tvec = 0 → exec (.rel c) s = .next t → t.core.run = .running →
    t.core.wait = none → (∀ l ∈ t.core.l1d, l.dirty = 0) ∧ t.completeAtScope s.me c.toNat = true

/-- A line overlaps the bytes [base, base + len). -/
def Claims.Overlaps (base len line : Nat) : Prop := len ≠ 0 ∧ line * 64 < base + len ∧ base < line * 64 + 64

/-- Of the bytes [base, base + len) that the current core's bay can translate, the bay's RDC holds no valid byte. -/
def Claims.RdcWithout (base len : Nat) (s t : State) : Prop :=
  ∀ x e a, base ≤ x → x < base + len → (s.xlate (bayOf s.cur) s.curPart s.curView 0 (x / 2 ^ 16)).1 = .leaf e →
    s.placeOf s.curPart e x = .ok (.hbm a) →
      ∀ l ∈ (t.bay (bayOf s.cur)).rdc, l.part = s.curPart → l.block = a / 64 → l.valid = 0

/-- WBR and FLR complete where the lines of the range hold no dirty byte and the core's writes are complete at the
scope; FLR then drops those lines. INVR drops their clean bytes; ICINV drops the L1I lines of the range, and at .M and
.S the last three leave the bay's RDC no valid byte of the range that the bay can translate. A length of 0 does nothing. Scope 0 is ILLEGAL, a range past 2^48 BOUNDS (R140,
R141). -/
def Claims.RangeResults : Prop :=
  ∀ (s : State) (a b : Reg) (c : BitVec 2),
    let base := (s.core.rd a).toNat
    let len := (s.core.rd b).toNat
    (∀ i, i = Instr.wbr a b c ∨ i = .invr a b c ∨ i = .flr a b c ∨ i = .icinv a b c →
      (c = 0 → Illegal i s) ∧ (c ≠ 0 → len ≠ 0 → 2 ^ 48 < base + len → TrapsAs i 5 (s.core.rd a) s))
    ∧ (c ≠ 0 → (len ≠ 0 → base + len ≤ 2 ^ 48) → NotStepping s →
      ((∀ l ∈ s.core.l1d, Claims.Overlaps base len l.line → l.dirty = 0) →
        (len = 0 ∨ s.completeAtScope s.me c.toNat = true) →
          Passes (.wbr a b c) s
          ∧ ∃ t, exec (.flr a b c) s = .next t ∧ CacheFrame s t ∧ PcPast s.core t.core
            ∧ t.core = { s.core.clearStage with pc := t.core.pc, loops := t.core.loops, l1d := t.core.l1d }
            ∧ (∀ l, l ∈ t.core.l1d ↔ l ∈ s.core.l1d ∧ ¬ Claims.Overlaps base len l.line)
            ∧ (c = 1 → t.bays = s.bays ∧ t.reqs = s.reqs) ∧ (c ≠ 1 → Claims.RdcWithout base len s t))
      ∧ (∃ t, exec (.invr a b c) s = .next t ∧ CacheFrame s t ∧ PcPast s.core t.core
        ∧ t.core = { s.core.clearStage with pc := t.core.pc, loops := t.core.loops, l1d := t.core.l1d }
        ∧ (∀ l ∈ t.core.l1d, Claims.Overlaps base len l.line → l.valid = l.dirty)
        ∧ (∀ l ∈ s.core.l1d, ¬ Claims.Overlaps base len l.line → l.valid ≠ 0 → l ∈ t.core.l1d)
        ∧ (∀ l ∈ s.core.l1d, l.dirty ≠ 0 → Claims.Overlaps base len l.line → { l with valid := l.dirty } ∈ t.core.l1d)
        ∧ (c = 1 → t.bays = s.bays ∧ t.reqs = s.reqs) ∧ (c ≠ 1 → Claims.RdcWithout base len s t))
      ∧ ∃ t, exec (.icinv a b c) s = .next t ∧ CacheFrame s t ∧ PcPast s.core t.core
        ∧ t.core = { s.core.clearStage with pc := t.core.pc, loops := t.core.loops, l1i := t.core.l1i,
                                             lbuf := t.core.lbuf, lbufSpan := t.core.lbufSpan }
        ∧ (∀ l, l ∈ t.core.l1i ↔ l ∈ s.core.l1i ∧ ¬ Claims.Overlaps base len l.1)
        ∧ (c = 1 → t.bays = s.bays ∧ t.reqs = s.reqs) ∧ (c ≠ 1 → Claims.RdcWithout base len s t))

/-- An element of the site is not about to take an algebra table from the tile, which it does before the tile changes
(R281). -/
def Claims.NoTableDue (s : State) (site tile : Nat) : Prop :=
  let x := s.elem s.cur site
  x.atile ≠ tile ∨ x.alg ≠ 15 ∨ x.table ≠ [] ∨ ((s.page s.cur).tile site tile).state ≠ 1

/-- A tile selector: site and tile in its low 12 bits, the rest zero, tile 47 and above refused (R142). -/
def Claims.Selects (sel : Word) (site tile : Nat) : Prop :=
  sel.toNat = site * 64 + tile ∧ site < 64 ∧ tile < 47

/-- The core's tile changes: TGIVE CORE to FULL, TTAKE EMPTY or FULL to CORE, TEMPTY FULL or CORE to EMPTY; any other
traps with PLATE_OWNER. An element that is to read its table from the tile has read it first. TSTAT reads the state,
TWAIT completes when it is the one awaited, both with ACQ.M's effect on the L1D. No other tile and no byte of memory
changes. A bad selector traps with BOUNDS or PLATE_OWNER (R18, R142, R281). -/
def Obligations.TileResults : Prop :=
  ∀ (s : State) (d a : Reg) (st : BitVec 2) (site tile : Nat),
    let sel := s.core.rd a
    let now := ((s.page s.cur).tile site tile).state
    (Claims.Selects sel site tile →
      (∀ (i : Instr) (from_ : List (BitVec 2)) (new : BitVec 2), (i, from_, new) ∈
          [(.tgive a, [3], 1), (.ttake a, [0, 1], 3), (.tempty a, [1, 3], 0)] →
        (now ∉ from_ → TrapsAs i 3 sel s)
        ∧ (now ∈ from_ → NotStepping s → ∃ t, exec i s = .next t
          ∧ ((t.page s.cur).tile site tile) = { (s.page s.cur).tile site tile with state := new }
          ∧ ∀ y z, y < 64 → z < 64 → (y, z) ≠ (site, tile) → (t.page s.cur).tile y z = (s.page s.cur).tile y z)
        ∧ (now ∈ from_ → NotStepping s → Claims.NoTableDue s site tile → ∃ t, exec i s = .next t ∧ t = { s with pages := t.pages }
          ∧ (∀ p, p ≠ s.cur → t.page p = s.page p) ∧ (∀ m, t.mem.byte m = s.mem.byte m)
          ∧ t.page s.cur = { s.page s.cur with core := t.core, tiles := (t.page s.cur).tiles }
          ∧ t.core = { s.core.clearStage with pc := t.core.pc, loops := t.core.loops, event := true }
          ∧ PcPast s.core t.core
          ∧ (t.page s.cur).tile site tile = { (s.page s.cur).tile site tile with state := new }
          ∧ ∀ y z, y < 64 → z < 64 → (y, z) ≠ (site, tile) → (t.page s.cur).tile y z = (s.page s.cur).tile y z))
      ∧ (NotStepping s →
        (∃ t, exec (.tstat d a) s = .next t ∧ CacheFrame s t ∧ PcPast s.core t.core
          ∧ Sets d (now.zeroExtend 64) (s.core.tainted a) s.core t.core ∧ t.core.dz = s.core.dz
          ∧ t.core.disc = s.core.disc ∧ (∀ l ∈ t.core.l1d, l.valid = l.dirty)
          ∧ (t.page s.cur).tiles = (s.page s.cur).tiles)
        ∧ (now = st ∨ s.core.stage = 1 → ∃ t, exec (.twait a st) s = .next t ∧ CacheFrame s t ∧ PcPast s.core t.core
          ∧ t.core = { s.core.clearStage with pc := t.core.pc, loops := t.core.loops, l1d := t.core.l1d }
          ∧ (∀ l ∈ t.core.l1d, l.valid = l.dirty) ∧ (t.page s.cur).tiles = (s.page s.cur).tiles))
      ∧ (now ≠ st → s.core.stage ≠ 1 → WaitsFor (.twait a st) (.tile site tile st) s))
    ∧ ∀ i, i = Instr.tgive a ∨ i = .ttake a ∨ i = .tempty a ∨ i = .tstat d a ∨ i = .twait a st →
      (4096 ≤ sel.toNat → TrapsAs i 5 sel s) ∧ (sel.toNat < 4096 → 47 ≤ sel.toNat % 64 → TrapsAs i 3 sel s)

/-- Loads: see `LoadResults` and `LoadsFromHome`. -/
def Obligations.LoadsComplete : Prop := Claims.LoadResults ∧ Claims.LoadsFromHome

/-- Atomics of a core: see `AtomicOperations`, `AtomicResults` and `AtomicIssue`. -/
def Obligations.AtomicsComplete : Prop := Claims.AtomicOperations ∧ Claims.AtomicResults ∧ Claims.AtomicIssue

/-- Scopes and ranges: see `ScopeResults`, `ReleaseLeavesNothing` and `RangeResults`. -/
def Obligations.OrderingResults : Prop := Claims.ScopeResults ∧ Claims.ReleaseLeavesNothing ∧ Claims.RangeResults

/-! ## Streams and the core's tokens (R143 to R149) -/

/-- SLD and SST of a 64-byte descriptor that the L1D holds: where its checks pass and the port has a free place, the
stream is the port's active one, or its pending one, at walk point 0, with the sticky bits of SSTAT cleared and its
tensor referenced; no other port, page or byte of memory changes. Where both places are taken the core waits. NDIM 0 or
above 4 traps with ILLEGAL, TVAL the descriptor's address; a stale handle of a stream legal otherwise with HANDLE, TVAL
the handle (R143, R145, R148). -/
def Claims.StreamIssue : Prop :=
  ∀ (s : State) (a : Reg) (p : BitVec 2) (i : Instr) (k : Nat) (d : List Byte),
    (i, k) ∈ [(Instr.sld a p, p.toNat), (.sst a p, 4 + p.toNat)] →
      let addr := s.core.rd a
      let y := (s.page s.cur).port k
      let slot := dHandle d % 2 ^ 16
      (addr.toNat % 64 ≠ 0 → TrapsAs i 2 addr s)
      ∧ (addr.toNat % 64 = 0 → 2 ^ 48 ≤ addr.toNat → TrapsAs i 5 addr s)
      ∧ (addr.toNat % 64 = 0 → addr.toNat < 2 ^ 48 → coreBlock addr s = .ok d s →
        (dNdim d = 0 ∨ 4 < dNdim d → TrapsAs i 1 addr s)
        ∧ (streamIllegal d = false → (dFmt d = 0xFF#8 ∨ y.bound = none) → s.handleOk s.curPart slot (hGen (dHandle d)) = false →
          TrapsAs i 4 (BitVec.ofNat 64 (dHandle d)) s)
        ∧ (streamCheck d addr k s = none →
          (y.act.isSome = true → y.pend.isSome = true → WaitsFor i (.streamSlot k) s)
          ∧ (y.act = none ∨ y.pend = none → NotStepping s → ∃ t x, exec i s = .next t
            ∧ t = { s with pages := t.pages, parts := t.parts } ∧ (∀ q, q ≠ s.cur → t.page q = s.page q)
            ∧ t.page s.cur = { s.page s.cur with core := t.core, ports := (t.page s.cur).ports }
            ∧ t.core = { s.core.clearStage with pc := t.core.pc, loops := t.core.loops } ∧ PcPast s.core t.core
            ∧ x.bytes = d ∧ x.slot = slot ∧ x.gen = hGen (dHandle d) ∧ x.pos = 0 ∧ x.issued = 0
            ∧ (t.page s.cur).port k = (if y.act = none then { y with act := some x, count := 0, sticky := 0, discard := false }
                else { y with pend := some x, sticky := 0, discard := false })
            ∧ (∀ j, j < 8 → j ≠ k → (t.page s.cur).port j = (s.page s.cur).port j)
            ∧ (slot ≠ 0 → ((t.part s.curPart).slot slot).refs = ((s.part s.curPart).slot slot).refs + 1))))

/-- SWAIT completes once its port holds no stream. SSTOP leaves the port without a stream, with STOPPED set where one
was active, its completion token owed where CTRL.CRX asks for one, the tokens of a store port to come discarded, and
every byte of memory as it was but where a tensor already destroyed is let go of. SSTAT reads COUNT, the sticky bits,
whether stalled, pending and active; of ctx, crx and cmd the tokens held, with LVALID, LKIND and LRANK of crx; codes
above 10 are ILLEGAL (R148). -/
def Claims.StreamControl : Prop :=
  ∀ (s : State) (d : Reg) (p : BitVec 3) (n : BitVec 6),
    let pg := s.page s.cur
    let y := pg.port p.toNat
    (y.act = none ∧ y.pend = none ∨ s.core.stage = 1 → NotStepping s → Passes (.swait p) s)
    ∧ (¬ (y.act = none ∧ y.pend = none) → s.core.stage ≠ 1 → WaitsFor (.swait p) (.port p.toNat) s)
    ∧ (s.hazOn s.cur = false → NotStepping s → ∃ t, exec (.sstop p) s = .next t
      ∧ t.core = { s.core.clearStage with pc := t.core.pc, loops := t.core.loops,
                                           event := s.core.event || y.act.isSome || y.pend.isSome } ∧ PcPast s.core t.core
      ∧ ((t.page s.cur).port p.toNat).owed.length =
        y.owed.length + (if y.act.any (fun x => dCrx x.bytes) = true then 1 else 0)
      ∧ ((t.page s.cur).port p.toNat).act = none ∧ ((t.page s.cur).port p.toNat).pend = none
      ∧ ((t.page s.cur).port p.toNat).discard = decide (4 ≤ p.toNat)
      ∧ (y.act.isSome = true → ((t.page s.cur).port p.toNat).sticky.getLsbD 1 = true)
      ∧ ((∀ x, y.act = some x ∨ y.pend = some x → ((s.part s.curPart).slot x.slot).state ≠ 2) → t.mem = s.mem)
      ∧ (∀ j, j < 8 → j ≠ p.toNat → (t.page s.cur).port j = pg.port j)
      ∧ (∀ q, q ≠ s.cur → t.page q = s.page q))
    ∧ (11 ≤ n.toNat → Illegal (.sstat d n) s)
    ∧ (NotStepping s →
      (n.toNat < 8 → ∃ v : Word, Writes (.sstat d n) d v false s ∧ v.extractLsb' 32 32 = (pg.port n.toNat).count
        ∧ v.extractLsb' 3 4 = (pg.port n.toNat).sticky ∧ v.getLsbD 2 = (s.portStall s.cur n.toNat).isSome
        ∧ v.getLsbD 1 = (pg.port n.toNat).pend.isSome ∧ v.getLsbD 0 = (pg.port n.toNat).act.isSome
        ∧ v.extractLsb' 7 25 = 0)
      ∧ (n = 8 → Writes (.sstat d n) d (BitVec.ofNat 64 (pg.ctx.length * 2 ^ 32)) false s)
      ∧ (n = 9 → Writes (.sstat d n) d (BitVec.ofNat 64 (pg.crxHeld * 2 ^ 32 + pg.lvalid.toNat * 2 ^ 16
          + pg.lkind.toNat * 2 ^ 14 + pg.lrank.toNat * 2 ^ 11)) false s)
      ∧ (n = 10 → Writes (.sstat d n) d (BitVec.ofNat 64 (pg.cmd.length * 2 ^ 32)) false s))

/-- A page's queues of its core's tokens, and what SSTAT shows of them, change; with them only its core. -/
def Claims.TokensOnly (s t : State) : Prop :=
  t = { s with pages := t.pages } ∧ (∀ q, q ≠ s.cur → t.page q = s.page q) ∧ (∀ m, t.mem.byte m = s.mem.byte m)
    ∧ let pg := t.page s.cur
      pg = { s.page s.cur with core := pg.core, ctx := pg.ctx, crx := pg.crx, crxBurst := pg.crxBurst,
                               lvalid := pg.lvalid, lkind := pg.lkind, lrank := pg.lrank }

/-- SPUSH sends a token with gA in lanes 0 and 1 and gB in lanes 2 and 3, of the rank named, and waits while ctx holds
four. SPOP takes the DATA token at the head of crx: lanes 0 and 1 to gD, an invalid lane as zero, its valid bits, kind
and rank to SSTAT; a token of a POISON burst is taken and traps with POISON, TVAL 0; with no token it waits (R149). -/
def Obligations.CoreTokens : Prop :=
  ∀ (s : State) (d a b : Reg) (k : BitVec 3) (tok : Token) (rest : List Token),
    let pg := s.page s.cur
    (pg.ctx.length < 4 → NotStepping s → ∃ t new, exec (.spush a b k) s = .next t ∧ Claims.TokensOnly s t
      ∧ t.core = { s.core.clearStage with pc := t.core.pc, loops := t.core.loops } ∧ PcPast s.core t.core
      ∧ (t.page s.cur).ctx = pg.ctx ++ [new] ∧ (t.page s.cur).crx = pg.crx ∧ new.kind = 0 ∧ new.rank = k
      ∧ new.valid = 0xF ∧ new.par = parity new.data
      ∧ new.data = (s.core.rd a).zeroExtend 512 ||| ((s.core.rd b).zeroExtend 512 <<< 64))
    ∧ (4 ≤ pg.ctx.length → WaitsFor (.spush a b k) .ctxRoom s)
    ∧ (pg.crx = [] → WaitsFor (.spop d) .crxToken s)
    ∧ (pg.crx = tok :: rest → tok.kind = 0 →
      let bad := tok.out = false ∧ (pg.crxBurst.poison = true ∨ tok.par ≠ parity tok.data)
      let half (l : Nat) : Word := if tok.valid.getLsbD l then (lane tok.data l).zeroExtend 64 else 0
      ∃ u, Claims.TokensOnly s u ∧ u.core = s.core ∧ (u.page s.cur).crx = rest ∧ (u.page s.cur).ctx = pg.ctx
        ∧ (u.page s.cur).lvalid = tok.valid ∧ (u.page s.cur).lkind = 0 ∧ (u.page s.cur).lrank = tok.rank
        ∧ (bad → exec (.spop d) s = .next (takeTrap 9 s.core.pc 0 u))
        ∧ (¬ bad → NotStepping s → ∃ t, exec (.spop d) s = .next t
          ∧ Result u t d (half 0 ||| (half 1 <<< 32)) false u.core.dz u.core.disc))

/-! ## Engine commands and tickets (R150 to R155) -/

/-- CPY, GATH, SCAT and REDC outside a world, with a descriptor that the L1D holds and that passes its checks: the
command joins its engine's queue under the core's next ticket, which gD receives and which reads as pending; memory is
as it was. With 16 commands outstanding the core waits; CPY names engines 0 to 4, else it is ILLEGAL (R150 to R155). -/
def Claims.EngineIssue : Prop :=
  ∀ (s : State) (d a : Reg) (e : BitVec 6) (i : Instr) (op sel : Nat) (b : List Byte) (x : Truss) (g : Nat),
    (i, op, sel) ∈ [(Instr.cpy d a e, 0, e.toNat), (.gath d a, 1, 0), (.scat d a, 2, 0), (.redc d a, 3, 0)] →
      let addr := s.core.rd a
      (5 ≤ e.toNat → Illegal (.cpy d a e) s)
      ∧ (sel ≤ 4 → addr.toNat % 64 ≠ 0 → TrapsAs i 2 addr s)
      ∧ (sel ≤ 4 → addr.toNat % 64 = 0 → 2 ^ 48 ≤ addr.toNat → TrapsAs i 5 addr s)
      ∧ (sel ≤ 4 → addr.toNat % 64 = 0 → addr.toNat < 2 ^ 48 → coreBlock addr s = .ok b s →
        s.trussOf s.cur = some x → x.depth = 0 → s.engCheck op b x (bayOf s.cur) = none →
          (16 ≤ s.core.tickets.countP (fun t => t.2 = 0) → WaitsFor i .engineSlot s)
          ∧ (s.core.tickets.countP (fun t => t.2 = 0) < 16 → s.chooseEngine (bayOf s.cur) op sel = some g →
            NotStepping s → ∃ t c, exec i s = .next t ∧ t = { s with pages := t.pages, parts := t.parts, engines := t.engines }
              ∧ CoreKept { s.core with ticket := t.core.ticket, tickets := t.core.tickets, skips := t.core.skips,
                                          event := t.core.event } t.core
              ∧ Sets d (BitVec.ofNat 64 s.core.ticket) (s.core.tainted a) s.core t.core ∧ PcPast s.core t.core
              ∧ t.core.dz = s.core.dz ∧ t.core.disc = s.core.disc
              ∧ t.core.ticket = s.core.ticket + 1 ∧ fget t.core.tickets s.core.ticket = some 0
              ∧ (∀ q, q ≠ s.cur → (t.page q).core = { (s.page q).core with event := (t.page q).core.event })
              ∧ (fgetD t.engines g Engine.reset).cmds = (fgetD s.engines g Engine.reset).cmds ++ [c]
              ∧ (∀ h, h ≠ g → fgetD t.engines h Engine.reset = fgetD s.engines h Engine.reset)
              ∧ c.op = op ∧ c.bytes = b ∧ c.ticket = some s.core.ticket ∧ c.page = s.cur ∧ c.part = x.part
              ∧ c.view = x.view))

/-- EPOLL reads a ticket's status: 6 for one that is not kept, or that 64 more recent ones have been issued after, its status
once it has completed, and until then 0, or 2 while its engine is stalled. EWAIT completes when the command has, and else waits (R155). -/
def Claims.TicketResults : Prop :=
  ∀ (s : State) (d a : Reg) (st : Nat),
    let n := (s.core.rd a).toNat
    let kept := if n + 64 < s.core.ticket then none else fget s.core.tickets n
    let stalled := ∃ g, s.runsTicket s.cur n = some g ∧ (s.req (engAgent g)).stall.isSome = true
    (st = 6 ∧ kept = none ∨ st ≠ 0 ∧ kept = some st
      ∨ st = 2 ∧ kept = some 0 ∧ stalled ∨ st = 0 ∧ kept = some 0 ∧ ¬ stalled) →
      (NotStepping s → Writes (.epoll d a) d (BitVec.ofNat 64 st) (s.core.tainted a) s)
      ∧ (st ≠ 0 ∧ st ≠ 2 ∨ s.core.stage = 1 → NotStepping s → Passes (.ewait a) s)
      ∧ (st = 0 ∨ st = 2 → s.core.stage ≠ 1 → WaitsFor (.ewait a) (.ticket n) s)

/-! ## The fabric as a core reaches it (R157 to R162) -/

/-- CFG of no words completes, of more than 65 536 is ILLEGAL; base and end are checked. With the next block at hand, it
applies a word, and keeps its place; after the last, its elements are judged, and where none breaks a joined condition
it completes (R157, R450). -/
def Claims.ConfigLoading : Prop :=
  ∀ (s : State) (a b : Reg) (x : Truss) (tag : Nat) (w : BlockW) (u : State) (pos : Word) (done : List Word),
    let base := s.core.rd a
    let n := (s.core.rd b).toNat
    (65536 < n → Illegal (.cfg a b) s)
    ∧ (n ≤ 65536 → base.toNat % 4 ≠ 0 → TrapsAs (.cfg a b) 2 base s)
    ∧ (n ≤ 65536 → n ≠ 0 → base.toNat % 4 = 0 → 2 ^ 48 < base.toNat + 4 * n → TrapsAs (.cfg a b) 5 base s)
    ∧ (n = 0 → base.toNat % 4 = 0 → s.core.scratch = [] → NotStepping s → Passes (.cfg a b) s)
    ∧ (n ≤ 65536 → base.toNat % 4 = 0 → base.toNat + 4 * n ≤ 2 ^ 48 →
      (n = 1 → s.core.scratch = [] → s.core.resp = [(tag, w)] → s.trussOf s.cur = some x →
        descPoisoned w.desc = false → descIsVoid w.desc = false →
        applyWord (.segment s.cur) s.curImage x (lane w.data (base.toNat % 64 / 4)) 0 s = (.ok u, u) →
          ∃ t, exec (.cfg a b) s = .next t ∧ (t.page s.cur).core.stage = 1 ∧ (t.page s.cur).core.scratch.head? = some 1
            ∧ t = { u with pages := t.pages } ∧ ∀ p e, t.elem p e = u.elem p e)
      ∧ (s.core.scratch = pos :: done → n ≤ pos.toNat → s.trussOf s.cur = some x → (s.judgeUnit x (.segment s.cur)).1 = none →
        NotStepping s → ∃ t, exec (.cfg a b) s = .next t ∧ t = { s with pages := t.pages }
          ∧ t.core = { s.core.clearStage with pc := t.core.pc, loops := t.core.loops } ∧ PcPast s.core t.core
          ∧ ∀ p e, t.elem p e = (s.judgeUnit x (.segment s.cur)).2.elem p e))

/-- The token that START feeds. -/
def Claims.StartToken : Token := dataToken 1 1 0

/-- START puts one token on every START input of its page, and waits while one has no room; no other hop changes (R81,
R158). -/
def Claims.StartFeeds : Prop :=
  ∀ s : State,
    let pg := s.page s.cur
    pg.startHops.Nodup →
      ((∀ z ∈ pg.startHops, (s.elem s.cur z.1).hopRoom z.2 = true) → NotStepping s → ∃ t, exec .start s = .next t
        ∧ t = { s with pages := t.pages } ∧ (∀ q, q ≠ s.cur → t.page q = s.page q)
        ∧ t.page s.cur = { pg with core := t.core, elems := (t.page s.cur).elems }
        ∧ t.core = { s.core.clearStage with pc := t.core.pc, loops := t.core.loops } ∧ PcPast s.core t.core
        ∧ ∀ e h, fgetD (t.elem s.cur e).hops h [] =
          fgetD (s.elem s.cur e).hops h [] ++ (if (e, h) ∈ pg.startHops then [Claims.StartToken] else []))
      ∧ ((∃ z ∈ pg.startHops, (s.elem s.cur z.1).hopRoom z.2 = false) → WaitsFor .start .startRoom s)

/-- ERD reads an element of the truss: amax, faulted and status; the firing, stall and starve counts; an element that
the truss has not traps with BOUNDS. LSTAT reads a link of the truss: tokens held, free space, tokens reserved, each at
most 65 535, whether stalled, and its direction; a number with no link traps with BOUNDS (R160, R162). -/
def Claims.FabricReads : Prop :=
  ∀ (s : State) (d a : Reg) (w : BitVec 2) (x : Truss) (p n : Nat) (l : Link) (outw : Bool),
    let v := s.core.rd a
    let el := s.elem p (v.toNat % 64)
    (s.trussOf s.cur = some x → v.toNat < 4096 → x.pages[v.toNat / 64]? = some p → NotStepping s →
      Writes (.erd d a w) d (match w.toNat with
        | 0 => (el.amax.zeroExtend 64 <<< 32) ||| (if el.faulted then 256 else 0) ||| el.status.zeroExtend 64
        | 1 => el.fire
        | 2 => el.stall
        | _ => el.starve) (s.core.tainted a) s)
    ∧ (4096 ≤ v.toNat → TrapsAs (.erd d a w) 5 v s)
    ∧ (s.trussOf s.cur = some x → x.pages.length ≤ v.toNat / 64 → TrapsAs (.erd d a w) 5 v s)
    ∧ (v.toNat ≤ 63 →
      (s.linkOf (s.page s.cur).truss v.toNat outw = some (n, l) →
        (outw = false → s.linkOf (s.page s.cur).truss v.toNat true = none) → NotStepping s →
          let cap (k : Nat) : Nat := if k ≤ 65535 then k else 65535
          Writes (.lstat d a) d (BitVec.ofNat 64 (cap l.queue.length + cap l.freeSpace * 2 ^ 16
            + cap (if outw then l.resOut else l.resIn) * 2 ^ 32 + (if (s.req (spillAgent n l true)).stall.isSome then 2 ^ 48 else 0)
            + (if outw then 2 ^ 49 else 0))) (s.core.tainted a) s)
      ∧ ((∀ o, s.linkOf (s.page s.cur).truss v.toNat o = none) → TrapsAs (.lstat d a) 5 v s))
    ∧ (63 < v.toNat → TrapsAs (.lstat d a) 5 v s)

/-- ROUND reads its descriptor through the L1D: a count of 1 to 16, then link number, direction and rate, reserved bits
zero and rate above 0. It reserves every entry at once, or waits until it can; reserving raises the reserved count of
each link by its rate and changes no token, register or byte of memory. A count or an entry out of range is ILLEGAL, a
number with no link BOUNDS (R161). -/
def Claims.RoundReserves : Prop :=
  ∀ (s : State) (a : Reg) (n v : Nat) (hd vd : Desc) (hb : Bool),
    let ea := s.core.rd a
    (ea.toNat % 8 ≠ 0 → TrapsAs (.round a) 2 ea s)
    ∧ (ea.toNat % 8 = 0 → ea.toNat + 8 ≤ 2 ^ 48 → coreRead ea 8 false s = .ok (n, hd, hb) s → descPoisoned hd = false →
      (n = 0 ∨ 16 < n → Illegal (.round a) s)
      ∧ (0 < n → n ≤ 16 → 2 ^ 48 < ea.toNat + 8 + 4 * n → TrapsAs (.round a) 5 ea s)
      ∧ (0 < n → n ≤ 16 → ea.toNat + 8 + 4 * n ≤ 2 ^ 48 → roundBytes ((n + 1) / 2) (ea + 8) s = .ok v s →
        let word (k : Nat) : Nat := bits v (32 * k) 32
        ((∃ k, k < n ∧ (bits (word k) 7 9 ≠ 0 ∨ bits (word k) 16 16 = 0)) → Illegal (.round a) s)
        ∧ ((∀ k, k < n → bits (word k) 7 9 = 0 ∧ bits (word k) 16 16 ≠ 0) →
          let es := (List.range n).map fun k => (word k % 64, (word k).testBit 6, bits (word k) 16 16)
          ((∃ e ∈ es, s.linkOf (s.page s.cur).truss e.1 e.2.1 = none) → TrapsAs (.round a) 5 ea s)
          ∧ ((∀ e ∈ es, (s.linkOf (s.page s.cur).truss e.1 e.2.1).isSome = true) →
            (s.reserveAll (s.page s.cur).truss es = none → WaitsFor (.round a) (.links es) s)
            ∧ ∀ u, s.reserveAll (s.page s.cur).truss es = some u → NotStepping s →
              u = { s with links := u.links } ∧ ∃ t, exec (.round a) s = .next t ∧ CoreOnly u t
                ∧ t.core = { s.core.clearStage with pc := t.core.pc, loops := t.core.loops } ∧ PcPast s.core t.core))))
    ∧ ∀ (q num rate : Nat) (outw : Bool) (k : Nat) (l : Link), s.linkOf q num outw = some (k, l) →
      s.reserveAll q [(num, outw, rate)] =
        if (if outw then rate + l.resOut ≤ l.takes else rate + l.resIn ≤ l.ready) then
          some { s with links := fput s.links k (if outw then { l with resOut := l.resOut + rate }
                                                 else { l with resIn := l.resIn + rate }) }
        else none

/-! ## Synchronising (R124, R163 to R167) -/

/-- BAR.T counts the core's arrival and completes at once when every core of its truss has arrived as often or ended;
else it waits. PHASE of a wrong number, or outside a job, traps with BOUNDS, in a world with WORLD; with nothing left to
wait for and no dirty byte a core that is not its truss's last arrives and waits for the phase's end, and after it
completes with the effect of ACQ.S on the L1D (R163, R164). -/
def Claims.BarrierAndPhase : Prop :=
  ∀ (s : State) (a : Reg) (x : Truss) (l : Launch), s.trussOf s.cur = some x → fget s.launches x.launch = some l →
    let n := s.core.barrier + 1
    let others := ∀ q ∈ s.heldPages (s.page s.cur).truss x, q ≠ s.cur →
      (s.page q).core.run = .ended ∨ n ≤ (s.page q).core.barrier
    (s.core.stage ≠ 1 → others → NotStepping s → ∃ t, exec .barT s = .next t ∧ CoreOnly s t
      ∧ t.core = { s.core.clearStage with pc := t.core.pc, loops := t.core.loops, barrier := n } ∧ PcPast s.core t.core)
    ∧ (s.core.stage ≠ 1 → s.cur ∈ x.pages → ¬ others → ∃ t, exec .barT s = .next t ∧ CoreOnly s t
      ∧ SameNamed s.core t.core ∧ t.core.barrier = n ∧ t.core.wait = some (.barrier n))
    ∧ (s.core.stage = 1 → NotStepping s → Passes .barT s)
    ∧ (s.core.stage = 0 → l.job = 0 ∨ s.jobWord x.part l.job 16 ≠ (s.core.rd a).toNat → TrapsAs (.phase a) 5 (s.core.rd a) s)
    ∧ (s.core.stage = 0 → l.job ≠ 0 → s.jobWord x.part l.job 16 = (s.core.rd a).toNat → 0 < x.depth →
      TrapsAs (.phase a) 6 0 s)
    ∧ (s.core.stage = 0 → l.job ≠ 0 → s.jobWord x.part l.job 16 = (s.core.rd a).toNat → x.depth = 0 →
      s.coreBusy s.cur = false → (∀ y ∈ s.core.l1d, y.dirty = 0) →
      (∃ j, j < x.h * x.w ∧ j ≠ (s.page s.cur).ix ∧ j ∉ x.phaseAt ∧ j ∉ x.endedAt) → ∃ t, exec (.phase a) s = .next t
        ∧ t.core.wait = some (.phase (s.core.rd a).toNat) ∧ SameNamed s.core t.core
        ∧ t = { s with pages := t.pages, trusses := t.trusses }
        ∧ fget t.trusses (s.page s.cur).truss = some { x with phaseAt := x.phaseAt ++ [(s.page s.cur).ix] })
    ∧ (s.core.stage = 2 → NotStepping s → ∃ t, exec (.phase a) s = .next t ∧ CacheFrame s t ∧ PcPast s.core t.core
      ∧ t.core = { s.core.clearStage with pc := t.core.pc, loops := t.core.loops, l1d := t.core.l1d }
      ∧ ∀ y ∈ t.core.l1d, y.valid = y.dirty)

/-- CWAIT completes with the effect of ACQ.M once its counter, read at its home, holds g[b]; else it waits. CADD sends
an atomic addition of g[b] to the counter's home and completes, with no dirty byte in the L1D and its writes
complete. Both check alignment and range (R165). -/
def Claims.CounterResults : Prop :=
  ∀ (s u : State) (a b : Reg) (tag e : Nat) (w : BlockW) (ph : Phys),
    let ea := s.core.rd a
    (∀ i, i = Instr.cwait a b ∨ i = .cadd a b → s.core.stage ≠ 1 →
      (ea.toNat % 8 ≠ 0 → TrapsAs i 2 ea s) ∧ (ea.toNat % 8 = 0 → 2 ^ 48 ≤ ea.toNat → TrapsAs i 5 ea s))
    ∧ (Claims.MayAccess s ea 8 → s.core.stage ≠ 1 → s.core.resp = [(tag, w)] → descPoisoned w.desc = false →
      (∀ l, s.core.line (ea.toNat / 64) s.curView = some l → l.dirty = 0) →
        let v := if descIsVoid w.desc then 0 else dataBytes w.data (ea.toNat % 64) 8
        ((s.core.rd b).toNat ≤ v → ∃ t, exec (.cwait a b) s = .next t ∧ CacheFrame s t ∧ PcPast s.core t.core
          ∧ t.core = { s.core.clearStage with pc := t.core.pc, loops := t.core.loops, l1d := t.core.l1d }
          ∧ ∀ y ∈ t.core.l1d, y.valid = y.dirty)
        ∧ (v < (s.core.rd b).toNat → WaitsFor (.cwait a b) (.counter ea.toNat (s.core.rd b).toNat) s))
    ∧ (Claims.MayAccess s ea 8 → s.core.failed = false → s.curDepth = 0 →
      s.xlate (bayOf s.cur) s.curPart s.curView 0 (ea.toNat / 2 ^ 16) = (.leaf e, u) → leafTgt e ≠ 2 → leafRo e = false →
      s.placeOf s.curPart e ea.toNat = .ok ph → (∀ l ∈ s.core.l1d, l.dirty = 0) →
      (s.req s.me).allAcked = true → (s.req s.me).stall = none →
        ∃ t k, exec (.cadd a b) s = .next t ∧ PcPast s.core t.core
          ∧ t.core = { s.core.clearStage with pc := t.core.pc, loops := t.core.loops, l1d := t.core.l1d }
          ∧ t.mem = s.mem ∧ (t.req s.me).win.getLast? = some k
          ∧ (t.req s.me).win.length = (s.req s.me).win.length + 1 ∧ k.pkt.op = .atomic ∧ k.pkt.aop = 0
          ∧ k.pkt.width = 8 ∧ k.pkt.words = [s.core.rd b] ∧ k.pkt.phys = ph)

/-- NOTIFY with no dirty byte and its writes complete notifies the queue that its selector names with g[b] and
completes; a selector above 255 traps with BOUNDS. CANCEL of a level 1 to 4 cancels what it names and completes, and of
a job that no item has named does nothing else; any other level traps with BOUNDS, and in a world it traps with WORLD
(R166, R167). -/
def Claims.NotifyAndCancel : Prop :=
  ∀ (s : State) (a b : Reg) (f : Nat) (v : VF) (q : Queue),
    let sel := (s.core.rd a).toNat
    let level := (s.core.rd a).toNat / 2 ^ 60
    (256 ≤ sel → TrapsAs (.notify a b) 5 (s.core.rd a) s)
    ∧ (sel < 256 → s.curDepth = 0 → (∀ l ∈ s.core.l1d, l.dirty = 0) → s.completeAtScope s.me 2 = true → NotStepping s →
      s.vfs.find? (fun z => z.2.part == some s.curPart && z.2.index == sel / 64) = some (f, v) →
      fget s.queues (qKey f (sel % 64)) = some q → q.slot = true →
        ∃ t, exec (.notify a b) s = .next t ∧ t = { s with pages := t.pages, queues := t.queues }
          ∧ (∀ p, p ≠ s.cur → t.page p = s.page p) ∧ t.page s.cur = { s.page s.cur with core := t.core }
          ∧ t.core = { s.core.clearStage with pc := t.core.pc, loops := t.core.loops } ∧ PcPast s.core t.core
          ∧ fget t.queues (qKey f (sel % 64)) = some { q with notes := q.notes ++ [s.core.rd b] }
          ∧ ∀ k, k ≠ qKey f (sel % 64) → fget t.queues k = fget s.queues k)
    ∧ (level < 1 ∨ 4 < level → TrapsAs (.cancel a) 5 (s.core.rd a) s)
    ∧ (1 ≤ level → level ≤ 4 → 0 < s.curDepth → TrapsAs (.cancel a) 6 0 s)
    ∧ (1 ≤ level → level ≤ 4 → s.curDepth = 0 → ∃ t,
        exec (.cancel a) s = .next t ∧ t = complete (s.cancelItems s.curPart level (sel % 2 ^ 60)).core
          (s.cancelItems s.curPart level (sel % 2 ^ 60))
        ∧ (level = 4 → s.jobOf s.curPart (sel % 2 ^ 60) = none → NotStepping s → CoreOnly s t ∧ PcPast s.core t.core))

/-- END with nothing in progress, no dirty byte and its writes complete ends the core, which leaves no loop active and
counts out of its truss; with a stream, a command or an access in progress it waits (R124). -/
def Claims.EndOfCore : Prop :=
  ∀ (s : State) (x : Truss), fget s.trusses (s.page s.cur).truss = some x → x.fork = none →
    (s.coreBusy s.cur = false → (∀ l ∈ s.core.l1d, l.dirty = 0) → ∃ t, exec .endCore s = .next t
      ∧ t = { s with pages := t.pages, trusses := t.trusses } ∧ (∀ p, p ≠ s.cur → t.page p = s.page p)
      ∧ t.page s.cur = { s.page s.cur with core := t.core }
      ∧ t.core = { s.core.clearStage with run := .ended, loops := t.core.loops } ∧ (∀ k, (t.core.loop k).act = false)
      ∧ fget t.trusses (s.page s.cur).truss =
        some { x with cores := x.cores - 1, endedAt := x.endedAt ++ [(s.page s.cur).ix] }
      ∧ ∀ k, k ≠ (s.page s.cur).truss → fget t.trusses k = fget s.trusses k)
    ∧ (s.coreBusy s.cur = true → ∃ t, exec .endCore s = .next t ∧ CoreOnly s t ∧ t.core.wait = some .ending
      ∧ SameNamed s.core t.core ∧ t.core.run = s.core.run)

/-! ## Kerfs, regions and worlds (R159, R168 to R172) -/

/-- Nothing holds the current core at a kerf: its accesses are complete, no command of it has a plate side in
progress, and its L1D has no dirty byte. -/
def Claims.AtKerf (s : State) : Prop :=
  s.completeAtScope s.me 2 = true ∧ s.plateCmds s.cur = false ∧ ∀ l ∈ s.core.l1d, l.dirty = 0

/-- KERF with no request pending completes; with one pending the core empties its L1D and holds there, or stops where
its truss is being stopped (R24, R159). -/
def Claims.KerfResults : Prop :=
  ∀ (s : State) (x : Truss), s.trussOf s.cur = some x →
    (x.request = false ∨ s.core.stage = 1 → x.state ≠ .stopping → NotStepping s → Passes .kerf s)
    ∧ (x.request = true → s.core.stage ≠ 1 → x.state ≠ .stopping → Claims.AtKerf s →
      ∃ t, exec .kerf s = .next t ∧ CoreOnly s t ∧ SameNamed s.core t.core ∧ t.core.wait = some .kerf ∧ t.core.l1d = [])
    ∧ (x.request = true → x.state = .stopping → Claims.AtKerf s →
      ∃ t, exec .kerf s = .next t ∧ CoreOnly s t ∧ SameNamed s.core t.core ∧ t.core.run = .stopped ∧ t.core.l1d = [])
    ∧ (s.completeAtScope s.me 2 = false → x.request = true → s.core.stage ≠ 1 → WaitsFor .kerf (.writes 2) s)

/-- FORKW of fewer than 2 or more than 8 rivals is ILLEGAL, at depth 3 it traps with WORLD; else the core empties its
L1D and arrives. Where it is not the last of its launch it waits, its arrival noted with n. The last of a launch of one
core finds n view tags free, which it takes for the placing of the copies, and waits; or it finds fewer, and its result
is −2. With its result at hand FORKW completes: gD receives it, the rival's index or −1 or −2. WYIELD outside a
world, or by another core than the first, traps with WORLD; CHOOSE outside a world too (R168 to R170). -/
def Claims.WorldInstructions : Prop :=
  ∀ (s : State) (d a : Reg) (n : BitVec 15) (x : Truss), s.trussOf s.cur = some x →
    let t0 := (s.page s.cur).truss
    (n.toNat < 2 ∨ 8 < n.toNat → Illegal (.forkw d a n) s)
    ∧ (2 ≤ n.toNat → n.toNat ≤ 8 → s.core.stage = 1 → NotStepping s → ∀ v rest, s.core.scratch = v :: rest →
      Writes (.forkw d a n) d v (s.core.tainted a) s)
    ∧ (2 ≤ n.toNat → n.toNat ≤ 8 → s.core.stage ≠ 1 → 3 ≤ x.depth → TrapsAs (.forkw d a n) 6 0 s)
    ∧ (2 ≤ n.toNat → n.toNat ≤ 8 → s.core.stage ≠ 1 → x.depth < 3 → Claims.AtKerf s → s.forkGroup t0 x = [t0] →
      fget s.trusses t0 = some x → s.openFork [t0] = none → ∀ l, s.launchOf x = some l →
        let cores := l.ntruss * (l.img.h * l.img.w)
        (cores ≠ 1 → ∃ t k, exec (.forkw d a n) s = .next t
          ∧ t.mem = s.mem ∧ t.core.wait = some .fork ∧ SameNamed s.core t.core ∧ t.core.l1d = []
          ∧ fget t.forks s.fresh = some k ∧ k.n = n.toNat ∧ k.launch = x.launch ∧ k.trusses = [t0] ∧ k.rivals = []
          ∧ k.view = x.view ∧ k.depth = x.depth ∧ k.outer = x.fork ∧ k.arrived = [(s.cur, n.toNat)])
        ∧ (cores = 1 → n.toNat ≤ (s.freeTags x.part).length → ∃ t k, exec (.forkw d a n) s = .next t
          ∧ t.mem = s.mem ∧ t.core.wait = some .fork ∧ SameNamed s.core t.core ∧ t.core.l1d = []
          ∧ fget t.forks s.fresh = some k ∧ k.tags = (s.freeTags x.part).take n.toNat ∧ k.made = []
          ∧ k.deadline = s.now + Nat.min (s.core.rd a).toNat 1000000 * 1600)
        ∧ (cores = 1 → (s.freeTags x.part).length < n.toNat → ∃ t, exec (.forkw d a n) s = .next t
          ∧ t.mem = s.mem ∧ t.core.wait = none ∧ t.core.stage = 1 ∧ t.core.scratch = [BitVec.ofInt 64 (-2)]
          ∧ SameNamed s.core t.core ∧ t.core.l1d = [] ∧ fget t.forks s.fresh = none))
    ∧ (s.core.stage ≠ 1 → (s.page s.cur).ix ≠ 0 ∨ x.ix ≠ 0 ∨ x.depth = 0 → TrapsAs (.wyield a) 6 0 s)
    ∧ (s.core.stage = 1 → NotStepping s → Passes (.wyield a) s)
    ∧ (s.core.stage ≠ 1 → x.depth = 0 → TrapsAs .choose 6 0 s)

/-- WYIELD of a rival while another has neither yielded nor ended: its trusses are asked to stop, the core empties its L1D and waits
for the commit, and gA read as signed is the rival's score once its other cores have stopped at a KERF or their END (R170). -/
def Claims.YieldSetsScore : Prop :=
  ∀ (s : State) (a : Reg) (x : Truss) (f : Nat) (k : Fork) (l : Launch) (r r' : Rival), s.trussOf s.cur = some x →
    fget s.trusses (s.page s.cur).truss = some x → (s.page s.cur).ix = 0 → x.ix = 0 → 0 < x.depth → x.fork = some f →
    fget s.forks f = some k → fget s.launches k.launch = some l → s.launchCopying k.launch = false → k.rivals = [r, r'] →
    r.trusses = [(s.page s.cur).truss] → (s.page s.cur).truss ∉ r'.trusses → r.score = none → r.lost = false →
    r'.score = none → r'.yielding = none → r'.lost = false → s.rivalEnded f r' = false → s.core.stage ≠ 1 → Claims.AtKerf s →
      let v := (s.core.rd a).toInt
      let stopped := ∀ p ∈ s.rivalPages r, p ≠ s.cur →
        (s.page p).core.run ≠ .running ∨ (s.page p).core.wait = some .kerf ∨ (s.page p).core.wait = some .yielded
      ∃ t score, exec (.wyield a) s = .next t ∧ t.mem = s.mem ∧ t.core.wait = some .yielded ∧ SameNamed s.core t.core
        ∧ t.core.l1d = []
        ∧ fget t.trusses (s.page s.cur).truss = some { x with request := true }
        ∧ fget t.forks f = some { k with rivals := [{ r with yielding := some v, score := score }, r'] }
        ∧ (stopped → score = some v) ∧ (¬ stopped → score = none)

/-- A fork whose rivals all have their scores is settled: the rival of the highest score, of equals the first, is committed
once what it has issued is complete at .M, and until then nothing of any fork changes (R170, R433). -/
def Claims.ForksSettle : Prop :=
  ∀ (s : State) (n f i : Nat) (k : Fork) (l : Launch) (r : Rival) (v : Int), (s.forks.map Prod.fst).Nodup →
    fget s.forks f = some k → fget s.launches k.launch = some l → l.cancel = false → l.reset = false →
    s.launchCopying k.launch = false → (∀ q ∈ k.rivals, q.lost = false ∧ q.score.isSome = true) →
    k.rivals[i]? = some r → r.score = some v →
    (∀ j q w, k.rivals[j]? = some q → q.score = some w → w < v ∨ (w = v ∧ i ≤ j)) →
      (s.rivalDone r = true → k.outer = none → State.settleFork (n + 1) f s = s.commit f k i)
      ∧ (s.rivalDone r = false → (State.settleFork (n + 1) f s).forks = s.forks
        ∧ (State.settleFork (n + 1) f s).mem = s.mem ∧ (State.settleFork (n + 1) f s).trusses = s.trusses)

/-- A commit: the fork is over, and each truss of the winner stands in the parent world, with its request to stop gone unless
its launch is being stopped (R433, R441). -/
def Claims.CommitLeaves : Prop :=
  ∀ (s : State) (f i : Nat) (k : Fork) (l : Launch) (r : Rival) (tr : Nat) (x : Truss), k.rivals[i]? = some r →
    fget s.forks f = some k → fget s.launches k.launch = some l → fget s.trusses tr = some x → tr ∈ r.trusses →
    (∀ j q, k.rivals[j]? = some q → j ≠ i → tr ∉ q.trusses) → (∀ z ∈ s.forks, z.2.outer ≠ some f) →
      fget (s.commit f k i).forks f = none ∧ ∃ y, fget (s.commit f k i).trusses tr = some y ∧ y.depth = k.depth
        ∧ y.world = k.world ∧ y.view = k.view ∧ y.fork = k.outer ∧ y.request = decide (x.state = .stopping)

/-- A panel of a winner whose parent is the base view: its panel-table entry names the private panel, its flags kept, and every
byte of memory outside the entry's block stays. The panel that it named, where it named one, leaves for the pool once nothing uses
it; of an entry that is not there the private panel leaves. Where the parent is a world, its view has the panel for its
own (R304, R433, R441). -/
def Claims.WinnerPanels : Prop :=
  ∀ (s : State) (part slot panel g : Nat),
    (∀ a e h, s.leafAt part slot panel = some a → s.guestWord part a = .ok e → s.guest part a = .ok h → h % 8 = 0 →
      descIsVoid (s.mem.block (.hbm h)).2 = false →
        let r := s.putLeaf part slot panel g
        r.1 = (if e % 2 = 1 ∧ leafTgt e = 0 then some (bits e 16 32) else none)
        ∧ (∀ k, k < 8 → r.2.mem.byte (.hbm (h + k)) = BitVec.ofNat 8 ((e % 2 ^ 16 / 8 * 8 + 1 + g * 2 ^ 16) / 2 ^ (8 * k)))
        ∧ ∀ m, (∀ k, k < 8 → m ≠ .hbm (h + k)) → r.2.mem.byte m = s.mem.byte m)
    ∧ (s.leafAt part slot panel = none → s.putLeaf part slot panel g = (some g, s))
    ∧ ∀ parent v, parent ≠ 0 → fget (s.part part).views parent = some v →
      ∃ v', fget ((s.mergePanel part parent (slot, panel, g)).part part).views parent = some v'
        ∧ (slot, panel, g) ∈ v'.overlay ∧ (∀ o ∈ v'.overlay, o.1 = slot → o.2.1 = panel → o.2.2 = g)
        ∧ ∀ o, ¬ (o.1 = slot ∧ o.2.1 = panel) → (o ∈ v'.overlay ↔ o ∈ v.overlay)

/-- In a world NOTIFY, CADD, an AMO of a SHARED panel with d = 0, and CPY to a SHARED tensor enter the outbox of their rival with
their operands and complete, with nothing else done; where the outboxes of the rival and of every world around it hold 64
entries, they trap with OUTBOX_FULL, TVAL 0. AMO of a SHARED panel with d ≠ 0, and CAS, trap with WORLD (R171, R443, R444). -/
def Claims.Deferrals : Prop :=
  ∀ (s u : State) (d a b : Reg) (c : BitVec 2) (op : BitVec 4) (en : BitVec 6) (x : Truss) (f e : Nat) (k : Fork) (g : List Byte),
    s.trussOf s.cur = some x → x.fork = some f → 0 < x.depth → fget s.forks f = some k → s.hazOn s.cur = false →
      let t0 := (s.page s.cur).truss
      let ix := (s.page s.cur).ix
      let ea := s.core.rd a
      let full := 64 ≤ s.outboxCount 4 (some f) t0
      -- The entry is in the outbox, and no memory, queue or engine has changed.
      let deferred (i : Instr) (y : OutboxEntry) : Prop :=
        (full → exec i s = .next (takeTrap 7 s.core.pc 0 s) ∨ exec i s = .next (takeTrap 7 s.core.pc 0 u))
        ∧ (¬ full → NotStepping s → ∃ t, exec i s = .next t ∧ t.mem = s.mem ∧ t.queues = s.queues ∧ t.engines = s.engines
          ∧ PcPast s.core t.core ∧ fget t.forks f = some { k with rivals := k.rivals.map fun r =>
            if t0 ∈ r.trusses then { r with outbox := r.outbox ++ [y] } else r })
      (ea.toNat < 256 → deferred (.notify a b) ⟨0, [ea, s.core.rd b], [], t0, ix⟩)
      ∧ (s.core.stage = 0 → s.core.failed = false → ea.toNat < 2 ^ 48 →
        s.xlate (bayOf s.cur) s.curPart s.curView 0 (ea.toNat / 2 ^ 16) = (.leaf e, u) → leafTgt e ≠ 2 → leafRo e = false →
          (ea.toNat % 8 = 0 → deferred (.cadd a b) ⟨1, [ea, s.core.rd b], [], t0, ix⟩)
          ∧ (leafSh e = true → op.toNat ≤ 8 → ∀ i n, (i, n) ∈ [(Instr.amoW 0 a b c op, 4), (.amoD 0 a b c op, 8)] →
            ea.toNat % n = 0 → deferred i ⟨2, [ea, BitVec.ofNat 64 n, op.zeroExtend 64, c.zeroExtend 64, s.core.rd b], [], t0, ix⟩)
          ∧ (leafSh e = true → op.toNat ≤ 8 → ∀ i n, (i, n) ∈ [(Instr.casW d a b c, 4), (.casD d a b c, 8)]
              ++ (if d = 0 then [] else [(Instr.amoW d a b c op, 4), (.amoD d a b c op, 8)]) →
            ea.toNat % n = 0 → exec i s = .next (takeTrap 6 s.core.pc ea u)))
      ∧ (en.toNat ≤ 4 → ea.toNat % 64 = 0 → ea.toNat < 2 ^ 48 → coreBlock ea s = .ok g s →
        s.engCheck 0 g x (bayOf s.cur) = none → gDplate 0 g = false → (s.geo x.part (hSlot (gDst g))).shared = true →
          deferred (.cpy d a en) ⟨4, [en.zeroExtend 64], g, t0, ix⟩)

/-- CHOOSE of a rival that nothing holds, with nothing left to be written back and no world nested in its fork, commits it: the
fork is over, the rival's trusses are those of the enclosing world again, and the instruction completes, the enclosing fork
settled. While something of the rival is still under way, or has still to leave a core or a store port, the core waits and the
fork stays (R169, R440). -/
def Claims.ChooseCommits : Prop :=
  ∀ (s : State) (x : Truss) (f i : Nat) (k : Fork) (l : Launch) (r : Rival), s.trussOf s.cur = some x → s.core.stage = 1 →
    s.rivalOf (s.page s.cur).truss = some (f, k, i, r) → fget s.launches k.launch = some l →
      let clean := s.core.scratch ≠ [] ∧ ∀ p ∈ s.rivalPages r, (s.page p).dirtyLines = []
      (s.chooseReady r = true → clean → l.cancel = false → l.reset = false → k.rivals[i]? = some r →
        (s.page s.cur).truss ∈ r.trusses → (∀ j q, k.rivals[j]? = some q → j ≠ i → (s.page s.cur).truss ∉ q.trusses) →
        (∀ z ∈ s.forks, z.2.outer ≠ some f) → ∃ u t y, exec .choose s = .next (complete t.core t)
          ∧ (k.outer = none → t = u) ∧ (∀ g, k.outer = some g → t = State.settleFork 4 g u) ∧ fget u.forks f = none
          ∧ fget u.trusses (s.page s.cur).truss = some y
          ∧ y.depth = k.depth ∧ y.world = k.world ∧ y.view = k.view ∧ y.fork = k.outer)
      ∧ (s.chooseReady r = true → ¬ clean → l.cancel = false → l.reset = false → ∃ t, exec .choose s = .next t
        ∧ t.core.wait = some .choose ∧ t.forks = s.forks ∧ t.mem = s.mem)
      ∧ (s.chooseReady r = false ∨ l.cancel = true ∨ l.reset = true → WaitsFor .choose .choose s)

/-- REGION at a place that the image's REGIONS names: REGNO becomes its number and the page's record holds the region's code
offsets and the core, the pc of the REGION included; bits above 46 of the mask are ILLEGAL, in a world it traps with WORLD, and at any other
place it is ILLEGAL (R172, R414). -/
def Claims.RegionRecords : Prop :=
  ∀ (s : State) (a : Reg) (x : Truss) (l : Launch) (z : Nat × Nat × Nat × Nat), s.trussOf s.cur = some x →
    s.curLaunch = some l →
      (s.regionHere = none → Illegal (.region a) s)
      ∧ (s.regionHere = some z →
        (2 ^ 47 ≤ (s.core.rd a).toNat → Illegal (.region a) s)
        ∧ ((s.core.rd a).toNat < 2 ^ 47 → 0 < x.depth → TrapsAs (.region a) 6 0 s)
        ∧ ((s.core.rd a).toNat < 2 ^ 47 → x.depth = 0 → x.state = .running → (s.page s.cur).restart = false → NotStepping s →
          ∃ t r, exec (.region a) s = .next t ∧ t.mem = s.mem ∧ PcPast s.core t.core
            ∧ t.core = { s.core.clearStage with pc := t.core.pc, loops := t.core.loops, regno := BitVec.ofNat 64 z.2.1,
                                                 regionReads := [] }
            ∧ (t.page s.cur).region = some r ∧ r.regno = BitVec.ofNat 64 z.2.1 ∧ r.code = z.2.2
            ∧ r.keep = (s.core.rd a).truncate 47 ∧ r.core.regs = s.core.regs ∧ r.core.taint = s.core.taint
            ∧ r.core.pc = s.core.pc ∧ r.core.loops = s.core.loops))

/-- Streams: see `StreamIssue` and `StreamControl`. -/
def Obligations.StreamResults : Prop := Claims.StreamIssue ∧ Claims.StreamControl

/-- Engine commands of a core: see `EngineIssue` and `TicketResults`. -/
def Obligations.EngineCommands : Prop := Claims.EngineIssue ∧ Claims.TicketResults

/-- The fabric as a core loads and starts it: see `ConfigLoading` and `StartFeeds`. -/
def Obligations.FabricLoading : Prop := Claims.ConfigLoading ∧ Claims.StartFeeds

/-- The fabric as a core reads it, and its links: see `FabricReads` and `RoundReserves`. -/
def Obligations.FabricInstructions : Prop := Claims.FabricReads ∧ Claims.RoundReserves

/-- Barriers, phases and counters: see `BarrierAndPhase` and `CounterResults`. -/
def Obligations.SynchronisationResults : Prop := Claims.BarrierAndPhase ∧ Claims.CounterResults

/-- Notifications, cancels and the end of a core: see `NotifyAndCancel` and `EndOfCore`. -/
def Obligations.LifeCycleResults : Prop := Claims.NotifyAndCancel ∧ Claims.EndOfCore

/-- Kerfs and restart records: see `KerfResults` and `RegionRecords`. -/
def Obligations.CheckpointResults : Prop := Claims.KerfResults ∧ Claims.RegionRecords

/-- Worlds: see `WorldInstructions`, `YieldSetsScore` and `ChooseCommits`. -/
def Obligations.WorldResults : Prop := Claims.WorldInstructions ∧ Claims.YieldSetsScore ∧ Claims.ChooseCommits

/-- How worlds end, and what they defer till then: see `ForksSettle`, `CommitLeaves`, `WinnerPanels` and `Deferrals`. -/
def Obligations.WorldCommits : Prop := Claims.ForksSettle ∧ Claims.CommitLeaves ∧ Claims.WinnerPanels ∧ Claims.Deferrals

/-! ## Elements (R180 to R251) -/

/-- Of the module, only pages, the watchdogs of trusses, meters, remote-data caches, the marks of reads under way and the count of
free values used differ; of the pages only page `p`, and of it only elements, tiles and the event that WFE waits for; of its
elements only element `e`. -/
def Claims.ElementOnly (s t : State) (p e : Nat) : Prop :=
  t = { s with pages := t.pages, trusses := t.trusses, meters := t.meters, freeCount := t.freeCount, bays := t.bays, reqs := t.reqs }
    ∧ ReadsKept s t ∧ (∀ b, t.bay b = { s.bay b with rdc := (t.bay b).rdc }) ∧ (∀ a, t.mem.byte a = s.mem.byte a) ∧ (∀ q, q ≠ p → t.page q = s.page q)
    ∧ t.page p = { s.page p with elems := (t.page p).elems, tiles := (t.page p).tiles,
                                  core := { (s.page p).core with event := (t.page p).core.event } }
    ∧ ∀ q f, (q, f) ≠ (p, e) → t.elem q f = s.elem q f

/-- The operations that fire under one rule, with their opcode and plan (R180, R249). -/
def Claims.Firings (p e : Nat) : List (Instr × Nat × (Page → Nat → Plan)) :=
  [(.elemAdd p e, 0x01, elemAddPlan), (.elemSub p e, 0x02, elemSubPlan), (.elemMul p e, 0x03, elemMulPlan),
   (.fma p e, 0x04, fmaPlan), (.mac p e, 0x05, macPlan), (.elemAbs p e, 0x06, elemAbsPlan), (.neg p e, 0x07, negPlan),
   (.elemMin p e, 0x08, elemMinPlan), (.elemMax p e, 0x09, elemMaxPlan), (.minp p e, 0x0A, minpPlan),
   (.maxp p e, 0x0B, maxpPlan), (.ceq p e, 0x10, ceqPlan), (.cne p e, 0x11, cnePlan), (.clt p e, 0x12, cltPlan),
   (.cle p e, 0x13, clePlan), (.elemSel p e, 0x14, elemSelPlan), (.elemAnd p e, 0x18, elemAndPlan),
   (.elemOr p e, 0x19, elemOrPlan), (.elemXor p e, 0x1A, elemXorPlan), (.elemNot p e, 0x1B, elemNotPlan),
   (.elemShl p e, 0x1C, elemShlPlan), (.elemShr p e, 0x1D, elemShrPlan), (.elemSra p e, 0x1E, elemSraPlan)] ++
  [(.rshr p e, 0x20, rshrPlan), (.req p e, 0x21, reqPlan), (.clmp p e, 0x22, clmpPlan), (.pass p e, 0x30, passPlan),
   (.bcst p e, 0x31, bcstPlan), (.perm p e, 0x32, permPlan), (.slide p e, 0x33, slidePlan), (.rcp p e, 0x40, rcpPlan),
   (.rsq p e, 0x41, rsqPlan), (.sqrt p e, 0x42, sqrtPlan), (.exp2 p e, 0x43, exp2Plan), (.log2 p e, 0x44, log2Plan),
   (.tanh p e, 0x45, tanhPlan), (.cvt p e, 0x48, cvtFirePlan), (.bq p e, 0x49, bqPlan), (.dq p e, 0x4A, dqPlan),
   (.pack p e, 0x4B, packPlan), (.unpk p e, 0x4C, unpkPlan), (.rsum p e, 0x50, rsumPlan), (.rmax p e, 0x51, rmaxPlan),
   (.rmin p e, 0x52, rminPlan), (.acc p e, 0x53, accFirePlan)] ++
  [(.mma p e, 0x60, matrixPlan), (.mmao p e, 0x61, matrixPlan), (.mmaz p e, 0x62, matrixPlan), (.amul p e, 0x68, amulPlan),
   (.amma p e, 0x69, matrixPlan), (.aconj p e, 0x6A, aconjPlan), (.anorm p e, 0x6B, anormPlan), (.ainv p e, 0x6C, ainvPlan),
   (.filt p e, 0x80, filtPlan), (.cmpt p e, 0x81, cmptPlan), (.cnt p e, 0x88, cntPlan), (.mrk p e, 0x89, mrkPlan),
   (.strip p e, 0x8A, stripPlan), (.zip p e, 0x90, zipPlan), (.unzp p e, 0x91, unzpPlan), (.pld p e, 0xA0, pldPlan),
   (.pst p e, 0xA1, pstPlan), (.lbuf p e, 0xA2, lbufPlan), (.tflip p e, 0xA3, tflipPlan)]

/-- Tokens to emit that differ from `l` only in the data of poisoned lanes, which the spec leaves free (R33, R34; log 2). -/
def Claims.Freed (l l' : List OutTok) : Prop :=
  l'.length = l.length ∧ ∀ (k : Nat) (o : OutTok), l[k]? = some o → ∃ d : Data, l'[k]? = some { o with data := d }
    ∧ ∀ n, n < 16 → (o.bad &&& o.valid).getLsbD n = false → lane d n = lane o.data n

/-- A firing carried out: the element goes to the plan's, each input that the plan eats loses its head token, the flags
of the plan stick, FIRE counts one, and what the plan emits joins the result queues, as written but for poisoned lanes.
Every token it consumes has arrived whole. The tiles that the plan names are replaced; those of other sites stay, and all of
them where it names none. Only a firing that names a tile drops bytes of the remote-data cache, as the acquire that it is (R44,
R76, R182, R249 to R251, R269, R317). -/
def Claims.Fired (s t : State) (p e : Nat) (f : Fire) : Prop :=
  let x := s.elem p e
  let y := t.elem p e
  Claims.ElementOnly s t p e ∧ y.fire = f.x.fire + 1 ∧ y.status = f.x.status ||| f.fl ||| x.classFlags f.eats
    ∧ (((opRow x.opc).map OpRow.tiles).getD 0 = 0 → t.bays = s.bays ∧ t.reqs = s.reqs)
    ∧ (∀ i, i < 4 → fgetD y.hops (37 + i) [] = (fgetD f.x.hops (37 + i) []).drop (if f.eats.testBit i then 1 else 0))
    ∧ (∀ h, h < 37 ∨ 41 ≤ h → fgetD y.hops h [] = fgetD f.x.hops h [])
    ∧ y = { f.x with fire := y.fire, status := y.status, hops := y.hops, ins := y.ins, q0 := y.q0, q1 := y.q1, annc := y.annc }
    ∧ (∀ i, i < 4 → y.inBurst i = if f.eats.testBit i then (f.x.inBurst i).pass else f.x.inBurst i)
    ∧ (∃ o, Claims.Freed f.out0 o ∧ y.q0 = f.x.q0 ++ (renderAll x.home x.annc[0] o).1
      ∧ y.annc[0] = (renderAll x.home x.annc[0] o).2)
    ∧ (∃ o, Claims.Freed f.out1 o ∧ y.q1 = f.x.q1 ++ (renderAll x.home x.annc[1] o).1
      ∧ y.annc[1] = (renderAll x.home x.annc[1] o).2)
    ∧ (∀ k tl, k < 64 → (k, tl) ∈ f.tiles → (∀ z, (k, z) ∈ f.tiles → z = tl) → (t.page p).tile e k = tl)
    ∧ (∀ z k, z < 64 → k < 64 → (z ≠ e ∧ (∀ w ∈ f.tiles, w.1 < 64)) ∨ f.tiles = [] →
      (t.page p).tile z k = (s.page p).tile z k)

/-- The tokens at the head of an element's inputs hold their data. -/
def Claims.Sound (x : Elem) : Prop := ∀ i tok, i < 4 → x.hopHead (inHop i) = some tok → tok.lost = false

/-- Every firing operation: in an element that is live and holds the operation, where its plan is to fire and its
outputs have room, it fires; where an input or a tile is missing, or the room, or the element is not live, nothing
changes at all; where the plan refuses, the element is marked faulted, and fires no more, and where it says so the truss fails
with a code (R18, R196, R249, R250, R251). -/
def Obligations.ElementFirings : Prop :=
  ∀ (s : State) (p e opc : Nat) (i : Instr) (plan : Page → Nat → Plan), (i, opc, plan) ∈ Claims.Firings p e → e < 64 →
    (s.elemLive p e opc = true →
      (∀ f, plan (s.page p) e = .fire f → fireRoom (s.elem p e) f = true → Claims.Sound (s.elem p e) →
          ∃ t, exec i s = .next t ∧ Claims.Fired s t p e f)
      ∧ (∀ f, plan (s.page p) e = .fire f → fireRoom (s.elem p e) f = false → exec i s = .next s)
      ∧ (∀ b dry, plan (s.page p) e = .wait b dry → exec i s = .next s) ∧ (plan (s.page p) e = .blocked → exec i s = .next s)
      ∧ (plan (s.page p) e = .fault → exec i s = .next (s.setElem p e { s.elem p e with faulted := true }))
      ∧ (∀ c, plan (s.page p) e = .fail c →
        exec i s = .next ((s.setElem p e { s.elem p e with faulted := true }).failPage p c e)))
    ∧ (s.fabricRuns p = false ∨ (s.elem p e).faulted = true ∨ (s.elem p e).judging ≠ [] ∨ (s.elem p e).opc ≠ opc →
      exec i s = .next s)

/-- Input `i` of an element with one value a lane holds a sound INT32 token at unit scale. -/
def Claims.Int32In (x : Elem) (i : Nat) (t : Token) : Prop :=
  x.data i = some t ∧ t.lost = false ∧ (x.inBurst i).bad = false ∧ (x.inBurst i).fmt = 0x04#8 ∧ (x.inBurst i).scale = 0x7F#8

/-- An element takes `n` inputs of 32-bit values, none replaced by a constant, and may emit one token on out0 in the
burst announced there. -/
def Claims.Int32Element (x : Elem) (n : Nat) : Prop :=
  x.pack = 1 ∧ x.insMask = 2 ^ n - 1 ∧ inClass x.icls 0x04#8 = true ∧ x.var = 0 ∧ 0 < x.free 0 ∧ x.outs = 1
    ∧ x.annc[0] = some ⟨0x04#8, 0x7F#8, 63, 64, false⟩

/-- One token is emitted on out0, with valid bits, rank and lanes as given, and no flag sets. -/
def Claims.Emits (i : Instr) (s : State) (p e : Nat) (valid : BitVec 16) (rank : BitVec 3) (f : Nat → BitVec 32) : Prop :=
  ∃ t tok, exec i s = .next t ∧ Claims.ElementOnly s t p e ∧ (t.elem p e).q0 = (s.elem p e).q0 ++ [tok]
    ∧ (t.elem p e).q1 = (s.elem p e).q1 ∧ (t.elem p e).status = (s.elem p e).status ∧ t.bays = s.bays ∧ t.reqs = s.reqs
    ∧ tok.kind = 0 ∧ tok.valid = valid ∧ tok.rank = rank ∧ tok.par = parity tok.data
    ∧ ∀ l, l < 16 → lane tok.data l = if valid.getLsbD l then f l else 0

/-- AND, OR, XOR, NOT, the shifts by the low six bits, and PASS, lane by lane on INT32 tokens: a lane is valid where it
is valid in every input, the rank is the largest, and nothing else changes (R182, R189, R206). -/
def Claims.ElementLogic : Prop :=
  ∀ (s : State) (p e : Nat) (a b : Token), e < 64 →
    let x := s.elem p e
    let va (l : Nat) := lane a.data l
    let vb (l : Nat) := lane b.data l
    let rank := if a.rank.toNat < b.rank.toNat then b.rank else a.rank
    (∀ i opc f, (i, opc, f) ∈ [(Instr.elemAnd p e, 0x18, fun l => va l &&& vb l), (.elemOr p e, 0x19, fun l => va l ||| vb l),
        (.elemXor p e, 0x1A, fun l => va l ^^^ vb l), (.elemShl p e, 0x1C, fun l => va l <<< ((vb l).toNat % 64)),
        (.elemShr p e, 0x1D, fun l => va l >>> ((vb l).toNat % 64)),
        (.elemSra p e, 0x1E, fun l => (va l).sshiftRight ((vb l).toNat % 64))] →
      s.elemLive p e opc = true → Claims.Int32Element x 2 → Claims.Int32In x 0 a → Claims.Int32In x 1 b →
        Claims.Emits i s p e (a.valid &&& b.valid) rank f)
    ∧ ∀ i opc f, (i, opc, f) ∈ [(Instr.elemNot p e, 0x1B, fun l => ~~~ va l), (.pass p e, 0x30, va)] →
      s.elemLive p e opc = true → Claims.Int32Element x 1 → Claims.Int32In x 0 a → (opc = 0x30 → ∀ l, l < 16 → a.valid.getLsbD l = true) →
        Claims.Emits i s p e a.valid a.rank f

/-- ADD, SUB, MUL, MIN, MAX, MINP, MAXP, ABS, NEG and the compares on INT32 tokens with TFMT INT32: the exact result
where it is an INT32 number in every valid lane, 1 or 0 for a compare; no flag sets (R183, R184, R186, R187). -/
def Claims.ElementIntegers : Prop :=
  ∀ (s : State) (p e : Nat) (a b : Token), e < 64 →
    let x := s.elem p e
    let va (l : Nat) : Int := (lane a.data l).toInt
    let vb (l : Nat) : Int := (lane b.data l).toInt
    let rank := if a.rank.toNat < b.rank.toNat then b.rank else a.rank
    let fits (v : BitVec 16) (f : Nat → Int) : Prop := ∀ l, l < 16 → v.getLsbD l = true → -2 ^ 31 ≤ f l ∧ f l < 2 ^ 31
    let test (c : Bool) : Int := if c then 1 else 0
    x.tfmt = 0x04#8 →
      (∀ i opc f, (i, opc, f) ∈ [(Instr.elemAdd p e, 0x01, fun l => va l + vb l), (.elemSub p e, 0x02, fun l => va l - vb l),
          (.elemMul p e, 0x03, fun l => va l * vb l), (.elemMin p e, 0x08, fun l => min (va l) (vb l)),
          (.elemMax p e, 0x09, fun l => max (va l) (vb l)), (.minp p e, 0x0A, fun l => min (va l) (vb l)),
          (.maxp p e, 0x0B, fun l => max (va l) (vb l)), (.ceq p e, 0x10, fun l => test (va l == vb l)),
          (.cne p e, 0x11, fun l => test (va l != vb l)), (.clt p e, 0x12, fun l => test (decide (va l < vb l))),
          (.cle p e, 0x13, fun l => test (decide (va l ≤ vb l)))] →
        s.elemLive p e opc = true → Claims.Int32Element x 2 → Claims.Int32In x 0 a → Claims.Int32In x 1 b →
        fits (a.valid &&& b.valid) f →
          Claims.Emits i s p e (a.valid &&& b.valid) rank fun l => BitVec.ofInt 32 (f l))
      ∧ ∀ i opc f, (i, opc, f) ∈ [(Instr.elemAbs p e, 0x06, fun l => ((va l).natAbs : Int)), (.neg p e, 0x07, fun l => - va l)] →
        s.elemLive p e opc = true → Claims.Int32Element x 1 → Claims.Int32In x 0 a → fits a.valid f →
          Claims.Emits i s p e a.valid a.rank fun l => BitVec.ofInt 32 (f l)

/-- Lane operations on INT32 tokens: see `ElementLogic` and `ElementIntegers`. -/
def Obligations.IntegerLanes : Prop := Claims.ElementLogic ∧ Claims.ElementIntegers

/-- MLD, MST and MAMO of a live element with its inputs at hand, room for the firing, its tokens and its accesses, a
tensor that allows them, and its blocks translated: the inputs are consumed and the firing is in flight, memory as yet
unchanged. A tensor that does not allow them fails the truss before any access; a firing that stalls holds its tensor
until it goes on. Once its reads have come back, or its writes are complete at CSCOPE, ELEMENT_MEMORY_COMPLETE ends the
oldest firing where the outputs have room, and its completion token carries the RANK of the index token; before that it changes
nothing (R232 to R237, R251, R299). -/
def Obligations.ElementMemory : Prop :=
  ∀ (s u : State) (p e opc : Nat) (i : Instr) (x : Truss) (wr : Bool) (ps : List (Nat × Option Phys)) (g : MemFiring)
    (rest : List MemFiring),
    let el := s.elem p e
    let r := s.req (elemAgent p e)
    let geo := s.geo x.part el.memSlot
    let acc := el.memAccesses geo opc wr
    let blocks := firsts (acc.map fun z => z.2 / 64)
    s.trussOf p = some x →
      ((i, opc, wr) ∈ [(Instr.mld p e, 0xA8, false), (.mst p e, 0xA9, true), (.mamo p e, 0xAA, true)] →
        s.elemLive p e opc = true → el.ready = true → memRoom el = true → el.mem.length < 32 → r.stall = none →
        Claims.Sound el →
          (∀ c, el.memRef = 0 → memRefusal s x el geo wr = some c →
            exec i s = .next ((s.markFaulted p e).failPage p c e))
          ∧ ((el.memRef = 0 → memRefusal s x el geo wr = none) →
            r.win.length + acc.length ≤ 64 → r.kept.length + r.unsent.length + acc.length ≤ 32 → blocks.length ≤ acc.length →
              (∀ st, elemXlates p e x geo wr (decide (opc = 0xAA) && el.outs.testBit 0) blocks s = (.stall st, u) →
                ∃ t, exec i s = .next t ∧ t.mem = u.mem ∧ (t.req (elemAgent p e)).stall = some st ∧ (t.elem p e).mem = (u.elem p e).mem
                  ∧ (el.memRef = 0 → (u.elem p e).memRef = 0 → (t.elem p e).memRef = el.memSlot + 1))
              ∧ (elemXlates p e x geo wr (decide (opc = 0xAA) && el.outs.testBit 0) blocks s = (.ok ps, u) →
                (el.memRef = 0 ∨ ((u.part x.part).slot (el.memRef - 1)).state ≠ 2) →
                  ∃ t f, exec i s = .next t ∧ t.mem = u.mem ∧ (t.elem p e).mem = el.mem ++ [f] ∧ f.op = opc - 0xA8
                    ∧ f.slot = el.memSlot ∧ f.valid = el.memValid wr ∧ f.data = el.memIndex ∧ f.rank = el.rankIn ∧ f.irank = (el.tok 0).rank
                    ∧ (t.elem p e).fire = el.fire + 1 ∧ (t.elem p e).memRef = 0
                    ∧ (opc = 0xA8 → f.tags.length = blocks.length) ∧ (opc = 0xAA → f.tags.length = acc.length))))
      ∧ (el.mem = g :: rest →
        let es := g.tags.filterMap r.entry
        let done := if g.op = 1 then s.completeAtScope (elemAgent p e) el.memScope = true else ∀ w ∈ es, w.got.isSome = true
        (¬ done → exec (.elementMemoryComplete p e 0) s = .next s)
        ∧ (done → s.fabricRuns p = true → 2 ≤ el.free 0 → 2 ≤ el.free 1 →
          ((s.part x.part).slot g.slot).state ≠ 2 → ∃ t, exec (.elementMemoryComplete p e 0) s = .next t
            ∧ t.mem = s.mem ∧ (t.elem p e).mem = rest
            ∧ (∃ n, el.outs.testBit (if g.op = 1 then 0 else 1) = true → ∃ tok ∈ (if g.op = 1 then (t.elem p e).q0 else (t.elem p e).q1),
              tok.valid = 1 ∧ tok.rank = g.irank ∧ tok.kind = 0 ∧ tok.data = BitVec.ofNat 512 n)))

/-- Of the module, only page `p` and the watchdogs of trusses differ, of the page only its elements, and of them only
element `e`. -/
def Claims.FabricOnly (s t : State) (p e : Nat) : Prop :=
  t = { s with pages := t.pages, trusses := t.trusses } ∧ (∀ q, q ≠ p → t.page q = s.page q)
    ∧ t.page p = { s.page p with elems := (t.page p).elems } ∧ ∀ q f, (q, f) ≠ (p, e) → t.elem q f = s.elem q f

/-- Each hop of an element loses its head where `pops` names it, and gains `tok` where `ins` does. -/
def Claims.HopsBecome (x y : Elem) (pops ins : List Nat) (tok : Token) : Prop :=
  ∀ h, fgetD y.hops h [] = (fgetD x.hops h []).drop (if h ∈ pops then 1 else 0) ++ (if h ∈ ins then [tok] else [])

/-- A SCALE token at an input other than in0, or at in0 of a computing operation, opens the input's burst and goes. A
CONFIG or COMMAND token at an input other than in0 is discarded, and the truss fails with CONFIG_INVALID; a COMMAND
token at in0 goes on to out0 where it has room. CMD turns a DATA token into a COMMAND token, its data as the packet.
Said of tokens that have arrived whole (R82, R84, R181, R212, R238). -/
def Obligations.ElementTokens : Prop :=
  ∀ (s : State) (p e k : Nat) (tok : Token), e < 64 → s.fabricRuns p = true → k < 4 →
    let x := s.elem p e
    x.hopHead (inHop k) = some tok → tok.lost = false →
      (tok.kind = 1 → (k = 3 → x.side = false) → (k = 0 → 0x01 ≤ x.opc ∧ x.opc ≤ 0x14) →
        ∃ t, exec (.scaleToken p e k) s = .next t ∧ Claims.FabricOnly s t p e
          ∧ (t.elem p e).inBurst k = burstOf tok ∧ Claims.HopsBecome x (t.elem p e) [37 + k] [] tok
          ∧ t.elem p e = { x with hops := (t.elem p e).hops, ins := (t.elem p e).ins })
      ∧ (tok.kind ≠ 1 → exec (.scaleToken p e k) s = .next s)
      ∧ (∀ i n, (i, n) ∈ [(Instr.configToken p e k, 2#2), (.commandTokenAtElement p e k, 3#2)] →
        (tok.kind ≠ n → exec i s = .next s)
        ∧ (tok.kind = n → k ≠ 0 → (k = 3 → x.side = false) → (s.trussOf p).isSome = true →
          exec i s = .next ((s.setElem p e (x.hopPop (37 + k))).failPage p 0x03 e)))
      ∧ (tok.kind = 3 → k = 0 → x.midRun = false → x.mem = [] → x.outs.testBit 0 = true → 0 < x.free 0 →
        ∃ t, exec (.commandTokenAtElement p e 0) s = .next t ∧ Claims.FabricOnly s t p e
          ∧ (t.elem p e).q0 = x.q0 ++ [tok] ∧ Claims.HopsBecome x (t.elem p e) [37] [] tok)
      ∧ (tok.kind = 2 → k = 0 → x.midRun = false → x.mem = [] → (s.trussOf p).isSome = true →
        (∀ w, w ∈ tok.words → cwElem w.2 ≠ (s.page p).ix * 64 + e) → tok.valid ≠ 0 → x.outs.testBit 0 = true → 0 < x.free 0 →
          ∃ t, exec (.configToken p e 0) s = .next t ∧ t.mem = s.mem
            ∧ (t.elem p e).q0 = x.q0 ++ [tok] ∧ Claims.HopsBecome x (t.elem p e) [37] [] tok)
      ∧ (tok.kind = 0 → k = 0 → s.elemLive p e 0xB0 = true → x.insMask = 1 → 0 < x.free 0 → x.p 0 % 2 = 0 →
        ∃ t c, exec (.cmd p e) s = .next t ∧ Claims.ElementOnly s t p e ∧ (t.elem p e).q0 = x.q0 ++ [c]
          ∧ Claims.HopsBecome x (t.elem p e) [37] [] tok ∧ c.kind = 3 ∧ c.valid = tok.valid
          ∧ ∀ l, l < 16 → lane c.data l = if tok.valid.getLsbD l then lane tok.data l else 0)

/-- TOKEN_HOP: the head token of a result queue goes at once to every hop that names the output, where all of them have
room and none crosses a seam; a token of a neighbour's hop likewise, within a partition; with a hop full, or none that
names the source's output, nothing moves. Into another partition nothing passes: the token is dropped and SILLDROP
counts (R78, R251, R253, R368, R390). -/
def Obligations.TokenHops : Prop :=
  ∀ (s : State) (p e k : Nat) (tok : Token) (rest : List Token), e < 64 →
    let x := s.elem p e
    let local_ (src : Nat) : Prop := ∀ h ∈ x.named src, crossesSeam p e h = false
    (s.fabricRuns p = true → k < 2 → (if k = 0 then x.q0 else x.q1) = tok :: rest → tok.lost = false →
      (x.named (6 + k) ≠ [] → s.namedFree p e (6 + k) = true → local_ (6 + k) →
        ∃ t, exec (.tokenHop p e (6 + k)) s = .next t ∧ Claims.FabricOnly s t p e
          ∧ (if k = 0 then (t.elem p e).q0 else (t.elem p e).q1) = rest
          ∧ Claims.HopsBecome x (t.elem p e) [] (x.named (6 + k)) tok)
      ∧ (x.named (6 + k) = [] ∨ s.namedFree p e (6 + k) = false → exec (.tokenHop p e (6 + k)) s = .next s))
    ∧ ∀ d q f, 1 ≤ d → d ≤ 4 → neighbour p e d = some (q, f) → (q, f) ≠ (p, e) → s.hopsRun q = true → s.hopsRun p = true →
      (s.elem q f).seam = [] → ((s.elem q f).fld 46).testBit 7 = false →
      (s.elem q f).hopHead (facing d) = some tok → tok.lost = false →
        ((s.elem q f).partReg = x.partReg → x.named d ≠ [] → s.namedFree p e d = true → local_ d →
          ∃ t, exec (.tokenHop p e d) s = .next t ∧ t.mem = s.mem
            ∧ Claims.HopsBecome x (t.elem p e) [] (x.named d) tok
            ∧ Claims.HopsBecome (s.elem q f) (t.elem q f) [facing d] [] tok)
        ∧ ((s.elem q f).partReg ≠ x.partReg → (s.elem q f).partReg ≠ 0x3F → (s.vf (s.vfOfPage q)).eq.log = 0 →
          ∃ t, exec (.tokenHop p e d) s = .next t ∧ t.elem p e = x
            ∧ Claims.HopsBecome (s.elem q f) (t.elem q f) [facing d] [] tok
            ∧ (t.part (s.elem q f).partReg).silldrop = (s.part (s.elem q f).partReg).silldrop + 1)

/-- STEER sends a data token to the output that its control token selects; MERGE takes a control token, then one token
of the input that it selects; CARRY takes its first token, then by each control token one more or the first again; MITRE
sends the next token of a closed block. A SCALE token at a control input is taken and ignored, whatever the operator waits
for. What is taken leaves its hop, what is sent joins every hop that names the output;
nothing else moves. Said of tokens that have arrived whole (R239 to R244). -/
def Obligations.Operators : Prop :=
  ∀ (s : State) (p e : Nat) (c d : Token), e < 64 → s.fabricRuns p = true → c.kind = 0 → d.kind = 0 →
    c.lost = false → d.lost = false →
    let x := s.elem p e
    let goes (i : Instr) (pops : List Nat) (out : Nat) (y : Elem) : Prop :=
      s.namedFree p e out = true → (∀ h ∈ x.named out, crossesSeam p e h = false) →
        ∃ t, exec i s = .next t ∧ Claims.FabricOnly s t p e ∧ Claims.HopsBecome x (t.elem p e) pops (x.named out) d
          ∧ t.elem p e = { y with hops := (t.elem p e).hops }
    let takes (i : Instr) (h : Nat) (y : Elem) : Prop :=
      ∃ t, exec i s = .next t ∧ Claims.FabricOnly s t p e ∧ Claims.HopsBecome x (t.elem p e) [h] [] c
        ∧ t.elem p e = { y with hops := (t.elem p e).hops }
    let dataAt (h : Nat) : Prop := ∀ k, x.hopHead h = some k → k.kind = 0
    (∀ i h k, (i = Instr.steer p e ∧ x.fld 41 ≠ 0 ∧ h = 48) ∨ (i = .merge p e ∧ x.fld 42 ≠ 0 ∧ h = 50)
        ∨ (i = .carry p e ∧ x.fld 43 ≠ 0 ∧ h = 53) → x.hopHead h = some k → k.kind = 1 → k.lost = false →
      ∃ t, exec i s = .next t ∧ Claims.FabricOnly s t p e ∧ t.elem p e = x.hopPop h)
    ∧ (x.fld 41 ≠ 0 → x.hopHead 48 = some c → x.hopHead 49 = some d →
      goes (.steer p e) [48, 49] (if c.valid.getLsbD 0 = true ∧ lane c.data 0 ≠ 0 then 8 else 9) x)
    ∧ (x.fld 42 ≠ 0 →
      (x.merge = 0 → x.hopHead 50 = some c →
        takes (.merge p e) 50 { x with merge := if c.valid.getLsbD 0 = true ∧ lane c.data 0 ≠ 0 then 1 else 2 })
      ∧ (dataAt 50 → x.merge = 1 → x.hopHead 51 = some d → goes (.merge p e) [51] 10 { x with merge := 0 })
      ∧ (dataAt 50 → x.merge = 2 → x.hopHead 52 = some d → goes (.merge p e) [52] 10 { x with merge := 0 }))
    ∧ (x.fld 43 ≠ 0 →
      (dataAt 53 → x.carry = 0 → x.hopHead 55 = some d → goes (.carry p e) [55] 11 { x with carry := 1 })
      ∧ (x.carry = 1 → x.hopHead 53 = some c →
        takes (.carry p e) 53 { x with carry := if c.valid.getLsbD 0 = true ∧ lane c.data 0 ≠ 0 then 2 else 0 })
      ∧ (dataAt 53 → x.carry = 2 → x.hopHead 54 = some d → goes (.carry p e) [54] 11 { x with carry := 1 }))
    ∧ (bits (x.fld 44) 4 2 ≠ 0 → ∀ rest, x.mitreOut = d :: rest → goes (.mitre p e) [] 12 { x with mitreOut := rest })

/-- MMA_TILE_WRITE: with a C converted and the D-ring tile that it took EMPTY, the tile is FULL with it, no other tile
changes, and the accumulators, which the firing has cleared, stay; where the operation says so a token with the tile's
number follows. Else nothing changes. ALGEBRA_TABLE_READ: an element with ALG 15 and a FULL table tile
takes a table that is well formed, and is faulted by another, its truss failing with CONFIG_INVALID (R216, R220, R281). -/
def Obligations.MatrixTiles : Prop :=
  ∀ (s : State) (p e : Nat), e < 64 →
    let x := s.elem p e
    let tile := (s.page p).tile e x.targetC
    (s.elemLive p e x.opc = true → x.writesD = true → x.cRows ≠ [] → tile.state = 0 → (x.tellsD = true → 0 < x.free 0) →
      x.targetC < 64 →
      ∃ t, exec (.mmaTileWrite p e) s = .next t ∧ t = { s with pages := t.pages } ∧ (∀ q, q ≠ p → t.page q = s.page q)
        ∧ ((t.page p).tile e x.targetC).state = 1 ∧ (t.elem p e).acc = x.acc ∧ (t.elem p e).cRows = []
        ∧ (∀ y z, y < 64 → z < 64 → (y, z) ≠ (e, x.targetC) → (t.page p).tile y z = (s.page p).tile y z)
        ∧ (x.tellsD = false → (t.elem p e).q0 = x.q0)
        ∧ (x.tellsD = true → ∃ tok, (t.elem p e).q0 = x.q0 ++ [tok] ∧ tok.kind = 0 ∧ tok.valid = 1
          ∧ tok.data = BitVec.ofNat 512 x.targetC)
        ∧ (∀ (rank : BitVec 3) (d : Desc) (codes : List (Option Nat)), x.cRows = pendingC x.targetC rank d codes → ∀ b, b < 64 →
            let w := fmtBytes (fmtOf d)
            let block := ((t.page p).tile e x.targetC).block b
            let here (j : Nat) : Prop := j * w / 64 = b
            (codes.length * w ≤ 64 * b → block = (0, 0x7F00#16))
            ∧ ((∃ j, here j ∧ codes[j]? = some none) → block = (0, descPoison))
            ∧ (64 * b < codes.length * w → (¬ ∃ j, here j ∧ codes[j]? = some none) → block.2 = d
                ∧ ∀ j v, here j → codes[j]? = some (some v) → dataBytes block.1 (j * w % 64) w = v % 2 ^ (8 * w)))
        ∧ (t.elem p e).hops = x.hops ∧ (t.page p).core = (s.page p).core)
    ∧ (x.cRows = [] ∨ tile.state ≠ 0 → exec (.mmaTileWrite p e) s = .next s)
    ∧ (s.fabricRuns p = true → x.faulted = false → x.judging = [] → x.opc ∈ [0x68, 0x69, 0x6A, 0x6B, 0x6C] → x.alg = 15 →
      x.table = [] →
        let a := (s.page p).tile e x.atile
        (a.state ≠ 1 → exec (.algebraTableRead p e) s = .next s)
        ∧ (a.state = 1 → tableOk x a = true →
          exec (.algebraTableRead p e) s = .next (s.setElem p e { x with table := tableWords a }))
        ∧ (a.state = 1 → tableOk x a = false → exec (.algebraTableRead p e) s =
          .next ((s.setElem p e { x with faulted := true }).failPage p 0x03 e)))

/-! ## Number formats (R30 to R46) -/

/-- ±v. -/
def Claims.sg (g : Bool) (v : Rat) : Rat := if g then -v else v

/-- The finite number of sign `g` and magnitude `v`. -/
def Claims.Is (x : Sys2Proof.Num) (g : Bool) (v : Rat) : Prop := ∃ n d : Nat, x = .fin g n d ∧ d ≠ 0 ∧ (n : Rat) = v * (d : Rat)

/-- The finite number of value `v`. -/
def Claims.Real (x : Sys2Proof.Num) (v : Rat) : Prop := ∃ g m, Claims.Is x g m ∧ Claims.sg g m = v

/-- The floating formats: code, significant bits, bias, width, whether it has signs and infinities, the code of the
largest finite magnitude, and its default NaN (R30, R36 to R40). -/
def Claims.floats : List (Nat × Nat × Int × Nat × Bool × Bool × Nat × Nat) :=
  [(0x05, 8, 127, 16, true, true, 0x7F7F, 0x7FC0), (0x06, 11, 15, 16, true, true, 0x7BFF, 0x7E00),
   (0x07, 24, 127, 32, true, true, 0x7F7FFFFF, 0x7FC00000)] ++
  (List.range 7).flatMap fun k =>
    [(0x10 + k, k + 1, 2 ^ (6 - k), 8, true, false, 0x7F, 0x80), (0x18 + k, k + 1, 2 ^ (6 - k), 8, true, true, 0x7E, 0x80),
     (0x20 + k, k + 1, 2 ^ (7 - k), 8, false, false, 0xFE, 0xFF), (0x28 + k, k + 1, 2 ^ (7 - k), 8, false, true, 0xFD, 0xFF)]

/-- The integer formats: code, width, least and largest value (R30, R38). -/
def Claims.ints : List (Nat × Nat × Int × Int) :=
  [(1, 8, -128, 127), (2, 8, 0, 255), (3, 16, -2 ^ 15, 2 ^ 15 - 1), (4, 32, -2 ^ 31, 2 ^ 31 - 1)]

/-- The value of magnitude code `k`: an exponent field over `p` − 1 trailing significand bits, subnormal below the first
field, and beyond the last field of a format the value that an unbounded exponent gives (R36, R45). -/
def Claims.magnitude (p : Nat) (bias : Int) (k : Nat) : Rat :=
  let h := 2 ^ (p - 1)
  let unit : Int := 1 - bias - ((p : Int) - 1)
  if k < h then (k : Rat) * (2 : Rat) ^ unit else ((h + k % h : Nat) : Rat) * (2 : Rat) ^ (unit + ((k / h : Nat) : Int) - 1)

/-- How a slot's bits decode: sign, exponent and significand of a floating format times 2^(s−127), the two's complement
value of an integer format times that, or the stored integer itself; infinities and NaNs, quiet or signalling; the NaN scale;
zero for VOID with DISC, and POISON with POIS for its code, a reserved code and an integer at the NaN scale (R31 to R33, R36 to
R41, R46). -/
def Claims.Decodes : Prop :=
  (∀ f p bias w signed inf top nan, (f, p, bias, w, signed, inf, top, nan) ∈ Claims.floats →
    ∀ (s : BitVec 8) (stored : Bool) (raw : Nat),
      let c := raw % 2 ^ w
      let k := if signed then c % 2 ^ (w - 1) else c
      let g := signed && decide (2 ^ (w - 1) ≤ c)
      let quiet := f = 6 ∨ w = 8 ∨ (k / 2 ^ (p - 2)) % 2 = 1
      (s = 0xFF#8 → decodeVal (BitVec.ofNat 8 f) s stored raw = (.num (.nan false), 0))
      ∧ (s ≠ 0xFF#8 → k ≤ top → c ≠ nan → ∃ x, decodeVal (BitVec.ofNat 8 f) s stored raw = (.num x, 0)
          ∧ Claims.Is x g (Claims.magnitude p bias k * (2 : Rat) ^ ((s.toNat : Int) - 127)))
      ∧ (s ≠ 0xFF#8 → inf = true → k = top + 1 → c ≠ nan → decodeVal (BitVec.ofNat 8 f) s stored raw = (.num (.inf g), 0))
      ∧ (s ≠ 0xFF#8 → c = nan ∨ top + 1 < k →
          ∃ sig, decodeVal (BitVec.ofNat 8 f) s stored raw = (.num (.nan sig), 0) ∧ (sig = false ↔ quiet)))
  ∧ (∀ f w lo hi, (f, w, lo, hi) ∈ Claims.ints → ∀ (s : BitVec 8) (raw : Nat) (v : Int), s ≠ 0xFF#8 → lo ≤ v → v ≤ hi →
      v % 2 ^ w = ((raw % 2 ^ w : Nat) : Int) →
        (∃ x, decodeVal (BitVec.ofNat 8 f) s false raw = (.num x, 0)
          ∧ Claims.Is x (decide (v < 0)) ((v.natAbs : Rat) * (2 : Rat) ^ ((s.toNat : Int) - 127)))
        ∧ ∃ x, decodeVal (BitVec.ofNat 8 f) s true raw = (.num x, 0) ∧ Claims.Is x (decide (v < 0)) (v.natAbs : Rat))
  ∧ ∀ (f s : BitVec 8) (stored : Bool) (raw : Nat),
      (f = 0#8 → decodeVal f s stored raw = (.num .zero, flDisc))
      ∧ (f = 0x0E#8 ∨ (f ≠ 0#8 ∧ (∀ r ∈ Claims.ints, r.1 ≠ f.toNat) ∧ ∀ r ∈ Claims.floats, r.1 ≠ f.toNat)
          ∨ (s = 0xFF#8 ∧ ∃ r ∈ Claims.ints, r.1 = f.toNat) → decodeVal f s stored raw = (.poison, flPois))

/-- Rounding to the codes of rising magnitudes: `below v` where v is less than the exact magnitude, `at_ v` where it is that.
An inexact value takes one of its two neighbours: the nearer, ties to the even code (RNE) or up (RNA), the smaller (RTZ), the
one toward +∞ (RUP) or −∞ (RDN), or the odd code (RTO) (R43, R45). -/
def Claims.RoundsBy (mag : Nat → Rat) (rm : Nat) (g : Bool) (below at_ : Rat → Prop) (k : Nat) : Prop :=
  at_ (mag k) ∨ ∃ j, below (mag j) ∧ ¬ below (mag (j + 1)) ∧ ¬ at_ (mag (j + 1))
    ∧ let mid := (mag j + mag (j + 1)) / 2
      let up := (rm = 0 ∧ (below mid ∨ (at_ mid ∧ j % 2 = 1))) ∨ (rm = 1 ∧ (below mid ∨ at_ mid)) ∨ (rm = 3 ∧ g = false)
        ∨ (rm = 4 ∧ g = true) ∨ (rm = 5 ∧ j % 2 = 0)
      (up → k = j + 1) ∧ (¬ up → k = j)

/-- Rounding of the magnitude `y`. -/
def Claims.RoundsTo (mag : Nat → Rat) (rm : Nat) (g : Bool) (y : Rat) : Nat → Prop := Claims.RoundsBy mag rm g (· < y) (· = y)

/-- `convert`: a finite value times 2^(127−s) is rounded once, INX where that is inexact; an overflow gives the largest finite
value, or with rule INF the infinity, or the NaN with INV where there is none, and sets OVF; a tiny inexact result sets UNF;
infinities follow the overflow rule, with SAT where they are clamped; a NaN gives the default NaN, or 0 with INV in an integer
format, and a signalling one INV; a negative value gives 0 with SAT in an unsigned floating format; an integer result is clamped
with SAT (R40, R43, R45). -/
def Claims.Converts : Prop :=
  (∀ f p bias w signed inf top nan, (f, p, bias, w, signed, inf, top, nan) ∈ Claims.floats → ∀ (x : Sys2Proof.Num) (s rm ovr : Nat),
    s < 256 → rm < 6 → ovr < 3 →
      let code (g : Bool) (k : Nat) : Nat := if g = true ∧ signed = true ∧ (k ≠ 0 ∨ w ≠ 8) then 2 ^ (w - 1) + k else k
      let huge (g : Bool) (fl : BitVec 8) : Nat × BitVec 8 := if inf then (code g (top + 1), fl) else (nan, flInv ||| fl)
      (∀ g v, Claims.Is x g v →
        let y := v * (2 : Rat) ^ (127 - (s : Int))
        (signed = false → g = true → v ≠ 0 → convert x (BitVec.ofNat 8 f) s rm ovr = (0, flSat))
        ∧ (signed = true ∨ g = false ∨ v = 0 → ∃ k, Claims.RoundsTo (Claims.magnitude p bias) rm g y k
            ∧ let inx := if Claims.magnitude p bias k = y then 0 else flInx
              convert x (BitVec.ofNat 8 f) s rm ovr =
                if top < k then (if ovr = 2 then huge g (inx ||| flOvf) else (code g top, inx ||| flOvf))
                else (code g k, inx ||| (if inx = 0 ∨ 2 ^ (p - 1) ≤ k then 0 else flUnf))))
      ∧ (∀ g, x = .inf g → convert x (BitVec.ofNat 8 f) s rm ovr =
          if g = true ∧ signed = false then (0, flSat) else if ovr = 0 then (code g top, flSat) else huge g 0)
      ∧ ∀ sig, x = .nan sig → convert x (BitVec.ofNat 8 f) s rm ovr = (nan, if sig then flInv else 0))
  ∧ ∀ f w lo hi, (f, w, lo, hi) ∈ Claims.ints → ∀ (x : Sys2Proof.Num) (s rm ovr : Nat), s < 256 → rm < 6 → ovr < 3 →
      let code (v : Int) : Nat := (v % (2 : Int) ^ w).toNat
      (∀ g v, Claims.Is x g v → ∃ m : Nat, Claims.RoundsTo (fun n => (n : Rat)) rm g (v * (2 : Rat) ^ (127 - (s : Int))) m
        ∧ let z : Int := if g then -(m : Int) else m
          let c := max lo (min hi z)
          convert x (BitVec.ofNat 8 f) s rm ovr =
            (code c, (if c = z then 0 else flSat) ||| (if (m : Rat) = v * (2 : Rat) ^ (127 - (s : Int)) then 0 else flInx)))
      ∧ (∀ g, x = .inf g → convert x (BitVec.ofNat 8 f) s rm ovr = (code (if g then lo else hi), flSat))
      ∧ ∀ sig, x = .nan sig → convert x (BitVec.ofNat 8 f) s rm ovr = (0, flInv)

/-- Every value format, read and written (R31 to R33, R36 to R41, R43, R45, R46). -/
def Obligations.NumberFormats : Prop := Claims.Decodes ∧ Claims.Converts

/-! ## Exact operations (R46 to R62, R184 to R194, R218) -/

/-- Sums, products, quotients, negation, magnitude and order of finite numbers are those of the reals; a zero sum of unlike
signs is −0 under RDN and +0 otherwise, one of like signs keeps the sign; infinities and NaNs follow the rules of R184, and a NaN
is unordered (R184, R187). -/
def Claims.Arithmetic : Prop :=
  (∀ (x y : Sys2Proof.Num) (g h : Bool) (a b : Rat) (rm : Nat), Claims.Is x g a → Claims.Is y h b →
    let sum := Claims.sg g a + Claims.sg h b
    (∃ r, x.mul y = (r, 0) ∧ Claims.Is r (g != h) (a * b))
    ∧ (∃ r k m, x.add rm y = (r, 0) ∧ Claims.Is r k m ∧ Claims.sg k m = sum
        ∧ (sum = 0 → k = if g = h then g else decide (rm = 4)))
    ∧ (b ≠ 0 → ∃ r, x.div y = (r, 0) ∧ Claims.Is r (g != h) (a / b))
    ∧ Claims.Is x.neg (!g) a ∧ Claims.Is x.abs false a
    ∧ (x.lt y = true ↔ Claims.sg g a < Claims.sg h b) ∧ (x.eqv y = true ↔ Claims.sg g a = Claims.sg h b))
  ∧ (∀ (x : Sys2Proof.Num) (g h : Bool) (a : Rat) (rm : Nat), Claims.Is x g a →
    (Sys2Proof.Num.inf h).add rm x = (.inf h, 0) ∧ x.add rm (.inf h) = (.inf h, 0)
    ∧ (Sys2Proof.Num.inf h).mul x = (if a = 0 then (.nan false, flInv) else (.inf (h != g), 0))
    ∧ x.mul (.inf h) = (if a = 0 then (.nan false, flInv) else (.inf (g != h), 0))
    ∧ (∃ r, x.div (.inf h) = (r, 0) ∧ Claims.Is r (g != h) 0) ∧ (Sys2Proof.Num.inf h).div x = (.inf (h != g), 0)
    ∧ (Sys2Proof.Num.inf h).lt x = h ∧ x.lt (.inf h) = !h)
  ∧ (∀ (g h : Bool) (rm : Nat), (Sys2Proof.Num.inf g).add rm (.inf h) = (if g = h then (.inf g, 0) else (.nan false, flInv))
    ∧ (Sys2Proof.Num.inf g).mul (.inf h) = (.inf (g != h), 0) ∧ (Sys2Proof.Num.inf g).div (.inf h) = (.nan false, flInv)
    ∧ (Sys2Proof.Num.inf g).neg = .inf (!g) ∧ (Sys2Proof.Num.inf g).abs = .inf false ∧ (Sys2Proof.Num.inf g).lt (.inf h) = (g && !h))
  ∧ ∀ (x y : Sys2Proof.Num) (sig : Bool) (rm : Nat), x = .nan sig ∨ y = .nan sig →
    let r : Sys2Proof.Num := .nan (x.isSnan || y.isSnan)
    x.add rm y = (r, 0) ∧ x.mul y = (r, 0) ∧ x.div y = (r, 0) ∧ x.lt y = false ∧ x.eqv y = false
      ∧ (x = .nan sig → x.neg = x ∧ x.abs = x)

/-- MIN, MAX, MINP and MAXP: the lesser or greater with −0 below +0; one quiet NaN gives the number, or the NaN with the
propagating forms; two give the NaN, and a signalling one also INV (R49). -/
def Claims.Picks : Prop :=
  ∀ (max prop : Bool) (x y : Sys2Proof.Num),
    let lower (a b : Sys2Proof.Num) : Prop := a.lt b = true ∨ (∃ v w, Claims.Is a true v ∧ Claims.Is b false w ∧ v = 0 ∧ w = 0)
    (x.isNan = false → y.isNan = false →
      ((max = true ∧ lower x y) ∨ (max = false ∧ lower y x) → pickV max prop x y = (y, 0))
      ∧ (¬ ((max = true ∧ lower x y) ∨ (max = false ∧ lower y x)) → pickV max prop x y = (x, 0)))
    ∧ (x = .nan false → y.isNan = false → pickV max prop x y = (if prop then .nan false else y, 0))
    ∧ (x.isNan = false → y = .nan false → pickV max prop x y = (if prop then .nan false else x, 0))
    ∧ (x = .nan false → y = .nan false → pickV max prop x y = (.nan false, 0))
    ∧ (x.isSnan = true ∨ y.isSnan = true → pickV max prop x y = (.nan false, flInv))

/-- An FP32 value of magnitude `w` lies within `u` of `v`, or is the infinity beyond it. -/
def Claims.Near (r : Sys2Proof.Num) (g : Bool) (v u : Rat) : Prop :=
  (∃ w, Claims.Is r g w ∧ w - v ≤ u ∧ v - w ≤ u) ∨ (r = .inf g ∧ (2 : Rat) ^ (128 : Nat) ≤ v + u)

/-- The special functions, on the FP32 number `z` that their input rounds to: NaN, infinities, zeros and negative numbers as
R193 lists them; exact cases; the quotient and the root within one unit in the last place of their exact value, that unit
being the model's reading (log 5); and SQRT so that its one rounding in any floating format is that of the exact root (R193,
R194). -/
def Claims.SpecialFunctions : Prop :=
  (∀ op sig, special op (.nan sig) = (.nan sig, 0))
  ∧ ∀ (x : Sys2Proof.Num) (g : Bool) (v : Rat), x.isNan = false →
    let z := ofFp32 (toFp32 x).1
    let nan := ((.nan false, flInv) : Sys2Proof.Num × BitVec 8)
    let gives (op : Nat) (h : Bool) (w : Rat) : Prop := ∃ r, special op x = (r, 0) ∧ Claims.Is r h w
    (z = .inf g → gives 0x40 g 0 ∧ special 0x42 x = (if g then nan else (.inf false, 0))
      ∧ special 0x44 x = (if g then nan else (.inf false, 0)) ∧ gives 0x45 g 1
      ∧ (if g = true then special 0x41 x = nan ∧ gives 0x43 false 0
         else gives 0x41 false 0 ∧ special 0x43 x = (.inf false, 0)))
    ∧ (Claims.Is z g 0 → special 0x40 x = (.inf g, 0) ∧ special 0x41 x = (.inf g, 0) ∧ gives 0x42 g 0 ∧ gives 0x43 false 1
      ∧ special 0x44 x = (.inf true, 0) ∧ gives 0x45 g 0)
    ∧ (Claims.Is z true v → v ≠ 0 → special 0x41 x = nan ∧ special 0x42 x = nan ∧ special 0x44 x = nan)
    ∧ (∀ k : Int, Claims.Is z g ((2 : Rat) ^ k) → (-127 ≤ k → k ≤ 127 → gives 0x40 g ((2 : Rat) ^ (-k)))
      ∧ (g = false → gives 0x44 (decide (k < 0)) (k.natAbs : Rat)))
    ∧ (∀ k : Int, Claims.Is z false ((2 : Rat) ^ (2 * k)) → gives 0x41 false ((2 : Rat) ^ (-k)))
    ∧ (∀ n : Nat, Claims.Is z g (n : Rat) → (g = true ∧ n ≤ 149) ∨ (g = false ∧ n ≤ 127) →
      gives 0x43 false ((2 : Rat) ^ (if g then -(n : Int) else n)))
    ∧ (∀ e : Int, Claims.Is z g v → (2 : Rat) ^ e ≤ 1 / v → 1 / v < (2 : Rat) ^ (e + 1) →
      Claims.Near (special 0x40 x).1 g (1 / v) ((2 : Rat) ^ (max (-149) (e - 23))))
    ∧ (∀ e : Int, Claims.Is z false v → v ≠ 0 → (2 : Rat) ^ (2 * e) * v ≤ 1 → 1 < (2 : Rat) ^ (2 * e + 2) * v →
      let u := (2 : Rat) ^ (e - 23)
      ∃ w, Claims.Is (special 0x41 x).1 false w ∧ u ≤ w ∧ (w - u) * (w - u) * v ≤ 1 ∧ 1 ≤ (w + u) * (w + u) * v)
    ∧ (Claims.Is z g v → ∀ op, op = 0x43 ∨ (op = 0x44 ∧ g = false) ∨ op = 0x45 → ∀ r, (special op x).1 = r →
      (r = .inf false ∨ r = .inf true ∨ ∃ k h, Claims.Is r h (Claims.magnitude 24 127 k))
      ∧ (op = 0x45 → ∃ h m, Claims.Is r h m ∧ m ≤ 1 ∧ (m ≠ 0 → h = g)))
    ∧ (Claims.Is z false v → v ≠ 0 → ∀ f p bias w signed inf top nan, (f, p, bias, w, signed, inf, top, nan) ∈ Claims.floats →
      ∀ s rm ovr : Nat, s < 256 → rm < 6 → ovr < 3 →
        let y := v * (2 : Rat) ^ (2 * (127 - (s : Int)))
        ∃ k, Claims.RoundsBy (Claims.magnitude p bias) rm false (fun m => m * m < y) (fun m => m * m = y) k
          ∧ (k ≤ top → (convert (special 0x42 x).1 (BitVec.ofNat 8 f) s rm ovr).1 = k)
          ∧ (top < k → ovr ≠ 2 → (convert (special 0x42 x).1 (BitVec.ofNat 8 f) s rm ovr).1 = top))

/-- An accumulator takes a value in: FP32 by one rounding of the exact sum to nearest even, INT32 modulo 2^32 with OVF on a wrap;
a poisoned value poisons it. A sum of finite terms is exact, and so are the products of algebra values (R51, R52, R54, R57). -/
def Claims.Sums : Prop :=
  (∀ (a : Acc) (fl : BitVec 8) (int : Bool), a.add int .poison fl = ({ a with seen := true, poison := true }, fl))
  ∧ (∀ (a : Acc) (x : Sys2Proof.Num) (g : Bool) (n : Nat) (fl : BitVec 8), Claims.Is x g (n : Rat) →
      let v : Int := if g then -(n : Int) else n
      a.add true (.num x) fl = (⟨a.bits + BitVec.ofInt 32 v, true, a.poison⟩,
        fl ||| (if -2 ^ 31 ≤ a.bits.toInt + v ∧ a.bits.toInt + v < 2 ^ 31 then 0 else flOvf)))
  ∧ (∀ (a : Acc) (x : Sys2Proof.Num) (v w : Rat) (fl : BitVec 8), Claims.Real x v → Claims.Real (ofFp32 a.bits) w →
      ∃ y, Claims.Real y (w + v) ∧ a.add false (.num x) fl =
        (⟨BitVec.ofNat 32 (convert y 0x07#8 127 0 2).1, true, a.poison⟩, fl ||| (convert y 0x07#8 127 0 2).2))
  ∧ (∀ l : List (Sys2Proof.Num × Rat), (∀ z ∈ l, Claims.Real z.1 z.2) →
      ∃ r, sumNums (l.map fun z => (z.1, 0)) = (r, 0) ∧ Claims.Real r (l.map Prod.snd).sum)
  ∧ ∀ (a : Algebra) (x y : List Sys2Proof.Num) (u v : Nat → Rat) (k : Nat), x.length = a.n → y.length = a.n →
      (∀ i j, (a.entry i j).1 = 1 ∨ (a.entry i j).1 = -1 ∨ (a.entry i j).1 = 0) →
      (∀ i z, x[i]? = some z → Claims.Real z (u i)) → (∀ i z, y[i]? = some z → Claims.Real z (v i)) →
        ∃ r, a.mul x y k = (r, 0) ∧ Claims.Real r ((List.range a.n).map fun i => ((List.range a.n).map fun j =>
          if (a.entry i j).2 = k then ((a.entry i j).1 : Rat) * u i * v j else 0).sum).sum

/-- The exact operations behind every result (R46 to R54, R57, R184, R187, R193, R194). -/
def Obligations.ExactOperations : Prop := Claims.Arithmetic ∧ Claims.Picks ∧ Claims.SpecialFunctions ∧ Claims.Sums

/-! ## The values that elements compute (R182 to R204) -/

/-- The operation fires, with a firing that `φ` describes, where its outputs have room for what that emits; without the
room nothing changes. -/
def Claims.Fires (i : Instr) (s : State) (p e : Nat) (φ : Fire → Prop) : Prop :=
  ∃ f, φ f ∧ (fireRoom (s.elem p e) f = true → Claims.Sound (s.elem p e) → ∃ t, exec i s = .next t ∧ Claims.Fired s t p e f)
    ∧ (fireRoom (s.elem p e) f = false → exec i s = .next s)

/-- The flags `fl` are those of `h` at the first `n` numbers. -/
def Claims.Ors (n : Nat) (h : Nat → BitVec 8) (fl : BitVec 8) : Prop :=
  ∀ b, b < 8 → (fl.getLsbD b = true ↔ ∃ k, k < n ∧ (h k).getLsbD b = true)

/-- How emitted tokens are sent, one after the other. A poisoned result goes alone in a POISON burst. A computed one follows a
SCALE token where its format or scale is not the one announced. One that moves bits follows a SCALE token that opens in0's burst
again, behind a POISON burst (R34, R182, R183). -/
def Claims.Rendering : Prop :=
  ∀ (home : Burst) (ann : Option Burst) (o : OutTok) (l : List OutTok),
    let tok := dataToken o.data o.valid o.rank
    let said := match o.before.getLast? with
      | some t => some (burstOf t)
      | none => ann
    let r := renderAll home ann [o]
    let again (b : Burst) : Prop := b.fmt = 0x0E#8 ∧ ((b.bad = true ∧ b.blen = 0) ∨ (home.bad = false ∧ readsPoison home.fmt home.scale = false))
    tok.kind = 0 ∧ tok.data = o.data ∧ tok.valid = o.valid ∧ tok.rank = o.rank ∧ tok.par = parity o.data
    ∧ renderAll home ann [] = ([], ann)
    ∧ renderAll home ann (o :: l) = (r.1 ++ (renderAll home r.2 l).1, (renderAll home r.2 l).2)
    ∧ (o.pois = true → r = (o.before ++ [scaleToken 0x0E#8 0x7F#8 0, tok], some ⟨0x0E#8, 0x7F#8, 0, 1, true⟩))
    ∧ (∀ d, o.pois = false → o.desc = some d →
        ((∃ b, said = some b ∧ b.bad = false ∧ b.fmt = fmtOf d ∧ b.scale = scaleOf d) → r = (o.before ++ [tok], said))
        ∧ ((∀ b, said = some b → b.bad = true ∨ b.fmt ≠ fmtOf d ∨ b.scale ≠ scaleOf d) →
          r = (o.before ++ [scaleToken (fmtOf d) (scaleOf d) o.blen, tok], some ⟨fmtOf d, scaleOf d, o.blen, o.blen + 1, false⟩)))
    ∧ (o.pois = false → o.desc = none →
        ((∃ b, said = some b ∧ again b) →
          r = (o.before ++ [scaleToken home.fmt home.scale home.blen, tok], some ⟨home.fmt, home.scale, home.blen, home.blen + 1, false⟩))
        ∧ ((∀ b, said = some b → ¬ again b) → r = (o.before ++ [tok], said)))

/-- Input `i` of an element is one of its constants (R80). -/
def Claims.Const (x : Elem) (i : Nat) : Prop := (i = 1 ∧ x.var.testBit 0 = true) ∨ (i = 2 ∧ x.var.testBit 1 = true)

/-- What an element reads in a slot: nothing in an invalid lane; POISON of a POISON burst, of a format outside its class and of one
wider than the slot; else the slot's bits, or a constant's, decoded under the burst's format and scale, in0's for a constant. An
operation takes the integer path where TFMT and every used input are of an integer format, VOID counting as one unless ICLS is IEEE
or BIN8; the RANK is the largest of the used inputs (R31 to R33, R35, R46, R76, R80, R182, R183). -/
def Claims.SlotReads : Prop :=
  (∀ (x : Elem) (stored : Bool) (sl i j : Nat), i < 3 → (Claims.Const x i ∧ j = 0 ∨ ¬ Claims.Const x i ∧ j = i) →
    let b := x.inBurst j
    let raw := if j = i then slotBits (x.tok i).data (32 / x.pack) sl else (x.k (i - 1)).toNat % 2 ^ (32 / x.pack)
    let poisoned := b.bad = true ∨ readsPoison b.fmt b.scale = true
      ∨ (b.fmt ≠ 0#8 ∧ (inClass x.icls b.fmt = false ∨ 32 / x.pack < fmtBits b.fmt))
    (j = i → (x.tok i).valid.getLsbD (sl / x.pack) = false → x.arg stored sl i = none)
    ∧ ((j = i → (x.tok i).valid.getLsbD (sl / x.pack) = true) → (x.tok j).lost = false →
      (poisoned → x.arg stored sl i = some (.poison, flPois))
      ∧ (¬ poisoned → x.arg stored sl i = some (decodeVal b.fmt b.scale stored raw))))
  ∧ ∀ x : Elem,
    (x.intPath = true ↔ (1 ≤ x.tfmt.toNat ∧ x.tfmt.toNat ≤ 4) ∧ ∀ i, i < 3 → x.insMask.testBit i = true →
      let f := fmtOf (x.argDesc i)
      (1 ≤ f.toNat ∧ f.toNat ≤ 4) ∨ (f = 0#8 ∧ x.icls < 3))
    ∧ (∀ i, i < 3 → x.insMask.testBit i = true → (x.tok i).rank.toNat ≤ x.rankIn.toNat)
    ∧ (x.rankIn = 0 ∨ ∃ i, i < 3 ∧ x.insMask.testBit i = true ∧ (x.tok i).rank = x.rankIn)

/-- An operation of one, two or three operands gives nothing where an operand has nothing, POISON where one is POISON, and else
the value of its function; every flag of the operands sets (R33, R182). -/
def Claims.Operands : Prop :=
  ∀ (A : Args) (f1 : Sys2Proof.Num → Sys2Proof.Num × BitVec 8) (f2 : Sys2Proof.Num → Sys2Proof.Num → Sys2Proof.Num × BitVec 8) (f3 : Sys2Proof.Num → Sys2Proof.Num → Sys2Proof.Num → Sys2Proof.Num × BitVec 8)
    (v0 v1 v2 : Val) (g0 g1 g2 : BitVec 8),
    (A 0 = none → op1 f1 A = none) ∧ ((A 0 = none ∨ A 1 = none) → op2 f2 A = none)
    ∧ ((A 0 = none ∨ A 1 = none ∨ A 2 = none) → op3 f3 A = none)
    ∧ (A 0 = some (v0, g0) →
      (v0 = .poison → op1 f1 A = some (.poison, g0))
      ∧ (∀ a, v0 = .num a → op1 f1 A = some (.num (f1 a).1, g0 ||| (f1 a).2))
      ∧ (A 1 = some (v1, g1) →
        (v0 = .poison ∨ v1 = .poison → op2 f2 A = some (.poison, g0 ||| g1))
        ∧ (∀ a b, v0 = .num a → v1 = .num b → op2 f2 A = some (.num (f2 a b).1, g0 ||| g1 ||| (f2 a b).2))
        ∧ (A 2 = some (v2, g2) →
          (v0 = .poison ∨ v1 = .poison ∨ v2 = .poison → op3 f3 A = some (.poison, g0 ||| g1 ||| g2))
          ∧ (∀ a b c, v0 = .num a → v1 = .num b → v2 = .num c →
            op3 f3 A = some (.num (f3 a b c).1, g0 ||| g1 ||| g2 ||| (f3 a b c).2)))))

/-- The token of a lane computation whose slots hold `val`, each coded by `conv`: a lane is valid where every slot of it has a
result, an invalid lane is zero, a poisoned slot poisons its lane and sends the token in a POISON burst of its own, and every
flag of a valid lane's slots sets (R34, R182). -/
def Claims.LaneOut (x : Elem) (d : Desc) (rank : BitVec 3) (val : Nat → Option (Val × BitVec 8)) (conv : Sys2Proof.Num → Nat × BitVec 8)
    (o : OutTok) (fl : BitVec 8) : Prop :=
  let at_ (l j : Nat) := val (l * x.pack + j)
  let ok (l : Nat) : Prop := ∀ j, j < x.pack → at_ l j ≠ none
  let bad (l : Nat) : Prop := ∃ j g, j < x.pack ∧ at_ l j = some (.poison, g)
  o.rank = rank ∧ o.desc = some d ∧ o.blen = x.burst ∧ o.before = []
  ∧ (∀ l, l < 16 → (o.valid.getLsbD l = true ↔ ok l) ∧ (o.bad.getLsbD l = true ↔ ok l ∧ bad l) ∧ (¬ ok l → lane o.data l = 0))
  ∧ (o.pois = true ↔ ∃ l, l < 16 ∧ ok l ∧ bad l)
  ∧ (∀ l j v g, l < 16 → j < x.pack → ok l → ¬ bad l → at_ l j = some (.num v, g) →
      slotBits o.data (32 / x.pack) (l * x.pack + j) = (conv v).1 % 2 ^ (32 / x.pack))
  ∧ ∀ b, b < 8 → (fl.getLsbD b = true ↔ ∃ l j v g, l < 16 ∧ j < x.pack ∧ ok l ∧ at_ l j = some (v, g)
      ∧ (g.getLsbD b = true ∨ ∃ n, v = .num n ∧ (conv n).2.getLsbD b = true))

/-- The firing emits one token, whose slots hold `g` of the operands, converted to TFMT at scale `sc`. -/
def Claims.Computes (x : Elem) (stored : Bool) (g : Args → Option (Val × BitVec 8)) (sc rm ovr : Nat) (fl : BitVec 8) (f : Fire) : Prop :=
  f.out1 = [] ∧ f.tiles = [] ∧ ∃ o, f.out0 = [o]
    ∧ Claims.LaneOut x (mkDesc (BitVec.ofNat 8 sc) x.tfmt) x.rankIn (fun sl => g (x.arg stored sl)) (fun v => convert v x.tfmt sc rm ovr) o fl

/-- SEL takes in1 where in0 is true, in2 where it is ±0 or a NaN; a POISON in0 poisons, and the operand not taken counts for
nothing (R188). -/
def Claims.select (A : Args) : Option (Val × BitVec 8) :=
  match A 0 with
  | none => none
  | some (.poison, g) => some (.poison, g)
  | some (.num c, g) => (A (if c.isZero || c.isNan then 2 else 1)).map fun v => (v.1, (g ||| (if c.isSnan then flInv else 0)) ||| v.2)

/-- What each lane operation computes in a slot (R184, R186, R188, R192, R193). -/
def Claims.laneRows (x : Elem) (p e : Nat) : List (Instr × Nat × (Args → Option (Val × BitVec 8))) :=
  [(.elemAdd p e, 0x01, op2 (Sys2Proof.Num.add x.rm)), (.elemSub p e, 0x02, op2 fun a b => a.add x.rm b.neg), (.elemMul p e, 0x03, op2 Sys2Proof.Num.mul),
   (.fma p e, 0x04, op3 fun a b c => (((a.mul b).1.add x.rm c).1, (a.mul b).2 ||| ((a.mul b).1.add x.rm c).2)),
   (.elemAbs p e, 0x06, op1 fun a => (a.abs, 0)), (.neg p e, 0x07, op1 fun a => (a.neg, 0)),
   (.elemMin p e, 0x08, op2 (pickV false false)), (.elemMax p e, 0x09, op2 (pickV true false)),
   (.minp p e, 0x0A, op2 (pickV false true)), (.maxp p e, 0x0B, op2 (pickV true true)), (.elemSel p e, 0x14, Claims.select),
   (.clmp p e, 0x22, op3 fun a lo hi =>
     ((pickV false true (pickV true true a lo).1 hi).1, (pickV true true a lo).2 ||| (pickV false true (pickV true true a lo).1 hi).2))] ++
  [(.rcp p e, 0x40, op1 (special 0x40)), (.rsq p e, 0x41, op1 (special 0x41)), (.sqrt p e, 0x42, op1 (special 0x42)),
   (.exp2 p e, 0x43, op1 (special 0x43)), (.log2 p e, 0x44, op1 (special 0x44)), (.tanh p e, 0x45, op1 (special 0x45))]

/-- Arithmetic, choice and the special functions: every used input gives a token, and the result is that of the exact operation,
converted to TFMT once, at unit scale on the integer path and TSCALE otherwise. The compares give 1 or 0 at unit scale, false with
a NaN but for CNE, and INV for a signalling one (R41, R42, R183 to R188, R192, R193). -/
def Claims.LaneOps : Prop :=
  ∀ (s : State) (p e opc : Nat) (i : Instr), e < 64 → s.elemLive p e opc = true → (s.elem p e).ready = true →
    let x := s.elem p e
    let whole (f : Fire) : Prop := f.eats = x.insMask % 8 ∧ f.x = x
    (∀ g, (i, opc, g) ∈ Claims.laneRows x p e → Claims.Fires i s p e fun f =>
      whole f ∧ Claims.Computes x x.intPath g (if x.intPath then 127 else x.tscale) x.rm x.ovr f.fl f)
    ∧ ∀ test : Sys2Proof.Num → Sys2Proof.Num → Bool, (i, opc, test) ∈ [(Instr.ceq p e, 0x10, Sys2Proof.Num.eqv), (.cne p e, 0x11, fun a b => !a.eqv b),
        (.clt p e, 0x12, Sys2Proof.Num.lt), (.cle p e, 0x13, fun a b => a.lt b || a.eqv b)] → Claims.Fires i s p e fun f =>
      whole f ∧ Claims.Computes x x.intPath
        (op2 fun a b => (Sys2Proof.Num.ofInt (if test a b then 1 else 0), if a.isSnan || b.isSnan then flInv else 0)) 127 0 0 f.fl f

/-- RSHR and REQ work on stored integers. RSHR gives a / 2^b with b's low six bits, rounded by its conversion. REQ rounds
a·m / 2^(31+n) in one of the six modes, INX where that is inexact, and adds its zero point; a constant m or n is read whole (R190, R191). -/
def Claims.FixedPoint : Prop :=
  ∀ (s : State) (p e : Nat), e < 64 → (s.elem p e).ready = true →
    let x := s.elem p e
    let int (g : Bool) (n : Nat) : Int := if g then -(n : Int) else n
    let whole (f : Fire) : Prop := f.eats = x.insMask % 8 ∧ f.x = x
    (s.elemLive p e 0x20 = true → ∃ q : Sys2Proof.Num → Sys2Proof.Num → Sys2Proof.Num × BitVec 8,
      (∀ a b g h (n m : Nat), Claims.Is a g (n : Rat) → Claims.Is b h (m : Rat) →
        ∃ r, q a b = (r, 0) ∧ Claims.Is r g ((n : Rat) / (2 : Rat) ^ (int h m % 64).toNat))
      ∧ Claims.Fires (.rshr p e) s p e fun f => whole f ∧ Claims.Computes x true (op2 q) 127 x.rm 0 f.fl f)
    ∧ (s.elemLive p e 0x21 = true → ∃ q : Sys2Proof.Num → Sys2Proof.Num → Sys2Proof.Num → Sys2Proof.Num × BitVec 8,
      (∀ a b c g h k (n m j : Nat), x.rm < 6 → Claims.Is a g (n : Rat) → Claims.Is b h (m : Rat) → Claims.Is c k (j : Rat) →
        let prod : Int := int g n * int h m
        let v : Rat := (prod.natAbs : Rat) / (2 : Rat) ^ (31 + (int k j % 64).toNat)
        ∃ z, Claims.RoundsTo (fun n => (n : Rat)) x.rm (decide (prod < 0)) v z
          ∧ ∃ r, q a b c = (r, if (z : Rat) = v then 0 else flInx)
            ∧ Claims.Real r (((if prod < 0 then -(z : Int) else z) + (BitVec.ofNat 12 (x.p 0)).toInt : Int) : Rat))
      ∧ Claims.Fires (.req p e) s p e fun f => whole f ∧ f.out1 = [] ∧ f.tiles = [] ∧ ∃ (o : OutTok) (A : Nat → Args), f.out0 = [o]
          ∧ (∀ sl j, (x.isConst j = false → A sl j = x.arg true sl j)
            ∧ (x.isConst j = true → A sl j = some (.num (Sys2Proof.Num.ofInt (if j = 1 then (x.k 0).toInt else ((x.k 1).toNat % 64 : Nat))), 0)))
          ∧ Claims.LaneOut x (mkDesc 0x7F#8 x.tfmt) x.rankIn (fun sl => op3 q (A sl)) (fun v => convert v x.tfmt 127 x.rm 0) o f.fl)

/-- The ctl token of CVT, DQ and BQ with SIDE set, at an in0 burst boundary: it is sound where lane 0 is valid and names a
rounding mode and an overflow rule (R196). -/
def Claims.sideOk (t : Token) : Prop :=
  let v := (lane t.data 0).toNat
  t.valid.getLsbD 0 = true ∧ t.lost = false ∧ v < 32 ∧ v % 8 < 6 ∧ v / 8 ≠ 3

/-- A ctl token is taken now. -/
def Claims.SideNow (x : Elem) : Prop := x.side = true ∧ (x.inBurst 0).left = (x.inBurst 0).blen + 1

/-- The element `y` that a firing with a side port works in, and the inputs that it consumes: with the mode and rule of a ctl token
where one is taken (R196). -/
def Claims.SideTaken (x y : Elem) (eats : Nat) : Prop :=
  ((¬ Claims.SideNow x ∨ x.data 3 = none) ∧ y = x ∧ eats = 1)
  ∨ (Claims.SideNow x ∧ ∃ t, x.data 3 = some t ∧ Claims.sideOk t ∧ eats = 9 ∧ y = { x with modeSw := y.modeSw }
      ∧ y.rm = (lane t.data 0).toNat % 8 ∧ y.ovr = (lane t.data 0).toNat / 8)

/-- amax after a firing: the largest of the old one and of the magnitudes of in0's values, rounded up to FP32, NaN and POISON
ignored, NANS where a NaN was (R50). -/
def Claims.Amax (x : Elem) (m : BitVec 32) (fl : BitVec 8) : Prop :=
  let mag (n : Sys2Proof.Num) : Nat := (convert n.abs 0x07#8 127 3 2).1
  let holds (n : Sys2Proof.Num) : Prop := ∃ sl g, sl < 16 * x.pack ∧ x.arg false sl 0 = some (.num n, g)
  (x.amaxOn = false → m = x.amax ∧ fl = 0)
  ∧ (x.amaxOn = true → x.amax.toNat ≤ m.toNat ∧ (∀ n, holds n → n.isNan = false → mag n ≤ m.toNat)
    ∧ (m = x.amax ∨ ∃ n, holds n ∧ n.isNan = false ∧ mag n = m.toNat)
    ∧ ((∃ n, holds n ∧ n.isNan = true) → fl = flNans) ∧ ((∀ n, holds n → n.isNan = false) → fl = 0))

/-- CVT converts; DQ first subtracts the zero point from an integer and, with P1[0], multiplies by K0, a NaN of which makes
every result NaN and sets INV; both take the ctl token and keep amax; a ctl token that is not sound fails the truss (R50, R195 to
R197). -/
def Claims.Conversions : Prop :=
  ∀ (s : State) (p e opc : Nat) (i : Instr), e < 64 → s.elemLive p e opc = true → (s.elem p e).ready = true →
    let x := s.elem p e
    let scaled := (x.p 1).testBit 0 = true
    (i, opc) ∈ [(Instr.cvt p e, 0x48), (.dq p e, 0x4A)] →
      (Claims.SideNow x → ∀ t, x.data 3 = some t → ¬ Claims.sideOk t →
        exec i s = .next ((s.setElem p e { x with faulted := true }).failPage p 0x03 e))
      ∧ ((Claims.SideNow x → ∀ t, x.data 3 = some t → Claims.sideOk t) → ∃ y eats, Claims.SideTaken x y eats ∧ ∃ q : Sys2Proof.Num → Sys2Proof.Num × BitVec 8,
        (opc = 0x48 → ∀ a, q a = (a, 0))
        ∧ (opc = 0x4A → ∀ a v,
          let z : Int := if fmtInt (fmtOf (x.argDesc 0)) then (BitVec.ofNat 12 (x.p 0)).toInt else 0
          (Claims.Real a v → ¬ scaled → ∃ r, q a = (r, 0) ∧ Claims.Real r (v - (z : Rat)))
          ∧ (∀ k, Claims.Real a v → scaled → Claims.Real (ofFp32 (x.k 0)) k → ∃ r, q a = (r, 0) ∧ Claims.Real r ((v - (z : Rat)) * k))
          ∧ (a.isNan = true ∨ (scaled ∧ (ofFp32 (x.k 0)).isNan = true) → (q a).1.isNan = true ∧ (q a).1.isSnan = a.isSnan))
        ∧ Claims.Fires i s p e fun f => ∃ m mfl fl, f.eats = eats ∧ f.x = { y with amax := m } ∧ Claims.Amax y m mfl
          ∧ f.fl = fl ||| mfl ||| (if opc = 0x4A ∧ scaled ∧ (ofFp32 (x.k 0)).isNan = true then flInv else 0)
          ∧ Claims.Computes y y.intPath (op1 q) (if y.intPath then 127 else y.tscale) y.rm y.ovr fl f)

/-- The lane operations and conversions (R34, R35, R41, R42, R46, R50, R76, R80, R182 to R184, R186 to R188, R190 to R193, R195 to
R197). -/
def Obligations.LaneValues : Prop :=
  Claims.Rendering ∧ Claims.SlotReads ∧ Claims.Operands ∧ Claims.LaneOps ∧ Claims.FixedPoint ∧ Claims.Conversions

/-! ## Accumulation, reduction and block quantisation (R53, R54, R185, R198 to R204) -/

/-- An accumulator of a slot. -/
def Claims.accAt (x : Elem) (sl : Nat) : Acc := (x.acc[sl]?).getD ⟨0, false, false⟩

/-- What an accumulator gives: POISON once it has taken in POISON, else its INT32 or FP32 value. -/
def Claims.accVal (a : Acc) (int : Bool) : Val :=
  if a.poison then .poison else .num (if int then Sys2Proof.Num.ofInt a.bits.toInt else ofFp32 a.bits)

/-- MAC adds a·b and ACC a into the accumulator of each slot whose lanes are valid, INT32 for ICLS INT and UINT and FP32
otherwise; where the largest RANK is q or more the accumulators are converted and emitted with RANK less q, a lane valid where its
slots have taken in a value, and cleared; else nothing is emitted (R54, R185, R204). -/
def Claims.Accumulates : Prop :=
  ∀ (s : State) (p e opc : Nat) (i : Instr) (g : Args → Option (Val × BitVec 8)), e < 64 → s.elemLive p e opc = true →
    (s.elem p e).ready = true → (i, opc, g) ∈ [(Instr.mac p e, 0x05, op2 Sys2Proof.Num.mul), (.acc p e, 0x53, op1 fun a => (a, 0))] →
      let x := s.elem p e
      let int := decide (x.icls = 1) || decide (x.icls = 2)
      let step (sl : Nat) : Acc × BitVec 8 := match g (x.arg int sl) with
        | some v => (Claims.accAt x sl).add int v.1 v.2
        | none => (Claims.accAt x sl, 0)
      let sc := if int && fmtInt x.tfmt then 127 else x.tscale
      Claims.Fires i s p e fun f => f.eats = x.insMask % 8 ∧ f.out1 = [] ∧ f.tiles = [] ∧ ∃ afl,
        Claims.Ors (16 * x.pack) (fun sl => (step sl).2) afl
        ∧ (x.rankIn.toNat < x.emit → f.out0 = [] ∧ f.fl = afl ∧ ∃ acc, f.x = { x with acc := acc } ∧ acc.length = 16 * x.pack
          ∧ ∀ sl, sl < 16 * x.pack → acc[sl]? = some (step sl).1)
        ∧ (x.emit ≤ x.rankIn.toNat → f.x = { x with acc := [] } ∧ ∃ o fl, f.out0 = [o] ∧ f.fl = afl ||| fl
          ∧ Claims.LaneOut x (mkDesc (BitVec.ofNat 8 sc) x.tfmt) (x.rankIn - BitVec.ofNat 3 x.emit)
              (fun sl => if (step sl).1.seen then some (Claims.accVal (step sl).1 int, 0) else none)
              (fun v => convert v x.tfmt sc x.rm x.ovr) o fl)

/-- Node `i` of level `n` of the pairwise tree over leaves: it combines nodes 2i and 2i + 1 of the level below, and one valid
child passes unchanged (R53). -/
def Claims.node (f : Val → Val → Val × BitVec 8) (leaf : Nat → Option Val) : Nat → Nat → Option Val × BitVec 8
  | 0, i => (leaf i, 0)
  | n + 1, i =>
    let a := Claims.node f leaf n (2 * i)
    let b := Claims.node f leaf n (2 * i + 1)
    match a.1, b.1 with
    | some u, some v => ((f u v).1, (f u v).2 ||| a.2 ||| b.2)
    | some u, none => (u, a.2 ||| b.2)
    | none, v => (v, a.2 ||| b.2)

/-- How RSUM's tree combines two nodes: FP32 by one rounding, INT32 modulo 2^32 with OVF (R53). -/
def Claims.TreeSums : Prop :=
  (∀ (f : Val → Val → Val × BitVec 8) (v : Val), f ∈ [sumFp, sumInt] → f .poison v = (.poison, 0) ∧ f v .poison = (.poison, 0))
  ∧ (∀ (x y : Sys2Proof.Num) (u v : Rat), Claims.Real x u → Claims.Real y v → ∃ z, Claims.Real z (u + v)
      ∧ sumFp (.num x) (.num y) = (.num (ofFp32 (BitVec.ofNat 32 (convert z 0x07#8 127 0 2).1)), (convert z 0x07#8 127 0 2).2))
  ∧ ∀ (x y : Sys2Proof.Num) (u v : Int), Claims.Real x (u : Rat) → Claims.Real y (v : Rat) →
      sumInt (.num x) (.num y) = (.num (Sys2Proof.Num.ofInt (BitVec.ofInt 32 (u + v)).toInt), if -2 ^ 31 ≤ u + v ∧ u + v < 2 ^ 31 then 0 else flOvf)

/-- RSUM, RMAX and RMIN reduce a token by the tree and take its root in: RSUM into an accumulator, the others exactly, by the
MAX or MIN of R49. At RANK q or more the result stands in slot 0 of the one token emitted, valid where some root was (R53, R54,
R203). -/
def Claims.Reduces : Prop :=
  ∀ (s : State) (p e opc n : Nat) (i : Instr), e < 64 → s.elemLive p e opc = true → (s.elem p e).ready = true →
    (i, opc) ∈ [(Instr.rsum p e, 0x50), (.rmax p e, 0x51), (.rmin p e, 0x52)] → 2 ^ n = 16 * (s.elem p e).pack →
      let x := s.elem p e
      let int := decide (x.icls = 1) || decide (x.icls = 2)
      let leaf (sl : Nat) := x.arg (if opc = 0x50 then int else x.intPath) sl 0
      let comb : Val → Val → Val × BitVec 8 :=
        if opc = 0x50 then (if int then sumInt else sumFp) else Val.map2 (pickV (decide (opc = 0x51)) false)
      let root := Claims.node comb (fun sl => (leaf sl).map Prod.fst) n 0
      let a := Claims.accAt x 0
      let old := (x.run.head?).join
      let took : Acc := { a with seen := true }
      -- The accumulator, the exact running result and the flags after the root.
      let r : Acc × Option Sys2Proof.Num × BitVec 8 := match root.1 with
        | none => (a, old, 0)
        | some .poison => ({ took with poison := true }, old, 0)
        | some (.num y) =>
          if opc = 0x50 then ((a.add int (.num y) 0).1, none, (a.add int (.num y) 0).2)
          else match old with
            | none => (took, some y, 0)
            | some z => (took, some (pickV (decide (opc = 0x51)) false z y).1, (pickV (decide (opc = 0x51)) false z y).2)
      let sc := if (if opc = 0x50 then int && fmtInt x.tfmt else x.intPath) then 127 else x.tscale
      Claims.Fires i s p e fun f => f.eats = x.insMask % 8 ∧ f.out1 = [] ∧ f.tiles = [] ∧ ∃ lfl,
        Claims.Ors (16 * x.pack) (fun sl => ((leaf sl).map Prod.snd).getD 0) lfl
        ∧ (x.rankIn.toNat < x.emit → f.out0 = [] ∧ f.x = { x with acc := [r.1], run := [r.2.1] } ∧ f.fl = lfl ||| root.2 ||| r.2.2)
        ∧ (x.emit ≤ x.rankIn.toNat → f.x = { x with acc := [], run := [] } ∧ ∃ o z, f.out0 = [o]
          ∧ (r.1.poison = false → r.1.seen = true → z = convert (if opc = 0x50 then (if int then Sys2Proof.Num.ofInt r.1.bits.toInt else ofFp32 r.1.bits)
              else r.2.1.getD .zero) x.tfmt sc x.rm x.ovr)
          ∧ (r.1.poison = true ∨ r.1.seen = false → z = (0, 0))
          ∧ f.fl = lfl ||| root.2 ||| r.2.2 ||| z.2
          ∧ o.data = BitVec.ofNat 512 (z.1 % 2 ^ (32 / x.pack)) ∧ o.valid = (if r.1.seen then 1 else 0)
          ∧ o.rank = x.rankIn - BitVec.ofNat 3 x.emit ∧ o.desc = some (mkDesc (BitVec.ofNat 8 sc) x.tfmt) ∧ o.blen = x.burst
          ∧ o.pois = r.1.poison ∧ o.bad = (if r.1.poison then 1 else 0) ∧ o.before = [])

/-- The value of a slot of a token that BQ holds, under the descriptor it was taken with; `none` in an invalid lane. -/
def Claims.heldVal (x : Elem) (t : Token) (d : Desc) (sl : Nat) : Option Val :=
  if t.valid.getLsbD (sl / x.pack) then some (decodeVal (fmtOf d) (scaleOf d) false (slotBits t.data (32 / x.pack) sl)).1 else none

/-- The scale of a burst of values: 0xFF where all are NaN, TSCALE where none is finite and not 0, else the one that lands the
largest finite magnitude in TFMT's top binade (R199). -/
def Claims.BlockScale (x : Elem) (holds : Val → Prop) (S : Nat) : Prop :=
  let all_nan := (∃ v, holds v) ∧ ∀ v, holds v → ∃ sig, v = .num (.nan sig)
  (all_nan → S = 255)
  ∧ (¬ all_nan → (∀ n g m, holds (.num n) → Claims.Is n g m → m = 0) → S = x.tscale)
  ∧ ∀ n g m, holds (.num n) → Claims.Is n g m → m ≠ 0 → (∀ k h w, holds (.num k) → Claims.Is k h w → w ≤ m) →
      ∀ (a E : Int), (2 : Rat) ^ a ≤ m → m < (2 : Rat) ^ (a + 1) →
        (∃ f p bias w signed inf top nan, (f, p, bias, w, signed, inf, top, nan) ∈ Claims.floats ∧ x.tfmt = BitVec.ofNat 8 f
          ∧ (2 : Rat) ^ E ≤ Claims.magnitude p bias top ∧ Claims.magnitude p bias top < (2 : Rat) ^ (E + 1)) →
          S = (max 0 (min 254 (127 + a - E))).toNat

/-- BQ takes tokens in until its burst is full or a RANK of q or more closes it; it then emits the SCALE token of the burst and
each token with its own RANK and valid lanes, its values converted at the scale chosen, codes of 0 where all are NaN, and the whole
burst as POISON where a value is. Its flags set as it takes a value in and as it converts (R50, R196, R198, R199). -/
def Claims.Quantises : Prop :=
  ∀ (s : State) (p e : Nat), e < 64 → s.elemLive p e 0x49 = true → (s.elem p e).ready = true →
    let x := s.elem p e
    x.held.length = x.words.length →
      (Claims.SideNow x → ∀ t, x.data 3 = some t → ¬ Claims.sideOk t →
        exec (.bq p e) s = .next ((s.setElem p e { x with faulted := true }).failPage p 0x03 e))
      ∧ ((Claims.SideNow x → ∀ t, x.data 3 = some t → Claims.sideOk t) → ∃ y eats, Claims.SideTaken x y eats ∧
        let t := x.tok 0
        let d := x.inDesc 0 (32 / x.pack) t
        let held := x.held ++ [t]
        let words := x.words ++ [d.zeroExtend 64]
        let desc (j : Nat) : Desc := ((words[j]?).getD 0).truncate 16
        let val (j sl : Nat) : Option Val := match held[j]? with
          | some k => if sl < 16 * x.pack then Claims.heldVal x k (desc j) sl else none
          | none => none
        let holds (v : Val) : Prop := ∃ j sl, val j sl = some v
        let quiet (n : Sys2Proof.Num) : Sys2Proof.Num := if n.isNan then .nan false else n
        let n := held.length
        let some_number := ∃ v, holds v ∧ ∀ sig, v ≠ .num (.nan sig)
        Claims.Fires (.bq p e) s p e fun f => ∃ m mfl tfl, f.eats = eats ∧ f.out1 = [] ∧ f.tiles = [] ∧ Claims.Amax y m mfl
          ∧ Claims.Ors (16 * x.pack) (fun sl => match x.arg false sl 0 with
              | some (.num v, g) => g ||| (if v.isSnan then flInv else 0)
              | some (.poison, g) => g
              | none => 0) tfl
          ∧ (n ≤ x.burst ∧ (x.emit = 0 ∨ t.rank.toNat < x.emit) →
            f.out0 = [] ∧ f.fl = mfl ||| tfl ∧ f.x = { y with held := held, words := words, amax := m })
          ∧ (x.burst < n ∨ (x.emit ≠ 0 ∧ x.emit ≤ t.rank.toNat) → f.x = { y with held := [], words := [], amax := m }
            ∧ ∃ S cfl, f.fl = mfl ||| tfl ||| cfl ∧ f.out0.length = n
              ∧ (¬ holds .poison → Claims.BlockScale x holds S)
              ∧ ∀ j k, held[j]? = some k → ∃ o, f.out0[j]? = some o ∧ o.valid = k.valid ∧ o.rank = k.rank ∧ o.blen = n - 1 ∧ o.pois = false
                ∧ (holds .poison → cfl = 0 ∧ o.desc = some descPoison ∧ o.bad = k.valid
                    ∧ o.before = (if j = 0 then [scaleToken 0x0E#8 0x7F#8 (n - 1)] else []))
                ∧ (¬ holds .poison → o.desc = some (mkDesc (BitVec.ofNat 8 S) x.tfmt) ∧ o.bad = 0
                    ∧ o.before = (if j = 0 then [scaleToken x.tfmt (BitVec.ofNat 8 S) (n - 1)] else [])
                    ∧ (¬ some_number → cfl = 0)
                    ∧ (some_number → ∀ b, b < 8 → (cfl.getLsbD b = true ↔
                        ∃ w, holds (.num w) ∧ (convert (quiet w) x.tfmt S y.rm y.ovr).2.getLsbD b = true))
                    ∧ ∀ sl, sl < 16 * x.pack → (val j sl = none → slotBits o.data (32 / x.pack) sl = 0)
                      ∧ ∀ w, val j sl = some (.num w) →
                        (some_number → slotBits o.data (32 / x.pack) sl = (convert (quiet w) x.tfmt S y.rm y.ovr).1 % 2 ^ (32 / x.pack))
                        ∧ (¬ some_number → slotBits o.data (32 / x.pack) sl = 0))))

/-- Accumulation, reduction and block quantisation (R50, R53, R54, R185, R198, R199, R203, R204). -/
def Obligations.AccumulationValues : Prop := Claims.Accumulates ∧ Claims.TreeSums ∧ Claims.Reduces ∧ Claims.Quantises

/-! ## Movement, filters and the plate (R201, R202, R206 to R209, R221 to R231) -/

/-- in0's burst is refused by a mover: not POISON in its own right, but of a format outside the class, or too wide (R35, R76). -/
def Claims.refused (x : Elem) (width : Nat) : Bool :=
  let b := x.inBurst 0
  !b.bad && !readsPoison b.fmt b.scale && decide (b.fmt ≠ 0#8) && (!inClass x.icls b.fmt || decide (width < fmtBits b.fmt))

/-- A token moved, its bits not decoded: where a lane `ok` it is valid and its slots are `slot`. It stays in the burst that is
forwarded, or, `bad`, goes alone in a POISON burst (R35, R76, R182). -/
def Claims.MovesOut (w : Nat) (bad : Bool) (rank : BitVec 3) (ok : Nat → Bool) (slot : Nat → Nat) (o : OutTok) : Prop :=
  o.desc = none ∧ o.before = [] ∧ o.rank = rank ∧ o.pois = bad ∧ o.bad = (if bad then o.valid else 0)
  ∧ (∀ l, l < 16 → o.valid.getLsbD l = ok l)
  ∧ ∀ sl, sl < 512 / w → ok (sl * w / 32) = true → slotBits o.data w sl = slot sl

/-- Flags of a token taken whole: POIS for one read as POISON, DISC for VOID, none where no lane is valid (R31, R33, R44, R182). -/
def Claims.Taken (x : Elem) (i w : Nat) (fl : BitVec 8) : Prop :=
  let t := x.tok i
  let d := x.inDesc i w t
  (t.valid = 0 → fl = 0) ∧ (t.valid ≠ 0 → (fmtOf d = 0x0E#8 → fl = flPois) ∧ (fmtOf d = 0#8 → fl = flDisc)
    ∧ (fmtOf d ≠ 0x0E#8 → fmtOf d ≠ 0#8 → fl = 0))

/-- PASS, BCST and PERM: the token, slot P0 in every slot, or whole lanes permuted by K0 and K1, on out0 and, where OUTS
names it, on out1; no flag sets (R35, R206 to R208). -/
def Claims.Movers : Prop :=
  ∀ (s : State) (p e opc : Nat) (i : Instr) (ok : Nat → Bool) (slot : Nat → Nat), e < 64 → s.elemLive p e opc = true →
    (s.elem p e).ready = true →
      let x := s.elem p e
      let w := 32 / x.pack
      let t := x.tok 0
      let src := x.p 0 % 64
      let perm (l : Nat) : Nat := if l < 8 then (x.k 0).toNat / 16 ^ l % 16 else (x.k 1).toNat / 16 ^ (l - 8) % 16
      (i, opc, ok, slot) ∈ [(Instr.pass p e, 0x30, fun l => t.valid.getLsbD l, fun sl => slotBits t.data w sl),
          (.bcst p e, 0x31, fun _ => t.valid.getLsbD (src / x.pack), fun _ => slotBits t.data w src),
          (.perm p e, 0x32, fun l => t.valid.getLsbD (perm l), fun sl => slotBits t.data w (perm (sl / x.pack) * x.pack + sl % x.pack))] →
        Claims.Fires i s p e fun f => f.eats = 1 ∧ f.x = x ∧ f.fl = 0 ∧ f.tiles = [] ∧ ∃ o, f.out0 = [o]
          ∧ f.out1 = (if x.outs.testBit 1 then [o] else []) ∧ Claims.MovesOut w (Claims.refused x w || t.lost) t.rank ok slot o

/-- PACK gathers tokens of 16 values into one of 16p, closing at p tokens or at a RANK; UNPK gives one token out in p firings,
the last of which consumes it and carries its RANK (R201, R202). -/
def Claims.Packing : Prop :=
  ∀ (s : State) (p e : Nat), e < 64 → (s.elem p e).ready = true →
    let x := s.elem p e
    let n := x.pack
    let w := 32 / n
    let t := x.tok 0
    (s.elemLive p e 0x4B = true →
      let held := x.held ++ [t]
      let src (sl : Nat) : Token := (held[sl / 16]?).getD (dataToken 0 0 0)
      let wide := Claims.refused x (16 / n)
      let bad := wide || held.any Token.lost
      Claims.Fires (.pack p e) s p e fun f => f.eats = 1 ∧ f.tiles = [] ∧ f.out1 = []
        ∧ (wide = false → t.lost = false → Claims.Taken x 0 32 f.fl) ∧ (wide = true → f.fl = if t.valid = 0 then 0 else flPois)
        ∧ (held.length < n → t.rank = 0 → f.out0 = [] ∧ f.x = { x with held := held })
        ∧ (n ≤ held.length ∨ t.rank ≠ 0 → f.x = { x with held := [] } ∧ ∃ o rank, f.out0 = [o]
          ∧ (∀ k ∈ held, k.rank.toNat ≤ rank.toNat) ∧ (∃ k ∈ held, k.rank = rank)
          ∧ Claims.MovesOut w bad rank (fun l => (List.range n).all fun j => (src (l * n + j)).valid.getLsbD ((l * n + j) % 16))
              (fun sl => (lane (src sl).data (sl % 16)).toNat % 2 ^ w) o))
    ∧ (s.elemLive p e 0x4C = true →
      let k := (x.cnt.head?).getD 0
      let last := decide (k + 1 = n)
      Claims.Fires (.unpk p e) s p e fun f => f.eats = (if last then 1 else 0) ∧ f.tiles = [] ∧ f.out1 = [] ∧ Claims.Taken x 0 w f.fl
        ∧ f.x = { x with cnt := if last then [] else [k + 1] } ∧ ∃ o, f.out0 = [o]
        ∧ Claims.MovesOut 32 (Claims.refused x w || t.lost) (if last then t.rank else 0) (fun l => t.valid.getLsbD ((16 * k + l) / n))
            (fun l => slotBits t.data w (16 * k + l)) o)

/-- FILT keeps the lanes that a token of predicates or K0 names, clears the others and, with DROP, drops an empty token of RANK 0;
a POISON predicate keeps every lane and sends the token in a POISON burst. A NaN predicate is false (that a signalling one sets no
flag is the model's choice, log 114). MRK adds an end of rank P1 every P0 tokens but markers; STRIP removes ends up to P0 and markers it empties (R221, R224, R225). -/
def Claims.Filters : Prop :=
  ∀ (s : State) (p e : Nat), e < 64 → (s.elem p e).ready = true →
    let x := s.elem p e
    let w := 32 / x.pack
    let t := x.tok 0
    let bad := Claims.refused x w || t.lost
    let raw (sl : Nat) : Nat := slotBits t.data w sl
    let sent (f : Fire) (drop : Bool) (rank : BitVec 3) (bad : Bool) (ok : Nat → Bool) : Prop :=
      (drop = true → f.out0 = []) ∧ (drop = false → ∃ o, f.out0 = [o] ∧ Claims.MovesOut w bad rank ok raw o)
    (s.elemLive p e 0x80 = true →
      let u := x.tok 1
      let d := x.inDesc 1 w u
      let byTok := decide (x.p 0 = 0)
      let poisoned := byTok && decide (fmtOf d = 0x0E#8)
      let keep (l : Nat) : Bool :=
        if poisoned then true
        else if byTok then u.valid.getLsbD l && (match (decodeVal (fmtOf d) (scaleOf d) false (slotBits u.data w (l * x.pack))).1 with
          | .num v => !v.isZero && !v.isNan
          | .poison => false)
        else (x.k 0).getLsbD l
      let ok (l : Nat) : Bool := t.valid.getLsbD l && keep l
      let none_ := (List.range 16).all fun l => !ok l
      Claims.Fires (.filt p e) s p e fun f => f.eats = x.insMask % 8 ∧ f.x = x ∧ f.tiles = [] ∧ f.out1 = []
        ∧ (∃ a b, Claims.Taken x 0 w a ∧ (byTok = true → Claims.Taken x 1 w b) ∧ (byTok = false → b = 0)
          ∧ f.fl = a ||| b ||| (if poisoned then flPois else 0))
        ∧ ((x.p 1).testBit 0 && none_ && decide (x.rankIn = 0) → f.out0 = [])
        ∧ (¬ ((x.p 1).testBit 0 && none_ && decide (x.rankIn = 0)) → ∃ o, f.out0 = [o] ∧ o.desc = none ∧ o.before = [] ∧ o.rank = x.rankIn
          ∧ o.pois = (bad || poisoned) ∧ (∀ l, l < 16 → o.valid.getLsbD l = ok l) ∧ o.bad = (if bad && !poisoned then o.valid else 0)
          ∧ ((bad && !poisoned) = false → ∀ l, l < 16 → (ok l = true ∨ poisoned = true → lane o.data l = lane t.data l)
              ∧ (ok l = false → poisoned = false → lane o.data l = 0))))
    ∧ (s.elemLive p e 0x89 = true →
      let m := x.p 1 % 8
      let c := (x.cnt.head?).getD 0 + if t.valid = 0 then 0 else 1
      let due := t.valid ≠ 0 ∧ x.p 0 ≤ c
      Claims.Fires (.mrk p e) s p e fun f => f.eats = 1 ∧ f.tiles = [] ∧ f.out1 = [] ∧ Claims.Taken x 0 w f.fl
        ∧ (due → f.x = { x with cnt := [0] }) ∧ (m ≤ t.rank.toNat → f.x = { x with cnt := [0] })
        ∧ (¬ due → t.rank.toNat < m → f.x = { x with cnt := [c] })
        ∧ (due → sent f false (if t.rank.toNat < m then BitVec.ofNat 3 m else t.rank) bad fun l => t.valid.getLsbD l)
        ∧ (¬ due → sent f false t.rank bad fun l => t.valid.getLsbD l))
    ∧ (s.elemLive p e 0x8A = true →
      let rank : BitVec 3 := if t.rank.toNat ≤ x.p 0 % 8 then 0 else t.rank
      Claims.Fires (.strip p e) s p e fun f => f.eats = 1 ∧ f.x = x ∧ f.tiles = [] ∧ f.out1 = [] ∧ Claims.Taken x 0 w f.fl
        ∧ sent f (decide (t.valid = 0) && decide (rank = 0)) rank bad fun l => t.valid.getLsbD l)

/-- CMPT appends the valid lanes of in0 to those held and emits every full token; at a RANK it emits what is left, puts it on the last full token, or emits a marker (R222). CNT gives the values of a bound, L to a token, the last of RANK one more; a bound of none a marker (R223). -/
def Claims.Counting : Prop :=
  ∀ (s : State) (p e : Nat), e < 64 →
    let x := s.elem p e
    let t := x.tok 0
    let ranks (l : List (BitVec 32)) : BitVec 16 := BitVec.ofNat 16 (2 ^ l.length - 1)
    let filled (o : OutTok) (l : List (BitVec 32)) : Prop := o.valid = ranks l ∧ ∀ k v, l[k]? = some v → lane o.data k = v
    (s.elemLive p e 0x81 = true → x.ready = true → ∀ h : List (BitVec 32), h.length < 16 →
      ((h = [] ∧ x.held = []) ∨ ∃ k, x.held = [k] ∧ k.valid = ranks h ∧ ∀ j v, h[j]? = some v → lane k.data j = v) →
        let all_ := h ++ ((List.range 16).filter fun l => t.valid.getLsbD l).map fun l => lane t.data l
        let n := all_.length / 16
        let rest := all_.drop (16 * n)
        let bad := Claims.refused x (32 / x.pack) || t.lost || decide ((x.cnt.head?).getD 0 = 1)
        let more := decide (t.rank ≠ 0) && (decide (rest ≠ []) || decide (n = 0))
        Claims.Fires (.cmpt p e) s p e fun f => f.eats = 1 ∧ f.tiles = [] ∧ f.out1 = [] ∧ Claims.Taken x 0 (32 / x.pack) f.fl
          ∧ f.out0.length = n + (if more then 1 else 0)
          ∧ (∀ (k : Nat) (o : OutTok), f.out0[k]? = some o → o.desc = none ∧ o.before = [] ∧ filled o ((all_.drop (16 * k)).take 16)
              ∧ o.rank = (if k + 1 = f.out0.length ∧ (more = true ∨ rest = []) then t.rank else 0)
              ∧ o.pois = (bad && decide (o.valid ≠ 0)) ∧ o.bad = (if bad then o.valid else 0))
          ∧ (t.rank = 0 ∧ rest ≠ [] → ∃ k, f.x = { x with held := [k], cnt := if bad then [1] else [] } ∧ k.valid = ranks rest
              ∧ ∀ j v, rest[j]? = some v → lane k.data j = v)
          ∧ (t.rank ≠ 0 ∨ rest = [] → f.x = { x with held := [], cnt := [] }))
    ∧ (s.elemLive p e 0x88 = true →
      let per := x.p 0 % 16 + 1
      let run (n : Nat) (a d : BitVec 32) (r : BitVec 3) (k : Nat) (f : Fire) : Prop :=
        f.out1 = [] ∧ f.tiles = [] ∧ f.fl = 0
        ∧ f.x = { x with words := if n ≤ (k + 1) * per then [] else
            [BitVec.ofNat 64 n, a.zeroExtend 64, d.zeroExtend 64, r.zeroExtend 64, BitVec.ofNat 64 (k + 1)] }
        ∧ ∃ o, f.out0 = [o] ∧ o.desc = some 0x7F04#16 ∧ o.blen = x.burst ∧ o.bad = 0 ∧ o.pois = false ∧ o.before = []
          ∧ o.rank = (if n ≤ (k + 1) * per then BitVec.ofNat 3 (min 7 (r.toNat + 1)) else 0)
          ∧ ∀ l, l < 16 → o.valid.getLsbD l = (decide (l < per) && decide (k * per + l < n))
            ∧ (l < per → k * per + l < n → lane o.data l = a + BitVec.ofNat 32 (k * per + l) * d)
      (∀ (n k : Nat) (a d : BitVec 32) (r : BitVec 3), n < 2 ^ 31 → k * per < n →
        x.words = [BitVec.ofNat 64 n, a.zeroExtend 64, d.zeroExtend 64, r.zeroExtend 64, BitVec.ofNat 64 k] →
          Claims.Fires (.cnt p e) s p e fun f => f.eats = 0 ∧ run n a d r k f)
      ∧ (x.words = [] → x.ready = true →
        let own := x.p 1 % 2 = 0
        let arg (l : Nat) (dflt : BitVec 32) : BitVec 32 :=
          if x.p 1 % 2 = 0 then (if t.valid.getLsbD l then lane t.data l else dflt) else x.k l
        let poisoned := own ∧ fmtOf (x.inDesc 0 32 t) = 0x0E#8
        let n := arg 0 0
        (¬ poisoned → 0 < n.toInt → Claims.Fires (.cnt p e) s p e fun f => f.eats = 1 ∧ run n.toNat (arg 1 0) (arg 2 1) t.rank 0 f)
        ∧ (poisoned ∨ n.toInt ≤ 0 → Claims.Fires (.cnt p e) s p e fun f => f.eats = 1 ∧ f.x = x ∧ f.out1 = [] ∧ f.tiles = []
          ∧ (poisoned → f.fl = flPois) ∧ (¬ poisoned → f.fl = if n.toInt < 0 then flSat else 0)
          ∧ ∃ o, f.out0 = [o] ∧ o.valid = 0 ∧ o.rank = BitVec.ofNat 3 (min 7 (t.rank.toNat + 1)) ∧ o.desc = some 0x7F04#16
            ∧ o.blen = x.burst ∧ o.before = [] ∧ (o.pois = true ↔ poisoned))))

/-- ZIP gives two tokens for a pair, slots of in0 and in1 in turn, POISON where formats or scales differ;
UNZP gives the even slots of a pair on out0 and the odd ones on out1; SLIDE gives windows over the token it holds and the next one,
or fill at the end of a row (R209, R226, R227). A slot from an invalid lane leaves its lane invalid. -/
def Claims.Interleaving : Prop :=
  ∀ (s : State) (p e : Nat), e < 64 →
    let x := s.elem p e
    let w := 32 / x.pack
    let n := 16 * x.pack
    let larger (a b : BitVec 3) : BitVec 3 := if a.toNat < b.toNat then b else a
    let lanes (src : Nat → Bool) (l : Nat) : Bool := (List.range x.pack).all fun j => src (l * x.pack + j)
    let good (t : Token) (sl : Nat) : Bool := t.valid.getLsbD (sl / x.pack)
    let zipped (a b : Token) (u : Nat) (rank : BitVec 3) (bad : Bool) (o : OutTok) : Prop :=
      let src (sl : Nat) : Token := if sl % 2 = 0 then a else b
      let pos (sl : Nat) : Nat := u * n / 2 + sl / 2
      let ok := lanes fun sl => good (src sl) (pos sl)
      (bad = false → Claims.MovesOut w false rank ok (fun sl => slotBits (src sl).data w (pos sl)) o)
      ∧ (bad = true → o.desc = some descPoison ∧ o.blen = 1 ∧ o.rank = rank ∧ o.bad = o.valid ∧ o.before = [] ∧ o.pois = false
          ∧ ∀ l, l < 16 → o.valid.getLsbD l = ok l)
    (s.elemLive p e 0x90 = true → (∀ a b, x.held = [a, b] → Claims.Fires (.zip p e) s p e fun f =>
        f.eats = 0 ∧ f.x = { x with held := [], cnt := [] } ∧ f.fl = 0 ∧ f.tiles = [] ∧ f.out1 = []
          ∧ ∃ o, f.out0 = [o] ∧ zipped a b 1 (larger a.rank b.rank) (decide ((x.cnt.head?).getD 0 = 1)) o)
      ∧ (x.held = [] → x.ready = true →
        let a := x.tok 0
        let b := x.tok 1
        let bad := decide (x.inDesc 0 w a ≠ x.inDesc 1 w b) || Claims.refused x w || a.lost
        Claims.Fires (.zip p e) s p e fun f => f.eats = 3 ∧ f.x = { x with held := [a, b], cnt := [if bad then 1 else 0] } ∧ f.fl = 0
          ∧ f.tiles = [] ∧ f.out1 = [] ∧ ∃ o, f.out0 = [o] ∧ zipped a b 0 0 bad o))
    ∧ (s.elemLive p e 0x91 = true → x.ready = true →
      let t := x.tok 0
      let bad := Claims.refused x w || t.lost
      let half (a : Token) (b : Option Token) (k : Nat) (bad : Bool) (rank : BitVec 3) (o : OutTok) : Prop :=
        let src (sl : Nat) : Option Token := if sl < n / 2 then some a else b
        let pos (sl : Nat) : Nat := 2 * (sl % (n / 2)) + k
        Claims.MovesOut w bad rank (lanes fun sl => (src sl).elim false fun z => good z (pos sl))
          (fun sl => (src sl).elim 0 fun z => slotBits z.data w (pos sl)) o
      let closed (a : Token) (b : Option Token) (bad : Bool) (rank : BitVec 3) (f : Fire) : Prop :=
        f.eats = 1 ∧ f.x = { x with held := [], cnt := [] } ∧ f.fl = 0 ∧ f.tiles = []
          ∧ ∃ o q, f.out0 = [o] ∧ f.out1 = [q] ∧ half a b 0 bad rank o ∧ half a b 1 bad rank q
      (x.held = [] → t.rank = 0 → Claims.Fires (.unzp p e) s p e fun f =>
        f.eats = 1 ∧ f.x = { x with held := [t], cnt := [if bad then 1 else 0] } ∧ f.fl = 0 ∧ f.tiles = [] ∧ f.out0 = [] ∧ f.out1 = [])
      ∧ (x.held = [] → t.rank ≠ 0 → Claims.Fires (.unzp p e) s p e fun f => closed t none bad t.rank f)
      ∧ ∀ a, x.held = [a] → Claims.Fires (.unzp p e) s p e fun f =>
          closed a (some t) (bad || decide ((x.cnt.head?).getD 0 = 1)) (larger a.rank t.rank) f)
    ∧ (s.elemLive p e 0x33 = true → x.p 0 ≤ n →
      let k := x.p 0
      let window (h : Token) (c : Option Token) (rank : BitVec 3) (o : OutTok) : Prop :=
        let ok := lanes fun sl => if sl + k < n then good h (sl + k) else c.elim (!(x.p 1).testBit 0) fun z => good z (sl + k - n)
        o.desc = none ∧ o.rank = rank ∧ (∀ l, l < 16 → o.valid.getLsbD l = ok l) ∧ (∀ z ∈ o.before, z.kind = 1 ∨ z ∈ x.held2)
          ∧ o.bad = (if o.pois then o.valid else 0)
          ∧ (o.pois = false → ∀ sl, sl < n → ok (sl / x.pack) = true → slotBits o.data w sl =
              if sl + k < n then slotBits h.data w (sl + k) else c.elim 0 fun z => slotBits z.data w (sl + k - n))
      (∀ t, x.held = [] → x.data 0 = some t → Claims.Fires (.slide p e) s p e fun f =>
        f.eats = 1 ∧ f.x.held = [t] ∧ f.out0 = [] ∧ f.out1 = [] ∧ f.fl = 0 ∧ f.tiles = [])
      ∧ (∀ h t, x.held = [h] → h.rank = 0 → x.data 0 = some t → Claims.Fires (.slide p e) s p e fun f =>
        f.eats = 1 ∧ f.x.held = [t] ∧ f.out1 = [] ∧ f.fl = 0 ∧ f.tiles = [] ∧ ∃ o, f.out0 = [o] ∧ window h (some t) 0 o
          ∧ (0 < k → k < n → BitVec.ofNat 16 ((x.words.head?).getD 0).toNat ≠ x.inDesc 0 w t → o.pois = true))
      ∧ ∀ h, x.held = [h] → h.rank ≠ 0 → Claims.Fires (.slide p e) s p e fun f =>
        f.eats = 0 ∧ f.x.held = [] ∧ f.out1 = [] ∧ f.fl = 0 ∧ f.tiles = [] ∧ ∃ o, f.out0 = [o] ∧ window h none h.rank o)

/-- A token stands in a block: its data, the lanes that are not valid zero, under its burst's descriptor, one that a reserved
format is POISON (R31, R229, R230). -/
def Claims.Stands (x : Elem) (t : Token) (b : Data × Desc) : Prop :=
  (∀ l, l < 16 → lane b.1 l = if t.valid.getLsbD l then lane t.data l else 0)
    ∧ b.2 = storedDesc (x.inDesc 0 (32 / x.pack) t)

/-- PLD emits a pass of blocks, a SCALE token before each run of one descriptor, and may release its tile; PST writes a pass of
blocks, and at its close the rest of the tile is VOID and the tile FULL; TFLIP turns a tile's state; each moves round its ring
(R213, R228, R229, R231). -/
def Claims.PlateTokens : Prop :=
  ∀ (s : State) (p e : Nat), e < 64 → (s.elem p e).ready = true →
    let x := s.elem p e
    let t := x.tok 0
    let at_ (k : Nat) : Nat := (x.cnt[k]?).getD 0
    let ring (k : Nat) : Nat := (k + 1) % (x.p 2 % 8 + 1)
    let tile (k : Nat) : Tile := (s.page p).tile e (x.ta + at_ k)
    (s.elemLive p e 0xA0 = true → (tile 1).state = 1 → at_ 0 ≤ x.p 1 % 64 →
      let k := at_ 0
      let desc (j : Nat) : Desc := ((tile 1).block (x.p 0 % 64 + j)).2
      let count := x.p 1 % 64 + 1
      let last := decide (k + 1 = count)
      let frees := last && (x.p 3).testBit 0
      ∀ run, 0 < run → k + run ≤ count → (∀ j, j < run → desc (k + j) = desc k) → (k + run = count ∨ desc (k + run) ≠ desc k) →
        Claims.Fires (.pld p e) s p e fun f => f.eats = (if last then 1 else 0) ∧ f.fl = 0 ∧ f.out1 = []
          ∧ f.x = { x with cnt := [if last then 0 else k + 1, if frees then ring (at_ 1) else at_ 1] }
          ∧ f.tiles = (if frees then [(x.ta + at_ 1, { tile 1 with state := 0 })] else [])
          ∧ ∃ o, f.out0 = [o] ∧ o.data = ((tile 1).block (x.p 0 % 64 + k)).1 ∧ o.valid = BitVec.allOnes 16 ∧ o.desc = some (desc k)
            ∧ o.rank = (if last then BitVec.ofNat 3 (min 7 (t.rank.toNat + 1)) else 0) ∧ o.pois = false ∧ o.bad = 0
            ∧ o.before = (if k = 0 ∨ desc (k - 1) ≠ desc k then [scaleToken (fmtOf (desc k)) (scaleOf (desc k)) (run - 1)] else []))
    ∧ (s.elemLive p e 0xA1 = true → (tile 1).state = 0 → x.p 0 % 64 + x.p 1 % 64 < 64 → at_ 0 ≤ x.p 1 % 64 →
      let k := at_ 0
      let byRank := x.emit ≠ 0 ∧ x.emit ≤ t.rank.toNat
      let b0 := x.p 0 % 64
      Claims.Fires (.pst p e) s p e fun f => f.eats = 1 ∧ f.out1 = [] ∧ Claims.Taken x 0 (32 / x.pack) f.fl
        ∧ ∃ tl, f.tiles = [(x.ta + at_ 1, tl)] ∧ Claims.Stands x t (tl.block (b0 + k))
          ∧ (k ≠ x.p 1 % 64 ∧ ¬ byRank → tl.state = 0 ∧ (∀ j, j ≠ b0 + k → tl.block j = (tile 1).block j)
              ∧ f.x = { x with cnt := [k + 1, at_ 1] } ∧ f.out0 = [])
          ∧ (k = x.p 1 % 64 ∨ byRank → tl.state = 1 ∧ f.x = { x with cnt := [0, ring (at_ 1)] }
              ∧ (∀ j, j < 64 → j ≠ b0 + k → tl.block j = if b0 ≤ j ∧ j < b0 + k then (tile 1).block j else (0, 0x7F00#16))
              ∧ (x.outs.testBit 0 = false → f.out0 = [])
              ∧ (x.outs.testBit 0 = true → ∃ o, f.out0 = [o] ∧ o.valid = 3 ∧ (lane o.data 0).toNat = x.ta + at_ 1
                  ∧ (lane o.data 1).toNat = k + 1 ∧ o.desc = none ∧ o.pois = false ∧ o.bad = 0
                  ∧ (byRank → o.rank = t.rank - BitVec.ofNat 3 x.emit) ∧ (¬ byRank → o.rank = 0))))
    ∧ (s.elemLive p e 0xA3 = true →
      let fills := x.p 0 % 2 = 0
      (tile 0).state = (if x.p 0 % 2 = 0 then 0 else 1) →
        Claims.Fires (.tflip p e) s p e fun f => f.eats = 1 ∧ f.fl = 0 ∧ f.out1 = [] ∧ f.x = { x with cnt := [ring (at_ 0)] }
          ∧ (fills → f.tiles = [(x.ta + at_ 0, { tile 0 with state := 1 })]) ∧ (¬ fills → f.tiles = [(x.ta + at_ 0, { tile 0 with state := 0 })])
          ∧ (x.outs.testBit 0 = false → f.out0 = [])
          ∧ (x.outs.testBit 0 = true → ∃ o, f.out0 = [o] ∧ o.data = t.data ∧ o.valid = t.valid ∧ o.rank = t.rank ∧ o.desc = none
              ∧ o.pois = false ∧ o.bad = 0))

/-- LBUF: for a token it emits the tokens above it in the column, oldest first, from its line's block or as padding, and then itself with RANK one more, which takes the oldest line's block; column and line start again at a RANK of q. It takes its tiles EMPTY at the first firing and needs them FULL after, else it is faulted
(R230). -/
def Claims.LineBuffer : Prop :=
  ∀ (s : State) (p e : Nat), e < 64 → (s.elem p e).ready = true → s.elemLive p e 0xA2 = true →
    let x := s.elem p e
    let t := x.tok 0
    let at_ (k : Nat) : Nat := (x.cnt[k]?).getD 0
    let D := x.p 1 % 8 + 1
    let spot (line : Nat) : Nat := line % (D - 1) * x.p 0 + at_ 0
    let mine (k : Nat) : Prop := x.ta ≤ k ∧ k ≤ x.tb
    let tile (k : Nat) : Tile := (s.page p).tile e k
    let written (line : Nat) : Prop := (x.words[spot line]?).getD 0 = BitVec.ofNat 64 (line + 1)
    let d := x.inDesc 0 (32 / x.pack) t
    let again := x.emit ≠ 0 ∧ x.emit ≤ t.rank.toNat
    2 ≤ D → x.ta ≤ x.tb → x.tb < 64 →
      (at_ 2 = 1 → (∃ k, mine k ∧ (tile k).state ≠ 1) → exec (.lbuf p e) s = .next (s.setElem p e { x with faulted := true }))
      ∧ (at_ 2 ≠ 1 → (∃ k, mine k ∧ (tile k).state ≠ 0) → exec (.lbuf p e) s = .next s)
      ∧ ((at_ 2 = 1 ∧ ∀ k, mine k → (tile k).state = 1) ∨ (at_ 2 ≠ 1 ∧ ∀ k, mine k → (tile k).state = 0) →
        Claims.Fires (.lbuf p e) s p e fun f => f.eats = 1 ∧ f.out1 = [] ∧ Claims.Taken x 0 (32 / x.pack) f.fl
          ∧ (let c := if again ∨ at_ 0 = x.p 2 then 0 else at_ 0 + 1
             let y := if again then 0 else if at_ 0 = x.p 2 then at_ 1 + 1 else at_ 1
             ∃ words, f.x = { x with cnt := [c, y, 1], words := words } ∧ (again → words = [])
              ∧ (¬ again → ∀ k, (words[k]?).getD 0 = if k = spot (at_ 1) then BitVec.ofNat 64 (at_ 1 + 1) else (x.words[k]?).getD 0))
          ∧ f.out0.length = D
          ∧ (∃ o, f.out0[D - 1]? = some o ∧ o.data = t.data ∧ o.valid = t.valid ∧ o.desc = some d ∧ o.blen = D - 1
              ∧ o.rank = BitVec.ofNat 3 (min 7 (t.rank.toNat + 1)) ∧ o.pois = false ∧ o.bad = 0 ∧ o.before = [])
          ∧ (∀ j, 0 < j → j < D → ∃ o, f.out0[j - 1]? = some o ∧ o.rank = 0 ∧ o.blen = D - 1 ∧ o.pois = false ∧ o.bad = 0 ∧ o.before = []
              ∧ (D - j ≤ at_ 1 → written (at_ 1 - (D - j)) →
                  let k := spot (at_ 1 - (D - j))
                  let b := (tile (x.ta + k / 64)).block (k % 64)
                  o.data = b.1 ∧ o.valid = BitVec.allOnes 16 ∧ o.desc = some b.2)
              ∧ (at_ 1 < D - j ∨ ¬ written (at_ 1 - (D - j)) →
                  o.data = 0 ∧ o.valid = (if (x.p 3).testBit 0 then 0 else BitVec.allOnes 16) ∧ o.desc = some d))
          ∧ (let k := spot (at_ 1)
             (∀ n tl, (n, tl) ∈ f.tiles → tl.state = 1 ∧ (n = x.ta + k / 64 → Claims.Stands x t (tl.block (k % 64)))
                ∧ ∀ b, (n ≠ x.ta + k / 64 ∨ b ≠ k % 64) → tl.block b = (tile n).block b)
              ∧ (at_ 2 = 1 → ∃ tl, f.tiles = [(x.ta + k / 64, tl)])
              ∧ (at_ 2 ≠ 1 → ∀ n, mine n ↔ ∃ tl, (n, tl) ∈ f.tiles)))

/-- Movement, filters and the plate operations (R31, R35, R76, R182, R201, R202, R206 to R209, R213, R221 to R231). -/
def Obligations.MoverValues : Prop :=
  Claims.Movers ∧ Claims.Packing ∧ Claims.Filters ∧ Claims.Counting ∧ Claims.Interleaving ∧ Claims.PlateTokens ∧ Claims.LineBuffer

/-! ## Algebras and matrix operations (R51, R52, R55 to R62, R214 to R219) -/

/-- A generator in front of a product of generators in ascending order: it goes to its place past those below it, each passed
negating, and with its like gives its square (R62). -/
def Claims.insertGen (sq : Nat → Int) (g : Nat) : List Nat → Int × List Nat
  | [] => (1, [g])
  | h :: l => if g < h then (1, g :: h :: l) else if g = h then (sq g, l)
    else (-(Claims.insertGen sq g l).1, h :: (Claims.insertGen sq g l).2)

/-- The product of two basis elements given by their generators (R62). -/
def Claims.mulGens (sq : Nat → Int) (a b : List Nat) : Int × List Nat :=
  a.foldr (fun g r => (r.1 * (Claims.insertGen sq g r.2).1, (Claims.insertGen sq g r.2).2)) (1, b)

/-- The preset algebras: components, conjugation and metric, with the square of the one unit of codes 1 to 3, the table of the
quaternions, and the products of generators of Cl(3,0) and the even part of Cl(1,3) (R60 to R62). -/
def Claims.Presets : Prop :=
  (∀ c n conj metric, (c, n, conj, metric) ∈ [(0, 1, 0, [1]), (1, 2, 0b10, [1, 1]), (2, 2, 0b10, [1, -1]), (3, 2, 0b10, [1, 0]),
      (4, 4, 0b1110, [1, 1, 1, 1]), (5, 8, 0b11110000, [1, 1, 1, 1, 1, 1, 1, 1]), (6, 8, 0b01111110, [1, -1, -1, -1, 1, 1, 1, -1])] →
    (preset c).n = n ∧ (∀ k, k < 8 → (preset c).conj.testBit k = Nat.testBit conj k) ∧ (preset c).metric = metric
      ∧ ∀ k, k < n → (preset c).entry 0 k = (1, k) ∧ (preset c).entry k 0 = (1, k))
  ∧ (∀ c sq, (c, sq) ∈ [(1, -1), (2, 1), (3, 0)] → (preset c).entry 1 1 = ((sq : Int), 0))
  ∧ (∀ i j, i < 4 → j < 4 → (preset 4).entry i j =
      ((([[(1, 0), (1, 1), (1, 2), (1, 3)], [(1, 1), (-1, 0), (1, 3), (-1, 2)], [(1, 2), (-1, 3), (-1, 0), (1, 1)],
        [(1, 3), (1, 2), (-1, 1), (-1, 0)]] : List (List (Int × Nat)))[i]?).bind (·[j]?)).getD (0, 0))
  ∧ ∀ c (basis : List (List Nat)) (sq : Nat → Int),
      (c = 5 ∧ basis = [[], [1], [2], [3], [1, 2], [1, 3], [2, 3], [1, 2, 3]] ∧ ∀ g, sq g = 1)
      ∨ (c = 6 ∧ basis = [[], [0, 1], [0, 2], [0, 3], [1, 2], [1, 3], [2, 3], [0, 1, 2, 3]] ∧ ∀ g, sq g = if g = 0 then 1 else -1) →
        ∀ i j a b, basis[i]? = some a → basis[j]? = some b →
          ((preset c).entry i j).1 = (Claims.mulGens sq a b).1 ∧ basis[((preset c).entry i j).2]? = some (Claims.mulGens sq a b).2

/-- Conjugation, norm and inverse of a value with finite components: signs by the conjugation mask, Σ metric·x², and the conjugate
over a norm that is not zero; a zero norm gives NaN and INV (R59, R218). -/
def Claims.AlgebraValues : Prop :=
  ∀ (a : Algebra) (x : List Sys2Proof.Num) (u : Nat → Rat), x.length = a.n → a.metric.length = a.n → (∀ m ∈ a.metric, m = 1 ∨ m = -1 ∨ m = 0) →
    (∀ i z, x[i]? = some z → Claims.Real z (u i)) →
      let norm : Rat := ((List.range a.n).map fun k => (((a.metric[k]?).getD 0 : Int) : Rat) * u k * u k).sum
      let conj (k : Nat) : Rat := if a.conj.testBit k then -(u k) else u k
      (∃ r, a.norm x = (r, 0) ∧ Claims.Real r norm)
      ∧ ∀ k, k < a.n → (∃ z, (a.conjOf x)[k]? = some z ∧ Claims.Real z (conj k))
        ∧ (norm = 0 → a.inv x k = (.nan false, flInv)) ∧ (norm ≠ 0 → ∃ r, a.inv x k = (r, 0) ∧ Claims.Real r (conj k / norm))

/-- Components `l` of the value from slot `first` of an input, with the flags of their reads; or the value is not whole, or is
poisoned (R55). -/
def Claims.Components (x : Elem) (n first i : Nat) (l : List Sys2Proof.Num) (fl : BitVec 8) : Prop :=
  l.length = n ∧ (∀ k z, l[k]? = some z → ∃ g, x.arg false (first + k) i = some (.num z, g))
    ∧ Claims.Ors n (fun k => ((x.arg false (first + k) i).map Prod.snd).getD 0) fl

/-- AMUL, ACONJ, ANORM and AINV act on each algebra value: a component is the exact one of the product, conjugate, norm or inverse,
converted once; a value with an invalid lane gives invalid lanes, a NaN component a NaN value, with INV for a signalling one, and a
POISON component POISON (R55, R57, R59, R218). -/
def Claims.AlgebraOps : Prop :=
  ∀ (s : State) (p e opc : Nat) (i : Instr) (a : Algebra), e < 64 → s.elemLive p e opc = true → (s.elem p e).ready = true →
    (s.elem p e).algebra = some a → 0 < a.n → a.n ∣ 16 * (s.elem p e).pack →
      let x := s.elem p e
      let two := opc = 0x68
      let nan (u v : List Sys2Proof.Num) : Prop := (∃ z ∈ u ++ v, z.isNan = true)
      (i, opc) ∈ [(Instr.amul p e, 0x68), (.aconj p e, 0x6A), (.anorm p e, 0x6B), (.ainv p e, 0x6C)] →
        ∃ val : Nat → Option (Val × BitVec 8),
          (∀ q k, k < a.n → (q + 1) * a.n ≤ 16 * x.pack →
            let sl := q * a.n + k
            let gone (i : Nat) : Prop := ∃ j, j < a.n ∧ x.arg false (q * a.n + j) i = none
            let poisoned (i : Nat) : Prop := ∃ j g, j < a.n ∧ x.arg false (q * a.n + j) i = some (.poison, g)
            (gone 0 ∨ (two ∧ gone 1) → val sl = none)
            ∧ (¬ (gone 0 ∨ (two ∧ gone 1)) → poisoned 0 ∨ (two ∧ poisoned 1) → ∃ g, val sl = some (.poison, g))
            ∧ ∀ u v ufl vfl, Claims.Components x a.n (q * a.n) 0 u ufl →
                (if two then Claims.Components x a.n (q * a.n) 1 v vfl else v = [] ∧ vfl = 0) →
                  ∃ r, val sl = some (.num r.1, ufl ||| vfl ||| r.2)
                    ∧ (nan u v → r.1.isNan = true ∧ r.2 = 0 ∧ (r.1.isSnan = true ↔ ∃ z ∈ u ++ v, z.isSnan = true))
                    ∧ (¬ nan u v → (opc = 0x68 → r = a.mul u v k) ∧ (opc = 0x6A → (a.conjOf u)[k]? = some r.1 ∧ r.2 = 0)
                      ∧ (opc = 0x6B → r = if k = 0 ∨ (x.p 0).testBit 0 = true then a.norm u else (.zero, 0))
                      ∧ (opc = 0x6C → r = a.inv u k)))
          ∧ Claims.Fires i s p e fun f => f.eats = x.insMask % 8 ∧ f.x = x ∧ f.out1 = [] ∧ f.tiles = [] ∧ ∃ o, f.out0 = [o]
              ∧ Claims.LaneOut x (mkDesc (BitVec.ofNat 8 x.tscale) x.tfmt) x.rankIn val (fun v => convert v x.tfmt x.tscale x.rm x.ovr) o f.fl

/-- The group of an operand of a matrix operation: the head token of its input, or the current block of the current tile of its
ring, which must be FULL and has every lane valid; read as POISON where its format is none of the 32 of matrices, is wider than a slot,
or is an integer at the NaN scale (R32, R35, R214, R215). -/
def Claims.OperandGroup (pg : Page) (e k : Nat) (g : Option Group) : Prop :=
  let x := pg.elem e
  let at_ (j : Nat) : Nat := (x.cnt[j]?).getD 0
  let matrix (f : BitVec 8) : Prop := f.toNat ∈ [1, 2, 5, 6] ∨ ∃ r ∈ Claims.floats, r.1 = f.toNat ∧ 0x10 ≤ f.toNat
  let read (d : Desc) : Desc → Prop := fun r =>
    (matrix (fmtOf d) ∧ fmtBits (fmtOf d) ≤ 32 / x.pack ∧ readsPoison (fmtOf d) (scaleOf d) = false → r = d)
    ∧ (¬ (matrix (fmtOf d) ∧ fmtBits (fmtOf d) ≤ 32 / x.pack ∧ readsPoison (fmtOf d) (scaleOf d) = false) → r = descPoison)
  if (x.p 0).testBit k = true then
    let t := pg.tile e ((if k = 0 then x.ta else x.tb) + at_ (2 * k + 1))
    let b := t.block (at_ (2 * k))
    (t.state = 1 → ∃ r, read b.2 r ∧ g = some ⟨b.1, r, BitVec.allOnes 16⟩) ∧ (t.state ≠ 1 → g = none)
  else
    (∀ t, x.data k = some t → ∃ r, read (x.inDesc k (32 / x.pack) t) r ∧ g = some ⟨t.data, r, t.valid⟩) ∧ (x.data k = none → g = none)

/-- Values of one row of a group at k: the components in their slots, where every lane of them is valid (R55, R214, R219). -/
def Claims.rowValue (x : Elem) (g : Group) (n row k : Nat) (stored : Bool) (l : List Sys2Proof.Num) : Prop :=
  let first := (row * x.pack + k) * n
  l.length = n ∧ (∀ c, c < n → g.valid.getLsbD ((first + c) / x.pack) = true)
    ∧ ∀ c z, l[c]? = some z → (decodeVal (fmtOf g.desc) (scaleOf g.desc) stored (slotBits g.data (32 / x.pack) (first + c))).1 = .num z

/-- An accumulator takes a group in: nothing where no pair of values is valid; it is poisoned where a pair is and an operand is
POISON; else it adds the exact sum of the products, an INT32 one modulo 2^32 with OVF on a wrap, an FP32 one with one rounding to
nearest even. Infinities and NaNs among the products go by the exact operations (R51, R52, R58, R215). -/
def Claims.TakesGroup (x : Elem) (alg : Algebra) (A B : Group) (int : Bool) (i j c : Nat) (old new : Acc) (fl : BitVec 8) : Prop :=
  let n := alg.n
  let whole (g : Group) (row k : Nat) : Prop := ∀ c, c < n → g.valid.getLsbD (((row * x.pack + k) * n + c) / x.pack) = true
  let pair (k : Nat) : Prop := k < x.pack ∧ whole A i k ∧ whole B j k
  let poisoned := fmtOf A.desc = 0x0E#8 ∨ fmtOf B.desc = 0x0E#8
  ((∀ k, ¬ pair k) → new = old ∧ fl = 0)
  ∧ ((∃ k, pair k) → poisoned → new = { old with poison := true } ∧ fl = 0)
  ∧ ((∃ k, pair k) → ¬ poisoned → new = { old with bits := new.bits } ∧
    (∀ u v : Nat → Nat → Rat,
      (∀ k, pair k → ∃ a b, Claims.rowValue x A n i k int a ∧ Claims.rowValue x B n j k int b
        ∧ (∀ z y, a[z]? = some y → Claims.Real y (u k z)) ∧ (∀ z y, b[z]? = some y → Claims.Real y (v k z))) →
      (∀ k z, ¬ pair k → u k z = 0 ∧ v k z = 0) →
        let total : Rat := ((List.range x.pack).map fun k => ((List.range n).map fun z => ((List.range n).map fun y =>
          if (alg.entry z y).2 = c then ((alg.entry z y).1 : Rat) * u k z * v k y else 0).sum).sum).sum
        (int = true → ∃ z : Int, ((z : Int) : Rat) = total ∧ new.bits = old.bits + BitVec.ofInt 32 z
          ∧ fl = if -2 ^ 31 ≤ old.bits.toInt + z ∧ old.bits.toInt + z < 2 ^ 31 then 0 else flOvf)
        ∧ (int = false → ∀ w, Claims.Real (ofFp32 old.bits) w → ∃ y, Claims.Real y (w + total)
          ∧ new.bits = BitVec.ofNat 32 (convert y 0x07#8 127 0 2).1 ∧ fl = (convert y 0x07#8 127 0 2).2)))

/-- The accumulator that MMAZ loads from element `z` of tile TC: an FP32 or INT32 value by its own descriptor, converted to the
accumulators' type; zero and DISC from a VOID block; poisoned, with POIS, from any other (R216). -/
def Claims.Loaded (t : Tile) (int : Bool) (z : Nat) (a : Acc) (fl : BitVec 8) : Prop :=
  let b := t.block (z / 16)
  let f := fmtOf b.2
  let v := (decodeVal f (scaleOf b.2) false (dataBytes b.1 (4 * (z % 16)) 4)).1
  (f = 0#8 → a = ⟨0, false, false⟩ ∧ fl = flDisc)
  ∧ (f ≠ 0#8 → (∀ n, v = .num n → f ≠ 7#8 ∧ f ≠ 4#8) → a = ⟨0, false, true⟩ ∧ fl = flPois)
  ∧ ∀ n, (f = 7#8 ∨ f = 4#8) → v = .num n →
    let c := if int then convert n 4#8 127 0 0 else convert n 7#8 127 0 2
    a = ⟨BitVec.ofNat 32 c.1, false, false⟩ ∧ fl = c.2

/-- What a matrix operation has in hand: its groups A and B, and the element set to fire on them: no writing of C under way, MMAZ's
tile TC FULL at the first group, the algebra of AMMA read. `int` is the type that the accumulators leave the firing in (R213 to
R216, R219). -/
def Claims.MatrixReady (s : State) (p e : Nat) (i : Instr) (alg : Algebra) (A B : Group) (int : Bool) : Prop :=
  let x := s.elem p e
  let bytes (g : Group) : Bool := decide (fmtOf g.desc = 1#8) || decide (fmtOf g.desc = 2#8)
  let first := decide ((x.cnt[5]?).getD 0 = 0)
  (i, x.opc) ∈ [(Instr.mma p e, 0x60), (.mmao p e, 0x61), (.mmaz p e, 0x62), (.amma p e, 0x69)] ∧ s.elemLive p e x.opc = true
    ∧ e < 64 ∧ x.cRows = [] ∧ (x.opc = 0x69 → x.algebra = some alg) ∧ (x.opc ≠ 0x69 → alg = preset 0) ∧ alg.n ∈ [1, 2, 4, 8]
    ∧ Claims.OperandGroup (s.page p) e 0 (some A) ∧ Claims.OperandGroup (s.page p) e 1 (some B)
    ∧ (x.opc = 0x62 → first = true → ((s.page p).tile e x.tc).state = 1)
    ∧ int = (decide (x.opc ≠ 0x69) && bytes A && bytes B && (first || x.accInt))

/-- The accumulators that a firing of a matrix operation leaves before it emits, with every flag that setting them up and the group
set: from zero, from tile TC, or from the ones held, turned to FP32 where a group is no longer of integers (R215, R216). -/
def Claims.Updated (s : State) (p e : Nat) (alg : Algebra) (A B : Group) (int : Bool) (accs : List Acc) (fl : BitVec 8) : Prop :=
  let x := s.elem p e
  let first := (x.cnt[5]?).getD 0 = 0
  let R := 16 / alg.n
  let size := R * R * alg.n
  let poisoned (g : Group) : Prop := fmtOf g.desc = 0x0E#8 ∧ g.valid ≠ 0
  (first ∨ x.acc.length = size) → accs.length = size ∧ ∃ (start : Nat → Acc) (sfl gfl : Nat → BitVec 8),
    (∀ z, z < size →
      (first → x.opc ≠ 0x62 → start z = ⟨0, false, false⟩ ∧ sfl z = 0)
      ∧ (first → x.opc = 0x62 → Claims.Loaded ((s.page p).tile e x.tc) int z (start z) (sfl z))
      ∧ (¬ first → (x.accInt = false ∨ int = true) → x.acc[z]? = some (start z) ∧ sfl z = 0)
      ∧ (¬ first → x.accInt = true → int = false → ∃ o, x.acc[z]? = some o
          ∧ start z = { o with bits := BitVec.ofNat 32 (convert (Sys2Proof.Num.ofInt o.bits.toInt) 7#8 127 0 2).1 }
          ∧ sfl z = (convert (Sys2Proof.Num.ofInt o.bits.toInt) 7#8 127 0 2).2)
      ∧ ∃ a, accs[z]? = some a ∧ Claims.TakesGroup x alg A B int (z / alg.n / R) (z / alg.n % R) (z % alg.n) (start z) a (gfl z))
    ∧ ∃ a b, Claims.Ors size sfl a ∧ Claims.Ors size gfl b ∧ (poisoned A ∨ poisoned B → fl = a ||| b ||| flPois)
      ∧ (¬ (poisoned A ∨ poisoned B) → fl = a ||| b)

/-- A firing of MMA, MMAO, MMAZ and AMMA takes one group of each operand in, moves its rings, and emits at a RANK of q or more, that
of the operands that come as tokens: as 16 tokens in a burst of their own, or as C that waits to be written to the D ring, whose
current tile must be EMPTY and whose token must have a place. A result is converted to TFMT at TSCALE, an INT32 one to an integer
format at unit scale (the model's reading, log 65); a poisoned one is sent, or written, as POISON (R34, R41, R213 to R216, R219). -/
def Claims.MatrixFirings : Prop :=
  ∀ (s : State) (p e : Nat) (i : Instr) (alg : Algebra) (A B : Group) (int : Bool), Claims.MatrixReady s p e i alg A B int →
    let x := s.elem p e
    let at_ (k : Nat) : Nat := (x.cnt[k]?).getD 0
    let tiled (k : Nat) : Bool := (x.p 0).testBit k
    let rank (k : Nat) : Nat := if tiled k then 0 else (x.tok k).rank.toNat
    let rankIn := max (rank 0) (rank 1)
    let out : BitVec 3 := BitVec.ofNat 3 (rankIn - x.emit)
    let toD := x.opc = 0x60 ∨ x.opc = 0x62 ∨ (x.opc = 0x69 ∧ x.outs = 0)
    let tells := x.outs.testBit 0 = true ∧ x.opc ≠ 0x69
    let dTile := x.td + at_ 4
    let sc := if int && fmtInt x.tfmt then 127 else x.tscale
    let d := mkDesc (BitVec.ofNat 8 sc) x.tfmt
    let result (a : Acc) : Option Nat := if a.poison then none else
      some (convert (if int then Sys2Proof.Num.ofInt a.bits.toInt else ofFp32 a.bits) x.tfmt sc x.rm x.ovr).1
    let resultFlags (a : Acc) : BitVec 8 := if a.poison then 0 else
      (convert (if int then Sys2Proof.Num.ofInt a.bits.toInt else ofFp32 a.bits) x.tfmt sc x.rm x.ovr).2
    -- The rings: the position in a tile, and at its last group the next tile.
    let groups (k : Nat) : Nat := (x.p 1 / 64 ^ k) % 64 + 1
    let lap (k : Nat) : Nat := (x.p 2 / 8 ^ k) % 8 + 1
    let moves (cnt : List Nat) : Prop := ∀ k, k < 2 →
      (cnt[2 * k]?).getD 0 = (if tiled k = false then at_ (2 * k) else if at_ (2 * k) + 1 < groups k then at_ (2 * k) + 1 else 0)
      ∧ (cnt[2 * k + 1]?).getD 0 = (if tiled k = true ∧ groups k ≤ at_ (2 * k) + 1 then (at_ (2 * k + 1) + 1) % lap k else at_ (2 * k + 1))
    let freed (k : Nat) (tl : Nat × Tile) : Prop :=
      let n := (if k = 0 then x.ta else x.tb) + at_ (2 * k + 1)
      tiled k = true ∧ (x.p 0).testBit (2 + k) = true ∧ groups k ≤ at_ (2 * k) + 1 ∧ tl = (n, { (s.page p).tile e n with state := 0 })
    let taken (f : Fire) : Prop := f.out1 = [] ∧ f.eats = (if tiled 0 then 0 else 1) + (if tiled 1 then 0 else 2)
      ∧ ∀ tl, tl ∈ f.tiles ↔ freed 0 tl ∨ freed 1 tl
        ∨ (x.opc = 0x62 ∧ at_ 5 = 0 ∧ tl = (x.tc, { (s.page p).tile e x.tc with state := 0 }))
    (rankIn < x.emit → Claims.Fires i s p e fun f => taken f ∧ f.out0 = [] ∧ ∃ accs cnt, Claims.Updated s p e alg A B int accs f.fl
        ∧ f.x = { x with acc := accs, accInt := int, cnt := cnt } ∧ moves cnt ∧ (cnt[5]?).getD 0 = 1 ∧ (cnt[4]?).getD 0 = at_ 4)
    ∧ (x.emit ≤ rankIn → toD → ((s.page p).tile e dTile).state ≠ 0 ∨ (tells ∧ x.free 0 = 0) → exec i s = .next s)
    ∧ (x.emit ≤ rankIn → (toD → ((s.page p).tile e dTile).state = 0 ∧ (tells → x.free 0 ≠ 0)) →
        Claims.Fires i s p e fun f => taken f ∧ ∃ accs cnt ufl efl, Claims.Updated s p e alg A B int accs ufl ∧ moves cnt
          ∧ (cnt[5]?).getD 0 = 0 ∧ Claims.Ors accs.length (fun z => ((accs[z]?).map resultFlags).getD 0) efl ∧ f.fl = ufl ||| efl
          ∧ (toD → f.out0 = [] ∧ (cnt[4]?).getD 0 = (at_ 4 + 1) % (x.p 4 % 8 + 1)
              ∧ f.x = { x with acc := [], accInt := false, cnt := cnt, cRows := pendingC dTile out d (accs.map result) })
          ∧ (¬ toD → f.x = { x with acc := [], accInt := false, cnt := cnt } ∧ f.out0.length = 16
              ∧ ∀ k, k < 16 → ∃ o, f.out0[k]? = some o ∧ o.desc = some d ∧ o.blen = 15 ∧ o.rank = (if k = 15 then out else 0)
                ∧ o.before = (if k = 0 then [scaleToken x.tfmt (BitVec.ofNat 8 sc) 15] else [])
                ∧ (o.pois = true ↔ ∃ l a, l < 16 ∧ accs[16 * k + l]? = some a ∧ a.poison = true)
                ∧ ∀ l, l < 16 → (o.valid.getLsbD l = true ↔ 16 * k + l < accs.length)
                  ∧ ∀ a, accs[16 * k + l]? = some a → (o.bad.getLsbD l = a.poison)
                    ∧ ∀ c, result a = some c → (lane o.data l).toNat = c % 2 ^ 32))

/-- Algebras and matrix operations. MatrixTiles says how a waiting C is written (R34, R41, R51, R52, R55 to R62, R213 to R216, R218,
R219). -/
def Obligations.MatrixValues : Prop := Claims.Presets ∧ Claims.AlgebraValues ∧ Claims.AlgebraOps ∧ Claims.MatrixFirings

/-! ## Packets of memory (R307 to R334, R378, R409 to R412) -/

/-- Packet `k`, a `p` of operation `op`, has passed its last output but the one it stands in, which serves it next;
`u` is the machine once it has left. -/
def Claims.Arrives (s : State) (k : Nat) (op : PktOp) (p : Packet) (u : State) : Prop :=
  fget s.packets k = some p ∧ p.op = op ∧ p.path = [] ∧ p.at_ ≠ none ∧ s.depart k p = some u ∧ k ≠ s.fresh

/-- Packet `k` is gone and no other has come. -/
def Claims.TakesPacket (s t : State) (k : Nat) : Prop :=
  t.fresh = s.fresh ∧ fget t.packets k = none ∧ ∀ n, n ≠ k → fget t.packets n = fget s.packets n

/-- Packet `k` is gone and one has been sent, `q`. -/
def Claims.Answers (s t : State) (k : Nat) (q : Packet) : Prop :=
  t.fresh = s.fresh + 1 ∧ fget t.packets k = none ∧ fget t.packets s.fresh = some q ∧ q.at_ = none
    ∧ ∀ n, n ≠ k → n ≠ s.fresh → fget t.packets n = fget s.packets n

/-- `q` goes back to the source of `p`, for the same request; SEQ is the request's in ACK and RESEND, and else zero (R319). -/
def Claims.RepliesTo (p q : Packet) (op : PktOp) (cls : Nat) : Prop :=
  q.op = op ∧ q.cls = cls ∧ q.src = p.dst ∧ q.dst = p.src ∧ q.part = p.part ∧ q.tag = p.tag ∧ q.n = p.n ∧ q.trim = false
    ∧ q.dmod = p.smod ∧ q.smod = p.dmod ∧ q.seq = if op = .ack ∨ op = .resend then p.seq else 0

/-- What one block's write leaves: every byte of the mask is the new one (zero of a VOID write), every other the old one,
zero where the block was VOID; a reserved format is stored as POISON. The descriptor is the writer's where it covers
the block, or finds it of the same descriptor, or VOID (not by an engine), else POISON; a core's store keeps the
descriptor, and makes a VOID block UINT8 at scale 0x7F (R31, R33, R129, R152, R285). -/
def Claims.BlockWrites : Prop :=
  ∀ (old : Data × Desc) (w : BlockW),
    let r := applyWrite old w
    let wd := if fmtListed (fmtOf w.desc) then w.desc else mkDesc (scaleOf w.desc) 0x0E#8
    (∀ k, k < 64 → dataByte r.1.1 k =
      if w.mask.getLsbD k then (if w.mode = 1 ∧ fmtOf w.desc = 0#8 then 0 else dataByte w.data k)
      else if descIsVoid old.2 then 0 else dataByte old.1 k)
    ∧ (w.mode = 0 → r.1.2 = (if descIsVoid old.2 then descUint8 else old.2) ∧ r.2 = false)
    ∧ (w.mode = 1 → r.2 = false ∧ r.1.2 =
        if fmtOf wd ≠ 0x0E#8 ∧ (w.mask = fullMask ∨ descIsVoid old.2 = true ∨ old.2 = wd) then wd else descPoison)
    ∧ (w.mode = 2 → (w.mask = fullMask ∨ old.2 = wd → r.1.2 = wd ∧ r.2 = false)
        ∧ (¬ (w.mask = fullMask ∨ old.2 = wd) → r.1.2 = descPoison ∧ r.2 = true))

/-- A READ at its home: where the channel's owner is another partition OWNERNAK goes back and nothing is read; else,
with no earlier write of its requester missing, DATA with the block, its descriptor and A_h. A WRITE that its home may
apply changes its blocks in order, as `BlockWrites` says of each, and is acknowledged; every byte outside its blocks
stays. A trimmed one is asked for again, one refused by a channel's owner gets OWNERNAK, and one whose requester has
abandoned it does nothing; one that must wait for an earlier write leaves the link and is kept. ABANDON counts an index
as applied and changes no memory (R311, R313, R326, R328, R378). -/
def Claims.HomeAccesses : Prop :=
  ∀ (s u : State) (k : Nat) (p : Packet),
    (Claims.Arrives s k .read p u → (∀ m a, p.phys ≠ .remote m a) →
      (s.mayServe p.part p.phys = false → ∃ t q, exec (.readPkt k) s = .next t ∧ t.mem = s.mem ∧ t.pages = s.pages
        ∧ Claims.Answers s t k q ∧ Claims.RepliesTo p q .ownernak 0)
      ∧ (s.mayServe p.part p.phys = true → s.holeBefore p.src p.dst.bay none [p.phys] = false →
        ∃ t q, exec (.readPkt k) s = .next t ∧ t.mem = s.mem ∧ t.pages = s.pages ∧ Claims.Answers s t k q
          ∧ Claims.RepliesTo p q .data p.cls
          ∧ q.blocks = [⟨p.phys, (s.mem.block p.phys).1, (s.mem.block p.phys).2, fullMask, 1⟩]
          ∧ q.vec = (List.range 8).map fun e => fgetD (s.bay p.dst.bay).home.applied e 0))
    ∧ (Claims.Arrives s k .write p u →
      (s.judge p = .apply → ∃ t q, exec (.writePkt k) s = .next t ∧ t.pages = s.pages ∧ Claims.Answers s t k q
        ∧ Claims.RepliesTo p q .ack 0
        ∧ t.mem = p.blocks.foldl (fun m w => m.setBlock w.phys (applyWrite (m.block w.phys) w).1.1
            (applyWrite (m.block w.phys) w).1.2) s.mem
        ∧ ∀ a, (∀ w ∈ p.blocks, a.blk ≠ w.phys.blk) → t.mem.byte a = s.mem.byte a)
      ∧ (s.judge p = .shaving → ∃ t q, exec (.writePkt k) s = .next t ∧ t.mem = s.mem ∧ t.pages = s.pages
        ∧ Claims.Answers s t k q ∧ Claims.RepliesTo p q .resend 0 ∧ (t.part p.part).shavrecv = (s.part p.part).shavrecv + 1)
      ∧ (s.judge p = .refused → ∃ t q, exec (.writePkt k) s = .next t ∧ t.mem = s.mem ∧ t.pages = s.pages
        ∧ Claims.Answers s t k q ∧ Claims.RepliesTo p q .ownernak 0)
      ∧ (s.judge p = .held → ∃ t, exec (.writePkt k) s = .next t ∧ t.mem = s.mem ∧ t.pages = s.pages ∧ t.fresh = s.fresh
        ∧ fget t.packets k = some { p with at_ := none } ∧ ∀ n, n ≠ k → fget t.packets n = fget s.packets n)
      ∧ (s.judge p = .gone → ∃ t, exec (.writePkt k) s = .next t ∧ t.mem = s.mem ∧ t.pages = s.pages
        ∧ Claims.TakesPacket s t k))
    ∧ (Claims.Arrives s k .abandon p u → ∃ t, exec (.abandonPkt k) s = .next t ∧ t.mem = s.mem ∧ t.pages = s.pages
        ∧ Claims.TakesPacket s t k
        ∧ (t.bay p.dst.bay).home = (s.bay p.dst.bay).home.mark p.src.bay p.n
        ∧ ∀ b, b ≠ p.dst.bay → t.bay b = s.bay b)

/-- ATOMIC at its home's channel, where it may be applied: one read-modify-write. A POISON block keeps its bytes and
answers so; else the old bytes go back, zero from a VOID block, the bytes of the operand take what the operation makes
of them, every other byte of the block stays (zero where it was VOID), and a VOID block becomes UINT8 at scale 0x7F.
CAS stores its first word where the second equals the old value (R69, R134, R316, R326). -/
def Claims.HomeAtomics : Prop :=
  ∀ (s u : State) (k : Nat) (p : Packet),
    Claims.Arrives s k .atomic p u → s.judge p = .apply → (p.width = 4 ∨ p.width = 8) →
      p.phys.low + p.width ≤ 64 → (∀ m a, p.phys ≠ .remote m a) →
        let x := (p.words[0]?).getD 0
        let y := (p.words[1]?).getD 0
        let b := s.mem.block p.phys
        let d : Data := if descIsVoid b.2 then 0 else b.1
        let old := dataBytes d p.phys.low p.width
        ∃ t q, exec (.atomicPkt k) s = .next t ∧ t.pages = s.pages ∧ Claims.Answers s t k q ∧ Claims.RepliesTo p q .aresp 0
          ∧ (∀ a, a.blk ≠ p.phys.blk → t.mem.byte a = s.mem.byte a)
          ∧ (descPoisoned b.2 = true → q.note = 2 ∧ t.mem.block p.phys = b)
          ∧ (descPoisoned b.2 = false → q.note = (if descIsVoid b.2 then 1 else 0) ∧ q.words = [BitVec.ofNat 64 old]
            ∧ (t.mem.block p.phys).2 = (if descIsVoid b.2 then descUint8 else b.2)
            ∧ (∀ j, j < 64 → ¬ (p.phys.low ≤ j ∧ j < p.phys.low + p.width) →
              dataByte (t.mem.block p.phys).1 j = dataByte d j)
            ∧ dataBytes (t.mem.block p.phys).1 p.phys.low p.width =
              (if p.aop = 9 then (if old = y.toNat % 2 ^ (8 * p.width) then x.toNat else old)
               else atomicOp p.aop (8 * p.width) old x.toNat) % 2 ^ (8 * p.width))

/-- The accesses of homes. -/
def Obligations.HomeResults : Prop := Claims.BlockWrites ∧ Claims.HomeAccesses ∧ Claims.HomeAtomics

/-- The span ports of a bay, whose retained messages stand apart from the other agents' (R320, R325). -/
def Claims.SpanPort (a : AgentId) : Prop := a.code = 0x1C0 ∨ a.code = 0x1C1

/-- A requester's answers. DATA, with its payload, tells K_d,h the home's vector, and gives a waiting core its block; a trimmed
one makes its request due again after the pacing wait, which doubles. ARESP gives a waiting core the old value. ACK releases the
retained copy that it names. RESEND makes it due again. DATA, ARESP and RESEND that nothing waits for do nothing, and count as
late where their requester no longer exists. OWNERNAK of a read stalls the requester, its copies kept, with one ISOFAULT event,
unless its granule has been mapped again. No byte of memory changes (R313, R325 to R330, R332, R369). -/
def Obligations.RequesterResults : Prop :=
  ∀ (s u : State) (k : Nat) (p : Packet),
    let r := s.req p.dst
    -- An answer that nothing waits for: late where its requester no longer exists.
    let unasked (i : Instr) : Prop := ∃ t, exec i s = .next t ∧ t.mem = s.mem ∧ t.pages = s.pages ∧ Claims.TakesPacket s t k
      ∧ (t.part p.part).late = (s.part p.part).late + (if p.life = r.life then 0 else 1)
    (Claims.Arrives s k .data p u →
      (p.life ≠ r.life ∨ r.entry p.tag = none → unasked (.dataPkt k))
      ∧ ∀ e, p.life = r.life → r.entry p.tag = some e → e.got = none →
        (p.trim = true → ∃ t, exec (.dataPkt k) s = .next t ∧ t.mem = s.mem ∧ t.pages = s.pages
          ∧ (t.part p.part).shavrecv = (s.part p.part).shavrecv + 1
          ∧ (t.req p.dst).pace = Nat.min 4096 (2 * r.pace)
          ∧ (t.req p.dst).entry p.tag = some { e with due := some (s.now + r.pace) })
        ∧ ∀ w ws, p.trim = false → p.blocks = w :: ws →
          (e.pkt.note = 1 ∨ (e.late = [] ∧ (e.stale = true ∨ s.rdcRoom p.dst.bay p.part [w.phys] = true)
            ∧ ∀ b, remoteBlock p.dst.bay w.phys = some b → (s.bay p.dst.bay).rdcLine p.part b = none)) →
            ∃ t, exec (.dataPkt k) s = .next t ∧ t.mem = s.mem ∧ Claims.TakesPacket s t k
              ∧ (∀ h n, p.vec[h]? = some n → geWrap (fgetD (t.bay p.dst.bay).know (p.src.bay * 8 + h) 0) n = true)
              ∧ (∀ g c, agentPage p.dst = some (g, 0) → c = (s.page g).core → c.wait = some (.resp p.tag) →
                (t.page g).core = { c with resp := c.resp ++ [(p.tag, w)], wait := none }
                  ∧ ∀ n, n ≠ g → t.page n = s.page n)
              ∧ ((∀ g, agentPage p.dst ≠ some (g, 0)) → t.pages = s.pages
                ∧ (t.req p.dst).entry p.tag = some { e with got := some ([w], [], 0) }))
    ∧ (Claims.Arrives s k .aresp p u →
      (p.life ≠ r.life ∨ r.entry p.tag = none → unasked (.arespPkt k))
      ∧ ∀ g c, p.life = r.life → r.entry p.tag ≠ none → agentPage p.dst = some (g, 0) → c = (s.page g).core → c.wait = some (.resp p.tag) →
        ∃ t, exec (.arespPkt k) s = .next t ∧ t.mem = s.mem
          ∧ (t.page g).core = { c with scratch := p.words ++ [BitVec.ofNat 64 p.note], wait := none }
          ∧ (∀ n, n ≠ g → t.page n = s.page n) ∧ (t.req p.dst).entry p.tag = none)
    ∧ (Claims.Arrives s k .ack p u → ∃ t, exec (.ackPkt k) s = .next t ∧ t.mem = s.mem ∧ t.pages = s.pages
        ∧ (r.unsent = [] → ¬ Claims.SpanPort p.dst → ∀ x, s.keptFor p.dst p = some x →
          (t.req p.dst).kept = r.kept.erase x))
    ∧ (Claims.Arrives s k .resend p u →
      (∀ x, s.keptFor p.dst p = some x → ∃ t, exec (.resendPkt k) s = .next t ∧ t.mem = s.mem ∧ t.pages = s.pages
        ∧ Claims.TakesPacket s t k ∧ { x with due := some (s.now + r.pace) } ∈ t.keptOf p.dst
        ∧ (t.req p.dst).pace = Nat.min 4096 (2 * r.pace))
      ∧ (s.keptFor p.dst p = none → unasked (.resendPkt k)))
    ∧ (Claims.Arrives s k .ownernak p u → ∀ e, p.life = r.life → r.entry p.tag = some e → s.keptFor p.dst p = none →
        r.stall = none → p.guest ∉ r.refusals → s.mayServe p.part (s.movedTo p.part p.guest p.phys) = false →
        (∀ z, agentPage p.dst = some z → (s.page z.1).status = .used) →
        ∃ t, exec (.ownernakPkt k) s = .next t ∧ (t.req p.dst).kept = r.kept
          ∧ ((s.vf (s.vfOfAgent p.dst)).eq.log = 0 → t.mem = s.mem ∧ (t.req p.dst).stall = some (.owner p.guest))
          ∧ ((t.req p.dst).stall = some (.owner p.guest)
            ∨ (64 ≤ (s.vf (s.vfOfAgent p.dst)).eq.held.length ∧ (t.req p.dst).stall = some .event))
          ∧ (t.req p.dst).entry p.tag = some { e with refused := some p.guest })

/-! ## The network (R292, R319 to R334, R393, R412, R452) -/

/-- A packet on a link: the fields of its header where R319 places them, its reserved bits zero, TAG with the port number of
a port agent above the tag; then, where the operation names memory, an address word with slot and generation above the
offset; and the operations' codes (R318, R319, R321). -/
def Claims.WireFormat : Prop :=
  (∀ k : Packet,
    let h := k.header
    let a := k.requester
    h.extractLsb' 116 12 = k.dmod.getD Config.moduleNumber ∧ h.extractLsb' 104 12 = k.smod.getD Config.moduleNumber
      ∧ h.extractLsb' 101 3 = BitVec.ofNat 3 k.dst.bay
      ∧ h.extractLsb' 92 9 = BitVec.ofNat 9 k.dst.code ∧ h.extractLsb' 89 3 = BitVec.ofNat 3 k.src.bay
      ∧ h.extractLsb' 80 9 = BitVec.ofNat 9 k.src.code ∧ h.extractLsb' 74 6 = BitVec.ofNat 6 k.part
      ∧ h.extractLsb' 68 6 = k.op.code ∧ h.extractLsb' 52 16 = k.seq ∧ h.extractLsb' 40 10 = BitVec.ofNat 10 k.tag
      ∧ h.extractLsb' 31 9 = BitVec.ofNat 9 k.len ∧ h.extractLsb' 29 2 = BitVec.ofNat 2 k.cls
      ∧ h.getLsbD 28 = k.trim ∧ h.getLsbD 27 = !k.vec.isEmpty ∧ h.extractLsb' 16 11 = 0
      ∧ (a.code < 432 → a.code % 8 = 1 ∨ a.code % 8 = 2 → h.extractLsb' 50 2 = BitVec.ofNat 2 a.sub)
      ∧ k.wire.take 16 = toBytes 16 h.toNat
      ∧ (k.op = .read ∨ k.op = .write ∨ k.op = .atomic → k.vec = [] → (k.wire.drop 16).take 8 = toBytes 8 k.addrWord.toNat
        ∧ k.addrWord.extractLsb' 0 40 = BitVec.ofNat 40 k.off ∧ k.addrWord.extractLsb' 40 16 = BitVec.ofNat 16 k.slot
        ∧ k.addrWord.extractLsb' 56 8 = BitVec.ofNat 8 k.gen)
      ∧ (k.op = .write → k.vec = [] → k.wire.length = 24 + 74 * k.blocks.length))
  ∧ ∀ op n, (op, n) ∈ [(PktOp.read, 0x01), (.write, 0x03), (.atomic, 0x04), (.data, 0x08), (.aresp, 0x09), (.ack, 0x0A),
      (.resend, 0x0B), (.ownernak, 0x0C), (.abandon, 0x0D), (.span, 0x10), (.spanack, 0x11), (.spanresend, 0x12),
      (.move, 0x18), (.coll, 0x19)] → op.code = n

/-- Bytes that stand in the queue of a class at an output. -/
def Claims.Queued (s : State) (o c : Nat) : Nat := ((s.queuePkts o c).map fun x => x.2.bytes).sum

/-- A packet at its source, retained there where it is to be, whose next output has no injection control and room: it
joins the queue of its class there; above 3/4 of the capacity one of a class other than C0 whose partition is furthest
over its share is trimmed instead, and joins C0 with no payload where C0 has room. One without room, of C0 or with no payload, stays where it is; before a failed output it takes another route, or is lost at a span link. What a packet weighs is
counted once (R322 to R325, R332, R393, R412, R452). -/
def Claims.OutputQueues : Prop :=
  ∀ (s : State) (k o : Nat) (p : Packet) (path : List Nat), fget s.packets k = some p → p.path = o :: path →
    p.at_ = none → (s.out o).inject = 0 → p.malformed = false → (s.retain p).isSome = true →
      let used := Claims.Queued s o p.cls
      let q (t : State) (c : Nat) : List Nat := ((t.out o).queues.toList[c]?).getD []
      let moved : Packet := { p with path := path, metered := true, at_ := some o }
      ((s.out o).failed = true → o < 64 → exec (.packetAtOutput k) s =
        .next { s with packets := fput s.packets k { p with path := s.pathFrom (o / 8) p } })
      ∧ ((s.out o).failed = true → 64 ≤ o → ∃ t, exec (.packetAtOutput k) s = .next t ∧ t.mem = s.mem ∧ fget t.packets k = none)
      ∧ ((s.out o).failed = false →
        (used = 0 ∨ used + p.bytes ≤ Config.queueCapacity → (p.cls = 0 ∨ (p.op = .read ∨ p.len = 0)
            ∨ 4 * used ≤ 3 * Config.queueCapacity) →
          ∃ t, exec (.packetAtOutput k) s = .next t ∧ t.mem = s.mem ∧ t.pages = s.pages ∧ fget t.packets k = some moved
            ∧ q t p.cls = q s p.cls ++ [k] ∧ ∀ n, n ≠ k → fget t.packets n = fget s.packets n)
        ∧ (p.cls ≠ 0 → p.op ≠ .read → 0 < p.len → 3 * Config.queueCapacity < 4 * used → s.mostOver o p.cls p = p.part →
          (Claims.Queued s o 0 = 0 ∨ Claims.Queued s o 0 + p.trimmed.bytes ≤ Config.queueCapacity →
            ∃ t, exec (.packetAtOutput k) s = .next t ∧ t.mem = s.mem ∧ t.pages = s.pages
              ∧ fget t.packets k = some { moved with trim := true, len := 0, cls := 0, blocks := [], words := [] }
              ∧ q t 0 = q s 0 ++ [k] ∧ q t p.cls = q s p.cls ∧ (t.out o).trims = (s.out o).trims + 1
              ∧ (t.part p.part).shavsent = (s.part p.part).shavsent + 1)
          ∧ (Config.queueCapacity < Claims.Queued s o 0 + p.trimmed.bytes → Claims.Queued s o 0 ≠ 0 →
            exec (.packetAtOutput k) s = .next s))
        ∧ (Config.queueCapacity < used + p.bytes → used ≠ 0 → (p.cls = 0 ∨ (p.op = .read ∨ p.len = 0)) →
          exec (.packetAtOutput k) s = .next s))

/-- A retained copy, or an entry of the reorder window, whose time has come is sent again while fewer than 8
re-requests are out, and is due no longer; nothing is sent before. A request unanswered for 2 ms from its last sending fails unless it is due: an entry takes a
failure, which its launch reports as LINKERR, and a core that waits for it goes on; a retained write is abandoned. While its
requester, or the core it belongs to, is stalled nothing times out (R327, R328, R412). -/
def Claims.Repeats : Prop :=
  ∀ (s : State) (a : AgentId) (n tag : Nat), ¬ Claims.SpanPort a →
    let r := s.req a
    ((∀ x d, r.kept[n]? = some x → x.due = some d → (r.rereq < 8 ∨ x.pkt.retry = true) →
        (s.now < d → exec (.retransmit a n) s = .next s)
        ∧ (d ≤ s.now → ∃ t q, exec (.retransmit a n) s = .next t ∧ t.mem = s.mem ∧ t.pages = s.pages
          ∧ fget t.packets s.fresh = some q ∧ q.retry = true ∧ q.trim = false ∧ q.seq = x.pkt.seq ∧ q.dst = x.pkt.dst
          ∧ q.blocks = x.pkt.blocks ∧ (t.req a).kept = r.kept.set n { x with due := none, sent := s.now, pkt := { x.pkt with retry := true } }
          ∧ (t.part x.pkt.part).resends = (s.part x.pkt.part).resends + 1))
      ∧ ∀ e d, r.win[n - r.kept.length]? = some e → r.kept.length ≤ n → e.due = some d → d ≤ s.now →
        (r.rereq < 8 ∨ e.pkt.retry = true) →
        ∃ t q, exec (.retransmit a n) s = .next t ∧ t.mem = s.mem ∧ t.pages = s.pages
          ∧ fget t.packets s.fresh = some q ∧ q.retry = true ∧ q.tag = e.pkt.tag ∧ q.dst = e.pkt.dst ∧ q.phys = e.pkt.phys)
    ∧ (8 ≤ r.rereq → (∀ x, r.kept[n]? = some x → x.pkt.retry = false) →
      (∀ e, r.kept.length ≤ n → r.win[n - r.kept.length]? = some e → e.pkt.retry = false) →
        exec (.retransmit a n) s = .next s)
    ∧ (r.stall ≠ none ∨ (∃ g st, agentPage a = some (g, 0) ∧ (s.page g).core.wait = some (.stall st)) →
      exec (.responseTimeout a tag) s = .next s)
    ∧ (r.stall = none → (∀ g st, agentPage a = some (g, 0) → (s.page g).core.wait ≠ some (.stall st)) →
      (∀ e, r.entry tag = some e → e.due ≠ none → exec (.responseTimeout a tag) s = .next s)
      ∧ (∀ e, r.entry tag = some e → e.got = none → e.due = none → e.sent + 3200000 ≤ s.now →
        ∃ t, exec (.responseTimeout a tag) s = .next t ∧ t.mem = s.mem
          ∧ (t.req a).entry tag = some { e with got := some ([], [], 2), failed := true }
          ∧ (∀ g, agentPage a = some (g, 0) → (s.page g).core.wait = some (.resp tag) →
            (∀ x, (s.trussOfAgent a).bind (fget s.trusses) = some x → x.fork = none) →
            (t.page g).core = { (s.page g).core with wait := none, failed := true })
          ∧ ∀ x l, (s.trussOfAgent a).bind (fget s.trusses) = some x → x.fork = none → fget s.launches x.launch = some l →
            l.failure = none → ∃ l', fget t.launches x.launch = some l' ∧ (l'.failure.map Prod.fst) = some 0x0A)
      ∧ (r.entry tag = none → ∀ x, r.kept.find? (fun y => decide (y.seq.toNat = tag) && y.due.isNone
            && decide (y.sent + 3200000 ≤ s.now)) = some x →
        x.pkt.op = .write ∨ x.pkt.op = .atomic →
        ∃ t q, exec (.responseTimeout a tag) s = .next t ∧ t.mem = s.mem
          ∧ ((∀ z, (s.trussOfAgent a).bind (fget s.trusses) = some z → z.fork = none) → t.pages = s.pages)
          ∧ (r.unsent = [] → (t.req a).kept = r.kept.erase x)
          ∧ fget t.packets s.fresh = some q ∧ q.op = .abandon ∧ q.seq = x.seq ∧ q.n = x.pkt.n ∧ q.dst = homeAgent x.home))

/-- A packet that fails its check at a link is repeated, up to seven times; then the link is failed, its error
counted, the packet lost, and each behind it takes a route anew. The scrub of a bay counts the soft errors it
corrects and those it cannot, makes each uncorrectable block of its own HBM4 POISON, and fails nothing (R409 to R412,
R452). -/
def Claims.Errors : Prop :=
  ∀ (s : State) (k o b n : Nat) (p : Packet) (bad : List Nat),
    (fget s.packets k = some p → p.at_ = some o → o / 8 ≠ o % 8 → o < 64 → (s.out o).failed = false →
      ((s.out o).replays < 7 → exec (.linkReplay k) s = .next (s.setOut o { s.out o with replays := (s.out o).replays + 1 }))
      ∧ (7 ≤ (s.out o).replays → ∃ t, exec (.linkReplay k) s = .next t ∧ t.mem = s.mem ∧ t.pages = s.pages
        ∧ (t.out o).failed = true ∧ (t.out o).errors = (s.out o).errors + 1 ∧ fget t.packets k = none
        ∧ (∀ c, c < 3 → (t.out o).queues.toList[c]? = some [])
        ∧ ∀ i q, i ≠ k → fget s.packets i = some q → i ∈ (s.out o).queues.toList.flatten →
          ∃ path, fget t.packets i = some { q with at_ := none, path := path }))
    ∧ ∃ t, exec (.backgroundScrub b n bad) s = .next t ∧ t.pages = s.pages ∧ t.launches = s.launches
      ∧ (t.bay b).errors = (s.bay b).errors
        + BitVec.ofNat 64 (n + (bad.filter fun x => decide (homeBay (x * 64) = b)).length)
      ∧ ∀ x, (x ∈ bad ∧ homeBay (x * 64) = b →
          t.mem.block (.hbm (x * 64)) = ((s.mem.block (.hbm (x * 64))).1, descPoison))
        ∧ (¬ (x ∈ bad ∧ homeBay (x * 64) = b) → t.mem.block (.hbm (x * 64)) = s.mem.block (.hbm (x * 64)))

/-- A packet of another unit at its destination: one of a span port that goes to another module leaves over its link and is
metered there; SPAN is acknowledged, MOVE and COLL too, each asked for again when
its payload was trimmed; SPANACK ends the source's retention of the message, SPANRESEND makes it due again after the pacing
wait (R321, R325 to R327). -/
def Claims.UnitPackets : Prop :=
  ∀ (s u : State) (k : Nat) (p : Packet),
    (∀ i op no yes, (i, op, no, yes) ∈ [(Instr.spanPkt k, PktOp.span, PktOp.spanresend, PktOp.spanack),
        (.movePkt k, .move, .resend, .ack), (.collPkt k, .coll, .resend, .ack)] → Claims.Arrives s k op p u →
        (op = .span → p.dmod = none) →
      ∃ t q, exec i s = .next t ∧ t.mem = s.mem ∧ t.pages = s.pages ∧ Claims.Answers s t k q
        ∧ Claims.RepliesTo p q (if p.trim then no else yes) 0)
    ∧ (∀ i op, (i, op) ∈ [(Instr.spanPkt k, PktOp.span), (.spanackPkt k, .spanack), (.spanresendPkt k, .spanresend)] →
        Claims.Arrives s k op p u → p.dmod ≠ none →
          ∃ t, exec i s = .next t ∧ t.mem = s.mem ∧ t.pages = s.pages ∧ Claims.TakesPacket s t k ∧ t.reqs = u.reqs
            ∧ (p.part < 48 → fgetD t.meters (16 * p.part + 10) 0 = fgetD u.meters (16 * p.part + 10) 0 + BitVec.ofNat 64 p.bytes))
    ∧ (Claims.Arrives s k .spanack p u → p.dmod = none → Claims.SpanPort p.dst → (∀ z ∈ s.reqs, z.2.unsent = []) →
      ∀ x, s.keptFor p.dst p = some x → ∃ t, exec (.spanackPkt k) s = .next t ∧ t.mem = s.mem ∧ t.pages = s.pages
        ∧ Claims.TakesPacket s t k ∧ t.keptOf p.dst = (s.keptOf p.dst).erase x)
    ∧ (Claims.Arrives s k .spanresend p u → p.dmod = none → ∀ x, s.keptFor p.dst p = some x →
        ∃ t, exec (.spanresendPkt k) s = .next t ∧ t.mem = s.mem ∧ t.pages = s.pages ∧ Claims.TakesPacket s t k
          ∧ { x with due := some (s.now + (s.req p.dst).pace) } ∈ t.keptOf p.dst
          ∧ (t.req p.dst).pace = Nat.min 4096 (2 * (s.req p.dst).pace))

/-- What the network does. -/
def Obligations.NetworkResults : Prop :=
  Claims.WireFormat ∧ Claims.OutputQueues ∧ Claims.Repeats ∧ Claims.Errors ∧ Claims.UnitPackets

/-! ## Ports and engines at work (R144 to R156, R265, R317, R330, R360, R438) -/

/-- The data of a load's point: each slot inside the tensor holds the bytes at its place in the point's blocks; each
outside holds PADV, or is invalid where the stream has no PAD (R144). -/
def Claims.PointLanes : Prop :=
  ∀ (d : List Byte) (g : Geo) (n : Nat) (bs : List (Nat × BlockW)) (j : Nat),
    let w := fmtBytes (streamFmt d g)
    let c := dCoord d n
    let r := pointData d g n bs
    j < 64 / w →
      (∀ o b, slotOff g c j = some o → bs.find? (fun z => z.1 == o / 64) = some b →
        dataBytes r.1 (j * w) w = dataBytes b.2.data (o % 64) w)
      ∧ (slotOff g c j = none → dPad d = true → dataBytes r.1 (j * w) w = dPadv d % 2 ^ (8 * w))
      ∧ (slotOff g c j = none → dPad d = false → r.2.getLsbD (j * w / 4) = false)
      ∧ ((∀ k, k < 64 / w → k * w / 4 = j * w / 4 → slotOff g c k ≠ none ∨ dPad d = true) →
        r.2.getLsbD (j * w / 4) = true)

/-- A load port with room, whose reads ahead stand as in `r`: a token left of an ended stream comes first; else the head
point's, once its blocks are in: its token is announced by the burst in force and carries the point's lanes, and the
point is done; with no burst in force the burst's SCALE token comes first. With four tokens queued nothing comes
(R84, R144, R146, R148, R265, R330). -/
def Claims.Deliveries : Prop :=
  ∀ (s : State) (p k : Nat), s.fabricRuns p = true → k < 4 →
    let r := if s.inMove p then s else issueAhead p k 64 s
    let y := (r.page p).port k
    (4 ≤ y.queue.length → exec (.loadPortDeliver p k) s = .next r)
    ∧ (y.queue.length < 4 → ∀ tok rest, y.rest = tok :: rest → ∃ t, exec (.loadPortDeliver p k) s = .next t
      ∧ (t.page p).port k = { y with rest := rest, queue := y.queue ++ [tok] } ∧ t.mem = r.mem)
    ∧ (y.queue.length < 4 → y.rest = [] → ∀ x tr (es : List WinEntry) (ws : List BlockW) (d : Desc), y.act = some x →
      r.trussOf p = some tr → x.pos < x.issued →
        let g := r.streamGeo tr.part x
        let bs := pointBlocks x.bytes g x.pos
        (x.tags.take bs.length).filterMap (r.req (portAgent p k)).entry = es →
        es.map WinEntry.got = ws.map (fun w => some ([w], [], 0)) → (∀ e ∈ es, e.failed = false) → ws ≠ [] →
        (∀ w ∈ ws, w.desc = d) → fmtListed (fmtOf d) = true →
        (dFmt x.bytes = 0xFF#8 ∨ fmtOf d = dFmt x.bytes ∨ fmtOf d = 0#8 ∨ fmtOf d = 0x0E#8) →
          (∀ b, y.burst = some b → mkDesc b.scale b.fmt = d → b.blen = dBlen x.bytes % 64 →
            ∃ t tok, exec (.loadPortDeliver p k) s = .next t ∧ t.mem = r.mem
              ∧ ((t.page p).port k).queue = y.queue ++ [tok] ∧ ((t.page p).port k).count = y.count + 1
              ∧ (((t.page p).port k).act.map Stream.pos) = some (x.pos + 1)
              ∧ tok.kind = 0 ∧ tok.data = (pointData x.bytes g x.pos (bs.zip ws)).1
              ∧ tok.valid = (pointData x.bytes g x.pos (bs.zip ws)).2)
          ∧ (y.burst = none → ∃ t tok, exec (.loadPortDeliver p k) s = .next t ∧ t.mem = r.mem
              ∧ ((t.page p).port k).queue = y.queue ++ [tok] ∧ ((t.page p).port k).count = y.count
              ∧ ((t.page p).port k).act = y.act ∧ tok.kind = 1
              ∧ ((t.page p).port k).burst.map (fun b => (b.fmt, b.scale, b.blen))
                = some (fmtOf d, scaleOf d, dBlen x.bytes % 64)))

/-- A store port takes the token at its head: SCALE opens a burst, once there is a stream or tokens are discarded; DATA
of an active stream is one walk point, whose bytes for a block join what the port gathers, under the burst's descriptor;
DATA to be discarded is dropped; CONFIG and COMMAND are misplaced, and the truss fails with CONFIG_INVALID, no memory
being written (R82, R144, R146, R257, R266, R285, R286). -/
def Claims.Acceptances : Prop :=
  ∀ (s : State) (p k : Nat) (tok : Token) (rest : List Token), s.fabricRuns p = true → 4 ≤ k → k < 8 →
    ((s.page p).port k).queue = tok :: rest →
      let y := (s.page p).port k
      (tok.kind = 1 → y.act = none → y.discard = false → exec (.storePortAccept p k) s = .next s)
      ∧ (tok.kind = 1 → y.act.isSome = true ∨ y.discard = true → ∃ t, exec (.storePortAccept p k) s = .next t ∧ t.mem = s.mem
        ∧ (t.page p).port k = { y with queue := rest, burst := some (burstOf tok) })
      ∧ (tok.kind = 2 → ∀ h w ws, tok.words = (h, w) :: ws → exec (.storePortAccept p k) s = .next
          ((s.modPort p k fun z => { z with queue := rest }).failTruss (s.page p).truss 3 (bits w.toNat 18 12) (s.page p).ix))
      ∧ (tok.kind = 3 → exec (.storePortAccept p k) s = .next
          ((s.modPort p k fun z => { z with queue := rest }).failPage p 3 (56 + k % 4)))
      ∧ (tok.kind = 0 → y.discard = true → ∃ t, exec (.storePortAccept p k) s = .next t ∧ t.mem = s.mem
        ∧ ((t.page p).port k).queue = rest ∧ ((t.page p).port k).buf = y.buf ∧ ((t.page p).port k).count = y.count)
      ∧ (tok.kind = 0 → y.discard = false → tok.valid ≠ 0 → tok.out = false → tok.lost = false → y.buf = [] →
        ∀ x tr b blk ph u, y.act = some x → s.trussOf p = some tr → x.pos < dPoints x.bytes → y.burst = some b →
          b.poison = false → b.fmt ≠ 0#8 → (dFmt x.bytes = 0xFF#8 ∨ b.fmt = dFmt x.bytes) →
            let g := s.streamGeo tr.part x
            let w := fmtBytes b.fmt
            let r := s.req (portAgent p k)
            let c := dCoord x.bytes x.pos
            let tok' : Token := { tok with valid := tok.valid &&& storeLanes x.bytes g c w (64 / w) }
            let z := tokenBlock g c w (64 / w) blk tok'
            w ≤ g.width → r.stall = none → r.kept.length + r.unsent.length ≤ 30 →
            ((tokenBlocks g c w (64 / w)).filter fun b => decide ((tokenBlock g c w (64 / w) b tok').2 ≠ 0)) = [blk] →
            storeXlate p k x tr g [blk] s = (.ok [(blk, some ph)], u) →
              ∃ t, exec (.storePortAccept p k) s = .next t ∧ t.mem = s.mem ∧ ((t.page p).port k).queue = rest
                ∧ ((t.page p).port k).count = y.count + 1 ∧ (((t.page p).port k).act.map Stream.pos) = some (x.pos + 1)
                ∧ ((t.page p).port k).buf = [⟨ph, z.1, mkDesc b.scale b.fmt, z.2, 1⟩])

/-- A stream that has finished leaves its port: the pending one is active from its start, its core sees the event, and
the completion token that its descriptor asks for joins crx, outside every burst, with the port's code and the count of
points; while crx has no room the stream stays. What a stopped stream still owes goes first (R147, R148, R156, R265). -/
def Claims.Finishes : Prop :=
  ∀ (s : State) (p k : Nat) (x : Stream) (tr : Truss), s.fabricRuns p = true → k < 8 → s.trussOf p = some tr →
    ((s.page p).port k).act = some x → ((s.page p).port k).buf = [] → s.streamDone p k = true →
      let y := (s.page p).port k
      let crx := (s.page p).crx
      let held := (s.page p).crxHeld
      (∀ sc tok os, y.owed = (sc, tok) :: os → tok.kind = 0 →
        (4 ≤ held → exec (.streamFinish p k) s = .next s)
        ∧ (held < 4 → k < 4 ∨ s.completeAtScope (portAgent p k) sc = true → ∃ t, exec (.streamFinish p k) s = .next t
          ∧ t.mem = s.mem ∧ ((t.page p).port k).owed = os ∧ ((t.page p).port k).act = some x
          ∧ (t.page p).crx = crx ++ [tok]))
      ∧ (y.owed = [] → dCrx x.bytes = true → 4 ≤ held → exec (.streamFinish p k) s = .next s)
      ∧ (y.owed = [] → dCrx x.bytes = false ∨ held < 4 → ∃ t, exec (.streamFinish p k) s = .next t
        ∧ ((t.page p).port k).act = y.pend ∧ ((t.page p).port k).pend = none ∧ (t.page p).core.event = true
        ∧ ((t.page p).port k).count = (if y.pend = none then y.count else 0)
        ∧ (((s.part tr.part).slot x.slot).state ≠ 2 → t.mem = s.mem)
        ∧ (dCrx x.bytes = false → (t.page p).crx = crx)
        ∧ (dCrx x.bytes = true → ∃ tok, (t.page p).crx = crx ++ [tok] ∧ tok.kind = 0 ∧ tok.out = true ∧ tok.valid = 3
          ∧ (tok.data.extractLsb' 0 8).toNat = k ∧ tok.data.extractLsb' 32 32 = y.count))

/-- What ports do. -/
def Obligations.PortResults : Prop := Claims.PointLanes ∧ Claims.Deliveries ∧ Claims.Acceptances ∧ Claims.Finishes

/-- A COMMAND token at a page's cmd port goes to the engine chosen, behind its commands, and waits while none can take
it; a malformed one fails the truss with CONFIG_INVALID, and completes FAILED where its lane 3 asks for a token. A command whose blocks are all written, and acknowledged,
leaves its engine: a written tile is FULL, one that was only read EMPTY, and its ticket reads OK, MIX where a block's
descriptors differed, or the failure, with the rows it skipped; while its writes are not complete nothing changes. Its
destination blocks are taken in an order the model leaves free, each once. A block from tile to tile is composed of the
elements of the command's plan; where R152 leaves open which of several sources an element is of, it is one of them (log 28)
(R18, R150 to R156). -/
def Claims.Commands : Prop :=
  (∀ (s : State) (p : Nat) (tok : Token) (rest : List Token) (tr : Truss), s.fabricRuns p = true → s.inMove p = false →
    (s.page p).cmd = tok :: rest → s.trussOf p = some tr → tok.kind = 3 →
      (∀ op sel addr crx g, tok.packet = some (op, sel, addr, crx) → s.chooseEngine (bayOf p) op sel = some g →
        ∃ t c, exec (.engineTakeCommand p) s = .next t ∧ t.mem = s.mem ∧ (t.page p).cmd = rest
          ∧ (fgetD t.engines g Engine.reset).cmds = (fgetD s.engines g Engine.reset).cmds ++ [c]
          ∧ c.op = op ∧ c.page = p ∧ c.ticket = none ∧ c.crx = crx ∧ c.idx = [BitVec.ofNat 64 addr] ∧ c.part = tr.part)
      ∧ (∀ op sel addr crx, tok.packet = some (op, sel, addr, crx) → s.chooseEngine (bayOf p) op sel = none →
        exec (.engineTakeCommand p) s = .next s)
      ∧ (tok.packet = none →
        let asks := tok.lanesUsed = 4 ∧ (lane tok.data 3).getLsbD 0 = true
        (¬ asks → exec (.engineTakeCommand p) s =
          .next ((s.setPage p { s.page p with cmd := rest }).cfgInvalid (s.page p).truss (s.cmdElem p)))
        ∧ (asks → 4 ≤ (s.page p).crxHeld → exec (.engineTakeCommand p) s = .next s)
        ∧ (asks → (s.page p).crxHeld < 4 → ∃ t k, exec (.engineTakeCommand p) s = .next t ∧ t.mem = s.mem ∧ (t.page p).cmd = rest
          ∧ (t.page p).crx = (s.page p).crx ++ [k] ∧ k.kind = 0 ∧ k.out = true ∧ k.data.extractLsb' 0 16 = 0x030A#16)))
  ∧ ∀ (s : State) (b g : Nat) (c : EngCmd) (more : List EngCmd) (tr : Truss), g ≤ 5 →
    (fgetD s.engines (b * 8 + g) Engine.reset).cmds = c :: more → fget s.trusses c.truss = some tr →
    (s.req (engAgent (b * 8 + g))).stall = none → c.crx = false → c.bytes ≠ [] →
      let st := if c.status ≠ 0 then c.status else if c.mix then 5 else 1
      (c.draining = true → s.completeAtScope (engAgent (b * 8 + g)) 2 = false →
        exec (.engineCommandComplete b g) s = .next s)
      ∧ (c.draining = true → s.completeAtScope (engAgent (b * 8 + g)) 2 = true →
        ∃ t, exec (.engineCommandComplete b g) s = .next t
          ∧ (fgetD t.engines (b * 8 + g) Engine.reset).cmds = more
          ∧ (∀ n, c.ticket = some n → (t.page c.page).core.tickets = ((s.page c.page).core.setTicket n st).tickets
            ∧ fgetD (t.page c.page).core.skips n 0 = c.skipped ∧ (t.page c.page).core.event = true)
          ∧ (∀ x q e n, s.engSides c.op c.bytes tr ((b * 8 + g) / 8) = some (x, .plate q e n) →
            ((t.page q).tile e n).state = 1 ∧ ∀ q' e' n', x = .plate q' e' n' → e' < 64 → n' < 64 → e < 64 → n < 64 →
              (q', e', n') ≠ (q, e, n) → ((t.page q').tile e' n').state = 0))
      ∧ (∀ x y, c.draining = false → c.op < 3 → (c.op = 0 ∨ gNidx c.bytes ≤ c.idx.length) →
        s.engSides c.op c.bytes tr b = some (x, y) → c.order[c.pos]? = none →
          ∃ t d, exec (.engineCommandComplete b g) s = .next t ∧ t.mem = s.mem ∧ t.pages = s.pages
            ∧ (fgetD t.engines (b * 8 + g) Engine.reset).cmds = d :: more
            ∧ (c.rest y (c.plan x y).1 = [] → d.draining = true ∧ d.order = c.order)
            ∧ (c.rest y (c.plan x y).1 ≠ [] → ∃ k ∈ c.rest y (c.plan x y).1, d = { c with order := c.order ++ [k] }))
      ∧ (∀ q e n q' e' n' blk, c.draining = false → c.op < 3 → (c.op = 0 ∨ gNidx c.bytes ≤ c.idx.length) →
        s.engSides c.op c.bytes tr b = some (.plate q e n, .plate q' e' n') →
          let elw := gElw c.op c.bytes
          let x : Side := .plate q e n
          let y : Side := .plate q' e' n'
          let pl := c.plan x y
          c.order[c.pos]? = some blk →
            let ps := lastPairs y elw blk pl.1
            let mine := pl.1.filter fun z => decide (y.off elw z.2 / 64 = blk)
            ∃ t l src, exec (.engineCommandComplete b g) s = .next t ∧ t.mem = s.mem
              ∧ (∀ z ∈ src, z.2 = ((s.page q).tile e n).block z.1) ∧ (∀ z ∈ l, x.off elw z.1 / 64 ∈ src.map Prod.fst)
              ∧ l.length = ps.length ∧ (∀ (i : Nat) (z w : Nat × Nat), ps[i]? = some z → l[i]? = some w →
                w.2 = z.2 ∧ w.1 ∈ openSources c.op (sameSide x y) pl.1 mine z)
              ∧ ((q, e, n) ≠ (q', e', n') → (c.op = 0 → (pl.1.map Prod.snd).Nodup) → l = ps)
              ∧ ((t.page q').tile e' n').block blk
                = (applyWrite (((s.page q').tile e' n').block blk)
                    ⟨.hbm 0, (composeBlock x y elw l src).1, (composeBlock x y elw l src).2.2.1,
                      (composeBlock x y elw l src).2.1, 2⟩).1
              ∧ ((fgetD t.engines (b * 8 + g) Engine.reset).cmds.map EngCmd.pos) = (c.pos + 1) :: more.map EngCmd.pos)

/-- A reduce group waits for its P contributions. Even ones of distinct ranks give every participant's command the
combination of their values, position by position in ascending rank, to write; others complete FAILED with nothing
written, and so do those that come later, up to the largest P that one of them has named (log 109). Either way the contributions
are taken (R154, R360). -/
def Claims.Reductions : Prop :=
  ∀ (s : State) (pid g : Nat) (q : BitVec 64) (x : Contribution) (xs : List Contribution), s.groupOf pid g q = x :: xs →
    let l := x :: xs
    let even := ∀ y ∈ l, y.p = x.p ∧ y.op = x.op ∧ y.count = x.count ∧ y.fmt = x.fmt
    let same (y : Contribution) (c : EngCmd) : Prop :=
      c.op = 3 ∧ c.page = y.page ∧ c.ticket = y.ticket ∧ c.phase = 1 ∧ gGroup c.bytes = y.group ∧ gSeq c.bytes = y.seq
        ∧ gRank c.bytes = y.rank
    let key (z : Nat × Nat × Word × Nat) : Bool := z.1 == pid && z.2.1 == g && z.2.2.1 == q
    let dead := (s.deadGroups.find? key).map fun z => z.2.2.2
    (even → (l.map Contribution.rank).Nodup → dead = none → l.length < x.p → exec (.reduceCombine pid g q) s = .next s)
    ∧ (even → (l.map Contribution.rank).Nodup → dead = none → x.p ≤ l.length →
      let vals := (List.range x.count).map fun k => redcCombine x.op (fmtInt x.fmt) (l.map fun y => (y.vals[k]?).getD none)
      ∃ t, exec (.reduceCombine pid g q) s = .next t ∧ t.mem = s.mem ∧ t.pages = s.pages
        ∧ (∀ c ∈ t.groups, ¬ (c.part = pid ∧ c.group = g ∧ c.seq = q))
        ∧ ∀ y ∈ l, ∀ c ∈ (fgetD s.engines y.eng Engine.reset).cmds, same y c →
          { c with vals := vals, phase := 2, pos := 0 } ∈ (fgetD t.engines y.eng Engine.reset).cmds)
    ∧ (¬ even ∨ ¬ (l.map Contribution.rank).Nodup ∨ dead ≠ none →
      let all := dead.getD ((l.map Contribution.p).foldl Nat.max 0)
      ∃ t, exec (.reduceCombine pid g q) s = .next t ∧ t.mem = s.mem
        ∧ (∀ c ∈ t.groups, ¬ (c.part = pid ∧ c.group = g ∧ c.seq = q))
        ∧ (∀ z ∈ t.deadGroups, key z = true → l.length < all ∧ z.2.2.2 = all - l.length)
        ∧ (l.length < all → (pid, g, q, all - l.length) ∈ t.deadGroups)
        ∧ ∀ y ∈ l, ∀ c ∈ (fgetD s.engines y.eng Engine.reset).cmds, same y c →
          { c with status := 3, draining := true } ∈ (fgetD t.engines y.eng Engine.reset).cmds)

/-- The copy of a panel that a rival has written takes one block each time, in order, from what the parent holds of it
to the panel of the pool; with the last one the view names that panel for its own (R437, R438). -/
def Claims.PanelCopies : Prop :=
  ∀ (s : State) (pid view slot panel g n e a : Nat) (v : View) (p : Phys), fget (s.part pid).views view = some v →
    v.copying.find? (fun o => o.1 == slot && o.2.1 == panel) = some (slot, panel, g, n) →
    (s.xlate 0 pid v.parent slot panel).1 = .leaf e → s.placeOf pid e (64 * n) = .ok p → s.mayServe pid p = true →
    s.guest pid (g * 2 ^ 16 + 64 * n) = .ok a →
      ∃ t, exec (.panelCopy pid view slot panel) s = .next t ∧ t.mem.block (.hbm a) = s.mem.block p
        ∧ (∀ m, m.blk ≠ (Phys.hbm a).blk → t.mem.byte m = s.mem.byte m)
        ∧ (n < 1023 → t.pages = s.pages ∧ ∃ v', fget (t.part pid).views view = some v'
          ∧ v'.copying.find? (fun o => o.1 == slot && o.2.1 == panel) = some (slot, panel, g, n + 1) ∧ v'.overlay = v.overlay)
        ∧ (1023 ≤ n → ∃ v', fget (t.part pid).views view = some v' ∧ v'.overlay = v.overlay ++ [(slot, panel, g)]
          ∧ ∀ o ∈ v'.copying, ¬ (o.1 = slot ∧ o.2.1 = panel))

/-- What engines do with the commands they hold. -/
def Obligations.EngineResults : Prop := Claims.Commands ∧ Claims.Reductions ∧ Claims.PanelCopies

/-! ## Queues and their items (R335 to R339, R344 to R355, R358, R359) -/

/-- A function that has a partition, while the host link is open. -/
def Claims.Attached (s : State) (vf part : Nat) : Prop := (s.vf vf).part = some part ∧ s.start.ready = true

/-- A notification of a queue that holds a slot waits for its scan; of a queue that does not exist it counts in BADNOTE;
beyond offset 8·63 it is ignored. A scan raises TAIL to the oldest notification, or counts it STALE, and takes the
items published from HEAD up: each is the 64 bytes of its ring entry, whose PUB is its number plus one, and of a POISON entry
only PUB is known. A queue that has waited 1 ms for a slot sends one QSTARVE (R335, R336, R339, R344, R354, R355). -/
def Claims.Notifications : Prop :=
  ∀ (s : State) (vf q part : Nat) (v : BitVec 64), Claims.Attached s vf part →
    let k := qKey vf q
    (64 ≤ q → exec (.notifyPageWrite vf q v) s = .next s)
    ∧ (q < 64 → fget s.queues k = none → ∃ t, exec (.notifyPageWrite vf q v) s = .next t ∧ t = { s with vfs := t.vfs }
      ∧ t.vf vf = { s.vf vf with badnote := (s.vf vf).badnote + 1 })
    ∧ ∀ x, fget s.queues k = some x →
      (q < 64 → x.slot = true → ∃ t, exec (.notifyPageWrite vf q v) s = .next t ∧ t = { s with queues := t.queues }
        ∧ fget t.queues k = some { x with notes := x.notes ++ [v] } ∧ ∀ n, n ≠ k → fget t.queues n = fget s.queues n)
      ∧ (x.notes = [] → exec (.scan vf q) s = .next s)
      ∧ (∀ w ws, x.notes = w :: ws → ∃ t y new, exec (.scan vf q) s = .next t ∧ fget t.queues k = some y
        ∧ t.pages = s.pages ∧ y.notes = ws ∧ y.tail = (if x.tail.toNat < w.toNat then w else x.tail)
        ∧ y.stale = (if x.tail.toNat < w.toNat then x.stale else x.stale + 1)
        ∧ y.head.toNat = x.head.toNat + new.length
        ∧ (∀ j i, new[j]? = some i → i.n = x.head.toNat + j ∧ i.n < y.tail.toNat ∧ i.state = .held
          ∧ ∃ b, s.t0Read (s.queuePart k) (qRing x.bytes + 64 * (i.n % qCap x.bytes)) 64 = some b ∧ leAt b 0 8 = i.n + 1
            ∧ ∀ pa, s.t0 (s.queuePart k) (qRing x.bytes + 64 * (i.n % qCap x.bytes)) = some pa →
              i.bytes = if descPoisoned (s.mem.block pa.blk).2 then b.take 8 ++ List.replicate 56 0 else b)
        ∧ (x.stopped = false → (∀ i ∈ x.items, i.state ≠ .done ∧ i.cancel = false) → y.items = x.items ++ new))
      ∧ (∀ since, x.starve = some (since, false) →
        (s.now < since + 1600000 → exec (.qstarve vf q) s = .next s)
        ∧ (since + 1600000 ≤ s.now → (s.sendEvent vf ⟨3, BitVec.ofNat 64 q, 0⟩).1 = true →
          ∃ t, exec (.qstarve vf q) s = .next t ∧ fget t.queues k = some { x with starve := some (since, true) }
            ∧ t.mem = (s.sendEvent vf ⟨3, BitVec.ofNat 64 q, 0⟩).2.mem))

/-- CREATE makes a queue of a descriptor that keeps R345, with nothing in it, not stopped and with no slot; DESTROY takes
one with no item away; RESUME clears a stop and nothing else. QSTAT tells the result: 0 OK, 1 no such queue, 2 bad
descriptor, 3 in use (R345, R347). -/
def Claims.QueueControl : Prop :=
  ∀ (s : State) (vf q part : Nat), Claims.Attached s vf part → q < 64 →
    let k := qKey vf q
    let stat (t : State) (result : Nat) : Prop := (t.vf vf).qstat = BitVec.ofNat 32 (q * 256 + result * 16)
    (fget s.queues k = none →
      (∀ d, s.t0Read part (s.vf vf).qdesc.toNat 64 = some d →
        (qDescOk d = true → ∃ t y, exec (.queueCreate vf q) s = .next t ∧ t.mem = s.mem ∧ fget t.queues k = some y
          ∧ y.bytes = d ∧ y.head = 0 ∧ y.tail = 0 ∧ y.items = [] ∧ y.stopped = false ∧ y.slot = false ∧ stat t 0)
        ∧ (qDescOk d = false → ∃ t, exec (.queueCreate vf q) s = .next t ∧ t = { s with vfs := t.vfs } ∧ stat t 2))
      ∧ ∀ i, i = Instr.queueDestroy vf q ∨ i = Instr.queueResume vf q →
        ∃ t, exec i s = .next t ∧ t = { s with vfs := t.vfs } ∧ stat t 1)
    ∧ ∀ x, fget s.queues k = some x →
      (∃ t, exec (.queueCreate vf q) s = .next t ∧ t = { s with vfs := t.vfs } ∧ stat t 3)
      ∧ (x.items ≠ [] → ∃ t, exec (.queueDestroy vf q) s = .next t ∧ t = { s with vfs := t.vfs } ∧ stat t 3)
      ∧ (x.items = [] → ∃ t, exec (.queueDestroy vf q) s = .next t ∧ fget t.queues k = none ∧ stat t 0
        ∧ t.pages = s.pages)
      ∧ ∃ t, exec (.queueResume vf q) s = .next t ∧ t.mem = s.mem ∧ stat t 0
        ∧ fget t.queues k = some { x with stopped := false } ∧ ∀ n, n ≠ k → fget t.queues n = fget s.queues n

/-- The item at the head of its queue completes: with room in the completion ring its 32-byte record is written there
(number plus one, status with the code of a failure, TAG) and it leaves the queue. One that does not complete OK, and
has no CONTINUE, stops its queue (R339, R346, R352). -/
def Claims.Records : Prop :=
  ∀ (s : State) (k status code : Nat) (detail : Word) (x : Queue) (i : Item) (rest : List Item),
    fget s.queues k = some x → x.items = i :: rest → (∀ j ∈ rest, j.n ≠ i.n ∧ j.state ≠ .done ∧ j.cancel = false) →
      let t := s.finishItem k i.n status code detail
      (x.stopped = false → (status = 0 ∨ iContinue i.bytes = true) → iCtr i.bytes = 0 → s.recordRoom k x i.n = true →
        ∀ u, s.t0Write (s.queuePart k) (qCring x.bytes + 32 * (i.n % qRecs x.bytes))
            (toBytes 8 (i.n + 1) ++ toBytes 8 (status + (if status = 1 then code * 256 else 0)) ++ toBytes 8 (iTag i.bytes)
              ++ toBytes 8 0) = some u →
          t.mem = u.mem ∧ t.pages = s.pages
            ∧ fget t.queues k = some { x with items := rest, recs := x.recs + 1 })
      ∧ (status ≠ 0 → iContinue i.bytes = false → ∃ y, fget t.queues k = some y ∧ y.stopped = true)

/-- The next item to begin is `i`, of queue `q` of a function: it keeps its layout and repeats no live identifier. -/
def Claims.Begins (s : State) (vf q : Nat) (i : Item) : Prop :=
  s.servedNext = some (qKey vf (q % 64), i) ∧ packetOk i.bytes = true
    ∧ s.duplicate (s.queuePart (qKey vf (q % 64))) i.bytes = false

/-- What an item does as it begins. WAIT completes where its word holds VALUE already, and else waits until it does;
SIGNAL adds VALUE to its word as an atomic does at its home; QFENCE completes once every earlier item has; CANCEL reaches the items that TARGET names;
PHASE arrives at its job's phase, FAILED(MALFORMED) where the phase is another or NPART have arrived, CANCELLED where the job
is; NOP
completes. An item that breaks its layout completes FAILED(MALFORMED) (R24, R338, R348, R350, R359). -/
def Claims.Items : Prop :=
  ∀ (s : State) (vf q : Nat) (i : Item),
    let k := qKey vf (q % 64)
    let m := s.markBegun k i.n
    let part := s.queuePart k
    let a := leAt i.bytes 24 8
    let ops := [(1, Instr.launchItem vf q), (2, .graphItem vf q), (3, .waitItem vf q), (4, .signalItem vf q),
      (5, .phaseCommand vf q), (6, .cancelCommand vf q), (8, .nopItem vf q)]
    (s.servedNext = some (k, i) → packetOk i.bytes = false →
      ∀ op, (iCmd i.bytes, op) ∈ ops ∨ (op = .nopItem vf q ∧ (iCmd i.bytes = 0 ∨ 8 < iCmd i.bytes)) →
      exec op s = .next (m.finishItem k i.n 1 1 0))
    ∧ (Claims.Begins s vf q i →
      (iCmd i.bytes = 3 → exec (.waitItem vf q) s = .next (if s.waitMet k i then m.finishItem k i.n 0 0 0 else m))
      ∧ (iCmd i.bytes = 4 → (s.t0 part a).isSome = true → exec (.signalItem vf q) s =
          .next ((m.homeAtomic part a 8 0 [BitVec.ofNat 64 (leAt i.bytes 32 8)]).finishItem k i.n 0 0 0))
      ∧ (iCmd i.bytes = 6 → exec (.cancelCommand vf q) s =
          .next ((m.cancelItems part (a / 2 ^ 60) (a % 2 ^ 60)).finishItem k i.n 0 0 0))
      ∧ (iCmd i.bytes = 5 →
        let u := m.openJob part a
        (a = 0 ∨ u.jobWord part a 16 ≠ leAt i.bytes 32 8 →
          exec (.phaseCommand vf q) s = .next (u.finishItem k i.n 1 1 0))
        ∧ (a ≠ 0 → u.jobWord part a 16 = leAt i.bytes 32 8 →
          (u.jobCancelled part a = true → exec (.phaseCommand vf q) s = .next (u.finishItem k i.n 2 0 0))
          ∧ (u.jobCancelled part a = false → u.jobWord part a 32 = 0 ∨ u.jobWord part a 8 ≤ u.jobWord part a 24 →
            exec (.phaseCommand vf q) s = .next (u.finishItem k i.n 1 1 0))
          ∧ (u.jobCancelled part a = false → u.jobWord part a 32 ≠ 0 → u.jobWord part a 24 < u.jobWord part a 8 →
            exec (.phaseCommand vf q) s = .next (u.t0Put part (a + 24) 8 (u.jobWord part a 24 + 1)))))
      ∧ (iCmd i.bytes = 8 → exec (.nopItem vf q) s = .next (m.finishItem k i.n 0 0 0)))
    ∧ ∀ x, fget s.queues k = some x →
      (x.items.find? (fun j => decide (j.state = .begun) && decide (iCmd j.bytes = 3) && s.waitMet k j) = some i →
        exec (.waitCompletes vf q) s = .next (s.finishItem k i.n 0 0 0))
      ∧ (x.items.find? (fun j => decide (j.state = .begun) && decide (iCmd j.bytes = 7)) = some i →
        ((∀ j ∈ x.items, j.n < i.n → j.state = .done) → exec (.qfence vf q) s = .next (s.finishItem k i.n 0 0 0))
        ∧ ((∃ j ∈ x.items, j.n < i.n ∧ j.state ≠ .done) → exec (.qfence vf q) s = .next s))

/-- A LAUNCH that passes its checks becomes a launch with every truss outstanding and none placed, of the image as it
stands, which with FLOW joins the links of the launch before it; another completes with the code of its check, and one below a
cancelled job CANCELLED, and neither leaves links to join. A GRAPH whose table is
sound becomes a graph of waiting nodes. A node begins as a launch once its predecessors are OK, and completes
FAILED(DEP) once one is not (R24, R92, R349, R350, R356). -/
def Claims.Launches : Prop :=
  ∀ (s : State) (vf q : Nat) (i : Item), Claims.Begins s vf q i →
    let k := qKey vf (q % 64)
    let m := s.markBegun k i.n
    let part := s.queuePart k
    (iCmd i.bytes = 1 →
      (∀ c, m.launchCheck part i.bytes = .error c → exec (.launchItem vf q) s =
        .next ((m.nextLaunch k false none).finishItem k i.n 1 c 0))
      ∧ ∀ img, m.launchCheck part i.bytes = .ok img →
        let u := m.openJob part (leAt i.bytes 56 8)
        (u.jobCancelled part (leAt i.bytes 56 8) = true → exec (.launchItem vf q) s =
          .next (((u.nextLaunch k false none).markCtr part (iCtr i.bytes)).finishItem k i.n 2 0 0))
        ∧ (u.jobCancelled part (leAt i.bytes 56 8) = false → ∃ t l, exec (.launchItem vf q) s = .next t ∧ t.pages = s.pages
        ∧ fget t.launches s.fresh = some l ∧ l.img = img ∧ l.part = part ∧ l.placed = 0
        ∧ l.ntruss = leAt i.bytes 12 2 ∧ l.outst = leAt i.bytes 12 2 ∧ l.args = BitVec.ofNat 64 (leAt i.bytes 40 8)
        ∧ l.failure = none ∧ l.cancel = false ∧ l.prio = iPrio i.bytes ∧ l.graph = none
        ∧ l.joins = (if iFlow i.bytes then (fget s.queues k).bind Queue.lastLaunch else none)
        ∧ ∀ y, fget s.queues k = some y →
          (fget t.queues k).map Queue.lastLaunch = some (some (s.fresh, leAt i.bytes 12 2 - 1))))
    ∧ (iCmd i.bytes = 2 → ∀ tab, m.t0Read part (leAt i.bytes 24 8) (32 * leAt i.bytes 10 2) = some tab →
      let n := leAt i.bytes 10 2
      let ns := ((pieces 32 n tab).zipIdx).map fun z => m.graphNode part n z.2 z.1
      let ids := ns.map fun z => (z.map fun y => iIdent y.1).getD 0
      let cyc := peelNodes n ((ns.zipIdx).map fun z => (z.2, (z.1.map fun y => y.2.1).getD 0))
      let sound := ns.all Option.isSome && cyc.isEmpty && distinct ids && !(ids.any (m.launchNamed part))
      (sound = false → exec (.graphItem vf q) s = .next (m.finishItem k i.n 1 1 0))
      ∧ (sound = true → ∃ t g, exec (.graphItem vf q) s = .next t ∧ t.pages = s.pages ∧ t.launches = s.launches
        ∧ fget t.graphs s.fresh = some g ∧ g.nodes.length = ns.length ∧ g.item = i.n ∧ g.cancel = false
        ∧ ∀ z ∈ g.nodes, z.2.2.2.1 = 0 ∧ some (z.1, z.2.1, z.2.2.1) ∈ ns))

/-- A node of a begun graph: see `Launches`; one whose identifier a live launch holds is MALFORMED, and one below a
cancelled job CANCELLED (R24, R348, R350). -/
def Claims.Nodes : Prop :=
  ∀ (s : State) (vf q n m : Nat) (x : Queue) (i : Item) (g : Graph) (z : List Byte × Word × Nat × Nat × Nat),
    fget s.queues (qKey vf (q % 64)) = some x →
    x.items.find? (fun j => decide (j.n = n) && decide (j.state = .begun) && decide (iCmd j.bytes = 2)) = some i →
    fget s.graphs i.work = some g → g.nodes[m]? = some z →
      let before (j : Nat) (st : Nat → Prop) : Prop := ∀ y, g.nodes[j]? = some y → z.2.1.getLsbD j = true → st y.2.2.2.1
      (z.2.2.2.1 ≠ 0 → exec (.graphNodeBegin vf q n m) s = .next s)
      ∧ (z.2.2.2.1 = 0 → (∃ j y, g.nodes[j]? = some y ∧ z.2.1.getLsbD j = true ∧ y.2.2.2.1 = 3) →
        exec (.graphNodeBegin vf q n m) s = .next (s.skipNode i.work m (1, 7, 0)))
      ∧ (z.2.2.2.1 = 0 → (∀ j, before j (· = 2)) →
        let job := leAt z.1 56 8
        let u := s.openJob g.part job
        (u.jobCancelled g.part job = true → exec (.graphNodeBegin vf q n m) s = .next (u.cancelNode i.work m))
        ∧ (u.jobCancelled g.part job = false → u.launchNamed g.part (iIdent z.1) = true →
          exec (.graphNodeBegin vf q n m) s = .next (u.skipNode i.work m (1, 1, 0)))
        ∧ (∀ c, u.jobCancelled g.part job = false → u.launchNamed g.part (iIdent z.1) = false →
          u.launchCheck g.part z.1 = .error c → exec (.graphNodeBegin vf q n m) s = .next (u.skipNode i.work m (1, c, 0)))
        ∧ ∀ img, u.jobCancelled g.part job = false → u.launchNamed g.part (iIdent z.1) = false →
          u.launchCheck g.part z.1 = .ok img → ∃ t l g', exec (.graphNodeBegin vf q n m) s = .next t ∧ t.pages = s.pages ∧ fget t.launches s.fresh = some l
          ∧ l.img = img ∧ l.graph = some (i.work, m) ∧ l.placed = 0 ∧ l.ntruss = leAt z.1 12 2
          ∧ fget t.graphs i.work = some g' ∧ g'.nodes[m]? = some (z.1, z.2.1, z.2.2.1, 1, s.fresh)
          ∧ ∀ j, j ≠ m → g'.nodes[j]? = g.nodes[j]?)

/-- A phase that NPART participants have reached, with no send unacknowledged, ends: the launches of the job have not
arrived at the next one, and every core of theirs that waits in PHASE goes on. Until then nothing changes, but that a phase that
has been cancelled ends, and of a cancelled job every phase left, once nothing below the job is under way. CANCEL of a launch with
trusses standing marks it (R23, R24, R359). -/
def Claims.PhasesAndCancels : Prop :=
  ∀ (s : State) (pid : Nat) (job : BitVec 64),
    let b := job.toNat
    let w (o : Nat) : Nat := s.jobWord pid b o
    let full := w 24 = w 8 ∧ w 8 ≠ 0
    let quiet := b ≠ 0 ∧ w 32 ≠ 0 ∧ (∀ z ∈ s.spans, ∀ k ∈ z.2, k.pkt.part ≠ pid)
      ∧ ∀ j, s.jobOf pid b = some j → ∀ z ∈ j.sends, s.sendPending z = false
    let ends := full ∧ quiet
    (¬ quiet ∨ (¬ full ∧ s.phaseOff pid b = false) → exec (.phaseEnd pid job) s = .next s)
    ∧ (∀ j, quiet → ¬ full → s.jobOf pid b = some j → j.status = none → j.cancel = true ∨ j.phaseCancel = true →
      exec (.phaseEnd pid job) s =
        .next (if s.jobLive pid b then s else s.endPhases pid b (if j.cancel then w 32 else 1)))
    ∧ (ends → ∃ t, exec (.phaseEnd pid job) s = .next t
      ∧ (∀ id l, fget s.launches id = some l → l.part = pid → l.job = b →
        (∃ l', fget t.launches id = some l' ∧ l'.counted = false ∧ l'.arrived = [])
        ∧ ∀ x tr p, (x, tr) ∈ s.trusses → tr.launch = id → p ∈ s.heldPages x tr →
          (s.page p).core.wait = some (.phase (w 16)) → (t.page p).core.wait = none ∧ (t.page p).core.stage = 2))
    ∧ ∀ id l, fget s.launches id = some l → s.launchTrusses id ≠ [] →
      ∃ l', fget (s.cancelItems l.part 1 l.ident.toNat).launches id = some l' ∧ l'.cancel = true

/-- What queues and their items do. -/
def Obligations.QueueResults : Prop := Claims.Notifications ∧ Claims.QueueControl ∧ Claims.Records
/-- What items do. -/
def Obligations.ItemResults : Prop := Claims.Items ∧ Claims.Launches ∧ Claims.Nodes ∧ Claims.PhasesAndCancels

/-! ## Functions: tensors, views, page requests, registers (R295 to R305, R343, R361 to R363, R401 to R407, R445) -/

/-- TWSTAT after an operation: the slot's generation, the result and BUSY. -/
def Claims.TwStat (t : State) (vf part slot result : Nat) (busy : Bool) : Prop :=
  (t.vf vf).twstat
    = BitVec.ofNat 64 (((t.part part).slot slot).gen.toNat * 256 + result * 16 + (if busy then 1 else 0))

/-- CREATE makes a free slot of the table live where its descriptor is valid, with the slot's generation and no
reference; DESTROY frees a live one, or makes it dead while it is referenced, at the next generation; INVAL drops every
cached translation of the panels named, on every bay, and is busy while an access to them is under way. Results: 1 bad
slot, 2 bad descriptor, 3 in use; while an INVAL is busy, 4 and nothing else. TWBASE and TWSLOTS are written only while
no slot is live or dead (R296 to R299, R304). -/
def Claims.TensorWindow : Prop :=
  ∀ (s : State) (vf slot part : Nat) (v : BitVec 64), Claims.Attached s vf part → slot < 2 ^ 16 →
    let x := (s.part part).slot slot
    let now (t : State) : Slot := (t.part part).slot slot
    ((s.vf vf).twinv = none →
      (slot = 0 ∨ (s.part part).twslots.toNat ≤ slot → ∃ t, exec (.tensorCreate vf slot) s = .next t
        ∧ t = { s with vfs := t.vfs } ∧ Claims.TwStat t vf part slot 1 false)
      ∧ (slot ≠ 0 → slot < (s.part part).twslots.toNat →
        (x.state ≠ 0 → ∃ t, exec (.tensorCreate vf slot) s = .next t ∧ t = { s with vfs := t.vfs }
          ∧ Claims.TwStat t vf part slot 3 false)
        ∧ (x.state = 0 → ∀ d, s.slotBytes part slot = some d →
          (descValid slot d = false → ∃ t, exec (.tensorCreate vf slot) s = .next t ∧ t = { s with vfs := t.vfs }
            ∧ Claims.TwStat t vf part slot 2 false)
          ∧ (descValid slot d = true → ∃ t, exec (.tensorCreate vf slot) s = .next t ∧ t.pages = s.pages
            ∧ (now t).state = 1 ∧ (now t).gen = x.gen ∧ (now t).refs = 0 ∧ Claims.TwStat t vf part slot 0 false
            ∧ ∀ n, n ≠ slot → (t.part part).slot n = (s.part part).slot n)))
      ∧ (slot = 0 ∨ x.state ≠ 1 → ∃ t, exec (.tensorDestroy vf slot) s = .next t ∧ t = { s with vfs := t.vfs }
        ∧ Claims.TwStat t vf part slot 1 false)
      ∧ (slot ≠ 0 → x.state = 1 → ∃ t, exec (.tensorDestroy vf slot) s = .next t ∧ t.pages = s.pages
        ∧ (now t).state = (if x.refs = 0 then 0 else 2) ∧ (now t).gen = x.gen + 1 ∧ (now t).refs = x.refs
        ∧ Claims.TwStat t vf part slot 0 false ∧ ∀ n, n ≠ slot → (t.part part).slot n = (s.part part).slot n)
      ∧ (let first := (s.vf vf).twarg.toNat % 2 ^ 32
        let count := (s.vf vf).twarg.toNat / 2 ^ 32
        ∃ t, exec (.inval vf slot) s = .next t ∧ t.mem = s.mem ∧ t.pages = s.pages
          ∧ ∀ b, ∀ e ∈ (t.bay b).tlb, e ∈ (s.bay b).tlb
            ∧ ¬ (e.part = part ∧ e.slot = slot ∧ first ≤ e.panel ∧ e.panel < first + count)))
    ∧ ((s.vf vf).twinv ≠ none →
      ∀ i, i = Instr.tensorCreate vf slot ∨ i = Instr.tensorDestroy vf slot ∨ i = Instr.inval vf slot →
        ∃ t, exec i s = .next t ∧ t = { s with vfs := t.vfs } ∧ (t.vf vf).twstat.extractLsb' 4 4 = 4)
    ∧ ((∀ z ∈ (s.part part).slots, z.1 = 0 ∨ z.2.state = 0) →
      (∃ t, exec (.tensorTableWrite vf 0 v) s = .next t ∧ t = { s with parts := t.parts }
        ∧ t.part part = { s.part part with twbase := BitVec.ofNat 64 (v.toNat / 64 * 64) })
      ∧ ∀ j, 4 ≤ j → j ≤ 16 → v.toNat = 2 ^ j → ∃ t, exec (.tensorTableWrite vf 8 v) s = .next t
        ∧ t = { s with parts := t.parts } ∧ t.part part = { s.part part with twslots := v })
    ∧ ((∃ z ∈ (s.part part).slots, z.1 ≠ 0 ∧ z.2.state ≠ 0) → ∀ off, off = 0 ∨ off = 8 →
      ∃ t, exec (.tensorTableWrite vf off v) s = .next t ∧ t = { s with vfs := t.vfs }
        ∧ (t.vf vf).twstat.extractLsb' 4 4 = 4)

/-- VPADD adds a panel to the pool, VPTAKE takes the one added first, 0 when none is free; VPABORT of a tag that no world
holds does nothing. GRANT of an outstanding request retires it, and each agent that waited for it goes on where its
panel now translates; FAIL retires it and each one's access fails; an answer to none is counted in LATE. EQCONS is never
lowered (R362, R403 to R406, R445). -/
def Claims.ViewWindow : Prop :=
  ∀ (s : State) (vf part : Nat) (v : BitVec 64) (gen : BitVec 8) (rid granule : BitVec 32), Claims.Attached s vf part →
    let p := s.part part
    (v.toNat % 2 ^ 16 = 0 → v.toNat < 2 ^ 48 → p.pool.length + p.panelsHeld < 65536 → p.starved = [] →
      ∃ t, exec (.vpadd vf v) s = .next t ∧ t = { s with parts := t.parts }
        ∧ t.part part = { p with pool := p.pool ++ [v.toNat / 2 ^ 16] })
    ∧ (v.toNat % 2 ^ 16 ≠ 0 ∨ 2 ^ 48 ≤ v.toNat ∨ 65536 ≤ p.pool.length + p.panelsHeld → exec (.vpadd vf v) s = .next s)
    ∧ (p.pool = [] → exec (.vptake vf) s = .next (s.setVf vf { s.vf vf with rdata := 0 }))
    ∧ (∀ g l, p.pool = g :: l → ∃ t, exec (.vptake vf) s = .next t ∧ t = { s with parts := t.parts, vfs := t.vfs }
      ∧ t.part part = { p with pool := l } ∧ t.vf vf = { s.vf vf with rdata := BitVec.ofNat 64 (g * 2 ^ 16) })
    ∧ (v.toNat < 64 → exec (.vpabort vf v) s = .next (s.abortView part v.toNat 5))
    ∧ (64 ≤ v.toNat ∨ (∀ z ∈ s.forks, ∀ r ∈ z.2.rivals, r.view ≠ v.toNat) → exec (.vpabort vf v) s = .next s)
    ∧ (p.gen ≠ gen ∨ (∀ r ∈ p.reqs, r.rid ≠ rid.toNat) →
      ∀ i, i = Instr.pransGrant vf gen rid ∨ i = Instr.pransFail vf gen rid →
        ∃ t, exec i s = .next t ∧ t = { s with parts := t.parts } ∧ t.part part = { p with prLate := p.prLate + 1 })
    ∧ (∀ r, p.gen = gen → p.reqs.find? (fun r => r.rid == rid.toNat) = some r →
      let u := s.setPart part { p with reqs := p.reqs.filter fun q => q.rid != r.rid }
      ((∀ root, s.rootOf part r.slot = .ok root → s.walk part root r.panel ≠ .fault) →
        exec (.pransGrant vf gen rid) s = .next ((u.requestAgents r).foldl (fun s z => s.restall z.1 none) u))
      ∧ exec (.pransFail vf gen rid) s = .next ((u.requestAgents r).foldl (fun s z => s.failAgent z.1) u))
    ∧ (2 ^ 27 ≤ granule.toNat → ∃ t, exec (.pransFailiso vf gen granule) s = .next t ∧ t = { s with parts := t.parts }
      ∧ t.part part = { p with prBad := p.prBad + 1 })
    ∧ (granule.toNat < 2 ^ 27 →
      let l := s.refusedBy part granule.toNat
      (p.gen ≠ gen ∨ l = [] → ∃ t, exec (.pransFailiso vf gen granule) s = .next t ∧ t = { s with parts := t.parts }
        ∧ t.part part = { p with prLate := p.prLate + 1 })
      ∧ (p.gen = gen → l ≠ [] → exec (.pransFailiso vf gen granule) s = .next (l.foldl (State.failIso granule.toNat) s)))
    ∧ (v.toNat < (s.vf vf).eq.cons.toNat → exec (.eqconsWrite vf v) s = .next s)
    ∧ ((s.vf vf).eq.cons.toNat ≤ v.toNat → (s.vf vf).eq.held = [] → (∀ st, s.stalled part st = []) →
      ∃ t, exec (.eqconsWrite vf v) s = .next t ∧ t = { s with vfs := t.vfs } ∧ (t.vf vf).eq.cons = v)

/-- A core that stalled on a page request goes on once it is granted, its instruction to be made again; once it is
refused, or the guest granule that refused it is, its access fails (R404, R405, R407). -/
def Claims.Resumes : Prop :=
  ∀ (s : State) (p rid : Nat) (a : AgentId), agentPage a = some (p, 0) → agentLink a = none →
    (s.page p).core.wait = some (.stall (.fault rid)) →
      ((s.restall a none).page p).core = { (s.page p).core with wait := none } ∧ (s.restall a none).mem = s.mem
        ∧ ((∀ x, (s.trussOfAgent a).bind (fget s.trusses) = some x → x.fork = none) →
          ((s.failAgent a).page p).core = { (s.page p).core with wait := none, failed := true })
        ∧ ∀ g, (s.page p).core.lost = none → (s.page p).core.run = .running → (s.req a).kept = [] → (s.req a).unsent = [] →
          (s.req a).win = [] → (s.page p).core.wait = some (.stall (.owner g)) →
          (∀ x, (s.trussOfAgent a).bind (fget s.trusses) = some x → x.fork = none) →
            ((s.failIso g a).page p).core = { (s.page p).core with wait := none, failed := true }

/-- A write to a register that only holds its value: QDESC and PENDBASE take an aligned address, TWARG and HPSEL their
value, PDESC an aligned address, SEALPER its value within its range, SEALSEL its value; a write at an offset that no
register has, or that is not a multiple of 8, does nothing. HOPINJ puts a token into a router's output hop in debug mode
alone (R343, R368, R373). -/
def Claims.RegisterWrites : Prop :=
  ∀ (s : State) (vf part off : Nat) (v : BitVec 64), Claims.Attached s vf part →
    let x := s.vf vf
    let w (o : Nat) (y : VF) : Prop := exec (.registerWrite (.vf vf) o v) s = .next (s.setVf vf y)
    let pw (o : Nat) (y : PF) : Prop := exec (.registerWrite .pf o v) s = .next { s with pf := y }
    w 0x1000 { x with qdesc := BitVec.ofNat 64 (v.toNat / 64 * 64) }
      ∧ w 0x1018 { x with pendbase := BitVec.ofNat 64 (v.toNat / 8 * 8) } ∧ w 0x2018 { x with twarg := v }
      ∧ (v.toNat < 2 ^ 18 → w 0x4000 { x with hpsel := v })
      ∧ (off % 8 ≠ 0 → exec (.registerWrite (.vf vf) off v) s = .next s)
      ∧ pw 0 { s.pf with pdesc := BitVec.ofNat 64 (v.toNat / 64 * 64) } ∧ pw 0x28 { s.pf with sealsel := v }
      ∧ (10 ≤ v.toNat → v.toNat ≤ 60000 → pw 0x20 { s.pf with sealper := v })
      ∧ (v.toNat < 10 ∨ 60000 < v.toNat → exec (.registerWrite .pf 0x20 v) s = .next s)
      ∧ (s.pf.debug = false → exec (.hopinj v) s = .next s)
      ∧ (∀ p e f tokData, s.pf.debug = true → s.pf.injWait = [] → p < 432 → e < 64 → 32 ≤ f → f ≤ 35 → tokData < 2 ^ 32 →
        v.toNat = e + p * 2 ^ 6 + f * 2 ^ 15 + tokData * 2 ^ 32 → s.hopFree p e f = true →
          ∃ t tok, exec (.hopinj v) s = .next t ∧ t.mem = s.mem ∧ tok.kind = 0 ∧ tok.data = BitVec.ofNat 512 tokData
            ∧ tok.valid = 1 ∧ tok.rank = 0 ∧ t.readPf 0x5008 = v
            ∧ (crossesSeam p e f = false → t.elem p e = (s.elem p e).hopPush f tok)
            ∧ (crossesSeam p e f = true → (t.elem p e).hops = (s.elem p e).hops
              ∧ ((fget (t.elem p e).seam f).getD []).map Prod.snd = ((fget (s.elem p e).seam f).getD []).map Prod.snd ++ [tok]))

/-- What a function's window does. -/
def Obligations.WindowResults : Prop :=
  Claims.TensorWindow ∧ Claims.ViewWindow ∧ Claims.Resumes ∧ Claims.RegisterWrites

/-! ## Partitions and granules (R369, R372 to R381, R383, R419) -/

/-- PSTAT after an operation. -/
def Claims.PStat (t : State) (pid result : Nat) (busy : Bool) : Prop :=
  t.pf.pstat = BitVec.ofNat 64 (pid % 64 * 256 + result * 16 + (if busy then 1 else 0))

/-- The host link is open and the physical function carries out no operation. -/
def Claims.PfIdle (s : State) : Prop := s.start.ready = true ∧ s.pf.pstat.getLsbD 0 = false

/-- While an operation of the physical function is busy another is not carried out and answers BUSY; one on a partition
that is not as it must be answers BADPART. -/
def Claims.PfTurnsAway : Prop :=
  ∀ (s : State) (pid : Nat), s.start.ready = true →
    ∀ i live, (i, live) ∈ [(Instr.partitionCreate pid, false), (.partitionDestroy pid, true), (.partitionUpdate pid, true),
        (.granuleGrant pid, true), (.granuleRevoke pid, true), (.partitionStatus pid, true), (.resetPartition pid, true)] →
      (s.pf.pstat.getLsbD 0 = true → ∃ t, exec i s = .next t ∧ t = { s with pf := { s.pf with pstat := t.pf.pstat } }
        ∧ t.pf.pstat.extractLsb' 4 4 = 4)
      ∧ (s.pf.pstat.getLsbD 0 = false → (47 < pid ∨ (s.part pid).live ≠ live) →
        ∃ t, exec i s = .next t ∧ t = { s with pf := { s.pf with pstat := t.pf.pstat } } ∧ Claims.PStat t pid 1 false)

/-- CREATE makes a partition under the record at PDESC, attaches the record's functions, and seals it; a record that
breaks R372 answers BADREC, one whose function is taken INUSE, one whose sums pass a limit the sum's refusal, and no
partition is made. UPDATE puts the new record in force. DESTROY of a partition that runs nothing takes it and its
granules away. STATUS writes its counts beside PDESC (R372 to R375, R381, R383, R394). -/
def Claims.PartitionOps : Prop :=
  ∀ (s : State) (pid : Nat), Claims.PfIdle s → pid ≤ 47 →
    let r := s.hostRead (s.pf.pdesc.toNat / 64 * 64) 64
    ((s.part pid).live = false →
      (recordOk r = false → ∃ t, exec (.partitionCreate pid) s = .next t
        ∧ t = { s with pf := { s.pf with pstat := t.pf.pstat } } ∧ Claims.PStat t pid 2 false)
      ∧ (recordOk r = true → s.vfTaken pid r = true → ∃ t, exec (.partitionCreate pid) s = .next t
        ∧ t = { s with pf := { s.pf with pstat := t.pf.pstat } } ∧ Claims.PStat t pid 3 false)
      ∧ (recordOk r = true → s.vfTaken pid r = false → s.sumsOk pid r = false → ∃ t, exec (.partitionCreate pid) s = .next t
        ∧ t = { s with pf := { s.pf with pstat := t.pf.pstat } } ∧ Claims.PStat t pid 5 false)
      ∧ (recordOk r = true → s.vfTaken pid r = false → s.sumsOk pid r = true → ∃ t, exec (.partitionCreate pid) s = .next t
        ∧ t.mem = s.mem ∧ t.pages = s.pages ∧ Claims.PStat t pid 0 false ∧ (t.part pid).live = true
        ∧ (t.part pid).record = r ∧ (t.part pid).granules = [] ∧ (t.part pid).slots = []
        ∧ (∀ z ∈ recordVfs r, (t.vf z.1).part = some pid ∧ (t.vf z.1).index = z.2)
        ∧ t.chain.next = s.chain.next + 1))
    ∧ ((s.part pid).live = true →
      let same := ∀ k, 4 ≤ k → k < 8 → r[k]? = (s.part pid).record[k]?
      ((s.part pid).record.length = 64 → (recordOk r = false ∨ ¬ same) → ∃ t, exec (.partitionUpdate pid) s = .next t
        ∧ t = { s with pf := { s.pf with pstat := t.pf.pstat } } ∧ Claims.PStat t pid 2 false)
      ∧ ((s.part pid).record.length = 64 → recordOk r = true → same → s.sumsOk pid r = true →
        ∃ t, exec (.partitionUpdate pid) s = .next t ∧ (t.part pid).record = r ∧ (t.part pid).live = true)
      ∧ (s.rungs = [] → (∀ z ∈ s.launches, z.2.part ≠ pid) → (∀ z ∈ s.trusses, z.2.part ≠ pid) → (∀ z ∈ s.graphs, z.2.part ≠ pid) →
        (∀ z ∈ s.engines, ∀ c ∈ z.2.cmds, c.part ≠ pid) → s.partQueues pid = [] → s.move = none →
        ∃ t, exec (.partitionDestroy pid) s = .next t ∧ (t.part pid).live = false ∧ (t.part pid).granules = []
          ∧ t.rungs = [])
      ∧ (∃ t, exec (.partitionStatus pid) s = .next t ∧ t.pages = s.pages ∧ Claims.PStat t pid 0 false
        ∧ (∀ a, (∀ k, k < 64 → a ≠ .host (s.pf.pdesc.toNat / 64 * 64 + 64 + k)) → t.mem.byte a = s.mem.byte a)
        ∧ ∀ k, k < 8 →
          let at_ (n : Nat) : Byte := t.mem.byte (.host (s.pf.pdesc.toNat / 64 * 64 + 64 + n))
          at_ k = (s.part pid).moves.extractLsb' (8 * k) 8 ∧ at_ (8 + k) = (s.part pid).moveabort.extractLsb' (8 * k) 8
            ∧ at_ (16 + k) = (s.part pid).silldrop.extractLsb' (8 * k) 8
            ∧ at_ (24 + k) = (BitVec.ofNat 64 (s.usedPages pid).length).extractLsb' (8 * k) 8))

/-- GRANT maps a host granule that nobody owns into the partition, and is busy until each of the stack's 32 channels has
zeroed its stripes of the granule, made its blocks VOID, and set the owner; a channel touches no other byte. REVOKE
takes every channel's owner and the map entry away. The save pool is set while no truss is saved (R369, R376, R377,
R419). -/
def Claims.Granules : Prop :=
  ∀ (s : State) (pid : Nat),
    let g := bits s.pf.parg.toNat 0 27
    let h := bits s.pf.parg.toNat 32 19
    (Claims.PfIdle s → pid ≤ 47 → (s.part pid).live = true →
      (h / 2 ^ 15 < 16 → s.stackFailed (h / 2 ^ 15) = false →
        (s.owned h = true ∨ s.pf.pool.contains h = true ∨ (fget (s.part pid).granules g).isSome = true →
          ∃ t, exec (.granuleGrant pid) s = .next t ∧ t = { s with pf := { s.pf with pstat := t.pf.pstat } }
            ∧ Claims.PStat t pid 3 false)
        ∧ (s.owned h = false → s.pf.pool.contains h = false → fget (s.part pid).granules g = none →
          ∃ t, exec (.granuleGrant pid) s = .next t ∧ t.mem = s.mem ∧ t.pages = s.pages ∧ Claims.PStat t pid 0 true
            ∧ fget (t.part pid).granules g = some h ∧ ∀ c, c < 32 → (pid, g, h, c) ∈ t.grants))
      ∧ (fget (s.part pid).granules g = some h → ∃ t, exec (.granuleRevoke pid) s = .next t ∧ t.mem = s.mem
        ∧ t.pages = s.pages ∧ Claims.PStat t pid 0 false ∧ fget (t.part pid).granules g = none
        ∧ ∀ c, c < 32 → t.ownerAt (h / 2 ^ 15) c (h % 2 ^ 15) = 0x3F)
      ∧ (fget (s.part pid).granules g ≠ some h → ∃ t, exec (.granuleRevoke pid) s = .next t
        ∧ t = { s with pf := { s.pf with pstat := t.pf.pstat } } ∧ Claims.PStat t pid 2 false))
    ∧ (∀ h c z, s.grants.find? (fun z => z.2.2.1 == h && z.2.2.2 == c) = some z → c < 32 →
      ∃ t, exec (.channelGrant h c) s = .next t ∧ t.ownerAt (h / 2 ^ 15) c (h % 2 ^ 15) = z.1
        ∧ (∀ a, let mine := stackOf a = h / 2 ^ 15 ∧ granuleOf a = h % 2 ^ 15 ∧ channelOf a = c
          (mine → t.mem.byte (.hbm a) = 0 ∧ (t.mem.block (.hbm a)).2 = descVoid)
          ∧ (¬ mine → t.mem.byte (.hbm a) = s.mem.byte (.hbm a))))
    ∧ ∀ v : BitVec 64, s.start.ready = true →
      ((∀ z ∈ s.trusses, z.2.state ≠ .saved) → v.toNat < 2 ^ 16 → ∃ t, exec (.savepoolWrite v) s = .next t
        ∧ t = { s with pf := t.pf } ∧ t.pf.savepool = v ∧ ∀ x ∈ t.pf.pool, s.owned x = false)
      ∧ (2 ^ 16 ≤ v.toNat ∨ (∃ z ∈ s.trusses, z.2.state = .saved) → exec (.savepoolWrite v) s = .next s)

/-- What the physical function's operations do. -/
def Obligations.PartitionResults : Prop := Claims.PfTurnsAway ∧ Claims.PartitionOps ∧ Claims.Granules

/-! ## Resets and starts (R423 to R430) -/

/-- A rung asked for while none is in progress. QUEUE stops its queue, and no item of it stays unbegun; LAUNCH takes a
launch and its trusses away; ENGINE leaves the partition no command there; PARTITION retires its page requests and
counts in GEN; DEVICE is a warm start, which waits for a move that is copying. A target that there is not answers BADTARGET, a request while one is busy BUSY
(R423 to R427). -/
def Claims.Rungs : Prop :=
  ∀ (s : State) (vf part q lid pid bay eng : Nat), s.rungs = [] →
    (Claims.Attached s vf part →
      ((s.vf vf).rststat.getLsbD 0 = true → ∀ i, i = Instr.resetQueue vf q ∨ i = Instr.resetLaunch vf lid →
        ∃ t, exec i s = .next t ∧ t = { s with vfs := t.vfs } ∧ (t.vf vf).rststat.extractLsb' 4 4 = 4)
      ∧ ((s.vf vf).rststat.getLsbD 0 = false →
        (63 < q ∨ fget s.queues (qKey vf q) = none → ∃ t, exec (.resetQueue vf q) s = .next t ∧ t = { s with vfs := t.vfs }
          ∧ (t.vf vf).rststat = 16)
        ∧ (∀ x, q ≤ 63 → fget s.queues (qKey vf q) = some x → ∃ t y, exec (.resetQueue vf q) s = .next t
          ∧ fget t.queues (qKey vf q) = some y ∧ y.stopped = true ∧ (∀ i ∈ y.items, i.state ≠ .held)
          ∧ (t.vf vf).rststat.extractLsb' 4 4 = 0)
        ∧ ((∀ z ∈ s.launches, ¬ (z.2.part = part ∧ z.2.ident.toNat = lid)) → ∃ t, exec (.resetLaunch vf lid) s = .next t
          ∧ t = { s with vfs := t.vfs } ∧ (t.vf vf).rststat = 16)
        ∧ ∀ id l, s.launches.find? (fun z => z.2.part == part && z.2.ident.toNat == lid) = some (id, l) →
          s.move = none → (s.launches.map Prod.fst).Nodup → ∃ t, exec (.resetLaunch vf lid) s = .next t
            ∧ fget t.launches id = none ∧ ∀ z ∈ t.trusses, z.2.launch = id → z.2.state = .ended))
    ∧ (Claims.PfIdle s → pid ≤ 47 → (s.part pid).live = true →
      (bay ≤ 7 → eng ≤ 5 → ∃ t, exec (.resetEngine pid bay eng) s = .next t
        ∧ ∀ c ∈ (fgetD t.engines (bay * 8 + eng) Engine.reset).cmds, c.part ≠ pid)
      ∧ (7 < bay ∨ 5 < eng → ∃ t, exec (.resetEngine pid bay eng) s = .next t
        ∧ t = { s with pf := { s.pf with pstat := t.pf.pstat } } ∧ Claims.PStat t pid 2 false)
      ∧ ∃ t, exec (.resetPartition pid) s = .next t ∧ (t.part pid).gen = (s.part pid).gen + 1 ∧ (t.part pid).reqs = [])
    ∧ (Claims.PfIdle s → s.start.running = none →
      (s.inCopy = false → ∃ t, exec .resetDevice s = .next t ∧ t.trusses = [] ∧ t.launches = []
        ∧ t.packets = [] ∧ t.engines = [] ∧ ∀ p, (t.page p).status ≠ .used)
      ∧ (s.inCopy = true → ∃ t, exec .resetDevice s = .next t ∧ t.start.ready = false ∧ t.trusses = s.trusses ∧ t.move = s.move))

/-- A rung not confirmed within its timeout has the next one applied to the targets that remain, and the highest rung
reached is told; before that nothing changes. One that another covers is not timed: it is busy until that one is confirmed
(R424). -/
def Claims.RungTimeouts : Prop :=
  ∀ (s : State) (n : Nat) (r : Rung) (v : Nat), s.rungs[n]? = some r → r.vf = some v →
    (s.now < r.since + rungTimeoutCc r.rung ∨ r.absorbed = true → exec (.rungTimeout n) s = .next s)
    ∧ (r.absorbed = false → r.since + rungTimeoutCc r.rung ≤ s.now → s.remaining r ≠ [] →
      ∃ t, exec (.rungTimeout n) s = .next t ∧ r.rung + 1 ≤ bits (t.vf v).rststat.toNat 1 3)
    ∧ ∀ x, s.covering x ≠ [] →
      (s.applyRung x).rungs = s.rungs ++ [{ x with absorbed := true, top := s.coverTop x }] ∧ (s.applyRung x).vfs = s.vfs

/-- A cold start destroys every partition and clears every meter, keeps HBM4 and host memory and the seal chain, to which
it adds a record, and repairs the module: units that have failed join its fuse map; with bay 0 failed it does not complete. A warm start of a module that has started ends every launch and truss, drops every packet
and engine command, scrubs the pages in use and keeps partitions, granule maps and records, and completes when no page is
left to scrub; it fails after 200 ms, and the third failure is a cold start (R428 to R430). -/
def Claims.Starts : Prop :=
  ∀ s : State,
    (∃ t, exec .coldStart s = .next t ∧ t.mem = s.mem ∧ t.parts = [] ∧ t.meters = [] ∧ t.pages = [] ∧ t.trusses = []
      ∧ t.launches = [] ∧ t.queues = [] ∧ t.vfs = [] ∧ t.now = s.now
      ∧ (0 ∈ s.fuses.bays ∨ 0 ∈ s.worn.bays → t.start.ready = false ∧ t.chain = s.chain)
      ∧ (0 ∉ s.fuses.bays → 0 ∉ s.worn.bays → t.start.ready = true ∧ t.chain.next = s.chain.next + 1)
      ∧ t.fuses.stepping = s.fuses.stepping ∧ (∀ k, k ∈ t.fuses.pages ↔ k ∈ s.fuses.pages ∨ k ∈ s.worn.pages)
      ∧ (∀ k, k ∈ t.fuses.channels ↔ k ∈ s.fuses.channels ∨ k ∈ s.worn.channels)
      ∧ (∀ k, k ∈ t.fuses.edges ↔ k ∈ s.fuses.edges ∨ k ∈ s.worn.edges)
      ∧ ∀ k, k ∈ t.fuses.bays ↔ k ∈ s.fuses.bays ∨ k ∈ s.worn.bays)
    ∧ (s.start.running ≠ none ∨ s.start.ready = false → exec .warmStart s = .next s)
    ∧ (s.start.running = none → s.start.ready = true → s.inCopy = false → ∃ t, exec .warmStart s = .next t ∧ t.trusses = [] ∧ t.launches = [] ∧ t.graphs = []
      ∧ t.packets = [] ∧ t.engines = [] ∧ t.move = none
      ∧ (∀ p, (t.part p).granules = (s.part p).granules ∧ (t.part p).record = (s.part p).record
        ∧ (t.part p).live = (s.part p).live)
      ∧ (∀ p, (t.page p).status ≠ .used)
      ∧ (t.start.ready = true ↔ ∀ z ∈ t.pages, z.2.isScrubbing = false))
    ∧ (∀ k t0, s.start.running = some (k, t0) →
      (s.now < t0 + 320000000 → exec .warmStartTimeout s = .next s)
      ∧ (t0 + 320000000 ≤ s.now → 2 ≤ s.start.failures → exec .warmStartTimeout s = exec .coldStart s)
      ∧ (t0 + 320000000 ≤ s.now → s.start.failures < 2 → s.inCopy = false → ∃ t, exec .warmStartTimeout s = .next t
        ∧ t.start.failures = s.start.failures + 1 ∧ t.start.running = some (2, s.now) ∧ t.trusses = []))
    ∧ (s.start.running = none → exec .warmStartTimeout s = .next s)

/-- A seal record holds its time, kind, information, the head of the record before it and every meter; the chain's head
is the digest of the newest. One is added each seal interval. GET_MEASUREMENTS answers the index asked, index 0x3F with
the newest record's number, time and head, and an index with no measurement with an error (R394 to R396). -/
def Claims.Sealing : Prop :=
  ∀ (s : State) (idx : Nat) (sign : Bool),
    let last := fgetD s.chain.records (s.chain.next - 1) ⟨0, 0, 0, [], []⟩
    (s.now < s.chain.since + s.pf.sealper.toNat * 1600000 → exec .sealSummary s = .next s)
    ∧ (s.chain.since + s.pf.sealper.toNat * 1600000 ≤ s.now → ∃ t r, exec .sealSummary s = .next t
      ∧ t = { s with chain := t.chain } ∧ t.chain.next = s.chain.next + 1 ∧ fget t.chain.records s.chain.next = some r
      ∧ r.kind = 0 ∧ r.info = 0 ∧ r.prev = s.chain.head ∧ r.meters = s.meters
      ∧ t.chain.head = sha384 (r.bytes s.chain.next) ∧ t.chain.since = s.chain.since + s.pf.sealper.toNat * 1600000)
    ∧ (s.start.ready = true →
      (idx = 0 ∨ 0x70 ≤ idx ∨ (0x10 ≤ idx ∧ idx < 0x3F) →
        exec (.getMeasurements idx sign) s = .next { s with spdm := .invalid :: s.spdm })
      ∧ (idx = 0x3F → ∃ sig, exec (.getMeasurements idx sign) s = .next
          { s with spdm := .value (toBytes 8 (s.chain.next - 1) ++ toBytes 8 last.time.toNat ++ s.chain.head) sig :: s.spdm }
        ∧ sig.isSome = sign)
      ∧ (1 ≤ idx → idx ≤ 0xF → ∃ v sig, exec (.getMeasurements idx sign) s = .next { s with spdm := .value v sig :: s.spdm }
        ∧ sig.isSome = sign)
      ∧ (0x40 ≤ idx → idx < 0x70 → ∃ v sig, exec (.getMeasurements idx sign) s = .next { s with spdm := .value v sig :: s.spdm }
        ∧ v.take 16 = toBytes 8 (s.chain.next - 1) ++ toBytes 8 last.time.toNat ∧ v.drop 144 = s.chain.head
        ∧ ∀ m, m < 16 → (v.drop (16 + 8 * m)).take 8 = toBytes 8 (fgetD last.meters (16 * (idx - 0x40) + m) 0).toNat))

/-- What resets and starts do. -/
def Obligations.ResetResults : Prop := Claims.Rungs ∧ Claims.RungTimeouts ∧ Claims.Starts ∧ Claims.Sealing

/-! ## Placing, moving and ending trusses (R20 to R26, R271, R365, R380 to R389) -/

/-- A free position: on the grid, within the lease, its pages free, working and in the partition's bays; the first by
page column and then page row. The next truss of a launch that finds one is placed there (R365, R372, R382). -/
def Claims.Placing : Prop :=
  (∀ (s : State) (part h w r c : Nat), s.freeSpot part h w = some (r, c) →
    r + h ≤ 12 ∧ c + w ≤ 36 ∧ (s.usedPages part).length + h * w ≤ (s.part part).lease
      ∧ ∀ j k, j < h → k < w →
        let p := (r + j) * 36 + (c + k)
        (s.page p).status = .free ∧ p ∉ s.fuses.pages ∧ bayOf p ∉ s.fuses.bays ∧ (s.part part).bayOk (bayOf p) = true)
  ∧ ∀ (s : State) (id : Nat) (l : Launch), s.move = none → s.compact = none → fget s.launches id = some l →
    l.placed < l.ntruss → l.cancel = false → l.reset = false → l.failure = none →
      ∀ r c, s.freeSpot l.part l.img.h l.img.w = some (r, c) → ∃ t x l', exec (.placeTruss id) s = .next t ∧ t.mem = s.mem
        ∧ fget t.trusses s.fresh = some x ∧ x.launch = id ∧ x.ix = l.placed ∧ x.row = r ∧ x.col = c ∧ x.h = l.img.h
        ∧ x.w = l.img.w ∧ x.part = l.part ∧ fget t.launches id = some l' ∧ l'.placed = l.placed + 1

/-- A launch that has waited 1 ms to be placed rises one step, up to the top. A truss whose cores have all ended and
whose channels are empty and accesses done, or that has failed or stopped, is gone, its pages to be scrubbed; until then
nothing changes. A page scrubbed is as at reset, once what its core wrote back is acknowledged. The fabric-stall
watchdog sends one event and stops nothing. A FORKW that runs out of time before its copies are placed gives −1 to each
core that made it (R23, R24, R26, R168, R271, R349, R380). -/
def Claims.Ending : Prop :=
  ∀ (s : State) (id p : Nat),
    (∀ l, fget s.launches id = some l →
      (l.placed < l.ntruss → l.since + 1600000 ≤ s.now → l.prio < 3 → ∃ t l', exec (.priorityAging id) s = .next t
        ∧ t = { s with launches := t.launches } ∧ fget t.launches id = some l' ∧ l'.prio = l.prio + 1
        ∧ l'.since = l.since + 1600000)
      ∧ (s.now < l.since + 1600000 ∨ 3 ≤ l.prio → exec (.priorityAging id) s = .next s))
    ∧ (∀ x, fget s.trusses id = some x → (s.move.map Move.truss) ≠ some id → x.fork = none →
      let pages := s.heldPages id x
      let ends := (x.state = .running ∧ x.cores = 0 ∧ pages ≠ [] ∧ (∀ p ∈ pages, (s.page p).quiet = true)
          ∧ s.trussQuiet id pages = true)
        ∨ (x.state = .stopping ∧ (x.failure = true ∨ ∀ p ∈ pages, s.coreHalted p = true))
      (ends → ∃ t, exec (.trussEnd id) s = .next t ∧ fget t.trusses id = none
        ∧ ∀ p ∈ pages, (t.page p).status = .scrubbing s.now)
      ∧ (¬ ends → exec (.trussEnd id) s = .next s))
    ∧ (∀ since, (s.page p).status = .scrubbing since →
      ((s.req (pageAgent p 0 0)).allAcked = true → ∃ t, exec (.pageScrub p) s = .next t ∧ t.page p = Page.reset
        ∧ t.mem = s.mem ∧ ∀ n, n ≠ p → t.page n = s.page n)
      ∧ ((s.req (pageAgent p 0 0)).allAcked = false → exec (.pageScrub p) s = .next s))
    ∧ (∀ x, fget s.trusses id = some x →
      (x.stallFc < 2 ^ 20 ∨ x.armed = false → exec (.fabstall id) s = .next s)
      ∧ (2 ^ 20 ≤ x.stallFc → x.armed = true → ∃ t, exec (.fabstall id) s = .next t ∧ t.pages = s.pages
        ∧ fget t.trusses id = some { x with armed := false }))
    ∧ ∀ k, fget s.forks id = some k →
      (s.now < k.deadline ∨ k.made.length = k.wanted.length → exec (.forkwTimeout id) s = .next s)
      ∧ (k.deadline ≤ s.now → k.made.length ≠ k.wanted.length → k.tags ≠ [] → k.rivals = [] → ∃ t, exec (.forkwTimeout id) s = .next t
        ∧ fget t.forks id = none)

/-- A move. With its truss quiescent and its destination free COPY begins; a page's plate goes block by block in MOVE packets of
class C2 from the move unit of its bay, at most 32 unacknowledged, and with all of them acknowledged the page counts 12 MiB of the
partition's moves; with every page copied the truss stands at its new place, each core as it stood, MOVES counts, and the pages that
it has left are scrubbed (how a page is cut into packets is free in the model, log 31). Before COPY one that R388 ends
leaves the truss where it was, and MOVEABORT counts (R385 to R389, R393). -/
def Claims.Moving : Prop :=
  ∀ (s : State) (m : Move) (x : Truss), s.move = some m → fget s.trusses m.truss = some x →
    let old := x.pages
    let new := rectPages m.row m.col x.h x.w
    (m.state = 0 →
      (s.moveHit m x = true → exec .moveCopy s = .next s ∧ ∃ t, exec .moveAbandon s = .next t ∧ t.move = none
        ∧ t.mem = s.mem ∧ (t.part x.part).moveabort = (s.part x.part).moveabort + 1
        ∧ ∃ y, fget t.trusses m.truss = some y ∧ y.row = x.row ∧ y.col = x.col ∧ y.aborted = some s.now)
      ∧ (s.moveHit m x = false → exec .moveAbandon s = .next s
        ∧ (s.quiescent m.truss x = true → (∀ p ∈ new, (s.page p).status = .free ∨ p ∈ old) →
          ∃ t m', exec .moveCopy s = .next t ∧ t.mem = s.mem ∧ t.move = some m' ∧ m'.state = 1
            ∧ m'.left = copyOrder m.row m.col x ∧ m'.sent = 0 ∧ (∀ p ∈ old, t.page p = s.page p) ∧ ∀ p ∈ new, p ∉ old → (t.page p).status = .used ∧ (t.page p).truss = m.truss)
        ∧ (s.quiescent m.truss x = false → exec .moveCopy s = .next s))
      ∧ exec .moveRelease s = .next s)
    ∧ (m.state ≠ 0 →
      exec .moveAbandon s = .next s
      ∧ (∀ k rest, m.left = k :: rest → exec .moveRelease s = .next s
        ∧ let z := x.pagePair new k
          let a := moverAgent (bayOf z.1)
          let out := s.packets.filter fun q => q.2.op == .move && q.2.src == a && !q.2.metered
          (m.sent < plateBlocks → (s.keptOf a).length + out.length < 32 → ∃ t q, exec .moveCopy s = .next t ∧ t.mem = s.mem
            ∧ t.pages = s.pages ∧ t.trusses = s.trusses ∧ t.move = some { m with sent := m.sent + moveBlocks }
            ∧ fget t.packets s.fresh = some q ∧ q.op = .move ∧ q.cls = 2 ∧ q.part = x.part ∧ q.src = a
            ∧ q.dst = moverAgent (bayOf z.2) ∧ q.blocks = (List.range moveBlocks).map fun j => s.plateBlock z.1 (m.sent + j))
          ∧ (m.sent < plateBlocks → 32 ≤ (s.keptOf a).length + out.length → exec .moveCopy s = .next s)
          ∧ (plateBlocks ≤ m.sent → s.keptOf a = [] → out = [] → ∃ t, exec .moveCopy s = .next t ∧ t.mem = s.mem
            ∧ t.pages = s.pages ∧ t.trusses = s.trusses ∧ t.move = some { m with left := rest, sent := 0 }
            ∧ (x.part < 48 → fgetD t.meters (16 * x.part + 12) 0 = fgetD s.meters (16 * x.part + 12) 0 + 12582912)
            ∧ ∀ n, n ≠ 16 * x.part + 12 → fgetD t.meters n 0 = fgetD s.meters n 0)
          ∧ (plateBlocks ≤ m.sent → s.keptOf a ≠ [] ∨ out ≠ [] → exec .moveCopy s = .next s))
      ∧ (m.left = [] → new.Nodup → old.length = new.length → ∃ t, exec .moveRelease s = .next t ∧ t.move = none
        ∧ t.mem = s.mem ∧ (t.part x.part).moves = (s.part x.part).moves + 1
        ∧ (∃ y, fget t.trusses m.truss = some y ∧ y.row = m.row ∧ y.col = m.col ∧ y.ix = x.ix)
        ∧ (∀ p ∈ old, p ∉ new → (t.page p).status = .scrubbing s.now)
        ∧ ∀ (k p p' : Nat), old[k]? = some p → new[k]? = some p' →
          (t.page p').tiles = (s.page p).tiles ∧ ∀ g, (t.page p').core.rd g = (s.page p).core.rd g
            ∧ (t.page p').core.pc = (s.page p).core.pc))

/-- What placing, moving and ending do. -/
def Obligations.TrussResults : Prop := Claims.Placing ∧ Claims.Ending ∧ Claims.Moving

/-! ## Reset and invariants -/

/-- At reset the memory lists nothing, there is no partition, page or queue in use, every core has its registers,
taint bits, FLAGS, trap registers and loops at zero, single stepping and the hazard detector off, the host link is open,
and the seal interval is 1 000 ms: the values that R94 to R100, R103, R373 and R429 give, and those of log 4. -/
def Obligations.ResetValues : Prop :=
  State.reset.mem = ⟨[], [], [], []⟩ ∧ State.reset.parts = [] ∧ State.reset.pages = [] ∧ State.reset.queues = []
    ∧ State.reset.core.pc = 0 ∧ (∀ r, State.reset.core.rd r = 0 ∧ State.reset.core.tainted r = false)
    ∧ State.reset.core.dz = false ∧ State.reset.core.disc = false ∧ State.reset.core.tvec = 0
    ∧ State.reset.core.inh = false ∧ State.reset.core.sstep = false ∧ State.reset.core.haz = false
    ∧ (∀ k, (State.reset.core.loop k).act = false) ∧ State.reset.start.ready = true ∧ State.reset.pf.sealper = 1000

/-- At reset memory is in the canonical form that the model gives it, which is the model's own representation (log 16). -/
def Obligations.MemoryCanonicalAtReset : Prop := MemoryCanonical State.reset

/-- Every step keeps memory in the canonical form that the model gives it, which is the model's own representation
(log 16). -/
def Obligations.MemoryCanonicalKept : Prop := ∀ s t, MemoryCanonical s → step s = .next t → MemoryCanonical t
end

