-- ==== Sys2Proof/Laws/FMap.lean ====
section
/-! SUPPORT. Sparse maps: what is read back after a write, and that writes keep the keys rising. -/

namespace Sys2Proof

variable {α : Type}

theorem fget_fdel_same (m : FMap α) (k : Nat) : fget (fdel m k) k = none := by
  induction m with
  | nil => rfl
  | cons x t ih => by_cases h : x.1 = k <;> simp [fdel, fget, h, ih]

theorem fget_fdel_other {m : FMap α} {j k : Nat} (h : j ≠ k) : fget (fdel m k) j = fget m j := by
  induction m with
  | nil => rfl
  | cons x t ih =>
    by_cases hk : x.1 = k
    · have hj : ¬ x.1 = j := fun e => h (e ▸ hk ▸ rfl)
      simp [fdel, fget, hk, ih]
      exact fun e => absurd (hk.trans e) hj
    · simp only [fdel, if_neg hk, fget, ih]

theorem fget_fins_same {m : FMap α} {k : Nat} {v : α} (h : fget m k = none) : fget (fins m k v) k = some v := by
  induction m with
  | nil => simp [fins, fget]
  | cons x t ih =>
    by_cases hk : x.1 = k
    · simp [fget, hk] at h
    · have ht : fget t k = none := by simpa [fget, hk] using h
      by_cases hlt : k < x.1 <;> simp [fins, fget, hlt, hk, ih ht]

theorem fget_fins_other {m : FMap α} {j k : Nat} {v : α} (h : j ≠ k) : fget (fins m k v) j = fget m j := by
  induction m with
  | nil => simp [fins, fget, h.symm]
  | cons x t ih =>
    by_cases hlt : k < x.1
    · simp [fins, fget, hlt, h.symm]
    · simp only [fins, if_neg hlt, fget, ih]

@[simp] theorem fget_fput_same (m : FMap α) (k : Nat) (v : α) : fget (fput m k v) k = some v :=
  fget_fins_same (fget_fdel_same m k)

theorem fget_fput_other {m : FMap α} {j k : Nat} {v : α} (h : j ≠ k) : fget (fput m k v) j = fget m j := by
  rw [fput, fget_fins_other h, fget_fdel_other h]

/-- The first key of a map, if any, is above `k`. -/
def above (k : Nat) : FMap α → Prop
  | [] => True
  | x :: _ => k < x.1

theorem frising_cons {x : Nat × α} {t : FMap α} : frising (x :: t) = true ↔ above x.1 t ∧ frising t = true := by
  cases t <;> simp [frising, above]

theorem above_trans {j k : Nat} {m : FMap α} (h : j < k) (ha : above k m) : above j m := by
  cases m with
  | nil => trivial
  | cons x t => exact lt_trans h ha

theorem above_fdel {j k : Nat} {m : FMap α} (hr : frising m = true) (ha : above j m) : above j (fdel m k) := by
  induction m with
  | nil => trivial
  | cons x t ih =>
    have h := frising_cons.1 hr
    by_cases hk : x.1 = k
    · simpa [fdel, hk] using ih h.2 (above_trans ha h.1)
    · simpa [fdel, hk, above] using ha

theorem frising_fdel {m : FMap α} (k : Nat) (hr : frising m = true) : frising (fdel m k) = true := by
  induction m with
  | nil => rfl
  | cons x t ih =>
    have h := frising_cons.1 hr
    by_cases hk : x.1 = k
    · simpa [fdel, hk] using ih h.2
    · simp only [fdel, hk, if_false]
      exact frising_cons.2 ⟨above_fdel h.2 h.1, ih h.2⟩

theorem above_fins {j k : Nat} {m : FMap α} {v : α} (hj : j < k) (ha : above j m) : above j (fins m k v) := by
  cases m with
  | nil => exact hj
  | cons x t =>
    by_cases hlt : k < x.1
    · simpa [fins, hlt, above] using hj
    · simpa [fins, hlt, above] using ha

theorem frising_fins {m : FMap α} {k : Nat} {v : α} (hr : frising m = true) (hk : fget m k = none) :
    frising (fins m k v) = true := by
  induction m with
  | nil => rfl
  | cons x t ih =>
    have h := frising_cons.1 hr
    by_cases he : x.1 = k
    · simp [fget, he] at hk
    · have ht : fget t k = none := by simpa [fget, he] using hk
      by_cases hlt : k < x.1
      · simp only [fins, hlt, if_true]
        exact frising_cons.2 ⟨hlt, hr⟩
      · simp only [fins, hlt, if_false]
        exact frising_cons.2 ⟨above_fins (by omega) h.1, ih h.2 ht⟩

/-- A write keeps the keys rising. -/
theorem frising_fput {m : FMap α} (k : Nat) (v : α) (hr : frising m = true) : frising (fput m k v) = true :=
  frising_fins (frising_fdel k hr) (fget_fdel_same m k)

theorem all_fdel {m : FMap α} {f : Nat × α → Bool} (k : Nat) (h : m.all f = true) : (fdel m k).all f = true := by
  induction m with
  | nil => rfl
  | cons x t ih =>
    simp only [List.all_cons, Bool.and_eq_true] at h
    by_cases hk : x.1 = k <;> simp [fdel, hk, h.1] <;> simpa using ih h.2

theorem all_fins {m : FMap α} {f : Nat × α → Bool} {k : Nat} {v : α} (h : m.all f = true) (hv : f (k, v) = true) :
    (fins m k v).all f = true := by
  induction m with
  | nil => simpa [fins] using hv
  | cons x t ih =>
    simp only [List.all_cons, Bool.and_eq_true] at h
    by_cases hlt : k < x.1 <;> simp [fins, hlt, h.1, hv] <;> first | simpa using h.2 | simpa using ih h.2

theorem all_fput {m : FMap α} {f : Nat × α → Bool} {k : Nat} {v : α} (h : m.all f = true) (hv : f (k, v) = true) :
    (fput m k v).all f = true := all_fins (all_fdel k h) hv

end Sys2Proof
end

