-- ==== Sys2Proof/Laws/State.lean ====
section
/-! SUPPORT. One lemma for each field that an update of the state, of a page or of a core leaves alone, and one for
each that it sets: no later proof unfolds a record update. -/

namespace Sys2Proof.Machine

/-! ### State.setPage -/

@[simp] theorem State.setPage_now (s : State) (p : Nat) (pg : Page) : (s.setPage p pg).now = s.now := rfl
@[simp] theorem State.setPage_cycle0 (s : State) (p : Nat) (pg : Page) : (s.setPage p pg).cycle0 = s.cycle0 := rfl
@[simp] theorem State.setPage_mem (s : State) (p : Nat) (pg : Page) : (s.setPage p pg).mem = s.mem := rfl
@[simp] theorem State.setPage_owners (s : State) (p : Nat) (pg : Page) : (s.setPage p pg).owners = s.owners := rfl
@[simp] theorem State.setPage_grants (s : State) (p : Nat) (pg : Page) : (s.setPage p pg).grants = s.grants := rfl
@[simp] theorem State.setPage_bays (s : State) (p : Nat) (pg : Page) : (s.setPage p pg).bays = s.bays := rfl
@[simp] theorem State.setPage_engines (s : State) (p : Nat) (pg : Page) : (s.setPage p pg).engines = s.engines := rfl
@[simp] theorem State.setPage_reqs (s : State) (p : Nat) (pg : Page) : (s.setPage p pg).reqs = s.reqs := rfl
@[simp] theorem State.setPage_packets (s : State) (p : Nat) (pg : Page) : (s.setPage p pg).packets = s.packets := rfl
@[simp] theorem State.setPage_outs (s : State) (p : Nat) (pg : Page) : (s.setPage p pg).outs = s.outs := rfl
@[simp] theorem State.setPage_spans (s : State) (p : Nat) (pg : Page) : (s.setPage p pg).spans = s.spans := rfl
@[simp] theorem State.setPage_groups (s : State) (p : Nat) (pg : Page) : (s.setPage p pg).groups = s.groups := rfl
@[simp] theorem State.setPage_deadGroups (s : State) (p : Nat) (pg : Page) : (s.setPage p pg).deadGroups = s.deadGroups := rfl
@[simp] theorem State.setPage_parts (s : State) (p : Nat) (pg : Page) : (s.setPage p pg).parts = s.parts := rfl
@[simp] theorem State.setPage_vfs (s : State) (p : Nat) (pg : Page) : (s.setPage p pg).vfs = s.vfs := rfl
@[simp] theorem State.setPage_pf (s : State) (p : Nat) (pg : Page) : (s.setPage p pg).pf = s.pf := rfl
@[simp] theorem State.setPage_queues (s : State) (p : Nat) (pg : Page) : (s.setPage p pg).queues = s.queues := rfl
@[simp] theorem State.setPage_served (s : State) (p : Nat) (pg : Page) : (s.setPage p pg).served = s.served := rfl
@[simp] theorem State.setPage_launches (s : State) (p : Nat) (pg : Page) : (s.setPage p pg).launches = s.launches := rfl
@[simp] theorem State.setPage_graphs (s : State) (p : Nat) (pg : Page) : (s.setPage p pg).graphs = s.graphs := rfl
@[simp] theorem State.setPage_jobs (s : State) (p : Nat) (pg : Page) : (s.setPage p pg).jobs = s.jobs := rfl
@[simp] theorem State.setPage_trusses (s : State) (p : Nat) (pg : Page) : (s.setPage p pg).trusses = s.trusses := rfl
@[simp] theorem State.setPage_links (s : State) (p : Nat) (pg : Page) : (s.setPage p pg).links = s.links := rfl
@[simp] theorem State.setPage_forks (s : State) (p : Nat) (pg : Page) : (s.setPage p pg).forks = s.forks := rfl
@[simp] theorem State.setPage_move (s : State) (p : Nat) (pg : Page) : (s.setPage p pg).move = s.move := rfl
@[simp] theorem State.setPage_compact (s : State) (p : Nat) (pg : Page) : (s.setPage p pg).compact = s.compact := rfl
@[simp] theorem State.setPage_rungs (s : State) (p : Nat) (pg : Page) : (s.setPage p pg).rungs = s.rungs := rfl
@[simp] theorem State.setPage_start (s : State) (p : Nat) (pg : Page) : (s.setPage p pg).start = s.start := rfl
@[simp] theorem State.setPage_fuses (s : State) (p : Nat) (pg : Page) : (s.setPage p pg).fuses = s.fuses := rfl
@[simp] theorem State.setPage_worn (s : State) (p : Nat) (pg : Page) : (s.setPage p pg).worn = s.worn := rfl
@[simp] theorem State.setPage_meters (s : State) (p : Nat) (pg : Page) : (s.setPage p pg).meters = s.meters := rfl
@[simp] theorem State.setPage_chain (s : State) (p : Nat) (pg : Page) : (s.setPage p pg).chain = s.chain := rfl
@[simp] theorem State.setPage_freeSill (s : State) (p : Nat) (pg : Page) : (s.setPage p pg).freeSill = s.freeSill := rfl
@[simp] theorem State.setPage_spdm (s : State) (p : Nat) (pg : Page) : (s.setPage p pg).spdm = s.spdm := rfl
@[simp] theorem State.setPage_turns (s : State) (p : Nat) (pg : Page) : (s.setPage p pg).turns = s.turns := rfl
@[simp] theorem State.setPage_cur (s : State) (p : Nat) (pg : Page) : (s.setPage p pg).cur = s.cur := rfl
@[simp] theorem State.setPage_freeCount (s : State) (p : Nat) (pg : Page) : (s.setPage p pg).freeCount = s.freeCount := rfl
@[simp] theorem State.setPage_fresh (s : State) (p : Nat) (pg : Page) : (s.setPage p pg).fresh = s.fresh := rfl

/-! ### State.setCore -/

@[simp] theorem State.setCore_now (s : State) (c : Core) : (s.setCore c).now = s.now := rfl
@[simp] theorem State.setCore_cycle0 (s : State) (c : Core) : (s.setCore c).cycle0 = s.cycle0 := rfl
@[simp] theorem State.setCore_mem (s : State) (c : Core) : (s.setCore c).mem = s.mem := rfl
@[simp] theorem State.setCore_owners (s : State) (c : Core) : (s.setCore c).owners = s.owners := rfl
@[simp] theorem State.setCore_grants (s : State) (c : Core) : (s.setCore c).grants = s.grants := rfl
@[simp] theorem State.setCore_bays (s : State) (c : Core) : (s.setCore c).bays = s.bays := rfl
@[simp] theorem State.setCore_engines (s : State) (c : Core) : (s.setCore c).engines = s.engines := rfl
@[simp] theorem State.setCore_reqs (s : State) (c : Core) : (s.setCore c).reqs = s.reqs := rfl
@[simp] theorem State.setCore_packets (s : State) (c : Core) : (s.setCore c).packets = s.packets := rfl
@[simp] theorem State.setCore_outs (s : State) (c : Core) : (s.setCore c).outs = s.outs := rfl
@[simp] theorem State.setCore_spans (s : State) (c : Core) : (s.setCore c).spans = s.spans := rfl
@[simp] theorem State.setCore_groups (s : State) (c : Core) : (s.setCore c).groups = s.groups := rfl
@[simp] theorem State.setCore_deadGroups (s : State) (c : Core) : (s.setCore c).deadGroups = s.deadGroups := rfl
@[simp] theorem State.setCore_parts (s : State) (c : Core) : (s.setCore c).parts = s.parts := rfl
@[simp] theorem State.setCore_vfs (s : State) (c : Core) : (s.setCore c).vfs = s.vfs := rfl
@[simp] theorem State.setCore_pf (s : State) (c : Core) : (s.setCore c).pf = s.pf := rfl
@[simp] theorem State.setCore_queues (s : State) (c : Core) : (s.setCore c).queues = s.queues := rfl
@[simp] theorem State.setCore_served (s : State) (c : Core) : (s.setCore c).served = s.served := rfl
@[simp] theorem State.setCore_launches (s : State) (c : Core) : (s.setCore c).launches = s.launches := rfl
@[simp] theorem State.setCore_graphs (s : State) (c : Core) : (s.setCore c).graphs = s.graphs := rfl
@[simp] theorem State.setCore_jobs (s : State) (c : Core) : (s.setCore c).jobs = s.jobs := rfl
@[simp] theorem State.setCore_trusses (s : State) (c : Core) : (s.setCore c).trusses = s.trusses := rfl
@[simp] theorem State.setCore_links (s : State) (c : Core) : (s.setCore c).links = s.links := rfl
@[simp] theorem State.setCore_forks (s : State) (c : Core) : (s.setCore c).forks = s.forks := rfl
@[simp] theorem State.setCore_move (s : State) (c : Core) : (s.setCore c).move = s.move := rfl
@[simp] theorem State.setCore_compact (s : State) (c : Core) : (s.setCore c).compact = s.compact := rfl
@[simp] theorem State.setCore_rungs (s : State) (c : Core) : (s.setCore c).rungs = s.rungs := rfl
@[simp] theorem State.setCore_start (s : State) (c : Core) : (s.setCore c).start = s.start := rfl
@[simp] theorem State.setCore_fuses (s : State) (c : Core) : (s.setCore c).fuses = s.fuses := rfl
@[simp] theorem State.setCore_worn (s : State) (c : Core) : (s.setCore c).worn = s.worn := rfl
@[simp] theorem State.setCore_meters (s : State) (c : Core) : (s.setCore c).meters = s.meters := rfl
@[simp] theorem State.setCore_chain (s : State) (c : Core) : (s.setCore c).chain = s.chain := rfl
@[simp] theorem State.setCore_freeSill (s : State) (c : Core) : (s.setCore c).freeSill = s.freeSill := rfl
@[simp] theorem State.setCore_spdm (s : State) (c : Core) : (s.setCore c).spdm = s.spdm := rfl
@[simp] theorem State.setCore_turns (s : State) (c : Core) : (s.setCore c).turns = s.turns := rfl
@[simp] theorem State.setCore_cur (s : State) (c : Core) : (s.setCore c).cur = s.cur := rfl
@[simp] theorem State.setCore_freeCount (s : State) (c : Core) : (s.setCore c).freeCount = s.freeCount := rfl
@[simp] theorem State.setCore_fresh (s : State) (c : Core) : (s.setCore c).fresh = s.fresh := rfl

/-! ### State.modCore -/

@[simp] theorem State.modCore_now (s : State) (p : Nat) (f : Core → Core) : (s.modCore p f).now = s.now := rfl
@[simp] theorem State.modCore_cycle0 (s : State) (p : Nat) (f : Core → Core) : (s.modCore p f).cycle0 = s.cycle0 := rfl
@[simp] theorem State.modCore_mem (s : State) (p : Nat) (f : Core → Core) : (s.modCore p f).mem = s.mem := rfl
@[simp] theorem State.modCore_owners (s : State) (p : Nat) (f : Core → Core) : (s.modCore p f).owners = s.owners := rfl
@[simp] theorem State.modCore_grants (s : State) (p : Nat) (f : Core → Core) : (s.modCore p f).grants = s.grants := rfl
@[simp] theorem State.modCore_bays (s : State) (p : Nat) (f : Core → Core) : (s.modCore p f).bays = s.bays := rfl
@[simp] theorem State.modCore_engines (s : State) (p : Nat) (f : Core → Core) : (s.modCore p f).engines = s.engines := rfl
@[simp] theorem State.modCore_reqs (s : State) (p : Nat) (f : Core → Core) : (s.modCore p f).reqs = s.reqs := rfl
@[simp] theorem State.modCore_packets (s : State) (p : Nat) (f : Core → Core) : (s.modCore p f).packets = s.packets := rfl
@[simp] theorem State.modCore_outs (s : State) (p : Nat) (f : Core → Core) : (s.modCore p f).outs = s.outs := rfl
@[simp] theorem State.modCore_spans (s : State) (p : Nat) (f : Core → Core) : (s.modCore p f).spans = s.spans := rfl
@[simp] theorem State.modCore_groups (s : State) (p : Nat) (f : Core → Core) : (s.modCore p f).groups = s.groups := rfl
@[simp] theorem State.modCore_deadGroups (s : State) (p : Nat) (f : Core → Core) : (s.modCore p f).deadGroups = s.deadGroups := rfl
@[simp] theorem State.modCore_parts (s : State) (p : Nat) (f : Core → Core) : (s.modCore p f).parts = s.parts := rfl
@[simp] theorem State.modCore_vfs (s : State) (p : Nat) (f : Core → Core) : (s.modCore p f).vfs = s.vfs := rfl
@[simp] theorem State.modCore_pf (s : State) (p : Nat) (f : Core → Core) : (s.modCore p f).pf = s.pf := rfl
@[simp] theorem State.modCore_queues (s : State) (p : Nat) (f : Core → Core) : (s.modCore p f).queues = s.queues := rfl
@[simp] theorem State.modCore_served (s : State) (p : Nat) (f : Core → Core) : (s.modCore p f).served = s.served := rfl
@[simp] theorem State.modCore_launches (s : State) (p : Nat) (f : Core → Core) : (s.modCore p f).launches = s.launches := rfl
@[simp] theorem State.modCore_graphs (s : State) (p : Nat) (f : Core → Core) : (s.modCore p f).graphs = s.graphs := rfl
@[simp] theorem State.modCore_jobs (s : State) (p : Nat) (f : Core → Core) : (s.modCore p f).jobs = s.jobs := rfl
@[simp] theorem State.modCore_trusses (s : State) (p : Nat) (f : Core → Core) : (s.modCore p f).trusses = s.trusses := rfl
@[simp] theorem State.modCore_links (s : State) (p : Nat) (f : Core → Core) : (s.modCore p f).links = s.links := rfl
@[simp] theorem State.modCore_forks (s : State) (p : Nat) (f : Core → Core) : (s.modCore p f).forks = s.forks := rfl
@[simp] theorem State.modCore_move (s : State) (p : Nat) (f : Core → Core) : (s.modCore p f).move = s.move := rfl
@[simp] theorem State.modCore_compact (s : State) (p : Nat) (f : Core → Core) : (s.modCore p f).compact = s.compact := rfl
@[simp] theorem State.modCore_rungs (s : State) (p : Nat) (f : Core → Core) : (s.modCore p f).rungs = s.rungs := rfl
@[simp] theorem State.modCore_start (s : State) (p : Nat) (f : Core → Core) : (s.modCore p f).start = s.start := rfl
@[simp] theorem State.modCore_fuses (s : State) (p : Nat) (f : Core → Core) : (s.modCore p f).fuses = s.fuses := rfl
@[simp] theorem State.modCore_worn (s : State) (p : Nat) (f : Core → Core) : (s.modCore p f).worn = s.worn := rfl
@[simp] theorem State.modCore_meters (s : State) (p : Nat) (f : Core → Core) : (s.modCore p f).meters = s.meters := rfl
@[simp] theorem State.modCore_chain (s : State) (p : Nat) (f : Core → Core) : (s.modCore p f).chain = s.chain := rfl
@[simp] theorem State.modCore_freeSill (s : State) (p : Nat) (f : Core → Core) : (s.modCore p f).freeSill = s.freeSill := rfl
@[simp] theorem State.modCore_spdm (s : State) (p : Nat) (f : Core → Core) : (s.modCore p f).spdm = s.spdm := rfl
@[simp] theorem State.modCore_turns (s : State) (p : Nat) (f : Core → Core) : (s.modCore p f).turns = s.turns := rfl
@[simp] theorem State.modCore_cur (s : State) (p : Nat) (f : Core → Core) : (s.modCore p f).cur = s.cur := rfl
@[simp] theorem State.modCore_freeCount (s : State) (p : Nat) (f : Core → Core) : (s.modCore p f).freeCount = s.freeCount := rfl
@[simp] theorem State.modCore_fresh (s : State) (p : Nat) (f : Core → Core) : (s.modCore p f).fresh = s.fresh := rfl

/-! ### State.setPart -/

@[simp] theorem State.setPart_now (s : State) (n : Nat) (p : Partition) : (s.setPart n p).now = s.now := rfl
@[simp] theorem State.setPart_cycle0 (s : State) (n : Nat) (p : Partition) : (s.setPart n p).cycle0 = s.cycle0 := rfl
@[simp] theorem State.setPart_mem (s : State) (n : Nat) (p : Partition) : (s.setPart n p).mem = s.mem := rfl
@[simp] theorem State.setPart_owners (s : State) (n : Nat) (p : Partition) : (s.setPart n p).owners = s.owners := rfl
@[simp] theorem State.setPart_grants (s : State) (n : Nat) (p : Partition) : (s.setPart n p).grants = s.grants := rfl
@[simp] theorem State.setPart_pages (s : State) (n : Nat) (p : Partition) : (s.setPart n p).pages = s.pages := rfl
@[simp] theorem State.setPart_bays (s : State) (n : Nat) (p : Partition) : (s.setPart n p).bays = s.bays := rfl
@[simp] theorem State.setPart_engines (s : State) (n : Nat) (p : Partition) : (s.setPart n p).engines = s.engines := rfl
@[simp] theorem State.setPart_reqs (s : State) (n : Nat) (p : Partition) : (s.setPart n p).reqs = s.reqs := rfl
@[simp] theorem State.setPart_packets (s : State) (n : Nat) (p : Partition) : (s.setPart n p).packets = s.packets := rfl
@[simp] theorem State.setPart_outs (s : State) (n : Nat) (p : Partition) : (s.setPart n p).outs = s.outs := rfl
@[simp] theorem State.setPart_spans (s : State) (n : Nat) (p : Partition) : (s.setPart n p).spans = s.spans := rfl
@[simp] theorem State.setPart_groups (s : State) (n : Nat) (p : Partition) : (s.setPart n p).groups = s.groups := rfl
@[simp] theorem State.setPart_deadGroups (s : State) (n : Nat) (p : Partition) : (s.setPart n p).deadGroups = s.deadGroups := rfl
@[simp] theorem State.setPart_vfs (s : State) (n : Nat) (p : Partition) : (s.setPart n p).vfs = s.vfs := rfl
@[simp] theorem State.setPart_pf (s : State) (n : Nat) (p : Partition) : (s.setPart n p).pf = s.pf := rfl
@[simp] theorem State.setPart_queues (s : State) (n : Nat) (p : Partition) : (s.setPart n p).queues = s.queues := rfl
@[simp] theorem State.setPart_served (s : State) (n : Nat) (p : Partition) : (s.setPart n p).served = s.served := rfl
@[simp] theorem State.setPart_launches (s : State) (n : Nat) (p : Partition) : (s.setPart n p).launches = s.launches := rfl
@[simp] theorem State.setPart_graphs (s : State) (n : Nat) (p : Partition) : (s.setPart n p).graphs = s.graphs := rfl
@[simp] theorem State.setPart_jobs (s : State) (n : Nat) (p : Partition) : (s.setPart n p).jobs = s.jobs := rfl
@[simp] theorem State.setPart_trusses (s : State) (n : Nat) (p : Partition) : (s.setPart n p).trusses = s.trusses := rfl
@[simp] theorem State.setPart_links (s : State) (n : Nat) (p : Partition) : (s.setPart n p).links = s.links := rfl
@[simp] theorem State.setPart_forks (s : State) (n : Nat) (p : Partition) : (s.setPart n p).forks = s.forks := rfl
@[simp] theorem State.setPart_move (s : State) (n : Nat) (p : Partition) : (s.setPart n p).move = s.move := rfl
@[simp] theorem State.setPart_compact (s : State) (n : Nat) (p : Partition) : (s.setPart n p).compact = s.compact := rfl
@[simp] theorem State.setPart_rungs (s : State) (n : Nat) (p : Partition) : (s.setPart n p).rungs = s.rungs := rfl
@[simp] theorem State.setPart_start (s : State) (n : Nat) (p : Partition) : (s.setPart n p).start = s.start := rfl
@[simp] theorem State.setPart_fuses (s : State) (n : Nat) (p : Partition) : (s.setPart n p).fuses = s.fuses := rfl
@[simp] theorem State.setPart_worn (s : State) (n : Nat) (p : Partition) : (s.setPart n p).worn = s.worn := rfl
@[simp] theorem State.setPart_meters (s : State) (n : Nat) (p : Partition) : (s.setPart n p).meters = s.meters := rfl
@[simp] theorem State.setPart_chain (s : State) (n : Nat) (p : Partition) : (s.setPart n p).chain = s.chain := rfl
@[simp] theorem State.setPart_freeSill (s : State) (n : Nat) (p : Partition) : (s.setPart n p).freeSill = s.freeSill := rfl
@[simp] theorem State.setPart_spdm (s : State) (n : Nat) (p : Partition) : (s.setPart n p).spdm = s.spdm := rfl
@[simp] theorem State.setPart_turns (s : State) (n : Nat) (p : Partition) : (s.setPart n p).turns = s.turns := rfl
@[simp] theorem State.setPart_cur (s : State) (n : Nat) (p : Partition) : (s.setPart n p).cur = s.cur := rfl
@[simp] theorem State.setPart_freeCount (s : State) (n : Nat) (p : Partition) : (s.setPart n p).freeCount = s.freeCount := rfl
@[simp] theorem State.setPart_fresh (s : State) (n : Nat) (p : Partition) : (s.setPart n p).fresh = s.fresh := rfl

/-! ### State.modPart -/

@[simp] theorem State.modPart_now (s : State) (n : Nat) (f : Partition → Partition) : (s.modPart n f).now = s.now := rfl
@[simp] theorem State.modPart_cycle0 (s : State) (n : Nat) (f : Partition → Partition) : (s.modPart n f).cycle0 = s.cycle0 := rfl
@[simp] theorem State.modPart_mem (s : State) (n : Nat) (f : Partition → Partition) : (s.modPart n f).mem = s.mem := rfl
@[simp] theorem State.modPart_owners (s : State) (n : Nat) (f : Partition → Partition) : (s.modPart n f).owners = s.owners := rfl
@[simp] theorem State.modPart_grants (s : State) (n : Nat) (f : Partition → Partition) : (s.modPart n f).grants = s.grants := rfl
@[simp] theorem State.modPart_pages (s : State) (n : Nat) (f : Partition → Partition) : (s.modPart n f).pages = s.pages := rfl
@[simp] theorem State.modPart_bays (s : State) (n : Nat) (f : Partition → Partition) : (s.modPart n f).bays = s.bays := rfl
@[simp] theorem State.modPart_engines (s : State) (n : Nat) (f : Partition → Partition) : (s.modPart n f).engines = s.engines := rfl
@[simp] theorem State.modPart_reqs (s : State) (n : Nat) (f : Partition → Partition) : (s.modPart n f).reqs = s.reqs := rfl
@[simp] theorem State.modPart_packets (s : State) (n : Nat) (f : Partition → Partition) : (s.modPart n f).packets = s.packets := rfl
@[simp] theorem State.modPart_outs (s : State) (n : Nat) (f : Partition → Partition) : (s.modPart n f).outs = s.outs := rfl
@[simp] theorem State.modPart_spans (s : State) (n : Nat) (f : Partition → Partition) : (s.modPart n f).spans = s.spans := rfl
@[simp] theorem State.modPart_groups (s : State) (n : Nat) (f : Partition → Partition) : (s.modPart n f).groups = s.groups := rfl
@[simp] theorem State.modPart_deadGroups (s : State) (n : Nat) (f : Partition → Partition) : (s.modPart n f).deadGroups = s.deadGroups := rfl
@[simp] theorem State.modPart_vfs (s : State) (n : Nat) (f : Partition → Partition) : (s.modPart n f).vfs = s.vfs := rfl
@[simp] theorem State.modPart_pf (s : State) (n : Nat) (f : Partition → Partition) : (s.modPart n f).pf = s.pf := rfl
@[simp] theorem State.modPart_queues (s : State) (n : Nat) (f : Partition → Partition) : (s.modPart n f).queues = s.queues := rfl
@[simp] theorem State.modPart_served (s : State) (n : Nat) (f : Partition → Partition) : (s.modPart n f).served = s.served := rfl
@[simp] theorem State.modPart_launches (s : State) (n : Nat) (f : Partition → Partition) : (s.modPart n f).launches = s.launches := rfl
@[simp] theorem State.modPart_graphs (s : State) (n : Nat) (f : Partition → Partition) : (s.modPart n f).graphs = s.graphs := rfl
@[simp] theorem State.modPart_jobs (s : State) (n : Nat) (f : Partition → Partition) : (s.modPart n f).jobs = s.jobs := rfl
@[simp] theorem State.modPart_trusses (s : State) (n : Nat) (f : Partition → Partition) : (s.modPart n f).trusses = s.trusses := rfl
@[simp] theorem State.modPart_links (s : State) (n : Nat) (f : Partition → Partition) : (s.modPart n f).links = s.links := rfl
@[simp] theorem State.modPart_forks (s : State) (n : Nat) (f : Partition → Partition) : (s.modPart n f).forks = s.forks := rfl
@[simp] theorem State.modPart_move (s : State) (n : Nat) (f : Partition → Partition) : (s.modPart n f).move = s.move := rfl
@[simp] theorem State.modPart_compact (s : State) (n : Nat) (f : Partition → Partition) : (s.modPart n f).compact = s.compact := rfl
@[simp] theorem State.modPart_rungs (s : State) (n : Nat) (f : Partition → Partition) : (s.modPart n f).rungs = s.rungs := rfl
@[simp] theorem State.modPart_start (s : State) (n : Nat) (f : Partition → Partition) : (s.modPart n f).start = s.start := rfl
@[simp] theorem State.modPart_fuses (s : State) (n : Nat) (f : Partition → Partition) : (s.modPart n f).fuses = s.fuses := rfl
@[simp] theorem State.modPart_worn (s : State) (n : Nat) (f : Partition → Partition) : (s.modPart n f).worn = s.worn := rfl
@[simp] theorem State.modPart_meters (s : State) (n : Nat) (f : Partition → Partition) : (s.modPart n f).meters = s.meters := rfl
@[simp] theorem State.modPart_chain (s : State) (n : Nat) (f : Partition → Partition) : (s.modPart n f).chain = s.chain := rfl
@[simp] theorem State.modPart_freeSill (s : State) (n : Nat) (f : Partition → Partition) : (s.modPart n f).freeSill = s.freeSill := rfl
@[simp] theorem State.modPart_spdm (s : State) (n : Nat) (f : Partition → Partition) : (s.modPart n f).spdm = s.spdm := rfl
@[simp] theorem State.modPart_turns (s : State) (n : Nat) (f : Partition → Partition) : (s.modPart n f).turns = s.turns := rfl
@[simp] theorem State.modPart_cur (s : State) (n : Nat) (f : Partition → Partition) : (s.modPart n f).cur = s.cur := rfl
@[simp] theorem State.modPart_freeCount (s : State) (n : Nat) (f : Partition → Partition) : (s.modPart n f).freeCount = s.freeCount := rfl
@[simp] theorem State.modPart_fresh (s : State) (n : Nat) (f : Partition → Partition) : (s.modPart n f).fresh = s.fresh := rfl

/-! ### State.setVf -/

@[simp] theorem State.setVf_now (s : State) (n : Nat) (v : VF) : (s.setVf n v).now = s.now := rfl
@[simp] theorem State.setVf_cycle0 (s : State) (n : Nat) (v : VF) : (s.setVf n v).cycle0 = s.cycle0 := rfl
@[simp] theorem State.setVf_mem (s : State) (n : Nat) (v : VF) : (s.setVf n v).mem = s.mem := rfl
@[simp] theorem State.setVf_owners (s : State) (n : Nat) (v : VF) : (s.setVf n v).owners = s.owners := rfl
@[simp] theorem State.setVf_grants (s : State) (n : Nat) (v : VF) : (s.setVf n v).grants = s.grants := rfl
@[simp] theorem State.setVf_pages (s : State) (n : Nat) (v : VF) : (s.setVf n v).pages = s.pages := rfl
@[simp] theorem State.setVf_bays (s : State) (n : Nat) (v : VF) : (s.setVf n v).bays = s.bays := rfl
@[simp] theorem State.setVf_engines (s : State) (n : Nat) (v : VF) : (s.setVf n v).engines = s.engines := rfl
@[simp] theorem State.setVf_reqs (s : State) (n : Nat) (v : VF) : (s.setVf n v).reqs = s.reqs := rfl
@[simp] theorem State.setVf_packets (s : State) (n : Nat) (v : VF) : (s.setVf n v).packets = s.packets := rfl
@[simp] theorem State.setVf_outs (s : State) (n : Nat) (v : VF) : (s.setVf n v).outs = s.outs := rfl
@[simp] theorem State.setVf_spans (s : State) (n : Nat) (v : VF) : (s.setVf n v).spans = s.spans := rfl
@[simp] theorem State.setVf_groups (s : State) (n : Nat) (v : VF) : (s.setVf n v).groups = s.groups := rfl
@[simp] theorem State.setVf_deadGroups (s : State) (n : Nat) (v : VF) : (s.setVf n v).deadGroups = s.deadGroups := rfl
@[simp] theorem State.setVf_parts (s : State) (n : Nat) (v : VF) : (s.setVf n v).parts = s.parts := rfl
@[simp] theorem State.setVf_pf (s : State) (n : Nat) (v : VF) : (s.setVf n v).pf = s.pf := rfl
@[simp] theorem State.setVf_queues (s : State) (n : Nat) (v : VF) : (s.setVf n v).queues = s.queues := rfl
@[simp] theorem State.setVf_served (s : State) (n : Nat) (v : VF) : (s.setVf n v).served = s.served := rfl
@[simp] theorem State.setVf_launches (s : State) (n : Nat) (v : VF) : (s.setVf n v).launches = s.launches := rfl
@[simp] theorem State.setVf_graphs (s : State) (n : Nat) (v : VF) : (s.setVf n v).graphs = s.graphs := rfl
@[simp] theorem State.setVf_jobs (s : State) (n : Nat) (v : VF) : (s.setVf n v).jobs = s.jobs := rfl
@[simp] theorem State.setVf_trusses (s : State) (n : Nat) (v : VF) : (s.setVf n v).trusses = s.trusses := rfl
@[simp] theorem State.setVf_links (s : State) (n : Nat) (v : VF) : (s.setVf n v).links = s.links := rfl
@[simp] theorem State.setVf_forks (s : State) (n : Nat) (v : VF) : (s.setVf n v).forks = s.forks := rfl
@[simp] theorem State.setVf_move (s : State) (n : Nat) (v : VF) : (s.setVf n v).move = s.move := rfl
@[simp] theorem State.setVf_compact (s : State) (n : Nat) (v : VF) : (s.setVf n v).compact = s.compact := rfl
@[simp] theorem State.setVf_rungs (s : State) (n : Nat) (v : VF) : (s.setVf n v).rungs = s.rungs := rfl
@[simp] theorem State.setVf_start (s : State) (n : Nat) (v : VF) : (s.setVf n v).start = s.start := rfl
@[simp] theorem State.setVf_fuses (s : State) (n : Nat) (v : VF) : (s.setVf n v).fuses = s.fuses := rfl
@[simp] theorem State.setVf_worn (s : State) (n : Nat) (v : VF) : (s.setVf n v).worn = s.worn := rfl
@[simp] theorem State.setVf_meters (s : State) (n : Nat) (v : VF) : (s.setVf n v).meters = s.meters := rfl
@[simp] theorem State.setVf_chain (s : State) (n : Nat) (v : VF) : (s.setVf n v).chain = s.chain := rfl
@[simp] theorem State.setVf_freeSill (s : State) (n : Nat) (v : VF) : (s.setVf n v).freeSill = s.freeSill := rfl
@[simp] theorem State.setVf_spdm (s : State) (n : Nat) (v : VF) : (s.setVf n v).spdm = s.spdm := rfl
@[simp] theorem State.setVf_turns (s : State) (n : Nat) (v : VF) : (s.setVf n v).turns = s.turns := rfl
@[simp] theorem State.setVf_cur (s : State) (n : Nat) (v : VF) : (s.setVf n v).cur = s.cur := rfl
@[simp] theorem State.setVf_freeCount (s : State) (n : Nat) (v : VF) : (s.setVf n v).freeCount = s.freeCount := rfl
@[simp] theorem State.setVf_fresh (s : State) (n : Nat) (v : VF) : (s.setVf n v).fresh = s.fresh := rfl

/-! ### State.setBay -/

@[simp] theorem State.setBay_now (s : State) (b : Nat) (x : Bay) : (s.setBay b x).now = s.now := rfl
@[simp] theorem State.setBay_cycle0 (s : State) (b : Nat) (x : Bay) : (s.setBay b x).cycle0 = s.cycle0 := rfl
@[simp] theorem State.setBay_mem (s : State) (b : Nat) (x : Bay) : (s.setBay b x).mem = s.mem := rfl
@[simp] theorem State.setBay_owners (s : State) (b : Nat) (x : Bay) : (s.setBay b x).owners = s.owners := rfl
@[simp] theorem State.setBay_grants (s : State) (b : Nat) (x : Bay) : (s.setBay b x).grants = s.grants := rfl
@[simp] theorem State.setBay_pages (s : State) (b : Nat) (x : Bay) : (s.setBay b x).pages = s.pages := rfl
@[simp] theorem State.setBay_engines (s : State) (b : Nat) (x : Bay) : (s.setBay b x).engines = s.engines := rfl
@[simp] theorem State.setBay_reqs (s : State) (b : Nat) (x : Bay) : (s.setBay b x).reqs = s.reqs := rfl
@[simp] theorem State.setBay_packets (s : State) (b : Nat) (x : Bay) : (s.setBay b x).packets = s.packets := rfl
@[simp] theorem State.setBay_outs (s : State) (b : Nat) (x : Bay) : (s.setBay b x).outs = s.outs := rfl
@[simp] theorem State.setBay_spans (s : State) (b : Nat) (x : Bay) : (s.setBay b x).spans = s.spans := rfl
@[simp] theorem State.setBay_groups (s : State) (b : Nat) (x : Bay) : (s.setBay b x).groups = s.groups := rfl
@[simp] theorem State.setBay_deadGroups (s : State) (b : Nat) (x : Bay) : (s.setBay b x).deadGroups = s.deadGroups := rfl
@[simp] theorem State.setBay_parts (s : State) (b : Nat) (x : Bay) : (s.setBay b x).parts = s.parts := rfl
@[simp] theorem State.setBay_vfs (s : State) (b : Nat) (x : Bay) : (s.setBay b x).vfs = s.vfs := rfl
@[simp] theorem State.setBay_pf (s : State) (b : Nat) (x : Bay) : (s.setBay b x).pf = s.pf := rfl
@[simp] theorem State.setBay_queues (s : State) (b : Nat) (x : Bay) : (s.setBay b x).queues = s.queues := rfl
@[simp] theorem State.setBay_served (s : State) (b : Nat) (x : Bay) : (s.setBay b x).served = s.served := rfl
@[simp] theorem State.setBay_launches (s : State) (b : Nat) (x : Bay) : (s.setBay b x).launches = s.launches := rfl
@[simp] theorem State.setBay_graphs (s : State) (b : Nat) (x : Bay) : (s.setBay b x).graphs = s.graphs := rfl
@[simp] theorem State.setBay_jobs (s : State) (b : Nat) (x : Bay) : (s.setBay b x).jobs = s.jobs := rfl
@[simp] theorem State.setBay_trusses (s : State) (b : Nat) (x : Bay) : (s.setBay b x).trusses = s.trusses := rfl
@[simp] theorem State.setBay_links (s : State) (b : Nat) (x : Bay) : (s.setBay b x).links = s.links := rfl
@[simp] theorem State.setBay_forks (s : State) (b : Nat) (x : Bay) : (s.setBay b x).forks = s.forks := rfl
@[simp] theorem State.setBay_move (s : State) (b : Nat) (x : Bay) : (s.setBay b x).move = s.move := rfl
@[simp] theorem State.setBay_compact (s : State) (b : Nat) (x : Bay) : (s.setBay b x).compact = s.compact := rfl
@[simp] theorem State.setBay_rungs (s : State) (b : Nat) (x : Bay) : (s.setBay b x).rungs = s.rungs := rfl
@[simp] theorem State.setBay_start (s : State) (b : Nat) (x : Bay) : (s.setBay b x).start = s.start := rfl
@[simp] theorem State.setBay_fuses (s : State) (b : Nat) (x : Bay) : (s.setBay b x).fuses = s.fuses := rfl
@[simp] theorem State.setBay_worn (s : State) (b : Nat) (x : Bay) : (s.setBay b x).worn = s.worn := rfl
@[simp] theorem State.setBay_meters (s : State) (b : Nat) (x : Bay) : (s.setBay b x).meters = s.meters := rfl
@[simp] theorem State.setBay_chain (s : State) (b : Nat) (x : Bay) : (s.setBay b x).chain = s.chain := rfl
@[simp] theorem State.setBay_freeSill (s : State) (b : Nat) (x : Bay) : (s.setBay b x).freeSill = s.freeSill := rfl
@[simp] theorem State.setBay_spdm (s : State) (b : Nat) (x : Bay) : (s.setBay b x).spdm = s.spdm := rfl
@[simp] theorem State.setBay_turns (s : State) (b : Nat) (x : Bay) : (s.setBay b x).turns = s.turns := rfl
@[simp] theorem State.setBay_cur (s : State) (b : Nat) (x : Bay) : (s.setBay b x).cur = s.cur := rfl
@[simp] theorem State.setBay_freeCount (s : State) (b : Nat) (x : Bay) : (s.setBay b x).freeCount = s.freeCount := rfl
@[simp] theorem State.setBay_fresh (s : State) (b : Nat) (x : Bay) : (s.setBay b x).fresh = s.fresh := rfl

/-! ### State.setReq -/

@[simp] theorem State.setReq_now (s : State) (a : AgentId) (r : Requester) : (s.setReq a r).now = s.now := rfl
@[simp] theorem State.setReq_cycle0 (s : State) (a : AgentId) (r : Requester) : (s.setReq a r).cycle0 = s.cycle0 := rfl
@[simp] theorem State.setReq_mem (s : State) (a : AgentId) (r : Requester) : (s.setReq a r).mem = s.mem := rfl
@[simp] theorem State.setReq_owners (s : State) (a : AgentId) (r : Requester) : (s.setReq a r).owners = s.owners := rfl
@[simp] theorem State.setReq_grants (s : State) (a : AgentId) (r : Requester) : (s.setReq a r).grants = s.grants := rfl
@[simp] theorem State.setReq_pages (s : State) (a : AgentId) (r : Requester) : (s.setReq a r).pages = s.pages := rfl
@[simp] theorem State.setReq_bays (s : State) (a : AgentId) (r : Requester) : (s.setReq a r).bays = s.bays := rfl
@[simp] theorem State.setReq_engines (s : State) (a : AgentId) (r : Requester) : (s.setReq a r).engines = s.engines := rfl
@[simp] theorem State.setReq_packets (s : State) (a : AgentId) (r : Requester) : (s.setReq a r).packets = s.packets := rfl
@[simp] theorem State.setReq_outs (s : State) (a : AgentId) (r : Requester) : (s.setReq a r).outs = s.outs := rfl
@[simp] theorem State.setReq_spans (s : State) (a : AgentId) (r : Requester) : (s.setReq a r).spans = s.spans := rfl
@[simp] theorem State.setReq_groups (s : State) (a : AgentId) (r : Requester) : (s.setReq a r).groups = s.groups := rfl
@[simp] theorem State.setReq_deadGroups (s : State) (a : AgentId) (r : Requester) : (s.setReq a r).deadGroups = s.deadGroups := rfl
@[simp] theorem State.setReq_parts (s : State) (a : AgentId) (r : Requester) : (s.setReq a r).parts = s.parts := rfl
@[simp] theorem State.setReq_vfs (s : State) (a : AgentId) (r : Requester) : (s.setReq a r).vfs = s.vfs := rfl
@[simp] theorem State.setReq_pf (s : State) (a : AgentId) (r : Requester) : (s.setReq a r).pf = s.pf := rfl
@[simp] theorem State.setReq_queues (s : State) (a : AgentId) (r : Requester) : (s.setReq a r).queues = s.queues := rfl
@[simp] theorem State.setReq_served (s : State) (a : AgentId) (r : Requester) : (s.setReq a r).served = s.served := rfl
@[simp] theorem State.setReq_launches (s : State) (a : AgentId) (r : Requester) : (s.setReq a r).launches = s.launches := rfl
@[simp] theorem State.setReq_graphs (s : State) (a : AgentId) (r : Requester) : (s.setReq a r).graphs = s.graphs := rfl
@[simp] theorem State.setReq_jobs (s : State) (a : AgentId) (r : Requester) : (s.setReq a r).jobs = s.jobs := rfl
@[simp] theorem State.setReq_trusses (s : State) (a : AgentId) (r : Requester) : (s.setReq a r).trusses = s.trusses := rfl
@[simp] theorem State.setReq_links (s : State) (a : AgentId) (r : Requester) : (s.setReq a r).links = s.links := rfl
@[simp] theorem State.setReq_forks (s : State) (a : AgentId) (r : Requester) : (s.setReq a r).forks = s.forks := rfl
@[simp] theorem State.setReq_move (s : State) (a : AgentId) (r : Requester) : (s.setReq a r).move = s.move := rfl
@[simp] theorem State.setReq_compact (s : State) (a : AgentId) (r : Requester) : (s.setReq a r).compact = s.compact := rfl
@[simp] theorem State.setReq_rungs (s : State) (a : AgentId) (r : Requester) : (s.setReq a r).rungs = s.rungs := rfl
@[simp] theorem State.setReq_start (s : State) (a : AgentId) (r : Requester) : (s.setReq a r).start = s.start := rfl
@[simp] theorem State.setReq_fuses (s : State) (a : AgentId) (r : Requester) : (s.setReq a r).fuses = s.fuses := rfl
@[simp] theorem State.setReq_worn (s : State) (a : AgentId) (r : Requester) : (s.setReq a r).worn = s.worn := rfl
@[simp] theorem State.setReq_meters (s : State) (a : AgentId) (r : Requester) : (s.setReq a r).meters = s.meters := rfl
@[simp] theorem State.setReq_chain (s : State) (a : AgentId) (r : Requester) : (s.setReq a r).chain = s.chain := rfl
@[simp] theorem State.setReq_freeSill (s : State) (a : AgentId) (r : Requester) : (s.setReq a r).freeSill = s.freeSill := rfl
@[simp] theorem State.setReq_spdm (s : State) (a : AgentId) (r : Requester) : (s.setReq a r).spdm = s.spdm := rfl
@[simp] theorem State.setReq_turns (s : State) (a : AgentId) (r : Requester) : (s.setReq a r).turns = s.turns := rfl
@[simp] theorem State.setReq_cur (s : State) (a : AgentId) (r : Requester) : (s.setReq a r).cur = s.cur := rfl
@[simp] theorem State.setReq_freeCount (s : State) (a : AgentId) (r : Requester) : (s.setReq a r).freeCount = s.freeCount := rfl
@[simp] theorem State.setReq_fresh (s : State) (a : AgentId) (r : Requester) : (s.setReq a r).fresh = s.fresh := rfl

/-! ### State.setElem -/

@[simp] theorem State.setElem_now (s : State) (p e : Nat) (x : Elem) : (s.setElem p e x).now = s.now := rfl
@[simp] theorem State.setElem_cycle0 (s : State) (p e : Nat) (x : Elem) : (s.setElem p e x).cycle0 = s.cycle0 := rfl
@[simp] theorem State.setElem_mem (s : State) (p e : Nat) (x : Elem) : (s.setElem p e x).mem = s.mem := rfl
@[simp] theorem State.setElem_owners (s : State) (p e : Nat) (x : Elem) : (s.setElem p e x).owners = s.owners := rfl
@[simp] theorem State.setElem_grants (s : State) (p e : Nat) (x : Elem) : (s.setElem p e x).grants = s.grants := rfl
@[simp] theorem State.setElem_bays (s : State) (p e : Nat) (x : Elem) : (s.setElem p e x).bays = s.bays := rfl
@[simp] theorem State.setElem_engines (s : State) (p e : Nat) (x : Elem) : (s.setElem p e x).engines = s.engines := rfl
@[simp] theorem State.setElem_reqs (s : State) (p e : Nat) (x : Elem) : (s.setElem p e x).reqs = s.reqs := rfl
@[simp] theorem State.setElem_packets (s : State) (p e : Nat) (x : Elem) : (s.setElem p e x).packets = s.packets := rfl
@[simp] theorem State.setElem_outs (s : State) (p e : Nat) (x : Elem) : (s.setElem p e x).outs = s.outs := rfl
@[simp] theorem State.setElem_spans (s : State) (p e : Nat) (x : Elem) : (s.setElem p e x).spans = s.spans := rfl
@[simp] theorem State.setElem_groups (s : State) (p e : Nat) (x : Elem) : (s.setElem p e x).groups = s.groups := rfl
@[simp] theorem State.setElem_deadGroups (s : State) (p e : Nat) (x : Elem) : (s.setElem p e x).deadGroups = s.deadGroups := rfl
@[simp] theorem State.setElem_parts (s : State) (p e : Nat) (x : Elem) : (s.setElem p e x).parts = s.parts := rfl
@[simp] theorem State.setElem_vfs (s : State) (p e : Nat) (x : Elem) : (s.setElem p e x).vfs = s.vfs := rfl
@[simp] theorem State.setElem_pf (s : State) (p e : Nat) (x : Elem) : (s.setElem p e x).pf = s.pf := rfl
@[simp] theorem State.setElem_queues (s : State) (p e : Nat) (x : Elem) : (s.setElem p e x).queues = s.queues := rfl
@[simp] theorem State.setElem_served (s : State) (p e : Nat) (x : Elem) : (s.setElem p e x).served = s.served := rfl
@[simp] theorem State.setElem_launches (s : State) (p e : Nat) (x : Elem) : (s.setElem p e x).launches = s.launches := rfl
@[simp] theorem State.setElem_graphs (s : State) (p e : Nat) (x : Elem) : (s.setElem p e x).graphs = s.graphs := rfl
@[simp] theorem State.setElem_jobs (s : State) (p e : Nat) (x : Elem) : (s.setElem p e x).jobs = s.jobs := rfl
@[simp] theorem State.setElem_trusses (s : State) (p e : Nat) (x : Elem) : (s.setElem p e x).trusses = s.trusses := rfl
@[simp] theorem State.setElem_links (s : State) (p e : Nat) (x : Elem) : (s.setElem p e x).links = s.links := rfl
@[simp] theorem State.setElem_forks (s : State) (p e : Nat) (x : Elem) : (s.setElem p e x).forks = s.forks := rfl
@[simp] theorem State.setElem_move (s : State) (p e : Nat) (x : Elem) : (s.setElem p e x).move = s.move := rfl
@[simp] theorem State.setElem_compact (s : State) (p e : Nat) (x : Elem) : (s.setElem p e x).compact = s.compact := rfl
@[simp] theorem State.setElem_rungs (s : State) (p e : Nat) (x : Elem) : (s.setElem p e x).rungs = s.rungs := rfl
@[simp] theorem State.setElem_start (s : State) (p e : Nat) (x : Elem) : (s.setElem p e x).start = s.start := rfl
@[simp] theorem State.setElem_fuses (s : State) (p e : Nat) (x : Elem) : (s.setElem p e x).fuses = s.fuses := rfl
@[simp] theorem State.setElem_worn (s : State) (p e : Nat) (x : Elem) : (s.setElem p e x).worn = s.worn := rfl
@[simp] theorem State.setElem_meters (s : State) (p e : Nat) (x : Elem) : (s.setElem p e x).meters = s.meters := rfl
@[simp] theorem State.setElem_chain (s : State) (p e : Nat) (x : Elem) : (s.setElem p e x).chain = s.chain := rfl
@[simp] theorem State.setElem_freeSill (s : State) (p e : Nat) (x : Elem) : (s.setElem p e x).freeSill = s.freeSill := rfl
@[simp] theorem State.setElem_spdm (s : State) (p e : Nat) (x : Elem) : (s.setElem p e x).spdm = s.spdm := rfl
@[simp] theorem State.setElem_turns (s : State) (p e : Nat) (x : Elem) : (s.setElem p e x).turns = s.turns := rfl
@[simp] theorem State.setElem_cur (s : State) (p e : Nat) (x : Elem) : (s.setElem p e x).cur = s.cur := rfl
@[simp] theorem State.setElem_freeCount (s : State) (p e : Nat) (x : Elem) : (s.setElem p e x).freeCount = s.freeCount := rfl
@[simp] theorem State.setElem_fresh (s : State) (p e : Nat) (x : Elem) : (s.setElem p e x).fresh = s.fresh := rfl

/-! ### What is read back -/

@[simp] theorem State.page_setPage (s : State) (p : Nat) (pg : Page) : (s.setPage p pg).page p = pg := by
  simp [State.page, State.setPage, fgetD]

theorem State.page_setPage_other {s : State} {p q : Nat} {pg : Page} (h : q ≠ p) :
    (s.setPage p pg).page q = s.page q := by
  simp [State.page, State.setPage, fgetD, fget_fput_other h]

@[simp] theorem State.core_setCore (s : State) (c : Core) : (s.setCore c).core = c := by
  simp [State.core, State.setCore]

@[simp] theorem State.page_setCore (s : State) (c : Core) :
    (s.setCore c).page s.cur = { s.page s.cur with core := c } := by
  simp [State.setCore]

theorem State.page_setCore_other {s : State} {c : Core} {q : Nat} (h : q ≠ s.cur) :
    (s.setCore c).page q = s.page q := State.page_setPage_other h

@[simp] theorem State.part_setPart (s : State) (n : Nat) (p : Partition) : (s.setPart n p).part n = p := by
  simp [State.part, State.setPart, fgetD]

theorem State.part_setPart_other {s : State} {n m : Nat} {p : Partition} (h : m ≠ n) :
    (s.setPart n p).part m = s.part m := by
  simp [State.part, State.setPart, fgetD, fget_fput_other h]

@[simp] theorem State.vf_setVf (s : State) (n : Nat) (v : VF) : (s.setVf n v).vf n = v := by
  simp [State.vf, State.setVf, fgetD]

@[simp] theorem State.bay_setBay (s : State) (b : Nat) (x : Bay) : (s.setBay b x).bay b = x := by
  simp [State.bay, State.setBay, fgetD]

@[simp] theorem Page.elem_setElem (pg : Page) (e : Nat) (x : Elem) : (pg.setElem e x).elem e = x := by
  simp [Page.elem, Page.setElem, fgetD]

theorem Page.elem_setElem_other {pg : Page} {e d : Nat} {x : Elem} (h : d ≠ e) :
    (pg.setElem e x).elem d = pg.elem d := by
  simp [Page.elem, Page.setElem, fgetD, fget_fput_other h]

@[simp] theorem State.elem_setElem (s : State) (p e : Nat) (x : Elem) : (s.setElem p e x).elem p e = x := by
  simp [State.elem, State.setElem]

@[simp] theorem Page.tile_setTile (pg : Page) (e t : Nat) (x : Tile) : (pg.setTile e t x).tile e t = x := by
  simp [Page.tile, Page.setTile, fgetD]

theorem reqGet_reqPut (l : List (AgentId × Requester)) (a : AgentId) (r : Requester) :
    reqGet (reqPut l a r) a = r := by
  induction l with
  | nil => simp [reqPut, reqGet]
  | cons x t ih =>
    obtain ⟨b, q⟩ := x
    by_cases h : b = a <;> simp [reqPut, reqGet, h, ih]

theorem reqGet_reqPut_other {l : List (AgentId × Requester)} {a b : AgentId} {r : Requester} (h : b ≠ a) :
    reqGet (reqPut l a r) b = reqGet l b := by
  induction l with
  | nil => simp [reqPut, reqGet, h.symm]
  | cons x t ih =>
    obtain ⟨c, q⟩ := x
    by_cases hc : c = a
    · subst hc
      simp [reqPut, reqGet, h.symm]
    · simp only [reqPut, if_neg hc, reqGet, ih]

@[simp] theorem State.req_setReq (s : State) (a : AgentId) (r : Requester) : (s.setReq a r).req a = r := by
  simp [State.req, State.setReq, reqGet_reqPut]

/-! ### Core updates -/

@[simp] theorem Core.wr_pc (c : Core) (r : Reg) (v : Word) (t : Bool) : (c.wr r v t).pc = c.pc := by
  unfold Core.wr
  split <;> rfl
@[simp] theorem Core.wr_loops (c : Core) (r : Reg) (v : Word) (t : Bool) : (c.wr r v t).loops = c.loops := by
  unfold Core.wr
  split <;> rfl
@[simp] theorem Core.wr_dz (c : Core) (r : Reg) (v : Word) (t : Bool) : (c.wr r v t).dz = c.dz := by
  unfold Core.wr
  split <;> rfl
@[simp] theorem Core.wr_disc (c : Core) (r : Reg) (v : Word) (t : Bool) : (c.wr r v t).disc = c.disc := by
  unfold Core.wr
  split <;> rfl
@[simp] theorem Core.wr_tvec (c : Core) (r : Reg) (v : Word) (t : Bool) : (c.wr r v t).tvec = c.tvec := by
  unfold Core.wr
  split <;> rfl
@[simp] theorem Core.wr_tcause (c : Core) (r : Reg) (v : Word) (t : Bool) : (c.wr r v t).tcause = c.tcause := by
  unfold Core.wr
  split <;> rfl
@[simp] theorem Core.wr_tpc (c : Core) (r : Reg) (v : Word) (t : Bool) : (c.wr r v t).tpc = c.tpc := by
  unfold Core.wr
  split <;> rfl
@[simp] theorem Core.wr_tval (c : Core) (r : Reg) (v : Word) (t : Bool) : (c.wr r v t).tval = c.tval := by
  unfold Core.wr
  split <;> rfl
@[simp] theorem Core.wr_inh (c : Core) (r : Reg) (v : Word) (t : Bool) : (c.wr r v t).inh = c.inh := by
  unfold Core.wr
  split <;> rfl
@[simp] theorem Core.wr_sstep (c : Core) (r : Reg) (v : Word) (t : Bool) : (c.wr r v t).sstep = c.sstep := by
  unfold Core.wr
  split <;> rfl
@[simp] theorem Core.wr_haz (c : Core) (r : Reg) (v : Word) (t : Bool) : (c.wr r v t).haz = c.haz := by
  unfold Core.wr
  split <;> rfl
@[simp] theorem Core.wr_regno (c : Core) (r : Reg) (v : Word) (t : Bool) : (c.wr r v t).regno = c.regno := by
  unfold Core.wr
  split <;> rfl
@[simp] theorem Core.wr_l1d (c : Core) (r : Reg) (v : Word) (t : Bool) : (c.wr r v t).l1d = c.l1d := by
  unfold Core.wr
  split <;> rfl
@[simp] theorem Core.wr_l1i (c : Core) (r : Reg) (v : Word) (t : Bool) : (c.wr r v t).l1i = c.l1i := by
  unfold Core.wr
  split <;> rfl
@[simp] theorem Core.wr_lbuf (c : Core) (r : Reg) (v : Word) (t : Bool) : (c.wr r v t).lbuf = c.lbuf := by
  unfold Core.wr
  split <;> rfl
@[simp] theorem Core.wr_lbufSpan (c : Core) (r : Reg) (v : Word) (t : Bool) : (c.wr r v t).lbufSpan = c.lbufSpan := by
  unfold Core.wr
  split <;> rfl
@[simp] theorem Core.wr_run (c : Core) (r : Reg) (v : Word) (t : Bool) : (c.wr r v t).run = c.run := by
  unfold Core.wr
  split <;> rfl
@[simp] theorem Core.wr_wait (c : Core) (r : Reg) (v : Word) (t : Bool) : (c.wr r v t).wait = c.wait := by
  unfold Core.wr
  split <;> rfl
@[simp] theorem Core.wr_stage (c : Core) (r : Reg) (v : Word) (t : Bool) : (c.wr r v t).stage = c.stage := by
  unfold Core.wr
  split <;> rfl
@[simp] theorem Core.wr_resp (c : Core) (r : Reg) (v : Word) (t : Bool) : (c.wr r v t).resp = c.resp := by
  unfold Core.wr
  split <;> rfl
@[simp] theorem Core.wr_due (c : Core) (r : Reg) (v : Word) (t : Bool) : (c.wr r v t).due = c.due := by
  unfold Core.wr
  split <;> rfl
@[simp] theorem Core.wr_fetched (c : Core) (r : Reg) (v : Word) (t : Bool) : (c.wr r v t).fetched = c.fetched := by
  unfold Core.wr
  split <;> rfl
@[simp] theorem Core.wr_failed (c : Core) (r : Reg) (v : Word) (t : Bool) : (c.wr r v t).failed = c.failed := by
  unfold Core.wr
  split <;> rfl
@[simp] theorem Core.wr_lost (c : Core) (r : Reg) (v : Word) (t : Bool) : (c.wr r v t).lost = c.lost := by
  unfold Core.wr
  split <;> rfl
@[simp] theorem Core.wr_wbStall (c : Core) (r : Reg) (v : Word) (t : Bool) : (c.wr r v t).wbStall = c.wbStall := by
  unfold Core.wr
  split <;> rfl
@[simp] theorem Core.wr_scratch (c : Core) (r : Reg) (v : Word) (t : Bool) : (c.wr r v t).scratch = c.scratch := by
  unfold Core.wr
  split <;> rfl
@[simp] theorem Core.wr_event (c : Core) (r : Reg) (v : Word) (t : Bool) : (c.wr r v t).event = c.event := by
  unfold Core.wr
  split <;> rfl
@[simp] theorem Core.wr_ticket (c : Core) (r : Reg) (v : Word) (t : Bool) : (c.wr r v t).ticket = c.ticket := by
  unfold Core.wr
  split <;> rfl
@[simp] theorem Core.wr_tickets (c : Core) (r : Reg) (v : Word) (t : Bool) : (c.wr r v t).tickets = c.tickets := by
  unfold Core.wr
  split <;> rfl
@[simp] theorem Core.wr_skips (c : Core) (r : Reg) (v : Word) (t : Bool) : (c.wr r v t).skips = c.skips := by
  unfold Core.wr
  split <;> rfl
@[simp] theorem Core.wr_barrier (c : Core) (r : Reg) (v : Word) (t : Bool) : (c.wr r v t).barrier = c.barrier := by
  unfold Core.wr
  split <;> rfl
@[simp] theorem Core.wr_regionReads (c : Core) (r : Reg) (v : Word) (t : Bool) : (c.wr r v t).regionReads = c.regionReads := by
  unfold Core.wr
  split <;> rfl
@[simp] theorem Core.wr_hazard (c : Core) (r : Reg) (v : Word) (t : Bool) : (c.wr r v t).hazard = c.hazard := by
  unfold Core.wr
  split <;> rfl

@[simp] theorem Core.setLoop_regs (c : Core) (k : Fin 3) (l : Loop) : (c.setLoop k l).regs = c.regs := rfl
@[simp] theorem Core.setLoop_taint (c : Core) (k : Fin 3) (l : Loop) : (c.setLoop k l).taint = c.taint := rfl
@[simp] theorem Core.setLoop_pc (c : Core) (k : Fin 3) (l : Loop) : (c.setLoop k l).pc = c.pc := rfl
@[simp] theorem Core.setLoop_dz (c : Core) (k : Fin 3) (l : Loop) : (c.setLoop k l).dz = c.dz := rfl
@[simp] theorem Core.setLoop_disc (c : Core) (k : Fin 3) (l : Loop) : (c.setLoop k l).disc = c.disc := rfl
@[simp] theorem Core.setLoop_tvec (c : Core) (k : Fin 3) (l : Loop) : (c.setLoop k l).tvec = c.tvec := rfl
@[simp] theorem Core.setLoop_tcause (c : Core) (k : Fin 3) (l : Loop) : (c.setLoop k l).tcause = c.tcause := rfl
@[simp] theorem Core.setLoop_tpc (c : Core) (k : Fin 3) (l : Loop) : (c.setLoop k l).tpc = c.tpc := rfl
@[simp] theorem Core.setLoop_tval (c : Core) (k : Fin 3) (l : Loop) : (c.setLoop k l).tval = c.tval := rfl
@[simp] theorem Core.setLoop_inh (c : Core) (k : Fin 3) (l : Loop) : (c.setLoop k l).inh = c.inh := rfl
@[simp] theorem Core.setLoop_sstep (c : Core) (k : Fin 3) (l : Loop) : (c.setLoop k l).sstep = c.sstep := rfl
@[simp] theorem Core.setLoop_haz (c : Core) (k : Fin 3) (l : Loop) : (c.setLoop k l).haz = c.haz := rfl
@[simp] theorem Core.setLoop_regno (c : Core) (k : Fin 3) (l : Loop) : (c.setLoop k l).regno = c.regno := rfl
@[simp] theorem Core.setLoop_l1d (c : Core) (k : Fin 3) (l : Loop) : (c.setLoop k l).l1d = c.l1d := rfl
@[simp] theorem Core.setLoop_l1i (c : Core) (k : Fin 3) (l : Loop) : (c.setLoop k l).l1i = c.l1i := rfl
@[simp] theorem Core.setLoop_lbuf (c : Core) (k : Fin 3) (l : Loop) : (c.setLoop k l).lbuf = c.lbuf := rfl
@[simp] theorem Core.setLoop_lbufSpan (c : Core) (k : Fin 3) (l : Loop) : (c.setLoop k l).lbufSpan = c.lbufSpan := rfl
@[simp] theorem Core.setLoop_run (c : Core) (k : Fin 3) (l : Loop) : (c.setLoop k l).run = c.run := rfl
@[simp] theorem Core.setLoop_wait (c : Core) (k : Fin 3) (l : Loop) : (c.setLoop k l).wait = c.wait := rfl
@[simp] theorem Core.setLoop_stage (c : Core) (k : Fin 3) (l : Loop) : (c.setLoop k l).stage = c.stage := rfl
@[simp] theorem Core.setLoop_resp (c : Core) (k : Fin 3) (l : Loop) : (c.setLoop k l).resp = c.resp := rfl
@[simp] theorem Core.setLoop_due (c : Core) (k : Fin 3) (l : Loop) : (c.setLoop k l).due = c.due := rfl
@[simp] theorem Core.setLoop_fetched (c : Core) (k : Fin 3) (l : Loop) : (c.setLoop k l).fetched = c.fetched := rfl
@[simp] theorem Core.setLoop_failed (c : Core) (k : Fin 3) (l : Loop) : (c.setLoop k l).failed = c.failed := rfl
@[simp] theorem Core.setLoop_lost (c : Core) (k : Fin 3) (l : Loop) : (c.setLoop k l).lost = c.lost := rfl
@[simp] theorem Core.setLoop_wbStall (c : Core) (k : Fin 3) (l : Loop) : (c.setLoop k l).wbStall = c.wbStall := rfl
@[simp] theorem Core.setLoop_scratch (c : Core) (k : Fin 3) (l : Loop) : (c.setLoop k l).scratch = c.scratch := rfl
@[simp] theorem Core.setLoop_event (c : Core) (k : Fin 3) (l : Loop) : (c.setLoop k l).event = c.event := rfl
@[simp] theorem Core.setLoop_ticket (c : Core) (k : Fin 3) (l : Loop) : (c.setLoop k l).ticket = c.ticket := rfl
@[simp] theorem Core.setLoop_tickets (c : Core) (k : Fin 3) (l : Loop) : (c.setLoop k l).tickets = c.tickets := rfl
@[simp] theorem Core.setLoop_skips (c : Core) (k : Fin 3) (l : Loop) : (c.setLoop k l).skips = c.skips := rfl
@[simp] theorem Core.setLoop_barrier (c : Core) (k : Fin 3) (l : Loop) : (c.setLoop k l).barrier = c.barrier := rfl
@[simp] theorem Core.setLoop_regionReads (c : Core) (k : Fin 3) (l : Loop) : (c.setLoop k l).regionReads = c.regionReads := rfl
@[simp] theorem Core.setLoop_hazard (c : Core) (k : Fin 3) (l : Loop) : (c.setLoop k l).hazard = c.hazard := rfl

@[simp] theorem Core.dropLoop_regs (c : Core) (k : Fin 3) : (c.dropLoop k).regs = c.regs := rfl
@[simp] theorem Core.dropLoop_taint (c : Core) (k : Fin 3) : (c.dropLoop k).taint = c.taint := rfl
@[simp] theorem Core.dropLoop_pc (c : Core) (k : Fin 3) : (c.dropLoop k).pc = c.pc := rfl
@[simp] theorem Core.dropLoop_dz (c : Core) (k : Fin 3) : (c.dropLoop k).dz = c.dz := rfl
@[simp] theorem Core.dropLoop_disc (c : Core) (k : Fin 3) : (c.dropLoop k).disc = c.disc := rfl
@[simp] theorem Core.dropLoop_tvec (c : Core) (k : Fin 3) : (c.dropLoop k).tvec = c.tvec := rfl
@[simp] theorem Core.dropLoop_tcause (c : Core) (k : Fin 3) : (c.dropLoop k).tcause = c.tcause := rfl
@[simp] theorem Core.dropLoop_tpc (c : Core) (k : Fin 3) : (c.dropLoop k).tpc = c.tpc := rfl
@[simp] theorem Core.dropLoop_tval (c : Core) (k : Fin 3) : (c.dropLoop k).tval = c.tval := rfl
@[simp] theorem Core.dropLoop_inh (c : Core) (k : Fin 3) : (c.dropLoop k).inh = c.inh := rfl
@[simp] theorem Core.dropLoop_sstep (c : Core) (k : Fin 3) : (c.dropLoop k).sstep = c.sstep := rfl
@[simp] theorem Core.dropLoop_haz (c : Core) (k : Fin 3) : (c.dropLoop k).haz = c.haz := rfl
@[simp] theorem Core.dropLoop_regno (c : Core) (k : Fin 3) : (c.dropLoop k).regno = c.regno := rfl
@[simp] theorem Core.dropLoop_l1d (c : Core) (k : Fin 3) : (c.dropLoop k).l1d = c.l1d := rfl
@[simp] theorem Core.dropLoop_l1i (c : Core) (k : Fin 3) : (c.dropLoop k).l1i = c.l1i := rfl
@[simp] theorem Core.dropLoop_lbuf (c : Core) (k : Fin 3) : (c.dropLoop k).lbuf = c.lbuf := rfl
@[simp] theorem Core.dropLoop_lbufSpan (c : Core) (k : Fin 3) : (c.dropLoop k).lbufSpan = c.lbufSpan := rfl
@[simp] theorem Core.dropLoop_run (c : Core) (k : Fin 3) : (c.dropLoop k).run = c.run := rfl
@[simp] theorem Core.dropLoop_wait (c : Core) (k : Fin 3) : (c.dropLoop k).wait = c.wait := rfl
@[simp] theorem Core.dropLoop_stage (c : Core) (k : Fin 3) : (c.dropLoop k).stage = c.stage := rfl
@[simp] theorem Core.dropLoop_resp (c : Core) (k : Fin 3) : (c.dropLoop k).resp = c.resp := rfl
@[simp] theorem Core.dropLoop_due (c : Core) (k : Fin 3) : (c.dropLoop k).due = c.due := rfl
@[simp] theorem Core.dropLoop_fetched (c : Core) (k : Fin 3) : (c.dropLoop k).fetched = c.fetched := rfl
@[simp] theorem Core.dropLoop_failed (c : Core) (k : Fin 3) : (c.dropLoop k).failed = c.failed := rfl
@[simp] theorem Core.dropLoop_lost (c : Core) (k : Fin 3) : (c.dropLoop k).lost = c.lost := rfl
@[simp] theorem Core.dropLoop_wbStall (c : Core) (k : Fin 3) : (c.dropLoop k).wbStall = c.wbStall := rfl
@[simp] theorem Core.dropLoop_scratch (c : Core) (k : Fin 3) : (c.dropLoop k).scratch = c.scratch := rfl
@[simp] theorem Core.dropLoop_event (c : Core) (k : Fin 3) : (c.dropLoop k).event = c.event := rfl
@[simp] theorem Core.dropLoop_ticket (c : Core) (k : Fin 3) : (c.dropLoop k).ticket = c.ticket := rfl
@[simp] theorem Core.dropLoop_tickets (c : Core) (k : Fin 3) : (c.dropLoop k).tickets = c.tickets := rfl
@[simp] theorem Core.dropLoop_skips (c : Core) (k : Fin 3) : (c.dropLoop k).skips = c.skips := rfl
@[simp] theorem Core.dropLoop_barrier (c : Core) (k : Fin 3) : (c.dropLoop k).barrier = c.barrier := rfl
@[simp] theorem Core.dropLoop_regionReads (c : Core) (k : Fin 3) : (c.dropLoop k).regionReads = c.regionReads := rfl
@[simp] theorem Core.dropLoop_hazard (c : Core) (k : Fin 3) : (c.dropLoop k).hazard = c.hazard := rfl

@[simp] theorem Core.setDz_regs (c : Core) : (c.setDz).regs = c.regs := rfl
@[simp] theorem Core.setDz_taint (c : Core) : (c.setDz).taint = c.taint := rfl
@[simp] theorem Core.setDz_pc (c : Core) : (c.setDz).pc = c.pc := rfl
@[simp] theorem Core.setDz_loops (c : Core) : (c.setDz).loops = c.loops := rfl
@[simp] theorem Core.setDz_disc (c : Core) : (c.setDz).disc = c.disc := rfl
@[simp] theorem Core.setDz_tvec (c : Core) : (c.setDz).tvec = c.tvec := rfl
@[simp] theorem Core.setDz_tcause (c : Core) : (c.setDz).tcause = c.tcause := rfl
@[simp] theorem Core.setDz_tpc (c : Core) : (c.setDz).tpc = c.tpc := rfl
@[simp] theorem Core.setDz_tval (c : Core) : (c.setDz).tval = c.tval := rfl
@[simp] theorem Core.setDz_inh (c : Core) : (c.setDz).inh = c.inh := rfl
@[simp] theorem Core.setDz_sstep (c : Core) : (c.setDz).sstep = c.sstep := rfl
@[simp] theorem Core.setDz_haz (c : Core) : (c.setDz).haz = c.haz := rfl
@[simp] theorem Core.setDz_regno (c : Core) : (c.setDz).regno = c.regno := rfl
@[simp] theorem Core.setDz_l1d (c : Core) : (c.setDz).l1d = c.l1d := rfl
@[simp] theorem Core.setDz_l1i (c : Core) : (c.setDz).l1i = c.l1i := rfl
@[simp] theorem Core.setDz_lbuf (c : Core) : (c.setDz).lbuf = c.lbuf := rfl
@[simp] theorem Core.setDz_lbufSpan (c : Core) : (c.setDz).lbufSpan = c.lbufSpan := rfl
@[simp] theorem Core.setDz_run (c : Core) : (c.setDz).run = c.run := rfl
@[simp] theorem Core.setDz_wait (c : Core) : (c.setDz).wait = c.wait := rfl
@[simp] theorem Core.setDz_stage (c : Core) : (c.setDz).stage = c.stage := rfl
@[simp] theorem Core.setDz_resp (c : Core) : (c.setDz).resp = c.resp := rfl
@[simp] theorem Core.setDz_due (c : Core) : (c.setDz).due = c.due := rfl
@[simp] theorem Core.setDz_fetched (c : Core) : (c.setDz).fetched = c.fetched := rfl
@[simp] theorem Core.setDz_failed (c : Core) : (c.setDz).failed = c.failed := rfl
@[simp] theorem Core.setDz_lost (c : Core) : (c.setDz).lost = c.lost := rfl
@[simp] theorem Core.setDz_wbStall (c : Core) : (c.setDz).wbStall = c.wbStall := rfl
@[simp] theorem Core.setDz_scratch (c : Core) : (c.setDz).scratch = c.scratch := rfl
@[simp] theorem Core.setDz_event (c : Core) : (c.setDz).event = c.event := rfl
@[simp] theorem Core.setDz_ticket (c : Core) : (c.setDz).ticket = c.ticket := rfl
@[simp] theorem Core.setDz_tickets (c : Core) : (c.setDz).tickets = c.tickets := rfl
@[simp] theorem Core.setDz_skips (c : Core) : (c.setDz).skips = c.skips := rfl
@[simp] theorem Core.setDz_barrier (c : Core) : (c.setDz).barrier = c.barrier := rfl
@[simp] theorem Core.setDz_regionReads (c : Core) : (c.setDz).regionReads = c.regionReads := rfl
@[simp] theorem Core.setDz_hazard (c : Core) : (c.setDz).hazard = c.hazard := rfl

@[simp] theorem Core.setDisc_regs (c : Core) : (c.setDisc).regs = c.regs := rfl
@[simp] theorem Core.setDisc_taint (c : Core) : (c.setDisc).taint = c.taint := rfl
@[simp] theorem Core.setDisc_pc (c : Core) : (c.setDisc).pc = c.pc := rfl
@[simp] theorem Core.setDisc_loops (c : Core) : (c.setDisc).loops = c.loops := rfl
@[simp] theorem Core.setDisc_dz (c : Core) : (c.setDisc).dz = c.dz := rfl
@[simp] theorem Core.setDisc_tvec (c : Core) : (c.setDisc).tvec = c.tvec := rfl
@[simp] theorem Core.setDisc_tcause (c : Core) : (c.setDisc).tcause = c.tcause := rfl
@[simp] theorem Core.setDisc_tpc (c : Core) : (c.setDisc).tpc = c.tpc := rfl
@[simp] theorem Core.setDisc_tval (c : Core) : (c.setDisc).tval = c.tval := rfl
@[simp] theorem Core.setDisc_inh (c : Core) : (c.setDisc).inh = c.inh := rfl
@[simp] theorem Core.setDisc_sstep (c : Core) : (c.setDisc).sstep = c.sstep := rfl
@[simp] theorem Core.setDisc_haz (c : Core) : (c.setDisc).haz = c.haz := rfl
@[simp] theorem Core.setDisc_regno (c : Core) : (c.setDisc).regno = c.regno := rfl
@[simp] theorem Core.setDisc_l1d (c : Core) : (c.setDisc).l1d = c.l1d := rfl
@[simp] theorem Core.setDisc_l1i (c : Core) : (c.setDisc).l1i = c.l1i := rfl
@[simp] theorem Core.setDisc_lbuf (c : Core) : (c.setDisc).lbuf = c.lbuf := rfl
@[simp] theorem Core.setDisc_lbufSpan (c : Core) : (c.setDisc).lbufSpan = c.lbufSpan := rfl
@[simp] theorem Core.setDisc_run (c : Core) : (c.setDisc).run = c.run := rfl
@[simp] theorem Core.setDisc_wait (c : Core) : (c.setDisc).wait = c.wait := rfl
@[simp] theorem Core.setDisc_stage (c : Core) : (c.setDisc).stage = c.stage := rfl
@[simp] theorem Core.setDisc_resp (c : Core) : (c.setDisc).resp = c.resp := rfl
@[simp] theorem Core.setDisc_due (c : Core) : (c.setDisc).due = c.due := rfl
@[simp] theorem Core.setDisc_fetched (c : Core) : (c.setDisc).fetched = c.fetched := rfl
@[simp] theorem Core.setDisc_failed (c : Core) : (c.setDisc).failed = c.failed := rfl
@[simp] theorem Core.setDisc_lost (c : Core) : (c.setDisc).lost = c.lost := rfl
@[simp] theorem Core.setDisc_wbStall (c : Core) : (c.setDisc).wbStall = c.wbStall := rfl
@[simp] theorem Core.setDisc_scratch (c : Core) : (c.setDisc).scratch = c.scratch := rfl
@[simp] theorem Core.setDisc_event (c : Core) : (c.setDisc).event = c.event := rfl
@[simp] theorem Core.setDisc_ticket (c : Core) : (c.setDisc).ticket = c.ticket := rfl
@[simp] theorem Core.setDisc_tickets (c : Core) : (c.setDisc).tickets = c.tickets := rfl
@[simp] theorem Core.setDisc_skips (c : Core) : (c.setDisc).skips = c.skips := rfl
@[simp] theorem Core.setDisc_barrier (c : Core) : (c.setDisc).barrier = c.barrier := rfl
@[simp] theorem Core.setDisc_regionReads (c : Core) : (c.setDisc).regionReads = c.regionReads := rfl
@[simp] theorem Core.setDisc_hazard (c : Core) : (c.setDisc).hazard = c.hazard := rfl

@[simp] theorem Core.clearStage_regs (c : Core) : (c.clearStage).regs = c.regs := rfl
@[simp] theorem Core.clearStage_taint (c : Core) : (c.clearStage).taint = c.taint := rfl
@[simp] theorem Core.clearStage_pc (c : Core) : (c.clearStage).pc = c.pc := rfl
@[simp] theorem Core.clearStage_loops (c : Core) : (c.clearStage).loops = c.loops := rfl
@[simp] theorem Core.clearStage_dz (c : Core) : (c.clearStage).dz = c.dz := rfl
@[simp] theorem Core.clearStage_disc (c : Core) : (c.clearStage).disc = c.disc := rfl
@[simp] theorem Core.clearStage_tvec (c : Core) : (c.clearStage).tvec = c.tvec := rfl
@[simp] theorem Core.clearStage_tcause (c : Core) : (c.clearStage).tcause = c.tcause := rfl
@[simp] theorem Core.clearStage_tpc (c : Core) : (c.clearStage).tpc = c.tpc := rfl
@[simp] theorem Core.clearStage_tval (c : Core) : (c.clearStage).tval = c.tval := rfl
@[simp] theorem Core.clearStage_inh (c : Core) : (c.clearStage).inh = c.inh := rfl
@[simp] theorem Core.clearStage_sstep (c : Core) : (c.clearStage).sstep = c.sstep := rfl
@[simp] theorem Core.clearStage_haz (c : Core) : (c.clearStage).haz = c.haz := rfl
@[simp] theorem Core.clearStage_regno (c : Core) : (c.clearStage).regno = c.regno := rfl
@[simp] theorem Core.clearStage_l1d (c : Core) : (c.clearStage).l1d = c.l1d := rfl
@[simp] theorem Core.clearStage_l1i (c : Core) : (c.clearStage).l1i = c.l1i := rfl
@[simp] theorem Core.clearStage_lbuf (c : Core) : (c.clearStage).lbuf = c.lbuf := rfl
@[simp] theorem Core.clearStage_lbufSpan (c : Core) : (c.clearStage).lbufSpan = c.lbufSpan := rfl
@[simp] theorem Core.clearStage_due (c : Core) : (c.clearStage).due = c.due := rfl
@[simp] theorem Core.clearStage_lost (c : Core) : (c.clearStage).lost = c.lost := rfl
@[simp] theorem Core.clearStage_run (c : Core) : (c.clearStage).run = c.run := rfl
@[simp] theorem Core.clearStage_event (c : Core) : (c.clearStage).event = c.event := rfl
@[simp] theorem Core.clearStage_ticket (c : Core) : (c.clearStage).ticket = c.ticket := rfl
@[simp] theorem Core.clearStage_tickets (c : Core) : (c.clearStage).tickets = c.tickets := rfl
@[simp] theorem Core.clearStage_skips (c : Core) : (c.clearStage).skips = c.skips := rfl
@[simp] theorem Core.clearStage_barrier (c : Core) : (c.clearStage).barrier = c.barrier := rfl
@[simp] theorem Core.clearStage_regionReads (c : Core) : (c.clearStage).regionReads = c.regionReads := rfl
@[simp] theorem Core.clearStage_hazard (c : Core) : (c.clearStage).hazard = c.hazard := rfl

@[simp] theorem Core.clearStage_stage (c : Core) : c.clearStage.stage = 0 := rfl
@[simp] theorem Core.clearStage_wait (c : Core) : c.clearStage.wait = none := rfl
@[simp] theorem Core.clearStage_resp (c : Core) : c.clearStage.resp = [] := rfl
@[simp] theorem Core.clearStage_failed (c : Core) : c.clearStage.failed = false := rfl
@[simp] theorem Core.clearStage_scratch (c : Core) : c.clearStage.scratch = [] := rfl
@[simp] theorem Core.clearStage_wbStall (c : Core) : c.clearStage.wbStall = false := rfl
@[simp] theorem Core.clearStage_fetched (c : Core) : c.clearStage.fetched = none := rfl
@[simp] theorem Core.setDz_dz (c : Core) : c.setDz.dz = true := rfl
@[simp] theorem Core.setDisc_disc (c : Core) : c.setDisc.disc = true := rfl

end Sys2Proof.Machine
end

