-- ==== Sys2Proof/Laws/Ops.lean ====
section
/-! SUPPORT. The shared operations of a core, each said once: registers and taint, completion, traps, waits. -/

namespace Sys2Proof.Machine

/-! ### Bits -/

theorem getLsbD_setBitTo {n : Nat} (x : BitVec n) (k j : Nat) (b : Bool) (hk : k < n) :
    (setBitTo x k b).getLsbD j = if j = k then b else x.getLsbD j := by
  have one : ((1 : BitVec n) <<< k).getLsbD j = decide (j = k) := by
    have hn : 0 < n := by omega
    by_cases h : j = k
    · subst h
      simp [hk, hn]
    · by_cases hlt : j < k
      · simp [hlt, h]
      · have : ¬ j - k = 0 := by omega
        simp [this, h]
  unfold setBitTo
  cases b
  · simp only [Bool.false_eq_true, if_false, BitVec.getLsbD_and, BitVec.getLsbD_not, one]
    by_cases h : j = k
    · simp [h]
    · by_cases hj : j < n
      · simp [h, hj]
      · simp [h, BitVec.getLsbD_of_ge x j (by omega)]
  · simp only [if_true, BitVec.getLsbD_or, one]
    by_cases h : j = k <;> simp [h]

/-! ### Registers and taint (R94, R95) -/

@[simp] theorem Core.rd_zero (c : Core) : c.rd 0 = 0 := rfl

@[simp] theorem Core.tainted_zero (c : Core) : c.tainted 0 = false := rfl

/-- A register read after a write of gD: gD holds the value, unless it is g0, and every other is unchanged. -/
theorem Core.rd_wr (c : Core) (d r : Reg) (v : Word) (t : Bool) :
    (c.wr d v t).rd r = if r = d ∧ d ≠ 0 then v else c.rd r := by
  unfold Core.wr Core.rd
  by_cases hd : d = 0
  · simp [hd]
  · by_cases hr : r = d
    · subst hr
      simp [hd]
    · by_cases h0 : r = 0
      · simp [h0, hd, Ne.symm hd]
      · have : d.val ≠ r.val := fun e => hr (Fin.ext e.symm)
        simp [hd, hr, h0, Vector.getElem_set, this]

/-- Taint bits after a write of gD. -/
theorem Core.tainted_wr (c : Core) (d r : Reg) (v : Word) (t : Bool) :
    (c.wr d v t).tainted r = if r = d ∧ d ≠ 0 then t else c.tainted r := by
  unfold Core.wr Core.tainted
  by_cases hd : d = 0
  · simp [hd]
  · by_cases hr : r = d
    · subst hr
      have := getLsbD_setBitTo c.taint r.val r.val t r.isLt
      simp only [hd, if_false, this, if_true, ne_eq, not_false_eq_true, and_self]
    · by_cases h0 : r = 0
      · simp [h0, hd, Ne.symm hd]
      · have : r.val ≠ d.val := fun e => hr (Fin.ext e)
        have := getLsbD_setBitTo c.taint d.val r.val t d.isLt
        simp only [hd, hr, h0, if_false, this, false_and]
        simp [*]

/-! ### Completion (R100, R118) -/

/-- No active loop ends at the pc: the loop-end action only moves on. -/
theorem loopEnd_none {a : Word} {n : Nat} {c : Core} (h : c.topLoop (fun l => decide (l.fin = a)) = none) :
    loopEnd a n c = { c with pc := a + 4 } := by
  cases n with
  | zero => rfl
  | succ m => simp only [loopEnd, h]

theorem topLoop_none {c : Core} {f : Loop → Bool} (h : ∀ k, (c.loop k).act = true → f (c.loop k) = false) :
    c.topLoop f = none := by
  have hk (k : Fin 3) : ((c.loop k).act && f (c.loop k)) = false := by
    cases ha : (c.loop k).act
    · rfl
    · simp [h k ha]
  simp [Core.topLoop, hk]

/-- Without an active loop that ends at the pc, the instruction moves past itself. -/
theorem Core.advance_none {c : Core} (h : ∀ k, (c.loop k).act = true → (c.loop k).fin ≠ c.pc) :
    c.advance = { c with pc := c.pc + 4 } :=
  loopEnd_none (topLoop_none fun k hk => by simpa using h k hk)

/-- What the loop-end action can change: the pc and the loops. -/
theorem loopEnd_frame (a : Word) (n : Nat) : ∀ c : Core,
    loopEnd a n c = { c with pc := (loopEnd a n c).pc, loops := (loopEnd a n c).loops } := by
  induction n with
  | zero => exact fun c => rfl
  | succ m ih =>
    intro c
    unfold loopEnd
    cases ht : c.topLoop (fun l => decide (l.fin = a)) with
    | none => rfl
    | some k =>
      by_cases h1 : 1 < (c.loop k).count.toNat
      · simp only [h1, if_true]
        rfl
      · simp only [h1, if_false]
        exact (ih _).trans rfl

theorem Core.advance_frame (c : Core) : c.advance = { c with pc := c.advance.pc, loops := c.advance.loops } :=
  loopEnd_frame _ _ _

/-- Of a core, the loop-end action reads only the loops. -/
theorem loopEnd_congr (a : Word) (n : Nat) : ∀ {c d : Core}, d.loops = c.loops →
    (loopEnd a n d).pc = (loopEnd a n c).pc ∧ (loopEnd a n d).loops = (loopEnd a n c).loops := by
  induction n with
  | zero => exact fun h => ⟨rfl, h⟩
  | succ m ih =>
    intro c d h
    have hl (k : Fin 3) : d.loop k = c.loop k := by simp only [Core.loop, h]
    have hs (k : Fin 3) (l : Loop) : (d.setLoop k l).loops = (c.setLoop k l).loops := by simp only [Core.setLoop, h]
    have ht : d.topLoop (fun l => decide (l.fin = a)) = c.topLoop (fun l => decide (l.fin = a)) := by
      simp only [Core.topLoop, hl]
    simp only [loopEnd, ht]
    cases c.topLoop (fun l => decide (l.fin = a)) with
    | none => exact ⟨rfl, h⟩
    | some k =>
      dsimp only
      rw [hl]
      split
      · exact ⟨rfl, hs _ _⟩
      · exact ih (hs _ _)

/-- The move past the word at pc reads only the pc and the loops. -/
theorem Core.advance_congr {c d : Core} (hp : d.pc = c.pc) (hl : d.loops = c.loops) :
    d.advance.pc = c.advance.pc ∧ d.advance.loops = c.advance.loops := by
  unfold Core.advance
  rw [hp]
  exact loopEnd_congr _ _ hl

/-- With single step off, or inside a handler, completion takes no trap. -/
theorem stepTrap_off {inh : Bool} {s : State} (h : s.core.sstep = false ∨ inh = true) : stepTrap inh s = s := by
  unfold stepTrap
  rcases h with h | h <;> simp [h]

/-- Completion of an instruction that is not single-stepped. -/
theorem complete_eq {c : Core} {s : State} (h : c.sstep = false ∨ s.core.inh = true) :
    complete c s = s.setCore c.clearStage.advance := by
  unfold complete
  apply stepTrap_off
  rcases h with h | h
  · left
    rw [State.core_setCore, Core.advance_frame]
    exact h
  · exact .inr h

/-- Completion with a transfer of control of an instruction that is not single-stepped. -/
theorem completeAt_eq {c : Core} {s : State} (h : c.sstep = false ∨ s.core.inh = true) :
    completeAt c s = s.setCore c.clearStage := by
  unfold completeAt
  apply stepTrap_off
  rcases h with h | h
  · exact .inl (by simpa using h)
  · exact .inr h

/-- An instruction that writes a register and is not single-stepped. -/
theorem writeReg_eq {d : Reg} {v : Word} {t : Bool} {s : State} (h : s.core.sstep = false ∨ s.core.inh = true) :
    writeReg d v t s = .next (s.setCore (s.core.wr d v t).clearStage.advance) := by
  unfold writeReg
  rw [complete_eq]
  simpa using h

/-! ### Traps (R175) -/

/-- Trap entry with a handler, outside it. -/
theorem takeTrap_handler {cause : Nat} {tpc tval : Word} {s : State} (hv : s.core.tvec ≠ 0) (hi : s.core.inh = false) :
    takeTrap cause tpc tval s = s.setCore { s.core.clearStage with
      tcause := BitVec.ofNat 64 cause, tpc := tpc, tval := tval, inh := true, pc := s.core.tvec } := by
  unfold takeTrap
  rw [if_neg]
  · rfl
  · simpa using ⟨hv, hi⟩

/-- Trap entry without a handler, or inside it: the core stops and the truss fails. -/
theorem takeTrap_fails {cause : Nat} {tpc tval : Word} {s : State} (h : s.core.tvec = 0 ∨ s.core.inh = true) :
    takeTrap cause tpc tval s = (s.setCore { s.core.clearStage with run := .stopped }).failTruss
      s.curPage.truss (0x10 + cause) 0 s.curPage.ix := by
  unfold takeTrap
  rw [if_pos]
  simpa using h

end Sys2Proof.Machine
end

