-- ==== Sys2Proof/Laws/Claims.lean ====
section
/-! SUPPORT. The frames of Safety, for the shared operations: each is said once, and a statement about an instruction
cites it. -/

namespace Sys2Proof.Claims

open Sys2Proof.Machine

/-- A change of the current core touches nothing else. -/
theorem coreOnly_setCore (s : State) (c : Core) : CoreOnly s (s.setCore c) :=
  ⟨rfl, fun _ h => State.page_setCore_other h, by rw [State.page_setCore, State.core_setCore], fun _ => rfl⟩

/-- Completion moves past the word, or takes the loop-end action. -/
theorem pcPast_advance {c d : Core} (hp : d.pc = c.pc) (hl : d.loops = c.loops) : PcPast c d.clearStage.advance :=
  Core.advance_congr (c := c) (d := d.clearStage) hp hl

/-- A core that differs in registers and FLAGS, completed. -/
theorem result_complete {s : State} {c : Core} {d : Reg} {v : Word} {tn : Bool}
    (hk : c = { s.core with regs := c.regs, taint := c.taint, dz := c.dz, disc := c.disc })
    (hs : Sets d v tn s.core c) : Result s (s.setCore c.clearStage.advance) d v tn c.dz c.disc := by
  have ha := Core.advance_frame c.clearStage
  refine ⟨coreOnly_setCore _ _, ?_, ?_, ?_, ?_⟩
  · rw [State.core_setCore, CoreKept, ha, hk]
    rfl
  · rw [State.core_setCore, ha]
    exact hs
  · rw [State.core_setCore, ha]
    exact ⟨rfl, rfl⟩
  · rw [State.core_setCore]
    exact pcPast_advance (by rw [hk]) (by rw [hk])

/-- A write of gD as a change of the core. -/
theorem sets_wr (c : Core) (d : Reg) (v : Word) (t : Bool) : Sets d v t c (c.wr d v t) :=
  fun r => ⟨c.rd_wr d r v t, c.tainted_wr d r v t⟩

theorem wr_frame (c : Core) (d : Reg) (v : Word) (t : Bool) :
    c.wr d v t = { c with regs := (c.wr d v t).regs, taint := (c.wr d v t).taint } := by
  unfold Core.wr
  split <;> rfl

/-- An instruction that only writes gD. -/
theorem writes_of_writeReg {i : Instr} {d : Reg} {v : Word} {t : Bool} {s : State} (hq : NotStepping s)
    (h : exec i s = writeReg d v t s) : Writes i d v t s := by
  refine ⟨_, h.trans (writeReg_eq hq), ?_⟩
  have hf := wr_frame s.core d v t
  have := result_complete (s := s) (c := s.core.wr d v t) (by rw [hf]) (sets_wr _ _ _ _)
  rwa [Core.wr_dz, Core.wr_disc] at this

/-- An instruction that only moves on. -/
theorem passes_of_complete {i : Instr} {s : State} (hq : NotStepping s) (h : exec i s = .next (complete s.core s)) :
    Passes i s := by
  refine ⟨_, h.trans (by rw [complete_eq hq]), ?_⟩
  exact result_complete rfl fun r => by simp

/-- An instruction that transfers control. -/
theorem jumps_of_completeAt {i : Instr} {s : State} {target : Word} {loops : Vector Loop 3} (hq : NotStepping s)
    (h : exec i s = .next (completeAt { s.core with pc := target, loops := loops } s)) :
    JumpsTo i target loops s := by
  refine ⟨_, h.trans (congrArg _ (completeAt_eq (c := { s.core with pc := target, loops := loops }) hq)),
    coreOnly_setCore _ _, ?_⟩
  rw [State.core_setCore]
  rfl

end Sys2Proof.Claims
end

