-- ==== Sys2Proof/Laws/Memory.lean ====
section
/-! SUPPORT. Memory: a byte written is the byte read, other bytes stay, and every write keeps the canonical form. -/

namespace Sys2Proof.Machine

/-! ### Lists of cells -/

/-- A list of cells in canonical form. -/
def cellsOk (l : List Host.Cell) : Bool := frising l && l.all fun c => decide (c.2 ≠ 0)

/-- A list of descriptors in canonical form, its default unlisted. -/
def descsOk (l : FMap Desc) (dflt : Desc) : Bool := frising l && l.all fun c => decide (c.2 ≠ dflt)

theorem Memory.wf_iff (m : Memory) : m.wf = true ↔
    cellsOk m.cells = true ∧ descsOk m.descs descVoid = true ∧ cellsOk m.hostCells = true ∧
      descsOk m.hostDescs descUint8 = true := by
  simp only [Memory.wf, cellsOk, descsOk, Bool.and_eq_true, and_assoc]

theorem readByte_writeByte (l : List Host.Cell) (a : Nat) (b : Byte) : readByte (writeByte l a b) a = b := by
  unfold readByte writeByte fgetD
  split
  · rename_i h
    rw [fget_fdel_same, h]
    rfl
  · rw [fget_fput_same]
    rfl

theorem readByte_writeByte_other {l : List Host.Cell} {a c : Nat} {b : Byte} (h : c ≠ a) :
    readByte (writeByte l a b) c = readByte l c := by
  unfold readByte writeByte fgetD
  split
  · rw [fget_fdel_other h]
  · rw [fget_fput_other h]

theorem cellsOk_writeByte {l : List Host.Cell} (a : Nat) (b : Byte) (h : cellsOk l = true) :
    cellsOk (writeByte l a b) = true := by
  simp only [cellsOk, Bool.and_eq_true] at h ⊢
  unfold writeByte
  split
  · exact ⟨frising_fdel a h.1, all_fdel a h.2⟩
  · rename_i hb
    exact ⟨frising_fput a b h.1, all_fput h.2 (by simpa using hb)⟩

theorem cellsOk_writeBytes {b : List Byte} : ∀ {l : List Host.Cell} (a : Nat), cellsOk l = true →
    cellsOk (writeBytes l a b) = true := by
  induction b with
  | nil => exact fun _ h => h
  | cons x t ih => exact fun a h => ih (a + 1) (cellsOk_writeByte a x h)

theorem readByte_writeBytes_below {b : List Byte} : ∀ {l : List Host.Cell} {a c : Nat}, c < a →
    readByte (writeBytes l a b) c = readByte l c := by
  induction b with
  | nil => exact fun _ => rfl
  | cons x t ih =>
    intro l a c h
    rw [writeBytes, ih (by omega), readByte_writeByte_other (by omega)]

/-- Bytes outside those written stay. -/
theorem readByte_writeBytes_outside {b : List Byte} : ∀ {l : List Host.Cell} {a c : Nat}, c < a ∨ a + b.length ≤ c →
    readByte (writeBytes l a b) c = readByte l c := by
  induction b with
  | nil => exact fun _ => rfl
  | cons x t ih =>
    intro l a c h
    rw [List.length_cons] at h
    rw [writeBytes, ih (by omega), readByte_writeByte_other (by omega)]

/-- A byte written is read back. -/
theorem readByte_writeBytes {b : List Byte} : ∀ {l : List Host.Cell} {a k : Nat} (h : k < b.length),
    readByte (writeBytes l a b) (a + k) = b[k] := by
  induction b with
  | nil => exact fun h => absurd h (Nat.not_lt_zero _)
  | cons x t ih =>
    intro l a k h
    cases k with
    | zero =>
      rw [writeBytes, readByte_writeBytes_below (by omega)]
      exact readByte_writeByte l a x
    | succ n =>
      rw [writeBytes, show a + (n + 1) = (a + 1) + n by omega,
        ih (by simpa using h)]
      rfl

theorem descsOk_setDesc {l : FMap Desc} {dflt : Desc} (k : Nat) (d : Desc) (h : descsOk l dflt = true) :
    descsOk (setDesc l k d dflt) dflt = true := by
  simp only [descsOk, Bool.and_eq_true] at h ⊢
  unfold setDesc
  split
  · exact ⟨frising_fdel k h.1, all_fdel k h.2⟩
  · rename_i hd
    exact ⟨frising_fput k d h.1, all_fput h.2 (by simpa using hd)⟩

/-! ### Blocks -/

/-- A block written keeps the canonical form. -/
theorem Memory.wf_setBlock {m : Memory} (p : Phys) (d : Data) (x : Desc) (h : m.wf = true) :
    (m.setBlock p d x).wf = true := by
  rw [Memory.wf_iff] at h ⊢
  obtain ⟨h1, h2, h3, h4⟩ := h
  cases p with
  | hbm a => exact ⟨cellsOk_writeBytes _ h1, descsOk_setDesc _ _ h2, h3, h4⟩
  | host a => exact ⟨h1, h2, cellsOk_writeBytes _ h3, descsOk_setDesc _ _ h4⟩
  | remote m a => exact ⟨h1, h2, h3, h4⟩

theorem length_dataList (d : Data) : (dataList d).length = 64 := by simp [dataList, toBytes]

/-- A byte of HBM4 outside a written block stays. -/
theorem Memory.byte_setBlock_other {m : Memory} {a b : Nat} {d : Data} {x : Desc} (h : b / 64 ≠ a / 64) :
    (m.setBlock (.hbm a) d x).byte (.hbm b) = m.byte (.hbm b) := by
  apply readByte_writeBytes_outside
  rw [length_dataList]
  omega

end Sys2Proof.Machine
end

