-- ==== Sys2Proof/Laws/MemoryKept.lean ====
section
/-! SUPPORT. The operations of the machine that write memory keep its canonical form (log 16). -/

namespace Sys2Proof.Machine

open Sys2Proof.Claims

theorem above_filter {α : Type} {f : Nat × α → Bool} {k : Nat} : ∀ {m : FMap α}, frising m = true → above k m →
    above k (m.filter f) := by
  intro m
  induction m with
  | nil => exact fun _ h => h
  | cons x t ih =>
    intro hr h
    rw [frising_cons] at hr
    rw [List.filter_cons]
    split
    · exact h
    · exact ih hr.2 (above_trans h hr.1)

theorem frising_filter {α : Type} {f : Nat × α → Bool} : ∀ {m : FMap α}, frising m = true → frising (m.filter f) = true := by
  intro m
  induction m with
  | nil => exact fun h => h
  | cons x t ih =>
    intro h
    rw [frising_cons] at h
    rw [List.filter_cons]
    split
    · exact frising_cons.mpr ⟨above_filter h.2 h.1, ih h.2⟩
    · exact ih h.2

theorem all_filter {α : Type} {f g : α → Bool} {l : List α} (h : l.all f = true) : (l.filter g).all f = true := by
  rw [List.all_eq_true] at h ⊢
  exact fun x hx => h x (List.mem_of_mem_filter hx)

theorem State.mem_meter (s : State) (p m k : Nat) : (s.meter p m k).mem = s.mem := by
  unfold State.meter
  split <;> rfl

theorem State.mem_meterHost (s : State) (p n : Nat) (q : Phys) : (s.meterHost p n q).mem = s.mem := by
  cases q with
  | host a => exact s.mem_meter p 13 n
  | _ => rfl

theorem State.pokeBlock_kept {s : State} (p : Phys) (l : List Byte) (h : MemoryCanonical s) :
    MemoryCanonical (s.pokeBlock p l) := Memory.wf_setBlock _ _ _ h

theorem State.meterBlock_kept {s : State} (part : Nat) (wr : Bool) (n : Nat) (p : Phys) (h : MemoryCanonical s) :
    MemoryCanonical (s.meterBlock part wr n p) := by
  cases p with
  | hbm a => unfold State.meterBlock MemoryCanonical; rw [State.mem_meter]; exact h
  | host a => unfold State.meterBlock MemoryCanonical; rw [State.mem_meter]; exact h
  | remote m a => exact h

theorem State.t0WriteAux_kept {part : Nat} : ∀ (n a : Nat) (l : List Byte) {s t : State}, MemoryCanonical s →
    State.t0WriteAux part n a l s = some t → MemoryCanonical t := by
  intro n
  induction n with
  | zero =>
    intro a l s t h e
    cases e
    exact h
  | succ n ih =>
    intro a l s t h e
    rw [State.t0WriteAux] at e
    split at e
    · cases e
      exact h
    · dsimp only at e
      split at e
      · cases e
      · exact ih _ _ (State.meterBlock_kept _ _ _ _ (State.pokeBlock_kept _ _ h)) e

/-- Bytes written at a tensor-0 address keep memory's form. -/
theorem State.t0Write_kept {s t : State} {part a : Nat} {l : List Byte} (h : MemoryCanonical s)
    (e : s.t0Write part a l = some t) : MemoryCanonical t := State.t0WriteAux_kept _ _ _ h e

theorem State.t0Put_kept {s : State} (part a n v : Nat) (h : MemoryCanonical s) : MemoryCanonical (s.t0Put part a n v) := by
  unfold State.t0Put
  cases e : s.t0Write part a (toBytes n v) with
  | none => exact h
  | some t => exact State.t0Write_kept h e

theorem State.hostWrite_kept {s : State} (a : Nat) (l : List Byte) (h : MemoryCanonical s) :
    MemoryCanonical (s.hostWrite a l) := by
  rw [MemoryCanonical, Memory.wf_iff] at h ⊢
  exact ⟨h.1, h.2.1, cellsOk_writeBytes _ h.2.2.1, h.2.2.2⟩

/-- The blocks of a write keep memory's form. -/
theorem State.applyBlocks_kept {part : Nat} : ∀ (l : List BlockW) {s : State}, MemoryCanonical s →
    MemoryCanonical (s.applyBlocks part l).2 := by
  intro l
  induction l with
  | nil => exact fun h => h
  | cons w t ih =>
    intro s h
    refine ih ?_
    have hm := Memory.wf_setBlock w.phys (applyWrite (s.mem.block w.phys) w).1.1 (applyWrite (s.mem.block w.phys) w).1.2 h
    split
    · rw [MemoryCanonical, State.mem_meter]
      exact hm
    · rw [MemoryCanonical, State.mem_meterHost]
      exact hm

/-- An atomic at its home keeps memory's form. -/
theorem State.homeAtomic_kept {s : State} (part ea width aop : Nat) (ws : List Word) (h : MemoryCanonical s) :
    MemoryCanonical (s.homeAtomic part ea width aop ws) := by
  unfold State.homeAtomic
  split
  · exact h
  · rename_i p _
    have hm := Memory.wf_setBlock p.blk (atomicApply (s.mem.block p.blk) p.low width aop ws).2.2.1
      (atomicApply (s.mem.block p.blk) p.low width aop ws).2.2.2 h
    dsimp only
    split
    · rw [MemoryCanonical, State.mem_meter]
      exact hm
    · rw [MemoryCanonical, State.mem_meterHost]
      exact hm

/-- The stripes that a channel zeroes leave memory's form (R376). -/
theorem State.zeroStripes_kept {s : State} (g c : Nat) (h : MemoryCanonical s) : MemoryCanonical (s.zeroStripes g c) := by
  rw [MemoryCanonical, Memory.wf_iff] at h ⊢
  obtain ⟨h1, h2, h3⟩ := h
  simp only [cellsOk, descsOk, Bool.and_eq_true] at h1 h2
  refine ⟨?_, ?_, h3⟩
  · simp only [State.zeroStripes, cellsOk, Bool.and_eq_true]
    exact ⟨frising_filter h1.1, all_filter h1.2⟩
  · simp only [State.zeroStripes, descsOk, Bool.and_eq_true]
    exact ⟨frising_filter h2.1, all_filter h2.2⟩

/-- An event record, where it is written, keeps memory's form (R362, R363). -/
theorem State.putEvent_kept {s t : State} {n : Nat} {e : Event} (h : MemoryCanonical s) (he : s.putEvent n e = some t) :
    MemoryCanonical t := by
  unfold State.putEvent at he
  dsimp only at he
  split at he
  · cases he
  · split at he
    · cases he
    · split at he
      · cases he
      · rename_i u hu
        cases he
        exact (State.t0Write_kept h hu : MemoryCanonical u)

theorem State.sendEvent_kept {s : State} (n : Nat) (e : Event) (h : MemoryCanonical s) :
    MemoryCanonical (s.sendEvent n e).2 := by
  unfold State.sendEvent
  dsimp only
  split
  · exact h
  · split
    · rename_i u hu
      split at hu
      · exact State.putEvent_kept h hu
      · cases hu
    · split
      · exact h
      · split
        · exact h
        · exact h

/-- A fold keeps memory's form where each of its steps does. -/
theorem foldl_kept {α : Type} {f : State → α → State} (hf : ∀ s x, MemoryCanonical s → MemoryCanonical (f s x)) :
    ∀ (l : List α) {s : State}, MemoryCanonical s → MemoryCanonical (l.foldl f s) := by
  intro l
  induction l with
  | nil => exact fun h => h
  | cons x t ih => exact fun h => ih (hf _ x h)

/-- A block of free values, as a spill ring or a SAVE area takes it, keeps memory's form (log 14). -/
theorem State.spillBlock_kept {s : State} (p : Phys) (h : MemoryCanonical s) : MemoryCanonical (s.spillBlock p) := by
  have hm : ∀ (l : List Nat) (z : Data × State), z.2.mem = s.mem →
      (l.foldl (fun (z : Data × State) k =>
        let v := z.2.freeVal
        (setBytes z.1 (8 * k) 8 v.1.toNat, v.2)) z).2.mem = s.mem := by
    intro l
    induction l with
    | nil => exact fun _ h => h
    | cons x t ih => exact fun z hz => ih _ hz
  refine Memory.wf_setBlock _ _ _ ?_
  unfold State.freeData
  rw [hm _ _ rfl]
  exact h

end Sys2Proof.Machine
end

