-- ==== Sys2Proof/Laws/Packets.lean ====
section
/-! SUPPORT. Packets: what the retained copies, a packet held at its destination, and a packet's bytes are, said once. -/

namespace Sys2Proof.Machine

@[simp] theorem toBytes_length (n v : Nat) : (toBytes n v).length = n := by simp [toBytes]

@[simp] theorem dataList_length (d : Data) : (dataList d).length = 64 := by simp [dataList]

/-! ### Retained copies (R325) -/

/-- The copies of an agent after they are replaced. -/
@[simp] theorem State.keptOf_setKept (s : State) (a : AgentId) (l : List Retained) : (s.setKept a l).keptOf a = l := by
  unfold State.keptOf State.setKept
  by_cases h : a.code = 0x1C0 ∨ a.code = 0x1C1
  · rw [if_pos h, if_pos h]
    cases l with
    | nil => simp [fset, fgetD, fget_fdel_same]
    | cons x t => simp [fset, fgetD]
  · rw [if_neg h, if_neg h, State.req_setReq]

@[simp] theorem State.setKept_mem (s : State) (a : AgentId) (l : List Retained) : (s.setKept a l).mem = s.mem := by
  unfold State.setKept
  split <;> rfl

@[simp] theorem State.setKept_pages (s : State) (a : AgentId) (l : List Retained) : (s.setKept a l).pages = s.pages := by
  unfold State.setKept
  split <;> rfl

@[simp] theorem State.setKept_packets (s : State) (a : AgentId) (l : List Retained) :
    (s.setKept a l).packets = s.packets := by
  unfold State.setKept
  split <;> rfl

/-- A packet that leaves its source changes nothing, or joins the source's copies. -/
theorem State.retain_some {s t : State} {k : Packet} (h : s.retain k = some t) :
    t = s ∨ t = s.setKept k.src (s.keptOf k.src ++ [⟨k.dst.bay, k.seq, k, s.now, none, none⟩]) := by
  unfold State.retain at h
  split at h
  · exact .inl (Option.some.inj h).symm
  · dsimp only at h
    cases hk : k.op <;> rw [hk] at h <;> dsimp only at h
    all_goals first
      | exact .inl (Option.some.inj h).symm
      | split at h
        · first | exact .inr (Option.some.inj h).symm | cases h
        · first | exact .inr (Option.some.inj h).symm | cases h

/-! ### A packet held at its destination -/

@[simp] theorem State.hold_mem (s : State) (i : Nat) (k : Packet) : (s.hold i k).mem = s.mem := rfl

@[simp] theorem State.hold_packet (s : State) (i : Nat) (k : Packet) :
    fget (s.hold i k).packets i = some { k with at_ := none } := fget_fput_same _ _ _

/-! ### Bytes of a packet (R318) -/

/-- A shaving is its header, its vector and, where the operation names memory, its address word. -/
theorem Packet.trimmed_bytes (k : Packet) :
    k.trimmed.bytes = 16 + 4 * k.vec.length + if k.op.named then 8 else 0 := by
  have hv : (k.vec.map fun v => toBytes 4 v.toNat).flatten.length = 4 * k.vec.length := by
    induction k.vec with
    | nil => rfl
    | cons x t ih => simp only [List.map_cons, List.flatten_cons, List.length_append, toBytes_length, ih,
        List.length_cons]; omega
  unfold Packet.bytes Packet.wire Packet.payloadBytes Packet.trailer Packet.trimmed
  by_cases h : k.op.named = true <;> simp [h, hv, Nat.add_assoc]

end Sys2Proof.Machine
end

