-- ==== Sys2Proof/Laws/PerInstr.lean ====
section
/-! SUPPORT. What holds of each instruction as syntax: the word that `encode` gives it decodes to it (R63 to R72).

A row that no control-core word encodes (an element operation, a step of another agent) has no word, so its
statement says that `encode` gives none. -/

namespace Sys2Proof.Laws.Encoded

/-- The word of an instruction, where it has one, decodes to that instruction with every operand. -/
def Statement (i : Instr) : Prop := ∀ w, encode i = some w → decode w = .ok i

/-- An instruction without a word. -/
theorem of_none {i : Instr} (h : encode i = none) : Statement i := by
  intro w hw
  rw [h] at hw
  cases hw

/-- A word given by its value, its opcode and its row. -/
theorem of_word {i : Instr} {v op : Nat} (he : encode i = some (BitVec.ofNat 32 v)) (hv : 0 < v ∧ v < 2 ^ 32)
    (ho : v / 2 ^ 25 % 2 ^ 7 = op) (h7 : op ≠ 0x7F) (hd : decodeFields op v = .ok i) : Statement i := by
  intro w hw
  rw [he, Option.some.injEq] at hw
  subst hw
  have e : (BitVec.ofNat 32 v).toNat = v := by
    rw [BitVec.toNat_ofNat]
    exact Nat.mod_eq_of_lt hv.2
  unfold decode
  rw [e, show fld v 25 7 = op from ho, if_neg (by omega), if_neg h7, hd]

theorem regAt_eq {v lo : Nat} {r : Reg} (h : v / 2 ^ lo % 32 = r.val) : regAt v lo = r := by
  apply Fin.ext
  simpa [regAt] using h

theorem bitsAt_eq {v lo n : Nat} {x : BitVec n} (h : v / 2 ^ lo % 2 ^ n = x.toNat) : bitsAt v lo n = x := by
  apply BitVec.eq_of_toNat_eq
  simpa [bitsAt] using h

/-! The rows of each opcode. -/

theorem rows01 (w : Nat) : decodeFields 0x01 w =
    (if fld w 0 10 = 0 then .ok (.add (regAt w 20) (regAt w 15) (regAt w 10)) else
    if fld w 0 10 = 1 then .ok (.sub (regAt w 20) (regAt w 15) (regAt w 10)) else
    if fld w 0 10 = 2 then .ok (.mul (regAt w 20) (regAt w 15) (regAt w 10)) else
    if fld w 0 10 = 3 then .ok (.mulh (regAt w 20) (regAt w 15) (regAt w 10)) else
    if fld w 0 10 = 4 then .ok (.mulhu (regAt w 20) (regAt w 15) (regAt w 10)) else
    if fld w 0 10 = 5 then .ok (.div (regAt w 20) (regAt w 15) (regAt w 10)) else
    if fld w 0 10 = 6 then .ok (.divu (regAt w 20) (regAt w 15) (regAt w 10)) else
    if fld w 0 10 = 7 then .ok (.rem (regAt w 20) (regAt w 15) (regAt w 10)) else
    if fld w 0 10 = 8 then .ok (.remu (regAt w 20) (regAt w 15) (regAt w 10)) else
    .error (.unlisted 0x01)) := rfl

theorem rows02 (w : Nat) : decodeFields 0x02 w =
    (if fld w 0 10 = 0 then .ok (.and (regAt w 20) (regAt w 15) (regAt w 10)) else
    if fld w 0 10 = 1 then .ok (.or (regAt w 20) (regAt w 15) (regAt w 10)) else
    if fld w 0 10 = 2 then .ok (.xor (regAt w 20) (regAt w 15) (regAt w 10)) else
    if fld w 0 10 = 3 then .ok (.andn (regAt w 20) (regAt w 15) (regAt w 10)) else
    if fld w 0 10 = 4 then .ok (.shl (regAt w 20) (regAt w 15) (regAt w 10)) else
    if fld w 0 10 = 5 then .ok (.shr (regAt w 20) (regAt w 15) (regAt w 10)) else
    if fld w 0 10 = 6 then .ok (.sra (regAt w 20) (regAt w 15) (regAt w 10)) else
    if fld w 0 10 = 7 then .ok (.ror (regAt w 20) (regAt w 15) (regAt w 10)) else
    if fld w 0 15 = 8 then .ok (.clz (regAt w 20) (regAt w 15)) else
    if fld w 0 15 = 9 then .ok (.ctz (regAt w 20) (regAt w 15)) else
    if fld w 0 15 = 10 then .ok (.popc (regAt w 20) (regAt w 15)) else
    if fld w 0 20 = 11 then .ok (.untaint (regAt w 20)) else
    .error (.unlisted 0x02)) := rfl

theorem rows03 (w : Nat) : decodeFields 0x03 w =
    (if fld w 0 10 = 0 then .ok (.min (regAt w 20) (regAt w 15) (regAt w 10)) else
    if fld w 0 10 = 1 then .ok (.max (regAt w 20) (regAt w 15) (regAt w 10)) else
    if fld w 0 10 = 2 then .ok (.minu (regAt w 20) (regAt w 15) (regAt w 10)) else
    if fld w 0 10 = 3 then .ok (.maxu (regAt w 20) (regAt w 15) (regAt w 10)) else
    if fld w 0 10 = 4 then .ok (.seq (regAt w 20) (regAt w 15) (regAt w 10)) else
    if fld w 0 10 = 5 then .ok (.slt (regAt w 20) (regAt w 15) (regAt w 10)) else
    if fld w 0 10 = 6 then .ok (.sltu (regAt w 20) (regAt w 15) (regAt w 10)) else
    if fld w 0 5 = 7 then .ok (.sel (regAt w 20) (regAt w 15) (regAt w 10) (regAt w 5)) else
    .error (.unlisted 0x03)) := rfl

theorem rows04 (w : Nat) : decodeFields 0x04 w =
    (.ok (.addi (regAt w 20) (regAt w 15) (bitsAt w 0 15))) := rfl

theorem rows05 (w : Nat) : decodeFields 0x05 w =
    (.ok (.andi (regAt w 20) (regAt w 15) (bitsAt w 0 15))) := rfl

theorem rows06 (w : Nat) : decodeFields 0x06 w =
    (.ok (.ori (regAt w 20) (regAt w 15) (bitsAt w 0 15))) := rfl

theorem rows07 (w : Nat) : decodeFields 0x07 w =
    (.ok (.xori (regAt w 20) (regAt w 15) (bitsAt w 0 15))) := rfl

theorem rows08 (w : Nat) : decodeFields 0x08 w =
    (if fld w 6 9 = 0 then .ok (.shli (regAt w 20) (regAt w 15) (bitsAt w 0 6)) else
    .error (.unlisted 0x08)) := rfl

theorem rows09 (w : Nat) : decodeFields 0x09 w =
    (if fld w 6 9 = 0 then .ok (.shri (regAt w 20) (regAt w 15) (bitsAt w 0 6)) else
    .error (.unlisted 0x09)) := rfl

theorem rows0A (w : Nat) : decodeFields 0x0A w =
    (if fld w 6 9 = 0 then .ok (.srai (regAt w 20) (regAt w 15) (bitsAt w 0 6)) else
    .error (.unlisted 0x0A)) := rfl

theorem rows0B (w : Nat) : decodeFields 0x0B w =
    (.ok (.slti (regAt w 20) (regAt w 15) (bitsAt w 0 15))) := rfl

theorem rows0C (w : Nat) : decodeFields 0x0C w =
    (if fld w 12 3 = 0 then .ok (.bfx (regAt w 20) (regAt w 15) (bitsAt w 6 6) (bitsAt w 0 6)) else
    .error (.unlisted 0x0C)) := rfl

theorem rows0D (w : Nat) : decodeFields 0x0D w =
    (if fld w 12 3 = 0 then .ok (.bfi (regAt w 20) (regAt w 15) (bitsAt w 6 6) (bitsAt w 0 6)) else
    .error (.unlisted 0x0D)) := rfl

theorem rows0E (w : Nat) : decodeFields 0x0E w =
    (.ok (.li (regAt w 20) (bitsAt w 0 20))) := rfl

theorem rows0F (w : Nat) : decodeFields 0x0F w =
    (.ok (.lih (regAt w 20) (bitsAt w 0 20))) := rfl

theorem rows10 (w : Nat) : decodeFields 0x10 w =
    (.ok (.beq (regAt w 20) (regAt w 15) (bitsAt w 0 15))) := rfl

theorem rows11 (w : Nat) : decodeFields 0x11 w =
    (.ok (.bne (regAt w 20) (regAt w 15) (bitsAt w 0 15))) := rfl

theorem rows12 (w : Nat) : decodeFields 0x12 w =
    (.ok (.blt (regAt w 20) (regAt w 15) (bitsAt w 0 15))) := rfl

theorem rows13 (w : Nat) : decodeFields 0x13 w =
    (.ok (.bge (regAt w 20) (regAt w 15) (bitsAt w 0 15))) := rfl

theorem rows14 (w : Nat) : decodeFields 0x14 w =
    (.ok (.bltu (regAt w 20) (regAt w 15) (bitsAt w 0 15))) := rfl

theorem rows15 (w : Nat) : decodeFields 0x15 w =
    (.ok (.bgeu (regAt w 20) (regAt w 15) (bitsAt w 0 15))) := rfl

theorem rows16 (w : Nat) : decodeFields 0x16 w =
    (.ok (.j (bitsAt w 0 25))) := rfl

theorem rows17 (w : Nat) : decodeFields 0x17 w =
    (.ok (.jal (bitsAt w 0 25))) := rfl

theorem rows18 (w : Nat) : decodeFields 0x18 w =
    (if fld w 0 15 = 0 ∧ fld w 20 5 = 0 then .ok (.jr (regAt w 15)) else
    .error (.unlisted 0x18)) := rfl

theorem rows19 (w : Nat) : decodeFields 0x19 w =
    (if fld w 0 15 = 0 then .ok (.jalr (regAt w 20) (regAt w 15)) else
    .error (.unlisted 0x19)) := rfl

theorem rows1A (w : Nat) : decodeFields 0x1A w =
    (if fld w 0 10 = 0 then .ok (.loop (bitsAt w 23 2) (regAt w 18) (bitsAt w 10 8)) else
    .error (.unlisted 0x1A)) := rfl

theorem rows1B (w : Nat) : decodeFields 0x1B w =
    (if fld w 18 5 = 0 then .ok (.loopi (bitsAt w 23 2) (bitsAt w 10 8) (bitsAt w 0 10)) else
    .error (.unlisted 0x1B)) := rfl

theorem rows1C (w : Nat) : decodeFields 0x1C w =
    (if fld w 0 23 = 0 then .ok (.lbrk (bitsAt w 23 2)) else
    .error (.unlisted 0x1C)) := rfl

theorem rows1D (w : Nat) : decodeFields 0x1D w =
    (if fld w 0 25 = 0 then .ok .endCore else
    .error (.unlisted 0x1D)) := rfl

theorem rows20 (w : Nat) : decodeFields 0x20 w =
    (.ok (.ldB (regAt w 20) (regAt w 15) (bitsAt w 0 15))) := rfl

theorem rows21 (w : Nat) : decodeFields 0x21 w =
    (.ok (.ldH (regAt w 20) (regAt w 15) (bitsAt w 0 15))) := rfl

theorem rows22 (w : Nat) : decodeFields 0x22 w =
    (.ok (.ldW (regAt w 20) (regAt w 15) (bitsAt w 0 15))) := rfl

theorem rows23 (w : Nat) : decodeFields 0x23 w =
    (.ok (.ldD (regAt w 20) (regAt w 15) (bitsAt w 0 15))) := rfl

theorem rows24 (w : Nat) : decodeFields 0x24 w =
    (.ok (.ldBs (regAt w 20) (regAt w 15) (bitsAt w 0 15))) := rfl

theorem rows25 (w : Nat) : decodeFields 0x25 w =
    (.ok (.ldHs (regAt w 20) (regAt w 15) (bitsAt w 0 15))) := rfl

theorem rows26 (w : Nat) : decodeFields 0x26 w =
    (.ok (.ldWs (regAt w 20) (regAt w 15) (bitsAt w 0 15))) := rfl

theorem rows27 (w : Nat) : decodeFields 0x27 w =
    (.ok (.ldcD (regAt w 20) (regAt w 15) (bitsAt w 0 15))) := rfl

theorem rows28 (w : Nat) : decodeFields 0x28 w =
    (.ok (.stB (regAt w 20) (regAt w 15) (bitsAt w 0 15))) := rfl

theorem rows29 (w : Nat) : decodeFields 0x29 w =
    (.ok (.stH (regAt w 20) (regAt w 15) (bitsAt w 0 15))) := rfl

theorem rows2A (w : Nat) : decodeFields 0x2A w =
    (.ok (.stW (regAt w 20) (regAt w 15) (bitsAt w 0 15))) := rfl

theorem rows2B (w : Nat) : decodeFields 0x2B w =
    (.ok (.stD (regAt w 20) (regAt w 15) (bitsAt w 0 15))) := rfl

theorem rows2C (w : Nat) : decodeFields 0x2C w =
    (if fld w 5 5 = 0 then .ok (.ldx (regAt w 20) (regAt w 15) (regAt w 10) (bitsAt w 3 2) (bitsAt w 0 3)) else
    .error (.unlisted 0x2C)) := rfl

theorem rows2D (w : Nat) : decodeFields 0x2D w =
    (if fld w 2 1 = 0 ∧ fld w 5 5 = 0 then .ok (.stx (regAt w 20) (regAt w 15) (regAt w 10) (bitsAt w 3 2) (bitsAt w 0 2)) else
    .error (.unlisted 0x2D)) := rfl

theorem rows2E (w : Nat) : decodeFields 0x2E w =
    (.ok (.prdD (regAt w 20) (regAt w 15) (bitsAt w 0 15))) := rfl

theorem rows2F (w : Nat) : decodeFields 0x2F w =
    (.ok (.pwrD (regAt w 20) (regAt w 15) (bitsAt w 0 15))) := rfl

theorem rows30 (w : Nat) : decodeFields 0x30 w =
    (if fld w 6 4 = 0 then .ok (.amoW (regAt w 20) (regAt w 15) (regAt w 10) (bitsAt w 4 2) (bitsAt w 0 4)) else
    .error (.unlisted 0x30)) := rfl

theorem rows31 (w : Nat) : decodeFields 0x31 w =
    (if fld w 6 4 = 0 then .ok (.amoD (regAt w 20) (regAt w 15) (regAt w 10) (bitsAt w 4 2) (bitsAt w 0 4)) else
    .error (.unlisted 0x31)) := rfl

theorem rows32 (w : Nat) : decodeFields 0x32 w =
    (if fld w 0 4 = 0 ∧ fld w 6 4 = 0 then .ok (.casW (regAt w 20) (regAt w 15) (regAt w 10) (bitsAt w 4 2)) else
    .error (.unlisted 0x32)) := rfl

theorem rows33 (w : Nat) : decodeFields 0x33 w =
    (if fld w 0 4 = 0 ∧ fld w 6 4 = 0 then .ok (.casD (regAt w 20) (regAt w 15) (regAt w 10) (bitsAt w 4 2)) else
    .error (.unlisted 0x33)) := rfl

theorem rows34 (w : Nat) : decodeFields 0x34 w =
    (if fld w 0 25 = 0 then .ok .fence else
    .error (.unlisted 0x34)) := rfl

theorem rows35 (w : Nat) : decodeFields 0x35 w =
    (if fld w 0 4 = 0 ∧ fld w 6 19 = 0 then .ok (.rel (bitsAt w 4 2)) else
    if fld w 0 4 = 1 ∧ fld w 6 19 = 0 then .ok (.acq (bitsAt w 4 2)) else
    if fld w 0 4 = 2 ∧ fld w 6 4 = 0 ∧ fld w 20 5 = 0 then .ok (.wbr (regAt w 15) (regAt w 10) (bitsAt w 4 2)) else
    if fld w 0 4 = 3 ∧ fld w 6 4 = 0 ∧ fld w 20 5 = 0 then .ok (.invr (regAt w 15) (regAt w 10) (bitsAt w 4 2)) else
    if fld w 0 4 = 4 ∧ fld w 6 4 = 0 ∧ fld w 20 5 = 0 then .ok (.flr (regAt w 15) (regAt w 10) (bitsAt w 4 2)) else
    if fld w 0 4 = 5 ∧ fld w 6 4 = 0 ∧ fld w 20 5 = 0 then .ok (.icinv (regAt w 15) (regAt w 10) (bitsAt w 4 2)) else
    .error (.unlisted 0x35)) := rfl

theorem rows40 (w : Nat) : decodeFields 0x40 w =
    (if fld w 0 15 = 0 then .ok (.tstat (regAt w 20) (regAt w 15)) else
    if fld w 0 15 = 1 ∧ fld w 20 5 = 0 then .ok (.tgive (regAt w 15)) else
    if fld w 0 15 = 2 ∧ fld w 20 5 = 0 then .ok (.ttake (regAt w 15)) else
    if fld w 0 15 = 3 ∧ fld w 20 5 = 0 then .ok (.tempty (regAt w 15)) else
    if fld w 0 8 = 4 ∧ fld w 10 5 = 0 ∧ fld w 20 5 = 0 then .ok (.twait (regAt w 15) (bitsAt w 8 2)) else
    .error (.unlisted 0x40)) := rfl

theorem rows41 (w : Nat) : decodeFields 0x41 w =
    (if fld w 0 4 = 0 ∧ fld w 6 9 = 0 ∧ fld w 20 5 = 0 then .ok (.sld (regAt w 15) (bitsAt w 4 2)) else
    .error (.unlisted 0x41)) := rfl

theorem rows42 (w : Nat) : decodeFields 0x42 w =
    (if fld w 0 4 = 0 ∧ fld w 6 9 = 1 ∧ fld w 20 5 = 0 then .ok (.sst (regAt w 15) (bitsAt w 4 2)) else
    .error (.unlisted 0x42)) := rfl

theorem rows43 (w : Nat) : decodeFields 0x43 w =
    (if fld w 0 4 = 0 ∧ fld w 7 18 = 0 then .ok (.sstop (bitsAt w 4 3)) else
    .error (.unlisted 0x43)) := rfl

theorem rows44 (w : Nat) : decodeFields 0x44 w =
    (if fld w 0 4 = 0 ∧ fld w 7 18 = 0 then .ok (.swait (bitsAt w 4 3)) else
    .error (.unlisted 0x44)) := rfl

theorem rows45 (w : Nat) : decodeFields 0x45 w =
    (if fld w 0 4 = 0 ∧ fld w 10 10 = 0 then .ok (.sstat (regAt w 20) (bitsAt w 4 6)) else
    .error (.unlisted 0x45)) := rfl

theorem rows46 (w : Nat) : decodeFields 0x46 w =
    (if fld w 3 7 = 16 ∧ fld w 20 5 = 0 then .ok (.spush (regAt w 15) (regAt w 10) (bitsAt w 0 3)) else
    .error (.unlisted 0x46)) := rfl

theorem rows47 (w : Nat) : decodeFields 0x47 w =
    (if fld w 0 20 = 144 then .ok (.spop (regAt w 20)) else
    .error (.unlisted 0x47)) := rfl

theorem rows50 (w : Nat) : decodeFields 0x50 w =
    (if fld w 0 4 = 0 ∧ fld w 10 5 = 0 then .ok (.cpy (regAt w 20) (regAt w 15) (bitsAt w 4 6)) else
    .error (.unlisted 0x50)) := rfl

theorem rows51 (w : Nat) : decodeFields 0x51 w =
    (if fld w 0 15 = 0 then .ok (.gath (regAt w 20) (regAt w 15)) else
    .error (.unlisted 0x51)) := rfl

theorem rows52 (w : Nat) : decodeFields 0x52 w =
    (if fld w 0 15 = 0 then .ok (.scat (regAt w 20) (regAt w 15)) else
    .error (.unlisted 0x52)) := rfl

theorem rows53 (w : Nat) : decodeFields 0x53 w =
    (if fld w 0 15 = 0 then .ok (.redc (regAt w 20) (regAt w 15)) else
    .error (.unlisted 0x53)) := rfl

theorem rows54 (w : Nat) : decodeFields 0x54 w =
    (if fld w 0 15 = 0 ∧ fld w 20 5 = 0 then .ok (.ewait (regAt w 15)) else
    .error (.unlisted 0x54)) := rfl

theorem rows55 (w : Nat) : decodeFields 0x55 w =
    (if fld w 0 15 = 0 then .ok (.epoll (regAt w 20) (regAt w 15)) else
    .error (.unlisted 0x55)) := rfl

theorem rows56 (w : Nat) : decodeFields 0x56 w =
    (if fld w 0 10 = 0 ∧ fld w 20 5 = 0 then .ok (.cfg (regAt w 15) (regAt w 10)) else
    .error (.unlisted 0x56)) := rfl

theorem rows57 (w : Nat) : decodeFields 0x57 w =
    (if fld w 0 25 = 0 then .ok .start else
    .error (.unlisted 0x57)) := rfl

theorem rows58 (w : Nat) : decodeFields 0x58 w =
    (if fld w 0 25 = 0 then .ok .kerf else
    .error (.unlisted 0x58)) := rfl

theorem rows59 (w : Nat) : decodeFields 0x59 w =
    (if fld w 2 13 = 0 then .ok (.erd (regAt w 20) (regAt w 15) (bitsAt w 0 2)) else
    .error (.unlisted 0x59)) := rfl

theorem rows5A (w : Nat) : decodeFields 0x5A w =
    (if fld w 0 15 = 0 ∧ fld w 20 5 = 0 then .ok (.round (regAt w 15)) else
    .error (.unlisted 0x5A)) := rfl

theorem rows5B (w : Nat) : decodeFields 0x5B w =
    (if fld w 0 15 = 0 then .ok (.lstat (regAt w 20) (regAt w 15)) else
    .error (.unlisted 0x5B)) := rfl

theorem rows60 (w : Nat) : decodeFields 0x60 w =
    (if fld w 0 25 = 0 then .ok .barT else
    .error (.unlisted 0x60)) := rfl

theorem rows61 (w : Nat) : decodeFields 0x61 w =
    (if fld w 0 15 = 0 ∧ fld w 20 5 = 0 then .ok (.phase (regAt w 15)) else
    .error (.unlisted 0x61)) := rfl

theorem rows62 (w : Nat) : decodeFields 0x62 w =
    (if fld w 0 10 = 0 ∧ fld w 20 5 = 0 then .ok (.cwait (regAt w 15) (regAt w 10)) else
    .error (.unlisted 0x62)) := rfl

theorem rows63 (w : Nat) : decodeFields 0x63 w =
    (if fld w 0 10 = 0 ∧ fld w 20 5 = 0 then .ok (.cadd (regAt w 15) (regAt w 10)) else
    .error (.unlisted 0x63)) := rfl

theorem rows64 (w : Nat) : decodeFields 0x64 w =
    (if fld w 0 10 = 0 ∧ fld w 20 5 = 0 then .ok (.notify (regAt w 15) (regAt w 10)) else
    .error (.unlisted 0x64)) := rfl

theorem rows65 (w : Nat) : decodeFields 0x65 w =
    (if fld w 0 15 = 0 ∧ fld w 20 5 = 0 then .ok (.cancel (regAt w 15)) else
    .error (.unlisted 0x65)) := rfl

theorem rows66 (w : Nat) : decodeFields 0x66 w =
    (.ok (.forkw (regAt w 20) (regAt w 15) (bitsAt w 0 15))) := rfl

theorem rows67 (w : Nat) : decodeFields 0x67 w =
    (if fld w 0 25 = 0 then .ok .choose else
    .error (.unlisted 0x67)) := rfl

theorem rows68 (w : Nat) : decodeFields 0x68 w =
    (if fld w 0 15 = 0 ∧ fld w 20 5 = 0 then .ok (.wyield (regAt w 15)) else
    .error (.unlisted 0x68)) := rfl

theorem rows69 (w : Nat) : decodeFields 0x69 w =
    (if fld w 0 15 = 0 ∧ fld w 20 5 = 0 then .ok (.region (regAt w 15)) else
    .error (.unlisted 0x69)) := rfl

theorem rows70 (w : Nat) : decodeFields 0x70 w =
    (if fld w 15 10 = 0 then .ok (.trap (bitsAt w 0 15)) else
    .error (.unlisted 0x70)) := rfl

theorem rows71 (w : Nat) : decodeFields 0x71 w =
    (if fld w 0 25 = 0 then .ok .eret else
    .error (.unlisted 0x71)) := rfl

theorem rows72 (w : Nat) : decodeFields 0x72 w =
    (if fld w 12 8 = 0 then .ok (.mfs (regAt w 20) (bitsAt w 0 12)) else
    .error (.unlisted 0x72)) := rfl

theorem rows73 (w : Nat) : decodeFields 0x73 w =
    (if fld w 12 3 = 0 ∧ fld w 20 5 = 0 then .ok (.mts (regAt w 15) (bitsAt w 0 12)) else
    .error (.unlisted 0x73)) := rfl

theorem rows74 (w : Nat) : decodeFields 0x74 w =
    (if fld w 0 25 = 0 then .ok .wfe else
    .error (.unlisted 0x74)) := rfl

theorem rows75 (w : Nat) : decodeFields 0x75 w =
    (if fld w 15 10 = 0 then .ok (.brk (bitsAt w 0 15)) else
    .error (.unlisted 0x75)) := rfl

theorem add (d : Reg) (a : Reg) (b : Reg) : Statement (.add d a b) := by
  have lt_d := d.isLt
  have lt_a := a.isLt
  have lt_b := b.isLt
  refine of_word (op := 0x01) rfl (by omega) (by omega) (by decide) ?_
  rw [rows01]
  rw [if_pos (by simp only [fld]; omega)]
  rw [regAt_eq (r := d) (by omega), regAt_eq (r := a) (by omega), regAt_eq (r := b) (by omega)]

theorem sub (d : Reg) (a : Reg) (b : Reg) : Statement (.sub d a b) := by
  have lt_d := d.isLt
  have lt_a := a.isLt
  have lt_b := b.isLt
  refine of_word (op := 0x01) rfl (by omega) (by omega) (by decide) ?_
  rw [rows01]
  rw [if_neg (by simp only [fld]; omega)]
  rw [if_pos (by simp only [fld]; omega)]
  rw [regAt_eq (r := d) (by omega), regAt_eq (r := a) (by omega), regAt_eq (r := b) (by omega)]

theorem mul (d : Reg) (a : Reg) (b : Reg) : Statement (.mul d a b) := by
  have lt_d := d.isLt
  have lt_a := a.isLt
  have lt_b := b.isLt
  refine of_word (op := 0x01) rfl (by omega) (by omega) (by decide) ?_
  rw [rows01]
  repeat rw [if_neg (by simp only [fld]; omega)]
  rw [if_pos (by simp only [fld]; omega)]
  rw [regAt_eq (r := d) (by omega), regAt_eq (r := a) (by omega), regAt_eq (r := b) (by omega)]

theorem mulh (d : Reg) (a : Reg) (b : Reg) : Statement (.mulh d a b) := by
  have lt_d := d.isLt
  have lt_a := a.isLt
  have lt_b := b.isLt
  refine of_word (op := 0x01) rfl (by omega) (by omega) (by decide) ?_
  rw [rows01]
  repeat rw [if_neg (by simp only [fld]; omega)]
  rw [if_pos (by simp only [fld]; omega)]
  rw [regAt_eq (r := d) (by omega), regAt_eq (r := a) (by omega), regAt_eq (r := b) (by omega)]

theorem mulhu (d : Reg) (a : Reg) (b : Reg) : Statement (.mulhu d a b) := by
  have lt_d := d.isLt
  have lt_a := a.isLt
  have lt_b := b.isLt
  refine of_word (op := 0x01) rfl (by omega) (by omega) (by decide) ?_
  rw [rows01]
  repeat rw [if_neg (by simp only [fld]; omega)]
  rw [if_pos (by simp only [fld]; omega)]
  rw [regAt_eq (r := d) (by omega), regAt_eq (r := a) (by omega), regAt_eq (r := b) (by omega)]

theorem div (d : Reg) (a : Reg) (b : Reg) : Statement (.div d a b) := by
  have lt_d := d.isLt
  have lt_a := a.isLt
  have lt_b := b.isLt
  refine of_word (op := 0x01) rfl (by omega) (by omega) (by decide) ?_
  rw [rows01]
  repeat rw [if_neg (by simp only [fld]; omega)]
  rw [if_pos (by simp only [fld]; omega)]
  rw [regAt_eq (r := d) (by omega), regAt_eq (r := a) (by omega), regAt_eq (r := b) (by omega)]

theorem divu (d : Reg) (a : Reg) (b : Reg) : Statement (.divu d a b) := by
  have lt_d := d.isLt
  have lt_a := a.isLt
  have lt_b := b.isLt
  refine of_word (op := 0x01) rfl (by omega) (by omega) (by decide) ?_
  rw [rows01]
  repeat rw [if_neg (by simp only [fld]; omega)]
  rw [if_pos (by simp only [fld]; omega)]
  rw [regAt_eq (r := d) (by omega), regAt_eq (r := a) (by omega), regAt_eq (r := b) (by omega)]

theorem rem (d : Reg) (a : Reg) (b : Reg) : Statement (.rem d a b) := by
  have lt_d := d.isLt
  have lt_a := a.isLt
  have lt_b := b.isLt
  refine of_word (op := 0x01) rfl (by omega) (by omega) (by decide) ?_
  rw [rows01]
  repeat rw [if_neg (by simp only [fld]; omega)]
  rw [if_pos (by simp only [fld]; omega)]
  rw [regAt_eq (r := d) (by omega), regAt_eq (r := a) (by omega), regAt_eq (r := b) (by omega)]

theorem remu (d : Reg) (a : Reg) (b : Reg) : Statement (.remu d a b) := by
  have lt_d := d.isLt
  have lt_a := a.isLt
  have lt_b := b.isLt
  refine of_word (op := 0x01) rfl (by omega) (by omega) (by decide) ?_
  rw [rows01]
  repeat rw [if_neg (by simp only [fld]; omega)]
  rw [if_pos (by simp only [fld]; omega)]
  rw [regAt_eq (r := d) (by omega), regAt_eq (r := a) (by omega), regAt_eq (r := b) (by omega)]

theorem and (d : Reg) (a : Reg) (b : Reg) : Statement (.and d a b) := by
  have lt_d := d.isLt
  have lt_a := a.isLt
  have lt_b := b.isLt
  refine of_word (op := 0x02) rfl (by omega) (by omega) (by decide) ?_
  rw [rows02]
  rw [if_pos (by simp only [fld]; omega)]
  rw [regAt_eq (r := d) (by omega), regAt_eq (r := a) (by omega), regAt_eq (r := b) (by omega)]

theorem or (d : Reg) (a : Reg) (b : Reg) : Statement (.or d a b) := by
  have lt_d := d.isLt
  have lt_a := a.isLt
  have lt_b := b.isLt
  refine of_word (op := 0x02) rfl (by omega) (by omega) (by decide) ?_
  rw [rows02]
  rw [if_neg (by simp only [fld]; omega)]
  rw [if_pos (by simp only [fld]; omega)]
  rw [regAt_eq (r := d) (by omega), regAt_eq (r := a) (by omega), regAt_eq (r := b) (by omega)]

theorem xor (d : Reg) (a : Reg) (b : Reg) : Statement (.xor d a b) := by
  have lt_d := d.isLt
  have lt_a := a.isLt
  have lt_b := b.isLt
  refine of_word (op := 0x02) rfl (by omega) (by omega) (by decide) ?_
  rw [rows02]
  repeat rw [if_neg (by simp only [fld]; omega)]
  rw [if_pos (by simp only [fld]; omega)]
  rw [regAt_eq (r := d) (by omega), regAt_eq (r := a) (by omega), regAt_eq (r := b) (by omega)]

theorem andn (d : Reg) (a : Reg) (b : Reg) : Statement (.andn d a b) := by
  have lt_d := d.isLt
  have lt_a := a.isLt
  have lt_b := b.isLt
  refine of_word (op := 0x02) rfl (by omega) (by omega) (by decide) ?_
  rw [rows02]
  repeat rw [if_neg (by simp only [fld]; omega)]
  rw [if_pos (by simp only [fld]; omega)]
  rw [regAt_eq (r := d) (by omega), regAt_eq (r := a) (by omega), regAt_eq (r := b) (by omega)]

theorem shl (d : Reg) (a : Reg) (b : Reg) : Statement (.shl d a b) := by
  have lt_d := d.isLt
  have lt_a := a.isLt
  have lt_b := b.isLt
  refine of_word (op := 0x02) rfl (by omega) (by omega) (by decide) ?_
  rw [rows02]
  repeat rw [if_neg (by simp only [fld]; omega)]
  rw [if_pos (by simp only [fld]; omega)]
  rw [regAt_eq (r := d) (by omega), regAt_eq (r := a) (by omega), regAt_eq (r := b) (by omega)]

theorem shr (d : Reg) (a : Reg) (b : Reg) : Statement (.shr d a b) := by
  have lt_d := d.isLt
  have lt_a := a.isLt
  have lt_b := b.isLt
  refine of_word (op := 0x02) rfl (by omega) (by omega) (by decide) ?_
  rw [rows02]
  repeat rw [if_neg (by simp only [fld]; omega)]
  rw [if_pos (by simp only [fld]; omega)]
  rw [regAt_eq (r := d) (by omega), regAt_eq (r := a) (by omega), regAt_eq (r := b) (by omega)]

theorem sra (d : Reg) (a : Reg) (b : Reg) : Statement (.sra d a b) := by
  have lt_d := d.isLt
  have lt_a := a.isLt
  have lt_b := b.isLt
  refine of_word (op := 0x02) rfl (by omega) (by omega) (by decide) ?_
  rw [rows02]
  repeat rw [if_neg (by simp only [fld]; omega)]
  rw [if_pos (by simp only [fld]; omega)]
  rw [regAt_eq (r := d) (by omega), regAt_eq (r := a) (by omega), regAt_eq (r := b) (by omega)]

theorem ror (d : Reg) (a : Reg) (b : Reg) : Statement (.ror d a b) := by
  have lt_d := d.isLt
  have lt_a := a.isLt
  have lt_b := b.isLt
  refine of_word (op := 0x02) rfl (by omega) (by omega) (by decide) ?_
  rw [rows02]
  repeat rw [if_neg (by simp only [fld]; omega)]
  rw [if_pos (by simp only [fld]; omega)]
  rw [regAt_eq (r := d) (by omega), regAt_eq (r := a) (by omega), regAt_eq (r := b) (by omega)]

theorem clz (d : Reg) (a : Reg) : Statement (.clz d a) := by
  have lt_d := d.isLt
  have lt_a := a.isLt
  refine of_word (op := 0x02) rfl (by omega) (by omega) (by decide) ?_
  rw [rows02]
  repeat rw [if_neg (by simp only [fld]; omega)]
  rw [if_pos (by simp only [fld]; omega)]
  rw [regAt_eq (r := d) (by omega), regAt_eq (r := a) (by omega)]

theorem ctz (d : Reg) (a : Reg) : Statement (.ctz d a) := by
  have lt_d := d.isLt
  have lt_a := a.isLt
  refine of_word (op := 0x02) rfl (by omega) (by omega) (by decide) ?_
  rw [rows02]
  repeat rw [if_neg (by simp only [fld]; omega)]
  rw [if_pos (by simp only [fld]; omega)]
  rw [regAt_eq (r := d) (by omega), regAt_eq (r := a) (by omega)]

theorem popc (d : Reg) (a : Reg) : Statement (.popc d a) := by
  have lt_d := d.isLt
  have lt_a := a.isLt
  refine of_word (op := 0x02) rfl (by omega) (by omega) (by decide) ?_
  rw [rows02]
  repeat rw [if_neg (by simp only [fld]; omega)]
  rw [if_pos (by simp only [fld]; omega)]
  rw [regAt_eq (r := d) (by omega), regAt_eq (r := a) (by omega)]

theorem untaint (d : Reg) : Statement (.untaint d) := by
  have lt_d := d.isLt
  refine of_word (op := 0x02) rfl (by omega) (by omega) (by decide) ?_
  rw [rows02]
  repeat rw [if_neg (by simp only [fld]; omega)]
  rw [if_pos (by simp only [fld]; omega)]
  rw [regAt_eq (r := d) (by omega)]

theorem min (d : Reg) (a : Reg) (b : Reg) : Statement (.min d a b) := by
  have lt_d := d.isLt
  have lt_a := a.isLt
  have lt_b := b.isLt
  refine of_word (op := 0x03) rfl (by omega) (by omega) (by decide) ?_
  rw [rows03]
  rw [if_pos (by simp only [fld]; omega)]
  rw [regAt_eq (r := d) (by omega), regAt_eq (r := a) (by omega), regAt_eq (r := b) (by omega)]

theorem max (d : Reg) (a : Reg) (b : Reg) : Statement (.max d a b) := by
  have lt_d := d.isLt
  have lt_a := a.isLt
  have lt_b := b.isLt
  refine of_word (op := 0x03) rfl (by omega) (by omega) (by decide) ?_
  rw [rows03]
  rw [if_neg (by simp only [fld]; omega)]
  rw [if_pos (by simp only [fld]; omega)]
  rw [regAt_eq (r := d) (by omega), regAt_eq (r := a) (by omega), regAt_eq (r := b) (by omega)]

theorem minu (d : Reg) (a : Reg) (b : Reg) : Statement (.minu d a b) := by
  have lt_d := d.isLt
  have lt_a := a.isLt
  have lt_b := b.isLt
  refine of_word (op := 0x03) rfl (by omega) (by omega) (by decide) ?_
  rw [rows03]
  repeat rw [if_neg (by simp only [fld]; omega)]
  rw [if_pos (by simp only [fld]; omega)]
  rw [regAt_eq (r := d) (by omega), regAt_eq (r := a) (by omega), regAt_eq (r := b) (by omega)]

theorem maxu (d : Reg) (a : Reg) (b : Reg) : Statement (.maxu d a b) := by
  have lt_d := d.isLt
  have lt_a := a.isLt
  have lt_b := b.isLt
  refine of_word (op := 0x03) rfl (by omega) (by omega) (by decide) ?_
  rw [rows03]
  repeat rw [if_neg (by simp only [fld]; omega)]
  rw [if_pos (by simp only [fld]; omega)]
  rw [regAt_eq (r := d) (by omega), regAt_eq (r := a) (by omega), regAt_eq (r := b) (by omega)]

theorem seq (d : Reg) (a : Reg) (b : Reg) : Statement (.seq d a b) := by
  have lt_d := d.isLt
  have lt_a := a.isLt
  have lt_b := b.isLt
  refine of_word (op := 0x03) rfl (by omega) (by omega) (by decide) ?_
  rw [rows03]
  repeat rw [if_neg (by simp only [fld]; omega)]
  rw [if_pos (by simp only [fld]; omega)]
  rw [regAt_eq (r := d) (by omega), regAt_eq (r := a) (by omega), regAt_eq (r := b) (by omega)]

theorem slt (d : Reg) (a : Reg) (b : Reg) : Statement (.slt d a b) := by
  have lt_d := d.isLt
  have lt_a := a.isLt
  have lt_b := b.isLt
  refine of_word (op := 0x03) rfl (by omega) (by omega) (by decide) ?_
  rw [rows03]
  repeat rw [if_neg (by simp only [fld]; omega)]
  rw [if_pos (by simp only [fld]; omega)]
  rw [regAt_eq (r := d) (by omega), regAt_eq (r := a) (by omega), regAt_eq (r := b) (by omega)]

theorem sltu (d : Reg) (a : Reg) (b : Reg) : Statement (.sltu d a b) := by
  have lt_d := d.isLt
  have lt_a := a.isLt
  have lt_b := b.isLt
  refine of_word (op := 0x03) rfl (by omega) (by omega) (by decide) ?_
  rw [rows03]
  repeat rw [if_neg (by simp only [fld]; omega)]
  rw [if_pos (by simp only [fld]; omega)]
  rw [regAt_eq (r := d) (by omega), regAt_eq (r := a) (by omega), regAt_eq (r := b) (by omega)]

theorem sel (d : Reg) (a : Reg) (b : Reg) (c : Reg) : Statement (.sel d a b c) := by
  have lt_d := d.isLt
  have lt_a := a.isLt
  have lt_b := b.isLt
  have lt_c := c.isLt
  refine of_word (op := 0x03) rfl (by omega) (by omega) (by decide) ?_
  rw [rows03]
  repeat rw [if_neg (by simp only [fld]; omega)]
  rw [if_pos (by simp only [fld]; omega)]
  rw [regAt_eq (r := d) (by omega), regAt_eq (r := a) (by omega), regAt_eq (r := b) (by omega), regAt_eq (r := c) (by omega)]

theorem addi (d : Reg) (a : Reg) (imm : BitVec 15) : Statement (.addi d a imm) := by
  have lt_d := d.isLt
  have lt_a := a.isLt
  have lt_imm := imm.isLt
  refine of_word (op := 0x04) rfl (by omega) (by omega) (by decide) ?_
  rw [rows04]
  rw [regAt_eq (r := d) (by omega), regAt_eq (r := a) (by omega), bitsAt_eq (x := imm) (by omega)]

theorem andi (d : Reg) (a : Reg) (imm : BitVec 15) : Statement (.andi d a imm) := by
  have lt_d := d.isLt
  have lt_a := a.isLt
  have lt_imm := imm.isLt
  refine of_word (op := 0x05) rfl (by omega) (by omega) (by decide) ?_
  rw [rows05]
  rw [regAt_eq (r := d) (by omega), regAt_eq (r := a) (by omega), bitsAt_eq (x := imm) (by omega)]

theorem ori (d : Reg) (a : Reg) (imm : BitVec 15) : Statement (.ori d a imm) := by
  have lt_d := d.isLt
  have lt_a := a.isLt
  have lt_imm := imm.isLt
  refine of_word (op := 0x06) rfl (by omega) (by omega) (by decide) ?_
  rw [rows06]
  rw [regAt_eq (r := d) (by omega), regAt_eq (r := a) (by omega), bitsAt_eq (x := imm) (by omega)]

theorem xori (d : Reg) (a : Reg) (imm : BitVec 15) : Statement (.xori d a imm) := by
  have lt_d := d.isLt
  have lt_a := a.isLt
  have lt_imm := imm.isLt
  refine of_word (op := 0x07) rfl (by omega) (by omega) (by decide) ?_
  rw [rows07]
  rw [regAt_eq (r := d) (by omega), regAt_eq (r := a) (by omega), bitsAt_eq (x := imm) (by omega)]

theorem shli (d : Reg) (a : Reg) (n : BitVec 6) : Statement (.shli d a n) := by
  have lt_d := d.isLt
  have lt_a := a.isLt
  have lt_n := n.isLt
  refine of_word (op := 0x08) rfl (by omega) (by omega) (by decide) ?_
  rw [rows08]
  rw [if_pos (by simp only [fld]; omega)]
  rw [regAt_eq (r := d) (by omega), regAt_eq (r := a) (by omega), bitsAt_eq (x := n) (by omega)]

theorem shri (d : Reg) (a : Reg) (n : BitVec 6) : Statement (.shri d a n) := by
  have lt_d := d.isLt
  have lt_a := a.isLt
  have lt_n := n.isLt
  refine of_word (op := 0x09) rfl (by omega) (by omega) (by decide) ?_
  rw [rows09]
  rw [if_pos (by simp only [fld]; omega)]
  rw [regAt_eq (r := d) (by omega), regAt_eq (r := a) (by omega), bitsAt_eq (x := n) (by omega)]

theorem srai (d : Reg) (a : Reg) (n : BitVec 6) : Statement (.srai d a n) := by
  have lt_d := d.isLt
  have lt_a := a.isLt
  have lt_n := n.isLt
  refine of_word (op := 0x0A) rfl (by omega) (by omega) (by decide) ?_
  rw [rows0A]
  rw [if_pos (by simp only [fld]; omega)]
  rw [regAt_eq (r := d) (by omega), regAt_eq (r := a) (by omega), bitsAt_eq (x := n) (by omega)]

theorem slti (d : Reg) (a : Reg) (imm : BitVec 15) : Statement (.slti d a imm) := by
  have lt_d := d.isLt
  have lt_a := a.isLt
  have lt_imm := imm.isLt
  refine of_word (op := 0x0B) rfl (by omega) (by omega) (by decide) ?_
  rw [rows0B]
  rw [regAt_eq (r := d) (by omega), regAt_eq (r := a) (by omega), bitsAt_eq (x := imm) (by omega)]

theorem bfx (d : Reg) (a : Reg) (l : BitVec 6) (p : BitVec 6) : Statement (.bfx d a l p) := by
  have lt_d := d.isLt
  have lt_a := a.isLt
  have lt_l := l.isLt
  have lt_p := p.isLt
  refine of_word (op := 0x0C) rfl (by omega) (by omega) (by decide) ?_
  rw [rows0C]
  rw [if_pos (by simp only [fld]; omega)]
  rw [regAt_eq (r := d) (by omega), regAt_eq (r := a) (by omega), bitsAt_eq (x := l) (by omega), bitsAt_eq (x := p) (by omega)]

theorem bfi (d : Reg) (a : Reg) (l : BitVec 6) (p : BitVec 6) : Statement (.bfi d a l p) := by
  have lt_d := d.isLt
  have lt_a := a.isLt
  have lt_l := l.isLt
  have lt_p := p.isLt
  refine of_word (op := 0x0D) rfl (by omega) (by omega) (by decide) ?_
  rw [rows0D]
  rw [if_pos (by simp only [fld]; omega)]
  rw [regAt_eq (r := d) (by omega), regAt_eq (r := a) (by omega), bitsAt_eq (x := l) (by omega), bitsAt_eq (x := p) (by omega)]

theorem li (d : Reg) (imm : BitVec 20) : Statement (.li d imm) := by
  have lt_d := d.isLt
  have lt_imm := imm.isLt
  refine of_word (op := 0x0E) rfl (by omega) (by omega) (by decide) ?_
  rw [rows0E]
  rw [regAt_eq (r := d) (by omega), bitsAt_eq (x := imm) (by omega)]

theorem lih (d : Reg) (imm : BitVec 20) : Statement (.lih d imm) := by
  have lt_d := d.isLt
  have lt_imm := imm.isLt
  refine of_word (op := 0x0F) rfl (by omega) (by omega) (by decide) ?_
  rw [rows0F]
  rw [regAt_eq (r := d) (by omega), bitsAt_eq (x := imm) (by omega)]

theorem beq (a : Reg) (b : Reg) (off : BitVec 15) : Statement (.beq a b off) := by
  have lt_a := a.isLt
  have lt_b := b.isLt
  have lt_off := off.isLt
  refine of_word (op := 0x10) rfl (by omega) (by omega) (by decide) ?_
  rw [rows10]
  rw [regAt_eq (r := a) (by omega), regAt_eq (r := b) (by omega), bitsAt_eq (x := off) (by omega)]

theorem bne (a : Reg) (b : Reg) (off : BitVec 15) : Statement (.bne a b off) := by
  have lt_a := a.isLt
  have lt_b := b.isLt
  have lt_off := off.isLt
  refine of_word (op := 0x11) rfl (by omega) (by omega) (by decide) ?_
  rw [rows11]
  rw [regAt_eq (r := a) (by omega), regAt_eq (r := b) (by omega), bitsAt_eq (x := off) (by omega)]

theorem blt (a : Reg) (b : Reg) (off : BitVec 15) : Statement (.blt a b off) := by
  have lt_a := a.isLt
  have lt_b := b.isLt
  have lt_off := off.isLt
  refine of_word (op := 0x12) rfl (by omega) (by omega) (by decide) ?_
  rw [rows12]
  rw [regAt_eq (r := a) (by omega), regAt_eq (r := b) (by omega), bitsAt_eq (x := off) (by omega)]

theorem bge (a : Reg) (b : Reg) (off : BitVec 15) : Statement (.bge a b off) := by
  have lt_a := a.isLt
  have lt_b := b.isLt
  have lt_off := off.isLt
  refine of_word (op := 0x13) rfl (by omega) (by omega) (by decide) ?_
  rw [rows13]
  rw [regAt_eq (r := a) (by omega), regAt_eq (r := b) (by omega), bitsAt_eq (x := off) (by omega)]

theorem bltu (a : Reg) (b : Reg) (off : BitVec 15) : Statement (.bltu a b off) := by
  have lt_a := a.isLt
  have lt_b := b.isLt
  have lt_off := off.isLt
  refine of_word (op := 0x14) rfl (by omega) (by omega) (by decide) ?_
  rw [rows14]
  rw [regAt_eq (r := a) (by omega), regAt_eq (r := b) (by omega), bitsAt_eq (x := off) (by omega)]

theorem bgeu (a : Reg) (b : Reg) (off : BitVec 15) : Statement (.bgeu a b off) := by
  have lt_a := a.isLt
  have lt_b := b.isLt
  have lt_off := off.isLt
  refine of_word (op := 0x15) rfl (by omega) (by omega) (by decide) ?_
  rw [rows15]
  rw [regAt_eq (r := a) (by omega), regAt_eq (r := b) (by omega), bitsAt_eq (x := off) (by omega)]

theorem j (off : BitVec 25) : Statement (.j off) := by
  have lt_off := off.isLt
  refine of_word (op := 0x16) rfl (by omega) (by omega) (by decide) ?_
  rw [rows16]
  rw [bitsAt_eq (x := off) (by omega)]

theorem jal (off : BitVec 25) : Statement (.jal off) := by
  have lt_off := off.isLt
  refine of_word (op := 0x17) rfl (by omega) (by omega) (by decide) ?_
  rw [rows17]
  rw [bitsAt_eq (x := off) (by omega)]

theorem jr (a : Reg) : Statement (.jr a) := by
  have lt_a := a.isLt
  refine of_word (op := 0x18) rfl (by omega) (by omega) (by decide) ?_
  rw [rows18]
  rw [if_pos (by simp only [fld]; omega)]
  rw [regAt_eq (r := a) (by omega)]

theorem jalr (d : Reg) (a : Reg) : Statement (.jalr d a) := by
  have lt_d := d.isLt
  have lt_a := a.isLt
  refine of_word (op := 0x19) rfl (by omega) (by omega) (by decide) ?_
  rw [rows19]
  rw [if_pos (by simp only [fld]; omega)]
  rw [regAt_eq (r := d) (by omega), regAt_eq (r := a) (by omega)]

theorem loop (c : BitVec 2) (a : Reg) (n : BitVec 8) : Statement (.loop c a n) := by
  have lt_c := c.isLt
  have lt_a := a.isLt
  have lt_n := n.isLt
  refine of_word (op := 0x1A) rfl (by omega) (by omega) (by decide) ?_
  rw [rows1A]
  rw [if_pos (by simp only [fld]; omega)]
  rw [bitsAt_eq (x := c) (by omega), regAt_eq (r := a) (by omega), bitsAt_eq (x := n) (by omega)]

theorem loopi (c : BitVec 2) (n : BitVec 8) (k : BitVec 10) : Statement (.loopi c n k) := by
  have lt_c := c.isLt
  have lt_n := n.isLt
  have lt_k := k.isLt
  refine of_word (op := 0x1B) rfl (by omega) (by omega) (by decide) ?_
  rw [rows1B]
  rw [if_pos (by simp only [fld]; omega)]
  rw [bitsAt_eq (x := c) (by omega), bitsAt_eq (x := n) (by omega), bitsAt_eq (x := k) (by omega)]

theorem lbrk (c : BitVec 2) : Statement (.lbrk c) := by
  have lt_c := c.isLt
  refine of_word (op := 0x1C) rfl (by omega) (by omega) (by decide) ?_
  rw [rows1C]
  rw [if_pos (by simp only [fld]; omega)]
  rw [bitsAt_eq (x := c) (by omega)]

theorem endCore : Statement .endCore := by
  refine of_word (op := 0x1D) rfl (by omega) (by omega) (by decide) ?_
  rw [rows1D]
  rw [if_pos (by decide)]

theorem ldB (d : Reg) (a : Reg) (imm : BitVec 15) : Statement (.ldB d a imm) := by
  have lt_d := d.isLt
  have lt_a := a.isLt
  have lt_imm := imm.isLt
  refine of_word (op := 0x20) rfl (by omega) (by omega) (by decide) ?_
  rw [rows20]
  rw [regAt_eq (r := d) (by omega), regAt_eq (r := a) (by omega), bitsAt_eq (x := imm) (by omega)]

theorem ldH (d : Reg) (a : Reg) (imm : BitVec 15) : Statement (.ldH d a imm) := by
  have lt_d := d.isLt
  have lt_a := a.isLt
  have lt_imm := imm.isLt
  refine of_word (op := 0x21) rfl (by omega) (by omega) (by decide) ?_
  rw [rows21]
  rw [regAt_eq (r := d) (by omega), regAt_eq (r := a) (by omega), bitsAt_eq (x := imm) (by omega)]

theorem ldW (d : Reg) (a : Reg) (imm : BitVec 15) : Statement (.ldW d a imm) := by
  have lt_d := d.isLt
  have lt_a := a.isLt
  have lt_imm := imm.isLt
  refine of_word (op := 0x22) rfl (by omega) (by omega) (by decide) ?_
  rw [rows22]
  rw [regAt_eq (r := d) (by omega), regAt_eq (r := a) (by omega), bitsAt_eq (x := imm) (by omega)]

theorem ldD (d : Reg) (a : Reg) (imm : BitVec 15) : Statement (.ldD d a imm) := by
  have lt_d := d.isLt
  have lt_a := a.isLt
  have lt_imm := imm.isLt
  refine of_word (op := 0x23) rfl (by omega) (by omega) (by decide) ?_
  rw [rows23]
  rw [regAt_eq (r := d) (by omega), regAt_eq (r := a) (by omega), bitsAt_eq (x := imm) (by omega)]

theorem ldBs (d : Reg) (a : Reg) (imm : BitVec 15) : Statement (.ldBs d a imm) := by
  have lt_d := d.isLt
  have lt_a := a.isLt
  have lt_imm := imm.isLt
  refine of_word (op := 0x24) rfl (by omega) (by omega) (by decide) ?_
  rw [rows24]
  rw [regAt_eq (r := d) (by omega), regAt_eq (r := a) (by omega), bitsAt_eq (x := imm) (by omega)]

theorem ldHs (d : Reg) (a : Reg) (imm : BitVec 15) : Statement (.ldHs d a imm) := by
  have lt_d := d.isLt
  have lt_a := a.isLt
  have lt_imm := imm.isLt
  refine of_word (op := 0x25) rfl (by omega) (by omega) (by decide) ?_
  rw [rows25]
  rw [regAt_eq (r := d) (by omega), regAt_eq (r := a) (by omega), bitsAt_eq (x := imm) (by omega)]

theorem ldWs (d : Reg) (a : Reg) (imm : BitVec 15) : Statement (.ldWs d a imm) := by
  have lt_d := d.isLt
  have lt_a := a.isLt
  have lt_imm := imm.isLt
  refine of_word (op := 0x26) rfl (by omega) (by omega) (by decide) ?_
  rw [rows26]
  rw [regAt_eq (r := d) (by omega), regAt_eq (r := a) (by omega), bitsAt_eq (x := imm) (by omega)]

theorem ldcD (d : Reg) (a : Reg) (imm : BitVec 15) : Statement (.ldcD d a imm) := by
  have lt_d := d.isLt
  have lt_a := a.isLt
  have lt_imm := imm.isLt
  refine of_word (op := 0x27) rfl (by omega) (by omega) (by decide) ?_
  rw [rows27]
  rw [regAt_eq (r := d) (by omega), regAt_eq (r := a) (by omega), bitsAt_eq (x := imm) (by omega)]

theorem stB (t : Reg) (a : Reg) (imm : BitVec 15) : Statement (.stB t a imm) := by
  have lt_t := t.isLt
  have lt_a := a.isLt
  have lt_imm := imm.isLt
  refine of_word (op := 0x28) rfl (by omega) (by omega) (by decide) ?_
  rw [rows28]
  rw [regAt_eq (r := t) (by omega), regAt_eq (r := a) (by omega), bitsAt_eq (x := imm) (by omega)]

theorem stH (t : Reg) (a : Reg) (imm : BitVec 15) : Statement (.stH t a imm) := by
  have lt_t := t.isLt
  have lt_a := a.isLt
  have lt_imm := imm.isLt
  refine of_word (op := 0x29) rfl (by omega) (by omega) (by decide) ?_
  rw [rows29]
  rw [regAt_eq (r := t) (by omega), regAt_eq (r := a) (by omega), bitsAt_eq (x := imm) (by omega)]

theorem stW (t : Reg) (a : Reg) (imm : BitVec 15) : Statement (.stW t a imm) := by
  have lt_t := t.isLt
  have lt_a := a.isLt
  have lt_imm := imm.isLt
  refine of_word (op := 0x2A) rfl (by omega) (by omega) (by decide) ?_
  rw [rows2A]
  rw [regAt_eq (r := t) (by omega), regAt_eq (r := a) (by omega), bitsAt_eq (x := imm) (by omega)]

theorem stD (t : Reg) (a : Reg) (imm : BitVec 15) : Statement (.stD t a imm) := by
  have lt_t := t.isLt
  have lt_a := a.isLt
  have lt_imm := imm.isLt
  refine of_word (op := 0x2B) rfl (by omega) (by omega) (by decide) ?_
  rw [rows2B]
  rw [regAt_eq (r := t) (by omega), regAt_eq (r := a) (by omega), bitsAt_eq (x := imm) (by omega)]

theorem ldx (d : Reg) (a : Reg) (b : Reg) (h : BitVec 2) (z : BitVec 3) : Statement (.ldx d a b h z) := by
  have lt_d := d.isLt
  have lt_a := a.isLt
  have lt_b := b.isLt
  have lt_h := h.isLt
  have lt_z := z.isLt
  refine of_word (op := 0x2C) rfl (by omega) (by omega) (by decide) ?_
  rw [rows2C]
  rw [if_pos (by simp only [fld]; omega)]
  rw [regAt_eq (r := d) (by omega), regAt_eq (r := a) (by omega), regAt_eq (r := b) (by omega), bitsAt_eq (x := h) (by omega), bitsAt_eq (x := z) (by omega)]

theorem stx (t : Reg) (a : Reg) (b : Reg) (h : BitVec 2) (z : BitVec 2) : Statement (.stx t a b h z) := by
  have lt_t := t.isLt
  have lt_a := a.isLt
  have lt_b := b.isLt
  have lt_h := h.isLt
  have lt_z := z.isLt
  refine of_word (op := 0x2D) rfl (by omega) (by omega) (by decide) ?_
  rw [rows2D]
  rw [if_pos (by simp only [fld]; omega)]
  rw [regAt_eq (r := t) (by omega), regAt_eq (r := a) (by omega), regAt_eq (r := b) (by omega), bitsAt_eq (x := h) (by omega), bitsAt_eq (x := z) (by omega)]

theorem prdD (d : Reg) (a : Reg) (imm : BitVec 15) : Statement (.prdD d a imm) := by
  have lt_d := d.isLt
  have lt_a := a.isLt
  have lt_imm := imm.isLt
  refine of_word (op := 0x2E) rfl (by omega) (by omega) (by decide) ?_
  rw [rows2E]
  rw [regAt_eq (r := d) (by omega), regAt_eq (r := a) (by omega), bitsAt_eq (x := imm) (by omega)]

theorem pwrD (t : Reg) (a : Reg) (imm : BitVec 15) : Statement (.pwrD t a imm) := by
  have lt_t := t.isLt
  have lt_a := a.isLt
  have lt_imm := imm.isLt
  refine of_word (op := 0x2F) rfl (by omega) (by omega) (by decide) ?_
  rw [rows2F]
  rw [regAt_eq (r := t) (by omega), regAt_eq (r := a) (by omega), bitsAt_eq (x := imm) (by omega)]

theorem amoW (d : Reg) (a : Reg) (b : Reg) (r : BitVec 2) (op : BitVec 4) : Statement (.amoW d a b r op) := by
  have lt_d := d.isLt
  have lt_a := a.isLt
  have lt_b := b.isLt
  have lt_r := r.isLt
  have lt_op := op.isLt
  refine of_word (op := 0x30) rfl (by omega) (by omega) (by decide) ?_
  rw [rows30]
  rw [if_pos (by simp only [fld]; omega)]
  rw [regAt_eq (r := d) (by omega), regAt_eq (r := a) (by omega), regAt_eq (r := b) (by omega), bitsAt_eq (x := r) (by omega), bitsAt_eq (x := op) (by omega)]

theorem amoD (d : Reg) (a : Reg) (b : Reg) (r : BitVec 2) (op : BitVec 4) : Statement (.amoD d a b r op) := by
  have lt_d := d.isLt
  have lt_a := a.isLt
  have lt_b := b.isLt
  have lt_r := r.isLt
  have lt_op := op.isLt
  refine of_word (op := 0x31) rfl (by omega) (by omega) (by decide) ?_
  rw [rows31]
  rw [if_pos (by simp only [fld]; omega)]
  rw [regAt_eq (r := d) (by omega), regAt_eq (r := a) (by omega), regAt_eq (r := b) (by omega), bitsAt_eq (x := r) (by omega), bitsAt_eq (x := op) (by omega)]

theorem casW (d : Reg) (a : Reg) (b : Reg) (r : BitVec 2) : Statement (.casW d a b r) := by
  have lt_d := d.isLt
  have lt_a := a.isLt
  have lt_b := b.isLt
  have lt_r := r.isLt
  refine of_word (op := 0x32) rfl (by omega) (by omega) (by decide) ?_
  rw [rows32]
  rw [if_pos (by simp only [fld]; omega)]
  rw [regAt_eq (r := d) (by omega), regAt_eq (r := a) (by omega), regAt_eq (r := b) (by omega), bitsAt_eq (x := r) (by omega)]

theorem casD (d : Reg) (a : Reg) (b : Reg) (r : BitVec 2) : Statement (.casD d a b r) := by
  have lt_d := d.isLt
  have lt_a := a.isLt
  have lt_b := b.isLt
  have lt_r := r.isLt
  refine of_word (op := 0x33) rfl (by omega) (by omega) (by decide) ?_
  rw [rows33]
  rw [if_pos (by simp only [fld]; omega)]
  rw [regAt_eq (r := d) (by omega), regAt_eq (r := a) (by omega), regAt_eq (r := b) (by omega), bitsAt_eq (x := r) (by omega)]

theorem fence : Statement .fence := by
  refine of_word (op := 0x34) rfl (by omega) (by omega) (by decide) ?_
  rw [rows34]
  rw [if_pos (by decide)]

theorem rel (c : BitVec 2) : Statement (.rel c) := by
  have lt_c := c.isLt
  refine of_word (op := 0x35) rfl (by omega) (by omega) (by decide) ?_
  rw [rows35]
  rw [if_pos (by simp only [fld]; omega)]
  rw [bitsAt_eq (x := c) (by omega)]

theorem acq (c : BitVec 2) : Statement (.acq c) := by
  have lt_c := c.isLt
  refine of_word (op := 0x35) rfl (by omega) (by omega) (by decide) ?_
  rw [rows35]
  rw [if_neg (by simp only [fld]; omega)]
  rw [if_pos (by simp only [fld]; omega)]
  rw [bitsAt_eq (x := c) (by omega)]

theorem wbr (a : Reg) (b : Reg) (c : BitVec 2) : Statement (.wbr a b c) := by
  have lt_a := a.isLt
  have lt_b := b.isLt
  have lt_c := c.isLt
  refine of_word (op := 0x35) rfl (by omega) (by omega) (by decide) ?_
  rw [rows35]
  repeat rw [if_neg (by simp only [fld]; omega)]
  rw [if_pos (by simp only [fld]; omega)]
  rw [regAt_eq (r := a) (by omega), regAt_eq (r := b) (by omega), bitsAt_eq (x := c) (by omega)]

theorem invr (a : Reg) (b : Reg) (c : BitVec 2) : Statement (.invr a b c) := by
  have lt_a := a.isLt
  have lt_b := b.isLt
  have lt_c := c.isLt
  refine of_word (op := 0x35) rfl (by omega) (by omega) (by decide) ?_
  rw [rows35]
  repeat rw [if_neg (by simp only [fld]; omega)]
  rw [if_pos (by simp only [fld]; omega)]
  rw [regAt_eq (r := a) (by omega), regAt_eq (r := b) (by omega), bitsAt_eq (x := c) (by omega)]

theorem flr (a : Reg) (b : Reg) (c : BitVec 2) : Statement (.flr a b c) := by
  have lt_a := a.isLt
  have lt_b := b.isLt
  have lt_c := c.isLt
  refine of_word (op := 0x35) rfl (by omega) (by omega) (by decide) ?_
  rw [rows35]
  repeat rw [if_neg (by simp only [fld]; omega)]
  rw [if_pos (by simp only [fld]; omega)]
  rw [regAt_eq (r := a) (by omega), regAt_eq (r := b) (by omega), bitsAt_eq (x := c) (by omega)]

theorem icinv (a : Reg) (b : Reg) (c : BitVec 2) : Statement (.icinv a b c) := by
  have lt_a := a.isLt
  have lt_b := b.isLt
  have lt_c := c.isLt
  refine of_word (op := 0x35) rfl (by omega) (by omega) (by decide) ?_
  rw [rows35]
  repeat rw [if_neg (by simp only [fld]; omega)]
  rw [if_pos (by simp only [fld]; omega)]
  rw [regAt_eq (r := a) (by omega), regAt_eq (r := b) (by omega), bitsAt_eq (x := c) (by omega)]

theorem tstat (d : Reg) (a : Reg) : Statement (.tstat d a) := by
  have lt_d := d.isLt
  have lt_a := a.isLt
  refine of_word (op := 0x40) rfl (by omega) (by omega) (by decide) ?_
  rw [rows40]
  rw [if_pos (by simp only [fld]; omega)]
  rw [regAt_eq (r := d) (by omega), regAt_eq (r := a) (by omega)]

theorem tgive (a : Reg) : Statement (.tgive a) := by
  have lt_a := a.isLt
  refine of_word (op := 0x40) rfl (by omega) (by omega) (by decide) ?_
  rw [rows40]
  rw [if_neg (by simp only [fld]; omega)]
  rw [if_pos (by simp only [fld]; omega)]
  rw [regAt_eq (r := a) (by omega)]

theorem ttake (a : Reg) : Statement (.ttake a) := by
  have lt_a := a.isLt
  refine of_word (op := 0x40) rfl (by omega) (by omega) (by decide) ?_
  rw [rows40]
  repeat rw [if_neg (by simp only [fld]; omega)]
  rw [if_pos (by simp only [fld]; omega)]
  rw [regAt_eq (r := a) (by omega)]

theorem tempty (a : Reg) : Statement (.tempty a) := by
  have lt_a := a.isLt
  refine of_word (op := 0x40) rfl (by omega) (by omega) (by decide) ?_
  rw [rows40]
  repeat rw [if_neg (by simp only [fld]; omega)]
  rw [if_pos (by simp only [fld]; omega)]
  rw [regAt_eq (r := a) (by omega)]

theorem twait (a : Reg) (st : BitVec 2) : Statement (.twait a st) := by
  have lt_a := a.isLt
  have lt_st := st.isLt
  refine of_word (op := 0x40) rfl (by omega) (by omega) (by decide) ?_
  rw [rows40]
  repeat rw [if_neg (by simp only [fld]; omega)]
  rw [if_pos (by simp only [fld]; omega)]
  rw [regAt_eq (r := a) (by omega), bitsAt_eq (x := st) (by omega)]

theorem sld (a : Reg) (p : BitVec 2) : Statement (.sld a p) := by
  have lt_a := a.isLt
  have lt_p := p.isLt
  refine of_word (op := 0x41) rfl (by omega) (by omega) (by decide) ?_
  rw [rows41]
  rw [if_pos (by simp only [fld]; omega)]
  rw [regAt_eq (r := a) (by omega), bitsAt_eq (x := p) (by omega)]

theorem sst (a : Reg) (p : BitVec 2) : Statement (.sst a p) := by
  have lt_a := a.isLt
  have lt_p := p.isLt
  refine of_word (op := 0x42) rfl (by omega) (by omega) (by decide) ?_
  rw [rows42]
  rw [if_pos (by simp only [fld]; omega)]
  rw [regAt_eq (r := a) (by omega), bitsAt_eq (x := p) (by omega)]

theorem sstop (p : BitVec 3) : Statement (.sstop p) := by
  have lt_p := p.isLt
  refine of_word (op := 0x43) rfl (by omega) (by omega) (by decide) ?_
  rw [rows43]
  rw [if_pos (by simp only [fld]; omega)]
  rw [bitsAt_eq (x := p) (by omega)]

theorem swait (p : BitVec 3) : Statement (.swait p) := by
  have lt_p := p.isLt
  refine of_word (op := 0x44) rfl (by omega) (by omega) (by decide) ?_
  rw [rows44]
  rw [if_pos (by simp only [fld]; omega)]
  rw [bitsAt_eq (x := p) (by omega)]

theorem sstat (d : Reg) (p : BitVec 6) : Statement (.sstat d p) := by
  have lt_d := d.isLt
  have lt_p := p.isLt
  refine of_word (op := 0x45) rfl (by omega) (by omega) (by decide) ?_
  rw [rows45]
  rw [if_pos (by simp only [fld]; omega)]
  rw [regAt_eq (r := d) (by omega), bitsAt_eq (x := p) (by omega)]

theorem spush (a : Reg) (b : Reg) (k : BitVec 3) : Statement (.spush a b k) := by
  have lt_a := a.isLt
  have lt_b := b.isLt
  have lt_k := k.isLt
  refine of_word (op := 0x46) rfl (by omega) (by omega) (by decide) ?_
  rw [rows46]
  rw [if_pos (by simp only [fld]; omega)]
  rw [regAt_eq (r := a) (by omega), regAt_eq (r := b) (by omega), bitsAt_eq (x := k) (by omega)]

theorem spop (d : Reg) : Statement (.spop d) := by
  have lt_d := d.isLt
  refine of_word (op := 0x47) rfl (by omega) (by omega) (by decide) ?_
  rw [rows47]
  rw [if_pos (by simp only [fld]; omega)]
  rw [regAt_eq (r := d) (by omega)]

theorem cpy (d : Reg) (a : Reg) (e : BitVec 6) : Statement (.cpy d a e) := by
  have lt_d := d.isLt
  have lt_a := a.isLt
  have lt_e := e.isLt
  refine of_word (op := 0x50) rfl (by omega) (by omega) (by decide) ?_
  rw [rows50]
  rw [if_pos (by simp only [fld]; omega)]
  rw [regAt_eq (r := d) (by omega), regAt_eq (r := a) (by omega), bitsAt_eq (x := e) (by omega)]

theorem gath (d : Reg) (a : Reg) : Statement (.gath d a) := by
  have lt_d := d.isLt
  have lt_a := a.isLt
  refine of_word (op := 0x51) rfl (by omega) (by omega) (by decide) ?_
  rw [rows51]
  rw [if_pos (by simp only [fld]; omega)]
  rw [regAt_eq (r := d) (by omega), regAt_eq (r := a) (by omega)]

theorem scat (d : Reg) (a : Reg) : Statement (.scat d a) := by
  have lt_d := d.isLt
  have lt_a := a.isLt
  refine of_word (op := 0x52) rfl (by omega) (by omega) (by decide) ?_
  rw [rows52]
  rw [if_pos (by simp only [fld]; omega)]
  rw [regAt_eq (r := d) (by omega), regAt_eq (r := a) (by omega)]

theorem redc (d : Reg) (a : Reg) : Statement (.redc d a) := by
  have lt_d := d.isLt
  have lt_a := a.isLt
  refine of_word (op := 0x53) rfl (by omega) (by omega) (by decide) ?_
  rw [rows53]
  rw [if_pos (by simp only [fld]; omega)]
  rw [regAt_eq (r := d) (by omega), regAt_eq (r := a) (by omega)]

theorem ewait (a : Reg) : Statement (.ewait a) := by
  have lt_a := a.isLt
  refine of_word (op := 0x54) rfl (by omega) (by omega) (by decide) ?_
  rw [rows54]
  rw [if_pos (by simp only [fld]; omega)]
  rw [regAt_eq (r := a) (by omega)]

theorem epoll (d : Reg) (a : Reg) : Statement (.epoll d a) := by
  have lt_d := d.isLt
  have lt_a := a.isLt
  refine of_word (op := 0x55) rfl (by omega) (by omega) (by decide) ?_
  rw [rows55]
  rw [if_pos (by simp only [fld]; omega)]
  rw [regAt_eq (r := d) (by omega), regAt_eq (r := a) (by omega)]

theorem cfg (a : Reg) (b : Reg) : Statement (.cfg a b) := by
  have lt_a := a.isLt
  have lt_b := b.isLt
  refine of_word (op := 0x56) rfl (by omega) (by omega) (by decide) ?_
  rw [rows56]
  rw [if_pos (by simp only [fld]; omega)]
  rw [regAt_eq (r := a) (by omega), regAt_eq (r := b) (by omega)]

theorem start : Statement .start := by
  refine of_word (op := 0x57) rfl (by omega) (by omega) (by decide) ?_
  rw [rows57]
  rw [if_pos (by decide)]

theorem kerf : Statement .kerf := by
  refine of_word (op := 0x58) rfl (by omega) (by omega) (by decide) ?_
  rw [rows58]
  rw [if_pos (by decide)]

theorem erd (d : Reg) (a : Reg) (w : BitVec 2) : Statement (.erd d a w) := by
  have lt_d := d.isLt
  have lt_a := a.isLt
  have lt_w := w.isLt
  refine of_word (op := 0x59) rfl (by omega) (by omega) (by decide) ?_
  rw [rows59]
  rw [if_pos (by simp only [fld]; omega)]
  rw [regAt_eq (r := d) (by omega), regAt_eq (r := a) (by omega), bitsAt_eq (x := w) (by omega)]

theorem round (a : Reg) : Statement (.round a) := by
  have lt_a := a.isLt
  refine of_word (op := 0x5A) rfl (by omega) (by omega) (by decide) ?_
  rw [rows5A]
  rw [if_pos (by simp only [fld]; omega)]
  rw [regAt_eq (r := a) (by omega)]

theorem lstat (d : Reg) (a : Reg) : Statement (.lstat d a) := by
  have lt_d := d.isLt
  have lt_a := a.isLt
  refine of_word (op := 0x5B) rfl (by omega) (by omega) (by decide) ?_
  rw [rows5B]
  rw [if_pos (by simp only [fld]; omega)]
  rw [regAt_eq (r := d) (by omega), regAt_eq (r := a) (by omega)]

theorem barT : Statement .barT := by
  refine of_word (op := 0x60) rfl (by omega) (by omega) (by decide) ?_
  rw [rows60]
  rw [if_pos (by decide)]

theorem phase (a : Reg) : Statement (.phase a) := by
  have lt_a := a.isLt
  refine of_word (op := 0x61) rfl (by omega) (by omega) (by decide) ?_
  rw [rows61]
  rw [if_pos (by simp only [fld]; omega)]
  rw [regAt_eq (r := a) (by omega)]

theorem cwait (a : Reg) (b : Reg) : Statement (.cwait a b) := by
  have lt_a := a.isLt
  have lt_b := b.isLt
  refine of_word (op := 0x62) rfl (by omega) (by omega) (by decide) ?_
  rw [rows62]
  rw [if_pos (by simp only [fld]; omega)]
  rw [regAt_eq (r := a) (by omega), regAt_eq (r := b) (by omega)]

theorem cadd (a : Reg) (b : Reg) : Statement (.cadd a b) := by
  have lt_a := a.isLt
  have lt_b := b.isLt
  refine of_word (op := 0x63) rfl (by omega) (by omega) (by decide) ?_
  rw [rows63]
  rw [if_pos (by simp only [fld]; omega)]
  rw [regAt_eq (r := a) (by omega), regAt_eq (r := b) (by omega)]

theorem notify (a : Reg) (b : Reg) : Statement (.notify a b) := by
  have lt_a := a.isLt
  have lt_b := b.isLt
  refine of_word (op := 0x64) rfl (by omega) (by omega) (by decide) ?_
  rw [rows64]
  rw [if_pos (by simp only [fld]; omega)]
  rw [regAt_eq (r := a) (by omega), regAt_eq (r := b) (by omega)]

theorem cancel (a : Reg) : Statement (.cancel a) := by
  have lt_a := a.isLt
  refine of_word (op := 0x65) rfl (by omega) (by omega) (by decide) ?_
  rw [rows65]
  rw [if_pos (by simp only [fld]; omega)]
  rw [regAt_eq (r := a) (by omega)]

theorem forkw (d : Reg) (a : Reg) (n : BitVec 15) : Statement (.forkw d a n) := by
  have lt_d := d.isLt
  have lt_a := a.isLt
  have lt_n := n.isLt
  refine of_word (op := 0x66) rfl (by omega) (by omega) (by decide) ?_
  rw [rows66]
  rw [regAt_eq (r := d) (by omega), regAt_eq (r := a) (by omega), bitsAt_eq (x := n) (by omega)]

theorem choose : Statement .choose := by
  refine of_word (op := 0x67) rfl (by omega) (by omega) (by decide) ?_
  rw [rows67]
  rw [if_pos (by decide)]

theorem wyield (a : Reg) : Statement (.wyield a) := by
  have lt_a := a.isLt
  refine of_word (op := 0x68) rfl (by omega) (by omega) (by decide) ?_
  rw [rows68]
  rw [if_pos (by simp only [fld]; omega)]
  rw [regAt_eq (r := a) (by omega)]

theorem region (a : Reg) : Statement (.region a) := by
  have lt_a := a.isLt
  refine of_word (op := 0x69) rfl (by omega) (by omega) (by decide) ?_
  rw [rows69]
  rw [if_pos (by simp only [fld]; omega)]
  rw [regAt_eq (r := a) (by omega)]

theorem trap (n : BitVec 15) : Statement (.trap n) := by
  have lt_n := n.isLt
  refine of_word (op := 0x70) rfl (by omega) (by omega) (by decide) ?_
  rw [rows70]
  rw [if_pos (by simp only [fld]; omega)]
  rw [bitsAt_eq (x := n) (by omega)]

theorem eret : Statement .eret := by
  refine of_word (op := 0x71) rfl (by omega) (by omega) (by decide) ?_
  rw [rows71]
  rw [if_pos (by decide)]

theorem mfs (d : Reg) (r : BitVec 12) : Statement (.mfs d r) := by
  have lt_d := d.isLt
  have lt_r := r.isLt
  refine of_word (op := 0x72) rfl (by omega) (by omega) (by decide) ?_
  rw [rows72]
  rw [if_pos (by simp only [fld]; omega)]
  rw [regAt_eq (r := d) (by omega), bitsAt_eq (x := r) (by omega)]

theorem mts (a : Reg) (r : BitVec 12) : Statement (.mts a r) := by
  have lt_a := a.isLt
  have lt_r := r.isLt
  refine of_word (op := 0x73) rfl (by omega) (by omega) (by decide) ?_
  rw [rows73]
  rw [if_pos (by simp only [fld]; omega)]
  rw [regAt_eq (r := a) (by omega), bitsAt_eq (x := r) (by omega)]

theorem wfe : Statement .wfe := by
  refine of_word (op := 0x74) rfl (by omega) (by omega) (by decide) ?_
  rw [rows74]
  rw [if_pos (by decide)]

theorem brk (n : BitVec 15) : Statement (.brk n) := by
  have lt_n := n.isLt
  refine of_word (op := 0x75) rfl (by omega) (by omega) (by decide) ?_
  rw [rows75]
  rw [if_pos (by simp only [fld]; omega)]
  rw [bitsAt_eq (x := n) (by omega)]

theorem waitEnds (p : Nat) : Statement (.waitEnds p) := of_none rfl

theorem elemAdd (p : Nat) (e : Nat) : Statement (.elemAdd p e) := of_none rfl

theorem elemSub (p : Nat) (e : Nat) : Statement (.elemSub p e) := of_none rfl

theorem elemMul (p : Nat) (e : Nat) : Statement (.elemMul p e) := of_none rfl

theorem fma (p : Nat) (e : Nat) : Statement (.fma p e) := of_none rfl

theorem mac (p : Nat) (e : Nat) : Statement (.mac p e) := of_none rfl

theorem elemAbs (p : Nat) (e : Nat) : Statement (.elemAbs p e) := of_none rfl

theorem neg (p : Nat) (e : Nat) : Statement (.neg p e) := of_none rfl

theorem elemMin (p : Nat) (e : Nat) : Statement (.elemMin p e) := of_none rfl

theorem elemMax (p : Nat) (e : Nat) : Statement (.elemMax p e) := of_none rfl

theorem minp (p : Nat) (e : Nat) : Statement (.minp p e) := of_none rfl

theorem maxp (p : Nat) (e : Nat) : Statement (.maxp p e) := of_none rfl

theorem ceq (p : Nat) (e : Nat) : Statement (.ceq p e) := of_none rfl

theorem cne (p : Nat) (e : Nat) : Statement (.cne p e) := of_none rfl

theorem clt (p : Nat) (e : Nat) : Statement (.clt p e) := of_none rfl

theorem cle (p : Nat) (e : Nat) : Statement (.cle p e) := of_none rfl

theorem elemSel (p : Nat) (e : Nat) : Statement (.elemSel p e) := of_none rfl

theorem elemAnd (p : Nat) (e : Nat) : Statement (.elemAnd p e) := of_none rfl

theorem elemOr (p : Nat) (e : Nat) : Statement (.elemOr p e) := of_none rfl

theorem elemXor (p : Nat) (e : Nat) : Statement (.elemXor p e) := of_none rfl

theorem elemNot (p : Nat) (e : Nat) : Statement (.elemNot p e) := of_none rfl

theorem elemShl (p : Nat) (e : Nat) : Statement (.elemShl p e) := of_none rfl

theorem elemShr (p : Nat) (e : Nat) : Statement (.elemShr p e) := of_none rfl

theorem elemSra (p : Nat) (e : Nat) : Statement (.elemSra p e) := of_none rfl

theorem rshr (p : Nat) (e : Nat) : Statement (.rshr p e) := of_none rfl

theorem req (p : Nat) (e : Nat) : Statement (.req p e) := of_none rfl

theorem clmp (p : Nat) (e : Nat) : Statement (.clmp p e) := of_none rfl

theorem pass (p : Nat) (e : Nat) : Statement (.pass p e) := of_none rfl

theorem bcst (p : Nat) (e : Nat) : Statement (.bcst p e) := of_none rfl

theorem perm (p : Nat) (e : Nat) : Statement (.perm p e) := of_none rfl

theorem slide (p : Nat) (e : Nat) : Statement (.slide p e) := of_none rfl

theorem rcp (p : Nat) (e : Nat) : Statement (.rcp p e) := of_none rfl

theorem rsq (p : Nat) (e : Nat) : Statement (.rsq p e) := of_none rfl

theorem sqrt (p : Nat) (e : Nat) : Statement (.sqrt p e) := of_none rfl

theorem exp2 (p : Nat) (e : Nat) : Statement (.exp2 p e) := of_none rfl

theorem log2 (p : Nat) (e : Nat) : Statement (.log2 p e) := of_none rfl

theorem tanh (p : Nat) (e : Nat) : Statement (.tanh p e) := of_none rfl

theorem cvt (p : Nat) (e : Nat) : Statement (.cvt p e) := of_none rfl

theorem bq (p : Nat) (e : Nat) : Statement (.bq p e) := of_none rfl

theorem dq (p : Nat) (e : Nat) : Statement (.dq p e) := of_none rfl

theorem pack (p : Nat) (e : Nat) : Statement (.pack p e) := of_none rfl

theorem unpk (p : Nat) (e : Nat) : Statement (.unpk p e) := of_none rfl

theorem rsum (p : Nat) (e : Nat) : Statement (.rsum p e) := of_none rfl

theorem rmax (p : Nat) (e : Nat) : Statement (.rmax p e) := of_none rfl

theorem rmin (p : Nat) (e : Nat) : Statement (.rmin p e) := of_none rfl

theorem acc (p : Nat) (e : Nat) : Statement (.acc p e) := of_none rfl

theorem mma (p : Nat) (e : Nat) : Statement (.mma p e) := of_none rfl

theorem mmao (p : Nat) (e : Nat) : Statement (.mmao p e) := of_none rfl

theorem mmaz (p : Nat) (e : Nat) : Statement (.mmaz p e) := of_none rfl

theorem mmaTileWrite (p : Nat) (e : Nat) : Statement (.mmaTileWrite p e) := of_none rfl

theorem amul (p : Nat) (e : Nat) : Statement (.amul p e) := of_none rfl

theorem amma (p : Nat) (e : Nat) : Statement (.amma p e) := of_none rfl

theorem aconj (p : Nat) (e : Nat) : Statement (.aconj p e) := of_none rfl

theorem anorm (p : Nat) (e : Nat) : Statement (.anorm p e) := of_none rfl

theorem ainv (p : Nat) (e : Nat) : Statement (.ainv p e) := of_none rfl

theorem algebraTableRead (p : Nat) (e : Nat) : Statement (.algebraTableRead p e) := of_none rfl

theorem filt (p : Nat) (e : Nat) : Statement (.filt p e) := of_none rfl

theorem cmpt (p : Nat) (e : Nat) : Statement (.cmpt p e) := of_none rfl

theorem cnt (p : Nat) (e : Nat) : Statement (.cnt p e) := of_none rfl

theorem mrk (p : Nat) (e : Nat) : Statement (.mrk p e) := of_none rfl

theorem strip (p : Nat) (e : Nat) : Statement (.strip p e) := of_none rfl

theorem zip (p : Nat) (e : Nat) : Statement (.zip p e) := of_none rfl

theorem unzp (p : Nat) (e : Nat) : Statement (.unzp p e) := of_none rfl

theorem pld (p : Nat) (e : Nat) : Statement (.pld p e) := of_none rfl

theorem pst (p : Nat) (e : Nat) : Statement (.pst p e) := of_none rfl

theorem lbuf (p : Nat) (e : Nat) : Statement (.lbuf p e) := of_none rfl

theorem tflip (p : Nat) (e : Nat) : Statement (.tflip p e) := of_none rfl

theorem mld (p : Nat) (e : Nat) : Statement (.mld p e) := of_none rfl

theorem mst (p : Nat) (e : Nat) : Statement (.mst p e) := of_none rfl

theorem mamo (p : Nat) (e : Nat) : Statement (.mamo p e) := of_none rfl

theorem elementMemoryComplete (p : Nat) (e : Nat) (n : Nat) : Statement (.elementMemoryComplete p e n) := of_none rfl

theorem cmd (p : Nat) (e : Nat) : Statement (.cmd p e) := of_none rfl

theorem steer (p : Nat) (e : Nat) : Statement (.steer p e) := of_none rfl

theorem merge (p : Nat) (e : Nat) : Statement (.merge p e) := of_none rfl

theorem carry (p : Nat) (e : Nat) : Statement (.carry p e) := of_none rfl

theorem mitre (p : Nat) (e : Nat) : Statement (.mitre p e) := of_none rfl

theorem scaleToken (p : Nat) (e : Nat) (k : Nat) : Statement (.scaleToken p e k) := of_none rfl

theorem configToken (p : Nat) (e : Nat) (k : Nat) : Statement (.configToken p e k) := of_none rfl

theorem commandTokenAtElement (p : Nat) (e : Nat) (k : Nat) : Statement (.commandTokenAtElement p e k) := of_none rfl

theorem tokenHop (p : Nat) (e : Nat) (src : Nat) : Statement (.tokenHop p e src) := of_none rfl

theorem loadPortDeliver (p : Nat) (k : Nat) : Statement (.loadPortDeliver p k) := of_none rfl

theorem storePortAccept (p : Nat) (k : Nat) : Statement (.storePortAccept p k) := of_none rfl

theorem streamFinish (p : Nat) (k : Nat) : Statement (.streamFinish p k) := of_none rfl

theorem engineTakeCommand (p : Nat) : Statement (.engineTakeCommand p) := of_none rfl

theorem engineCommandComplete (b : Nat) (g : Nat) : Statement (.engineCommandComplete b g) := of_none rfl

theorem reduceCombine (pid : Nat) (g : Nat) (q : BitVec 64) : Statement (.reduceCombine pid g q) := of_none rfl

theorem panelCopy (pid : Nat) (view : Nat) (slot : Nat) (panel : Nat) : Statement (.panelCopy pid view slot panel) := of_none rfl

theorem readPkt (k : Nat) : Statement (.readPkt k) := of_none rfl

theorem writePkt (k : Nat) : Statement (.writePkt k) := of_none rfl

theorem atomicPkt (k : Nat) : Statement (.atomicPkt k) := of_none rfl

theorem dataPkt (k : Nat) : Statement (.dataPkt k) := of_none rfl

theorem arespPkt (k : Nat) : Statement (.arespPkt k) := of_none rfl

theorem ackPkt (k : Nat) : Statement (.ackPkt k) := of_none rfl

theorem resendPkt (k : Nat) : Statement (.resendPkt k) := of_none rfl

theorem ownernakPkt (k : Nat) : Statement (.ownernakPkt k) := of_none rfl

theorem abandonPkt (k : Nat) : Statement (.abandonPkt k) := of_none rfl

theorem spanPkt (k : Nat) : Statement (.spanPkt k) := of_none rfl

theorem spanackPkt (k : Nat) : Statement (.spanackPkt k) := of_none rfl

theorem spanresendPkt (k : Nat) : Statement (.spanresendPkt k) := of_none rfl

theorem movePkt (k : Nat) : Statement (.movePkt k) := of_none rfl

theorem collPkt (k : Nat) : Statement (.collPkt k) := of_none rfl

theorem packetAtOutput (k : Nat) : Statement (.packetAtOutput k) := of_none rfl

theorem retransmit (a : AgentId) (n : Nat) : Statement (.retransmit a n) := of_none rfl

theorem linkReplay (k : Nat) : Statement (.linkReplay k) := of_none rfl

theorem responseTimeout (a : AgentId) (tag : Nat) : Statement (.responseTimeout a tag) := of_none rfl

theorem backgroundScrub (b : Nat) (n : Nat) (bad : List Nat) : Statement (.backgroundScrub b n bad) := of_none rfl

theorem notifyPageWrite (vf : Nat) (q : Nat) (v : BitVec 64) : Statement (.notifyPageWrite vf q v) := of_none rfl

theorem scan (vf : Nat) (q : Nat) : Statement (.scan vf q) := of_none rfl

theorem qstarve (vf : Nat) (q : Nat) : Statement (.qstarve vf q) := of_none rfl

theorem queueCreate (vf : Nat) (q : Nat) : Statement (.queueCreate vf q) := of_none rfl

theorem queueDestroy (vf : Nat) (q : Nat) : Statement (.queueDestroy vf q) := of_none rfl

theorem queueResume (vf : Nat) (q : Nat) : Statement (.queueResume vf q) := of_none rfl

theorem tensorCreate (vf : Nat) (slot : Nat) : Statement (.tensorCreate vf slot) := of_none rfl

theorem tensorDestroy (vf : Nat) (slot : Nat) : Statement (.tensorDestroy vf slot) := of_none rfl

theorem inval (vf : Nat) (slot : Nat) : Statement (.inval vf slot) := of_none rfl

theorem tensorTableWrite (vf : Nat) (off : Nat) (v : BitVec 64) : Statement (.tensorTableWrite vf off v) := of_none rfl

theorem vpadd (vf : Nat) (v : BitVec 64) : Statement (.vpadd vf v) := of_none rfl

theorem vptake (vf : Nat) : Statement (.vptake vf) := of_none rfl

theorem vpabort (vf : Nat) (v : BitVec 64) : Statement (.vpabort vf v) := of_none rfl

theorem pransGrant (vf : Nat) (gen : BitVec 8) (rid : BitVec 32) : Statement (.pransGrant vf gen rid) := of_none rfl

theorem pransFail (vf : Nat) (gen : BitVec 8) (rid : BitVec 32) : Statement (.pransFail vf gen rid) := of_none rfl

theorem pransFailiso (vf : Nat) (gen : BitVec 8) (granule : BitVec 32) : Statement (.pransFailiso vf gen granule) := of_none rfl

theorem resetQueue (vf : Nat) (q : Nat) : Statement (.resetQueue vf q) := of_none rfl

theorem resetLaunch (vf : Nat) (lid : Nat) : Statement (.resetLaunch vf lid) := of_none rfl

theorem resetEngine (pid : Nat) (bay : Nat) (eng : Nat) : Statement (.resetEngine pid bay eng) := of_none rfl

theorem resetPartition (pid : Nat) : Statement (.resetPartition pid) := of_none rfl

theorem resetDevice : Statement .resetDevice := of_none rfl

theorem rungTimeout (n : Nat) : Statement (.rungTimeout n) := of_none rfl

theorem partitionCreate (pid : Nat) : Statement (.partitionCreate pid) := of_none rfl

theorem partitionDestroy (pid : Nat) : Statement (.partitionDestroy pid) := of_none rfl

theorem partitionUpdate (pid : Nat) : Statement (.partitionUpdate pid) := of_none rfl

theorem granuleGrant (pid : Nat) : Statement (.granuleGrant pid) := of_none rfl

theorem channelGrant (h : Nat) (c : Nat) : Statement (.channelGrant h c) := of_none rfl

theorem granuleRevoke (pid : Nat) : Statement (.granuleRevoke pid) := of_none rfl

theorem partitionStatus (pid : Nat) : Statement (.partitionStatus pid) := of_none rfl

theorem savepoolWrite (v : BitVec 64) : Statement (.savepoolWrite v) := of_none rfl

theorem eqconsWrite (vf : Nat) (v : BitVec 64) : Statement (.eqconsWrite vf v) := of_none rfl

theorem hopinj (v : BitVec 64) : Statement (.hopinj v) := of_none rfl

theorem registerWrite (win : RegWindow) (off : Nat) (v : BitVec 64) : Statement (.registerWrite win off v) := of_none rfl

theorem launchItem (vf : Nat) (q : Nat) : Statement (.launchItem vf q) := of_none rfl

theorem graphItem (vf : Nat) (q : Nat) : Statement (.graphItem vf q) := of_none rfl

theorem graphNodeBegin (vf : Nat) (q : Nat) (n : Nat) (m : Nat) : Statement (.graphNodeBegin vf q n m) := of_none rfl

theorem waitItem (vf : Nat) (q : Nat) : Statement (.waitItem vf q) := of_none rfl

theorem signalItem (vf : Nat) (q : Nat) : Statement (.signalItem vf q) := of_none rfl

theorem phaseCommand (vf : Nat) (q : Nat) : Statement (.phaseCommand vf q) := of_none rfl

theorem cancelCommand (vf : Nat) (q : Nat) : Statement (.cancelCommand vf q) := of_none rfl

theorem qfence (vf : Nat) (q : Nat) : Statement (.qfence vf q) := of_none rfl

theorem nopItem (vf : Nat) (q : Nat) : Statement (.nopItem vf q) := of_none rfl

theorem phaseEnd (pid : Nat) (job : BitVec 64) : Statement (.phaseEnd pid job) := of_none rfl

theorem trussEnd (t : Nat) : Statement (.trussEnd t) := of_none rfl

theorem placeTruss (t : Nat) : Statement (.placeTruss t) := of_none rfl

theorem priorityAging (l : Nat) : Statement (.priorityAging l) := of_none rfl

theorem moveCopy : Statement .moveCopy := of_none rfl

theorem moveRelease : Statement .moveRelease := of_none rfl

theorem moveAbandon : Statement .moveAbandon := of_none rfl

theorem pageScrub (p : Nat) : Statement (.pageScrub p) := of_none rfl

theorem fabstall (t : Nat) : Statement (.fabstall t) := of_none rfl

theorem forkwTimeout (f : Nat) : Statement (.forkwTimeout f) := of_none rfl

theorem sealSummary : Statement .sealSummary := of_none rfl

theorem getMeasurements (idx : Nat) (sign : Bool) : Statement (.getMeasurements idx sign) := of_none rfl

theorem coldStart : Statement .coldStart := of_none rfl

theorem warmStart : Statement .warmStart := of_none rfl

theorem warmStartTimeout : Statement .warmStartTimeout := of_none rfl

theorem illegalWord (w : Word32) : Statement (.illegalWord w) := of_none rfl

theorem waitCompletes (vf : Nat) (q : Nat) : Statement (.waitCompletes vf q) := of_none rfl

end Sys2Proof.Laws.Encoded
end

