-- ==== Sys2Proof/Tests/Slice0.lean ====
section
/-! SUPPORT. Tests: words written out from the encoding tables of R63 to R72, terms that WellFormed refuses, results
computed by hand from the rules named, and for each statement that has hypotheses a state and operands that meet them
(`witness_…`), at the boundaries of its clauses. -/

namespace Sys2Proof.Tests

open Sys2Proof.Machine Sys2Proof.Claims

set_option Elab.async false

/-! ### Helpers -/

/-- Each word decodes to its instruction, and is the instruction's encoding. -/
def reads (l : List (Word32 × Instr)) : Bool :=
  l.all fun x => decide ((decode x.1).toOption = some x.2) && decide (encode x.2 = some x.1)

/-- Each word decodes to no instruction, for the reason named. -/
def rejects (l : List (Word32 × DecodeError)) : Bool :=
  l.all fun x => match decode x.1 with
    | .ok _ => false
    | .error e => decide (e = x.2)

/-- An instruction completes, and what it leaves passes a test. -/
def got (r : Res) (f : State → Bool) : Bool :=
  match r with
  | .next t => f t
  | _ => false

/-- Page 0 holds the only page of truss 1, of launch 2; its core runs (log 9). -/
def one : State := placeOne State.reset

/-- A change of the current core. -/
def core (f : Core → Core) (s : State) : State := s.setCore (f s.core)

/-- A register set, with its taint bit. -/
def reg (r : Reg) (v : Word) (tn : Bool) (s : State) : State := s.setCore (s.core.wr r v tn)

/-- A loop counter set. -/
def loop (k : Fin 3) (l : Loop) (s : State) : State := core (fun c => { c with loops := c.loops.set k l }) s

/-- A change of a page. -/
def page (p : Nat) (f : Page → Page) (s : State) : State := s.setPage p (f (s.page p))

/-- A change of the truss of page 0. -/
def truss (f : Truss → Truss) (s : State) : State := { s with trusses := fmod s.trusses 1 f }

/-- A change of its launch. -/
def launch (f : Launch → Launch) (s : State) : State := { s with launches := fmod s.launches 2 f }

/-- A change of partition 0. -/
def part (f : Partition → Partition) (s : State) : State := s.setPart 0 (f (s.part 0))

/-- A change of a page's port. -/
def port (p k : Nat) (f : Port → Port) (s : State) : State := s.modPort p k f

/-- A change of an element. -/
def elem (p e : Nat) (f : Elem → Elem) (s : State) : State := s.setElem p e (f (s.elem p e))

/-- A trap has been taken: its cause and TVAL, or the failure code of the launch. -/
def trapped (cause : Nat) (tval : Word) (t : State) : Bool :=
  decide (t.core.tcause = BitVec.ofNat 64 cause) && decide (t.core.tval = tval) && t.core.inh

/-- The core has a trap handler. -/
def handled (s : State) : State := core (fun c => { c with tvec := 0x100 }) s

/-! ### Decoding: words made from the match bits and field places of spec/opcode_table.json -/

theorem test_decode_arithmetic : reads
    [(0x03336400, .add 19 6 25), (0x03336401, .sub 19 6 25), (0x03336402, .mul 19 6 25),
     (0x03336403, .mulh 19 6 25), (0x03336404, .mulhu 19 6 25), (0x03336405, .div 19 6 25),
     (0x03336406, .divu 19 6 25), (0x03336407, .rem 19 6 25), (0x03336408, .remu 19 6 25)] = true := by
  decide +kernel

theorem test_decode_logic : reads
    [(0x05336400, .and 19 6 25), (0x05336401, .or 19 6 25), (0x05336402, .xor 19 6 25),
     (0x05336403, .andn 19 6 25), (0x05336404, .shl 19 6 25), (0x05336405, .shr 19 6 25),
     (0x05336406, .sra 19 6 25), (0x05336407, .ror 19 6 25), (0x05330008, .clz 19 6), (0x05330009, .ctz 19 6),
     (0x0533000A, .popc 19 6), (0x0530000B, .untaint 19)] = true := by
  decide +kernel

theorem test_decode_selection : reads
    [(0x07336400, .min 19 6 25), (0x07336401, .max 19 6 25), (0x07336402, .minu 19 6 25),
     (0x07336403, .maxu 19 6 25), (0x07336404, .seq 19 6 25), (0x07336405, .slt 19 6 25),
     (0x07336406, .sltu 19 6 25), (0x07336567, .sel 19 6 25 11)] = true := by
  decide +kernel

theorem test_decode_immediates : reads
    [(0x093365B1, .addi 19 6 26033), (0x0B3365B1, .andi 19 6 26033), (0x0D3365B1, .ori 19 6 26033),
     (0x0F3365B1, .xori 19 6 26033), (0x11330031, .shli 19 6 49), (0x13330031, .shri 19 6 49),
     (0x15330031, .srai 19 6 49), (0x173365B1, .slti 19 6 26033), (0x19330C71, .bfx 19 6 49 49),
     (0x1B330C71, .bfi 19 6 49 49), (0x1D3AA5B1, .li 19 697777), (0x1F3AA5B1, .lih 19 697777)] = true := by
  decide +kernel

theorem test_decode_transfers : reads
    [(0x213365B1, .beq 19 6 26033), (0x233365B1, .bne 19 6 26033), (0x253365B1, .blt 19 6 26033),
     (0x273365B1, .bge 19 6 26033), (0x293365B1, .bltu 19 6 26033), (0x2B3365B1, .bgeu 19 6 26033),
     (0x2D02A5B1, .j 16950705), (0x2F02A5B1, .jal 16950705), (0x30098000, .jr 19), (0x33330000, .jalr 19 6),
     (0x359AC400, .loop 3 6 177), (0x3782C7B1, .loopi 3 177 945), (0x39800000, .lbrk 3), (0x3A000000, .endCore)] = true := by
  decide +kernel

theorem test_decode_loads : reads
    [(0x413365B1, .ldB 19 6 26033), (0x433365B1, .ldH 19 6 26033), (0x453365B1, .ldW 19 6 26033),
     (0x473365B1, .ldD 19 6 26033), (0x493365B1, .ldBs 19 6 26033), (0x4B3365B1, .ldHs 19 6 26033),
     (0x4D3365B1, .ldWs 19 6 26033), (0x4F3365B1, .ldcD 19 6 26033)] = true := by
  decide +kernel

theorem test_decode_stores_plate_atomics : reads
    [(0x513365B1, .stB 19 6 26033), (0x533365B1, .stH 19 6 26033), (0x553365B1, .stW 19 6 26033),
     (0x573365B1, .stD 19 6 26033), (0x59336414, .ldx 19 6 25 2 4), (0x5B33641B, .stx 19 6 25 3 3),
     (0x5D3365B1, .prdD 19 6 26033), (0x5F3365B1, .pwrD 19 6 26033), (0x61336439, .amoW 19 6 25 3 9),
     (0x63336439, .amoD 19 6 25 3 9), (0x65336430, .casW 19 6 25 3), (0x67336430, .casD 19 6 25 3)] = true := by
  decide +kernel

theorem test_decode_ordering : reads
    [(0x68000000, .fence), (0x6A000030, .rel 3), (0x6A000031, .acq 3), (0x6A099832, .wbr 19 6 3),
     (0x6A099833, .invr 19 6 3), (0x6A099834, .flr 19 6 3), (0x6A099835, .icinv 19 6 3)] = true := by
  decide +kernel

theorem test_decode_tiles_streams : reads
    [(0x81330000, .tstat 19 6), (0x80098001, .tgive 19), (0x80098002, .ttake 19), (0x80098003, .tempty 19),
     (0x80098304, .twait 19 3), (0x82098030, .sld 19 3), (0x84098070, .sst 19 3), (0x86000050, .sstop 5),
     (0x88000050, .swait 5), (0x8B300310, .sstat 19 49), (0x8C099885, .spush 19 6 5), (0x8F300090, .spop 19)] = true := by
  decide +kernel

theorem test_decode_engines_fabric : reads
    [(0xA1330310, .cpy 19 6 49), (0xA3330000, .gath 19 6), (0xA5330000, .scat 19 6), (0xA7330000, .redc 19 6),
     (0xA8098000, .ewait 19), (0xAB330000, .epoll 19 6), (0xAC099800, .cfg 19 6), (0xAE000000, .start),
     (0xB0000000, .kerf), (0xB3330003, .erd 19 6 3), (0xB4098000, .round 19), (0xB7330000, .lstat 19 6)] = true := by
  decide +kernel

theorem test_decode_synchronisation : reads
    [(0xC0000000, .barT), (0xC2098000, .phase 19), (0xC4099800, .cwait 19 6), (0xC6099800, .cadd 19 6),
     (0xC8099800, .notify 19 6), (0xCA098000, .cancel 19), (0xCD3365B1, .forkw 19 6 26033),
     (0xCE000000, .choose), (0xD0098000, .wyield 19), (0xD2098000, .region 19)] = true := by
  decide +kernel

theorem test_decode_system : reads
    [(0xE00065B1, .trap 26033), (0xE2000000, .eret), (0xE5300DB1, .mfs 19 3505), (0xE6098DB1, .mts 19 3505),
     (0xE8000000, .wfe), (0xEA0065B1, .brk 26033)] = true := by
  decide +kernel
/-! ### Encodings refused, and ill-formed terms -/

/-- R65, R66 to R72: an all-zero word, opcode 0x7F, an opcode with no row, an fn with no row, a bit that must be 0. -/
theorem test_decode_rejects : rejects
    [(0x00000000, .zeroWord), (0xFE000000, .opcode7F), (0xFFFFFFFF, .opcode7F), (0x7E000000, .unassigned 0x3F),
     (0x02000009, .unlisted 0x01), (0x0400000C, .unlisted 0x02), (0x04000408, .unlisted 0x02), (0x68000001, .unlisted 0x34),
     (0xE2000001, .unlisted 0x71), (0x3A000001, .unlisted 0x1D)] = true := by
  decide +kernel

/-- Field values that the rules reserve are ill formed, the nearest that they admit well formed (R65 to R72, R97, R107,
R117, R130, R134, R139, R140, R148, R150, R168). -/
theorem test_wf_words :
    ([.bfx 1 2 0 63, .bfi 1 2 63 0, .loop 2 1 255, .loopi 2 0 0, .lbrk 2, .ldx 1 2 3 0 6, .amoW 1 2 3 0 8, .amoD 1 2 3 0 8,
      .rel 1, .acq 3, .wbr 1 2 1, .invr 1 2 3, .flr 1 2 2, .icinv 1 2 1, .sstat 1 10, .cpy 1 2 4, .forkw 1 2 2, .forkw 1 2 8,
      .mfs 1 0x10F, .mfs 1 0x060, .mts 1 0x060, .mts 1 0x031, .illegalWord 0] : List Instr).all Instr.wf = true
    ∧ ([.bfx 1 2 1 63, .bfi 1 2 63 1, .loop 3 1 255, .loopi 3 0 0, .lbrk 3, .ldx 1 2 3 0 7, .amoW 1 2 3 0 9, .amoD 1 2 3 0 9,
      .rel 0, .acq 0, .wbr 1 2 0, .invr 1 2 0, .flr 1 2 0, .icinv 1 2 0, .sstat 1 11, .cpy 1 2 5, .forkw 1 2 1, .forkw 1 2 9,
      .mfs 1 0x110, .mfs 1 0x061, .mts 1 0x050, .mts 1 0x000, .illegalWord 0x02321400] : List Instr).any Instr.wf = false := by
  decide +kernel

/-- Operands that name units which do not exist are ill formed (R7, R11, R13, R343, R346, R298, R372, R303). -/
theorem test_wf_units :
    ([.waitEnds 431, .elemAdd 431 63, .scaleToken 0 0 3, .tokenHop 0 0 16, .loadPortDeliver 0 7, .storePortAccept 431 7,
      .streamFinish 0 0, .engineTakeCommand 431, .engineCommandComplete 7 5, .reduceCombine 47 0 0, .panelCopy 47 0 0 0,
      .retransmit ⟨7, 0, 0⟩ 0, .responseTimeout ⟨7, 0, 0⟩ 0, .backgroundScrub 7 0 [], .scan 191 63, .inval 191 65535,
      .tensorTableWrite 191 0 0, .resetQueue 0 63, .resetEngine 47 7 5, .granuleGrant 47, .channelGrant 524287 31,
      .launchItem 191 63, .waitCompletes 191 63, .phaseEnd 47 0, .pageScrub 431] : List Instr).all Instr.wf = true
    ∧ ([.waitEnds 432, .elemAdd 432 0, .elemAdd 0 64, .scaleToken 0 0 4, .tokenHop 0 0 17, .loadPortDeliver 0 8,
      .storePortAccept 432 7, .streamFinish 0 8, .engineTakeCommand 432, .engineCommandComplete 8 0,
      .engineCommandComplete 0 6, .reduceCombine 48 0 0, .panelCopy 48 0 0 0, .retransmit ⟨8, 0, 0⟩ 0,
      .responseTimeout ⟨8, 0, 0⟩ 0, .backgroundScrub 8 0 [], .scan 192 0, .scan 0 64, .inval 0 65536, .inval 192 0,
      .tensorTableWrite 192 0 0, .resetQueue 0 64, .resetEngine 48 0 0, .resetEngine 0 8 0, .resetEngine 0 0 6,
      .granuleGrant 48, .channelGrant 524288 0, .channelGrant 0 32, .launchItem 192 0, .waitCompletes 0 64,
      .phaseEnd 48 0, .pageScrub 432] : List Instr).any Instr.wf = false := by
  decide +kernel

/-! ### Encoding and stepping -/

theorem witness_DecodeOfEncode : encode (.bfx 31 0 63 0) = some 0x19F00FC0 := by decide +kernel

theorem witness_EncodeOfDecode : (decode 0xFFFFFFFF).toOption = none ∧ (decode 0xEA007FFF).toOption = some (.brk 0x7FFF) := by
  decide +kernel

/-- SUB g3, g4, g5 stands where the core fetches. -/
def atSub : State := State.reset.withFetchWord 32 0x02321401

theorem witness_StepRunsDecoded : atSub.turns = .core 0 :: [] ∧ Claims.MayIssue 0 atSub
    ∧ Claims.WordAt 0x02321401 { atSub with turns := [], cur := 0 } ∧ decode 0x02321401 = .ok (.sub 3 4 5)
    ∧ (let s := core (fun c => { c with fetched := some 0x02321401, stage := 1 }) atSub
      (s.page 0).core.fetched = some 0x02321401 ∧ (s.page 0).core.run = .running ∧ (s.page 0).core.wait = none
        ∧ (s.req (pageAgent 0 0 0)).stall = none ∧ s.turns = .core 0 :: []) := by
  refine ⟨by decide +kernel, ?_, ⟨by decide +kernel, by decide +kernel, by decide +kernel, by decide +kernel, _, rfl, by decide +kernel⟩,
    rfl, by decide +kernel⟩
  unfold Claims.MayIssue
  decide +kernel

/-- An all-ones word stands there. -/
def atOnes : State := State.reset.withFetchWord 32 0xFFFFFFFF

theorem witness_StepOtherwise : (atOnes.turns = .core 0 :: [] ∧ Claims.MayIssue 0 atOnes
      ∧ Claims.WordAt 0xFFFFFFFF { atOnes with turns := [], cur := 0 } ∧ decode 0xFFFFFFFF = .error .opcode7F)
    ∧ (one.turns = [] ∧ one.core.run = .running ∧ one.core.wait = none)
    ∧ State.reset.turns = [] ∧ State.reset.core.run ≠ .running := by
  refine ⟨⟨by decide +kernel, by unfold Claims.MayIssue; decide +kernel,
    ⟨by decide +kernel, by decide +kernel, by decide +kernel, by decide +kernel, _, rfl, by decide +kernel⟩, rfl⟩,
    ⟨by decide +kernel, by decide +kernel, by decide +kernel⟩, by decide +kernel, by decide +kernel⟩

/-- A step fetches LI g5, 0x12345 and runs it: g5, its taint, and the pc (R110). -/
theorem test_step_li : got (step (State.reset.withFetchWord 32 0x1C512345)) (fun t => decide (t.core.rd 5 = 0x12345)
    && !t.core.tainted 5 && decide (t.core.pc = 4)) = true := by decide +kernel

/-- A word of opcode 0x7F traps with cause 1 and the word in TVAL (R65, R174). -/
theorem test_step_illegal : got (step (State.reset.withFetchWord 32 0xFE000001)) (fun t =>
      decide ((fget t.launches 2).bind Launch.failure = some (0x11, detailOf 0 0 0))) = true
    ∧ got (step (handled (State.reset.withFetchWord 32 0xFE000001))) (trapped 1 0xFE000001) = true := by
  decide +kernel

/-! ### Arithmetic, logic, branches and loops -/

/-- Neither single step nor a handler; and single step inside the handler (R100). -/
theorem witness_NotStepping : NotStepping one
    ∧ NotStepping (core (fun c => { c with sstep := true, inh := true }) one) :=
  ⟨.inl (by decide +kernel), .inr (by decide +kernel)⟩

theorem witness_ArithmeticResults : NotStepping one ∧ one.core.rd 4 = 0 ∧ (reg 4 1 false one).core.rd 4 ≠ 0
    ∧ NotStepping (reg 4 1 false one) :=
  ⟨.inl (by decide +kernel), by decide +kernel, by decide +kernel, .inl (by decide +kernel)⟩

/-- The field ends at bit 63, and would end at bit 64. -/
theorem witness_BitResults : NotStepping one ∧ (63#6).toNat + ((0#6).toNat + 1) ≤ 64 ∧ (0#6).toNat + ((63#6).toNat + 1) ≤ 64
    ∧ 64 < (63#6).toNat + ((1#6).toNat + 1) := ⟨.inl (by decide +kernel), by decide, by decide, by decide⟩

/-- Two registers equal, and one below the other, signed and unsigned alike; a target aligned and not; a register that is
not g0. -/
theorem witness_TransferResults :
    let s := reg 1 1 false (reg 2 2 false one)
    NotStepping s ∧ s.core.rd 1 ≠ s.core.rd 2 ∧ (s.core.rd 1).toInt < (s.core.rd 2).toInt ∧ s.core.rd 0 = s.core.rd 0
      ∧ (s.core.rd 0).toNat % 4 = 0 ∧ (s.core.rd 1).toNat % 4 ≠ 0 ∧ (31 : Reg) ≠ 0 :=
  ⟨.inl (by decide +kernel), by decide +kernel, by decide +kernel, rfl, by decide +kernel, by decide +kernel, by decide⟩

/-- Loops 0 and 1 both end at the pc, loop 1 the inner one and in its last iteration; loop 2 is inactive. -/
def twoLoops : State :=
  loop 0 ⟨true, 0, 3, 0x10, 0x20⟩ (loop 1 ⟨true, 1, 1, 0x18, 0x20⟩ (core (fun c => { c with pc := 0x20 }) one))

theorem witness_LoopStartResults : (one.core.loop 2).act = false ∧ NotStepping one ∧ one.core.rd 4 = 0
    ∧ (reg 4 1 false one).core.rd 4 ≠ 0 ∧ NoLoopEnd (reg 4 1 false one).core ∧ (twoLoops.core.loop 1).act = true := by
  refine ⟨by decide +kernel, .inl (by decide +kernel), by decide +kernel, by decide +kernel, ?_, by decide +kernel⟩
  unfold NoLoopEnd
  decide +kernel

/-- The LEVELs differ; with every count at most 1, and with loop 0 the one that goes on. -/
theorem witness_LoopEndAction :
    let ends (c : Core) (j : Fin 3) : Prop := (c.loop j).act = true ∧ (c.loop j).fin = c.pc
    let c := twoLoops.core
    let c1 := (loop 0 ⟨true, 0, 1, 0x10, 0x20⟩ twoLoops).core
    (∀ i j, ends c i → ends c j → (c.loop i).level = (c.loop j).level → i = j)
      ∧ (∀ i j, ends c1 i → ends c1 j → (c1.loop i).level = (c1.loop j).level → i = j)
      ∧ (∀ j, ends c1 j → (c1.loop j).count.toNat ≤ 1) ∧ ends c1 0
      ∧ ends c 0 ∧ 1 < (c.loop 0).count.toNat
      ∧ ∀ j, ends c j → (c.loop 0).level.toNat < (c.loop j).level.toNat → (c.loop j).count.toNat ≤ 1 := by
  dsimp only
  decide +kernel

theorem witness_LoopBreakResults : (twoLoops.core.loop 0).act = true ∧ NotStepping twoLoops
    ∧ (twoLoops.core.loop 2).act = false := ⟨by decide +kernel, .inl (by decide +kernel), by decide +kernel⟩

/-- R105: the sum wraps; the most negative number divided by −1 is itself, with remainder 0; a divisor of 0 gives all
ones and sets DZ; MULH of −1 and 2 is −1, MULHU 1. -/
theorem test_arithmetic :
    let s := reg 1 0xFFFFFFFFFFFFFFFF false (reg 2 0x8000000000000000 false (reg 3 2 true one))
    got (exec (.add 4 1 3) s) (fun t => decide (t.core.rd 4 = 1) && t.core.tainted 4) = true
      ∧ got (exec (.div 4 2 1) s) (fun t => decide (t.core.rd 4 = 0x8000000000000000) && !t.core.dz) = true
      ∧ got (exec (.rem 4 2 1) s) (fun t => decide (t.core.rd 4 = 0)) = true
      ∧ got (exec (.divu 4 2 0) s) (fun t => decide (t.core.rd 4 = 0xFFFFFFFFFFFFFFFF) && t.core.dz) = true
      ∧ got (exec (.mulh 4 1 3) s) (fun t => decide (t.core.rd 4 = 0xFFFFFFFFFFFFFFFF)) = true
      ∧ got (exec (.mulhu 4 1 3) s) (fun t => decide (t.core.rd 4 = 1)) = true
      ∧ got (exec (.add 0 1 3) s) (fun t => decide (t.core.rd 0 = 0) && !t.core.tainted 0) = true := by
  decide +kernel

/-- R106, R107, R108, R110: a shift takes the low six bits; SRA keeps the sign; BFI leaves the bits beside its field; SEL
takes gB where gC is 0; LIH shifts LI's value up. -/
theorem test_logic :
    let s := reg 1 0x8000000000000001 false (reg 2 65 false (reg 3 0xFFFF false one))
    got (exec (.shl 4 1 2) s) (fun t => decide (t.core.rd 4 = 2)) = true
      ∧ got (exec (.sra 4 1 2) s) (fun t => decide (t.core.rd 4 = 0xC000000000000000)) = true
      ∧ got (exec (.ror 4 1 2) s) (fun t => decide (t.core.rd 4 = 0xC000000000000000)) = true
      ∧ got (exec (.bfi 3 2 3 4) s) (fun t => decide (t.core.rd 3 = 0xFF1F)) = true
      ∧ got (exec (.bfx 4 3 7 12) s) (fun t => decide (t.core.rd 4 = 0xF)) = true
      ∧ got (exec (.sel 4 1 2 0) s) (fun t => decide (t.core.rd 4 = 65)) = true
      ∧ got (exec (.slt 4 1 2) s) (fun t => decide (t.core.rd 4 = 1)) = true
      ∧ got (exec (.sltu 4 1 2) s) (fun t => decide (t.core.rd 4 = 0)) = true
      ∧ got (exec (.lih 2 0x6789A) s) (fun t => decide (t.core.rd 2 = 0x416789A)) = true := by
  decide +kernel

/-- R111 to R118, R122: a branch back by two words; JALR links and reads its target first; a LOOP of count 0 skips its
body; the loop-end action leaves the inner loop and goes round the outer; LBRK of the outer leaves both. -/
theorem test_transfers :
    got (exec (.bltu 0 1 0x7FFE) (core (fun c => { c with pc := 0x20 }) (reg 1 1 false one))) (fun t =>
        decide (t.core.pc = 0x18)) = true
      ∧ got (exec (.jalr 1 1) (reg 1 0x40 true one)) (fun t => decide (t.core.pc = 0x40) && decide (t.core.rd 1 = 4)
        && !t.core.tainted 1) = true
      ∧ got (exec (.jr 1) (handled (reg 1 0x42 false one))) (trapped 2 0x42) = true
      ∧ got (exec (.loop 2 0 3) one) (fun t => decide (t.core.pc = 0x14) && !(t.core.loop 2).act) = true
      ∧ got (exec (.add 0 0 0) twoLoops) (fun t => decide (t.core.pc = 0x10) && !(t.core.loop 1).act
        && decide ((t.core.loop 0).count = 2)) = true
      ∧ got (exec (.lbrk 0) twoLoops) (fun t => decide (t.core.pc = 0x24) && !(t.core.loop 0).act && !(t.core.loop 1).act) = true := by
  decide +kernel

/-! ### System registers, traps and waits -/

/-- Page 0's truss and launch stand, and a register number is listed, and one past each end of a range is not. -/
theorem witness_SystemRegisterResults : (∃ t, one.trussOf one.cur = some t ∧ ∃ l, fget one.launches t.launch = some l
      ∧ (0x008, BitVec.ofNat 64 t.part) ∈ Claims.SystemRegisters one t l) ∧ NotStepping one
    ∧ (one.core.sstep = false ∨ one.core.inh = true)
    ∧ (0x060, one.core) ∈ Claims.SystemWrites one.core false 3 := by
  refine ⟨⟨_, rfl, _, rfl, by decide +kernel⟩, .inl (by decide +kernel), .inl (by decide +kernel), by decide +kernel⟩

theorem witness_SystemRegisterTraps : ¬ Claims.Listed 0x009 ∧ ¬ Claims.Listed 0x05A ∧ ¬ Claims.Listed 0x110
    ∧ ¬ Claims.Writable 0x059 ∧ ¬ Claims.Writable 0x045 ∧ ¬ Claims.Writable 0x030 := by
  unfold Claims.Listed Claims.Writable
  decide

theorem witness_TrapEntry : (handled one).core.tvec ≠ 0 ∧ (handled one).core.inh = false ∧ one.core.tvec = 0
    ∧ (core (fun c => { c with inh := true }) (handled one)).core.inh = true
    ∧ ∃ x l, fget one.trusses (one.page one.cur).truss = some x ∧ x.fork = none ∧ fget one.launches x.launch = some l
      ∧ l.failure = none :=
  ⟨by decide +kernel, by decide +kernel, by decide +kernel, by decide +kernel, _, _, rfl, rfl, rfl, rfl⟩

theorem witness_SoftwareTraps : (handled one).core.tvec ≠ 0 ∧ (handled one).core.inh = false ∧ NoLoopEnd (handled one).core := by
  unfold NoLoopEnd
  decide +kernel

theorem witness_TrapReturn : (core (fun c => { c with inh := true }) one).core.inh = true ∧ one.core.inh = false := by
  decide +kernel

theorem witness_SingleStep :
    let s := core (fun c => { c with sstep := true }) one
    s.core.sstep = true ∧ s.core.inh = false ∧ (∀ k, (s.core.loop k).act = false)
      ∧ (core (fun c => { c with inh := true }) s).core.sstep = true
      ∧ (core (fun c => { c with inh := true }) s).core.inh = true := by
  dsimp only
  decide +kernel

/-- The core waits in WFE since cc 0: with an event, at 65 536 cc without one, and one cc before. -/
def inWfe : State := core (fun c => { c with wait := some (.wfe 0) }) one

theorem witness_EventWaits : NotStepping one ∧ (core (fun c => { c with event := true }) one).core.event = true
    ∧ one.core.event = false ∧ one.core.stage ≠ 1 ∧ (inWfe.page 0).core.wait = some (.wfe 0)
    ∧ (inWfe.page 0).core.run = .running ∧ 0 + 65536 ≤ { inWfe with now := 65536 }.now
    ∧ { inWfe with now := 65535 }.now < 0 + 65536 := by
  refine ⟨.inl (by decide +kernel), ?_⟩
  decide +kernel

/-- A core waits for crx, and a token comes. -/
theorem witness_WaitResults :
    let s := core (fun c => { c with wait := some .crxToken }) one
    let s1 := page 0 (fun p => { p with crx := [Claims.StartToken] }) s
    (s.page 0).core.run = .running ∧ (s.page 0).core.wait = some .crxToken ∧ ¬ 0 < (s.page 0).crxHeld
      ∧ (s1.page 0).core.wait = some .crxToken ∧ 0 < (s1.page 0).crxHeld := by
  dsimp only
  decide +kernel

/-- R98 to R101, R175 to R179: WORLD reads 0; MTS of an RO register traps; TVEC drops its low two bits; TRAP's TPC is
the next word; a trap without a handler fails the launch with 0x1C; ERET returns. -/
theorem test_system :
    got (exec (.mfs 1 0x020) (reg 1 7 true one)) (fun t => decide (t.core.rd 1 = 0) && !t.core.tainted 1) = true
      ∧ got (exec (.mts 1 0x050) (handled one)) (trapped 1 0xE6008050) = true
      ∧ got (exec (.mts 1 0x040) (reg 1 0x107 false one)) (fun t => decide (t.core.tvec = 0x104)) = true
      ∧ got (exec (.trap 7) (handled one)) (fun t => trapped 12 7 t && decide (t.core.tpc = 4)
        && decide (t.core.pc = 0x100)) = true
      ∧ got (exec (.trap 7) one) (fun t => decide (t.core.run = .stopped)
        && decide ((fget t.launches 2).bind Launch.failure = some (0x1C, detailOf 0 0 0))) = true
      ∧ got (exec .eret (core (fun c => { c with inh := true, tpc := 0x30 }) one)) (fun t => decide (t.core.pc = 0x30)
        && !t.core.inh) = true
      ∧ got (exec (.waitEnds 0) { inWfe with now := 65535 }) (fun t => decide (t.core.wait = some (.wfe 0))) = true := by
  decide +kernel

/-! ### Loads, stores, plate, atomics, ordering, tiles -/

/-- HBM4 bytes written. -/
def poke (a : Nat) (l : List Byte) (s : State) : State :=
  { s with mem := { s.mem with cells := writeBytes s.mem.cells a l } }

/-- Partition 0 owns granule 0 of stack 0, guest granule 0; its tensor 0 has ROOT 0x4000, and its panel 0 lies at guest
0x10000; a table of 16 slots stands at 0. -/
def mapped : State :=
  let own : FMap Nat := [(0, 0)]
  let s := part (fun p => { p with live := true, granules := [(0, 0)], twslots := 16 }) one
  poke 0xC000 (toBytes 8 0x10001) (poke 0x8000 (toBytes 8 0xC001) (poke 0x4000 (toBytes 8 0x8001) (poke 24 (toBytes 8 0x4000)
    { s with owners := (List.range 32).map fun c => (c, own) })))

/-- The panel table that `mapped` writes leads tensor-0 address 0x40 to HBM4 0x10040. -/
theorem test_walk : mapped.t0 0 0x40 = some (.hbm 0x10040)
    ∧ (mapped.xlate 0 0 0 0 0).1 = .leaf 0x10001 ∧ (mapped.xlate 0 0 0 0 1).1 = .fault := by decide +kernel

/-- Line `n` of the current core's L1D, of view 0. -/
def line (n : Nat) (data : Data) (valid dirty : BitVec 64) (desc : Desc) (s : State) : State :=
  core (fun c => { c with l1d := c.l1d ++ [⟨n, 0, data, valid, dirty, desc, false⟩] }) s

/-- A line whose last 8 bytes are valid, at 0x38. -/
def lined : State := line 0 (0xF123456789ABCDEF#512 <<< 448) (0xFF#64 <<< 56) 0 descUint8 (reg 1 0x38 false one)

theorem witness_LoadsComplete :
    (Instr.ldD 2 1 0, 0x38#64, 8, false, false) ∈ Claims.Loads lined.core 2 1 3 0 0 ∧ Claims.MayAccess lined 0x38 8
      ∧ (∃ l, lined.core.line (0x38 / 64) lined.curView = some l ∧ Claims.Covers l.valid (0x38 % 64) 8
        ∧ descPoisoned l.desc = false ∧ descIsVoid l.desc = false)
      ∧ (∃ l, (line 0 0 (0xFF#64 <<< 56) 0 descPoison (reg 1 0x38 false one)).core.line 0 0 = some l
        ∧ descPoisoned l.desc = true)
      ∧ (∃ l, (line 0 0 (0xFF#64 <<< 56) (0x0F#64 <<< 56) descVoid (reg 1 0x38 false one)).core.line 0 0 = some l
        ∧ descIsVoid l.desc = true ∧ ¬ Claims.Covers l.dirty 56 8) := by
  refine ⟨by decide +kernel, ⟨.inl (by decide +kernel), by decide +kernel, by decide, by decide⟩,
    ⟨_, rfl, ?_, by decide +kernel, by decide +kernel⟩, ⟨_, rfl, by decide +kernel⟩, ⟨_, rfl, by decide +kernel, ?_⟩⟩
  · unfold Claims.Covers
    decide +kernel
  · unfold Claims.Covers
    decide +kernel

/-- A block that has come from its home, of a core that reads by a tainted address. -/
def answered (desc : Desc) : State := core (fun c => { c with resp := [(0, ⟨.hbm 0x10000, 0x77, desc, fullMask, 1⟩)] }) (reg 1 0 true one)

theorem witness_LoadsFromHome :
    (Instr.ldW 2 1 4, 4#64, 4, false, true) ∈ Claims.Loads (answered descUint8).core 2 1 3 4 0
      ∧ Claims.MayAccess (answered descUint8) 4 4
      ∧ (answered descUint8).core.resp = (0, ⟨.hbm 0x10000, 0x77, descUint8, fullMask, 1⟩) :: []
      ∧ (answered descUint8).core.line 0 0 = none ∧ descPoisoned descPoison = true ∧ descPoisoned descUint8 = false := by
  refine ⟨by decide +kernel, ⟨.inl (by decide +kernel), by decide +kernel, by decide, by decide⟩, ?_⟩
  decide +kernel

/-- R129 to R131: an unsigned and a signed load of the line's last byte; a VOID block's clean bytes read as zero, with
DISC; the home's bytes; a misaligned address; an address of 2^48. -/
theorem test_loads :
    got (exec (.ldB 2 1 7) lined) (fun t => decide (t.core.rd 2 = 0xF1)) = true
      ∧ got (exec (.ldBs 2 1 7) lined) (fun t => decide (t.core.rd 2 = 0xFFFFFFFFFFFFFFF1)) = true
      ∧ got (exec (.ldx 2 1 3 0 3) (reg 3 0 false lined)) (fun t => decide (t.core.rd 2 = 0xF123456789ABCDEF)) = true
      ∧ got (exec (.ldB 2 1 0) (line 0 0xFF (0xFF#64 <<< 56) 0 descVoid (reg 1 0x38 false one)))
        (fun t => decide (t.core.rd 2 = 0) && t.core.disc) = true
      ∧ got (exec (.ldB 2 1 0) (answered descUint8)) (fun t => decide (t.core.rd 2 = 0x77) && t.core.tainted 2) = true
      ∧ got (exec (.ldH 2 1 1) (handled lined)) (trapped 2 0x39) = true
      ∧ got (exec (.ldB 2 1 0) (handled (reg 1 0x1000000000000 false one))) (trapped 5 0x1000000000000) = true := by
  decide +kernel

theorem witness_AccessTraps :
    (Instr.stD 2 1 0, 4#64, 8) ∈ Claims.Stores (reg 1 4 false one).core 2 1 3 0 0 ∧ (4#64).toNat % 8 ≠ 0
      ∧ (Instr.stB 2 1 0, 0x1000000000000#64, 1) ∈ Claims.Stores (reg 1 0x1000000000000 false one).core 2 1 3 0 0
      ∧ 2 ^ 48 ≤ (0x1000000000000#64).toNat := by decide +kernel

/-- The mapped machine with a core that stores at 0x38, its panel's leaf in the translation cache of bay 0. -/
def cached (leaf : Word) : State :=
  let s := reg 2 0x1122334455667788 false (reg 1 0x38 false mapped)
  s.setBay 0 { s.bay 0 with tlb := [⟨0, 0, 0, 0, leaf⟩] }

theorem witness_StoreResults :
    (Instr.stD 2 1 0, 0x38#64, 8) ∈ Claims.Stores (cached 0x10001).core 2 1 3 0 0 ∧ Claims.MayAccess (cached 0x10001) 0x38 8
      ∧ (cached 0x10001).core.failed = false ∧ (cached 0x10001).core.hasRoom 0 (cached 0x10001).curView = true
      ∧ ((cached 0x10001).xlate (bayOf 0) 0 0 0 0).1 = .leaf 0x10001 ∧ leafTgt 0x10001 ≠ 2 ∧ leafRo 0x10001 = false
      ∧ (cached 0x10001).curDepth = 0 ∧ (cached 0x10001).ownPanel 0 0 0 0 (leafSh 0x10001) = true
      ∧ ((cached 0x10005).xlate (bayOf 0) 0 0 0 0).1 = .leaf 0x10005 ∧ leafTgt 0x10005 = 2
      ∧ ((cached 0x10009).xlate (bayOf 0) 0 0 0 0).1 = .leaf 0x10009 ∧ leafTgt 0x10009 ≠ 2 ∧ leafRo 0x10009 = true
      ∧ ((cached 0x10021).xlate (bayOf 0) 0 0 0 0).1 = .leaf 0x10021 ∧ leafRo 0x10021 = false ∧ leafNf 0x10021 = true
      ∧ 0 < (truss (fun x => { x with depth := 1 }) (cached 0x10021)).curDepth := by
  refine ⟨by decide +kernel, ⟨.inl (by decide +kernel), by decide +kernel, by decide, by decide⟩, ?_⟩
  decide +kernel

/-- R129, R133: a store's bytes in its line and none in memory; a store to a panel of another module; to a READONLY one. -/
theorem test_stores :
    got (exec (.stD 2 1 0) (cached 0x10001)) (fun t => (t.core.line 0 0).any fun l =>
        decide (dataBytes l.data 0x38 8 = 0x1122334455667788) && decide (l.dirty = 0xFF#64 <<< 56)
          && decide (t.mem = mapped.mem)) = true
      ∧ got (exec (.stD 2 1 0) (handled (cached 0x10005))) (trapped 5 0x38) = true
      ∧ got (exec (.stD 2 1 0) (handled (cached 0x10009))) (trapped 4 0x38) = true := by decide +kernel

/-- Tile 46 of site 63 is CORE, and its block 63 holds a byte; tile 0 of site 0 is FULL. -/
def plated : State :=
  page 0 (fun p => { p with tiles := [(0, ⟨1, []⟩), (63 * 64 + 46, ⟨3, [(63, ((0x99#512 <<< 448), descUint8))]⟩)] })
    (reg 1 0xFEEFF8 false one)

/-- The last 8 bytes of the last block of tile 46; its descriptor; a tile that is not CORE; an address past 2^25. -/
theorem witness_PlateAccess : Claims.PlateOk plated 0xFEEFF8 ∧ NotStepping plated ∧ (0xFEEFF8#64).getLsbD 24 = false
    ∧ descPoisoned (Claims.PlateBlock plated 0xFEEFF8).2 = false ∧ descIsVoid (Claims.PlateBlock plated 0xFEEFF8).2 = false
    ∧ Claims.PlateOk plated 0x1FEEFC0 ∧ (0x1FEEFC0#64).getLsbD 24 = true
    ∧ Claims.PlateOk plated 0xFEEF80 ∧ descIsVoid (Claims.PlateBlock plated 0xFEEF80).2 = true
    ∧ ¬ Claims.PlateOk plated 0 ∧ (0#64).toNat < 2 ^ 25 ∧ 2 ^ 25 ≤ (0x2000000#64).toNat := by
  refine ⟨?_, .inl (by decide +kernel), ?_⟩
  · unfold Claims.PlateOk
    decide +kernel
  · unfold Claims.PlateOk
    decide +kernel

/-- R133: PRD.D of a block's last bytes; of a tile that the core does not hold; PWR.D to a VOID block makes it UINT8. -/
theorem test_plate :
    got (exec (.prdD 2 1 0) plated) (fun t => decide (t.core.rd 2 = 0x99)) = true
      ∧ got (exec (.prdD 2 0 0) (handled plated)) (trapped 3 0) = true
      ∧ got (exec (.pwrD 1 1 0x7F80) plated) (fun t => decide (((t.page 0).tile 63 46).block 61
        = (0xFEEFF8#512 <<< 448, descUint8))) = true := by decide +kernel

/-- An atomic of g1, g2 into g3 whose old value has come back, with a note. -/
def amoBack (note : Word) : State :=
  core (fun c => { c with stage := 1, scratch := [0x80000000, note] }) (reg 1 0x40 false (reg 2 5 false one))

theorem witness_AtomicResults :
    (Instr.amoW 3 1 2 0 0, 0, 4, [(amoBack 0).core.rd 2], false) ∈ Claims.Atomics (amoBack 0).core 3 1 2 0 0
      ∧ (Instr.casD 3 1 2 1, 9, 8, [(amoBack 0).core.rd 2, (amoBack 0).core.rd 3], false) ∈ Claims.Atomics (amoBack 0).core 3 1 2 1 0
      ∧ (amoBack 1).core.stage = 1 ∧ (amoBack 1).core.failed = false ∧ (amoBack 1).core.scratch = [0x80000000, 1]
      ∧ (amoBack 2).core.scratch = [0x80000000, 2] ∧ NotStepping (amoBack 1) := by
  repeat' apply And.intro
  all_goals first | decide +kernel | exact .inl (by decide +kernel)

theorem witness_AtomicsComplete :
    let s := reg 1 0x38 false (cached 0x10001)
    (Instr.amoD 3 1 2 0 8, 8, 8, [s.core.rd 2], false) ∈ Claims.Atomics s.core 3 1 2 0 8 ∧ s.core.stage = 0
      ∧ s.core.failed = false ∧ (s.core.rd 1).toNat % 8 = 0 ∧ (s.core.rd 1).toNat < 2 ^ 48
      ∧ (s.xlate (bayOf 0) 0 0 0 0).1 = .leaf 0x10001 ∧ leafTgt 0x10001 ≠ 2 ∧ leafRo 0x10001 = false ∧ s.curDepth = 0
      ∧ s.curView = 0 ∧ s.hazOn 0 = false ∧ s.core.line 0 0 = none ∧ (s.req s.me).kept.length + (s.req s.me).unsent.length < 32
      ∧ (s.req s.me).stall = none ∧ s.placeOf 0 0x10001 0x38 = .ok (.hbm 0x10038)
      ∧ ((cached 0x10009).xlate (bayOf 0) 0 0 0 0).1 = .leaf 0x10009 ∧ leafRo 0x10009 = true
      ∧ ((reg 1 0x3C false s).core.rd 1).toNat % 8 ≠ 0 ∧ 2 ^ 48 ≤ ((reg 1 0x1000000000000 false s).core.rd 1).toNat := by
  dsimp only
  repeat' apply And.intro
  all_goals first | decide +kernel | rfl

/-- R134, R135: the .W old value is sign-extended; a VOID block sets DISC; POISON traps; MIN is signed and MINU not; ADD
wraps at 32 bits. -/
theorem test_atomics :
    got (exec (.amoW 3 1 2 0 0) (amoBack 1)) (fun t => decide (t.core.rd 3 = 0xFFFFFFFF80000000) && t.core.disc) = true
      ∧ got (exec (.amoW 3 1 2 0 0) (handled (amoBack 2))) (trapped 9 0x40) = true
      ∧ atomicOp 4 32 0xFFFFFFFF 1 = 0xFFFFFFFF ∧ atomicOp 6 32 0xFFFFFFFF 1 = 1 ∧ atomicOp 0 32 0xFFFFFFFF 2 = 1 := by
  decide +kernel

theorem witness_AtomicOperations : 9 ≤ (9#4).toNat ∧ (32 = 32 ∨ 32 = 64) := by decide

/-- A write of the core not yet acknowledged. -/
def unacked : State :=
  one.setReq one.me { Requester.reset with kept := [⟨0, 0, Packet.blank .write 0 one.me (homeAgent 0) 0, 0, none, none⟩] }

theorem witness_ScopeResults : NotStepping one ∧ (1#2) ≠ 0 ∧ (∀ l ∈ one.core.l1d, l.dirty = 0)
    ∧ one.completeAtScope one.me 1 = true ∧ unacked.completeAtScope unacked.me 3 = false := by
  refine ⟨.inl (by decide +kernel), ?_⟩
  decide +kernel

theorem witness_ReleaseLeavesNothing : one.core.tvec = 0
    ∧ got (exec (.rel 2) one) (fun t => decide (t.core.run = .running) && t.core.wait.isNone) = true := by decide +kernel

/-- A range that ends at 2^48, one that ends past it, and one of no bytes; a line inside and one just outside. -/
theorem witness_OrderingResults :
    let s := reg 1 0xFFFFFFFFFFC0 false (reg 2 0x40 false one)
    (s.core.rd 1).toNat + (s.core.rd 2).toNat ≤ 2 ^ 48 ∧ NotStepping s ∧ (∀ l ∈ s.core.l1d, l.dirty = 0)
      ∧ s.completeAtScope s.me 2 = true ∧ (s.core.rd 0).toNat = 0
      ∧ 2 ^ 48 < ((reg 2 0x41 false s).core.rd 1).toNat + ((reg 2 0x41 false s).core.rd 2).toNat
      ∧ Claims.Overlaps 0x3F 2 1 ∧ ¬ Claims.Overlaps 0x3F 1 1 := by
  refine ⟨by decide +kernel, .inl (by decide +kernel), by decide +kernel, by decide +kernel, by decide +kernel,
    by decide +kernel, ?_⟩
  unfold Claims.Overlaps
  decide

/-- R138 to R140: ACQ drops the clean bytes and keeps the dirty ones; REL waits for a write not acknowledged; INVR of no
bytes keeps all. -/
theorem test_ordering :
    let s := line 0 0 0xFF 0 descUint8 (line 1 0 0xFF 0x0F descUint8 one)
    got (exec (.acq 1) s) (fun t => decide (t.core.l1d.map (fun l => (l.line, l.valid)) = [(1, 0x0F)])) = true
      ∧ got (exec (.rel 3) unacked) (fun t => decide (t.core.wait = some (.writes 3))) = true
      ∧ got (exec (.invr 0 0 1) s) (fun t => decide (t.core.l1d = s.core.l1d)) = true := by decide +kernel

theorem witness_TileResults :
    let s := reg 1 0xFEE false plated
    Claims.Selects (s.core.rd 1) 63 46 ∧ NotStepping s ∧ ((s.page 0).tile 63 46).state ∈ [3#2]
      ∧ ((s.page 0).tile 63 46).state ∉ ([0, 1] : List (BitVec 2)) ∧ s.core.stage ≠ 1
      ∧ 4096 ≤ ((reg 1 4096 false s).core.rd 1).toNat ∧ ((reg 1 0xFEF false s).core.rd 1).toNat < 4096
      ∧ 47 ≤ ((reg 1 0xFEF false s).core.rd 1).toNat % 64 ∧ Claims.NoTableDue s 63 46 := by
  unfold Claims.Selects Claims.NoTableDue
  refine ⟨by decide +kernel, .inl (by decide +kernel), ?_⟩
  decide +kernel

/-- R142: TGIVE makes the tile FULL; TTAKE of a CORE tile and tile 47 trap with PLATE_OWNER. -/
theorem test_tiles :
    let s := handled (reg 1 0xFEE false plated)
    got (exec (.tgive 1) s) (fun t => decide (((t.page 0).tile 63 46).state = 1)) = true
      ∧ got (exec (.ttake 1) s) (trapped 3 0xFEE) = true
      ∧ got (exec (.tstat 2 1) s) (fun t => decide (t.core.rd 2 = 3)) = true
      ∧ got (exec (.tgive 1) (reg 1 0xFEF false s)) (trapped 3 0xFEF) = true := by decide +kernel

/-! ### Streams, tokens, engines, the fabric as a core reaches it -/

/-- What a shared operation answers, as a test. -/
def goIs {α : Type} [DecidableEq α] (r : Go α) (a : α) (s : State) : Bool :=
  match r with
  | .ok v t => decide (v = a) && decide (t = s)
  | .stop _ => false

theorem goIs_ok {α : Type} [DecidableEq α] {r : Go α} {a : α} {s : State} (h : goIs r a s = true) : r = .ok a s := by
  cases r with
  | ok v t =>
    simp only [goIs, Bool.and_eq_true, decide_eq_true_eq] at h
    rw [h.1, h.2]
  | stop _ => cases h

/-- A line 0 whose 64 bytes are all there, of the core of `mapped`. -/
def block (data : Data) (s : State) : State := line 0 data (BitVec.allOnes 64) 0 descUint8 s

/-- A stream descriptor (R143): tensor 0, one dimension of four points, of any format, complete at .B. -/
def sDesc (ndim handle : Nat) : Data := BitVec.ofNat 512 (handle + ndim * 2 ^ 32 + 0x02FF0000 * 2 ^ 32 + 4 * 2 ^ 64)

/-- Its bytes. -/
def sBytes (ndim handle : Nat) : List Byte := toBytes 64 (sDesc ndim handle).toNat

/-- A stream of it at a port. -/
def sStream : Stream := ⟨sBytes 1 0, 0, 0, 0, 0, [], false⟩

theorem witness_StreamIssue :
    let s := block (sDesc 1 0) mapped
    let full := port 0 0 (fun p => { p with act := some sStream, pend := some sStream }) s
    (s.core.rd 0).toNat % 64 = 0 ∧ (s.core.rd 0).toNat < 2 ^ 48 ∧ coreBlock (s.core.rd 0) s = .ok (sBytes 1 0) s
      ∧ streamCheck (sBytes 1 0) (s.core.rd 0) 0 s = none ∧ ((s.page s.cur).port 0).act = none ∧ NotStepping s
      ∧ coreBlock 0 full = .ok (sBytes 1 0) full ∧ streamCheck (sBytes 1 0) 0 0 full = none
      ∧ ((full.page 0).port 0).act.isSome = true ∧ ((full.page 0).port 0).pend.isSome = true
      ∧ dNdim (sBytes 5 0) = 5 ∧ dNdim (sBytes 0 0) = 0
      ∧ streamIllegal (sBytes 1 1) = false ∧ dFmt (sBytes 1 1) = 0xFF#8
      ∧ s.handleOk s.curPart (dHandle (sBytes 1 1) % 2 ^ 16) (hGen (dHandle (sBytes 1 1))) = false
      ∧ coreBlock 0 (block (sDesc 5 0) mapped) = .ok (sBytes 5 0) (block (sDesc 5 0) mapped)
      ∧ coreBlock 0 (block (sDesc 1 1) mapped) = .ok (sBytes 1 1) (block (sDesc 1 1) mapped)
      ∧ ((reg 1 1 false s).core.rd 1).toNat % 64 ≠ 0 ∧ 2 ^ 48 ≤ ((reg 1 0x1000000000000 false s).core.rd 1).toNat := by
  dsimp only
  repeat' apply And.intro
  all_goals first
    | decide +kernel
    | exact goIs_ok (by decide +kernel)
    | exact Option.isNone_iff_eq_none.mp (by decide +kernel)
    | exact .inl (by decide +kernel)

/-- A port of the core's page holds no stream; another holds one; its descriptor's tensor is not dead. -/
theorem witness_StreamResults :
    let s := port 0 7 (fun p => { p with act := some sStream }) one
    ((s.page 0).port 0).act = none ∧ ((s.page 0).port 0).pend = none ∧ NotStepping s ∧ s.core.stage ≠ 1
      ∧ ¬ (((s.page 0).port 7).act = none ∧ ((s.page 0).port 7).pend = none) ∧ s.hazOn s.cur = false
      ∧ ((s.page 0).port 7).act.isSome = true ∧ ((s.part s.curPart).slot sStream.slot).state ≠ 2
      ∧ 11 ≤ (11#6).toNat ∧ (7#6).toNat < 8 := by
  refine ⟨by decide +kernel, by decide +kernel, .inl (by decide +kernel), ?_⟩
  decide +kernel

/-- R145, R148: SLD issues its stream; NDIM 5 traps with ILLEGAL and the descriptor's address, a dead handle with HANDLE;
SSTOP sets STOPPED and, where the stream asks for one, owes its completion token; SWAIT waits; SSTAT of a store port with
a stream reads active. -/
theorem test_streams :
    let s := handled (block (sDesc 1 0) mapped)
    let t := port 0 7 (fun p => { p with act := some sStream, count := 3 }) s
    got (exec (.sld 0 2) s) (fun t => ((t.page 0).port 2).act.any fun x => decide (x.bytes = sBytes 1 0)) = true
      ∧ got (exec (.sst 0 0) (handled (block (sDesc 5 0) mapped))) (trapped 1 0) = true
      ∧ got (exec (.sst 0 0) (handled (block (sDesc 1 1) mapped))) (trapped 4 1) = true
      ∧ got (exec (.sstop 7) t) (fun t => ((t.page 0).port 7).act.isNone && ((t.page 0).port 7).sticky.getLsbD 1
        && ((t.page 0).port 7).discard && ((t.page 0).port 7).owed.isEmpty) = true
      ∧ got (exec (.sstop 7) (port 0 7 (fun p => { p with act := some { sStream with bytes := (sBytes 1 0).set 7 10 } }) s)) (fun t =>
        decide (((t.page 0).port 7).owed.map (fun z => z.2.out) = [true]) && t.core.event) = true
      ∧ got (exec (.swait 7) t) (fun t => decide (t.core.wait = some (.port 7))) = true
      ∧ got (exec (.sstat 2 7) t) (fun t => decide (t.core.rd 2 = 0x300000001)) = true := by decide +kernel

/-- A DATA token of one lane, at end-marker rank 2; the same with its parity wrong. -/
def tok : Token := dataToken 0xABCD 1 2

theorem witness_CoreTokens :
    let s := page 0 (fun p => { p with crx := [tok] }) one
    let f := page 0 (fun p => { p with ctx := [tok, tok, tok, tok] }) one
    (s.page s.cur).ctx.length < 4 ∧ NotStepping s ∧ 4 ≤ (f.page f.cur).ctx.length ∧ (f.page f.cur).crx = []
      ∧ (s.page s.cur).crx = tok :: [] ∧ tok.kind = 0 ∧ tok.out = false ∧ (s.page s.cur).crxBurst.poison = false
      ∧ tok.par = parity tok.data ∧ { tok with par := 0xFF }.par ≠ parity { tok with par := 0xFF }.data := by
  refine ⟨by decide +kernel, .inl (by decide +kernel), ?_⟩
  decide +kernel

/-- R149: SPUSH packs two registers; SPOP reads lane 0, its invalid lane 1 as zero; a lost token traps with POISON; a SCALE
token is no token to pop. -/
theorem test_core_tokens :
    got (exec (.spush 1 2 5) (reg 1 0x1111222233334444 false (reg 2 9 false one))) (fun t =>
        decide ((t.page 0).ctx.map (fun k => (k.data, k.rank, k.valid)) = [(0x91111222233334444, 5, 0xF)])) = true
      ∧ got (exec (.spop 3) (page 0 (fun p => { p with crx := [tok] }) one)) (fun t => decide (t.core.rd 3 = 0xABCD)
        && decide ((t.page 0).lvalid = 1) && decide ((t.page 0).lrank = 2)) = true
      ∧ got (exec (.spop 3) (handled (page 0 (fun p => { p with crx := [{ tok with par := 0xFF }] }) one))) (trapped 9 0) = true
      ∧ got (exec (.spop 3) (page 0 (fun p => { p with crx := [scaleToken 0x06 0x80 3] }) one)) (fun t =>
        decide (t.core.wait = some .crxToken)) = true := by decide +kernel

/-- A CPY descriptor (R151): one element of tensor 0 to tensor 0, complete at .B. -/
def cDesc : Data := BitVec.ofNat 512 (0x40 * 2 ^ 64 + 1 * 2 ^ 96 + 0x40 * 2 ^ 464)

theorem witness_EngineCommands :
    let s := block cDesc mapped
    let b := toBytes 64 cDesc.toNat
    let busy := core (fun c => { c with tickets := (List.range 16).map fun k => (k, 0) }) s
    5 ≤ (5#6).toNat ∧ (4#6).toNat ≤ 4 ∧ (s.core.rd 0).toNat % 64 = 0 ∧ coreBlock (s.core.rd 0) s = .ok b s
      ∧ (∃ x, s.trussOf s.cur = some x ∧ x.depth = 0 ∧ s.engCheck 0 b x (bayOf s.cur) = none)
      ∧ s.core.tickets.countP (fun t => t.2 = 0) < 16 ∧ (s.chooseEngine (bayOf s.cur) 0 4).isSome = true ∧ NotStepping s
      ∧ 16 ≤ busy.core.tickets.countP (fun t => t.2 = 0) := by
  dsimp only
  refine ⟨by decide, by decide, by decide +kernel, goIs_ok (by decide +kernel), ⟨_, rfl, by decide +kernel, by decide +kernel⟩,
    by decide +kernel, by decide +kernel, .inl (by decide +kernel), by decide +kernel⟩

/-- Tickets 3 pending, 4 complete with MIX; 5 not kept; and ticket 3 run by an engine that is stalled. -/
def ticketed : State := core (fun c => { c with tickets := [(3, 0), (4, 5)] }) one

theorem witness_TicketResults :
    let c : EngCmd := { EngCmd.start 0 [] ⟨2, 0, 1, 1, 0, 0, 0, .running, 1, 0, 0, 0, none, 0, none, false, 0, true, [], false, [], [], 0⟩ 1 0 (some 3) with pos := 0 }
    let st := ({ ticketed with engines := [(0, ⟨[c], false⟩)] }).setReq (engAgent 0) { Requester.reset with stall := some (.fault 1) }
    fget ticketed.core.tickets 5 = none ∧ fget ticketed.core.tickets 4 = some 5 ∧ fget ticketed.core.tickets 3 = some 0
      ∧ NotStepping ticketed ∧ ticketed.core.stage ≠ 1 ∧ ticketed.runsTicket 0 3 = none
      ∧ ∃ g, st.runsTicket st.cur 3 = some g ∧ (st.req (engAgent g)).stall.isSome = true := by
  dsimp only
  refine ⟨by decide +kernel, by decide +kernel, by decide +kernel, .inl (by decide +kernel), by decide +kernel,
    by decide +kernel, ⟨0, by decide +kernel, by decide +kernel⟩⟩

/-- R155: EPOLL of a completed, a pending and a forgotten ticket; EWAIT waits; CPY writes its ticket. -/
theorem test_engine_commands :
    got (exec (.epoll 2 1) (reg 1 4 false ticketed)) (fun t => decide (t.core.rd 2 = 5)) = true
      ∧ got (exec (.epoll 2 1) (reg 1 5 false ticketed)) (fun t => decide (t.core.rd 2 = 6)) = true
      ∧ got (exec (.ewait 1) (reg 1 3 false ticketed)) (fun t => decide (t.core.wait = some (.ticket 3))) = true
      ∧ got (exec (.cpy 2 0 4) (block cDesc mapped)) (fun t => decide (t.core.rd 2 = BitVec.ofNat 64 t.core.ticket - 1)
        && decide (((fgetD t.engines 3 Engine.reset).cmds.map EngCmd.op) = [0])) = true := by decide +kernel

/-- CFG of one word with its block at hand: a field write of element 0, OP := CVT; and its place after it. -/
def cfgOne : State :=
  core (fun c => { c with resp := [(0, ⟨.hbm 0x10000, 0x00000480, descUint8, fullMask, 1⟩)] }) (reg 2 1 false one)

theorem witness_ConfigLoading :
    (cfgOne.core.rd 0).toNat % 4 = 0 ∧ (cfgOne.core.rd 2).toNat = 1 ∧ cfgOne.core.scratch = []
      ∧ (∃ x, cfgOne.trussOf cfgOne.cur = some x
        ∧ (match applyWord (.segment 0) cfgOne.curImage x (lane (0x00000480 : Data) (0 % 64 / 4)) 0 cfgOne with
          | (.ok u, v) => decide (u = v)
          | _ => false) = true)
      ∧ (one.core.rd 0).toNat = 0 ∧ NotStepping one
      ∧ 65536 < ((reg 2 65537 false one).core.rd 2).toNat
      ∧ (∃ x, one.trussOf one.cur = some x ∧ (one.judgeUnit x (.segment 0)).1 = none)
      ∧ ((reg 1 2 false one).core.rd 1).toNat % 4 ≠ 0
      ∧ 2 ^ 48 < ((reg 1 0xFFFFFFFFFFFC false (reg 2 2 false one)).core.rd 1).toNat + 4 * 2 := by
  refine ⟨by decide +kernel, by decide +kernel, by decide +kernel, ⟨_, rfl, by decide +kernel⟩, by decide +kernel,
    .inl (by decide +kernel), by decide +kernel, ⟨_, rfl, by decide +kernel⟩, by decide +kernel, by decide +kernel⟩

theorem witness_FabricLoading :
    let s := page 0 (fun p => { p with startPts := [(63, 1)] }) one
    let f := elem 0 63 (fun x => { x with hops := [(37, [tok, tok, tok, tok])] }) s
    (s.page s.cur).startHops.Nodup ∧ (s.page s.cur).startHops ≠ []
      ∧ (∀ z ∈ (s.page s.cur).startHops, (s.elem s.cur z.1).hopRoom z.2 = true) ∧ NotStepping s
      ∧ ∃ z ∈ (f.page f.cur).startHops, (f.elem f.cur z.1).hopRoom z.2 = false := by
  dsimp only
  refine ⟨by decide +kernel, by decide +kernel, by decide +kernel, .inl (by decide +kernel), by decide +kernel⟩

/-- An outbound link 5 of truss 1, of two tokens' room, holding none. -/
def link5 : Link := ⟨some 1, none, 5, 2, 0, 0, [], 0, 0, 0, 0, 0, 0, 0, [], 0, (2, 0)⟩

/-- R161's descriptor of one entry: link 5 outbound at rate 2; with a bit that must be 0; of no entries; of 17. -/
def rDesc (n word : Nat) : Data := BitVec.ofNat 512 (n + word * 2 ^ 64)

theorem witness_FabricInstructions :
    let s := block (rDesc 1 0x20045) { mapped with links := [(0, link5)] }
    let v := roundBytes 1 8 s
    let full := block (rDesc 1 0x30045) { mapped with links := [(0, link5)] }
    (∃ x, s.trussOf s.cur = some x ∧ x.pages[0]? = some 0 ∧ x.pages.length ≤ 64 / 64) ∧ NotStepping s
      ∧ s.linkOf (s.page s.cur).truss 5 true = some (0, link5) ∧ s.linkOf (s.page s.cur).truss 5 false = none
      ∧ s.linkOf (s.page s.cur).truss 6 true = none
      ∧ (match coreRead 0 8 false s with
        | .ok (n, d, _) t => decide (n = 1) && !descPoisoned d && decide (t = s)
        | .stop _ => false) = true
      ∧ (match v with
        | .ok w t => decide (bits w 0 32 % 64 = 5) && decide (bits w 7 9 = 0) && decide (bits w 16 16 = 2) && decide (t = s)
        | .stop _ => false) = true
      ∧ (s.reserveAll 1 [(5, true, 2)]).isSome = true ∧ (full.reserveAll 1 [(5, true, 3)]).isSome = false
      ∧ bits 0x20085 7 9 ≠ 0 ∧ bits 0x45 16 16 = 0 := by
  dsimp only
  refine ⟨⟨_, rfl, by decide +kernel, by decide +kernel⟩, .inl (by decide +kernel), ?_⟩
  decide +kernel

/-- R158, R160 to R162: START's token; ERD of an element's status and of a page that the truss has not; ROUND reserves,
and waits for more than there is; LSTAT reads free space and direction. -/
theorem test_fabric :
    let s := page 0 (fun p => { p with startPts := [(63, 1)] }) one
    let r := { mapped with links := [(0, link5)] }
    got (exec .start s) (fun t => decide (fgetD (t.elem 0 63).hops 37 [] = [dataToken 1 1 0])) = true
      ∧ got (exec (.erd 2 1 0) (elem 0 63 (fun x => { x with status := 0x21 }) (reg 1 63 false one)))
        (fun t => decide (t.core.rd 2 = 0x21)) = true
      ∧ got (exec (.erd 2 1 0) (handled (reg 1 64 false one))) (trapped 5 64) = true
      ∧ got (exec (.round 0) (block (rDesc 1 0x20045) r)) (fun t => decide ((fget t.links 0).map Link.resOut = some 2)) = true
      ∧ got (exec (.round 0) (block (rDesc 1 0x30045) r)) (fun t => decide (t.core.wait = some (.links [(5, true, 3)]))) = true
      ∧ got (exec (.lstat 2 1) (reg 1 5 false r)) (fun t => decide (t.core.rd 2 = 0x2000000020000)) = true := by decide +kernel

/-! ### Synchronising, kerfs, regions, worlds -/

/-- A truss of two pages, of a launch with job 0x40 at phase 3. -/
def pair : State :=
  let s := truss (fun x => { x with w := 2, cores := 2 }) (launch (fun l => { l with job := 0x40 }) (reg 1 3 false mapped))
  let s := poke 0x10050 (toBytes 8 3) s
  s.setPage 1 { s.page 0 with ix := 1 }

theorem witness_BarrierAndPhase :
    let x := (pair.trussOf 0).getD ⟨2, 0, 1, 1, 0, 0, 0, .running, 1, 0, 0, 0, none, 0, none, false, 0, true, [], false, [], [], 0⟩
    pair.trussOf pair.cur = some x ∧ (fget pair.launches x.launch).isSome = true ∧ pair.core.stage ≠ 1 ∧ pair.cur ∈ x.pages
      ∧ ¬ (∀ q ∈ pair.heldPages (pair.page pair.cur).truss x, q ≠ pair.cur → (pair.page q).core.run = .ended
        ∨ pair.core.barrier + 1 ≤ (pair.page q).core.barrier)
      ∧ (∀ q ∈ one.heldPages 1 ((one.trussOf 0).getD x), q = one.cur) ∧ NotStepping one
      ∧ pair.core.stage = 0 ∧ pair.jobWord x.part 0x40 16 = (pair.core.rd 1).toNat ∧ x.depth = 0
      ∧ pair.coreBusy pair.cur = false ∧ (∀ y ∈ pair.core.l1d, y.dirty = 0)
      ∧ (∃ j, j < x.h * x.w ∧ j ≠ (pair.page pair.cur).ix ∧ j ∉ x.phaseAt ∧ j ∉ x.endedAt)
      ∧ (core (fun c => { c with stage := 2 }) pair).core.stage = 2
      ∧ (core (fun c => { c with stage := 1 }) pair).core.stage = 1 := by
  dsimp only
  repeat' apply And.intro
  all_goals first | decide +kernel | exact ⟨1, by decide +kernel⟩ | exact .inl (by decide +kernel)

/-- A counter's block has come: 7 at 0x38. -/
def counted (n : Word) : State :=
  core (fun c => { c with resp := [(0, ⟨.hbm 0x10000, 7#512 <<< 448, descUint8, fullMask, 1⟩)] })
    (reg 2 n false (reg 1 0x38 false (cached 0x10001)))

theorem witness_SynchronisationResults :
    Claims.MayAccess (counted 7) 0x38 8 ∧ (counted 7).core.stage ≠ 1
      ∧ (counted 7).core.resp = [(0, ⟨.hbm 0x10000, 7#512 <<< 448, descUint8, fullMask, 1⟩)]
      ∧ (counted 7).core.line 0 0 = none ∧ ((counted 7).core.rd 2).toNat ≤ dataBytes (7#512 <<< 448) 0x38 8
      ∧ dataBytes (7#512 <<< 448) 0x38 8 < ((counted 8).core.rd 2).toNat
      ∧ (counted 7).core.failed = false ∧ (counted 7).curDepth = 0
      ∧ ((counted 7).xlate (bayOf 0) 0 0 0 0).1 = .leaf 0x10001 ∧ leafTgt 0x10001 ≠ 2 ∧ leafRo 0x10001 = false
      ∧ (counted 7).placeOf 0 0x10001 0x38 = .ok (.hbm 0x10038) ∧ (∀ l ∈ (counted 7).core.l1d, l.dirty = 0)
      ∧ ((counted 7).req (counted 7).me).allAcked = true ∧ ((counted 7).req (counted 7).me).stall = none := by
  refine ⟨⟨.inl (by decide +kernel), by decide +kernel, by decide, by decide⟩, ?_⟩
  repeat' apply And.intro
  all_goals first | decide +kernel | rfl

/-- Function 0 is attached to partition 0, with queue 63 in a slot. -/
def queued : State :=
  let s := mapped.setVf 0 { VF.reset with part := some 0 }
  { s with queues := [(qKey 0 63, ⟨List.replicate 64 0, 0, 0, 0, [], 0, false, true, 0, none, [], none, 0⟩)] }

theorem witness_NotifyAndCancel :
    let s := reg 1 63 false queued
    (s.core.rd 1).toNat < 256 ∧ s.curDepth = 0 ∧ (∀ l ∈ s.core.l1d, l.dirty = 0) ∧ s.completeAtScope s.me 2 = true
      ∧ NotStepping s
      ∧ (∃ f v q, s.vfs.find? (fun z => z.2.part == some s.curPart && z.2.index == 63 / 64) = some (f, v)
        ∧ fget s.queues (qKey f (63 % 64)) = some q ∧ q.slot = true)
      ∧ 256 ≤ ((reg 1 256 false s).core.rd 1).toNat ∧ (s.core.rd 1).toNat / 2 ^ 60 < 1
      ∧ 4 < ((reg 1 0x5000000000000000 false s).core.rd 1).toNat / 2 ^ 60
      ∧ ((reg 1 0x4000000000000000 false s).core.rd 1).toNat / 2 ^ 60 = 4 ∧ s.jobOf s.curPart 0 = none
      ∧ ((reg 1 0x1000000000000000 false s).core.rd 1).toNat / 2 ^ 60 = 1
      ∧ 0 < (truss (fun x => { x with depth := 1 }) s).curDepth := by
  refine ⟨by decide +kernel, by decide +kernel, by decide +kernel, by decide +kernel, .inl (by decide +kernel),
    ⟨0, _, _, rfl, rfl, by decide +kernel⟩, ?_⟩
  decide +kernel

theorem witness_LifeCycleResults : (∃ x, fget one.trusses (one.page one.cur).truss = some x ∧ x.fork = none)
    ∧ one.coreBusy one.cur = false ∧ (∀ l ∈ one.core.l1d, l.dirty = 0)
    ∧ (port 0 0 (fun p => { p with act := some sStream }) one).coreBusy 0 = true :=
  ⟨⟨_, rfl, rfl⟩, by decide +kernel, by decide +kernel, by decide +kernel⟩

/-- R124, R163 to R167: BAR.T waits for page 1; PHASE arrives; a wrong phase traps; CWAIT at 7 and below 8; CADD sends an
addition; NOTIFY; CANCEL of level 5 traps; END. -/
theorem test_synchronisation :
    got (exec .barT pair) (fun t => decide (t.core.wait = some (.barrier 1))) = true
      ∧ got (exec .barT one) (fun t => decide (t.core.pc = 4) && decide (t.core.barrier = 1)) = true
      ∧ got (exec (.phase 1) pair) (fun t => decide (t.core.wait = some (.phase 3))) = true
      ∧ got (exec (.phase 1) (handled (reg 1 4 false pair))) (trapped 5 4) = true
      ∧ got (exec (.cwait 1 2) (counted 7)) (fun t => decide (t.core.pc = 4)) = true
      ∧ got (exec (.cwait 1 2) (counted 8)) (fun t => decide (t.core.wait = some (.counter 0x38 8))) = true
      ∧ got (exec (.cadd 1 2) (counted 7)) (fun t => decide (t.core.pc = 4)
        && decide ((t.req t.me).win.map (fun e => e.pkt.phys) = [.hbm 0x10038])) = true
      ∧ got (exec (.notify 1 2) (reg 1 63 false (reg 2 9 false queued))) (fun t =>
        decide ((fget t.queues (qKey 0 63)).map Queue.notes = some [9])) = true
      ∧ got (exec (.cancel 1) (handled (reg 1 0x5000000000000000 false queued))) (trapped 5 0x5000000000000000) = true
      ∧ got (exec .endCore one) (fun t => decide (t.core.run = .ended) && decide ((fget t.trusses 1).map Truss.cores = some 0)) = true := by
  decide +kernel

/-- A request is pending for the truss. -/
def asked : State := truss (fun x => { x with request := true }) one

theorem witness_KerfResults : (∃ x, one.trussOf one.cur = some x ∧ x.request = false ∧ x.state ≠ .stopping) ∧ NotStepping one
    ∧ (∃ x, asked.trussOf asked.cur = some x ∧ x.request = true ∧ x.state ≠ .stopping) ∧ asked.core.stage ≠ 1
    ∧ Claims.AtKerf asked
    ∧ (∃ x, (truss (fun x => { x with state := .stopping }) asked).trussOf 0 = some x ∧ x.request = true ∧ x.state = .stopping)
    ∧ unacked.completeAtScope unacked.me 2 = false :=
  ⟨⟨_, rfl, rfl, by decide⟩, .inl (by decide +kernel), ⟨_, rfl, rfl, by decide⟩, by decide +kernel,
    ⟨by decide +kernel, by decide +kernel, by decide +kernel⟩, ⟨_, rfl, rfl, rfl⟩, by decide +kernel⟩

/-- The image's REGIONS name the start of page 0's code as region 9. -/
def regioned : State := launch (fun l => { l with img := { l.img with regions := [(0, 9, 0, 0x10)] } }) one

theorem witness_CheckpointResults :
    regioned.regionHere = some (0, 9, 0, 0x10) ∧ one.regionHere = none
      ∧ (∃ x, regioned.trussOf regioned.cur = some x ∧ x.depth = 0 ∧ x.state = .running)
      ∧ (∃ l, regioned.curLaunch = some l) ∧ (regioned.page regioned.cur).restart = false ∧ NotStepping regioned
      ∧ ((reg 1 0x7FFFFFFFFFFF false regioned).core.rd 1).toNat < 2 ^ 47
      ∧ 2 ^ 47 ≤ ((reg 1 0x800000000000 false regioned).core.rd 1).toNat :=
  ⟨by decide +kernel, by decide +kernel, ⟨_, rfl, by decide, by decide⟩, ⟨_, rfl⟩, by decide +kernel, .inl (by decide +kernel),
    by decide +kernel, by decide +kernel⟩

/-- Truss 1 is rival 0 of fork 9, truss 7 rival 1, of launch 2. -/
def rivals : State :=
  let f : Fork := ⟨2, 2, [⟨[1], 1, none, false, none, false, [], none⟩, ⟨[7], 2, none, false, none, false, [], none⟩], 0, [1], 0, 0, 0, none, [], [1, 2], [], (0, 0)⟩
  truss (fun x => { x with depth := 1, fork := some 9, view := 1 }) { one with forks := [(9, f)] }

/-- Every view tag of partition 0 but one is taken. -/
def tagless : State :=
  part (fun p => { p with views := (List.range 62).map fun k => (k + 1, ⟨0, [], [], 2, false, none⟩) }) one

/-- FORKW with its result at hand; a launch of one core with view tags free, and with too few. -/
theorem witness_WorldInstructionsAlone :
    (let s := core (fun c => { c with stage := 1, scratch := [0xFFFFFFFFFFFFFFFE] }) one;
      s.core.stage = 1 ∧ NotStepping s ∧ s.core.scratch = 0xFFFFFFFFFFFFFFFE :: [])
    ∧ (∀ s, s = one ∨ s = tagless → ∃ x l, s.trussOf s.cur = some x ∧ x.depth = 0 ∧ Claims.AtKerf s
      ∧ s.forkGroup (s.page s.cur).truss x = [(s.page s.cur).truss] ∧ fget s.trusses (s.page s.cur).truss = some x
      ∧ s.openFork [(s.page s.cur).truss] = none ∧ s.launchOf x = some l ∧ l.ntruss * (l.img.h * l.img.w) = 1)
    ∧ 2 ≤ (one.freeTags 0).length ∧ (tagless.freeTags 0).length < 2 := by
  refine ⟨⟨by decide +kernel, .inl (by decide +kernel), by decide +kernel⟩, ?_, by decide +kernel, by decide +kernel⟩
  rintro s (rfl | rfl) <;> refine ⟨_, _, rfl, ?_, ?_, ?_, ?_, ?_, rfl, ?_⟩ <;> first
    | decide +kernel
    | exact ⟨by decide +kernel, by decide +kernel, by decide +kernel⟩

theorem witness_WorldInstructions :
    (∃ x, one.trussOf one.cur = some x ∧ x.depth = 0 ∧ one.forkGroup 1 x = [1]) ∧ (1#15).toNat < 2 ∧ 8 < (9#15).toNat
      ∧ 2 ≤ (2#15).toNat ∧ (8#15).toNat ≤ 8
      ∧ (let s := launch (fun y => { y with ntruss := 2 }) one;
        (∃ x l, s.trussOf s.cur = some x ∧ s.launchOf x = some l ∧ l.ntruss * (l.img.h * l.img.w) ≠ 1
          ∧ s.forkGroup (s.page 0).truss x = [(s.page 0).truss] ∧ fget s.trusses (s.page 0).truss = some x)
        ∧ Claims.AtKerf s ∧ s.openFork [(s.page 0).truss] = none ∧ s.core.stage ≠ 1)
      ∧ (∃ x, (truss (fun x => { x with depth := 3 }) one).trussOf 0 = some x ∧ 3 ≤ x.depth) :=
  ⟨⟨_, rfl, rfl, by decide +kernel⟩, by decide, by decide, by decide, by decide,
    ⟨⟨_, _, rfl, rfl, by decide +kernel, by decide +kernel, by decide +kernel⟩,
      ⟨by decide +kernel, by decide +kernel, by decide +kernel⟩, by decide +kernel, by decide +kernel⟩, ⟨_, rfl, by decide⟩⟩

theorem witness_WorldResults :
    (∃ x k l r r', rivals.trussOf rivals.cur = some x ∧ fget rivals.trusses 1 = some x ∧ x.fork = some 9
      ∧ fget rivals.forks 9 = some k ∧ fget rivals.launches k.launch = some l ∧ k.rivals = [r, r'] ∧ r.trusses = [1]
      ∧ 1 ∉ r'.trusses ∧ r'.score = none ∧ r'.lost = false ∧ r.lost = false ∧ 0 < x.depth)
    ∧ (rivals.page rivals.cur).ix = 0 ∧ rivals.core.stage ≠ 1 ∧ Claims.AtKerf rivals := by
  refine ⟨⟨_, _, _, _, _, rfl, by decide +kernel, rfl, rfl, rfl, rfl, rfl, by decide, rfl, rfl, rfl, by decide⟩,
    by decide +kernel, by decide +kernel, ⟨by decide +kernel, by decide +kernel, by decide +kernel⟩⟩

theorem witness_ChooseCommits :
    let s := core (fun c => { c with stage := 1 }) rivals
    let busy := s.setReq s.me { Requester.reset with kept := (unacked.req unacked.me).kept }
    s.core.stage = 1 ∧ (∃ k i r l, s.rivalOf (s.page s.cur).truss = some (9, k, i, r) ∧ fget s.launches k.launch = some l
      ∧ s.chooseReady r = true ∧ l.cancel = false ∧ l.reset = false ∧ k.rivals[i]? = some r ∧ 1 ∈ r.trusses
      ∧ busy.chooseReady r = false
      ∧ (∀ tr ∈ r.trusses, ∀ y, fget s.trusses tr = some y → ∀ p ∈ s.heldPages tr y, (s.page p).dirtyLines = [])
      ∧ ∃ y, fget s.trusses 1 = some y ∧ s.heldPages 1 y = [0]
        ∧ ((line 0 0 0xFF 0x0F descUint8 s).page 0).dirtyLines ≠ [])
      ∧ NotStepping s ∧ (∀ z ∈ s.forks, z.2.outer ≠ some 9) := by
  dsimp only
  refine ⟨by decide +kernel, ⟨_, _, _, _, rfl, rfl, by decide +kernel, by decide, by decide, by decide, by decide,
    by decide +kernel, ?_, ⟨_, rfl, by decide +kernel, by decide +kernel⟩⟩, .inl (by decide +kernel), by decide +kernel⟩
  intro tr ht y hy p hp
  obtain rfl : tr = 1 := by simpa using ht
  obtain rfl : _ = y := Option.some.inj hy
  have : p ∈ [0] := hp
  simp only [List.mem_singleton] at this
  subst this
  decide +kernel

/-- R159, R168 to R172: KERF holds; FORKW of 1 is ILLEGAL, at depth 3 it traps with WORLD; WYIELD's score; CHOOSE ends
the fork; REGION where the image names none is ILLEGAL. -/
theorem test_worlds :
    got (exec .kerf asked) (fun t => decide (t.core.wait = some .kerf)) = true
      ∧ got (exec .kerf one) (fun t => decide (t.core.pc = 4)) = true
      ∧ got (exec (.forkw 2 0 1) (handled one)) (trapped 1 0xCC200001) = true
      ∧ got (exec (.forkw 2 0 2) (handled (truss (fun x => { x with depth := 3 }) one))) (trapped 6 0) = true
      ∧ got (exec (.forkw 2 0 2) (core (fun c => { c with stage := 1, scratch := [1] }) one)) (fun t =>
        decide (t.core.rd 2 = 1) && decide (t.core.pc = 4)) = true
      ∧ got (exec (.wyield 1) (reg 1 0xFFFFFFFFFFFFFFFE false rivals)) (fun t => decide (t.core.wait = some .yielded)
        && decide ((fget t.forks 9).map (fun k => k.rivals.map Rival.score) = some [some (-2), none])) = true
      ∧ got (exec .choose (core (fun c => { c with stage := 1 }) rivals)) (fun t => decide (t.core.scratch = [1])
        && decide (t.core.wait = some .choose)) = true
      ∧ got (exec .choose (core (fun c => { c with stage := 1, scratch := [1] }) rivals)) (fun t => decide (t.forks = [])
        && decide ((fget t.trusses 1).map Truss.depth = some 0) && decide (t.core.pc = 4)) = true
      ∧ got (exec (.region 1) (handled (reg 1 3 false one))) (fun t => decide (t.core.tcause = 1)) = true := by
  decide +kernel

/-! ### Elements and routers -/

/-- Fields of an element set. -/
def fields (l : List (Nat × Nat)) (x : Elem) : Elem := l.foldl (fun x f => x.setFld f.1 (BitVec.ofNat 12 f.2)) x

/-- A burst of INT32 at unit scale. -/
def int32 : Burst := ⟨0x04, 0x7F, 0, 1, false⟩

/-- Element 5 of page 0 holds an operation on INT32 (R75, R76): PACK one, ICLS INT, TFMT INT32, out0, with tokens at in0
and in1. -/
def lanes (opc ins : Nat) (a b : Token) : State :=
  elem 0 5 (fun x => fields [(0, opc * 16), (1, 0x041), (2, 4), (4, 0x080 + ins)]
    { x with ins := #v[int32, int32, int32, int32], annc := #v[some ⟨0x04, 0x7F, 63, 64, false⟩, none],
             hops := [(37, [a]), (38, [b])] }) one

/-- Lanes 0 and 1: 7 and −3, and 2^31 − 1 and 1. -/
def ta : Token := dataToken 0xFFFFFFFD00000007 0x3 1
/-- The second operand. -/
def tb : Token := dataToken 0x000000017FFFFFFF 0x3 4

/-- A plan that fires, with room for its outputs or without. -/
def fires (plan : Page → Nat → Plan) (s : State) (room : Bool) : Bool :=
  match plan (s.page 0) 5 with
  | .fire f => fireRoom (s.elem 0 5) f == room
  | _ => false

/-- A plan that is the one named. -/
def plans (plan : Page → Nat → Plan) (s : State) (z : Plan → Bool) : Bool := z (plan (s.page 0) 5)

/-- The tokens at the inputs hold their data, as a test. -/
theorem sound_of {x : Elem}
    (h : ((List.range 4).all fun i => (x.hopHead (inHop i)).all fun t => !t.lost) = true) : Claims.Sound x := by
  intro i t hi ht
  have := List.all_eq_true.mp h i (List.mem_range.mpr hi)
  simpa [ht] using this

theorem witness_ElementFirings :
    let s := lanes 0x01 3 ta tb
    let full := elem 0 5 (fun x => { x with q0 := List.replicate 64 tok }) s
    let none_ := elem 0 5 (fun x => { x with hops := [(37, [ta])] }) s
    let lbuf := elem 0 5 (fun x => fields [(0, 0xA20)] { x with cnt := [0, 0, 1] }) (lanes 0xA2 1 ta tb)
    (Instr.elemAdd 0 5, 0x01, elemAddPlan) ∈ Claims.Firings 0 5 ∧ s.elemLive 0 5 0x01 = true
      ∧ fires elemAddPlan s true = true ∧ fires elemAddPlan full false = true
      ∧ plans elemAddPlan none_ (fun z => match z with
        | .wait _ _ => true
        | _ => false) = true
      ∧ (Instr.lbuf 0 5, 0xA2, lbufPlan) ∈ Claims.Firings 0 5 ∧ lbuf.elemLive 0 5 0xA2 = true
      ∧ plans lbufPlan lbuf (fun z => match z with
        | .fault => true
        | _ => false) = true
      ∧ (s.elem 0 5).opc ≠ 2 ∧ State.reset.fabricRuns 0 = false ∧ Claims.Sound (s.elem 0 5) := by
  dsimp only
  refine ⟨List.Mem.head _, by decide +kernel, by decide +kernel, by decide +kernel, by decide +kernel, ?_, by decide +kernel,
    by decide +kernel, by decide +kernel, by decide +kernel, sound_of (by decide +kernel)⟩
  simp [Claims.Firings]

theorem witness_ElementLogic :
    let s := lanes 0x18 3 ta tb
    let n := lanes 0x1B 1 ta tb
    (s.elemLive 0 5 0x18 = true ∧ Claims.Int32Element (s.elem 0 5) 2 ∧ Claims.Int32In (s.elem 0 5) 0 ta
      ∧ Claims.Int32In (s.elem 0 5) 1 tb)
      ∧ n.elemLive 0 5 0x1B = true ∧ Claims.Int32Element (n.elem 0 5) 1 ∧ Claims.Int32In (n.elem 0 5) 0 ta := by
  unfold Claims.Int32Element Claims.Int32In
  dsimp only
  decide +kernel

theorem witness_ElementIntegers :
    let s := lanes 0x02 3 ta tb
    let n := lanes 0x06 1 ta tb
    (s.elem 0 5).tfmt = 0x04#8 ∧ s.elemLive 0 5 0x02 = true ∧ Claims.Int32Element (s.elem 0 5) 2
      ∧ Claims.Int32In (s.elem 0 5) 0 ta ∧ Claims.Int32In (s.elem 0 5) 1 tb
      ∧ (∀ l, l < 16 → (ta.valid &&& tb.valid).getLsbD l = true →
        -2 ^ 31 ≤ (lane ta.data l).toInt - (lane tb.data l).toInt ∧ (lane ta.data l).toInt - (lane tb.data l).toInt < 2 ^ 31)
      ∧ n.elemLive 0 5 0x06 = true ∧ Claims.Int32Element (n.elem 0 5) 1 := by
  unfold Claims.Int32Element Claims.Int32In
  dsimp only
  decide +kernel

/-- The data of the token that an element emits on out0. -/
def emitted (r : Res) (f : Token → Bool) : Bool := got r fun t => (t.elem 0 5).q0.any f

/-- R184 to R189: the exact results, lanes valid in both, the larger rank. -/
theorem test_elements :
    emitted (exec (.elemSub 0 5) (lanes 0x02 3 ta tb)) (fun t => decide (lane t.data 0 = 0x80000008)
        && decide (lane t.data 1 = 0xFFFFFFFC) && decide (t.rank = 4) && decide (t.valid = 3)) = true
      ∧ emitted (exec (.elemMin 0 5) (lanes 0x08 3 ta tb)) (fun t => decide (lane t.data 1 = 0xFFFFFFFD)) = true
      ∧ emitted (exec (.clt 0 5) (lanes 0x12 3 ta tb)) (fun t => decide (lane t.data 0 = 1) && decide (lane t.data 1 = 1)) = true
      ∧ emitted (exec (.elemXor 0 5) (lanes 0x1A 3 ta tb)) (fun t => decide (lane t.data 0 = 0x7FFFFFF8)) = true
      ∧ emitted (exec (.elemAbs 0 5) (lanes 0x06 1 ta tb)) (fun t => decide (lane t.data 1 = 3)) = true := by
  decide +kernel

/-- Element 5 reads tensor 0 at byte 0x40 (R232, R233), and its firing in flight completes. -/
def loader : State :=
  elem 0 5 (fun x => fields [(0, 0xA80), (1, 0x041), (4, 0x081), (22, 2)]
    { x with ins := #v[int32, int32, int32, int32], hops := [(37, [dataToken 0x40 1 2])] }) mapped

/-- A firing of MST in flight whose writes are complete. -/
def storer : State :=
  elem 0 5 (fun x => fields [(0, 0xA90), (4, 0x083), (22, 2)]
    { x with mem := [⟨[], 1, 0, false, 1, 0, 6, 5, 0x40, false, descUint8, 0, 0⟩] }) mapped

/-- The loader with the handle of slot 9, which no CREATE made live. -/
def dead : State := elem 0 5 (fun x => x.setFld 8 9) loader

/-- The loader at an index of panel 1, which is not mapped. -/
def far : State := elem 0 5 (fun x => { x with hops := [(37, [dataToken 0x10000 1 2])] }) loader

/-- What block `b` of a firing meets: its place, a refusal, a stall. -/
def meets (b : Nat) (s : State) : Nat :=
  match s.trussOf 0 with
  | none => 9
  | some x =>
    match (elemXlates 0 5 x (s.geo x.part (s.elem 0 5).memSlot) false false [b] s).1 with
    | .ok ps => if ps = [(b, some (.hbm 0x10040))] then 0 else 8
    | .refused _ => 1
    | .stall _ => 2

theorem witness_ElementMemory :
    let el := loader.elem 0 5
    let r := loader.req (elemAgent 0 5)
    (∃ x, loader.trussOf 0 = some x ∧ (memRefusal loader x el (loader.geo x.part el.memSlot) false).isNone = true
      ∧ memRefusal dead x (dead.elem 0 5) (dead.geo x.part 9) false = some 4)
      ∧ meets 1 loader = 0 ∧ meets 0x400 far = 2
      ∧ firsts (((far.elem 0 5).memAccesses (far.geo 0 0) 0xA8 false).map fun z => z.2 / 64) = [0x400]
      ∧ loader.elemLive 0 5 0xA8 = true ∧ el.ready = true ∧ memRoom el = true ∧ el.mem.length < 32 ∧ r.stall = none
      ∧ el.memRef = 0 ∧ firsts ((el.memAccesses (loader.geo 0 0) 0xA8 false).map fun z => z.2 / 64) = [1]
      ∧ r.win.length + 1 ≤ 64 ∧ r.kept.length + r.unsent.length + 1 ≤ 32
      ∧ (∃ g, (storer.elem 0 5).mem = [g] ∧ g.op = 1 ∧ ((storer.part 0).slot g.slot).state ≠ 2)
      ∧ storer.completeAtScope (elemAgent 0 5) (storer.elem 0 5).memScope = true ∧ storer.fabricRuns 0 = true
      ∧ 2 ≤ (storer.elem 0 5).free 0 ∧ 2 ≤ (storer.elem 0 5).free 1 ∧ (storer.elem 0 5).outs.testBit 0 = true
      ∧ (unacked.setReq (elemAgent 0 5) (unacked.req unacked.me)).completeAtScope (elemAgent 0 5) 2 = false := by
  dsimp only
  refine ⟨⟨_, rfl, by decide +kernel, by decide +kernel⟩, ?_⟩
  repeat' apply And.intro
  all_goals first | decide +kernel | exact ⟨_, rfl, rfl, by decide +kernel⟩

theorem witness_ElementMemorySound : Claims.Sound (loader.elem 0 5) := sound_of (by decide +kernel)

/-- R233 to R236: MLD's request joins the element's window and its input is consumed; MST's completion token counts its
lanes. -/
theorem test_element_memory :
    got (exec (.mld 0 5) loader) (fun t => decide ((t.elem 0 5).mem.map MemFiring.rank = [2])
        && decide ((t.req (elemAgent 0 5)).win.map (fun e => e.pkt.phys.blk) = [(Phys.hbm 0x10040).blk])
        && decide (fgetD (t.elem 0 5).hops 37 [] = [])) = true
      ∧ emitted (exec (.elementMemoryComplete 0 5 0) storer) (fun t => decide (lane t.data 0 = 1) && decide (t.rank = 5)) = true := by
  decide +kernel

/-- Element 5 with one token at an input. -/
def headed (h : Nat) (t : Token) (f : List (Nat × Nat)) : State := elem 0 5 (fun x => fields f { x with hops := [(h, [t])] }) one

/-- A SCALE token of 4 DATA tokens of FP16, a CONFIG token with one word, for element 6's TFMT, and a COMMAND token. -/
def scaleTok : Token := scaleToken 0x06 0x80 3
/-- The CONFIG token. -/
def configTok : Token := { dataToken 0x00182004 1 0 with kind := 2 }
/-- The COMMAND token. -/
def commandTok : Token := { dataToken 0x5 1 0 with kind := 3 }

theorem witness_ElementTokens :
    let x (s : State) := s.elem 0 5
    one.fabricRuns 0 = true
      ∧ (x (headed 38 scaleTok [])).hopHead (inHop 1) = some scaleTok ∧ scaleTok.kind = 1 ∧ tok.kind ≠ 1
      ∧ scaleTok.lost = false ∧ configTok.lost = false ∧ commandTok.lost = false ∧ tok.lost = false
      ∧ (x (headed 37 scaleTok [(0, 0x140)])).hopHead (inHop 0) = some scaleTok
      ∧ (x (headed 37 scaleTok [(0, 0x140)])).opc = 0x14
      ∧ (x (headed 38 configTok [])).hopHead (inHop 1) = some configTok ∧ configTok.kind = 2 ∧ (one.trussOf 0).isSome = true
      ∧ (x (headed 40 commandTok [])).hopHead (inHop 3) = some commandTok ∧ commandTok.kind = 3 ∧ (x (headed 40 commandTok [])).side = false
      ∧ (let y := x (headed 37 commandTok [(0, 0x300), (4, 0x081)])
        y.midRun = false ∧ y.mem = [] ∧ y.outs.testBit 0 = true ∧ 0 < y.free 0 ∧ y.hopHead (inHop 0) = some commandTok)
      ∧ (let y := x (headed 37 configTok [(0, 0x300), (4, 0x081)])
        y.hopHead (inHop 0) = some configTok ∧ (∀ w, w ∈ configTok.words → cwElem w.2 ≠ (one.page 0).ix * 64 + 5) ∧ configTok.valid ≠ 0)
      ∧ (let s := headed 37 tok [(0, 0xB00), (4, 0x081)]
        s.elemLive 0 5 0xB0 = true ∧ (x s).insMask = 1 ∧ (x s).p 0 % 2 = 0 ∧ 0 < (x s).free 0 ∧ (x s).hopHead (inHop 0) = some tok) := by
  dsimp only
  decide +kernel

/-- R82, R84, R181, R238: the burst that a SCALE token opens; a CONFIG token at in1 fails the truss with 0x03; one whose
words are another element's goes on; a COMMAND token goes on; CMD makes one. -/
theorem test_element_tokens :
    got (exec (.scaleToken 0 5 1) (headed 38 scaleTok [])) (fun t => decide ((t.elem 0 5).inBurst 1 = ⟨0x06, 0x80, 3, 4, false⟩)
        && decide (fgetD (t.elem 0 5).hops 38 [] = [])) = true
      ∧ got (exec (.configToken 0 5 1) (headed 38 configTok [])) (fun t =>
        decide (((fget t.launches 2).bind Launch.failure).map Prod.fst = some 3)) = true
      ∧ got (exec (.configToken 0 5 0) (headed 37 configTok [(0, 0x300), (4, 0x081)])) (fun t =>
        decide ((t.elem 0 5).q0 = [configTok]) && decide (t.mem = one.mem)) = true
      ∧ got (exec (.commandTokenAtElement 0 5 0) (headed 37 commandTok [(0, 0x300), (4, 0x081)])) (fun t =>
        decide ((t.elem 0 5).q0 = [commandTok])) = true
      ∧ got (exec (.cmd 0 5) (headed 37 tok [(0, 0xB00), (4, 0x081)])) (fun t =>
        (t.elem 0 5).q0.any fun k => decide (k.kind = 3) && decide (lane k.data 0 = 0xABCD)) = true := by decide +kernel

/-- Element 5's out0 goes to REDGE-east (field 33) and in1; a token stands in its result queue. -/
def hopper : State := elem 0 5 (fun x => fields [(33, 6), (38, 6)] { x with q0 := [tok] }) one

/-- A token stands at the west hop of element 6, which element 5 takes as in0; the two in partitions `a` and `b`. -/
def neighbours (a b : Nat) : State :=
  elem 0 6 (fun x => fields [(45, b)] { x with hops := [(facing 2, [tok])] }) (elem 0 5 (fun x => fields [(37, 2), (45, a)] x) one)

theorem witness_TokenHops :
    let x := hopper.elem 0 5
    hopper.fabricRuns 0 = true ∧ x.q0 = tok :: [] ∧ tok.lost = false ∧ x.named 6 = [33, 38] ∧ hopper.namedFree 0 5 6 = true
      ∧ (∀ h ∈ x.named 6, crossesSeam 0 5 h = false)
      ∧ (elem 0 5 (fun x => { x with hops := [(38, [tok])] }) hopper).namedFree 0 5 6 = false
      ∧ ((elem 0 5 (fun _ => { Elem.reset with q0 := [tok] }) one).elem 0 5).named 6 = [] := by
  dsimp only
  decide +kernel

theorem witness_TokenHopsNear :
    let s := neighbours 0 0
    let u := neighbours 1 0
    neighbour 0 5 2 = some (0, 6) ∧ s.hopsRun 0 = true ∧ (s.elem 0 6).seam = [] ∧ ((s.elem 0 6).fld 46).testBit 7 = false
      ∧ (s.elem 0 6).hopHead (facing 2) = some tok ∧ (s.elem 0 6).partReg = (s.elem 0 5).partReg ∧ (s.elem 0 5).named 2 ≠ []
      ∧ s.namedFree 0 5 2 = true ∧ (∀ h ∈ (s.elem 0 5).named 2, crossesSeam 0 5 h = false)
      ∧ (u.elem 0 6).partReg ≠ (u.elem 0 5).partReg ∧ (u.elem 0 6).partReg ≠ 0x3F ∧ (u.vf (u.vfOfPage 0)).eq.log = 0 := by
  dsimp only
  decide +kernel

/-- A control token that is true, and one that is not. -/
def ctlTrue : Token := dataToken 1 1 0
/-- A control token whose lane 0 is invalid. -/
def ctlFalse : Token := dataToken 1 2 0

/-- Element 5 as an operator whose outputs go east. -/
def operator (out : Nat) (f : List (Nat × Nat)) (h : FMap (List Token)) (g : Elem → Elem) : State :=
  elem 0 5 (fun x => g (fields ((33, out) :: f) { x with hops := h })) one

theorem witness_Operators :
    let steer := operator 8 [(41, 0x51)] [(48, [ctlTrue]), (49, [tok])] id
    let merge := operator 10 [(42, 0x521)] [(50, [ctlFalse]), (51, [tok]), (52, [tok])] id
    let carry := operator 11 [(43, 0x521)] [(53, [ctlTrue]), (54, [tok]), (55, [tok])] id
    let mitre := operator 12 [(44, 0x015)] [] fun x => { x with mitreOut := [tok] }
    let x (s : State) := s.elem 0 5
    ctlTrue.kind = 0 ∧ tok.kind = 0 ∧ ctlTrue.lost = false ∧ tok.lost = false ∧ (x steer).fld 41 ≠ 0 ∧ (x steer).hopHead 48 = some ctlTrue ∧ (x steer).hopHead 49 = some tok
      ∧ steer.namedFree 0 5 8 = true ∧ (∀ h ∈ (x steer).named 8, crossesSeam 0 5 h = false)
      ∧ (x merge).fld 42 ≠ 0 ∧ (x merge).merge = 0 ∧ (x merge).hopHead 50 = some ctlFalse ∧ (x merge).hopHead 51 = some tok
      ∧ merge.namedFree 0 5 10 = true
      ∧ (let scale := operator 10 [(42, 0x521)] [(50, [scaleToken 0x05#8 0x7F#8 0])] fun x => { x with merge := 1 }
        (x scale).hopHead 50 = some (scaleToken 0x05#8 0x7F#8 0) ∧ (scaleToken 0x05#8 0x7F#8 0).kind = 1
          ∧ (scaleToken 0x05#8 0x7F#8 0).lost = false ∧ (x scale).fld 42 ≠ 0)
      ∧ (x carry).fld 43 ≠ 0 ∧ (x carry).carry = 0 ∧ (x carry).hopHead 55 = some tok ∧ (x carry).hopHead 53 = some ctlTrue
      ∧ carry.namedFree 0 5 11 = true
      ∧ bits ((x mitre).fld 44) 4 2 ≠ 0 ∧ (x mitre).mitreOut = tok :: [] ∧ mitre.namedFree 0 5 12 = true := by
  dsimp only
  decide +kernel

/-- R240 to R244, R253, R368: STEER by a control token that is not true uses its other output; MERGE latches B; CARRY
starts; a hop within the page; a token for another partition is dropped. -/
theorem test_routers :
    got (exec (.steer 0 5) (operator 9 [(41, 0x51)] [(48, [ctlFalse]), (49, [tok])] id)) (fun t =>
        decide (fgetD (t.elem 0 5).hops 33 [] = [tok]) && decide (fgetD (t.elem 0 5).hops 48 [] = [])) = true
      ∧ got (exec (.merge 0 5) (operator 10 [(42, 0x521)] [(50, [ctlFalse])] id)) (fun t => decide ((t.elem 0 5).merge = 2)) = true
      ∧ got (exec (.carry 0 5) (operator 11 [(43, 0x521)] [(55, [tok])] id)) (fun t => decide ((t.elem 0 5).carry = 1)
        && decide (fgetD (t.elem 0 5).hops 33 [] = [tok])) = true
      ∧ got (exec (.mitre 0 5) (operator 12 [(44, 0x015)] [] fun x => { x with mitreOut := [tok] })) (fun t =>
        decide (fgetD (t.elem 0 5).hops 33 [] = [tok])) = true
      ∧ got (exec (.tokenHop 0 5 6) hopper) (fun t => decide (fgetD (t.elem 0 5).hops 33 [] = [tok])
        && decide (fgetD (t.elem 0 5).hops 38 [] = [tok]) && decide ((t.elem 0 5).q0 = [])) = true
      ∧ got (exec (.tokenHop 0 5 2) (neighbours 0 0)) (fun t => decide (fgetD (t.elem 0 5).hops 37 [] = [tok])
        && decide (fgetD (t.elem 0 6).hops (facing 2) [] = [])) = true
      ∧ got (exec (.tokenHop 0 5 2) (neighbours 1 0)) (fun t => decide (fgetD (t.elem 0 5).hops 37 [] = [])
        && decide ((t.part 0).silldrop = 1)) = true := by decide +kernel

/-- MMA whose C, one INT32 result of 5, waits for its D tile, 2; out0 named by `outs` tells that it is full. -/
def mmaEnd (outs : Nat) : State :=
  elem 0 5 (fun x => fields [(0, 0x600), (4, outs), (7, 2 * 64)] { x with cRows := pendingC 2 1 0x7F04 [some 5] }) one

/-- AMUL; the tile's blocks. -/
def tabled (b : Data) : State :=
  page 0 (fun p => { p with tiles := [(5 * 64 + 3, ⟨1, [(0, (b, descUint8))]⟩)] })
    (elem 0 5 (fun x => fields [(0, 0x680), (20, 15), (21, 3)] x) one)

theorem witness_MatrixTiles :
    (∀ outs, outs = 0 ∨ outs = 0x080 →
      let x := (mmaEnd outs).elem 0 5
      (mmaEnd outs).elemLive 0 5 x.opc = true ∧ x.writesD = true ∧ x.cRows ≠ [] ∧ x.targetC = 2
        ∧ (((mmaEnd outs).page 0).tile 5 2).state = 0 ∧ x.tellsD = decide (outs = 0x080) ∧ 0 < x.free 0)
      ∧ (one.elem 0 5).cRows = []
      ∧ (let y := (tabled 1).elem 0 5
        (tabled 1).fabricRuns 0 = true ∧ y.faulted = false ∧ y.judging = [] ∧ y.opc ∈ [0x68, 0x69, 0x6A, 0x6B, 0x6C] ∧ y.alg = 15
          ∧ y.table = [] ∧ (((tabled 1).page 0).tile 5 y.atile).state = 1
          ∧ tableOk y (((tabled 1).page 0).tile 5 y.atile) = true ∧ tableOk y (((tabled 3).page 0).tile 5 y.atile) = false) := by
  refine ⟨?_, by decide +kernel⟩
  rintro outs (rfl | rfl) <;> decide +kernel

/-- R216, R220: the tile is FULL with its results and the token names it; a table of N = 3 faults the element. -/
theorem test_matrix_tiles :
    got (exec (.mmaTileWrite 0 5) (mmaEnd 0x080)) (fun t => decide ((((t.page 0).tile 5 2).state, ((t.page 0).tile 5 2).block 0)
        = (1, 5, 0x7F04)) && decide ((t.elem 0 5).q0.map (fun k => (k.data, k.rank)) = [(2, 1)])) = true
      ∧ got (exec (.algebraTableRead 0 5) (tabled 1)) (fun t => !(t.elem 0 5).table.isEmpty) = true
      ∧ got (exec (.algebraTableRead 0 5) (tabled 3)) (fun t => (t.elem 0 5).faulted) = true := by decide +kernel

/-! ### Values -/

/-- A finite number of two naturals. -/
theorem is_fin (g : Bool) (n d : Nat) (h : d ≠ 0) : Claims.Is (.fin g n d) g ((n : Rat) / d) :=
  ⟨n, d, rfl, h, by rw [div_mul_cancel₀]; exact_mod_cast h⟩

/-- Rows of the formats: FP32, binary8p4 with signs and with infinities only, and integers; codes at the edges of their ranges,
and what no format reads. -/
theorem witness_NumberFormats :
    ((0x07, 24, 127, 32, true, true, 0x7F7FFFFF, 0x7FC00000) ∈ Claims.floats ∧ (0x13, 4, 8, 8, true, false, 0x7F, 0x80) ∈ Claims.floats
      ∧ (0x2B, 4, 16, 8, false, true, 0xFD, 0xFF) ∈ Claims.floats ∧ (4, 32, -2 ^ 31, 2 ^ 31 - 1) ∈ Claims.ints)
    ∧ (0x7F7FFFFF ≤ 0x7F7FFFFF ∧ 0x7F800000 = 0x7F7FFFFF + 1 ∧ 0x7F7FFFFF + 1 < 0x7F800001)
    ∧ ((-1 : Int) % 2 ^ 32 = ((0xFFFFFFFF % 2 ^ 32 : Nat) : Int)) ∧ (0xFF#8 ≠ 0x7F#8)
    ∧ (0x0E#8 = 0x0E#8 ∧ 0x08#8 ≠ 0#8 ∧ (∀ r ∈ Claims.ints, r.1 ≠ (0x08#8).toNat) ∧ ∀ r ∈ Claims.floats, r.1 ≠ (0x08#8).toNat)
    ∧ Claims.Is (.fin true 3 2) true (((3 : Nat) : Rat) / ((2 : Nat) : Rat)) ∧ Claims.Is (.fin false 0 1) false (((0 : Nat) : Rat) / ((1 : Nat) : Rat)) := by
  refine ⟨⟨by decide, by decide, by decide, by decide⟩, by decide, by decide, by decide, ⟨rfl, by decide, by decide, by decide⟩,
    is_fin _ _ _ (by decide), is_fin _ _ _ (by decide)⟩

/-- Finite numbers of each sign, zeros, infinities and NaNs; powers of two and of four as FP32 holds them; bounds on a reciprocal and
a root of 3; an algebra. -/
theorem witness_ExactOperations :
    Claims.Is (.fin true 3 1) true (((3 : Nat) : Rat) / ((1 : Nat) : Rat)) ∧ (Sys2Proof.Num.nan false).isNan = true ∧ (Sys2Proof.Num.nan true).isSnan = true
    ∧ (Sys2Proof.Num.inf true).isNan = false
    ∧ ofFp32 (toFp32 (.inf true)).1 = .inf true
    ∧ (∀ g, Claims.Is (ofFp32 (toFp32 (.fin g 0 1)).1) g 0) ∧ Claims.Is (ofFp32 (toFp32 (.fin true 3 1)).1) true 3
    ∧ Claims.Is (ofFp32 (toFp32 (.fin false 4 1)).1) false ((2 : Rat) ^ (2 * 1 : Int))
    ∧ ((2 : Rat) ^ (-2 : Int) ≤ 1 / 3 ∧ (1 : Rat) / 3 < 2 ^ (-2 + 1 : Int))
    ∧ ((2 : Rat) ^ (2 * (-1) : Int) * 3 ≤ 1 ∧ (1 : Rat) < 2 ^ (2 * (-1) + 2 : Int) * 3)
    ∧ (∀ i, i < 4 → ∀ j, j < 4 → ((preset 4).entry i j).1 = 1 ∨ ((preset 4).entry i j).1 = -1 ∨ ((preset 4).entry i j).1 = 0)
    ∧ (preset 4).n = 4 := by
  refine ⟨is_fin _ _ _ (by decide), rfl, rfl, rfl, by decide, ?_, ?_, ?_, by norm_num, by norm_num, by decide, by decide⟩
  · intro g
    have h : ofFp32 (toFp32 (.fin g 0 1)).1 = .fin g 0 (2 ^ 149) := by cases g <;> decide +kernel
    rw [h]
    exact ⟨_, _, rfl, by decide, by norm_num⟩
  · have h : ofFp32 (toFp32 (.fin true 3 1)).1 = .fin true 12582912 4194304 := by decide +kernel
    rw [h]
    exact ⟨_, _, rfl, by decide, by norm_num⟩
  · have h : ofFp32 (toFp32 (.fin false 4 1)).1 = .fin false 8388608 2097152 := by decide +kernel
    rw [h]
    exact ⟨_, _, rfl, by decide, by norm_num⟩

/-- The operations whose inputs `ins` hold tokens are live with them at hand. -/
def readyFor (l : List (Nat × Nat)) : Bool :=
  l.all fun z => let s := lanes z.1 z.2 ta tb; s.elemLive 0 5 z.1 && (s.elem 0 5).ready

/-- CVT with SIDE set, the control word `v` at ctl and a burst of in0 to begin. -/
def sided (v : Nat) : State :=
  elem 0 5 (fun x => { x.setFld 3 0x040 with hops := [(37, [ta]), (40, [dataToken (BitVec.ofNat 512 v) 1 0])] }) (lanes 0x48 1 ta tb)

theorem witness_LaneValues :
    readyFor ([1, 2, 3, 8, 9, 10, 11, 16, 17, 18, 19, 0x20].map fun o => (o, 3)) = true
      ∧ readyFor ([4, 0x14, 0x21, 0x22].map fun o => (o, 1)) = true
      ∧ readyFor ([6, 7, 0x40, 0x41, 0x42, 0x43, 0x44, 0x45, 0x48, 0x4A].map fun o => (o, 1)) = true
      ∧ ((lanes 0x21 1 ta tb).elem 0 5).rm < 6
      ∧ (∀ v, v = 13 ∨ v = 6 → Claims.SideNow ((sided v).elem 0 5) ∧ ((sided v).elem 0 5).data 3 = some (dataToken (BitVec.ofNat 512 v) 1 0)
        ∧ ((sided v).elem 0 5).ready = true)
      ∧ Claims.sideOk (dataToken 13 1 0) ∧ ¬ Claims.sideOk (dataToken 6 1 0) ∧ ¬ Claims.SideNow ((lanes 0x48 1 ta tb).elem 0 5)
      ∧ (let x := (elem 0 5 (fun x => x.setFld 0 0x011) (lanes 1 1 ta tb)).elem 0 5
        Claims.Const x 1 ∧ ¬ Claims.Const x 0 ∧ (x.tok 0).valid.getLsbD 2 = false ∧ (x.tok 0).valid.getLsbD 1 = true ∧ (x.tok 0).lost = false
          ∧ (x.inBurst 0).bad = false ∧ ({ int32 with bad := true } : Burst).bad = true)
      ∧ op1 (fun a => (a, 0)) (fun _ => none) = none := by
  refine ⟨by decide +kernel, by decide +kernel, by decide +kernel, by decide +kernel, ?_, ?_, ?_, ?_, ?_, rfl⟩
  · rintro v (rfl | rfl) <;> unfold Claims.SideNow <;> decide +kernel
  · unfold Claims.sideOk; decide +kernel
  · unfold Claims.sideOk; decide +kernel
  · unfold Claims.SideNow; decide +kernel
  · unfold Claims.Const; decide +kernel

/-- An operation with EMIT q: RANK 4 of its tokens is below 7 and not below 0. -/
def emits (q opc ins : Nat) : State := elem 0 5 (fun x => x.setFld 4 (BitVec.ofNat 12 (0x080 + q * 16 + ins))) (lanes opc ins tb tb)

/-- BQ of bursts of b + 1 tokens. -/
def quantises (b : Nat) : State := elem 0 5 (fun x => x.setFld 3 (BitVec.ofNat 12 (b * 128))) (lanes 0x49 1 ta tb)

theorem witness_AccumulationValues :
    (∀ q, q = 0 ∨ q = 7 → ∀ z, z ∈ [(0x05, 3), (0x53, 1), (0x50, 1), (0x51, 1), (0x52, 1)] →
      let s := emits q z.1 z.2
      s.elemLive 0 5 z.1 = true ∧ (s.elem 0 5).ready = true ∧ (s.elem 0 5).rankIn = 4 ∧ (s.elem 0 5).emit = q
        ∧ 2 ^ 4 = 16 * (s.elem 0 5).pack)
      ∧ (∀ b, b = 0 ∨ b = 1 → (quantises b).elemLive 0 5 0x49 = true ∧ ((quantises b).elem 0 5).ready = true
        ∧ ((quantises b).elem 0 5).held.length = ((quantises b).elem 0 5).words.length
        ∧ ((quantises b).elem 0 5).burst = b ∧ ((quantises b).elem 0 5).emit = 0)
      ∧ Claims.Real (.fin true 3 1) ((-3 : Int) : Rat) := by
  refine ⟨?_, ?_, ⟨true, 3, ⟨3, 1, rfl, by decide, by norm_num⟩, by norm_num [Claims.sg]⟩⟩
  · rintro q (rfl | rfl) <;> decide +kernel
  · rintro b (rfl | rfl) <;> decide +kernel

/-- An element of an operation with parameters, held tokens and counts. -/
def working (opc ins : Nat) (ps : List (Nat × Nat)) (held : List Token) (cnt : List Nat) (words : List Word) : State :=
  elem 0 5 (fun x => fields ps { x with held := held, cnt := cnt, words := words }) (lanes opc ins ta tb)

/-- Its tile 0 is FULL. -/
def fullTile (s : State) : State := page 0 (fun p => { p with tiles := [(5 * 64, ⟨1, [(0, (7, descUint8))]⟩)] }) s

theorem witness_MoverValues :
    readyFor ([0x30, 0x31, 0x32, 0x4B, 0x4C, 0x89, 0x8A, 0x81, 0x88, 0x33, 0x91, 0xA0, 0xA1, 0xA2, 0xA3].map fun o => (o, 1)) = true
      ∧ readyFor [(0x80, 3), (0x90, 3)] = true
      -- A group of PACK and a run of CNT under way, and what CMPT, ZIP, UNZP and SLIDE hold.
      ∧ ((working 0x4B 1 [(1, 0x081)] [tb] [] []).elem 0 5).pack = 2
      ∧ ((working 0x88 1 [(22, 3)] [] [] [9, 0, 1, 2, 1]).elem 0 5).words = [9, 0, 1, 2, 1] ∧ 1 * (3 % 16 + 1) < 9
      ∧ ((working 0x81 1 [] [dataToken 5 1 0] [] []).elem 0 5).held = [dataToken 5 1 0]
      ∧ ((1 : BitVec 16) = BitVec.ofNat 16 (2 ^ [5#32].length - 1) ∧ lane (dataToken 5 1 0).data 0 = 5#32)
      ∧ ((working 0x90 3 [] [ta, tb] [] []).elem 0 5).held = [ta, tb] ∧ ((working 0x91 1 [] [ta] [] []).elem 0 5).held = [ta]
      ∧ ((working 0x33 1 [(22, 1)] [tb] [] []).elem 0 5).held = [tb] ∧ tb.rank ≠ 0 ∧ (dataToken 5 1 0).rank = 0
      -- Tiles of PLD, PST, TFLIP and LBUF.
      ∧ (((fullTile (lanes 0xA0 1 ta tb)).page 0).tile 5 0).state = 1 ∧ (((lanes 0xA1 1 ta tb).page 0).tile 5 0).state = 0
      ∧ (let x := (working 0xA2 1 [(23, 1), (6, 0)] [] [0, 0, 1] []).elem 0 5
        x.p 1 % 8 + 1 = 2 ∧ x.ta = 0 ∧ x.tb = 0 ∧ x.cnt = [0, 0, 1] ∧ ∀ k, (x.ta ≤ k ∧ k ≤ x.tb) ↔ k = 0) := by
  refine ⟨by decide +kernel, by decide +kernel, by decide +kernel, by decide +kernel, by decide, by decide +kernel, by decide +kernel,
    by decide +kernel, by decide +kernel, by decide +kernel, by decide, by decide, by decide +kernel, by decide +kernel, ?_⟩
  have h : ((working 0xA2 1 [(23, 1), (6, 0)] [] [0, 0, 1] []).elem 0 5).ta = 0 ∧ ((working 0xA2 1 [(23, 1), (6, 0)] [] [0, 0, 1] []).elem 0 5).tb = 0 := by
    decide +kernel
  refine ⟨by decide +kernel, h.1, h.2, by decide +kernel, fun k => ?_⟩
  rw [h.1, h.2]
  omega

/-- MMA with groups of INT8 at both inputs, and EMIT 7 or 0. -/
def mmaInt8 (q : Nat) : State :=
  elem 0 5 (fun x => { x.setFld 4 (BitVec.ofNat 12 (0x083 + q * 16)) with
    ins := #v[{ int32 with fmt := 1 }, { int32 with fmt := 1 }, int32, int32] }) (lanes 0x60 3 ta tb)

theorem witness_MatrixValues :
    (∀ z, z ∈ [(0x68, 3), (0x6A, 1), (0x6B, 1), (0x6C, 1)] →
      let s := lanes z.1 z.2 ta tb
      s.elemLive 0 5 z.1 = true ∧ (s.elem 0 5).ready = true ∧ (s.elem 0 5).algebra = some (preset 0) ∧ (preset 0).n = 1)
      ∧ (∀ q, q = 0 ∨ q = 7 → Claims.MatrixReady (mmaInt8 q) 0 5 (.mma 0 5) (preset 0) ⟨ta.data, 0x7F01, ta.valid⟩ ⟨tb.data, 0x7F01, tb.valid⟩ true
        ∧ ((mmaInt8 q).elem 0 5).emit = q ∧ (((mmaInt8 q).page 0).tile 5 ((mmaInt8 q).elem 0 5).td).state = 0)
      ∧ ((5, [[], [1], [2], [3], [1, 2], [1, 3], [2, 3], [1, 2, 3]]) : Nat × List (List Nat)).1 = 5
      ∧ (preset 6).metric.length = (preset 6).n ∧ (∀ m ∈ (preset 6).metric, m = 1 ∨ m = -1 ∨ m = 0) := by
  refine ⟨by decide +kernel, ?_, rfl, by decide, by decide⟩
  have group : ∀ q k t, (q = 0 ∨ q = 7) → (k = 0 ∧ t = ta ∨ k = 1 ∧ t = tb) →
      Claims.OperandGroup ((mmaInt8 q).page 0) 5 k (some ⟨t.data, 0x7F01, t.valid⟩) := by
    intro q k t hq hk
    have h : ((((mmaInt8 q).page 0).elem 5).p 0).testBit k = false ∧ (((mmaInt8 q).page 0).elem 5).data k = some t
        ∧ (((mmaInt8 q).page 0).elem 5).inDesc k (32 / (((mmaInt8 q).page 0).elem 5).pack) t = 0x7F01#16
        ∧ (((mmaInt8 q).page 0).elem 5).pack = 1 := by
      rcases hq with rfl | rfl <;> rcases hk with ⟨rfl, rfl⟩ | ⟨rfl, rfl⟩ <;> decide +kernel
    unfold Claims.OperandGroup
    rw [if_neg (by rw [h.1]; decide)]
    refine ⟨fun u hu => ?_, fun hu => ?_⟩
    · obtain rfl : t = u := Option.some.inj (h.2.1.symm.trans hu)
      rw [h.2.2.1, h.2.2.2]
      exact ⟨_, ⟨fun _ => rfl, fun hn => absurd ⟨.inl (by decide), by decide, by decide⟩ hn⟩, rfl⟩
    · rw [h.2.1] at hu
      cases hu
  rintro q hq
  refine ⟨⟨?_, ?_, by decide, ?_, ?_, fun _ => rfl, by decide, group q 0 ta hq (.inl ⟨rfl, rfl⟩), group q 1 tb hq (.inr ⟨rfl, rfl⟩), ?_, ?_⟩, ?_, ?_⟩
    <;> rcases hq with rfl | rfl <;> decide +kernel

/-! ### Homes, requesters and the network -/

/-- Packet 9 stands at the head of output 0, the local output of bay 0. -/
def inbox (p : Packet) (s : State) : State :=
  { s.setOut 0 ((s.out 0).setQueue p.cls [9]) with packets := [(9, { p with at_ := some 0 })] }

/-- Packet 9 as it stands there. -/
def at0 (p : Packet) : Packet := { p with at_ := some 0 }

/-- Packet 9 arrives. -/
def arrivesB (op : PktOp) (p : Packet) (s : State) : Bool :=
  decide (fget s.packets 9 = some (at0 p)) && decide (p.op = op) && p.path.isEmpty && (s.depart 9 (at0 p)).isSome
    && decide (9 ≠ s.fresh)

theorem arrives_of {op : PktOp} {p : Packet} {s : State} (h : arrivesB op p s = true) :
    ∃ u, Claims.Arrives s 9 op (at0 p) u := by
  simp only [arrivesB, Bool.and_eq_true, decide_eq_true_eq] at h
  obtain ⟨u, hu⟩ := Option.isSome_iff_exists.mp h.1.2
  exact ⟨u, h.1.1.1.1, h.1.1.1.2, List.isEmpty_iff.mp h.1.1.2, by simp [at0], hu, h.2⟩

/-- The core of page 0 as a requester. -/
def me0 : AgentId := one.me

/-- A packet from the core of page 0 to the home of bay 0. -/
def toHome (op : PktOp) (cls : Nat) : Packet := { Packet.blank op 0 me0 (homeAgent 0) cls with phys := .hbm 0x40 }

/-- An answer to the core of page 0. -/
def toMe (op : PktOp) (cls : Nat) : Packet := { Packet.blank op 0 (homeAgent 0) me0 cls with phys := .hbm 0x40, tag := 5 }

/-- The write of block 1 of HBM4, all bytes 0, and its retained copy. -/
def wr0 (vec : List (BitVec 32)) : Packet :=
  { toHome .write 1 with blocks := [⟨.hbm 0x40, 0, descUint8, fullMask, 1⟩], len := 64, vec := vec, n := 1 }

/-- The requester holds a copy of a write. -/
def keeps (p : Packet) (due : Option Nat) (s : State) : State :=
  s.setReq me0 { s.req me0 with kept := [⟨0, p.seq, p, 0, due, none⟩] }

/-- The requester waits for the answer of tag 5, due for repetition at a time. -/
def waits (due : Option Nat) (s : State) : State :=
  core (fun c => { c with wait := some (.resp 5) })
    (s.setReq me0 { s.req me0 with win := [⟨5, toHome .read 0, 0, none, false, due, none, [], false⟩] })

theorem witness_HomeAccesses :
    (arrivesB .read (toHome .read 0) (inbox (toHome .read 0) mapped) = true
      ∧ mapped.mayServe 0 (.hbm 0x40) = true ∧ mapped.holeBefore me0 0 none [.hbm 0x40] = false
      ∧ one.mayServe 0 (.hbm 0x40) = false)
      ∧ (let s := inbox (wr0 []) (keeps (wr0 []) none mapped)
        arrivesB .write (wr0 []) s = true ∧ s.judge (wr0 []) = .apply ∧ s.judge { wr0 [] with trim := true } = .shaving
          ∧ (keeps (wr0 []) none one).judge (wr0 []) = .refused ∧ s.judge (wr0 [5]) = .held ∧ mapped.judge (wr0 []) = .gone)
      ∧ arrivesB .abandon (toHome .abandon 0) (inbox (toHome .abandon 0) one) = true := by
  dsimp only
  decide +kernel

/-- AMO ADD of 8 bytes at the end of a block. -/
def at64 : Packet :=
  { toHome .atomic 1 with blocks := [⟨.hbm 0x40, 0, descUint8, 0, 0⟩], words := [3, 0], width := 8, phys := .hbm 0x78, n := 1 }

theorem witness_HomeAtomics :
    let s := inbox at64 (keeps at64 none mapped)
    arrivesB .atomic at64 s = true ∧ s.judge at64 = .apply ∧ at64.phys.low + at64.width ≤ 64
      ∧ descPoisoned (s.mem.block at64.phys).2 = false
      ∧ descPoisoned (s.mem.setBlock (.hbm 0x40) 0 descPoison |>.block at64.phys).2 = true := by
  dsimp only
  decide +kernel

/-- A fact of all that homes and requesters send: the operation of the packet sent next. -/
def sent (r : Res) (s : State) (f : Packet → Bool) : Bool :=
  got r fun t => match fget t.packets s.fresh with
    | some q => f q
    | none => false

/-- R311, R313, R326, R378: DATA, OWNERNAK, ACK, RESEND, ARESP. -/
theorem test_homes :
    sent (exec (.readPkt 9) (inbox (toHome .read 0) mapped)) mapped (fun q => q.op == .data) = true
      ∧ sent (exec (.readPkt 9) (inbox (toHome .read 0) one)) one (fun q => q.op == .ownernak) = true
      ∧ sent (exec (.writePkt 9) (inbox (wr0 []) (keeps (wr0 []) none mapped))) mapped (fun q => q.op == .ack) = true
      ∧ sent (exec (.atomicPkt 9) (inbox at64 (keeps at64 none mapped))) mapped (fun q => q.op == .aresp) = true
      ∧ got (exec (.writePkt 9) (inbox (wr0 [5]) (keeps (wr0 []) none mapped))) (fun t =>
        decide (t.packets.length = 1)) = true := by decide +kernel

/-- The payload of an answer. -/
def ans : Packet := { toMe .data 0 with blocks := [⟨.hbm 0x40, 7, descUint8, fullMask, 1⟩] }

/-- The answer to a write, which it names by its sequence number. -/
def answer (op : PktOp) : Packet := { Packet.blank op 0 (homeAgent 0) me0 0 with phys := .hbm 0x40 }

theorem witness_RequesterResults :
    let s := waits none one
    (arrivesB .data ans (inbox ans one) = true ∧ ((inbox ans one).req me0).entry 5 = none)
      ∧ (arrivesB .data ans (inbox ans s) = true ∧ ((s.req me0).entry 5).map WinEntry.got = some none
        ∧ s.rdcRoom 0 0 [.hbm 0x40] = true ∧ remoteBlock 0 (.hbm 0x40) = none ∧ agentPage me0 = some (0, 0) ∧ s.core.wait = some (.resp 5))
      ∧ (arrivesB .data { ans with trim := true } (inbox { ans with trim := true } s) = true)
      ∧ agentPage (portAgent 0 0) ≠ some (0, 0)
      ∧ (arrivesB .aresp (toMe .aresp 0) (inbox (toMe .aresp 0) s) = true)
      ∧ (arrivesB .ack (answer .ack) (inbox (answer .ack) (keeps (wr0 []) none one)) = true ∧ (one.req me0).unsent = []
        ∧ me0.code ≠ 0x1C0 ∧ me0.code ≠ 0x1C1
        ∧ ((inbox (answer .ack) (keeps (wr0 []) none one)).keptFor me0 (answer .ack)).isSome = true)
      ∧ (arrivesB .resend (answer .resend) (inbox (answer .resend) (keeps (wr0 []) none one)) = true
        ∧ ((inbox (answer .resend) (keeps (wr0 []) none one)).keptFor me0 (answer .resend)).isSome = true
        ∧ (inbox (answer .resend) one).keptFor me0 (answer .resend) = none)
      ∧ (arrivesB .ownernak (toMe .ownernak 0) (inbox (toMe .ownernak 0) s) = true ∧ (s.req me0).stall = none
        ∧ (∀ z, agentPage me0 = some z → (s.page z.1).status = .used) ∧ (s.vf (s.vfOfAgent me0)).eq.log = 0) := by
  dsimp only
  decide +kernel

/-- The rivals of fork 9 with their scores; both 3, or 2 and 3. -/
def scored (v : Int) : State :=
  { rivals with forks := fmod rivals.forks 9 fun k =>
      { k with rivals := k.rivals.map fun r => { r with score := some (if r.trusses = [1] then v else 3) } } }

/-- `mapped` with the core in rival 0 of fork 9, which has its base view, and an address in g1. -/
def deferring (v : Word) : State := truss (fun x => { x with view := 0 }) (reg 1 v false { mapped with trusses := rivals.trusses, forks := rivals.forks })

/-- Rival 0's outbox is full. -/
def stuffed (s : State) : State :=
  { s with forks := fmod s.forks 9 fun k => { k with rivals := k.rivals.map fun r => { r with outbox := List.replicate 64 ⟨0, [], [], 1, 0⟩ } } }

/-- The block of `mapped` that holds its panel table has been written. -/
def rooted : State := { mapped with mem := mapped.mem.setBlock (.hbm 0xC000) (mapped.mem.block (.hbm 0xC000)).1 descUint8 }

theorem witness_WorldCommits :
    -- Two rivals of one score, the first wins; the second wins with the higher one.
    (∀ v, v = 3 ∨ v = 2 → ((scored v).forks.map Prod.fst).Nodup ∧ ∃ k l, fget (scored v).forks 9 = some k
      ∧ fget (scored v).launches k.launch = some l ∧ l.cancel = false ∧ l.reset = false ∧ (scored v).launchCopying k.launch = false
      ∧ k.outer = none ∧ (∀ q ∈ k.rivals, q.lost = false ∧ q.score.isSome = true)
      ∧ ∃ r, k.rivals[if v = 3 then 0 else 1]? = some r ∧ r.score = some 3 ∧ (scored v).rivalDone r = true)
      ∧ ((scored 3).setReq me0 { Requester.reset with kept := (unacked.req unacked.me).kept }).rivalDone ⟨[1], 1, none, false, none, false, [], none⟩ = false
      ∧ (∃ k r x, fget rivals.forks 9 = some k ∧ k.rivals[0]? = some r ∧ fget rivals.trusses 1 = some x ∧ 1 ∈ r.trusses
        ∧ (∀ z ∈ rivals.forks, z.2.outer ≠ some 9))
      -- A panel-table entry that is there, of tensor 0, and one that is not.
      ∧ rooted.leafAt 0 0 0 = some 0xC000 ∧ rooted.leafAt 0 0 0x200000 = none
      ∧ (match rooted.guestWord 0 0xC000, rooted.guest 0 0xC000 with
        | .ok _, .ok h => decide (h % 8 = 0) && !descIsVoid (rooted.mem.block (.hbm h)).2
        | _, _ => false) = true
      ∧ (∃ v, fget (tagless.part 0).views 1 = some v)
      -- A rival's core at NOTIFY, at CADD and at CPY, with room in the outbox and without.
      ∧ (let s := deferring 0x38
        (∃ x, s.trussOf s.cur = some x ∧ x.fork = some 9 ∧ 0 < x.depth) ∧ (∃ k, fget s.forks 9 = some k) ∧ s.hazOn s.cur = false
          ∧ s.outboxCount 4 (some 9) (s.page s.cur).truss = 0 ∧ 64 ≤ (stuffed s).outboxCount 4 (some 9) (s.page s.cur).truss
          ∧ NotStepping s ∧ (s.core.rd 1).toNat < 256 ∧ s.core.stage = 0 ∧ s.core.failed = false ∧ (s.core.rd 1).toNat % 8 = 0
          ∧ (s.xlate (bayOf s.cur) s.curPart s.curView 0 0).1 = .leaf 0x10001 ∧ leafTgt 0x10001 ≠ 2 ∧ leafRo 0x10001 = false
          ∧ leafSh 0x10011 = true) := by
  refine ⟨?_, by decide +kernel, ⟨_, _, _, rfl, rfl, rfl, by decide, by decide +kernel⟩, by decide +kernel, by decide +kernel,
    by decide +kernel, ⟨_, rfl⟩, ?_⟩
  · rintro v (rfl | rfl) <;>
      exact ⟨by decide +kernel, _, _, rfl, rfl, by decide +kernel, by decide +kernel, by decide +kernel, by decide +kernel,
        by decide +kernel, _, rfl, by decide +kernel, by decide +kernel⟩
  · refine ⟨⟨_, rfl, by decide +kernel, by decide +kernel⟩, ⟨_, rfl⟩, by decide +kernel, by decide +kernel, by decide +kernel,
      .inl (by decide +kernel), ?_⟩
    decide +kernel

/-- R313, R325, R326, R328, R369: an answer ends the wait; a copy is released; a stall. -/
theorem test_requesters :
    got (exec (.dataPkt 9) (inbox ans (waits none one))) (fun t => t.core.wait.isNone && decide (t.core.resp.length = 1)) = true
      ∧ got (exec (.dataPkt 9) (inbox ans one)) (fun t => decide ((t.part 0).late = 0)) = true
      ∧ got (exec (.dataPkt 9) (inbox { ans with life := 1 } one)) (fun t => decide ((t.part 0).late = 1)) = true
      ∧ got (exec (.arespPkt 9) (inbox (toMe .aresp 0) (waits none one))) (fun t => t.core.wait.isNone) = true
      ∧ got (exec (.ackPkt 9) (inbox (answer .ack) (keeps (wr0 []) none one))) (fun t => (t.req me0).kept.isEmpty) = true
      ∧ got (exec (.resendPkt 9) (inbox (answer .resend) (keeps (wr0 []) none one))) (fun t =>
        decide ((t.req me0).kept.map Retained.due = [some (one.now + 64)])) = true
      ∧ got (exec (.resendPkt 9) (inbox (answer .resend) one)) (fun t => decide ((t.part 0).late = 0)) = true
      ∧ got (exec (.resendPkt 9) (inbox { answer .resend with life := 1 } one)) (fun t => decide ((t.part 0).late = 1)) = true
      ∧ got (exec (.ownernakPkt 9) (inbox (toMe .ownernak 0) (waits none one))) (fun t =>
        decide ((t.req me0).stall = some (.owner 0))) = true := by decide +kernel

/-- A packet at its source, whose next output is 1. -/
def ready (p : Packet) (s : State) : State := { s with packets := fput s.packets 9 { p with path := [1] } }

/-- A packet that fills output 1's queue of its class. -/
def big (cls : Nat) : Packet :=
  { Packet.blank .write 0 me0 (homeAgent 1) cls with vec := List.replicate (Config.queueCapacity + 1) 0, at_ := some 1 }

/-- Output 1 with it. -/
def crowded (cls : Nat) (s : State) : State :=
  { s.setOut 1 ((s.out 1).setQueue cls [8]) with packets := [(8, big cls)] }

theorem big_bytes (cls : Nat) : Config.queueCapacity < (big cls).bytes := by
  have h : ((List.replicate (Config.queueCapacity + 1) (0 : BitVec 32)).map fun v => toBytes 4 v.toNat).flatten.length
      = 4 * (Config.queueCapacity + 1) := by
    simp [toBytes_length, Nat.mul_comm]
  unfold Packet.bytes Packet.wire
  simp only [List.length_append]
  have : (big cls).vec = List.replicate (Config.queueCapacity + 1) 0 := rfl
  rw [this, h]
  omega

theorem crowded_used (cls : Nat) (h : cls = 0 ∨ cls = 1) (p : Packet) :
    Config.queueCapacity < Claims.Queued (ready p (crowded cls one)) 1 cls := by
  have e : (ready p (crowded cls one)).queuePkts 1 cls = [(8, big cls)] := by
    rcases h with rfl | rfl <;> rfl
  unfold Claims.Queued
  rw [e]
  exact big_bytes cls

/-- An empty queue takes a packet; a queue over its capacity holds one of C0 back and trims one of C1; an output has
failed; C0 has no room for a packet trimmed. -/
theorem witness_OutputQueues :
    (fget (ready (wr0 []) one).packets 9 = some { wr0 [] with path := [1] } ∧ (one.out 1).inject = 0
      ∧ (one.out 1).failed = false ∧ (one.retain { wr0 [] with path := [1] }).isSome = true
      ∧ Claims.Queued (ready (wr0 []) one) 1 1 = 0 ∧ 4 * 0 ≤ 3 * Config.queueCapacity)
      ∧ (∀ cls, cls = 0 ∨ cls = 1 → Config.queueCapacity < Claims.Queued (ready (wr0 []) (crowded cls one)) 1 cls)
      ∧ (wr0 []).op ≠ .read ∧ 0 < (wr0 []).len
      ∧ (∀ s o c q, s = one → (s.queuePkts o c) = [] → s.mostOver o c { wr0 [] with path := q } = 0)
      ∧ ((one.setOut 1 { one.out 1 with failed := true }).out 1).failed = true := by
  refine ⟨⟨rfl, by decide +kernel, by decide +kernel, by decide +kernel, by decide +kernel, by omega⟩,
    fun c h => crowded_used c h _, by decide, by decide, ?_, by decide +kernel⟩
  intro s o c q hs h
  unfold State.mostOver
  rw [h]
  subst hs
  simp only [List.map_nil, List.nil_append]
  exact List.foldlRecOn (motive := fun b => b = 0) (List.range 48) _ rfl fun b hb a _ => by
    subst hb
    by_cases ha : a = 0
    · subst ha
      split <;> rfl
    · have : ((0 : Nat) == a) = false := by simpa using fun h => ha h.symm
      simp [wr0, toHome, Packet.blank, this]

/-- Time 3 200 000. -/
def late (s : State) : State := { s with now := 3200000 }

theorem witness_Repeats :
    let s := keeps (wr0 []) (some 3200000) one
    let w := late (waits (some 3200000) one)
    ((s.req me0).rereq < 8 ∧ ((s.req me0).kept[0]?).map Retained.due = some (some 3200000) ∧ s.now < 3200000
      ∧ 3200000 ≤ (late s).now)
      ∧ (((w.req me0).win[0 - (w.req me0).kept.length]?).map WinEntry.due = some (some 3200000) ∧ (w.req me0).kept.length ≤ 0)
      ∧ (((one.setReq me0 { one.req me0 with rereq := 8 }).req me0).rereq = 8)
      ∧ (let w := late (waits none one)
        (w.req me0).stall = none ∧ ((w.req me0).entry 5).map WinEntry.sent = some 0
          ∧ ((w.req me0).entry 5).map WinEntry.due = some none ∧ 0 + 3200000 ≤ w.now)
      ∧ ((w.req me0).stall = none ∧ (((w.req me0).entry 5).map WinEntry.due).isSome = true)
      ∧ (let k := late (keeps (wr0 []) none one)
        (k.req me0).entry 0 = none ∧ ((k.req me0).kept.find? (fun y => decide (y.seq.toNat = 0) && y.due.isNone
          && decide (y.sent + 3200000 ≤ k.now))).isSome = true)
      ∧ ¬ Claims.SpanPort me0 := by
  unfold Claims.SpanPort
  dsimp only
  decide +kernel

/-- R326, R327, R412: a retransmission, a failed read, an abandoned write. -/
theorem test_repeats :
    sent (exec (.retransmit me0 0) (late (keeps (wr0 []) (some 3200000) one))) one (fun q => q.op == .write && q.retry) = true
      ∧ got (exec (.responseTimeout me0 5) (late (waits none one))) (fun t => t.core.failed && t.core.wait.isNone) = true
      ∧ sent (exec (.responseTimeout me0 0) (late (keeps (wr0 []) none one))) one (fun q => q.op == .abandon) = true := by
  decide +kernel

/-- A packet stands in the output of the link from bay 0 to bay 1, which has failed its check n times. -/
def onLink (n : Nat) (s : State) : State :=
  { s.setOut 1 { (s.out 1).setQueue 1 [9] with replays := n } with packets := [(9, { wr0 [] with at_ := some 1 })] }

theorem witness_Errors :
    (∀ n, n = 6 ∨ n = 7 → fget (onLink n one).packets 9 = some { wr0 [] with at_ := some 1 } ∧ (1 : Nat) / 8 ≠ 1 % 8
      ∧ ((onLink n one).out 1).failed = false ∧ ((onLink n one).out 1).replays = n)
      ∧ homeBay ((2 ^ 31 - 1) * 64) = 0 ∧ homeBay (2 ^ 31 * 64) = 1 := by
  refine ⟨?_, by decide +kernel⟩
  rintro n (rfl | rfl) <;> decide +kernel

/-- R409, R412: seven replays, then the link is marked; POISON by a scrub. -/
theorem test_errors :
    got (exec (.linkReplay 9) (onLink 6 one)) (fun t => decide ((t.out 1).replays = 7) && !(t.out 1).failed) = true
      ∧ got (exec (.linkReplay 9) (onLink 7 one)) (fun t => (t.out 1).failed && t.packets.isEmpty) = true
      ∧ got (exec (.backgroundScrub 0 2 [1]) one) (fun t => decide ((t.mem.block (.hbm 0x40)).2 = descPoison)
        && decide ((t.bay 0).errors = 3)) = true := by decide +kernel

/-- Span port 1 of bay 0. -/
def spanPort : AgentId := ⟨0, 0x1C1, 0⟩

/-- A message of tag 5 from it. -/
def message : Packet := { Packet.blank .span 0 spanPort (homeAgent 0) 1 with tag := 5, len := 64 }

/-- An answer to it. -/
def toSpan (op : PktOp) : Packet := { Packet.blank op 0 (homeAgent 0) spanPort 0 with tag := 5 }

/-- The port retains the message; an answer has come. -/
def spanned (op : PktOp) : State := inbox (toSpan op) { one with spans := [(1, [⟨0, 0, message, 0, none, none⟩])] }

theorem witness_UnitPackets :
    (∀ tr : Bool, arrivesB .span { toHome .span 0 with trim := tr } (inbox { toHome .span 0 with trim := tr } one) = true
      ∧ arrivesB .move { toHome .move 0 with trim := tr } (inbox { toHome .move 0 with trim := tr } one) = true
      ∧ arrivesB .coll { toHome .coll 0 with trim := tr } (inbox { toHome .coll 0 with trim := tr } one) = true)
      ∧ (∀ op, op = .spanack ∨ op = .spanresend → arrivesB op (toSpan op) (spanned op) = true
        ∧ ((spanned op).keptFor spanPort (toSpan op)).isSome = true ∧ (∀ z ∈ (spanned op).reqs, z.2.unsent = []))
      ∧ Claims.SpanPort spanPort := by
  refine ⟨by decide +kernel, ?_, .inr rfl⟩
  rintro op (rfl | rfl) <;> decide +kernel

/-- R325 to R327: a message leaves its port once retained there; answers; a message due again after 64 cc. -/
theorem test_unit_packets :
    sent (exec (.movePkt 9) (inbox (toHome .move 0) one)) one (fun q => q.op == .ack) = true
      ∧ sent (exec (.collPkt 9) (inbox { toHome .coll 0 with trim := true } one)) one (fun q => q.op == .resend) = true
      ∧ sent (exec (.spanPkt 9) (inbox (toHome .span 0) one)) one (fun q => q.op == .spanack) = true
      ∧ (one.retain message).map (fun t => (t.keptOf spanPort).length) = some 1
      ∧ got (exec (.spanackPkt 9) (spanned .spanack)) (fun t => t.spans.isEmpty) = true
      ∧ got (exec (.spanresendPkt 9) (spanned .spanresend)) (fun t =>
        decide ((t.keptOf spanPort).map Retained.due = [some 64])) = true := by decide +kernel

/-- R318, R319, R321: a write of one block has OP 0x03 and 16 + 8 + 64 + 10 bytes, slot 2 and generation 3 above the offset
0x40; a tag of store port 6, the third of its agent, has 2 above it. -/
theorem test_wire :
    let k : Packet := { wr0 [] with tag := 5, slot := 2, gen := 3, off := 0x40 }
    k.tagField = 5 ∧ k.op.code = 3 ∧ k.bytes = 98 ∧ k.addrWord = 0x0300020000000040
      ∧ ({ k with src := portAgent 0 6 }).tagField = 0x805 := by
  decide +kernel

/-! ### Ports and engines at work -/

/-- Port 0 of page 0 has read its stream's four points of tensor 0; all but the points' SCALE are in. -/
def reading : State :=
  let s := issueAhead 0 0 64 (port 0 0 (fun y => { y with act := some sStream }) mapped)
  let a := portAgent 0 0
  let r := s.req a
  s.setReq a { r with win := r.win.map fun e => { e with got := some ([⟨.hbm 0x10000, 7, descUint8, fullMask, 1⟩], [], 0) } }

theorem witness_Deliveries :
    let s := reading
    let y := (s.page 0).port 0
    let held (b : Bool) := if s.inMove 0 then s else issueAhead 0 0 64 (if b then s else s)
    let g := s.streamGeo 0 (y.act.getD sStream)
    let bs := pointBlocks sStream.bytes g 0
    s.fabricRuns 0 = true ∧ held true = s ∧ y.queue.length < 4 ∧ y.rest = [] ∧ y.burst = none
      ∧ y.act.map Stream.issued = some 4 ∧ bs = [0] ∧ (s.trussOf 0).map Truss.part = some 0
      ∧ ((y.act.getD sStream).tags.take 1).filterMap (s.req (portAgent 0 0)).entry
        = ((s.req (portAgent 0 0)).win.take 1) ∧ ((s.req (portAgent 0 0)).win.take 1).map WinEntry.failed = [false]
      ∧ fmtListed (fmtOf descUint8) = true ∧ dFmt sStream.bytes = 0xFF#8
      ∧ mkDesc 0x7F#8 (fmtOf descUint8) = descUint8 ∧ dBlen sStream.bytes % 64 = 0
      ∧ 4 ≤ ((port 0 0 (fun y => { y with queue := [tok, tok, tok, tok] }) s).page 0 |>.port 0).queue.length := by
  dsimp only
  decide +kernel

/-- The data of a point inside its tensor: each byte is a slot's; tensor 0 holds it whole. -/
theorem witness_PointLanes :
    let g := mapped.geo 0 0
    (0 : Nat) < 64 / fmtBytes (streamFmt sStream.bytes g) ∧ slotOff g (dCoord sStream.bytes 0) 63 = some 63
      ∧ slotOff { g with ext := [4, 1, 1, 1] } (dCoord sStream.bytes 0) 4 = none
      ∧ dPad sStream.bytes = false := by
  dsimp only
  decide +kernel

/-- R146: the burst's SCALE token comes first, then the point's DATA. -/
theorem test_deliveries :
    got (exec (.loadPortDeliver 0 0) reading) (fun t =>
        decide ((((t.page 0).port 0).queue.map Token.kind) = [1]) && decide (((t.page 0).port 0).count = 0)) = true
      ∧ got (exec (.loadPortDeliver 0 0) reading) (fun t => got (exec (.loadPortDeliver 0 0) t) fun u =>
        decide ((((u.page 0).port 0).queue.map Token.kind) = [1, 0]) && decide (((u.page 0).port 0).count = 1)) = true := by
  decide +kernel

/-- Port 4 of page 0 has a token to store. -/
def storing (tk : Token) (f : Port → Port) : State :=
  port 0 4 (fun y => f { y with queue := [tk], act := some sStream, burst := some ⟨fmtOf descUint8, 0x7F, 0, 0, false⟩ }) mapped

/-- A store's blocks have their places. -/
def placed (r : StoreX × State) (b : Nat) : Bool :=
  match r.1 with
  | .ok [(k, some _)] => k == b
  | _ => false

theorem witness_Acceptances :
    let s := storing tok id
    (s.fabricRuns 0 = true ∧ ((s.page 0).port 4).queue = [tok] ∧ ((s.page 0).port 4).discard = false ∧ tok.valid ≠ 0
      ∧ tok.out = false ∧ tok.lost = false ∧ ((s.page 0).port 4).buf = [] ∧ sStream.pos < dPoints sStream.bytes
      ∧ fmtOf descUint8 ≠ 0#8 ∧ dFmt sStream.bytes = 0xFF#8 ∧ fmtBytes (fmtOf descUint8) ≤ (s.streamGeo 0 sStream).width
      ∧ tokenBlocks (s.streamGeo 0 sStream) (dCoord sStream.bytes 0) 1 64 = [0]
      ∧ (tokenBlock (s.streamGeo 0 sStream) (dCoord sStream.bytes 0) 1 64 0 tok).2 ≠ 0
      ∧ (s.req (portAgent 0 4)).stall = none ∧ (s.req (portAgent 0 4)).kept.length + (s.req (portAgent 0 4)).unsent.length ≤ 30
      ∧ storeLanes sStream.bytes (s.streamGeo 0 sStream) (dCoord sStream.bytes 0) 1 64 &&& tok.valid = 1
      ∧ ((s.trussOf 0).map fun t => placed (storeXlate 0 4 sStream t (s.streamGeo 0 sStream) [0] s) 0) = some true)
      ∧ ((storing tok fun y => { y with act := none }).page 0 |>.port 4).act = none
      ∧ ((storing tok fun y => { y with discard := true }).page 0 |>.port 4).discard = true
      ∧ (tok.words.map Prod.fst).head? = some 0 := by
  dsimp only
  decide +kernel

/-- R82, R144, R257, R266: a store token, one to be discarded, a misplaced one. -/
theorem test_acceptances :
    got (exec (.storePortAccept 0 4) (storing tok id)) (fun t =>
        decide (((t.page 0).port 4).count = 1) && decide ((((t.page 0).port 4).buf.map BlockW.phys) = [.hbm 0x10000])) = true
      ∧ got (exec (.storePortAccept 0 4) (storing tok fun y => { y with discard := true })) (fun t =>
        ((t.page 0).port 4).queue.isEmpty && ((t.page 0).port 4).buf.isEmpty) = true
      ∧ got (exec (.storePortAccept 0 4) (storing { tok with kind := 1 } fun y => { y with act := none })) (fun t =>
        !((t.page 0).port 4).queue.isEmpty) = true
      ∧ got (exec (.storePortAccept 0 4) (storing { tok with kind := 3 } id)) (fun t =>
        (((fget t.launches 2).bind Launch.failure).map Prod.fst) == some 3) = true := by decide +kernel

/-- A stream at its last point: of a load port, with a pending one, and with or without a completion token. -/
def ended (crx : Bool) : Stream :=
  { sStream with bytes := sBytes 1 0 |>.set 7 (if crx then 10 else 2), pos := 4 }

/-- Port 0 with it. -/
def ending (c : Bool) : State := port 0 0 (fun y => { y with act := some (ended c), pend := some sStream, count := 4 }) one

/-- The port owes the completion token of a stream that was stopped. -/
def owing : State := port 0 0 (fun y => { y with owed := [(1, tok)] }) (ending true)

theorem witness_Finishes :
    (∀ c, (ending c).fabricRuns 0 = true ∧ ((ending c).trussOf 0).isSome = true ∧ (((ending c).page 0).port 0).act = some (ended c)
      ∧ (((ending c).page 0).port 0).buf = [] ∧ (ending c).streamDone 0 0 = true ∧ dCrx (ended c).bytes = c
      ∧ ((ending c).page 0).crxHeld < 4 ∧ (((ending c).part 0).slot 0).state ≠ 2 ∧ (((ending c).page 0).port 0).owed = [])
      ∧ 4 ≤ ((page 0 (fun p => { p with crx := [tok, tok, tok, tok] }) (ending true)).page 0).crxHeld
      ∧ ((owing.page 0).port 0).owed = [(1, tok)] ∧ tok.kind = 0 ∧ (owing.page 0).crxHeld < 4
      ∧ (page 0 (fun p => { p with crx := [tok, tok, tok, tok] }) (ending true)).streamDone 0 0 = true := by
  decide +kernel

/-- R147, R156. -/
theorem test_finishes :
    got (exec (.streamFinish 0 0) (ending true)) (fun t => decide ((t.page 0).crx.map Token.out = [true])
      && decide (((t.page 0).port 0).act = some sStream) && t.core.event) = true
      ∧ got (exec (.streamFinish 0 0) owing) (fun t => decide ((t.page 0).crx = [tok])
        && decide (((t.page 0).port 0).act = some (ended true))) = true := by decide +kernel

/-- A COMMAND token: CPY, any copy engine, descriptor at 0x40; a malformed one. -/
def cmdTok (bad : Bool) : Token := { dataToken (0x40 * 2 ^ 32 + if bad then 9 else 0) 7 0 with kind := 3 }

/-- The truss of page 0. -/
def tr0 : Truss := ⟨2, 0, 1, 1, 0, 0, 0, .running, 1, 0, 0, 0, none, 0, none, false, 0, true, [], false, [], [], 0⟩

/-- A CPY from tile 1 to tile 2 of element 5: one block of 64 bytes, complete at .B, DPLATE and SPLATE. -/
def pBytes : List Byte :=
  toBytes 64 (5 * 64 + 1 + (5 * 64 + 2) * 2 ^ 32 + 0x43 * 2 ^ 64 + 64 * 2 ^ 96 + 1 * 2 ^ 160 + 1 * 2 ^ 288)

/-- Its command. -/
def pCmd (drain : Bool) : EngCmd := { EngCmd.start 0 pBytes tr0 1 0 (some 3) with draining := drain, order := [0] }

/-- Engine 0 of bay 0 runs it. -/
def engaged (drain : Bool) : State :=
  { core (fun c => { c with tickets := [(3, 0)] }) one with
    engines := [(0, ⟨[pCmd drain], false⟩)] }

/-- Its engine's write of a tile is not acknowledged. -/
def unfinished : State :=
  (engaged true).setReq (engAgent 0) { Requester.reset with
    kept := [⟨0, 0, Packet.blank .write 0 (engAgent 0) (homeAgent 0) 0, 0, none, none⟩] }

theorem witness_Commands :
    (∀ bad, let s := page 0 (fun p => { p with cmd := [cmdTok bad] }) one
      s.fabricRuns 0 = true ∧ s.inMove 0 = false ∧ (s.page 0).cmd = [cmdTok bad] ∧ (s.trussOf 0).isSome = true
        ∧ (cmdTok bad).kind = 3 ∧ (cmdTok bad).packet = if bad then none else some (0, 0, 0x40, false))
      ∧ one.chooseEngine 0 0 0 = some 0
      ∧ ({ one with engines := (List.range 4).map fun k => (k, ⟨[], true⟩) }).chooseEngine 0 0 0 = none
      ∧ (∀ d, let s := engaged d
        (fgetD s.engines 0 Engine.reset).cmds = [pCmd d] ∧ (fget s.trusses 1).isSome = true
          ∧ (s.req (engAgent 0)).stall = none ∧ (pCmd d).bytes ≠ [] ∧ (pCmd d).draining = d
          ∧ ((fget s.trusses 1).bind fun t => s.engSides 0 pBytes t 0) = some (.plate 0 5 1, .plate 0 5 2))
      ∧ (engaged true).completeAtScope (engAgent 0) 2 = true ∧ unfinished.completeAtScope (engAgent 0) 2 = false
      ∧ (pCmd false).order[0]? = some 0 ∧ ({ pCmd false with pos := 1 }).order[1]? = none
      ∧ ({ pCmd false with pos := 1 }).rest (.plate 0 5 2) ((pCmd false).plan (.plate 0 5 1) (.plate 0 5 2)).1 = []
      ∧ ({ pCmd false with order := [] }).rest (.plate 0 5 2) ((pCmd false).plan (.plate 0 5 1) (.plate 0 5 2)).1 = [0] := by
  dsimp only
  decide +kernel

/-- R156: a taken command. -/
theorem test_command_taken :
    got (exec (.engineTakeCommand 0) (page 0 (fun p => { p with cmd := [cmdTok false] }) one)) (fun t =>
      decide ((fgetD t.engines 0 Engine.reset).cmds.length = 1)) = true := by decide +kernel

/-- R152: a block from tile to tile. -/
theorem test_command_block :
    got (exec (.engineCommandComplete 0 0) (page 0 (fun p => { p with tiles := [(5 * 64 + 1, ⟨2, [(0, (7, descUint8))]⟩)] })
      (engaged false))) (fun t => decide (((t.page 0).tile 5 2).block 0 = (7, descUint8))) = true := by decide +kernel

/-- R18, R155: its completion. -/
theorem test_command_done :
    got (exec (.engineCommandComplete 0 0) (engaged true)) (fun t => decide (((t.page 0).tile 5 2).state = 1)
      && decide (((t.page 0).tile 5 1).state = 0) && decide (fget t.core.tickets 3 = some 1)) = true := by decide +kernel

/-- Contributions of one value each, 1 and 2, INT32 SUM, P = 2. -/
def give (rank v eng : Nat) (op : Nat) : Contribution :=
  ⟨0, 9, 4, rank, 2, op, 1, 0x04, [some (.ofInt v)], eng, 0, some rank⟩

/-- Their commands. -/
def gCmd (rank : Nat) : EngCmd :=
  { EngCmd.start 3 (toBytes 64 (9 * 2 ^ 96 + rank * 2 ^ 112 + 4 * 2 ^ 320)) tr0 1 0 (some rank) with phase := 1 }

/-- The group at its engines. -/
def group (l : List Contribution) : State := { one with groups := l, engines := [(5, ⟨[gCmd 0], false⟩), (13, ⟨[gCmd 1], false⟩)] }

theorem witness_Reductions :
    (group [give 0 1 5 0]).groupOf 0 9 4 = [give 0 1 5 0]
      ∧ (let l := [give 0 1 5 0, give 1 2 13 0]
        (group l).groupOf 0 9 4 = l ∧ (∀ y ∈ l, y.p = 2 ∧ y.op = 0 ∧ y.count = 1 ∧ y.fmt = 0x04#8)
          ∧ (l.map Contribution.rank).Nodup ∧ l.length = 2)
      ∧ (give 1 2 13 1).op ≠ (give 0 1 5 0).op
      ∧ gGroup (gCmd 1).bytes = 9 ∧ gSeq (gCmd 1).bytes = 4 ∧ gRank (gCmd 1).bytes = 1 := by
  dsimp only
  decide +kernel

/-- R154: 1 + 2 = 3 at both. -/
theorem test_reductions :
    got (exec (.reduceCombine 0 9 4) (group [give 0 1 5 0, give 1 2 13 0])) (fun t => t.groups.isEmpty
      && decide ((fgetD t.engines 13 Engine.reset).cmds.map EngCmd.vals = [[some (.ofInt 3)]])
      && decide ((fgetD t.engines 5 Engine.reset).cmds.map EngCmd.phase = [2])) = true
      ∧ got (exec (.reduceCombine 0 9 4) (group [give 0 1 5 0, give 1 2 13 1])) (fun t => t.groups.isEmpty
        && decide ((fgetD t.engines 13 Engine.reset).cmds.map EngCmd.status = [3])) = true := by decide +kernel

/-- View 1 of partition 0 copies panel 0 of tensor 0 to guest panel 5, and has come to block n. -/
def copying (n : Nat) : State := part (fun p => { p with views := [(1, ⟨0, [], [(0, 0, 5, n)], 2, false, none⟩)] }) mapped

/-- It may. -/
def mayCopy (n : Nat) : Bool :=
  let s := copying n
  match (s.xlate 0 0 0 0 0).1, s.guest 0 (5 * 2 ^ 16 + 64 * n) with
  | .leaf e, .ok _ =>
    match s.placeOf 0 e (64 * n) with
    | .ok p => s.mayServe 0 p
    | .error _ => false
  | _, _ => false

theorem witness_PanelCopies :
    ((fget ((copying 1023).part 0).views 1).bind fun v => v.copying.find? (fun o => o.1 == 0 && o.2.1 == 0))
        = some (0, 0, 5, 1023)
      ∧ ((fget ((copying 1022).part 0).views 1).bind fun v => v.copying.find? (fun o => o.1 == 0 && o.2.1 == 0))
        = some (0, 0, 5, 1022)
      ∧ mayCopy 1022 = true ∧ mayCopy 1023 = true := by decide +kernel

/-- R438: the last block; the view owns the panel. -/
theorem test_panel_copies :
    got (exec (.panelCopy 0 1 0 0) (copying 1023)) (fun t =>
      decide ((fget (t.part 0).views 1).map View.overlay = some [(0, 0, 5)])) = true := by decide +kernel

/-! ### Queues, items and windows -/

/-- Bytes at a tensor-0 address of partition 0. -/
def put (a n v : Nat) (s : State) : State := s.t0Put 0 a n v

/-- A change of queue 63 of function 0. -/
def queue (f : Queue → Queue) (s : State) : State := s.modQueue 63 f

/-- A change of function 0. -/
def vf0 (f : VF → VF) (s : State) : State := s.setVf 0 (f (s.vf 0))

theorem witness_Notifications :
    Claims.Attached queued 0 0 ∧ fget queued.queues (qKey 0 62) = none ∧ qKey 0 63 = 63
      ∧ ((fget queued.queues 63).map fun x => (x.slot, x.notes, x.stopped, x.items.length)) = some (true, [], false, 0)
      ∧ ((fget (queue (fun x => { x with notes := [0] }) queued).queues 63).map Queue.notes) = some [0]
      ∧ (let s := { queue (fun x => { x with starve := some (5, false) }) queued with now := 1600005 }
        (s.sendEvent 0 ⟨3, BitVec.ofNat 64 63, 0⟩).1 = true
          ∧ (fget s.queues 63).bind Queue.starve = some (5, false) ∧ 5 + 1600000 ≤ s.now ∧ queued.now < 5 + 1600000) := by
  unfold Claims.Attached
  dsimp only
  decide +kernel

/-- R335, R336, R344: an item published with PUB = 1 in slot 0 of the ring is taken; one with another PUB is not; a stale
notification is counted. -/
theorem test_notifications :
    got (exec (.scan 0 63) (put 0x100 8 1 (queue (fun x => { x with notes := [1], bytes := toBytes 64 0x100 }) queued))) (fun t =>
        decide ((fget t.queues 63).map (fun x => (x.head, x.items.map Item.n)) = some (1, [0]))) = true
      ∧ got (exec (.scan 0 63) (put 0x100 8 2 (queue (fun x => { x with notes := [1], bytes := toBytes 64 0x100 }) queued))) (fun t =>
        decide ((fget t.queues 63).map (fun x => (x.head, x.items.length)) = some (0, 0))) = true
      ∧ got (exec (.scan 0 63) (queue (fun x => { x with notes := [0] }) queued)) (fun t =>
        decide ((fget t.queues 63).map Queue.stale = some 1)) = true
      ∧ got (exec (.notifyPageWrite 0 62 1) queued) (fun t => decide ((t.vf 0).badnote = 1)) = true := by decide +kernel

/-- A queue descriptor at tensor-0 address 0x40: rings of 2 entries. -/
def described : State := put 0x48 2 0x0101 (vf0 (fun x => { x with qdesc := 0x40 }) queued)

theorem witness_QueueControl :
    Claims.Attached described 0 0 ∧ fget described.queues (qKey 0 62) = none
      ∧ ((described.t0Read 0 (described.vf 0).qdesc.toNat 64).map qDescOk) = some true
      ∧ ((queued.t0Read 0 (queued.vf 0).qdesc.toNat 64).map qDescOk) = some false
      ∧ (fget described.queues (qKey 0 63)).map Queue.items = some [] := by
  unfold Claims.Attached
  decide +kernel

/-- R345, R347. -/
theorem test_queue_control :
    got (exec (.queueCreate 0 62) described) (fun t => (fget t.queues (qKey 0 62)).isSome && decide ((t.vf 0).qstat = 62 * 256)) = true
      ∧ got (exec (.queueCreate 0 63) described) (fun t => decide ((t.vf 0).qstat = 63 * 256 + 48)) = true
      ∧ got (exec (.queueDestroy 0 63) described) (fun t => (fget t.queues (qKey 0 63)).isNone) = true := by decide +kernel

/-- Item 0 of queue 63 is held: its CMD, and its words at bytes 24 and 32. -/
def packet (cmd a v : Nat) : Item := ⟨0, toBytes 64 (cmd * 2 ^ 64 + a * 2 ^ 192 + v * 2 ^ 256), .held, 0, 0, false, 0, 0, 0⟩

/-- The queue with it. -/
def holds (l : List Item) (s : State) : State := queue (fun x => { x with items := l }) s

theorem witness_Records :
    ((fget (holds [packet 8 0 0] queued).queues 63).map Queue.items) = some [packet 8 0 0]
      ∧ iContinue (packet 8 0 0).bytes = false ∧ iCtr (packet 8 0 0).bytes = 0
      ∧ ((fget queued.queues 63).map fun x => queued.recordRoom 63 x 0) = some true
      ∧ ((holds [packet 8 0 0] queued).t0Write 0 0 (List.replicate 32 0)).isSome = true := by decide +kernel

/-- PRED 0 of no node: an image of no section at 0x200 (R91). -/
def imaged : State :=
  put 0x210 4 0x11FA440 (put 0x208 8 0x4000000101 (put 0x200 8 0x149544441
    (part (fun p => { p with record := 1 :: List.replicate 63 0 }) queued)))

/-- Job 0x40, and job 0 of launches that name none, is cancelled. -/
def cancelled (s : State) : State := { s with jobs := [⟨0, 0x40, true, none, false, none, []⟩, ⟨0, 0, true, none, false, none, []⟩] }

theorem witness_Items :
    (let s (i : Item) := holds [i] queued;
      (s (packet 8 1 0)).servedNext = some (63, packet 8 1 0) ∧ packetOk (packet 8 1 0).bytes = false
        ∧ (∀ c ∈ [3, 4, 6], Claims.Begins (s (packet c 0x40 0)) 0 63 (packet c 0x40 0))
        ∧ Claims.Begins (s (packet 5 0x40 0)) 0 63 (packet 5 0x40 0) ∧ Claims.Begins (s (packet 8 0 0)) 0 63 (packet 8 0 0)
        ∧ (s (packet 4 0x40 0)).t0Nat 0 0x40 8 = some 0
        ∧ (s (packet 3 0x40 0)).waitMet 63 (packet 3 0x40 0) = true ∧ (s (packet 3 0x40 1)).waitMet 63 (packet 3 0x40 1) = false)
      ∧ (let s := put 0x48 8 1 (put 0x60 8 1 (holds [packet 5 0x40 0] queued))
        s.jobWord 0 0x40 16 = leAt (packet 5 0x40 0).bytes 32 8 ∧ s.jobWord 0 0x40 32 ≠ 0
          ∧ s.jobWord 0 0x40 24 < s.jobWord 0 0x40 8 ∧ s.jobCancelled 0 0x40 = false ∧ (cancelled s).jobCancelled 0 0x40 = true)
      ∧ (let b (c : Nat) : Item := { packet c 0x40 0 with state := .begun }
        ([b 3].find? (fun j => decide (j.state = .begun) && decide (iCmd j.bytes = 3) && queued.waitMet 63 j)) = some (b 3)
          ∧ ([b 7].find? (fun j => decide (j.state = .begun) && decide (iCmd j.bytes = 7))) = some (b 7)) := by
  unfold Claims.Begins
  dsimp only
  decide +kernel

/-- R338, R339, R346, R350: SIGNAL adds, and its record is written; WAIT waits or completes; a malformed NOP stops its
queue. -/
theorem test_items :
    got (exec (.signalItem 0 63) (put 0x40 8 5 (holds [packet 4 0x40 3] queued))) (fun t =>
        decide (t.t0Nat 0 0x40 8 = some 8) && decide (t.t0Nat 0 0 8 = some 1)
          && decide ((fget t.queues 63).map Queue.items = some [])) = true
      ∧ got (exec (.waitItem 0 63) (holds [packet 3 0x40 1] queued)) (fun t =>
        decide ((fget t.queues 63).map (fun x => x.items.map Item.state) = some [.begun])) = true
      ∧ got (exec (.nopItem 0 63) (holds [packet 8 1 0] queued)) (fun t =>
        decide ((fget t.queues 63).map Queue.stopped = some true) && decide (t.t0Nat 0 8 8 = some 0x101)) = true
      ∧ got (exec (.phaseCommand 0 63) (put 0x48 8 1 (put 0x60 8 1 (holds [packet 5 0x40 0] queued)))) (fun t =>
        decide (t.jobWord 0 0x40 24 = 1)) = true
      ∧ got (exec (.phaseCommand 0 63) (cancelled (put 0x48 8 1 (put 0x60 8 1 (holds [packet 5 0x40 0] queued))))) (fun t =>
        decide (t.jobWord 0 0x40 24 = 0) && decide (t.t0Nat 0 8 8 = some 2)) = true := by decide +kernel

/-- A LAUNCH packet of NTRUSS 1, of an image. -/
def lPacket (img : Nat) : Item := ⟨0, toBytes 64 (2 ^ 64 + 1 * 2 ^ 96 + img * 2 ^ 192), .held, 0, 0, false, 0, 0, 0⟩

/-- What the check of a launch finds. -/
def check (s : State) (b : List Byte) : Nat :=
  match s.launchCheck 0 b with
  | .ok _ => 0
  | .error c => c

/-- A GRAPH packet of one node, its table at 0x300; the node's packet at 0x340. -/
def gPacket : Item := ⟨0, toBytes 64 (2 * 2 ^ 64 + 1 * 2 ^ 80 + 0x300 * 2 ^ 192), .held, 0, 0, false, 0, 0, 0⟩

/-- The table and the packet. -/
def tabled0 : State :=
  put 0x358 8 0x200 (put 0x348 8 0x100000001 (put 0x310 8 0xFF (put 0x300 8 0x340 (holds [gPacket] imaged))))

theorem witness_Launches :
    let ok := holds [lPacket 0x200] { imaged with launches := [] }
    let bad := holds [lPacket 0x240] { imaged with launches := [] }
    let g := { tabled0 with launches := [] }
    Claims.Begins ok 0 63 (lPacket 0x200) ∧ Claims.Begins bad 0 63 (lPacket 0x240) ∧ Claims.Begins g 0 63 gPacket
      ∧ check (ok.markBegun 63 0) (lPacket 0x200).bytes = 0 ∧ check (bad.markBegun 63 0) (lPacket 0x240).bytes = 2
      ∧ ((g.t0Read 0 0x300 32).map fun tab => ((pieces 32 1 tab).zipIdx).map fun z =>
          (g.graphNode 0 1 z.2 z.1).isSome) = some [true]
      ∧ ((ok.markBegun 63 0).openJob 0 0).jobCancelled 0 0 = false
      ∧ (((cancelled ok).markBegun 63 0).openJob 0 0).jobCancelled 0 0 = true := by
  unfold Claims.Begins
  dsimp only
  decide +kernel

/-- R91, R349, R350: a launch waits to be placed; one of no image fails with 0x02; a graph has its node. -/
theorem test_launches :
    got (exec (.launchItem 0 63) (holds [lPacket 0x200] { imaged with launches := [] })) (fun t =>
        decide (t.launches.map (fun l => (l.2.ntruss, l.2.placed)) = [(1, 0)])) = true
      ∧ got (exec (.launchItem 0 63) (holds [lPacket 0x240] { imaged with launches := [] })) (fun t =>
        decide (t.launches = []) && decide (t.t0Nat 0 8 8 = some 0x201)) = true
      ∧ got (exec (.graphItem 0 63) { tabled0 with launches := [] }) (fun t =>
        decide (t.graphs.map (fun g => g.2.nodes.length) = [1])) = true := by decide +kernel

/-- Graph 7 of the queue's begun item: node 0 in a state, node 1 after it. -/
def graphed (st : Nat) : State :=
  let b := (lPacket 0x200).bytes
  { holds [{ gPacket with state := .begun, work := 7 }] imaged with
    launches := [], graphs := [(7, ⟨0, 0, 63, 0, 0, 0, [(b, 0, 0xFF, st, 0), (b, 1, 0xFF, 0, 0)], false, none, false, []⟩)] }

theorem witness_Nodes :
    ∀ st, st = 1 ∨ st = 2 ∨ st = 3 →
      ((fget (graphed st).queues (qKey 0 (63 % 64))).bind fun x =>
        x.items.find? (fun j => decide (j.n = 0) && decide (j.state = .begun) && decide (iCmd j.bytes = 2))).map Item.work = some 7
      ∧ ((fget (graphed st).graphs 7).bind fun g => g.nodes[0]?).map (fun z => z.2.2.2.1) = some st
      ∧ ((fget (graphed st).graphs 7).bind fun g => g.nodes[1]?).map (fun z => (z.2.1, z.2.2.2.1)) = some (1, 0)
      ∧ check (graphed st) (lPacket 0x200).bytes = 0 ∧ ((graphed st).openJob 0 0).jobCancelled 0 0 = false
      ∧ ((cancelled (graphed st)).openJob 0 0).jobCancelled 0 0 = true ∧ ((graphed st).openJob 0 0).launchNamed 0 0 = false
      ∧ (({ graphed st with launches := one.launches }).openJob 0 0).launchNamed 0 0 = true := by
  rintro st (rfl | rfl | rfl) <;> decide +kernel

/-- R350: node 1 waits for node 0, begins after it, or completes without beginning. -/
theorem test_nodes :
    got (exec (.graphNodeBegin 0 63 0 1) (graphed 1)) (fun t => t.launches.isEmpty) = true
      ∧ got (exec (.graphNodeBegin 0 63 0 1) (graphed 2)) (fun t => decide (t.launches.length = 1)) = true
      ∧ got (exec (.graphNodeBegin 0 63 0 1) (cancelled (graphed 2))) (fun t => t.launches.isEmpty) = true
      ∧ got (exec (.graphNodeBegin 0 63 0 1) (graphed 3)) (fun t => t.launches.isEmpty
        && ((fget t.graphs 7).bind fun g => g.nodes[1]?).all fun z => z.2.2.2.1 == 3) = true := by decide +kernel

/-- Job block 0x40: NPART 1, arrived n, one phase left; launch 2 is of it, and its core waits. -/
def phased (n : Nat) : State :=
  put 0x48 8 1 (put 0x58 8 n (put 0x60 8 1 (launch (fun l => { l with job := 0x40, counted := true })
    (core (fun c => { c with wait := some (.phase 0) }) queued))))

theorem witness_PhasesAndCancels :
    ((phased 1).jobWord 0 0x40 24 = (phased 1).jobWord 0 0x40 8 ∧ (phased 1).jobWord 0 0x40 8 ≠ 0
      ∧ (phased 1).jobWord 0 0x40 32 ≠ 0 ∧ (phased 1).spans = [] ∧ (phased 1).jobOf 0 0x40 = none)
      ∧ (phased 0).jobWord 0 0x40 24 ≠ (phased 0).jobWord 0 0x40 8
      ∧ ((fget (phased 1).launches 2).map fun l => (l.part, l.job)) = some (0, 0x40)
      ∧ ((phased 1).page 0).core.wait = some (.phase ((phased 1).jobWord 0 0x40 16))
      ∧ ((phased 1).trussOf 0).map (fun x => (phased 1).heldPages 1 x) = some [0]
      ∧ one.launchTrusses 2 ≠ [] := by decide +kernel

/-- R359. -/
theorem test_phases :
    got (exec (.phaseEnd 0 0x40) (phased 1)) (fun t => t.core.wait.isNone && decide (t.core.stage = 2)
      && decide (t.jobWord 0 0x40 16 = 1) && decide (t.jobWord 0 0x40 24 = 0)) = true
      ∧ got (exec (.phaseEnd 0 0x40) (phased 0)) (fun t => t.core.wait.isSome) = true := by decide +kernel

/-- Slot 5 of partition 0's table in a state. -/
def slotted (st : Nat) (refs : Nat) : State :=
  part (fun p => p.setSlot 5 { p.slot 5 with state := st, refs := refs }) queued

/-- A descriptor of an INT32 vector of 4 stands in slot 5. -/
def drawn (s : State) : State := s.pokeBlock (.hbm (64 * 5)) (toBytes 64 (0x0401 + 4 * 2 ^ 64 + 0x4000 * 2 ^ 192))

theorem witness_TensorWindow :
    Claims.Attached queued 0 0 ∧ (queued.vf 0).twinv = none ∧ (queued.part 0).twslots.toNat = 16
      ∧ ((slotted 1 0).part 0 |>.slot 5).state = 1 ∧ ((slotted 1 3).part 0 |>.slot 5).refs = 3
      ∧ ((queued.slotBytes 0 5).map (descValid 5)) = some false
      ∧ (vf0 (fun x => { x with twinv := some (1, 0, 1, 0) }) queued |>.vf 0).twinv ≠ none
      ∧ (∀ z ∈ (queued.part 0).slots, z.1 = 0 ∨ z.2.state = 0)
      ∧ (∃ z ∈ ((slotted 1 0).part 0).slots, z.1 ≠ 0 ∧ z.2.state ≠ 0) ∧ (16 : BitVec 64).toNat = 2 ^ 4
      ∧ (65536 : BitVec 64).toNat = 2 ^ 16 := by
  unfold Claims.Attached
  decide +kernel

/-- R296 to R299: CREATE of a good descriptor; DESTROY with references; INVAL is idle when no access is under way. -/
theorem test_tensor_window :
    (((drawn queued).slotBytes 0 5).map (descValid 5)) = some true
      ∧ got (exec (.tensorCreate 0 5) (drawn queued)) (fun t => decide (((t.part 0).slot 5).state = 1)
        && decide ((t.vf 0).twstat = 0)) = true
      ∧ got (exec (.tensorDestroy 0 5) (slotted 1 3)) (fun t => decide (((t.part 0).slot 5).state = 2)
        && decide (((t.part 0).slot 5).gen = 1) && decide ((t.vf 0).twstat = 0x100)) = true
      ∧ got (exec (.inval 0 5) queued) (fun t => (t.vf 0).twinv.isNone) = true := by decide +kernel

/-- A page request 9 of partition 0, for the core of page 0, which stalls. -/
def requested : State :=
  let s := part (fun p => { p with reqs := [⟨9, 0, 0, 0, [(me0, false)]⟩] }) queued
  core (fun c => { c with wait := some (.stall (.fault 9)) })
    (s.setReq me0 { Requester.reset with stall := some (.fault 9) })

theorem witness_ViewWindow :
    Claims.Attached queued 0 0 ∧ (queued.part 0).pool.length + (queued.part 0).panelsHeld < 65536 ∧ (queued.part 0).starved = []
      ∧ (queued.part 0).pool = [] ∧ ((part (fun p => { p with pool := [7] }) queued).part 0).pool = [7]
      ∧ (∀ z ∈ queued.forks, ∀ r ∈ z.2.rivals, r.view ≠ 0) ∧ (∀ r ∈ (queued.part 0).reqs, r.rid ≠ 9)
      ∧ ((requested.part 0).reqs.find? fun r => r.rid == 9).isSome = true ∧ (requested.part 0).gen = 0
      ∧ (match requested.rootOf 0 0 with
        | .ok root => decide (requested.walk 0 root 0 ≠ .fault)
        | .error _ => true) = true
      ∧ (queued.stalled 0 fun st => decide (st = .owner 0)) = []
      ∧ ((queued.setReq me0 { Requester.reset with stall := some (.owner 0) }).stalled 0 fun st => decide (st = .owner 0)) ≠ []
      ∧ (queued.vf 0).eq.cons = 0 ∧ (queued.vf 0).eq.held = []
      ∧ ((vf0 (fun x => { x with eq := { x.eq with cons := 4 } }) queued).vf 0).eq.cons = 4 := by
  unfold Claims.Attached
  decide +kernel

theorem witness_Resumes : agentPage me0 = some (0, 0) ∧ agentLink me0 = none
    ∧ (requested.page 0).core.wait = some (.stall (.fault 9)) ∧ (requested.req me0).kept = [] := by decide +kernel

/-- R404, R405, R445. -/
theorem test_view_window :
    got (exec (.pransGrant 0 0 9) requested) (fun t => t.core.wait.isNone && !t.core.failed && (t.part 0).reqs.isEmpty) = true
      ∧ got (exec (.pransFail 0 0 9) requested) (fun t => t.core.wait.isNone && t.core.failed) = true
      ∧ got (exec (.vpadd 0 0x70000) queued) (fun t => decide ((t.part 0).pool = [7])) = true
      ∧ got (exec (.vptake 0) (part (fun p => { p with pool := [7, 8] }) queued)) (fun t => decide ((t.part 0).pool = [8])
        && decide ((t.vf 0).rdata = 0x70000)) = true := by decide +kernel

theorem witness_RegisterWrites :
    Claims.Attached queued 0 0 ∧ queued.pf.debug = false
      ∧ (let s := { queued with pf := { queued.pf with debug := true } }
        s.pf.injWait = [] ∧ s.hopFree 431 63 35 = true ∧ crossesSeam 431 63 35 = false
          ∧ s.hopFree 8 7 33 = true ∧ crossesSeam 8 7 33 = true
          ∧ (BitVec.ofNat 64 (63 + 431 * 2 ^ 6 + 35 * 2 ^ 15 + (2 ^ 32 - 1) * 2 ^ 32)).toNat
            = 63 + 431 * 2 ^ 6 + 35 * 2 ^ 15 + (2 ^ 32 - 1) * 2 ^ 32) := by
  unfold Claims.Attached
  decide +kernel

/-- R343, R368: alignment; an unlisted offset; a token injected. -/
theorem test_register_writes :
    got (exec (.registerWrite (.vf 0) 0x1000 0x47) queued) (fun t => decide ((t.vf 0).qdesc = 0x40)) = true
      ∧ got (exec (.registerWrite .pf 0x20 9) queued) (fun t => decide (t.pf.sealper = queued.pf.sealper)) = true
      ∧ got (exec (.hopinj 0x0000000700108005) { queued with pf := { queued.pf with debug := true } }) (fun t =>
        decide (((fgetD (t.elem 0 5).hops 33 []).map Token.data) = [7])) = true := by decide +kernel

/-! ### Partitions, resets, starts, trusses -/

/-- A record of R372: one page, VF 5, 64 granules' shares of one. -/
def rec0 : List Byte := toBytes 64 (1 + 0xFFFFFF05 * 2 ^ 32 + 0x0101 * 2 ^ 208)

/-- A record at PDESC 0x80. -/
def recorded (r : List Byte) (s : State) : State := ({ s with pf := { s.pf with pdesc := 0x80 } }).hostWrite 0x80 r

/-- Partition 3 lives, with no granule. -/
def living : State := recorded rec0 (one.setPart 3 { one.part 3 with live := true, record := rec0 })

/-- PSTAT.BUSY. -/
def busyPf (s : State) : State := { s with pf := { s.pf with pstat := 1 } }

theorem witness_PfTurnsAway : one.start.ready = true ∧ one.pf.pstat.getLsbD 0 = false ∧ (busyPf one).pf.pstat.getLsbD 0 = true
    ∧ (one.part 47).live ≠ true ∧ (living.part 3).live ≠ false := by decide +kernel

theorem witness_PartitionOps :
    Claims.PfIdle living ∧ (living.part 3).live = true ∧ (living.part 47).live = false
      ∧ (let r := living.hostRead 0x80 64
        recordOk r = true ∧ living.vfTaken 47 r = false ∧ living.sumsOk 47 r = true ∧ living.sumsOk 3 r = true
          ∧ (living.part 3).record.length = 64 ∧ (∀ k, k < 8 → r[k]? = (living.part 3).record[k]?))
      ∧ recordOk (one.hostRead 0 64) = false
      ∧ (living.setVf 5 { VF.reset with part := some 3 }).vfTaken 47 rec0 = true
      ∧ (recorded rec0 (one.setPart 3 { one.part 3 with live := true, record := 0xB0 :: 1 :: rec0.drop 2 })).sumsOk 47 rec0 = false
      ∧ living.rungs = [] ∧ (∀ z ∈ living.launches, z.2.part ≠ 3) ∧ (∀ z ∈ living.trusses, z.2.part ≠ 3)
      ∧ living.graphs = [] ∧ living.engines = [] ∧ living.partQueues 3 = [] ∧ living.move = none := by
  unfold Claims.PfIdle
  dsimp only
  decide +kernel

/-- R372 to R375. -/
theorem test_partitions :
    got (exec (.partitionCreate 47) living) (fun t => (t.part 47).live && decide ((t.vf 5).part = some 47)
        && decide (t.pf.pstat = 47 * 256)) = true
      ∧ got (exec (.partitionDestroy 3) living) (fun t => !(t.part 3).live) = true := by decide +kernel

/-- PARG names guest granule g and host granule h. -/
def arg (g h : Nat) (s : State) : State := { s with pf := { s.pf with parg := BitVec.ofNat 64 (g + h * 2 ^ 32) } }

/-- Partition 0 lives; the state of GRANT. -/
def owning : State := arg 0 0 mapped

theorem witness_Granules :
    Claims.PfIdle owning ∧ (owning.part 0).live = true ∧ owning.stackFailed 0 = false ∧ owning.owned 0 = true
      ∧ fget (owning.part 0).granules 0 = some 0
      ∧ (let s := arg 5 (2 ^ 19 - 1) mapped
        s.owned (2 ^ 19 - 1) = false ∧ s.pf.pool.contains (2 ^ 19 - 1) = false ∧ fget (s.part 0).granules 5 = none
          ∧ (2 ^ 19 - 1) / 2 ^ 15 < 16 ∧ s.stackFailed 15 = false ∧ bits s.pf.parg.toNat 32 19 = 2 ^ 19 - 1)
      ∧ (({ one with grants := [(0, 5, 7, 31)] }).grants.find? fun z => z.2.2.1 == 7 && z.2.2.2 == 31) = some (0, 5, 7, 31)
      ∧ (∀ z ∈ one.trusses, z.2.state ≠ .saved)
      ∧ (∃ z ∈ (truss (fun x => { x with state := .saved }) one).trusses, z.2.state = .saved) := by
  unfold Claims.PfIdle
  dsimp only
  decide +kernel

/-- R376, R377: GRANT is busy until all channels have applied it; REVOKE takes the owner away. -/
theorem test_granules :
    got (exec (.granuleGrant 0) (arg 5 7 mapped)) (fun t => decide (t.grants.length = 32) && t.pf.pstat.getLsbD 0) = true
      ∧ got (exec (.channelGrant 7 31) { one with grants := [(0, 5, 7, 31)] }) (fun t => decide (t.ownerAt 0 31 7 = 0)
        && t.grants.isEmpty) = true
      ∧ got (exec (.granuleRevoke 0) owning) (fun t => decide (t.ownerAt 0 3 0 = 0x3F)
        && decide ((t.part 0).granules = [])) = true := by decide +kernel

theorem witness_Rungs :
    queued.rungs = [] ∧ Claims.Attached queued 0 0 ∧ (queued.vf 0).rststat.getLsbD 0 = false
      ∧ ((vf0 (fun x => { x with rststat := 1 }) queued).vf 0).rststat.getLsbD 0 = true
      ∧ (fget queued.queues (qKey 0 63)).isSome = true ∧ fget queued.queues (qKey 0 62) = none
      ∧ ((queued.launches.find? fun z => z.2.part == 0 && z.2.ident.toNat == 0).map Prod.fst) = some 2
      ∧ queued.move = none ∧ (queued.launches.map Prod.fst).Nodup
      ∧ (∀ z ∈ queued.launches, ¬ (z.2.part = 0 ∧ z.2.ident.toNat = 1))
      ∧ Claims.PfIdle queued ∧ (queued.part 0).live = true ∧ queued.start.running = none := by
  unfold Claims.Attached Claims.PfIdle
  decide +kernel

/-- R423 to R425. -/
theorem test_rungs :
    got (exec (.resetQueue 0 63) queued) (fun t => decide ((fget t.queues 63).map Queue.stopped = some true)) = true
      ∧ got (exec (.resetLaunch 0 0) queued) (fun t => (fget t.launches 2).isNone) = true
      ∧ got (exec (.resetPartition 0) queued) (fun t => decide ((t.part 0).gen = 1) && t.launches.isEmpty) = true
      ∧ got (exec .resetDevice queued) (fun t => t.trusses.isEmpty && !t.start.ready) = true
      ∧ got (exec (.resetQueue 0 64) queued) (fun t => decide ((t.vf 0).rststat = 16)) = true := by decide +kernel

/-- A rung LAUNCH on launch 2, and one ENGINE, asked through VF 0. -/
def runged (rung : Nat) : State := { queued with rungs := [⟨rung, 0, 2, [], some 0, 0, rung, false⟩] }

theorem witness_RungTimeouts :
    ((runged 3).rungs[0]?).map (fun r => (r.vf, r.since)) = some (some 0, 0)
      ∧ ((runged 3).rungs.map fun r => ((runged 3).remaining r).length) = [1]
      ∧ ((runged 4).rungs.map fun r => ((runged 4).remaining r).length) = [1]
      ∧ (runged 3).now < 0 + rungTimeoutCc 3 ∧ 0 + rungTimeoutCc 4 ≤ ({ runged 4 with now := 32000000 }).now := by decide +kernel

/-- R424: PARTITION after ENGINE, DEVICE after PARTITION. -/
theorem test_rung_timeouts :
    got (exec (.rungTimeout 0) { runged 3 with now := 3200000 }) (fun t => decide (bits (t.vf 0).rststat.toNat 1 3 = 4)) = true
      ∧ got (exec (.rungTimeout 0) { runged 4 with now := 32000000 }) (fun t =>
        decide (bits (t.vf 0).rststat.toNat 1 3 = 5)) = true := by decide +kernel

/-- A warm start runs since time 0; n have failed. -/
def warming (n : Nat) : State := { one with now := 320000000, start := { one.start with running := some (2, 0), failures := n, ready := false } }

theorem witness_Starts :
    one.start.running = none ∧ one.start.ready = true ∧ (warming 1).start.ready = false
      ∧ (warming 1).start.running = some (2, 0) ∧ (warming 1).start.failures < 2
      ∧ (warming 2).start.failures = 2 ∧ 0 + 320000000 ≤ (warming 2).now ∧ one.now < 0 + 320000000 ∧ 0 ∉ one.fuses.bays
      ∧ 0 ∈ ({ one with fuses := { one.fuses with bays := [0] } }).fuses.bays := by decide +kernel

/-- R428 to R430. -/
theorem test_starts :
    got (exec .warmStart one) (fun t => t.trusses.isEmpty && !t.start.ready && decide ((t.page 0).status = .scrubbing 0)) = true
      ∧ got (exec .warmStartTimeout (warming 1)) (fun t => decide (t.start.failures = 2)) = true
      ∧ got (exec .coldStart { one with fuses := { one.fuses with bays := [0] } }) (fun t => !t.start.ready) = true := by
  decide +kernel

theorem witness_Sealing :
    one.now < one.chain.since + one.pf.sealper.toNat * 1600000
      ∧ ({ one with now := 1600000000 }).chain.since + one.pf.sealper.toNat * 1600000 ≤ ({ one with now := 1600000000 }).now
      ∧ one.start.ready = true ∧ (1 : Nat) ≤ 0xF ∧ (0x40 : Nat) < 0x70 := by decide +kernel

/-- R395, R396: an index with no measurement. -/
theorem test_measurements :
    got (exec (.getMeasurements 0 false) one) (fun t => decide (t.spdm = [.invalid])) = true
      ∧ got (exec (.getMeasurements 0x3F false) one) (fun t => decide (t.spdm ≠ [.invalid])) = true := by decide +kernel

/-- Partition 0 leases 4 pages; launch 2 has two trusses. -/
def leased : State :=
  launch (fun l => { l with ntruss := 2, since := 0 }) (part (fun p => { p with live := true, record := 4 :: List.replicate 63 0 }) one)

theorem witness_Placing :
    leased.freeSpot 0 1 1 = some (1, 0) ∧ leased.move = none ∧ leased.compact = none
      ∧ ((fget leased.launches 2).map fun l => (l.placed, l.ntruss, l.cancel, l.reset)) = some (1, 2, false, false)
      ∧ ((fget leased.launches 2).map Launch.failure) = some none := by
  decide +kernel

/-- R365: the next truss stands below the first. -/
theorem test_placing : got (exec (.placeTruss 2) leased) (fun t =>
    decide ((t.trusses.map fun z => (z.2.row, z.2.col)) = [(0, 0), (1, 0)])) = true := by decide +kernel

theorem witness_Ending :
    (∃ l, fget leased.launches 2 = some l ∧ l.placed < l.ntruss ∧ l.prio < 3 ∧ leased.now < l.since + 1600000)
      ∧ (let s := truss (fun x => { x with cores := 0 }) one
        (s.move.map Move.truss) ≠ some 1 ∧ ((fget s.trusses 1).map fun x => (x.state, x.cores, x.fork, s.heldPages 1 x))
            = some (.running, 0, none, [0])
          ∧ (s.page 0).quiet = true ∧ s.trussQuiet 1 [0] = true)
      ∧ ((fget one.trusses 1).map Truss.cores) = some 1
      ∧ ((page 0 (fun p => { p with status := .scrubbing 7 }) one).page 0).status = .scrubbing 7
      ∧ (one.req (pageAgent 0 0 0)).allAcked = true ∧ (unacked.req (pageAgent 0 0 0)).allAcked = false
      ∧ (((fget one.trusses 1).map Truss.stallFc) = some 0)
      ∧ (((fget (truss (fun x => { x with stallFc := 2 ^ 20, armed := true }) one).trusses 1).map fun x =>
          (x.stallFc, x.armed)) = some (2 ^ 20, true))
      ∧ (((fget ({ one with forks := [(9, ⟨2, 2, [], 0, [1], 0, 0, 0, none, [(0, 2)], [1, 2], [], (0, 0)⟩)] }).forks 9).map fun k =>
          (k.deadline, k.tags, k.rivals.length, k.made.length, k.wanted.length)) = some (0, [1, 2], 0, 0, 1)) := by
  refine ⟨⟨_, rfl, by decide +kernel⟩, ?_⟩
  dsimp only
  decide +kernel

/-- R23, R26, R271, R380. -/
theorem test_ending :
    got (exec (.trussEnd 1) (truss (fun x => { x with cores := 0 }) one)) (fun t => t.trusses.isEmpty
        && decide ((t.page 0).status = .scrubbing 0)) = true
      ∧ got (exec (.pageScrub 0) (page 0 (fun p => { p with status := .scrubbing 7 }) one)) (fun t => decide (t.page 0 = Page.reset)) = true
      ∧ got (exec (.priorityAging 2) { leased with now := 1600000 }) (fun t => decide ((fget t.launches 2).map Launch.prio = some 1)) = true
      ∧ got (exec (.forkwTimeout 9) ({ core (fun c => { c with wait := some .fork }) one with
          forks := [(9, ⟨2, 2, [], 0, [1], 0, 0, 0, none, [(0, 2)], [1, 2], [], (0, 0)⟩)] })) (fun t =>
        decide (t.core.scratch = [0xFFFFFFFFFFFFFFFF]) && decide (t.core.stage = 1) && t.forks.isEmpty) = true := by decide +kernel

/-- The truss of page 0 moves to page (1, 0): its core stands at a kerf, held by the request. -/
def moving (st : Nat) (left : List Nat) : State :=
  { launch (fun l => { l with img := { l.img with kerfs := [(0, 30, false)] } })
      (truss (fun x => { x with request := true }) (core (fun c => { c with wait := some .kerf }) one)) with
    move := some ⟨1, 1, 0, st, 0, left, 0⟩ }

/-- The move and its truss. -/
def theMove (s : State) (f : Move → Truss → Bool) : Bool :=
  match s.move with
  | some m => match fget s.trusses m.truss with
    | some x => f m x
    | none => false
  | none => false

theorem witness_Moving :
    (theMove (moving 0 []) fun m x => !(moving 0 []).moveHit m x && (moving 0 []).quiescent m.truss x
      && decide (((moving 0 []).page 36).status = .free) && decide (rectPages m.row m.col x.h x.w = [36])
      && decide (x.pages = [0])) = true
      ∧ (theMove ({ moving 0 [] with now := 1600001 }) fun m x => ({ moving 0 [] with now := 1600001 }).moveHit m x) = true
      ∧ (theMove { one with move := some ⟨1, 1, 0, 0, 0, [], 0⟩ } fun m x =>
        !(({ one with move := some ⟨1, 1, 0, 0, 0, [], 0⟩ } : State).quiescent m.truss x)) = true
      ∧ (moving 1 [0]).move.map Move.left = some [0] ∧ (moving 1 []).move.map Move.left = some [] := by decide +kernel

/-- R385 to R389: the pages are the truss's; a MOVE packet of one goes; the truss stands at its new place. -/
theorem test_moving :
    got (exec .moveCopy (moving 0 [])) (fun t => decide (t.move.map Move.state = some 1)
        && decide ((t.page 36).status = .used)) = true
      ∧ got (exec .moveCopy (moving 1 [0])) (fun t => decide (t.packets.map (fun z => (z.2.op, z.2.cls, z.2.src)) =
        [(.move, 2, moverAgent 0)]) && decide (t.move.map Move.left = some [0])) = true
      ∧ got (exec .moveRelease (page 36 (fun p => { p with status := .used, truss := 1 }) (reg 5 7 false (moving 1 [])))) (fun t =>
        t.move.isNone && decide ((t.page 36).core.rd 5 = 7) && decide ((t.page 0).status = .scrubbing 0)
          && decide ((t.part 0).moves = 1)) = true
      ∧ got (exec .moveAbandon { moving 0 [] with now := 1600001 }) (fun t => t.move.isNone
        && decide ((t.part 0).moveabort = 1)) = true := by decide +kernel

/-- A step answers next from reset, whose memory is in its canonical form. -/
theorem witness_MemoryCanonicalKept : MemoryCanonical State.reset ∧ got (step State.reset) (fun _ => true) = true := by
  unfold MemoryCanonical
  decide +kernel

end Sys2Proof.Tests
end

section
/-! SUPPORT. Every function of the model that a step calls leaves memory as it was (`_mem`), or keeps it in its
canonical form (`_wf`), in the order of the model's own parts; O59 and O60. -/

namespace Sys2Proof.Machine

open Sys2Proof.Claims

/-! ### Answers and folds -/

/-- An answer of a step leaves memory in its canonical form, where it goes on. -/
def Res.Canonical : Res → Prop
  | .next t => t.mem.wf = true
  | _ => True

@[simp] theorem Res.canonical_next (t : State) : Res.Canonical (.next t) ↔ t.mem.wf = true := Iff.rfl

@[simp] theorem Res.canonical_fault (r : Fault) : Res.Canonical (.fault r) := trivial

@[simp] theorem Res.canonical_refused (r : Refusal) : Res.Canonical (.refused r) := trivial

/-- What an access of a core goes on with, or its answer, has memory in canonical form. -/
def Go.Canonical {α : Type} : Go α → Prop
  | .ok _ t => t.mem.wf = true
  | .stop r => Res.Canonical r

@[simp] theorem Go.canonical_ok {α : Type} (a : α) (t : State) : Go.Canonical (.ok a t) ↔ t.mem.wf = true := Iff.rfl

@[simp] theorem Go.canonical_stop {α : Type} (r : Res) : Go.Canonical (.stop r : Go α) ↔ Res.Canonical r := Iff.rfl

/-- A fold leaves memory as it was where each of its steps does. -/
@[simp] theorem foldl_mem {α : Type} {f : State → α → State} (hf : ∀ s x, (f s x).mem = s.mem) (l : List α)
    (s : State) :
    (l.foldl f s).mem = s.mem := by
  induction l generalizing s with
  | nil => rfl
  | cons x t ih => exact (ih _).trans (hf s x)

/-- A fold keeps memory canonical where each of its steps does. -/
theorem foldl_wf {α : Type} {f : State → α → State} (hf : ∀ s x, s.mem.wf = true → (f s x).mem.wf = true) (l : List α)
    {s : State} (h : s.mem.wf = true) : (l.foldl f s).mem.wf = true := foldl_kept hf l h

theorem Go.wf_ok {α : Type} {g : Go α} {a : α} {t : State} (e : g = .ok a t) (hg : Go.Canonical g) :
    t.mem.wf = true := by
  rwa [e] at hg

theorem Go.wf_stop {α : Type} {g : Go α} {r : Res} (e : g = .stop r) (hg : Go.Canonical g) : Res.Canonical r := by
  rwa [e] at hg

theorem Res.wf_next {r : Res} {t : State} (e : r = .next t) (hr : Res.Canonical r) : t.mem.wf = true := by
  rwa [e] at hr

theorem snd_mem {α : Type} {z : α × State} {a : α} {t : State} (e : z = (a, t)) : t.mem = z.2.mem := by rw [e]

theorem fst_mem {α : Type} {z : State × α} {a : α} {t : State} (e : z = (t, a)) : t.mem = z.1.mem := by rw [e]

theorem foldl_snd_mem {α β : Type} {f : β × State → α → β × State} (hf : ∀ r x, (f r x).2.mem = r.2.mem) (l : List α)
    (r : β × State) : (l.foldl f r).2.mem = r.2.mem := by
  induction l generalizing r with
  | nil => rfl
  | cons x t ih => exact (ih _).trans (hf r x)

theorem Res.canonical_ite {c : Prop} [Decidable c] {a b : Res} (ha : Res.Canonical a) (hb : Res.Canonical b) :
    Res.Canonical (if c then a else b) := by
  split
  · exact ha
  · exact hb

/-! ### Named operations on the state -/

@[simp] theorem State.meter_mem (s : State) (p m k : Nat) : (s.meter p m k).mem = s.mem := by
  unfold State.meter
  split <;> rfl

@[simp] theorem State.freeVal_mem (s : State) : s.freeVal.2.mem = s.mem := rfl

@[simp] theorem State.stopTruss_mem (s : State) (t : Nat) : (s.stopTruss t).mem = s.mem := by
  unfold State.stopTruss
  split
  · rfl
  · split
    · rfl
    · dsimp only
      refine foldl_mem (fun _ _ => ?_) _ _
      rfl

@[simp] theorem State.stopLaunch_mem (s : State) (l : Nat) : (s.stopLaunch l).mem = s.mem := by
  unfold State.stopLaunch
  simp

@[simp] theorem State.failLaunch_mem (s : State) (l code : Nat) (detail : Word) :
    (s.failLaunch l code detail).mem = s.mem := by
  unfold State.failLaunch
  split
  · rfl
  · split <;> rfl

@[simp] theorem State.markFailed_mem (s : State) (t : Nat) : (s.markFailed t).mem = s.mem := rfl

@[simp] theorem State.loseRival_mem (s : State) (f t code : Nat) (detail : Word) :
    (s.loseRival f t code detail).mem = s.mem := by
  unfold State.loseRival
  split
  · rfl
  · simp

@[simp] theorem State.failItem_mem (s : State) (t code : Nat) (detail : Word) :
    (s.failItem t code detail).mem = s.mem := by
  unfold State.failItem
  split
  · rfl
  · split <;> simp

@[simp] theorem State.failTruss_mem (s : State) (t code elem pageix : Nat) :
    (s.failTruss t code elem pageix).mem = s.mem := by
  unfold State.failTruss
  split
  · rfl
  · split <;> simp

@[simp] theorem State.failPage_mem (s : State) (p code site : Nat) : (s.failPage p code site).mem = s.mem := by
  unfold State.failPage
  simp

@[simp] theorem takeTrap_mem (cause : Nat) (tpc tval : Word) (s : State) :
    (takeTrap cause tpc tval s).mem = s.mem := by
  unfold takeTrap
  dsimp only
  split
  · simp
  · rfl

@[simp] theorem trapHere_wf {cause : Nat} {tval : Word} {s : State} (h : s.mem.wf = true) :
    Res.Canonical (trapHere cause tval s) := by
  unfold trapHere
  simp [h]

@[simp] theorem trapWord_wf {i : Instr} {s : State} (h : s.mem.wf = true) : Res.Canonical (trapWord i s) := by
  unfold trapWord
  simp [h]

@[simp] theorem stepTrap_mem (inh : Bool) (s : State) : (stepTrap inh s).mem = s.mem := by
  unfold stepTrap
  split
  · simp
  · rfl

@[simp] theorem complete_mem (c : Core) (s : State) : (complete c s).mem = s.mem := by
  unfold complete
  simp

@[simp] theorem completeAt_mem (c : Core) (s : State) : (completeAt c s).mem = s.mem := by
  unfold completeAt
  simp

@[simp] theorem writeReg_wf {d : Reg} {v : Word} {t : Bool} {s : State} (h : s.mem.wf = true) :
    Res.Canonical (writeReg d v t s) := by
  unfold writeReg
  simp [h]

@[simp] theorem waitFor_wf {w : Wait} {stage : Nat} {s : State} (h : s.mem.wf = true) :
    Res.Canonical (waitFor w stage s) := by
  unfold waitFor
  exact h

/-! ### Tensors and translation -/

@[simp] theorem State.keepTlb_mem (s : State) (b : Nat) (t : TlbEntry) : (s.keepTlb b t).mem = s.mem := by
  unfold State.keepTlb
  dsimp only
  split <;> rfl

@[simp] theorem State.xlate_mem (s : State) (b part view slot panel : Nat) :
    (s.xlate b part view slot panel).2.mem = s.mem := by
  unfold State.xlate
  split
  · rfl
  · split
    · rfl
    · split
      · rfl
      · split
        · simp
        · rfl

@[simp] theorem State.pokeBlock_wf {s : State} {p : Phys} {l : List Byte} (h : s.mem.wf = true) :
    (s.pokeBlock p l).mem.wf = true := State.pokeBlock_kept p l h

@[simp] theorem State.meterBlock_mem (s : State) (part : Nat) (wr : Bool) (n : Nat) (p : Phys) :
    (s.meterBlock part wr n p).mem = s.mem := by
  unfold State.meterBlock
  split
  · simp
  · simp
  · rfl

theorem State.t0WriteAux_wf {part n a : Nat} {l : List Byte} {s t : State} (h : s.mem.wf = true)
    (e : State.t0WriteAux part n a l s = some t) : t.mem.wf = true := State.t0WriteAux_kept n a l h e

theorem State.t0Write_wf {s t : State} {part addr : Nat} {l : List Byte} (h : s.mem.wf = true)
    (e : s.t0Write part addr l = some t) : t.mem.wf = true := State.t0Write_kept h e

@[simp] theorem State.t0Put_wf {s : State} {part addr n v : Nat} (h : s.mem.wf = true) :
    (s.t0Put part addr n v).mem.wf = true := State.t0Put_kept part addr n v h

@[simp] theorem State.hostWrite_wf {s : State} {addr : Nat} {l : List Byte} (h : s.mem.wf = true) :
    (s.hostWrite addr l).mem.wf = true := State.hostWrite_kept addr l h

/-! ### Events and interrupts -/

@[simp] theorem State.raiseVf_mem (s : State) (n v : Nat) : (s.raiseVf n v).mem = s.mem := rfl

theorem State.putEvent_wf {s : State} {n : Nat} {e : Event} {t : State} (h : s.mem.wf = true)
    (e' : s.putEvent n e = some t) : t.mem.wf = true := State.putEvent_kept h e'

@[simp] theorem State.sendEvent_wf {s : State} {n : Nat} {e : Event} (h : s.mem.wf = true) :
    (s.sendEvent n e).2.mem.wf = true := State.sendEvent_kept n e h

@[simp] theorem State.drainEvents_wf {n k : Nat} {s : State} (h : s.mem.wf = true) :
    (State.drainEvents n k s).mem.wf = true := by
  induction k generalizing s with
  | zero => exact h
  | succ k ih =>
    unfold State.drainEvents
    split
    · exact h
    · split
      · exact h
      · rename_i t e
        have ht : t.mem.wf = true := State.putEvent_wf h e
        exact ih ht

@[simp] theorem State.sendPfEvent_wf {s : State} {e : Event} (h : s.mem.wf = true) :
    (s.sendPfEvent e).mem.wf = true := by
  unfold State.sendPfEvent
  dsimp only
  split
  · exact h
  · split
    · simp [h]
    · split <;> exact h

@[simp] theorem State.drainPf_wf {n : Nat} {s : State} (h : s.mem.wf = true) : (State.drainPf n s).mem.wf = true := by
  induction n generalizing s with
  | zero => exact h
  | succ n ih =>
    unfold State.drainPf
    split
    · exact h
    · split
      · exact ih (State.sendPfEvent_wf h)
      · exact h

@[simp] theorem State.raiseFault_wf {s : State} {part vfn : Nat} {a : AgentId} {slot gen panel : Nat} {wr : Bool}
    (h : s.mem.wf = true) :
    (s.raiseFault part vfn a slot gen panel wr).2.mem.wf = true := by
  unfold State.raiseFault
  dsimp only
  split
  · exact h
  · split
    · simp [h]
    · exact h

@[simp] theorem State.raiseXlateErr_wf {s : State} {vfn slot gen panel entry : Nat} (h : s.mem.wf = true) :
    (s.raiseXlateErr vfn slot gen panel entry).2.mem.wf = true := by
  unfold State.raiseXlateErr
  simp [h]

@[simp] theorem State.raiseIso_wf {s : State} {vfn : Nat} {a : AgentId} {granule : Nat} {wr : Bool}
    (h : s.mem.wf = true) :
    (s.raiseIso vfn a granule wr).2.mem.wf = true := by
  unfold State.raiseIso
  dsimp only
  split
  · simp [h]
  · exact h

@[simp] theorem State.raiseExhaust_wf {s : State} {part vfn view slot panel launch : Nat} {a : AgentId}
    (h : s.mem.wf = true) :
    (s.raiseExhaust part vfn view slot panel launch a).2.mem.wf = true := by
  unfold State.raiseExhaust
  dsimp only
  split
  · exact h
  · split
    · exact h
    · split
      · simp [h]
      · exact h

/-! ### Requesters -/

@[simp] theorem State.setOut_mem (s : State) (k : Nat) (o : SwitchOut) : (s.setOut k o).mem = s.mem := rfl

@[simp] theorem State.send_mem (s : State) (k : Packet) : (s.send k).mem = s.mem := rfl

@[simp] theorem State.noteAccess_mem (s : State) (a : AgentId) (slot gen off : Nat) (ph : Phys) (wr : Bool) :
    (s.noteAccess a slot gen off ph wr).mem = s.mem := by
  unfold State.noteAccess
  split
  · rfl
  · split <;> rfl

@[simp] theorem State.noteOther_mem (s : State) (a : AgentId) (slot gen off : Nat) (ph : Phys) (wr : Bool) :
    (s.noteOther a slot gen off ph wr).mem = s.mem := by
  unfold State.noteOther
  split
  · rfl
  · simp

@[simp] theorem State.seeUnacked_mem (s : State) (a : AgentId) (h1 : Nat) (ns : List (BitVec 32)) :
    (s.seeUnacked a h1 ns).mem = s.mem := by
  unfold State.seeUnacked
  refine foldl_mem (fun _ _ => ?_) _ _
  rfl

@[simp] theorem State.rdcWrite_mem (s : State) (b part : Nat) (n : BitVec 32) (w : BlockW) :
    (s.rdcWrite b part n w).mem = s.mem := by
  unfold State.rdcWrite
  split
  · rfl
  · split <;> rfl

@[simp] theorem State.rdcFill_mem (s : State) (b part : Nat) (late : List BlockW) (w : BlockW) :
    (s.rdcFill b part late w).mem = s.mem := by
  unfold State.rdcFill
  split
  · rfl
  · split <;> rfl

@[simp] theorem State.modReads_mem (s : State) (b part : Nat) (at_ : Nat → Bool) (f : WinEntry → WinEntry) :
    (s.modReads b part at_ f).mem = s.mem := rfl

@[simp] theorem State.rdcAtomic_mem (s : State) (b : Nat) (k : Packet) (applied : List (BitVec 32)) :
    (s.rdcAtomic b k applied).mem = s.mem := by
  unfold State.rdcAtomic
  split <;> rfl

@[simp] theorem State.rdcInval_mem (s : State) (b part : Nat) (f : Nat → Bool) :
    (s.rdcInval b part f).mem = s.mem := rfl

@[simp] theorem State.openEntry_mem (s : State) (a : AgentId) (k : Packet)
    (got : Option (List BlockW × List Word × Nat)) :
    (s.openEntry a k got).2.mem = s.mem := by
  unfold State.openEntry
  dsimp only
  split <;> rfl

@[simp] theorem State.readReq_mem (s : State) (a : AgentId) (part : Nat) (p : Phys) (slot gen off : Nat)
    (mask : BitVec 64) (path : ReadPath) :
    (s.readReq a part p slot gen off mask path).2.mem = s.mem := by
  unfold State.readReq
  split
  all_goals
    split
    · dsimp only
      split <;> simp
    · simp

@[simp] theorem State.launchWrite_mem (s : State) (a : AgentId) (k : Packet) : (s.launchWrite a k).mem = s.mem := by
  unfold State.launchWrite
  rw [State.send_mem]
  split <;> split <;> simp

@[simp] theorem State.submitWrite_mem (s : State) (a : AgentId) (k : Packet) : (s.submitWrite a k).mem = s.mem := by
  unfold State.submitWrite
  split
  all_goals
    split
    · split
      all_goals
        dsimp only
        split
        · rfl
        · simp
    · split
      all_goals
        dsimp only
        split <;> simp

@[simp] theorem State.flushUnsent_mem (a : AgentId) (n : Nat) (s : State) : (State.flushUnsent a n s).mem = s.mem := by
  induction n generalizing s with
  | zero => rfl
  | succ n ih =>
    unfold State.flushUnsent
    dsimp only
    split
    · rfl
    · split
      · rfl
      · rw [ih, State.launchWrite_mem, State.setReq_mem]

@[simp] theorem State.tearRequester_mem (s : State) (a : AgentId) : (s.tearRequester a).mem = s.mem := by
  unfold State.tearRequester
  dsimp only
  refine (foldl_mem (fun u z => ?_) _ _).trans ?_
  · rfl
  · dsimp only
    rw [State.setReq_mem]
    refine foldl_mem (fun _ _ => ?_) _ _
    rfl

/-! ### A control core's path to memory -/

theorem Go.bind_wf {α : Type} {g : Go α} {f : α → State → Res} (hg : Go.Canonical g)
    (hf : ∀ a t, t.mem.wf = true → Res.Canonical (f a t)) : Res.Canonical (g.bind f) := by
  cases g with
  | ok a t => exact hf a t hg
  | stop r => exact hg

@[simp] theorem stallHere_wf {st : Stall} {s : State} (h : s.mem.wf = true) : Res.Canonical (stallHere st s) := by
  unfold stallHere
  exact h

@[simp] theorem State.failPageReq_mem (s : State) (p : Nat) : (s.failPageReq p).mem = s.mem := by
  unfold State.failPageReq
  split
  · rfl
  · simp

@[simp] theorem trapFailed_wf {ea : Word} {s : State} (h : s.mem.wf = true) : Res.Canonical (trapFailed ea s) := by
  unfold trapFailed
  simp [h]

@[simp] theorem coreXlate_wf {ea : Word} {wr : Bool} {s : State} (h : s.mem.wf = true) :
    Go.Canonical (coreXlate ea wr s) := by
  unfold coreXlate
  dsimp only
  split
  · split <;> simp [h]
  · simp [h]
  · split
    · rename_i x x1 t e
      have ht : t.mem.wf = true := by simp [snd_mem e, h]
      exact ht
    · rename_i x t e
      have ht : t.mem.wf = true := by simp [snd_mem e, h]
      simp [ht]
  · simp [h]

@[simp] theorem corePlace_wf {e : Nat} {ea : Word} {wr : Bool} {s : State} (h : s.mem.wf = true) :
    Go.Canonical (corePlace e ea wr s) := by
  unfold corePlace
  split
  · exact h
  · simp [h]

@[simp] theorem State.startCopy_wf {s : State} {part view slot panel vfn launch : Nat} {a : AgentId}
    (h : s.mem.wf = true) :
    (s.startCopy part view slot panel vfn launch a).2.mem.wf = true := by
  unfold State.startCopy
  dsimp only
  split
  · exact h
  · split
    · exact h
    · split
      · simp [h]
      · exact h

@[simp] theorem coreOwn_wf {e : Nat} {ea : Word} {s : State} (h : s.mem.wf = true) :
    Go.Canonical (coreOwn e ea s) := by
  unfold coreOwn
  dsimp only
  split
  · exact h
  · simp [h]

@[simp] theorem wbLine_wf {l : L1Line} {s : State} (h : s.mem.wf = true) : Go.Canonical (wbLine l s) := by
  unfold wbLine
  extract_lets ea stuck c
  have hs {r : Res} (hr : Res.Canonical r) : Go.Canonical (stuck r) := by
    simp only [stuck]
    split
    · rw [Go.canonical_stop, Res.canonical_next]
      split <;> exact hr
    · exact hr
  split
  · simp [h]
  · split
    · exact h
    · split
      · rename_i e
        exact hs (Go.wf_stop e (coreXlate_wf h))
      · rename_i e
        have ht := Go.wf_ok e (coreXlate_wf h)
        split
        · rename_i e1
          exact hs (Go.wf_stop e1 (corePlace_wf ht))
        · rename_i e1
          have hu := Go.wf_ok e1 (corePlace_wf ht)
          simp [hu]

@[simp] theorem makeRoom_wf {line : Nat} {s : State} (h : s.mem.wf = true) : Go.Canonical (makeRoom line s) := by
  unfold makeRoom
  split
  · exact h
  · split
    · simp [h]
    · exact h

@[simp] theorem State.noteCore_mem (s : State) (ea : Word) (wr : Bool) : (s.noteCore ea wr).mem = s.mem := by
  unfold State.noteCore
  split
  · rfl
  · split
    · split
      · simp
      · rfl
    · rfl

@[simp] theorem coreRead_wf {ea : Word} {size : Nat} {fromHome : Bool} {s : State} (h : s.mem.wf = true) :
    Go.Canonical (coreRead ea size fromHome s) := by
  have hroom : Go.Canonical (if fromHome then Go.ok () s else makeRoom (ea.toNat / 64) s) := by
    split
    · exact h
    · exact makeRoom_wf h
  unfold coreRead
  extract_lets c ln off m l0
  split
  · split <;> simp [h]
  · split
    · simp [h]
    · split
      · exact h
      · split
        · rename_i e
          exact Go.wf_stop e hroom
        · rename_i e
          have ht := Go.wf_ok e hroom
          split
          · simp [ht]
          · split
            · rename_i e1
              exact Go.wf_stop e1 (coreXlate_wf ht)
            · rename_i e1
              have hu := Go.wf_ok e1 (coreXlate_wf ht)
              split
              · rename_i e2
                exact Go.wf_stop e2 (corePlace_wf hu)
              · rename_i e2
                have hv := Go.wf_ok e2 (corePlace_wf hu)
                split
                · exact hv
                · dsimp only
                  split <;> simp [hv]

@[simp] theorem coreBlock_wf {ea : Word} {s : State} (h : s.mem.wf = true) : Go.Canonical (coreBlock ea s) := by
  unfold coreBlock
  split
  · rename_i x r e
    have hr : Res.Canonical r := Go.wf_stop e (coreRead_wf h)
    exact hr
  · rename_i x x1 x2 x3 t e
    have ht : t.mem.wf = true := Go.wf_ok e (coreRead_wf h)
    split
    · simp [ht]
    · exact ht

@[simp] theorem wbLines_wf {l : List L1Line} {s : State} (h : s.mem.wf = true) : Go.Canonical (wbLines l s) := by
  induction l generalizing s with
  | nil => exact h
  | cons x t ih =>
    unfold wbLines
    split
    · rename_i r e
      exact Go.wf_stop e (wbLine_wf h)
    · rename_i u e
      exact ih (Go.wf_ok e (wbLine_wf h))

@[simp] theorem releaseLines_wf {sel : L1Line → Bool} {sc : Nat} {s : State} (h : s.mem.wf = true) :
    Go.Canonical (releaseLines sel sc s) := by
  unfold releaseLines
  split
  · rename_i x r e
    have hr : Res.Canonical r := Go.wf_stop e (wbLines_wf h)
    exact hr
  · rename_i x x1 t e
    have ht : t.mem.wf = true := Go.wf_ok e (wbLines_wf h)
    split <;> exact ht

@[simp] theorem release_wf {sc : Nat} {s : State} (h : s.mem.wf = true) : Go.Canonical (release sc s) := by
  unfold release
  simp [h]

@[simp] theorem acquire_mem (sc : Nat) (s : State) : (acquire sc s).mem = s.mem := by
  unfold acquire
  split <;> rfl

/-! ### Loads, stores and plate accesses -/

@[simp] theorem loadResult_wf {d : Reg} {ea : Word} {size : Nat} {signed taint : Bool} {r : Nat × Desc × Bool}
    {s : State} (h : s.mem.wf = true) :
    Res.Canonical (loadResult d ea size signed taint r s) := by
  unfold loadResult
  split <;> simp [h]

@[simp] theorem load_wf {d : Reg} {ea : Word} {size : Nat} {signed taint home : Bool} {s : State}
    (h : s.mem.wf = true) :
    Res.Canonical (load d ea size signed taint home s) := by
  unfold load
  split
  · simp [h]
  · split
    · simp [h]
    · apply Go.bind_wf
      · simp [h]
      · intro z u hu
        simp [hu]

@[simp] theorem store_wf {ea : Word} {size : Nat} {v : Word} {s : State} (h : s.mem.wf = true) :
    Res.Canonical (store ea size v s) := by
  unfold store
  split
  · simp [h]
  · split
    · simp [h]
    · split
      · simp [h]
      · apply Go.bind_wf
        · simp [h]
        · intro z u hu
          split
          · simp [hu]
          · split
            · simp [hu]
            · apply Go.bind_wf
              · simp [hu]
              · intro z1 u1 hu1
                apply Go.bind_wf
                · simp [hu1]
                · simp

@[simp] theorem loadImm_wf {d a : Reg} {imm : BitVec 15} {size : Nat} {signed : Bool} {s : State}
    (h : s.mem.wf = true) :
    Res.Canonical (loadImm d a imm size signed s) := by
  unfold loadImm
  simp [h]

@[simp] theorem storeImm_wf {t a : Reg} {imm : BitVec 15} {size : Nat} {s : State} (h : s.mem.wf = true) :
    Res.Canonical (storeImm t a imm size s) := by
  unfold storeImm
  simp [h]

@[simp] theorem execLdB_wf {d a : Reg} {imm : BitVec 15} {s : State} (h : s.mem.wf = true) :
    Res.Canonical (execLdB d a imm s) := by
  unfold execLdB
  simp [h]

@[simp] theorem execLdH_wf {d a : Reg} {imm : BitVec 15} {s : State} (h : s.mem.wf = true) :
    Res.Canonical (execLdH d a imm s) := by
  unfold execLdH
  simp [h]

@[simp] theorem execLdW_wf {d a : Reg} {imm : BitVec 15} {s : State} (h : s.mem.wf = true) :
    Res.Canonical (execLdW d a imm s) := by
  unfold execLdW
  simp [h]

@[simp] theorem execLdD_wf {d a : Reg} {imm : BitVec 15} {s : State} (h : s.mem.wf = true) :
    Res.Canonical (execLdD d a imm s) := by
  unfold execLdD
  simp [h]

@[simp] theorem execLdBs_wf {d a : Reg} {imm : BitVec 15} {s : State} (h : s.mem.wf = true) :
    Res.Canonical (execLdBs d a imm s) := by
  unfold execLdBs
  simp [h]

@[simp] theorem execLdHs_wf {d a : Reg} {imm : BitVec 15} {s : State} (h : s.mem.wf = true) :
    Res.Canonical (execLdHs d a imm s) := by
  unfold execLdHs
  simp [h]

@[simp] theorem execLdWs_wf {d a : Reg} {imm : BitVec 15} {s : State} (h : s.mem.wf = true) :
    Res.Canonical (execLdWs d a imm s) := by
  unfold execLdWs
  simp [h]

@[simp] theorem execLdcD_wf {d a : Reg} {imm : BitVec 15} {s : State} (h : s.mem.wf = true) :
    Res.Canonical (execLdcD d a imm s) := by
  unfold execLdcD
  simp [h]

@[simp] theorem execStB_wf {t a : Reg} {imm : BitVec 15} {s : State} (h : s.mem.wf = true) :
    Res.Canonical (execStB t a imm s) := by
  unfold execStB
  simp [h]

@[simp] theorem execStH_wf {t a : Reg} {imm : BitVec 15} {s : State} (h : s.mem.wf = true) :
    Res.Canonical (execStH t a imm s) := by
  unfold execStH
  simp [h]

@[simp] theorem execStW_wf {t a : Reg} {imm : BitVec 15} {s : State} (h : s.mem.wf = true) :
    Res.Canonical (execStW t a imm s) := by
  unfold execStW
  simp [h]

@[simp] theorem execStD_wf {t a : Reg} {imm : BitVec 15} {s : State} (h : s.mem.wf = true) :
    Res.Canonical (execStD t a imm s) := by
  unfold execStD
  simp [h]

@[simp] theorem execLdx_wf {d a b : Reg} {h1 : BitVec 2} {z : BitVec 3} {s : State} (h : s.mem.wf = true) :
    Res.Canonical (execLdx d a b h1 z s) := by
  unfold execLdx
  split <;> simp [h]

@[simp] theorem execStx_wf {t a b : Reg} {h1 z : BitVec 2} {s : State} (h : s.mem.wf = true) :
    Res.Canonical (execStx t a b h1 z s) := by
  unfold execStx
  simp [h]

theorem plateCheck_wf {pa : Word} {s : State} {r : Res} (h : s.mem.wf = true) (e : plateCheck pa s = some r) :
    Res.Canonical r := by
  have hc : ∀ x ∈ plateCheck pa s, Res.Canonical x := by
    unfold plateCheck
    split
    · simp [h]
    · split
      · simp [h]
      · split <;> simp [h]
  exact hc r e

@[simp] theorem execPrdD_wf {d a : Reg} {imm : BitVec 15} {s : State} (h : s.mem.wf = true) :
    Res.Canonical (execPrdD d a imm s) := by
  unfold execPrdD
  dsimp only
  split
  · rename_i x r e
    have hr : Res.Canonical r := plateCheck_wf h e
    exact hr
  · split
    · simp [h]
    · split
      · simp [h]
      · split <;> simp [h]

@[simp] theorem execPwrD_wf {t a : Reg} {imm : BitVec 15} {s : State} (h : s.mem.wf = true) :
    Res.Canonical (execPwrD t a imm s) := by
  unfold execPwrD
  dsimp only
  split
  · rename_i x r e
    have hr : Res.Canonical r := plateCheck_wf h e
    exact hr
  · simp [h]

/-! ### FENCE and the scoped ordering and range operations -/

@[simp] theorem execFence_wf {s : State} (h : s.mem.wf = true) : Res.Canonical (execFence s) := by
  unfold execFence
  simp [h]

@[simp] theorem execRel_wf {c : BitVec 2} {s : State} (h : s.mem.wf = true) : Res.Canonical (execRel c s) := by
  unfold execRel
  split
  · simp [h]
  · apply Go.bind_wf
    · simp [h]
    · simp

@[simp] theorem execAcq_wf {c : BitVec 2} {s : State} (h : s.mem.wf = true) : Res.Canonical (execAcq c s) := by
  unfold execAcq
  split <;> simp [h]

@[simp] theorem State.rdcRange_mem (s : State) (base len : Nat) : (s.rdcRange base len).mem = s.mem := by
  unfold State.rdcRange
  split
  · rfl
  · split <;> rfl

theorem rangeOp_wf {w : Instr} {a b : Reg} {c : BitVec 2} {f : Nat → Nat → State → Res} {s : State}
    (h : s.mem.wf = true) (hf : ∀ base len t, t.mem.wf = true → Res.Canonical (f base len t)) :
    Res.Canonical (rangeOp w a b c f s) := by
  unfold rangeOp
  split
  · simp [h]
  · dsimp only
    split
    · simp [h]
    · simp [h, hf]

@[simp] theorem execWbr_wf {a b : Reg} {c : BitVec 2} {s : State} (h : s.mem.wf = true) :
    Res.Canonical (execWbr a b c s) := by
  unfold execWbr
  apply rangeOp_wf
  · exact h
  · intro z z1 u hu
    split
    · simp [hu]
    · apply Go.bind_wf
      · simp [hu]
      · simp

@[simp] theorem execInvr_wf {a b : Reg} {c : BitVec 2} {s : State} (h : s.mem.wf = true) :
    Res.Canonical (execInvr a b c s) := by
  unfold execInvr
  apply rangeOp_wf
  · exact h
  · intro z z1 u hu
    dsimp only
    rw [Res.canonical_next, complete_mem]
    split
    · exact hu
    · simp [hu]

@[simp] theorem execFlr_wf {a b : Reg} {c : BitVec 2} {s : State} (h : s.mem.wf = true) :
    Res.Canonical (execFlr a b c s) := by
  unfold execFlr
  apply rangeOp_wf
  · exact h
  · intro z z1 u hu
    split
    · simp [hu]
    · apply Go.bind_wf
      · simp [hu]
      · intro z2 u1 hu1
        dsimp only
        rw [Res.canonical_next, complete_mem]
        split
        · exact hu1
        · simp [hu1]

@[simp] theorem execIcinv_wf {a b : Reg} {c : BitVec 2} {s : State} (h : s.mem.wf = true) :
    Res.Canonical (execIcinv a b c s) := by
  unfold execIcinv
  apply rangeOp_wf
  · exact h
  · intro z z1 u hu
    dsimp only
    rw [Res.canonical_next, complete_mem]
    split
    · exact hu
    · simp [hu]

/-! ### Atomics and the outbox -/

@[simp] theorem State.pushOutbox_mem (s : State) (f t : Nat) (e : OutboxEntry) :
    (s.pushOutbox f t e).mem = s.mem := rfl

@[simp] theorem deferOp_wf {e : OutboxEntry} {c : Core} {s : State} (h : s.mem.wf = true) :
    Res.Canonical (deferOp e c s) := by
  unfold deferOp
  split
  · simp [h]
  · split
    · simp [h]
    · split <;> simp [h]

@[simp] theorem State.atomicReq_mem (s : State) (a : AgentId) (part : Nat) (p : Phys) (slot gen off width aop : Nat)
    (words : List Word) :
    (s.atomicReq a part p slot gen off width aop words).2.mem = s.mem := by
  unfold State.atomicReq
  simp

@[simp] theorem atomicResult_wf {d : Reg} {ea : Word} {size : Nat} {taint : Bool} {r : BitVec 2} {s : State}
    (h : s.mem.wf = true) :
    Res.Canonical (atomicResult d ea size taint r s) := by
  unfold atomicResult
  split
  all_goals
    split
    all_goals
      dsimp only
      split <;> simp [h]

@[simp] theorem atomic_wf {d : Reg} {ea : Word} {size aop : Nat} {words : List Word} {taint cas : Bool} {r : BitVec 2}
    {s : State} (h : s.mem.wf = true) : Res.Canonical (atomic d ea size aop words taint cas r s) := by
  unfold atomic
  split
  · split <;> simp [h]
  · split
    · simp [h]
    · split
      · simp [h]
      · split
        · simp [h]
        · refine Go.bind_wf (coreXlate_wf h) fun e t ht => ?_
          split
          · simp [ht]
          · split
            · split <;> simp [ht]
            · split
              · simp [ht]
              · refine Go.bind_wf (coreOwn_wf ht) fun _ t ht => Go.bind_wf ?_ fun _ t ht => Go.bind_wf ?_ fun _ t ht => ?_
                · split <;> simp [ht]
                · split
                  · split <;> simp [ht]
                  · exact ht
                · dsimp only
                  split
                  · exact waitFor_wf ht
                  · exact Go.bind_wf (corePlace_wf ht) fun p t ht => by simp [ht]

@[simp] theorem amo_wf {w : Instr} {d a b : Reg} {r : BitVec 2} {op : BitVec 4} {size : Nat} {s : State}
    (h : s.mem.wf = true) :
    Res.Canonical (amo w d a b r op size s) := by
  unfold amo
  split <;> simp [h]

@[simp] theorem cas_wf {d a b : Reg} {r : BitVec 2} {size : Nat} {s : State} (h : s.mem.wf = true) :
    Res.Canonical (cas d a b r size s) := by
  unfold cas
  simp [h]

@[simp] theorem execAmoW_wf {d a b : Reg} {r : BitVec 2} {op : BitVec 4} {s : State} (h : s.mem.wf = true) :
    Res.Canonical (execAmoW d a b r op s) := by
  unfold execAmoW
  simp [h]

@[simp] theorem execAmoD_wf {d a b : Reg} {r : BitVec 2} {op : BitVec 4} {s : State} (h : s.mem.wf = true) :
    Res.Canonical (execAmoD d a b r op s) := by
  unfold execAmoD
  simp [h]

@[simp] theorem execCasW_wf {d a b : Reg} {r : BitVec 2} {s : State} (h : s.mem.wf = true) :
    Res.Canonical (execCasW d a b r s) := by
  unfold execCasW
  simp [h]

@[simp] theorem execCasD_wf {d a b : Reg} {r : BitVec 2} {s : State} (h : s.mem.wf = true) :
    Res.Canonical (execCasD d a b r s) := by
  unfold execCasD
  simp [h]

/-! ### Tensor geometry -/

@[simp] theorem State.refSlot_mem (s : State) (part slot : Nat) : (s.refSlot part slot).mem = s.mem := by
  unfold State.refSlot
  split <;> rfl

@[simp] theorem State.unrefSlot_wf {s : State} {part slot : Nat} (h : s.mem.wf = true) :
    (s.unrefSlot part slot).mem.wf = true := by
  unfold State.unrefSlot
  split
  · exact h
  · dsimp only
    split
    · split
      · simp [h]
      · exact h
    · exact h

@[simp] theorem State.xlateOff_mem (s : State) (b part view slot off : Nat) :
    (s.xlateOff b part view slot off).2.mem = s.mem := by
  unfold State.xlateOff
  simp

/-! ### Stream descriptors -/

theorem streamCheck_wf {d : List Byte} {addr : Word} {k : Nat} {s : State} {r : Res} (h : s.mem.wf = true)
    (e : streamCheck d addr k s = some r) : Res.Canonical r := by
  have hc : ∀ x ∈ streamCheck d addr k s, Res.Canonical x := by
    unfold streamCheck
    extract_lets
    split
    · simp [h]
    · split
      · simp [h]
      · split
        · simp [h]
        · split
          · simp [h]
          · split <;> simp [h]
  exact hc r e

@[simp] theorem issueStream_wf {k : Nat} {a : Reg} {s : State} (h : s.mem.wf = true) :
    Res.Canonical (issueStream k a s) := by
  unfold issueStream
  dsimp only
  split
  · simp [h]
  · split
    · simp [h]
    · apply Go.bind_wf
      · simp [h]
      · intro z u hu
        split
        · rename_i x r e
          have hr : Res.Canonical r := streamCheck_wf hu e
          exact hr
        · split
          · exact hu
          · simp [hu]

@[simp] theorem execSld_wf {a : Reg} {p : BitVec 2} {s : State} (h : s.mem.wf = true) :
    Res.Canonical (execSld a p s) := by
  unfold execSld
  simp [h]

@[simp] theorem execSst_wf {a : Reg} {p : BitVec 2} {s : State} (h : s.mem.wf = true) :
    Res.Canonical (execSst a p s) := by
  unfold execSst
  simp [h]

@[simp] theorem execSwait_wf {p : BitVec 3} {s : State} (h : s.mem.wf = true) : Res.Canonical (execSwait p s) := by
  unfold execSwait
  dsimp only
  split
  · simp [h]
  · exact h

@[simp] theorem execSstat_wf {d : Reg} {p : BitVec 6} {s : State} (h : s.mem.wf = true) :
    Res.Canonical (execSstat d p s) := by
  unfold execSstat
  split <;> simp [h]

@[simp] theorem execSpush_wf {a b : Reg} {k : BitVec 3} {s : State} (h : s.mem.wf = true) :
    Res.Canonical (execSpush a b k s) := by
  unfold execSpush
  dsimp only
  split
  · exact h
  · simp [h]

@[simp] theorem State.strandedConfig_mem (s : State) (p : Nat) (t : Token) : (s.strandedConfig p t).mem = s.mem := by
  unfold State.strandedConfig
  split
  · rfl
  · simp

@[simp] theorem State.reachCrx_mem (s : State) (p : Nat) (t : Token) : (s.reachCrx p t).mem = s.mem := by
  unfold State.reachCrx
  split
  all_goals
    split
    · simp
    · simp
    · rfl

@[simp] theorem crxSkip_mem (n : Nat) (s : State) : (crxSkip n s).mem = s.mem := by
  induction n generalizing s with
  | zero => rfl
  | succ n ih =>
    unfold crxSkip
    dsimp only
    split
    · rfl
    · split <;> simp [ih]

@[simp] theorem execSpop_wf {d : Reg} {s : State} (h : s.mem.wf = true) : Res.Canonical (execSpop d s) := by
  unfold execSpop
  dsimp only
  split
  · simp [h]
  · split <;> simp [h]

/-! ### Stream ports -/

@[simp] theorem State.failPortReq_mem (s : State) (p k : Nat) : (s.failPortReq p k).mem = s.mem := by
  unfold State.failPortReq
  split
  · rfl
  · simp

@[simp] theorem portXlate_wf {p k : Nat} {x : Stream} {blk : Nat} {wr : Bool} {s : State} (h : s.mem.wf = true) :
    (portXlate p k x blk wr s).2.mem.wf = true := by
  unfold portXlate
  split
  · exact h
  · split
    · exact h
    · dsimp only
      split
      · split <;> simp [h]
      · simp [h]
      · split
        · rename_i x1 x2 t e
          have ht : t.mem.wf = true := by simp [snd_mem e, h]
          exact ht
        · rename_i x1 t e
          have ht : t.mem.wf = true := by simp [snd_mem e, h]
          simp [ht]
      · simp [h]

@[simp] theorem State.modPort_mem (s : State) (p k : Nat) (f : Port → Port) : (s.modPort p k f).mem = s.mem := rfl

@[simp] theorem State.modStream_mem (s : State) (p k : Nat) (f : Stream → Stream) :
    (s.modStream p k f).mem = s.mem := rfl

@[simp] theorem State.stallPort_mem (s : State) (p k : Nat) (st : Stall) : (s.stallPort p k st).mem = s.mem := rfl

/-- What the blocks of a point leave: the state beside their tags is the last one. -/
theorem issuePoint_kept {p k : Nat} {x : Stream} {bs : List Nat} {s : State} (h : s.mem.wf = true) :
    (issuePoint p k x bs s).2.mem.wf = true ∧ ∀ z ∈ (issuePoint p k x bs s).1, z.2.mem.wf = true := by
  unfold issuePoint
  refine List.foldlRecOn (motive := fun r : Option (List Nat × State) × State =>
    r.2.mem.wf = true ∧ ∀ z ∈ r.1, z.2.mem.wf = true) bs _ ⟨h, by simpa using h⟩ fun r hr b _ => ?_
  obtain ⟨h2, h1⟩ := hr
  split
  · exact ⟨h2, h1⟩
  · rename_i tags u e
    have hu : u.mem.wf = true := h1 _ e
    dsimp only
    split <;> simp [hu]

@[simp] theorem issuePoint_wf {p k : Nat} {x : Stream} {bs : List Nat} {s : State} (h : s.mem.wf = true) :
    (issuePoint p k x bs s).2.mem.wf = true := (issuePoint_kept h).1

@[simp] theorem issueAhead_wf {p k n : Nat} {s : State} (h : s.mem.wf = true) : (issueAhead p k n s).mem.wf = true := by
  induction n generalizing s with
  | zero => exact h
  | succ n ih =>
    unfold issueAhead
    dsimp only
    split
    · split
      · exact h
      · split
        · rename_i t e
          have ht : t.mem.wf = true := by simp [snd_mem e, h]
          exact ih (by simpa using ht)
        · rename_i t e
          simp [snd_mem e, h]
    · exact h

theorem headToken_mem {p k : Nat} {s : State} {y : Token} {t : State} (e : headToken p k s = some (y, t)) :
    t.mem = s.mem := by
  unfold headToken at e
  dsimp only at e
  split at e
  · split at e
    · cases e
    · split at e
      · cases e
        rfl
      · split at e
        all_goals
          cases e
          rfl
  · cases e

@[simp] theorem State.fabricMoved_mem (s : State) (p : Nat) : (s.fabricMoved p).mem = s.mem := rfl

@[simp] theorem execLoadPortDeliver_wf {p k : Nat} {s : State} (h : s.mem.wf = true) :
    Res.Canonical (execLoadPortDeliver p k s) := by
  unfold execLoadPortDeliver
  split
  · exact h
  · split
    · dsimp only
      split
      · exact h
      · split
        · exact h
        · split
          · exact h
          · rename_i x x1 t e
            have ht : t.mem.wf = true := by rw [headToken_mem e]; exact h
            exact ht
    · dsimp only
      split
      · simp [h]
      · split
        · simp [h]
        · split
          · simp [h]
          · rename_i x x1 t e
            have ht : t.mem.wf = true := by rw [headToken_mem e]; exact (by simp [h])
            exact ht

@[simp] theorem State.stopPort_wf {s : State} {p k : Nat} {tail : List Token} (h : s.mem.wf = true) :
    (s.stopPort p k tail).mem.wf = true := by
  unfold State.stopPort
  extract_lets y part s1 s2 s3 s4 r s5 st s6
  have h1 : s1.mem.wf = true := by
    unfold s1
    split
    · exact State.unrefSlot_wf h
    · exact h
  have h2 : s2.mem.wf = true := by
    unfold s2
    split
    · exact State.unrefSlot_wf h1
    · exact h1
  have h3 : s3.mem.wf = true := by
    unfold s3
    split
    · rwa [State.modPort_mem]
    · exact h2
  have h5 : s5.mem.wf = true := by rwa [State.setReq_mem, State.modPort_mem]
  have h6 : s6.mem.wf = true := by
    unfold s6
    split
    · split
      · rwa [State.modPort_mem]
      · exact h5
    · exact h5
  split
  · rwa [State.modCore_mem]
  · exact h6

@[simp] theorem flushBuf_mem (p k : Nat) (s : State) : (flushBuf p k s).mem = s.mem := by
  unfold flushBuf
  dsimp only
  split
  · split
    · rfl
    · simp
  · rfl

@[simp] theorem addBlock_mem (p k off : Nat) (w : BlockW) (s : State) : (addBlock p k off w s).mem = s.mem := by
  unfold addBlock
  rw [State.modPort_mem]
  split
  · rw [State.noteAccess_mem]
    split
    · rfl
    · simp
  · split
    · rfl
    · simp

@[simp] theorem storeXlate_wf {p k : Nat} {x : Stream} {t : Truss} {g : Geo} {bs : List Nat} {s : State}
    (h : s.mem.wf = true) : (storeXlate p k x t g bs s).2.mem.wf = true := by
  induction bs generalizing s with
  | nil => exact h
  | cons b bs ih =>
    have hq : (portXlate p k x b true s).2.mem.wf = true := portXlate_wf h
    have hr := ih hq
    unfold storeXlate
    dsimp only
    split
    · exact hq
    · split
      · rename_i e
        rwa [snd_mem e]
      · exact hr
    · split
      · exact hq
      · split
        · exact hq
        · split
          · simp [hq]
          · split
            · rename_i e
              rwa [snd_mem e]
            · exact hr

@[simp] theorem acceptData_wf {p k : Nat} {x : Stream} {t : Truss} {tok : Token} {rest : List Token} {s : State}
    (h : s.mem.wf = true) : (acceptData p k x t tok rest s).mem.wf = true := by
  unfold acceptData
  extract_lets
  split
  · exact h
  · have hx := storeXlate_wf (p := p) (k := k) (x := x) (t := t) (g := s.streamGeo t.part x) (bs := ‹List Nat›) h
    split
    · rename_i e
      simpa [snd_mem e] using hx
    · rename_i u e
      have hu : u.mem.wf = true := by simpa [snd_mem e] using hx
      simp [hu]
    · rename_i u e
      have hu : u.mem.wf = true := by simpa [snd_mem e] using hx
      dsimp only
      rw [State.modPort_mem]
      split
      · exact hu
      · refine foldl_wf (fun u z hu => ?_) _ hu
        split
        · simp [hu]
        · exact hu

@[simp] theorem execStorePortAccept_wf {p k : Nat} {s : State} (h : s.mem.wf = true) :
    Res.Canonical (execStorePortAccept p k s) := by
  unfold execStorePortAccept
  split
  · exact h
  · dsimp only
    split
    · exact h
    · split
      · split <;> exact h
      · simp [h]
      · simp [h]
      · split
        · exact h
        · split
          · split
            · exact h
            · rw [Res.canonical_next]
              split <;> simp [h]
          · exact h

@[simp] theorem payOwed_mem (p k : Nat) (s : State) : (payOwed p k s).mem = s.mem := by
  unfold payOwed
  split
  · rfl
  · split
    · rfl
    · simp

@[simp] theorem execStreamFinish_wf {p k : Nat} {s : State} (h : s.mem.wf = true) :
    Res.Canonical (execStreamFinish p k s) := by
  unfold execStreamFinish
  split
  · exact h
  · split
    · simp [h]
    · split
      all_goals
        dsimp only
        split
        · split
          · split
            · simp [h]
            · split
              · simp [h]
              · rw [Res.canonical_next, State.modCore_mem, State.modPort_mem]
                split <;> simp [h]
          · split
            · exact h
            · split
              · exact h
              · rw [Res.canonical_next, State.modCore_mem, State.modPort_mem]
                split <;> simp [h]
        · exact h

@[simp] theorem readTokens_mem (p k n : Nat) (s : State) : (readTokens p k n s).2.mem = s.mem := by
  induction n generalizing s with
  | zero => rfl
  | succ n ih =>
    unfold readTokens
    split
    · rfl
    · rename_i e
      exact (ih _).trans (headToken_mem e)

@[simp] theorem execSstop_wf {p : BitVec 3} {s : State} (h : s.mem.wf = true) : Res.Canonical (execSstop p s) := by
  unfold execSstop
  dsimp only
  rw [Res.canonical_next, complete_mem, State.modPort_mem]
  apply State.stopPort_wf
  split <;> simp [h]

/-! ### The firing of an element -/

@[simp] theorem State.modElem_mem (s : State) (p e : Nat) (f : Elem → Elem) : (s.modElem p e f).mem = s.mem := rfl

@[simp] theorem State.enterHop_mem (s : State) (p e h1 : Nat) (t : Token) : (s.enterHop p e h1 t).mem = s.mem := by
  unfold State.enterHop
  split <;> rfl

@[simp] theorem freePoison_mem (o : OutTok) (s : State) : (freePoison o s).2.mem = s.mem := by
  unfold freePoison
  split
  · rfl
  · refine foldl_snd_mem (fun z l => ?_) _ _
    split <;> rfl

@[simp] theorem freePoisons_mem (l : List OutTok) (s : State) : (freePoisons l s).2.mem = s.mem := by
  induction l generalizing s with
  | nil => rfl
  | cons o t ih => exact (ih _).trans (freePoison_mem o s)

@[simp] theorem State.checked_mem (s : State) (p e : Nat) (t : Token) : (s.checked p e t).2.mem = s.mem := by
  unfold State.checked
  split
  · rfl
  · split
    · rfl
    · split <;> simp

@[simp] theorem State.checkedInputs_mem (s : State) (p e eats : Nat) : (s.checkedInputs p e eats).mem = s.mem := by
  unfold State.checkedInputs
  refine (foldl_mem (fun u z => ?_) _ _).trans ?_
  · split
    · split
      · simp
      · rfl
    · rfl
  · rfl

@[simp] theorem State.applyFire_mem (s : State) (p e : Nat) (f : Fire) : (s.applyFire p e f).mem = s.mem := by
  unfold State.applyFire
  rw [State.fabricMoved_mem, State.meter_mem]
  refine (foldl_mem (fun u z => ?_) _ _).trans ?_
  · simp
  · split
    · refine (foldl_mem (fun u z => ?_) _ _).trans ?_
      · rfl
      · simp
    · rw [State.rdcInval_mem]
      refine (foldl_mem (fun u z => ?_) _ _).trans ?_
      · rfl
      · simp

@[simp] theorem State.markFaulted_mem (s : State) (p e : Nat) : (s.markFaulted p e).mem = s.mem := rfl

@[simp] theorem fireOp_wf {opc : Nat} {plan : Page → Nat → Plan} {p e : Nat} {s : State} (h : s.mem.wf = true) :
    Res.Canonical (fireOp opc plan p e s) := by
  unfold fireOp
  split
  · split
    · exact h
    · exact h
    · split
      · simp [h]
      · exact h
    · exact h
    · simp [h]
  · exact h

/-! ### Lane operations of elements -/

@[simp] theorem execElemAdd_wf {p e : Nat} {s : State} (h : s.mem.wf = true) : Res.Canonical (execElemAdd p e s) := by
  unfold execElemAdd
  simp [h]

@[simp] theorem execElemSub_wf {p e : Nat} {s : State} (h : s.mem.wf = true) : Res.Canonical (execElemSub p e s) := by
  unfold execElemSub
  simp [h]

@[simp] theorem execElemMul_wf {p e : Nat} {s : State} (h : s.mem.wf = true) : Res.Canonical (execElemMul p e s) := by
  unfold execElemMul
  simp [h]

@[simp] theorem execFma_wf {p e : Nat} {s : State} (h : s.mem.wf = true) : Res.Canonical (execFma p e s) := by
  unfold execFma
  simp [h]

@[simp] theorem execElemAbs_wf {p e : Nat} {s : State} (h : s.mem.wf = true) : Res.Canonical (execElemAbs p e s) := by
  unfold execElemAbs
  simp [h]

@[simp] theorem execNeg_wf {p e : Nat} {s : State} (h : s.mem.wf = true) : Res.Canonical (execNeg p e s) := by
  unfold execNeg
  simp [h]

@[simp] theorem execElemMin_wf {p e : Nat} {s : State} (h : s.mem.wf = true) : Res.Canonical (execElemMin p e s) := by
  unfold execElemMin
  simp [h]

@[simp] theorem execElemMax_wf {p e : Nat} {s : State} (h : s.mem.wf = true) : Res.Canonical (execElemMax p e s) := by
  unfold execElemMax
  simp [h]

@[simp] theorem execMinp_wf {p e : Nat} {s : State} (h : s.mem.wf = true) : Res.Canonical (execMinp p e s) := by
  unfold execMinp
  simp [h]

@[simp] theorem execMaxp_wf {p e : Nat} {s : State} (h : s.mem.wf = true) : Res.Canonical (execMaxp p e s) := by
  unfold execMaxp
  simp [h]

@[simp] theorem execClmp_wf {p e : Nat} {s : State} (h : s.mem.wf = true) : Res.Canonical (execClmp p e s) := by
  unfold execClmp
  simp [h]

@[simp] theorem execRcp_wf {p e : Nat} {s : State} (h : s.mem.wf = true) : Res.Canonical (execRcp p e s) := by
  unfold execRcp
  simp [h]

@[simp] theorem execRsq_wf {p e : Nat} {s : State} (h : s.mem.wf = true) : Res.Canonical (execRsq p e s) := by
  unfold execRsq
  simp [h]

@[simp] theorem execSqrt_wf {p e : Nat} {s : State} (h : s.mem.wf = true) : Res.Canonical (execSqrt p e s) := by
  unfold execSqrt
  simp [h]

@[simp] theorem execExp2_wf {p e : Nat} {s : State} (h : s.mem.wf = true) : Res.Canonical (execExp2 p e s) := by
  unfold execExp2
  simp [h]

@[simp] theorem execLog2_wf {p e : Nat} {s : State} (h : s.mem.wf = true) : Res.Canonical (execLog2 p e s) := by
  unfold execLog2
  simp [h]

@[simp] theorem execTanh_wf {p e : Nat} {s : State} (h : s.mem.wf = true) : Res.Canonical (execTanh p e s) := by
  unfold execTanh
  simp [h]

@[simp] theorem execCeq_wf {p e : Nat} {s : State} (h : s.mem.wf = true) : Res.Canonical (execCeq p e s) := by
  unfold execCeq
  simp [h]

@[simp] theorem execCne_wf {p e : Nat} {s : State} (h : s.mem.wf = true) : Res.Canonical (execCne p e s) := by
  unfold execCne
  simp [h]

@[simp] theorem execClt_wf {p e : Nat} {s : State} (h : s.mem.wf = true) : Res.Canonical (execClt p e s) := by
  unfold execClt
  simp [h]

@[simp] theorem execCle_wf {p e : Nat} {s : State} (h : s.mem.wf = true) : Res.Canonical (execCle p e s) := by
  unfold execCle
  simp [h]

@[simp] theorem execElemSel_wf {p e : Nat} {s : State} (h : s.mem.wf = true) : Res.Canonical (execElemSel p e s) := by
  unfold execElemSel
  simp [h]

@[simp] theorem execElemAnd_wf {p e : Nat} {s : State} (h : s.mem.wf = true) : Res.Canonical (execElemAnd p e s) := by
  unfold execElemAnd
  simp [h]

@[simp] theorem execElemOr_wf {p e : Nat} {s : State} (h : s.mem.wf = true) : Res.Canonical (execElemOr p e s) := by
  unfold execElemOr
  simp [h]

@[simp] theorem execElemXor_wf {p e : Nat} {s : State} (h : s.mem.wf = true) : Res.Canonical (execElemXor p e s) := by
  unfold execElemXor
  simp [h]

@[simp] theorem execElemNot_wf {p e : Nat} {s : State} (h : s.mem.wf = true) : Res.Canonical (execElemNot p e s) := by
  unfold execElemNot
  simp [h]

@[simp] theorem execElemShl_wf {p e : Nat} {s : State} (h : s.mem.wf = true) : Res.Canonical (execElemShl p e s) := by
  unfold execElemShl
  simp [h]

@[simp] theorem execElemShr_wf {p e : Nat} {s : State} (h : s.mem.wf = true) : Res.Canonical (execElemShr p e s) := by
  unfold execElemShr
  simp [h]

@[simp] theorem execElemSra_wf {p e : Nat} {s : State} (h : s.mem.wf = true) : Res.Canonical (execElemSra p e s) := by
  unfold execElemSra
  simp [h]

@[simp] theorem execRshr_wf {p e : Nat} {s : State} (h : s.mem.wf = true) : Res.Canonical (execRshr p e s) := by
  unfold execRshr
  simp [h]

@[simp] theorem execReq_wf {p e : Nat} {s : State} (h : s.mem.wf = true) : Res.Canonical (execReq p e s) := by
  unfold execReq
  simp [h]

@[simp] theorem execCvt_wf {p e : Nat} {s : State} (h : s.mem.wf = true) : Res.Canonical (execCvt p e s) := by
  unfold execCvt
  simp [h]

@[simp] theorem execDq_wf {p e : Nat} {s : State} (h : s.mem.wf = true) : Res.Canonical (execDq p e s) := by
  unfold execDq
  simp [h]

@[simp] theorem execMac_wf {p e : Nat} {s : State} (h : s.mem.wf = true) : Res.Canonical (execMac p e s) := by
  unfold execMac
  simp [h]

@[simp] theorem execAcc_wf {p e : Nat} {s : State} (h : s.mem.wf = true) : Res.Canonical (execAcc p e s) := by
  unfold execAcc
  simp [h]

@[simp] theorem execRsum_wf {p e : Nat} {s : State} (h : s.mem.wf = true) : Res.Canonical (execRsum p e s) := by
  unfold execRsum
  simp [h]

@[simp] theorem execRmax_wf {p e : Nat} {s : State} (h : s.mem.wf = true) : Res.Canonical (execRmax p e s) := by
  unfold execRmax
  simp [h]

@[simp] theorem execRmin_wf {p e : Nat} {s : State} (h : s.mem.wf = true) : Res.Canonical (execRmin p e s) := by
  unfold execRmin
  simp [h]

@[simp] theorem execBq_wf {p e : Nat} {s : State} (h : s.mem.wf = true) : Res.Canonical (execBq p e s) := by
  unfold execBq
  simp [h]

@[simp] theorem execPack_wf {p e : Nat} {s : State} (h : s.mem.wf = true) : Res.Canonical (execPack p e s) := by
  unfold execPack
  simp [h]

@[simp] theorem execUnpk_wf {p e : Nat} {s : State} (h : s.mem.wf = true) : Res.Canonical (execUnpk p e s) := by
  unfold execUnpk
  simp [h]

@[simp] theorem execPass_wf {p e : Nat} {s : State} (h : s.mem.wf = true) : Res.Canonical (execPass p e s) := by
  unfold execPass
  simp [h]

@[simp] theorem execBcst_wf {p e : Nat} {s : State} (h : s.mem.wf = true) : Res.Canonical (execBcst p e s) := by
  unfold execBcst
  simp [h]

@[simp] theorem execPerm_wf {p e : Nat} {s : State} (h : s.mem.wf = true) : Res.Canonical (execPerm p e s) := by
  unfold execPerm
  simp [h]

@[simp] theorem execSlide_wf {p e : Nat} {s : State} (h : s.mem.wf = true) : Res.Canonical (execSlide p e s) := by
  unfold execSlide
  simp [h]

/-! ### The algebra table that an element loads from a tile -/

@[simp] theorem State.readTable_mem (s : State) (p e : Nat) : (s.readTable p e).mem = s.mem := by
  unfold State.readTable
  dsimp only
  split
  · rfl
  · split
    · rfl
    · split
      · rfl
      · simp

@[simp] theorem execAlgebraTableRead_wf {p e : Nat} {s : State} (h : s.mem.wf = true) :
    Res.Canonical (execAlgebraTableRead p e s) := by
  unfold execAlgebraTableRead
  simp [h]

/-! ### Algebras and matrix operations -/

@[simp] theorem execAmul_wf {p e : Nat} {s : State} (h : s.mem.wf = true) : Res.Canonical (execAmul p e s) := by
  unfold execAmul
  simp [h]

@[simp] theorem execAconj_wf {p e : Nat} {s : State} (h : s.mem.wf = true) : Res.Canonical (execAconj p e s) := by
  unfold execAconj
  simp [h]

@[simp] theorem execAnorm_wf {p e : Nat} {s : State} (h : s.mem.wf = true) : Res.Canonical (execAnorm p e s) := by
  unfold execAnorm
  simp [h]

@[simp] theorem execAinv_wf {p e : Nat} {s : State} (h : s.mem.wf = true) : Res.Canonical (execAinv p e s) := by
  unfold execAinv
  simp [h]

@[simp] theorem execMma_wf {p e : Nat} {s : State} (h : s.mem.wf = true) : Res.Canonical (execMma p e s) := by
  unfold execMma
  simp [h]

@[simp] theorem execMmao_wf {p e : Nat} {s : State} (h : s.mem.wf = true) : Res.Canonical (execMmao p e s) := by
  unfold execMmao
  simp [h]

@[simp] theorem execMmaz_wf {p e : Nat} {s : State} (h : s.mem.wf = true) : Res.Canonical (execMmaz p e s) := by
  unfold execMmaz
  simp [h]

@[simp] theorem execAmma_wf {p e : Nat} {s : State} (h : s.mem.wf = true) : Res.Canonical (execAmma p e s) := by
  unfold execAmma
  simp [h]

@[simp] theorem execMmaTileWrite_wf {p e : Nat} {s : State} (h : s.mem.wf = true) :
    Res.Canonical (execMmaTileWrite p e s) := by
  unfold execMmaTileWrite
  dsimp only
  split
  · exact h
  · split <;> exact h

/-! ### Filters, markers and plate operations -/

@[simp] theorem execFilt_wf {p e : Nat} {s : State} (h : s.mem.wf = true) : Res.Canonical (execFilt p e s) := by
  unfold execFilt
  simp [h]

@[simp] theorem execCmpt_wf {p e : Nat} {s : State} (h : s.mem.wf = true) : Res.Canonical (execCmpt p e s) := by
  unfold execCmpt
  simp [h]

@[simp] theorem execCnt_wf {p e : Nat} {s : State} (h : s.mem.wf = true) : Res.Canonical (execCnt p e s) := by
  unfold execCnt
  simp [h]

@[simp] theorem execMrk_wf {p e : Nat} {s : State} (h : s.mem.wf = true) : Res.Canonical (execMrk p e s) := by
  unfold execMrk
  simp [h]

@[simp] theorem execStrip_wf {p e : Nat} {s : State} (h : s.mem.wf = true) : Res.Canonical (execStrip p e s) := by
  unfold execStrip
  simp [h]

@[simp] theorem execZip_wf {p e : Nat} {s : State} (h : s.mem.wf = true) : Res.Canonical (execZip p e s) := by
  unfold execZip
  simp [h]

@[simp] theorem execUnzp_wf {p e : Nat} {s : State} (h : s.mem.wf = true) : Res.Canonical (execUnzp p e s) := by
  unfold execUnzp
  simp [h]

@[simp] theorem execPld_wf {p e : Nat} {s : State} (h : s.mem.wf = true) : Res.Canonical (execPld p e s) := by
  unfold execPld
  simp [h]

@[simp] theorem execPst_wf {p e : Nat} {s : State} (h : s.mem.wf = true) : Res.Canonical (execPst p e s) := by
  unfold execPst
  simp [h]

@[simp] theorem execLbuf_wf {p e : Nat} {s : State} (h : s.mem.wf = true) : Res.Canonical (execLbuf p e s) := by
  unfold execLbuf
  simp [h]

@[simp] theorem execTflip_wf {p e : Nat} {s : State} (h : s.mem.wf = true) : Res.Canonical (execTflip p e s) := by
  unfold execTflip
  simp [h]

@[simp] theorem cmdSource_mem (x : Elem) (s : State) : (cmdSource x s).2.mem = s.mem := by
  unfold cmdSource
  dsimp only
  split <;> rfl

@[simp] theorem execCmd_wf {p e : Nat} {s : State} (h : s.mem.wf = true) : Res.Canonical (execCmd p e s) := by
  unfold execCmd
  split
  · simp [h]
  · exact h

/-! ### Memory operations of elements -/

@[simp] theorem State.failElemReq_mem (s : State) (p e : Nat) : (s.failElemReq p e).mem = s.mem := by
  unfold State.failElemReq
  split
  · rfl
  · simp

@[simp] theorem elemXlate_wf {p e : Nat} {t : Truss} {slot gen blk : Nat} {wr : Bool} {s : State}
    (h : s.mem.wf = true) :
    (elemXlate p e t slot gen blk wr s).2.mem.wf = true := by
  unfold elemXlate
  dsimp only
  split
  · split
    · simp [h]
    · simp [h]
    · split <;> simp [h]
  · split <;> simp [h]
  · split
    · rename_i x x1 t1 e1
      have ht1 : t1.mem.wf = true := by simp [snd_mem e1, h]
      exact ht1
    · rename_i x t1 e1
      have ht1 : t1.mem.wf = true := by simp [snd_mem e1, h]
      simp [ht1]
  · split <;> simp [h]

@[simp] theorem elemXlates_wf {p e : Nat} {t : Truss} {g : Geo} {wr shOut : Bool} {bs : List Nat} {s : State}
    (h : s.mem.wf = true) : (elemXlates p e t g wr shOut bs s).2.mem.wf = true := by
  induction bs generalizing s with
  | nil => exact h
  | cons b bs ih =>
    have hq : (elemXlate p e t (s.elem p e).memSlot (s.elem p e).memGen b wr s).2.mem.wf = true := elemXlate_wf h
    have hr := ih hq
    unfold elemXlates
    dsimp only
    split
    · exact hq
    · split
      · rename_i e
        rwa [snd_mem e]
      · exact hr
    · split
      · exact hq
      · split
        · exact hq
        · split
          · exact hq
          · split
            · simp [hq]
            · split
              · rename_i e
                rwa [snd_mem e]
              · exact hr

@[simp] theorem State.endHeld_wf {s : State} {p e part : Nat} (h : s.mem.wf = true) :
    (s.endHeld p e part).mem.wf = true := by
  unfold State.endHeld
  rw [State.modElem_mem]
  split
  · exact h
  · simp [h]

theorem memFire_wf {p e opc : Nat} {wr : Bool} {need : Nat → Requester → Bool}
    {issue : Truss → Geo → List (Nat × Nat) → List (Nat × Option Phys) → State → List Nat × State} {s : State}
    (h : s.mem.wf = true)
    (hi : ∀ t g acc ps u, u.mem.wf = true → (issue t g acc ps u).2.mem.wf = true) :
    Res.Canonical (memFire p e opc wr need issue s) := by
  unfold memFire
  dsimp only
  split
  · exact h
  · rename_i t _
    split
    · exact h
    · split
      · simp [h]
      · generalize (!need _ _) = full
        cases full
        case true => exact h
        case false =>
          simp only [Bool.false_eq_true, if_false]
          split
          · rename_i e1
            have hu := snd_mem e1 ▸ elemXlates_wf h
            rw [Res.canonical_next]
            split
            · rw [State.modElem_mem, State.refSlot_mem, State.setReq_mem]
              exact hu
            · exact hu
          · rename_i e1
            have hu := snd_mem e1 ▸ elemXlates_wf h
            simp [hu]
          · rename_i e1
            have hu := snd_mem e1 ▸ elemXlates_wf h
            simp [hi, hu]

@[simp] theorem State.failedEntry_mem (s : State) (a : AgentId) : (s.failedEntry a).2.mem = s.mem := rfl

@[simp] theorem execMld_wf {p e : Nat} {s : State} (h : s.mem.wf = true) : Res.Canonical (execMld p e s) := by
  unfold execMld
  refine memFire_wf h fun t g acc ps u hu => ?_
  dsimp only
  rw [foldl_snd_mem fun r q => by dsimp only; split <;> simp]
  exact hu

@[simp] theorem execMst_wf {p e : Nat} {s : State} (h : s.mem.wf = true) : Res.Canonical (execMst p e s) := by
  unfold execMst
  refine memFire_wf h fun t g acc ps u hu => ?_
  dsimp only
  rw [foldl_mem fun r q => by split <;> simp]
  exact hu

@[simp] theorem execMamo_wf {p e : Nat} {s : State} (h : s.mem.wf = true) : Res.Canonical (execMamo p e s) := by
  unfold execMamo
  refine memFire_wf h fun t g acc ps u hu => ?_
  dsimp only
  rw [foldl_snd_mem fun r q => by split <;> simp]
  exact hu

@[simp] theorem execElementMemoryComplete_wf {p e n : Nat} {s : State} (h : s.mem.wf = true) :
    Res.Canonical (execElementMemoryComplete p e n s) := by
  unfold execElementMemoryComplete
  dsimp only
  split
  · refine Res.canonical_ite h (Res.canonical_ite h ?_)
    rw [Res.canonical_next]
    apply State.unrefSlot_wf
    rw [State.setReq_mem, State.setElem_mem, freePoisons_mem]
    exact h
  · exact h

/-! ### The effect of configuration words -/

theorem applyControl_mem {by_ : CwBy} {p e f v : Nat} {s t : State} (e' : applyControl by_ p e f v s = .ok t) :
    t.mem = s.mem := by
  unfold applyControl at e'
  dsimp only at e'
  split at e'
  case h_5 => cases e'
  all_goals
    split at e'
    · cases e'
      rfl
    · cases e'

theorem applyBinding_mem {img : Image} {p ix e f v : Nat} {s t : State} (e' : applyBinding img p ix e f v s = .ok t) :
    t.mem = s.mem := by
  unfold applyBinding at e'
  split at e'
  · split at e' <;> cases e'
    rfl
  · cases e'

theorem applyInjection_mem {img : Image} {p e f v inj : Nat} {s t : State}
    (e' : applyInjection img p e f v inj s = .ok t) : t.mem = s.mem := by
  unfold applyInjection at e'
  split at e'
  · dsimp only at e'
    split at e'
    · cases e'
    · split at e' <;> cases e'
      simp
  · cases e'

theorem applyAt_mem {by_ : CwBy} {img : Image} {p ix : Nat} {w : Word32} {inj : Nat} {s t : State}
    (e : applyAt by_ img p ix w inj s = .ok t) : t.mem = s.mem := by
  unfold applyAt at e
  dsimp only at e
  split at e
  · split at e <;> cases e
    rfl
  · split at e
    · cases e
    · exact applyBinding_mem e
  · split at e
    · cases e
    · exact applyInjection_mem e
  · exact applyControl_mem e

/-- A configuration word, and what it leaves of the element that it names, change no memory. -/
theorem applyWord_mem (by_ : CwBy) (img : Image) (t : Truss) (w : Word32) (inj : Nat) (s : State) :
    (applyWord by_ img t w inj s).2.mem = s.mem ∧
      ∀ u, (applyWord by_ img t w inj s).1 = .ok u → u.mem = s.mem := by
  unfold applyWord
  split
  · exact ⟨rfl, fun _ e => CwRes.noConfusion e⟩
  · split
    · rename_i v e
      have hv : v.mem = s.mem := applyAt_mem e
      refine ⟨by simpa using hv, fun u e' => ?_⟩
      cases e'
      simpa using hv
    · exact ⟨State.markFaulted_mem .., fun _ e => CwRes.noConfusion e⟩
    · exact ⟨rfl, fun u e => applyAt_mem e⟩

@[simp] theorem State.judgeUnit_mem (s : State) (t : Truss) (by_ : CwBy) : (s.judgeUnit t by_).2.mem = s.mem := by
  unfold State.judgeUnit
  dsimp only
  refine (foldl_mem (fun u z => ?_) _ _).trans ?_
  · rfl
  · refine foldl_mem (fun _ _ => ?_) _ _
    rfl

@[simp] theorem State.cfgInvalid_mem (s : State) (t el : Nat) : (s.cfgInvalid t el).mem = s.mem := by
  unfold State.cfgInvalid
  simp

@[simp] theorem applyUnit_mem (by_ : CwBy) (img : Image) (t : Truss) (ws : List Word32) (done : List (Nat × Nat))
    (s : State) : (applyUnit by_ img t ws done s).2.mem = s.mem := by
  induction ws generalizing done s with
  | nil => exact State.judgeUnit_mem s t by_
  | cons w ws ih =>
    obtain ⟨h2, h1⟩ := applyWord_mem by_ img t w (done.filter fun k => k == (cwElem w, cwField w)).length s
    unfold applyUnit
    dsimp only
    split
    · rename_i u v e
      have hu : u.mem = s.mem := h1 u (by rw [e])
      exact (ih _ _).trans hu
    · rename_i e
      exact (State.judgeUnit_mem _ t by_).trans ((snd_mem e).trans h2)

/-! ### Scale, configuration and command tokens -/

@[simp] theorem State.siteInvalid_mem (s : State) (p e : Nat) : (s.siteInvalid p e).mem = s.mem := by
  unfold State.siteInvalid
  simp

@[simp] theorem State.refuseCtl_mem (s : State) (p e : Nat) : (s.refuseCtl p e).mem = s.mem := by
  unfold State.refuseCtl
  simp

@[simp] theorem execScaleToken_wf {p e k : Nat} {s : State} (h : s.mem.wf = true) :
    Res.Canonical (execScaleToken p e k s) := by
  unfold execScaleToken
  split
  · exact h
  · dsimp only
    split
    · exact h
    · split
      · simp [h]
      · split
        · simp [h]
        · split
          · simp [h]
          · split
            · simp [h]
            · split
              · simp [h]
              · split <;> simp [h]

@[simp] theorem execCommandTokenAtElement_wf {p e k : Nat} {s : State} (h : s.mem.wf = true) :
    Res.Canonical (execCommandTokenAtElement p e k s) := by
  unfold execCommandTokenAtElement
  split
  · exact h
  · split
    · dsimp only
      split
      · exact h
      · split
        · simp [h]
        · split <;> simp [h]
    · dsimp only
      split
      · exact h
      · split
        · simp [h]
        · split
          · simp [h]
          · split
            · exact h
            · split
              · split <;> exact h
              · simp [h]

@[simp] theorem State.applyToken_mem (s : State) (img : Image) (tr : Truss) (p e el : Nat) (ws : List Word32) :
    (s.applyToken img tr p e el ws).2.mem = s.mem := by
  unfold State.applyToken
  split
  · rfl
  · simp

@[simp] theorem execConfigToken_wf {p e k : Nat} {s : State} (h : s.mem.wf = true) :
    Res.Canonical (execConfigToken p e k s) := by
  unfold execConfigToken
  split
  · exact h
  · split
    · dsimp only
      split
      · split
        · simp [h]
        · split <;> simp [h]
      · exact h
    · dsimp only
      split
      · split
        · simp [h]
        · split
          · simp [h]
          · split
            · exact h
            · split
              · exact h
              · rw [Res.canonical_next]
                split
                · rw [State.siteInvalid_mem]
                  split <;> simp [h]
                · split <;> simp [h]
      · exact h

/-! ### Packets at switch outputs -/

theorem State.depart_mem {s : State} {i : Nat} {k : Packet} {t : State} (e : s.depart i k = some t) :
    t.mem = s.mem := by
  unfold State.depart at e
  dsimp only at e
  split at e
  · cases e
    rfl
  · split at e
    · cases e
    · split at e
      · split at e
        · cases e
          rfl
        · cases e
      · cases e

@[simp] theorem State.countTrim_mem (s : State) (o part : Nat) : (s.countTrim o part).mem = s.mem := by
  unfold State.countTrim
  simp

@[simp] theorem State.enqueue_mem (s : State) (o i : Nat) (k : Packet) : (s.enqueue o i k).mem = s.mem := rfl

@[simp] theorem State.trimQueued_mem (s : State) (o c i : Nat) (k : Packet) : (s.trimQueued o c i k).mem = s.mem := by
  unfold State.trimQueued
  simp

@[simp] theorem State.injectCount_mem (s : State) (o : Nat) (k : Packet) : (s.injectCount o k).2.mem = s.mem := by
  unfold State.injectCount
  dsimp only
  split
  · rfl
  · split <;> rfl

theorem State.retain_mem {s : State} {k : Packet} {t : State} (e : s.retain k = some t) : t.mem = s.mem := by
  unfold State.retain at e
  dsimp only at e
  split at e
  · cases e
    rfl
  · split at e
    case h_1 =>
      split at e
      · cases e
      · cases e
        simp
    case h_2 | h_3 =>
      split at e
      · cases e
        simp
      · cases e
    all_goals
      cases e
      rfl

@[simp] theorem execPacketAtOutput_wf {k : Nat} {s : State} (h : s.mem.wf = true) :
    Res.Canonical (execPacketAtOutput k s) := by
  unfold execPacketAtOutput
  split
  · exact h
  · rename_i p _
    split
    · exact h
    · rename_i o path _
      split
      · simp [h]
      · split
        · exact h
        · have hi : (s.injectCount o p).2.mem.wf = true := by simp [h]
          dsimp only
          split
          · exact h
          · split
            · exact h
            · rename_i t e
              obtain ⟨u, hd, hr⟩ := Option.bind_eq_some_iff.1 e
              have ht : t.mem.wf = true := by rw [State.retain_mem hr, State.depart_mem hd]; exact hi
              split <;> (try split) <;> (try split) <;> simp [ht]

theorem State.arrive_mem {s : State} {i : Nat} {op : PktOp} {y : Packet} {t : State} (e : s.arrive i op = some (y, t)) :
    t.mem = s.mem := by
  unfold State.arrive at e
  split at e
  · cases e
  · split at e
    · cases e
    · obtain ⟨u, hu, hz⟩ := Option.map_eq_some_iff.1 e
      have hm : u.mem = s.mem := State.depart_mem hu
      cases hz
      exact hm

@[simp] theorem State.received_mem (s : State) (k : Packet) : (s.received k).mem = s.mem := by
  unfold State.received
  split <;> rfl

@[simp] theorem State.markApplied_mem (s : State) (k : Packet) : (s.markApplied k).mem = s.mem := rfl

@[simp] theorem State.meterHost_mem (s : State) (part n : Nat) (p : Phys) : (s.meterHost part n p).mem = s.mem := by
  unfold State.meterHost
  split
  · simp
  · rfl

@[simp] theorem execReadPkt_wf {k : Nat} {s : State} (h : s.mem.wf = true) : Res.Canonical (execReadPkt k s) := by
  unfold execReadPkt
  split
  · exact h
  · rename_i x x1 t e
    have ht : t.mem.wf = true := by rw [State.arrive_mem e]; exact h
    split
    · simp [ht]
    · split
      · exact ht
      · split
        · exact ht
        · dsimp only
          rw [Res.canonical_next, State.send_mem]
          split <;> simp [ht]

@[simp] theorem State.applyBlocks_wf {s : State} {part : Nat} {l : List BlockW} (h : s.mem.wf = true) :
    (s.applyBlocks part l).2.mem.wf = true := State.applyBlocks_kept l h

theorem atHome_wf {k : Nat} {op : PktOp} {f : Packet → State → State} {s : State} (h : s.mem.wf = true)
    (hf : ∀ p t, t.mem.wf = true → (f p t).mem.wf = true) :
    Res.Canonical (atHome k op f s) := by
  unfold atHome
  split
  · exact h
  · rename_i x x1 t e
    have ht : t.mem.wf = true := by rw [State.arrive_mem e]; exact h
    split
    · simp [ht]
    · simp [ht]
    · exact ht
    · exact ht
    · simp [ht]
    · simp [hf, ht]

@[simp] theorem execWritePkt_wf {k : Nat} {s : State} (h : s.mem.wf = true) : Res.Canonical (execWritePkt k s) := by
  unfold execWritePkt
  apply atHome_wf
  · exact h
  · intro z u hu
    simp [hu]

@[simp] theorem execAtomicPkt_wf {k : Nat} {s : State} (h : s.mem.wf = true) : Res.Canonical (execAtomicPkt k s) := by
  unfold execAtomicPkt
  refine atHome_wf h fun p t ht => ?_
  simpa using Memory.wf_setBlock _ _ _ ht

@[simp] theorem State.homeAtomic_wf {s : State} {part ea width aop : Nat} {words : List Word} (h : s.mem.wf = true) :
    (s.homeAtomic part ea width aop words).mem.wf = true := State.homeAtomic_kept part ea width aop words h

@[simp] theorem execAbandonPkt_wf {k : Nat} {s : State} (h : s.mem.wf = true) :
    Res.Canonical (execAbandonPkt k s) := by
  unfold execAbandonPkt
  split
  · exact h
  · rename_i x x1 t e
    have ht : t.mem.wf = true := by rw [State.arrive_mem e]; exact h
    exact ht

@[simp] theorem State.countLate_mem (s : State) (p : Packet) : (s.countLate p).mem = s.mem := by
  unfold State.countLate
  split <;> rfl

@[simp] theorem State.coreData_mem (s : State) (a : AgentId) (tag : Nat) (w : BlockW) :
    (s.coreData a tag w).mem = s.mem := by
  unfold State.coreData
  split
  · dsimp only
    split <;> rfl
  · rfl

@[simp] theorem State.dataSeen_mem (s : State) (a : AgentId) (p : Packet) (late : List BlockW) (w : BlockW) :
    (s.dataSeen a p late w).2.mem = s.mem := by
  unfold State.dataSeen
  dsimp only
  split
  · split
    · rfl
    · simp
  · rfl

@[simp] theorem execDataPkt_wf {k : Nat} {s : State} (h : s.mem.wf = true) : Res.Canonical (execDataPkt k s) := by
  unfold execDataPkt
  split
  · exact h
  · rename_i x x1 t e
    have ht : t.mem.wf = true := by rw [State.arrive_mem e]; exact h
    split
    · simp [ht]
    · split
      · simp [ht]
      · split
        · simp [ht]
        · split
          · exact ht
          · dsimp only
            split
            · exact ht
            · rw [Res.canonical_next, State.coreData_mem, State.setReq_mem]
              split
              · exact ht
              · rw [State.dataSeen_mem]
                split
                · simp [ht]
                · exact ht

@[simp] theorem State.noteLate_mem (s : State) (a : AgentId) (x : Retained) : (s.noteLate a x).mem = s.mem := by
  unfold State.noteLate
  split
  · rfl
  · refine (foldl_mem (fun u z => ?_) _ _).trans ?_
    · split
      · rfl
      · split <;> rfl
    · rfl

@[simp] theorem State.letGo_mem (s : State) (a : AgentId) (x : Retained) (applied : Bool) :
    (s.letGo a x applied).mem = s.mem := by
  unfold State.letGo
  refine (foldl_mem (fun u z => ?_) _ _).trans ?_
  · split
    · simp
    · rfl
  · dsimp only
    rw [State.setBay_mem, State.setBay_mem, State.setKept_mem]
    split
    · simp
    · rfl

@[simp] theorem State.acked_mem (s : State) (a : AgentId) (p : Packet) : (s.acked a p).mem = s.mem := by
  unfold State.acked
  split
  · rfl
  · simp

@[simp] theorem State.givenUp_mem (s : State) (a : AgentId) (x : Retained) : (s.givenUp a x).mem = s.mem := by
  unfold State.givenUp
  simp

@[simp] theorem execArespPkt_wf {k : Nat} {s : State} (h : s.mem.wf = true) : Res.Canonical (execArespPkt k s) := by
  unfold execArespPkt
  split
  · exact h
  · rename_i x x1 t e
    have ht : t.mem.wf = true := by rw [State.arrive_mem e]; exact h
    split
    · simp [ht]
    · dsimp only
      split
      · split <;> simp [ht]
      · simp [ht]

@[simp] theorem execAckPkt_wf {k : Nat} {s : State} (h : s.mem.wf = true) : Res.Canonical (execAckPkt k s) := by
  unfold execAckPkt
  split
  · exact h
  · rename_i x x1 t e
    have ht : t.mem.wf = true := by rw [State.arrive_mem e]; exact h
    dsimp only
    rw [Res.canonical_next, State.acked_mem]
    split
    · split <;> exact ht
    · exact ht

@[simp] theorem State.askAgain_mem (s : State) (p : Packet) (late : Bool) : (s.askAgain p late).mem = s.mem := by
  unfold State.askAgain
  split
  · dsimp only
    split <;> simp
  · dsimp only
    split
    · simp
    · rfl

@[simp] theorem execResendPkt_wf {k : Nat} {s : State} (h : s.mem.wf = true) : Res.Canonical (execResendPkt k s) := by
  unfold execResendPkt
  split
  · exact h
  · rename_i x x1 t e
    have ht : t.mem.wf = true := by rw [State.arrive_mem e]; exact h
    simp [ht]

@[simp] theorem State.sendAgain_mem (s : State) (k : Packet) : (s.sendAgain k).mem = s.mem := rfl

@[simp] theorem State.resend_mem (s : State) (k : Packet) : (s.resend k).mem = s.mem := rfl

@[simp] theorem State.rehome_mem (s : State) (a : AgentId) (x : Retained) (k : Packet) :
    (s.rehome a x k).2.mem = s.mem := by
  unfold State.rehome
  split
  · rfl
  · dsimp only
    split
    · simp
    · rfl

@[simp] theorem State.resendRefused_mem (s : State) (a : AgentId) (g : Nat) :
    (s.resendRefused a g).2.mem = s.mem := by
  unfold State.resendRefused
  dsimp only
  refine (foldl_mem (fun u z => ?_) _ _).trans ?_
  · rfl
  · simp

@[simp] theorem State.resumeRequests_mem (s : State) (a : AgentId) (g : Nat) :
    (s.resumeRequests a g).mem = s.mem := by
  unfold State.resumeRequests
  rw [State.flushUnsent_mem]
  split <;> simp

@[simp] theorem execOwnernakPkt_wf {k : Nat} {s : State} (h : s.mem.wf = true) : Res.Canonical
    (execOwnernakPkt k s) := by
  unfold execOwnernakPkt
  split
  · exact h
  · rename_i p u e
    have hu : u.mem.wf = true := by rw [State.arrive_mem e]; exact h
    dsimp only
    split
    · exact hu
    · split
      · rw [Res.canonical_next]
        cases u.keptFor p.dst p with
        | none => exact hu
        | some x => simpa using hu
      · generalize hq : (if (u.req p.dst).refusals.contains p.guest then (Stall.owner p.guest, u)
          else u.raiseIso (u.vfOfAgent p.dst) p.dst p.guest (u.keptFor p.dst p).isSome) = q
        have hv : q.2.mem.wf = true := by
          rw [← hq]
          split
          · exact hu
          · exact State.raiseIso_wf hu
        have hr {v : State} (hv : v.mem.wf = true) (c : Bool) (a : AgentId) (g : Nat) :
            Res.Canonical (.next (if c then v.resumeRequests a g else v)) := by
          cases c <;> simpa using hv
        refine hr ?_ _ _ _
        split <;> simp [hv]

@[simp] theorem execRetransmit_wf {a : AgentId} {n : Nat} {s : State} (h : s.mem.wf = true) :
    Res.Canonical (execRetransmit a n s) := by
  unfold execRetransmit
  dsimp only
  split
  · split
    · split
      · exact h
      · simp [h]
    · exact h
  · split
    · split
      · split <;> exact h
      · exact h
    · exact h

@[simp] theorem State.linkErr_mem (s : State) (a : AgentId) : (s.linkErr a).mem = s.mem := by
  unfold State.linkErr
  split
  · rfl
  · simp

@[simp] theorem execResponseTimeout_wf {a : AgentId} {tag : Nat} {s : State} (h : s.mem.wf = true) :
    Res.Canonical (execResponseTimeout a tag s) := by
  unfold execResponseTimeout
  extract_lets r held
  refine Res.canonical_ite h ?_
  split
  · refine Res.canonical_ite h ?_
    dsimp only
    split <;> simp [h]
  · split
    · exact h
    · dsimp only
      split <;> simp [h]

@[simp] theorem execLinkReplay_wf {k : Nat} {s : State} (h : s.mem.wf = true) :
    Res.Canonical (execLinkReplay k s) := by
  unfold execLinkReplay
  split
  · exact h
  · split
    · exact h
    · split
      all_goals
        dsimp only
        split
        · exact h
        · split
          · exact h
          · rw [Res.canonical_next]
            refine foldl_wf (fun u z hu => ?_) _ ?_
            · split <;> exact hu
            · exact h

@[simp] theorem execBackgroundScrub_wf {b n : Nat} {bad : List Nat} {s : State} (h : s.mem.wf = true) :
    Res.Canonical (execBackgroundScrub b n bad s) := by
  unfold execBackgroundScrub
  dsimp only
  rw [Res.canonical_next, State.setBay_mem]
  exact foldl_wf (fun _ _ hu => Memory.wf_setBlock _ _ _ hu) _ h

@[simp] theorem State.bringIn_mem (s : State) (k : Packet) : (s.bringIn k).mem = s.mem := by
  unfold State.bringIn
  split
  · rfl
  · rw [State.send_mem]
    split
    · simp
    · rfl

theorem spanPacket_wf {k : Nat} {op : PktOp} {f : Packet → State → State} {s : State} (h : s.mem.wf = true)
    (hf : ∀ p t, t.mem.wf = true → (f p t).mem.wf = true) :
    Res.Canonical (spanPacket k op f s) := by
  unfold spanPacket
  split
  · exact h
  · rename_i x x1 t e
    have ht : t.mem.wf = true := by rw [State.arrive_mem e]; exact h
    rw [Res.canonical_next]
    split
    · simp [ht]
    · simp [hf, ht]

@[simp] theorem execSpanPkt_wf {k : Nat} {s : State} (h : s.mem.wf = true) : Res.Canonical (execSpanPkt k s) := by
  unfold execSpanPkt
  apply spanPacket_wf
  · exact h
  · intro z u hu
    split
    · simp [hu]
    · exact hu

@[simp] theorem execSpanackPkt_wf {k : Nat} {s : State} (h : s.mem.wf = true) :
    Res.Canonical (execSpanackPkt k s) := by
  unfold execSpanackPkt
  apply spanPacket_wf
  · exact h
  · simp

@[simp] theorem execSpanresendPkt_wf {k : Nat} {s : State} (h : s.mem.wf = true) :
    Res.Canonical (execSpanresendPkt k s) := by
  unfold execSpanresendPkt
  apply spanPacket_wf
  · exact h
  · simp

@[simp] theorem unitPacket_wf {k : Nat} {op : PktOp} {s : State} (h : s.mem.wf = true) :
    Res.Canonical (unitPacket k op s) := by
  unfold unitPacket
  split
  · exact h
  · rename_i x x1 t e
    have ht : t.mem.wf = true := by rw [State.arrive_mem e]; exact h
    split
    · simp [ht]
    · exact ht

@[simp] theorem execMovePkt_wf {k : Nat} {s : State} (h : s.mem.wf = true) : Res.Canonical (execMovePkt k s) := by
  unfold execMovePkt
  simp [h]

@[simp] theorem execCollPkt_wf {k : Nat} {s : State} (h : s.mem.wf = true) : Res.Canonical (execCollPkt k s) := by
  unfold execCollPkt
  simp [h]

/-! ### Routers -/

@[simp] theorem State.landHop_mem (s : State) (p e h1 : Nat) : (s.landHop p e h1).mem = s.mem := by
  unfold State.landHop
  split <;> rfl

@[simp] theorem State.enterNamed_mem (s : State) (p e src : Nat) (t : Token) :
    (s.enterNamed p e src t).mem = s.mem := by
  unfold State.enterNamed
  simp

@[simp] theorem State.sillDrop_wf {s : State} {q f p e : Nat} (h : s.mem.wf = true) :
    (s.sillDrop q f p e).mem.wf = true := by
  unfold State.sillDrop
  dsimp only
  split <;> split <;> simp [h]

@[simp] theorem spillReach_wf {p : Nat} {a : AgentId} {l : Link} {wr : Bool} {bs : List Nat} {s : State}
    (h : s.mem.wf = true) : (spillReach p a l wr bs s).2.mem.wf = true := by
  induction bs generalizing s with
  | nil => exact h
  | cons b bs ih =>
    unfold spillReach
    dsimp only
    split
    · split
      · have hr := ih (s := (s.xlate (bayOf p) (((s.trussOf p).map Truss.part).getD 0x3F) 0 0 (b / 2 ^ 16)).2) (by simp [h])
        split
        · rename_i e
          rwa [snd_mem e] 
        · exact hr
      · simp [h]
    · simp [h]
    · simp [h]
    · split
      · rename_i e
        simp [snd_mem e, h]
      · rename_i e
        simp [snd_mem e, h]

@[simp] theorem State.freeData_mem (s : State) : s.freeData.2.mem = s.mem := by
  unfold State.freeData
  refine foldl_snd_mem (fun z k => ?_) _ _
  rfl

@[simp] theorem State.spillBlock_wf {s : State} {ph : Phys} (h : s.mem.wf = true) : (s.spillBlock ph).mem.wf = true :=
  State.spillBlock_kept ph h

theorem State.linkIn_wf {s : State} {p link : Nat} {l : Link} {t : Token} {u : State} (h : s.mem.wf = true)
    (e : s.linkIn p link l t = some u) : u.mem.wf = true := by
  have hc : ∀ x ∈ s.linkIn p link l t, x.mem.wf = true := by
    unfold State.linkIn
    split
    · simp [h]
    · split
      · simp
      · split
        · simp [h]
        · dsimp only
          split
          · simp
          · have hr := spillReach_wf (p := p) (a := spillAgent link l true) (l := l) (wr := true)
              (bs := l.ringBlocks l.prodN) h
            split
            · rename_i e1
              have hv := snd_mem e1 ▸ hr
              rintro x ⟨⟩
              exact foldl_wf (fun v z hv => by simpa using hv) _ hv
            · rename_i e1
              rintro x ⟨⟩
              exact snd_mem e1 ▸ hr
  exact hc u e

@[simp] theorem State.linkOut_wf {s : State} {p link : Nat} {l : Link} (h : s.mem.wf = true) :
    (s.linkOut p link l).2.mem.wf = true := by
  unfold State.linkOut
  split
  · exact h
  · split
    · exact h
    · extract_lets a take
      have htake : ∀ u : State, u.mem.wf = true → (take u).2.mem.wf = true := fun u hu => hu
      split
      · exact htake s h
      · split
        · exact h
        · split
          · split
            · rename_i e
              simp [snd_mem e, h]
            · rename_i ps u e
              have hu : u.mem.wf = true := by simp [snd_mem e, h]
              dsimp only
              rw [foldl_snd_mem (fun z x => by simp)]
              exact hu
          · dsimp only
            split
            · exact h
            · split
              · simp [h]
              · exact htake _ (by simp [h])

@[simp] theorem hopFromSide_wf {p e d : Nat} {s : State} (h : s.mem.wf = true) :
    (hopFromSide p e d s).mem.wf = true := by
  unfold hopFromSide
  split
  · exact h
  · split
    · exact h
    · dsimp only
      split
      · simp [h]
      · split
        · simp [h]
        · split
          · simp [h]
          · split
            · simp [h]
            · split
              · simp [h]
              · split <;> simp [h]

@[simp] theorem hopFromEdge_mem (p e : Nat) (s : State) : (hopFromEdge p e s).mem = s.mem := by
  unfold hopFromEdge
  split
  · rfl
  · split
    · dsimp only
      split
      · split <;> simp
      · rfl
    · dsimp only
      split
      · split <;> simp
      · rfl
    · rfl

@[simp] theorem hopFromElem_mem (p e k : Nat) (s : State) : (hopFromElem p e k s).mem = s.mem := by
  unfold hopFromElem
  split
  all_goals
    dsimp only
    split
    · rfl
    · split
      · rfl
      · split <;> simp

@[simp] theorem hopFromLink_wf {p e : Nat} {s : State} (h : s.mem.wf = true) : (hopFromLink p e s).mem.wf = true := by
  unfold hopFromLink
  dsimp only
  split
  · exact h
  · split
    · exact h
    · split
      · rename_i x x1 t e1
        have ht : t.mem.wf = true := by simp [snd_mem e1, h]
        split <;> simp [ht]
      · rename_i x t e1
        have ht : t.mem.wf = true := by simp [snd_mem e1, h]
        exact ht

@[simp] theorem hopToEdge_mem (p e : Nat) (s : State) : (hopToEdge p e s).mem = s.mem := by
  unfold hopToEdge
  split
  · rename_i t k _ _
    extract_lets pg len r pg'
    have hr : r.2.mem = s.mem := by simp [r]
    split
    · rfl
    · split
      · exact hr
      · split
        · simpa using hr
        · split <;> simpa using hr
        · simpa using hr
  · rfl

@[simp] theorem hopToLink_wf {p e : Nat} {s : State} (h : s.mem.wf = true) : (hopToLink p e s).mem.wf = true := by
  unfold hopToLink
  split
  · exact h
  · dsimp only
    split
    · split
      · simp [h]
      · split
        · rename_i x t e1
          have ht : t.mem.wf = true := State.linkIn_wf (by simp [h]) e1
          split <;> exact ht
        · simp [h]
    · simp [h]

@[simp] theorem execTokenHop_wf {p e src : Nat} {s : State} (h : s.mem.wf = true) :
    Res.Canonical (execTokenHop p e src s) := by
  unfold execTokenHop
  split
  · exact h
  · split
    · simp [h]
    · split
      · exact h
      · split
        · simp [h]
        · simp [h]
        · simp [h]
        · simp [h]
        · simp [h]
        · simp [h]
        · exact h

@[simp] theorem State.popHop_mem (s : State) (p e h1 : Nat) : (s.popHop p e h1).mem = s.mem := rfl

@[simp] theorem State.refuseAt_mem (s : State) (p e h1 : Nat) : (s.refuseAt p e h1).mem = s.mem := by
  unfold State.refuseAt
  simp

theorem controlHead_mem {p e h1 : Nat} {s : State} {t : State} (e' : controlHead p e h1 s = some t) :
    t.mem = s.mem := by
  unfold controlHead at e'
  split at e'
  · cases e'
  · split at e'
    · cases e'
    · cases e'
      simp
    · cases e'
      split <;> simp

@[simp] theorem State.takeControl_mem (s : State) (p e h1 : Nat) (t : Token) :
    (s.takeControl p e h1 t).mem = s.mem := by
  unfold State.takeControl
  simp

@[simp] theorem State.passOn_mem (s : State) (p e h1 out : Nat) (t : Token) :
    (s.passOn p e h1 out t).mem = s.mem := by
  unfold State.passOn
  rw [State.fabricMoved_mem]
  split <;> simp

@[simp] theorem passData_mem (p e h1 out : Nat) (f : Elem → Elem) (s : State) :
    (passData p e h1 out f s).mem = s.mem := by
  unfold passData
  split
  · rfl
  · split
    · split
      · simp
      · rfl
    · split
      · simp
      · rfl
    · split <;> simp

@[simp] theorem execSteer_wf {p e : Nat} {s : State} (h : s.mem.wf = true) : Res.Canonical (execSteer p e s) := by
  unfold execSteer
  refine Res.canonical_ite h ?_
  split
  · rename_i e1
    exact (congrArg Memory.wf (controlHead_mem e1)).trans h
  · extract_lets x
    split
    · exact h
    · split
      · exact Res.canonical_ite (by simp [h]) h
      · split
        · exact h
        · exact Res.canonical_ite (by simp [h]) h
      · exact Res.canonical_ite (by simp [h]) h

@[simp] theorem execMerge_wf {p e : Nat} {s : State} (h : s.mem.wf = true) : Res.Canonical (execMerge p e s) := by
  unfold execMerge
  split
  · exact h
  · split
    · rename_i x t e1
      have ht : t.mem.wf = true := by rw [controlHead_mem e1]; exact h
      exact ht
    · dsimp only
      split
      · split
        · exact h
        · simp [h]
      · simp [h]

@[simp] theorem execCarry_wf {p e : Nat} {s : State} (h : s.mem.wf = true) : Res.Canonical (execCarry p e s) := by
  unfold execCarry
  split
  · exact h
  · split
    · rename_i x t e1
      have ht : t.mem.wf = true := by rw [controlHead_mem e1]; exact h
      exact ht
    · dsimp only
      split
      · simp [h]
      · split
        · exact h
        · simp [h]
      · simp [h]

@[simp] theorem execMitre_wf {p e : Nat} {s : State} (h : s.mem.wf = true) : Res.Canonical (execMitre p e s) := by
  unfold execMitre
  split
  · dsimp only
    split
    · exact h
    · split
      · simp [h]
      · split
        · exact h
        · split
          · simp [h]
          · simp [h]
          · split <;> simp [h]
  · dsimp only
    split
    · exact h
    · split
      · exact h
      · split
        · exact h
        · split
          · simp [h]
          · simp [h]
          · split <;> simp [h]

/-! ### Plate tile states -/

@[simp] theorem State.setTileState_mem (s : State) (p site tile : Nat) (st : BitVec 2) :
    (s.setTileState p site tile st).mem = s.mem := by
  unfold State.setTileState
  rw [State.setPage_mem]
  split
  · simp
  · rfl

theorem tileCheck_wf {sel : Word} {s : State} {r : Res} (h : s.mem.wf = true) (e : tileCheck sel s = some r) :
    Res.Canonical r := by
  have hc : ∀ x ∈ tileCheck sel s, Res.Canonical x := by
    unfold tileCheck
    split
    · simp [h]
    · split <;> simp [h]
  exact hc r e

@[simp] theorem tileChange_wf {op : Nat} {a : Reg} {s : State} (h : s.mem.wf = true) :
    Res.Canonical (tileChange op a s) := by
  unfold tileChange
  dsimp only
  split
  · rename_i x r e
    have hr : Res.Canonical r := tileCheck_wf h e
    exact hr
  · split <;> simp [h]

@[simp] theorem execTgive_wf {a : Reg} {s : State} (h : s.mem.wf = true) : Res.Canonical (execTgive a s) := by
  unfold execTgive
  simp [h]

@[simp] theorem execTtake_wf {a : Reg} {s : State} (h : s.mem.wf = true) : Res.Canonical (execTtake a s) := by
  unfold execTtake
  simp [h]

@[simp] theorem execTempty_wf {a : Reg} {s : State} (h : s.mem.wf = true) : Res.Canonical (execTempty a s) := by
  unfold execTempty
  simp [h]

@[simp] theorem execTstat_wf {d a : Reg} {s : State} (h : s.mem.wf = true) : Res.Canonical (execTstat d a s) := by
  unfold execTstat
  dsimp only
  split
  · rename_i x r e
    have hr : Res.Canonical r := tileCheck_wf h e
    exact hr
  · simp [h]

@[simp] theorem execTwait_wf {a : Reg} {st : BitVec 2} {s : State} (h : s.mem.wf = true) :
    Res.Canonical (execTwait a st s) := by
  unfold execTwait
  dsimp only
  split
  · rename_i x r e
    have hr : Res.Canonical r := tileCheck_wf h e
    exact hr
  · split
    · simp [h]
    · exact h

/-! ### Core instructions on the fabric -/

@[simp] theorem cfgEnd_wf {refused : Option Nat} {s : State} (h : s.mem.wf = true) :
    Res.Canonical (cfgEnd refused s) := by
  unfold cfgEnd
  split
  · simp [h]
  · dsimp only
    rw [Res.canonical_next]
    split <;> simp [h]

@[simp] theorem cfgBlock_mem (img : Image) (t : Truss) (ws : List Word32) (pos : Nat) (done : List Word) (s : State) :
    (cfgBlock img t ws pos done s).2.2.2.mem = s.mem := by
  induction ws generalizing pos done s with
  | nil => rfl
  | cons w ws ih =>
    obtain ⟨h2, h1⟩ := applyWord_mem (.segment s.cur) img t w (done.filter fun k => k == injKey w).length s
    unfold cfgBlock
    dsimp only
    split
    · rename_i e
      exact (ih _ _ _).trans (h1 _ e)
    · exact h2
    · rfl

@[simp] theorem cfgTurn_wf {base : Word} {n pos : Nat} {done : List Word} {s : State} (h : s.mem.wf = true) :
    Res.Canonical (cfgTurn base n pos done s) := by
  unfold cfgTurn
  extract_lets ea keep off k use u
  have huse : ∀ (tag : Nat) (w : BlockW) (u : State), u.mem.wf = true → Res.Canonical (use tag w u) := by
    intro tag w u hu
    simp only [use, keep, off, k]
    split
    · exact hu
    · split
      · simp [hu]
      · have hb (ws : List Word32) (i : Image) (x : Truss) : (cfgBlock i x ws pos done u).2.2.2.mem.wf = true := by
          rwa [cfgBlock_mem]
        split
        · exact hb _ _ _
        · exact cfgEnd_wf (hb _ _ _)
        · exact waitFor_wf (hb _ _ _)
  split
  · simp [h]
  · split
    · exact huse _ _ _ h
    · split
      · split <;> simp [h]
      · have hk : (keep s pos done []).mem.wf = true := h
        dsimp only
        split
        · rename_i e
          exact Go.wf_stop e (coreXlate_wf hk)
        · rename_i e
          have ht := Go.wf_ok e (coreXlate_wf hk)
          split
          · rename_i e1
            exact Go.wf_stop e1 (corePlace_wf ht)
          · rename_i e1
            have hu := Go.wf_ok e1 (corePlace_wf ht)
            split
            · split
              · exact huse _ _ _ (by simp [hu])
              · simp [hu]
            · simp [hu]

@[simp] theorem execCfg_wf {a b : Reg} {s : State} (h : s.mem.wf = true) : Res.Canonical (execCfg a b s) := by
  unfold execCfg
  split
  · dsimp only
    split
    · simp [h]
    · split
      · simp [h]
      · split
        · simp [h]
        · split <;> simp [h]
  · dsimp only
    split
    · simp [h]
    · split
      · simp [h]
      · split <;> simp [h]

@[simp] theorem execStart_wf {s : State} (h : s.mem.wf = true) : Res.Canonical (execStart s) := by
  unfold execStart
  split
  · dsimp only
    rw [Res.canonical_next, complete_mem]
    refine foldl_wf (fun u z hu => ?_) _ ?_
    · exact hu
    · exact h
  · exact h

@[simp] theorem execErd_wf {d a : Reg} {w : BitVec 2} {s : State} (h : s.mem.wf = true) :
    Res.Canonical (execErd d a w s) := by
  unfold execErd
  dsimp only
  split <;> simp [h]

theorem State.reserveAll_mem {t : Nat} {l : List (Nat × Bool × Nat)} {s u : State} (e : s.reserveAll t l = some u) :
    u.mem = s.mem := by
  induction l generalizing s with
  | nil => cases e; rfl
  | cons x es ih =>
    unfold State.reserveAll at e
    split at e
    · cases e
    · split at e
      · have hu := ih e
        exact hu
      · cases e

@[simp] theorem roundBytes_wf {n : Nat} {ea : Word} {s : State} (h : s.mem.wf = true) :
    Go.Canonical (roundBytes n ea s) := by
  induction n generalizing ea s with
  | zero => exact h
  | succ n ih =>
    unfold roundBytes
    split
    · rename_i e
      exact Go.wf_stop e (coreRead_wf h)
    · rename_i e
      have ht := Go.wf_ok e (coreRead_wf h)
      split
      · simp [ht]
      · split
        · rename_i e1
          exact Go.wf_stop e1 (ih ht)
        · rename_i e1
          exact Go.wf_ok e1 (ih ht)

@[simp] theorem execRound_wf {a : Reg} {s : State} (h : s.mem.wf = true) : Res.Canonical (execRound a s) := by
  unfold execRound
  dsimp only
  split
  · simp [h]
  · split
    · simp [h]
    · apply Go.bind_wf
      · simp [h]
      · intro z u hu
        split
        · simp [hu]
        · split
          · simp [hu]
          · apply Go.bind_wf
            · simp [hu]
            · intro z1 u1 hu1
              split
              · simp [hu1]
              · split
                · simp [hu1]
                · split
                  · rename_i x t e
                    have ht : t.mem.wf = true := by rw [State.reserveAll_mem e]; exact hu1
                    simp [ht]
                  · exact hu1

@[simp] theorem execLstat_wf {d a : Reg} {s : State} (h : s.mem.wf = true) : Res.Canonical (execLstat d a s) := by
  unfold execLstat
  dsimp only
  split
  · simp [h]
  · split <;> simp [h]

/-! ### Engine commands -/

@[simp] theorem State.setSide_mem (s : State) (x : Side) (st : BitVec 2) : (s.setSide x st).mem = s.mem := by
  unfold State.setSide
  split
  · simp
  · rfl

@[simp] theorem State.refCmd_wf {s : State} {op : Nat} {d : List Byte} {part : Nat} {take : Bool}
    (h : s.mem.wf = true) :
    (s.refCmd op d part take).mem.wf = true := by
  unfold State.refCmd
  refine foldl_wf (fun u z hu => ?_) _ ?_
  · split <;> simp [hu]
  · exact h

@[simp] theorem State.putCmd_wf {s : State} {g : Nat} {c : EngCmd} {t : Truss} {bay : Nat} (h : s.mem.wf = true) :
    (s.putCmd g c t bay).mem.wf = true := by
  unfold State.putCmd
  dsimp only
  apply State.refCmd_wf
  split
  · simp [h]
  · exact h

@[simp] theorem issueEngine_wf {op sel : Nat} {d a : Reg} {s : State} (h : s.mem.wf = true) :
    Res.Canonical (issueEngine op sel d a s) := by
  unfold issueEngine
  dsimp only
  split
  · simp [h]
  · split
    · simp [h]
    · apply Go.bind_wf
      · simp [h]
      · intro z u hu
        split
        · exact hu
        · split
          · simp [hu]
          · simp [hu]
          · simp [hu]
          · simp [hu]
          · simp [hu]
          · split
            · simp [hu]
            · split
              · exact hu
              · split
                · exact hu
                · simp [hu]

@[simp] theorem execCpy_wf {d a : Reg} {e : BitVec 6} {s : State} (h : s.mem.wf = true) :
    Res.Canonical (execCpy d a e s) := by
  unfold execCpy
  split <;> simp [h]

@[simp] theorem execGath_wf {d a : Reg} {s : State} (h : s.mem.wf = true) : Res.Canonical (execGath d a s) := by
  unfold execGath
  simp [h]

@[simp] theorem execScat_wf {d a : Reg} {s : State} (h : s.mem.wf = true) : Res.Canonical (execScat d a s) := by
  unfold execScat
  simp [h]

@[simp] theorem execRedc_wf {d a : Reg} {s : State} (h : s.mem.wf = true) : Res.Canonical (execRedc d a s) := by
  unfold execRedc
  simp [h]

@[simp] theorem execEwait_wf {a : Reg} {s : State} (h : s.mem.wf = true) : Res.Canonical (execEwait a s) := by
  unfold execEwait
  dsimp only
  split
  · simp [h]
  · exact h

@[simp] theorem execEpoll_wf {d a : Reg} {s : State} (h : s.mem.wf = true) : Res.Canonical (execEpoll d a s) := by
  unfold execEpoll
  simp [h]

@[simp] theorem State.crxDone_mem (s : State) (p st : Nat) : (s.crxDone p st).mem = s.mem := rfl

@[simp] theorem execEngineTakeCommand_wf {p : Nat} {s : State} (h : s.mem.wf = true) :
    Res.Canonical (execEngineTakeCommand p s) := by
  unfold execEngineTakeCommand
  split
  · exact h
  · dsimp only
    split
    · split
      · exact h
      · simp [h]
      · simp [h]
      · split
        · split
          · exact h
          · rw [Res.canonical_next, State.cfgInvalid_mem]
            split <;> exact h
        · split <;> exact h
    · exact h

@[simp] theorem State.modCmd_mem (s : State) (g : Nat) (f : EngCmd → EngCmd) : (s.modCmd g f).mem = s.mem := rfl

@[simp] theorem State.engDrop_mem (s : State) (g : Nat) (tags : List Nat) : (s.engDrop g tags).mem = s.mem := rfl

@[simp] theorem State.failCmd_mem (s : State) (g : Nat) : (s.failCmd g).mem = s.mem := rfl

@[simp] theorem State.failCmdReq_mem (s : State) (g : Nat) (c : EngCmd) : (s.failCmdReq g c).mem = s.mem := by
  unfold State.failCmdReq
  dsimp only
  split
  · rfl
  · simp

@[simp] theorem State.stallEng_mem (s : State) (g : Nat) (st : Stall) : (s.stallEng g st).mem = s.mem := rfl

/-- What an engine's access goes on with, or is left with, has memory in canonical form. -/
def EngCanonical {α : Type} (f : α → State) : Except State α → Prop
  | .ok z => (f z).mem.wf = true
  | .error t => t.mem.wf = true

theorem engXlate_wf {g : Nat} {c : EngCmd} {slot gen off : Nat} {wr : Bool} {s : State} (h : s.mem.wf = true) :
    EngCanonical (fun z => z.2.2) (engXlate g c slot gen off wr s) := by
  have hx : (s.xlateOff (engAgent g).bay c.part c.view slot off).2.mem.wf = true := by simp [h]
  have hs (q : Stall × State) (hq : q.2.mem.wf = true) : (q.2.stallEng g q.1).mem.wf = true := by simp [hq]
  unfold engXlate
  dsimp only
  split
  · split
    · exact hx
    · exact hs _ (State.raiseIso_wf hx)
  · exact hs _ (State.raiseFault_wf hx)
  · split
    · rename_i st t e
      have ht : t.mem.wf = true := snd_mem e ▸ State.raiseXlateErr_wf hx
      exact hs (st, t) ht
    · rename_i t e
      have ht : t.mem.wf = true := snd_mem e ▸ State.raiseXlateErr_wf hx
      have hf : (t.failCmdReq g c).mem.wf = true := by simp [ht]
      exact hf
  · exact hs _ (State.raiseIso_wf hx)

theorem engRead_wf {g : Nat} {c : EngCmd} {slot gen : Nat} {home : Bool} {bs : List Nat} {s : State}
    (h : s.mem.wf = true) : EngCanonical Prod.snd (engRead g c slot gen home bs s) := by
  induction bs generalizing s with
  | nil => exact h
  | cons b bs ih =>
    have hx : EngCanonical _ (engXlate g c slot gen (64 * b) false s) := engXlate_wf h
    unfold engRead
    split
    · rename_i e
      rwa [e] at hx
    · rename_i ph n u e
      rw [e] at hx
      have hu : u.mem.wf = true := hx
      split
      · exact hu
      · have hr : EngCanonical Prod.snd (engRead g c slot gen home bs _) :=
          ih (s := (u.readReq (engAgent g) c.part ph slot gen (64 * b) fullMask (if home then .bypass else .cached)).2)
            (by simp [hu])
        dsimp only
        split
        · rename_i e1
          rwa [e1] at hr
        · rename_i e1
          rwa [e1] at hr

theorem engWith_wf {g : Nat} {c : EngCmd} {slot gen : Nat} {home : Bool} {bs : List Nat}
    {f : List BlockW → State → State}
    {s : State} (h : s.mem.wf = true) (hf : ∀ ws t, t.mem.wf = true → (f ws t).mem.wf = true) :
    (engWith g c slot gen home bs f s).mem.wf = true := by
  have hr : EngCanonical Prod.snd (engRead g c slot gen home bs s) := engRead_wf h
  unfold engWith
  split
  · exact hf _ _ h
  · split
    · split
      · exact h
      · split
        · rename_i e
          rwa [e] at hr
        · rename_i e
          rw [e] at hr
          exact hr
    · split
      · exact h
      · simp [h]
      · exact hf _ _ (by simp [h])

@[simp] theorem State.badCommand_mem (s : State) (g : Nat) (c : EngCmd) (b : EngBad) :
    (s.badCommand g c b).mem = s.mem := by
  unfold State.badCommand
  split
  · dsimp only
    split <;> rfl
  · simp
  · simp
  · simp
  · simp

@[simp] theorem State.deferCommand_mem (s : State) (g : Nat) (c : EngCmd) (t : Truss) (d : List Byte) :
    (s.deferCommand g c t d).mem = s.mem := by
  unfold State.deferCommand
  split
  · simp
  · split <;> rfl

@[simp] theorem engFetch_wf {g : Nat} {c : EngCmd} {t : Truss} {s : State} (h : s.mem.wf = true) :
    (engFetch g c t s).mem.wf = true := by
  unfold engFetch
  apply engWith_wf
  · exact h
  · intro z u hu
    split
    · split
      all_goals
        split
        · simp [hu]
        · dsimp only
          split
          · simp [hu]
          · split
            · simp [hu]
            · apply State.refCmd_wf
              split
              · simp [hu]
              · exact hu
    · exact hu

@[simp] theorem engIndex_wf {g : Nat} {c : EngCmd} {s : State} (h : s.mem.wf = true) :
    (engIndex g c s).mem.wf = true := by
  unfold engIndex
  apply engWith_wf
  · exact h
  · simp

@[simp] theorem State.chooseSources_mem (s : State) (l : List ((Nat × Nat) × List Nat)) :
    (s.chooseSources l).2.mem = s.mem := by
  unfold State.chooseSources
  refine foldl_snd_mem (fun z x => ?_) _ _
  split <;> rfl

@[simp] theorem State.deferSpan_mem (s : State) (g : Nat) (c : EngCmd) (t : Truss) (slot gen off : Nat) (w : BlockW) :
    (s.deferSpan g c t slot gen off w).mem = s.mem := by
  unfold State.deferSpan
  split
  · simp
  · split <;> split <;> rfl

theorem engWrite_wf {g : Nat} {c : EngCmd} {t : Truss} {b : Side} {blk : Nat} {w : BlockW} {s u : State}
    (h : s.mem.wf = true) (e : engWrite g c t b blk w s = some u) : u.mem.wf = true := by
  unfold engWrite at e
  split at e
  · cases e
    simp [h]
  · rename_i geo slot gen
    split at e
    · cases e
    · have hx : EngCanonical _ (engXlate g c slot gen (64 * blk) true s) := engXlate_wf h
      split at e
      · rename_i e1
        cases e
        rwa [e1] at hx
      · rename_i ph leaf v e1
        rw [e1] at hx
        have hv : v.mem.wf = true := hx
        dsimp only at e
        split at e
        · cases e
          simp [hv]
        · split at e
          · cases e
            simp [hv]
          · split at e
            · cases e
              simp [hv]
            · split at e <;> cases e <;> simp [hv]

@[simp] theorem engMove_wf {g : Nat} {c : EngCmd} {t : Truss} {a b : Side} {pl : List (Nat × Nat)} {blk : Nat}
    {s : State}
    (h : s.mem.wf = true) : (engMove g c t a b pl blk s).mem.wf = true := by
  unfold engMove
  extract_lets elw ps mine blocks wide all need go
  have hgo : ∀ src s0 u, s0.mem.wf = true → u.mem.wf = true → (go src s0 u).mem.wf = true := by
    intro src s0 u h0 hu
    simp only [go]
    split
    · exact h0
    · rename_i e
      rw [State.modCmd_mem]
      exact engWrite_wf (by simp [hu]) e
  split
  · exact hgo _ _ _ h h
  · split
    · exact h
    · exact engWith_wf h fun _ u hu => hgo _ _ _ h hu

@[simp] theorem engBlock_wf {g : Nat} {c : EngCmd} {t : Truss} {a b : Side} {s : State} (h : s.mem.wf = true) :
    (engBlock g c t a b s).mem.wf = true := by
  unfold engBlock
  split
  · simp [h]
  · dsimp only
    split <;> exact h

@[simp] theorem redcRead_wf {g : Nat} {c : EngCmd} {a : Side} {s : State} (h : s.mem.wf = true) :
    (redcRead g c a s).mem.wf = true := by
  unfold redcRead
  split
  · exact h
  · dsimp only
    split
    · exact h
    · apply engWith_wf
      · exact h
      · intro z u hu
        split <;> exact hu

@[simp] theorem redcWrite_wf {g : Nat} {c : EngCmd} {t : Truss} {b : Side} {s : State} (h : s.mem.wf = true) :
    (redcWrite g c t b s).mem.wf = true := by
  unfold redcWrite
  split
  · exact h
  · extract_lets w off all blocks
    split
    · simp [h]
    · extract_lets mine vals bad r
      cases e : engWrite g c t _ _ _ s with
      | none => exact h
      | some u => exact engWrite_wf h e

@[simp] theorem State.modContrib_mem (s : State) (x : Contribution) (f : EngCmd → EngCmd) :
    (s.modContrib x f).mem = s.mem := rfl

@[simp] theorem State.failContrib_mem (s : State) (y : Contribution) : (s.failContrib y).mem = s.mem := by
  unfold State.failContrib
  dsimp only
  split
  · split
    · simp
    · rfl
  · rfl

@[simp] theorem execReduceCombine_wf {pid g : Nat} {q : BitVec 64} {s : State} (h : s.mem.wf = true) :
    Res.Canonical (execReduceCombine pid g q s) := by
  unfold execReduceCombine
  dsimp only
  split
  · exact h
  · split
    · simp [h]
    · split
      · exact h
      · rw [Res.canonical_next]
        refine foldl_wf (fun u z hu => ?_) _ ?_
        · exact hu
        · exact h

@[simp] theorem State.releaseSides_mem (s : State) (a b : Side) : (s.releaseSides a b).mem = s.mem := by
  unfold State.releaseSides
  rw [State.setSide_mem]
  split
  · rfl
  · simp

@[simp] theorem State.finishCmd_wf {s : State} {g : Nat} {c : EngCmd} {t : Truss} {st : Nat} (h : s.mem.wf = true) :
    (s.finishCmd g c t st).mem.wf = true := by
  unfold State.finishCmd
  dsimp only
  split
  · rw [State.crxDone_mem]
    split
    · rw [State.modCore_mem]
      split
      · exact h
      · apply State.refCmd_wf
        split
        · simp [h]
        · exact h
    · split
      · exact h
      · apply State.refCmd_wf
        split
        · simp [h]
        · exact h
  · split
    · rw [State.modCore_mem]
      split
      · exact h
      · apply State.refCmd_wf
        split
        · simp [h]
        · exact h
    · split
      · exact h
      · apply State.refCmd_wf
        split
        · simp [h]
        · exact h

@[simp] theorem execEngineCommandComplete_wf {b g : Nat} {s : State} (h : s.mem.wf = true) :
    Res.Canonical (execEngineCommandComplete b g s) := by
  unfold execEngineCommandComplete
  dsimp only
  split
  · exact h
  · split
    · exact h
    · split
      · exact h
      · split
        · split
          · exact h
          · simp [h]
        · split
          · simp [h]
          · split
            · exact h
            · split
              · rw [Res.canonical_next]
                split
                · simp [h]
                · exact h
                · simp [h]
              · split <;> simp [h]

/-! ### Stalled agents -/

@[simp] theorem State.restall_mem (s : State) (a : AgentId) (st : Option Stall) : (s.restall a st).mem = s.mem := by
  unfold State.restall
  rw [State.setReq_mem]
  split <;> rfl

@[simp] theorem State.dropWrite_mem (s : State) (a : AgentId) (k : Retained) : (s.dropWrite a k).mem = s.mem := by
  unfold State.dropWrite
  simp

@[simp] theorem State.failRefused_mem (s : State) (a : AgentId) (g : Nat) : (s.failRefused a g).2.mem = s.mem := by
  unfold State.failRefused
  simp

@[simp] theorem State.failAgentLaunch_mem (s : State) (a : AgentId) : (s.failAgentLaunch a).mem = s.mem := by
  unfold State.failAgentLaunch
  split
  · simp
  · rfl

@[simp] theorem State.failAccess_mem (s : State) (a : AgentId) : (s.failAccess a).mem = s.mem := by
  unfold State.failAccess
  split
  · rfl
  · rfl
  · rfl
  · split <;> rfl

@[simp] theorem State.failAgent_mem (s : State) (a : AgentId) : (s.failAgent a).mem = s.mem := by
  unfold State.failAgent
  split
  · dsimp only
    split <;> simp
  · simp

@[simp] theorem State.failIso_mem (g : Nat) (s : State) (a : AgentId) : (State.failIso g s a).mem = s.mem := by
  unfold State.failIso
  split
  · simp
  · rw [State.flushUnsent_mem]
    split
    · simp
    · split <;> simp
    · split <;> simp
    · simp

@[simp] theorem State.resumeOwner_mem (s : State) (a : AgentId) (g : Nat) : (s.resumeOwner a g).mem = s.mem := by
  unfold State.resumeOwner
  split <;> simp

@[simp] theorem State.feedStarved_mem (part n : Nat) (s : State) : (State.feedStarved part n s).mem = s.mem := by
  induction n generalizing s with
  | zero => rfl
  | succ n ih =>
    unfold State.feedStarved
    dsimp only
    split
    · rfl
    · split
      · simp [ih]
      · split
        · simp [ih]
        · split
          · rfl
          · simp [ih]

@[simp] theorem State.givePanels_mem (s : State) (part : Nat) (l : List Nat) : (s.givePanels part l).mem = s.mem := by
  unfold State.givePanels
  simp

@[simp] theorem State.forgetPanel_mem (s : State) (part g : Nat) : (s.forgetPanel part g).mem = s.mem := by
  unfold State.forgetPanel
  split
  · exact foldl_mem (fun u b => State.rdcInval_mem ..) _ _
  · rfl

@[simp] theorem State.endCopy_mem (s : State) (part view slot panel g : Nat) :
    (s.endCopy part view slot panel g).mem = s.mem := by
  unfold State.endCopy
  simp

@[simp] theorem execPanelCopy_wf {pid view slot panel : Nat} {s : State} (h : s.mem.wf = true) :
    Res.Canonical (execPanelCopy pid view slot panel s) := by
  unfold execPanelCopy
  split
  · exact h
  · split
    · exact h
    · dsimp only
      split
      · split <;> simpa using Memory.wf_setBlock _ _ _ h
      · exact h

/-! ### Integer arithmetic -/

@[simp] theorem binary_wf {f : Word → Word → Word} {d a b : Reg} {s : State} (h : s.mem.wf = true) :
    Res.Canonical (binary f d a b s) := by
  unfold binary
  simp [h]

@[simp] theorem unary_wf {f : Word → Word} {d a : Reg} {s : State} (h : s.mem.wf = true) :
    Res.Canonical (unary f d a s) := by
  unfold unary
  simp [h]

@[simp] theorem divide_wf {f : Word → Word → Word} {z : Word → Word} {d a b : Reg} {s : State} (h : s.mem.wf = true) :
    Res.Canonical (divide f z d a b s) := by
  unfold divide
  dsimp only
  split <;> simp [h]

@[simp] theorem execAdd_wf {d a b : Reg} {s : State} (h : s.mem.wf = true) : Res.Canonical (execAdd d a b s) := by
  unfold execAdd
  simp [h]

@[simp] theorem execSub_wf {d a b : Reg} {s : State} (h : s.mem.wf = true) : Res.Canonical (execSub d a b s) := by
  unfold execSub
  simp [h]

@[simp] theorem execMul_wf {d a b : Reg} {s : State} (h : s.mem.wf = true) : Res.Canonical (execMul d a b s) := by
  unfold execMul
  simp [h]

@[simp] theorem execMulh_wf {d a b : Reg} {s : State} (h : s.mem.wf = true) : Res.Canonical (execMulh d a b s) := by
  unfold execMulh
  simp [h]

@[simp] theorem execMulhu_wf {d a b : Reg} {s : State} (h : s.mem.wf = true) : Res.Canonical (execMulhu d a b s) := by
  unfold execMulhu
  simp [h]

@[simp] theorem execDiv_wf {d a b : Reg} {s : State} (h : s.mem.wf = true) : Res.Canonical (execDiv d a b s) := by
  unfold execDiv
  simp [h]

@[simp] theorem execDivu_wf {d a b : Reg} {s : State} (h : s.mem.wf = true) : Res.Canonical (execDivu d a b s) := by
  unfold execDivu
  simp [h]

@[simp] theorem execRem_wf {d a b : Reg} {s : State} (h : s.mem.wf = true) : Res.Canonical (execRem d a b s) := by
  unfold execRem
  simp [h]

@[simp] theorem execRemu_wf {d a b : Reg} {s : State} (h : s.mem.wf = true) : Res.Canonical (execRemu d a b s) := by
  unfold execRemu
  simp [h]

@[simp] theorem execAnd_wf {d a b : Reg} {s : State} (h : s.mem.wf = true) : Res.Canonical (execAnd d a b s) := by
  unfold execAnd
  simp [h]

@[simp] theorem execOr_wf {d a b : Reg} {s : State} (h : s.mem.wf = true) : Res.Canonical (execOr d a b s) := by
  unfold execOr
  simp [h]

@[simp] theorem execXor_wf {d a b : Reg} {s : State} (h : s.mem.wf = true) : Res.Canonical (execXor d a b s) := by
  unfold execXor
  simp [h]

@[simp] theorem execAndn_wf {d a b : Reg} {s : State} (h : s.mem.wf = true) : Res.Canonical (execAndn d a b s) := by
  unfold execAndn
  simp [h]

@[simp] theorem execShl_wf {d a b : Reg} {s : State} (h : s.mem.wf = true) : Res.Canonical (execShl d a b s) := by
  unfold execShl
  simp [h]

@[simp] theorem execShr_wf {d a b : Reg} {s : State} (h : s.mem.wf = true) : Res.Canonical (execShr d a b s) := by
  unfold execShr
  simp [h]

@[simp] theorem execSra_wf {d a b : Reg} {s : State} (h : s.mem.wf = true) : Res.Canonical (execSra d a b s) := by
  unfold execSra
  simp [h]

@[simp] theorem execRor_wf {d a b : Reg} {s : State} (h : s.mem.wf = true) : Res.Canonical (execRor d a b s) := by
  unfold execRor
  simp [h]

@[simp] theorem execClz_wf {d a : Reg} {s : State} (h : s.mem.wf = true) : Res.Canonical (execClz d a s) := by
  unfold execClz
  simp [h]

@[simp] theorem execCtz_wf {d a : Reg} {s : State} (h : s.mem.wf = true) : Res.Canonical (execCtz d a s) := by
  unfold execCtz
  simp [h]

@[simp] theorem execPopc_wf {d a : Reg} {s : State} (h : s.mem.wf = true) : Res.Canonical (execPopc d a s) := by
  unfold execPopc
  simp [h]

@[simp] theorem execUntaint_wf {d : Reg} {s : State} (h : s.mem.wf = true) : Res.Canonical (execUntaint d s) := by
  unfold execUntaint
  simp [h]

@[simp] theorem execMin_wf {d a b : Reg} {s : State} (h : s.mem.wf = true) : Res.Canonical (execMin d a b s) := by
  unfold execMin
  simp [h]

@[simp] theorem execMax_wf {d a b : Reg} {s : State} (h : s.mem.wf = true) : Res.Canonical (execMax d a b s) := by
  unfold execMax
  simp [h]

@[simp] theorem execMinu_wf {d a b : Reg} {s : State} (h : s.mem.wf = true) : Res.Canonical (execMinu d a b s) := by
  unfold execMinu
  simp [h]

@[simp] theorem execMaxu_wf {d a b : Reg} {s : State} (h : s.mem.wf = true) : Res.Canonical (execMaxu d a b s) := by
  unfold execMaxu
  simp [h]

@[simp] theorem execSeq_wf {d a b : Reg} {s : State} (h : s.mem.wf = true) : Res.Canonical (execSeq d a b s) := by
  unfold execSeq
  simp [h]

@[simp] theorem execSlt_wf {d a b : Reg} {s : State} (h : s.mem.wf = true) : Res.Canonical (execSlt d a b s) := by
  unfold execSlt
  simp [h]

@[simp] theorem execSltu_wf {d a b : Reg} {s : State} (h : s.mem.wf = true) : Res.Canonical (execSltu d a b s) := by
  unfold execSltu
  simp [h]

@[simp] theorem execSel_wf {d a b c : Reg} {s : State} (h : s.mem.wf = true) : Res.Canonical (execSel d a b c s) := by
  unfold execSel
  simp [h]

@[simp] theorem execAddi_wf {d a : Reg} {imm : BitVec 15} {s : State} (h : s.mem.wf = true) :
    Res.Canonical (execAddi d a imm s) := by
  unfold execAddi
  simp [h]

@[simp] theorem execAndi_wf {d a : Reg} {imm : BitVec 15} {s : State} (h : s.mem.wf = true) :
    Res.Canonical (execAndi d a imm s) := by
  unfold execAndi
  simp [h]

@[simp] theorem execOri_wf {d a : Reg} {imm : BitVec 15} {s : State} (h : s.mem.wf = true) :
    Res.Canonical (execOri d a imm s) := by
  unfold execOri
  simp [h]

@[simp] theorem execXori_wf {d a : Reg} {imm : BitVec 15} {s : State} (h : s.mem.wf = true) :
    Res.Canonical (execXori d a imm s) := by
  unfold execXori
  simp [h]

@[simp] theorem execShli_wf {d a : Reg} {n : BitVec 6} {s : State} (h : s.mem.wf = true) :
    Res.Canonical (execShli d a n s) := by
  unfold execShli
  simp [h]

@[simp] theorem execShri_wf {d a : Reg} {n : BitVec 6} {s : State} (h : s.mem.wf = true) :
    Res.Canonical (execShri d a n s) := by
  unfold execShri
  simp [h]

@[simp] theorem execSrai_wf {d a : Reg} {n : BitVec 6} {s : State} (h : s.mem.wf = true) :
    Res.Canonical (execSrai d a n s) := by
  unfold execSrai
  simp [h]

@[simp] theorem execSlti_wf {d a : Reg} {imm : BitVec 15} {s : State} (h : s.mem.wf = true) :
    Res.Canonical (execSlti d a imm s) := by
  unfold execSlti
  simp [h]

@[simp] theorem execBfx_wf {d a : Reg} {l p : BitVec 6} {s : State} (h : s.mem.wf = true) :
    Res.Canonical (execBfx d a l p s) := by
  unfold execBfx
  split <;> simp [h]

@[simp] theorem execBfi_wf {d a : Reg} {l p : BitVec 6} {s : State} (h : s.mem.wf = true) :
    Res.Canonical (execBfi d a l p s) := by
  unfold execBfi
  split <;> simp [h]

@[simp] theorem execLi_wf {d : Reg} {imm : BitVec 20} {s : State} (h : s.mem.wf = true) :
    Res.Canonical (execLi d imm s) := by
  unfold execLi
  simp [h]

@[simp] theorem execLih_wf {d : Reg} {imm : BitVec 20} {s : State} (h : s.mem.wf = true) :
    Res.Canonical (execLih d imm s) := by
  unfold execLih
  simp [h]

/-! ### Branches and loops -/

@[simp] theorem branchIf_wf {cond : Word → Word → Bool} {a b : Reg} {off : BitVec 15} {s : State}
    (h : s.mem.wf = true) :
    Res.Canonical (branchIf cond a b off s) := by
  unfold branchIf
  dsimp only
  split <;> simp [h]

@[simp] theorem execBeq_wf {a b : Reg} {off : BitVec 15} {s : State} (h : s.mem.wf = true) :
    Res.Canonical (execBeq a b off s) := by
  unfold execBeq
  simp [h]

@[simp] theorem execBne_wf {a b : Reg} {off : BitVec 15} {s : State} (h : s.mem.wf = true) :
    Res.Canonical (execBne a b off s) := by
  unfold execBne
  simp [h]

@[simp] theorem execBlt_wf {a b : Reg} {off : BitVec 15} {s : State} (h : s.mem.wf = true) :
    Res.Canonical (execBlt a b off s) := by
  unfold execBlt
  simp [h]

@[simp] theorem execBge_wf {a b : Reg} {off : BitVec 15} {s : State} (h : s.mem.wf = true) :
    Res.Canonical (execBge a b off s) := by
  unfold execBge
  simp [h]

@[simp] theorem execBltu_wf {a b : Reg} {off : BitVec 15} {s : State} (h : s.mem.wf = true) :
    Res.Canonical (execBltu a b off s) := by
  unfold execBltu
  simp [h]

@[simp] theorem execBgeu_wf {a b : Reg} {off : BitVec 15} {s : State} (h : s.mem.wf = true) :
    Res.Canonical (execBgeu a b off s) := by
  unfold execBgeu
  simp [h]

@[simp] theorem execJ_wf {off : BitVec 25} {s : State} (h : s.mem.wf = true) : Res.Canonical (execJ off s) := by
  unfold execJ
  simp [h]

@[simp] theorem execJal_wf {off : BitVec 25} {s : State} (h : s.mem.wf = true) : Res.Canonical (execJal off s) := by
  unfold execJal
  simp [h]

@[simp] theorem execJr_wf {a : Reg} {s : State} (h : s.mem.wf = true) : Res.Canonical (execJr a s) := by
  unfold execJr
  dsimp only
  split <;> simp [h]

@[simp] theorem execJalr_wf {d a : Reg} {s : State} (h : s.mem.wf = true) : Res.Canonical (execJalr d a s) := by
  unfold execJalr
  split
  all_goals
    dsimp only
    split <;> simp [h]

@[simp] theorem startLoop_wf {w : Instr} {k : Fin 3} {count : Nat} {n : BitVec 8} {s : State} (h : s.mem.wf = true) :
    Res.Canonical (startLoop w k count n s) := by
  unfold startLoop
  split
  all_goals
    dsimp only
    split <;> simp [h]

@[simp] theorem execLoop_wf {c : BitVec 2} {a : Reg} {n : BitVec 8} {s : State} (h : s.mem.wf = true) :
    Res.Canonical (execLoop c a n s) := by
  unfold execLoop
  split <;> simp [h]

@[simp] theorem execLoopi_wf {c : BitVec 2} {n : BitVec 8} {k : BitVec 10} {s : State} (h : s.mem.wf = true) :
    Res.Canonical (execLoopi c n k s) := by
  unfold execLoopi
  split <;> simp [h]

@[simp] theorem execLbrk_wf {c : BitVec 2} {s : State} (h : s.mem.wf = true) : Res.Canonical (execLbrk c s) := by
  unfold execLbrk
  split
  · simp [h]
  · dsimp only
    split <;> simp [h]

/-! ### Instruction fetch -/

@[simp] theorem State.fillCode_mem (s : State) (ln : Nat) (d : Data) : (s.fillCode ln d).mem = s.mem := by
  unfold State.fillCode
  dsimp only
  split <;> rfl

/-- What a line of code is read with has memory in canonical form. -/
def CodeLine.Canonical : CodeLine → Prop
  | .bytes _ t => t.mem.wf = true
  | .stop r => Res.Canonical r

theorem codeLine_wf {ea : Word} {s : State} (h : s.mem.wf = true) : CodeLine.Canonical (codeLine ea s) := by
  unfold codeLine
  dsimp only
  split
  · exact h
  · split
    · exact trapFailed_wf h
    · split
      · rename_i e
        exact Go.wf_stop e (coreXlate_wf h)
      · rename_i e
        have ht := Go.wf_ok e (coreXlate_wf h)
        split
        · rename_i e1
          exact Go.wf_stop e1 (corePlace_wf ht)
        · rename_i e1
          have hu := Go.wf_ok e1 (corePlace_wf ht)
          split <;> simp [CodeLine.Canonical, hu]

@[simp] theorem landLine_mem (asked : Bool) (s : State) : (landLine asked s).mem = s.mem := by
  unfold landLine
  dsimp only
  split
  · simp
  · split <;> rfl
  · rfl

theorem fetchBodies_wf {l : List Nat} {s : State} (h : s.mem.wf = true) : CodeLine.Canonical (fetchBodies l s) := by
  induction l generalizing s with
  | nil => exact h
  | cons ln rest ih =>
    unfold fetchBodies
    dsimp only
    split
    · exact ih h
    · have hc : CodeLine.Canonical (codeLine (BitVec.ofNat 64 (64 * ln)) (s.setCore { s.core with due := ln :: rest })) :=
        codeLine_wf h
      split
      · rename_i e
        rwa [e] at hc
      · rename_i e
        rw [e] at hc
        exact ih hc

/-- What is fetched has memory in canonical form. -/
def Fetched.Canonical : Fetched → Prop
  | .word _ t => t.mem.wf = true
  | .stop r => Res.Canonical r

theorem fetch_wf {s : State} (h : s.mem.wf = true) : Fetched.Canonical (fetch s) := by
  unfold fetch
  dsimp only
  split
  · exact h
  · split
    · exact trapHere_wf h
    · have hl (b : Bool) : (landLine b s).mem.wf = true := (landLine_mem ..).symm ▸ h
      generalize (if s.core.bufferHas s.core.pc.toNat then fget s.core.lbuf s.core.pc.toNat else none) = held
      have hc : ∀ g, (match held with
          | some _ => CodeLine.bytes 0 (landLine held.isNone s)
          | none => codeLine s.core.pc (landLine held.isNone s)) = g → CodeLine.Canonical g := by
        rintro _ rfl
        cases held with
        | some w => exact hl _
        | none => exact codeLine_wf (hl _)
      split
      · rename_i e
        exact hc _ e
      · rename_i d t e
        have ht : t.mem.wf = true := hc _ e
        split
        · exact ht
        · have hb : CodeLine.Canonical (fetchBodies t.core.due t) := fetchBodies_wf ht
          split
          · rename_i e
            rwa [e] at hb
          · rename_i e
            rwa [e] at hb

/-! ### Truss images -/

@[simp] theorem State.setShims_mem (s : State) (t : Truss) (img : Image) : (s.setShims t img).mem = s.mem := by
  unfold State.setShims
  refine foldl_mem (fun _ _ => ?_) _ _
  rfl

@[simp] theorem State.bringUp_mem (s : State) (tid : Nat) (t : Truss) (img : Image) :
    (s.bringUp tid t img).2.mem = s.mem := by
  unfold State.bringUp
  dsimp only
  rw [State.setShims_mem]
  refine (foldl_mem (fun u z => ?_) _ _).trans ?_
  · rfl
  · rw [applyUnit_mem]
    refine foldl_mem (fun _ _ => ?_) _ _
    rfl

/-! ### Queues -/

@[simp] theorem State.modQueue_mem (s : State) (k : Nat) (f : Queue → Queue) : (s.modQueue k f).mem = s.mem := rfl

@[simp] theorem State.reportCtr_wf {s : State} {part ctr status code : Nat} {detail : Word} (h : s.mem.wf = true) :
    (s.reportCtr part ctr status code detail).mem.wf = true := by
  unfold State.reportCtr
  split
  · exact h
  · apply State.t0Put_wf
    apply State.t0Put_wf
    simp [h]

@[simp] theorem State.writeRecords_wf {k n : Nat} {s : State} (h : s.mem.wf = true) :
    (State.writeRecords k n s).mem.wf = true := by
  induction n generalizing s with
  | zero => exact h
  | succ n ih =>
    have hw (a : Nat) (l : List Byte) : ((s.t0Write (s.queuePart k) a l).getD s).mem.wf = true := by
      cases e : s.t0Write (s.queuePart k) a l with
      | none => exact h
      | some u => exact State.t0Write_wf h e
    unfold State.writeRecords
    split
    · exact h
    · split
      · exact h
      · split
        · exact h
        · apply ih
          split
          · simpa using hw _ _
          · simpa using hw _ _

@[simp] theorem State.flushRecords_wf {s : State} {k : Nat} (h : s.mem.wf = true) :
    (s.flushRecords k).mem.wf = true := by
  unfold State.flushRecords
  simp [h]

@[simp] theorem State.doneItem_wf {s : State} {k n status code : Nat} {detail : Word} (h : s.mem.wf = true) :
    (s.doneItem k n status code detail).mem.wf = true := by
  unfold State.doneItem
  split
  · exact h
  · simp [h]

@[simp] theorem State.settleItems_wf {k : Nat} {l : List Item} {s : State} (h : s.mem.wf = true) :
    (State.settleItems k l s).mem.wf = true := by
  induction l generalizing s with
  | nil => exact h
  | cons i t ih =>
    unfold State.settleItems
    dsimp only
    apply ih
    split
    · exact h
    · split
      · simp [h]
      · split <;> simp [h]

@[simp] theorem State.settle_wf {s : State} {k : Nat} (h : s.mem.wf = true) : (s.settle k).mem.wf = true := by
  unfold State.settle
  apply State.flushRecords_wf
  simp [h]

@[simp] theorem State.finishItem_wf {s : State} {k n status code : Nat} {detail : Word} (h : s.mem.wf = true) :
    (s.finishItem k n status code detail).mem.wf = true := by
  unfold State.finishItem
  simp [h]

@[simp] theorem State.saveQueue_wf {s : State} {k : Nat} {x : Queue} (h : s.mem.wf = true) :
    (s.saveQueue k x).mem.wf = true := by
  unfold State.saveQueue
  refine foldl_wf (fun u n hu => ?_) _ h
  split
  · exact State.spillBlock_wf hu
  · exact hu

@[simp] theorem State.evict_wf {s : State} {k : Nat} (h : s.mem.wf = true) : (s.evict k).mem.wf = true := by
  unfold State.evict
  split
  · exact h
  · simp [h]

@[simp] theorem State.pendBit_wf {s : State} {k : Nat} {b : Bool} (h : s.mem.wf = true) :
    (s.pendBit k b).mem.wf = true := by
  unfold State.pendBit
  dsimp only
  split
  · simp [h]
  · exact h

@[simp] theorem State.keepNote_wf {s : State} {k : Nat} {v : Word} (h : s.mem.wf = true) :
    (s.keepNote k v).mem.wf = true := by
  unfold State.keepNote
  simp [h]

theorem State.takeSlot_wf {s : State} {k : Nat} {t : State} (h : s.mem.wf = true) (e : s.takeSlot k = some t) :
    t.mem.wf = true := by
  unfold State.takeSlot at e
  dsimp only at e
  split at e
  · cases e
    simp [h]
  · obtain ⟨x, _, hx⟩ := Option.map_eq_some_iff.1 e
    cases hx
    simp [h]

@[simp] theorem State.mapPending_wf {n : Nat} {s : State} (h : s.mem.wf = true) :
    (State.mapPending n s).mem.wf = true := by
  induction n generalizing s with
  | zero => exact h
  | succ n ih =>
    unfold State.mapPending
    split
    · exact h
    · dsimp only
      split
      · exact h
      · split
        · exact h
        · rename_i e
          have ht := State.takeSlot_wf h e
          exact ih (by simp [ht])

@[simp] theorem State.notify_wf {s : State} {vf q : Nat} {v : Word} (h : s.mem.wf = true) :
    (s.notify vf q v).mem.wf = true := by
  unfold State.notify
  dsimp only
  split
  · exact h
  · split
    · exact h
    · split
      · rename_i x t e
        have ht : t.mem.wf = true := State.takeSlot_wf h e
        exact ht
      · simp [h]

@[simp] theorem execNotifyPageWrite_wf {vf q : Nat} {v : BitVec 64} {s : State} (h : s.mem.wf = true) :
    Res.Canonical (execNotifyPageWrite vf q v s) := by
  unfold execNotifyPageWrite
  split
  · exact h
  · simp [h]

@[simp] theorem execScan_wf {vf q : Nat} {s : State} (h : s.mem.wf = true) : Res.Canonical (execScan vf q s) := by
  unfold execScan
  extract_lets k part
  split
  · exact h
  · split
    · exact h
    · extract_lets up x r y t u v
      have hu : u.mem.wf = true := by
        refine foldl_wf (fun w i hw => ?_) _ h
        split <;> simp [hw]
      have hv : v.mem.wf = true := by
        unfold v
        split
        · exact hu
        · exact State.t0Put_wf hu
      exact State.settle_wf hv

@[simp] theorem execQstarve_wf {vf q : Nat} {s : State} (h : s.mem.wf = true) :
    Res.Canonical (execQstarve vf q s) := by
  unfold execQstarve
  dsimp only
  split
  · split
    · exact h
    · split
      · simp [h]
      · exact h
  · exact h

@[simp] theorem State.qResult_mem (s : State) (vf q result : Nat) : (s.qResult vf q result).mem = s.mem := rfl

@[simp] theorem execQueueCreate_wf {vf q : Nat} {s : State} (h : s.mem.wf = true) :
    Res.Canonical (execQueueCreate vf q s) := by
  unfold execQueueCreate
  split
  · exact h
  · dsimp only
    split
    · exact h
    · split
      · exact h
      · split <;> exact h

@[simp] theorem execQueueDestroy_wf {vf q : Nat} {s : State} (h : s.mem.wf = true) :
    Res.Canonical (execQueueDestroy vf q s) := by
  unfold execQueueDestroy
  split
  · exact h
  · dsimp only
    split
    · exact h
    · split
      · exact h
      · rw [Res.canonical_next, State.qResult_mem]
        apply State.mapPending_wf
        rw [State.setVf_mem]
        dsimp only
        split
        · simp [h]
        · exact h

@[simp] theorem execQueueResume_wf {vf q : Nat} {s : State} (h : s.mem.wf = true) :
    Res.Canonical (execQueueResume vf q s) := by
  unfold execQueueResume
  split
  · exact h
  · dsimp only
    split <;> exact h

/-! ### Jobs -/

@[simp] theorem State.modJob_mem (s : State) (part b : Nat) (f : Job → Job) : (s.modJob part b f).mem = s.mem := rfl

@[simp] theorem State.openJob_wf {s : State} {part b : Nat} (h : s.mem.wf = true) :
    (s.openJob part b).mem.wf = true := by
  unfold State.openJob
  split
  · exact h
  · split
    · simp [h]
    · split <;> exact h

theorem State.arrive1_wf {s : State} {part job : Nat} {ids : List Nat} {t : State} (h : s.mem.wf = true)
    (e : s.arrive1 part job ids = some t) :
    t.mem.wf = true := by
  unfold State.arrive1 at e
  dsimp only at e
  split at e
  · cases e
  · cases e
    simp [h]

@[simp] theorem State.noteArrived_mem (s : State) (id : Nat) (l : Launch) : (s.noteArrived id l).mem = s.mem := by
  unfold State.noteArrived
  split <;> rfl

@[simp] theorem State.tryArrive_wf {s : State} {id : Nat} (h : s.mem.wf = true) : (s.tryArrive id).mem.wf = true := by
  unfold State.tryArrive
  split
  · exact h
  · split
    · exact h
    · dsimp only
      split
      · exact h
      · split
        · rename_i x t e
          have ht : t.mem.wf = true := State.arrive1_wf h e
          simp [ht]
        · simp [h]

@[simp] theorem State.leaveJob_wf {s : State} {id : Nat} {l : Launch} (h : s.mem.wf = true) :
    (s.leaveJob id l).2.mem.wf = true := by
  unfold State.leaveJob
  split
  · exact h
  · split
    · simp [h]
    · split
      · split
        · rename_i x t e
          have ht : t.mem.wf = true := State.arrive1_wf h e
          dsimp only
          split
          · exact h
          · simp [ht]
        · dsimp only
          split <;> exact h
      · split
        · rename_i x t e
          have ht : t.mem.wf = true := State.arrive1_wf h e
          dsimp only
          split
          · exact h
          · simp [ht]
        · dsimp only
          split <;> exact h

@[simp] theorem State.leavePhase_wf {s : State} {pid job n status : Nat} (h : s.mem.wf = true) :
    (s.leavePhase pid job n status).mem.wf = true := by
  unfold State.leavePhase
  refine foldl_wf (fun u z hu => ?_) _ ?_
  · simp [hu]
  · refine foldl_wf (fun u z hu => ?_) _ ?_
    · refine foldl_wf (fun u1 z1 hu1 => ?_) _ ?_
      · refine foldl_wf (fun u2 z2 hu2 => ?_) _ ?_
        · exact hu2
        · exact hu1
      · exact hu
    · exact h

@[simp] theorem State.endPhases_wf {s : State} {pid job k : Nat} (h : s.mem.wf = true) :
    (s.endPhases pid job k).mem.wf = true := by
  unfold State.endPhases
  apply State.leavePhase_wf
  rw [State.modJob_mem]
  apply State.t0Put_wf
  apply State.t0Put_wf
  simp [h]

@[simp] theorem State.settleJob_wf {s : State} {pid job : Nat} (h : s.mem.wf = true) :
    (s.settleJob pid job).mem.wf = true := by
  unfold State.settleJob
  split
  · exact h
  · split
    · exact h
    · simp [h]

/-! ### Tearing down trusses and completing launches and graph nodes -/

@[simp] theorem State.retire_mem (s : State) (part : Nat) (f : AgentId → Bool) : (s.retire part f).mem = s.mem := rfl

@[simp] theorem State.cancelCmd_wf {s : State} {g : Nat} {c : EngCmd} {running : Bool} (h : s.mem.wf = true) :
    (s.cancelCmd g c running).mem.wf = true := by
  unfold State.cancelCmd
  split
  · split <;> split <;> simp [h]
  · split
    · split <;> exact h
    · split <;> simp [h]

@[simp] theorem State.cancelOn_wf {s : State} {f : EngCmd → Bool} {g : Nat} (h : s.mem.wf = true) :
    (s.cancelOn f g).mem.wf = true := by
  unfold State.cancelOn
  dsimp only
  refine foldl_wf (fun u z hu => ?_) _ ?_
  · split
    · simp [hu]
    · exact hu
  · exact h

@[simp] theorem State.cancelCmds_wf {s : State} {f : EngCmd → Bool} (h : s.mem.wf = true) :
    (s.cancelCmds f).mem.wf = true := by
  unfold State.cancelCmds
  refine foldl_wf (fun u z hu => ?_) _ ?_
  · simp [hu]
  · exact h

@[simp] theorem State.dropAgents_wf {s : State} {p : Nat} (h : s.mem.wf = true) : (s.dropAgents p).mem.wf = true := by
  unfold State.dropAgents
  refine foldl_wf (fun u z hu => ?_) _ ?_
  · simp [hu]
  · simp [h]

@[simp] theorem State.releasePage_wf {s : State} {p : Nat} (h : s.mem.wf = true) :
    (s.releasePage p).mem.wf = true := by
  unfold State.releasePage
  simp [h]

@[simp] theorem State.dropMove_mem (s : State) : s.dropMove.mem = s.mem := by
  unfold State.dropMove
  split
  · rfl
  · split
    · rfl
    · rw [State.modPart_mem]
      dsimp only
      refine foldl_mem (fun _ _ => ?_) _ _
      rfl

@[simp] theorem State.tearTruss_wf {s : State} {t : Nat} (h : s.mem.wf = true) : (s.tearTruss t).mem.wf = true := by
  unfold State.tearTruss
  split
  · exact h
  · dsimp only
    refine foldl_wf (fun u z hu => ?_) _ ?_
    · simp [hu]
    · apply State.cancelCmds_wf
      split
      · simp [h]
      · exact h

@[simp] theorem State.dropView_mem (s : State) (part view : Nat) (pages : List Nat) :
    (s.dropView part view pages).mem = s.mem := by
  unfold State.dropView
  split
  · rfl
  · simp

@[simp] theorem State.unrefView_wf {s : State} {part view : Nat} (h : s.mem.wf = true) :
    (s.unrefView part view).mem.wf = true := by
  unfold State.unrefView
  split
  · exact h
  · refine foldl_wf (fun u z hu => ?_) _ ?_
    · simp [hu]
    · exact h

@[simp] theorem State.tearRival_wf {s : State} {part : Nat} {r : Rival} (h : s.mem.wf = true) :
    (s.tearRival part r).mem.wf = true := by
  unfold State.tearRival
  rw [State.dropView_mem]
  apply State.unrefView_wf
  refine foldl_wf (fun u z hu => ?_) _ ?_
  · simp [hu]
  · exact h

@[simp] theorem State.freeTag_wf {s : State} {part v : Nat} (h : s.mem.wf = true) :
    (s.freeTag part v).mem.wf = true := by
  unfold State.freeTag
  split
  · exact h
  · split
    · exact h
    · simp [h]

@[simp] theorem State.putOutst_wf {s : State} {part ctr n : Nat} (h : s.mem.wf = true) :
    (s.putOutst part ctr n).mem.wf = true := by
  unfold State.putOutst
  split
  · exact h
  · simp [h]

@[simp] theorem State.dropLinks_mem (s : State) (dead : Link → Bool) : (s.dropLinks dead).mem = s.mem := by
  unfold State.dropLinks
  refine (foldl_mem (fun u z => ?_) _ _).trans ?_
  · rfl
  · simp

@[simp] theorem State.settleGraph_wf {s : State} {g : Nat} (h : s.mem.wf = true) : (s.settleGraph g).mem.wf = true := by
  unfold State.settleGraph
  split
  · exact h
  · split
    · exact State.finishItem_wf (by simp [h])
    · exact h

@[simp] theorem State.nodeDone_wf {s : State} {g m : Nat} {o : Nat × Nat × Word} (h : s.mem.wf = true) :
    (s.nodeDone g m o).mem.wf = true := by
  unfold State.nodeDone
  split
  · exact h
  · simp [h]

@[simp] theorem State.finishLaunch_wf {s : State} {id : Nat} (h : s.mem.wf = true) :
    (s.finishLaunch id).mem.wf = true := by
  unfold State.finishLaunch
  split
  · exact h
  · rename_i l _
    have hj : (s.leaveJob id l).2.mem.wf = true := State.leaveJob_wf h
    dsimp only
    generalize hu : State.settleJob .. = u
    have hw : u.mem.wf = true := by rw [← hu]; exact State.settleJob_wf hj
    split
    · exact State.finishItem_wf (by simp [hw])
    · simp [hw]

@[simp] theorem State.settleLaunch_wf {s : State} {id : Nat} (h : s.mem.wf = true) :
    (s.settleLaunch id).mem.wf = true := by
  unfold State.settleLaunch
  split
  · exact h
  · dsimp only
    split
    · apply State.finishLaunch_wf
      apply State.putOutst_wf
      dsimp only
      refine foldl_wf (fun u z hu => ?_) _ ?_
      · refine foldl_wf (fun u1 z1 hu1 => ?_) _ ?_
        · simp [hu1]
        · exact hu
      · exact h
    · exact h

@[simp] theorem State.countOut_wf {s : State} {id : Nat} (h : s.mem.wf = true) : (s.countOut id).mem.wf = true := by
  unfold State.countOut
  dsimp only
  split
  · exact h
  · apply State.settleLaunch_wf
    split <;> simp [h]

@[simp] theorem execPageScrub_wf {p : Nat} {s : State} (h : s.mem.wf = true) : Res.Canonical (execPageScrub p s) := by
  unfold execPageScrub
  split
  · split <;> exact h
  · exact h

/-! ### The placer -/

@[simp] theorem State.makeLinks_mem (s : State) (id : Nat) (l : Launch) (tid ix : Nat) :
    (s.makeLinks id l tid ix).mem = s.mem := by
  unfold State.makeLinks
  refine (foldl_mem (fun u z => ?_) _ _).trans ?_
  · split
    · split <;> split <;> rfl
    · split <;> rfl
  · rfl

@[simp] theorem State.startTruss_mem (s : State) (l : Launch) (z : Nat × Truss) : (s.startTruss l z).mem = s.mem := by
  unfold State.startTruss
  split
  · rfl
  · refine (foldl_mem (fun u z1 => ?_) _ _).trans ?_
    · rfl
    · rfl

@[simp] theorem State.placeAt_mem (s : State) (id : Nat) (l : Launch) (row col : Nat) :
    (s.placeAt id l row col).mem = s.mem := by
  unfold State.placeAt
  dsimp only
  split
  · simp
  · split <;> simp

@[simp] theorem State.beginMove_mem (s : State) (t : Nat) (x : Truss) (row col : Nat) :
    (s.beginMove t x row col).mem = s.mem := by
  unfold State.beginMove
  dsimp only
  refine foldl_mem (fun _ _ => ?_) _ _
  rfl

@[simp] theorem State.beginCompact_mem (s : State) (part forId : Nat) : (s.beginCompact part forId).mem = s.mem := rfl

@[simp] theorem State.endCompact_mem (s : State) (c : Compaction) : (s.endCompact c).mem = s.mem := rfl

@[simp] theorem State.stepCompact_mem (s : State) : s.stepCompact.mem = s.mem := by
  unfold State.stepCompact
  split
  · rfl
  · split
    · rfl
    · dsimp only
      split
      · rfl
      · split
        · rfl
        · split
          · split
            · rfl
            · simp
          · rfl

@[simp] theorem State.writeLines_mem (s : State) (p part : Nat) (ls : List L1Line) :
    (s.writeLines p part ls).2.mem = s.mem := by
  unfold State.writeLines
  refine foldl_snd_mem (fun z l => ?_) _ _
  split
  · split
    · exact State.submitWrite_mem ..
    · rfl
  · rfl

@[simp] theorem State.unseize_mem (s : State) (c : EngCmd) (t : Truss) : (s.unseize c t).mem = s.mem := by
  unfold State.unseize
  split
  · rfl
  · split
    · simp
    · rfl

@[simp] theorem State.saveTruss_wf {s : State} {t : Nat} (h : s.mem.wf = true) : (s.saveTruss t).mem.wf = true := by
  unfold State.saveTruss
  split
  · exact h
  · dsimp only
    refine foldl_wf (fun u z hu => ?_) _ ?_
    · simp [hu]
    · refine foldl_wf (fun u z hu => ?_) _ ?_
      · simp [hu]
      · apply State.cancelCmds_wf
        refine foldl_wf (fun u z hu => ?_) _ ?_
        · simp [hu]
        · split
          · simp [h]
          · exact h

@[simp] theorem State.preempt_wf {s : State} {t : Nat} (h : s.mem.wf = true) : (s.preempt t).mem.wf = true := by
  unfold State.preempt
  split
  · exact h
  · split
    · simp [h]
    · apply State.settleLaunch_wf
      refine foldl_wf (fun u z hu => ?_) _ ?_
      · simp [hu]
      · exact h

@[simp] theorem State.preemptFor_wf {s : State} {part h1 w prio : Nat} (h : s.mem.wf = true) :
    (s.preemptFor part h1 w prio).mem.wf = true := by
  unfold State.preemptFor
  split
  · exact h
  · split
    · refine foldl_wf (fun u z hu => ?_) _ ?_
      · simp [hu]
      · exact h
    · exact h

@[simp] theorem State.restartPage_mem (s : State) (tid part ix p : Nat) (sp : Page) (r : Region) (img : Image) :
    (s.restartPage tid part ix p sp r img).mem = s.mem := by
  unfold State.restartPage
  refine (foldl_mem (fun u z => ?_) _ _).trans ?_
  · split <;> rfl
  · rfl

@[simp] theorem State.reentryPage_mem (s : State) (tid ix p : Nat) (sp : Page) (l : Launch) (tix : Nat) :
    (s.reentryPage tid ix p sp l tix).mem = s.mem := by
  unfold State.reentryPage
  refine (foldl_mem (fun u z => ?_) _ _).trans ?_
  · split <;> rfl
  · rfl

@[simp] theorem State.restoreAt_mem (s : State) (tid : Nat) (t : Truss) (l : Launch) (row col : Nat) :
    (s.restoreAt tid t l row col).mem = s.mem := by
  unfold State.restoreAt
  dsimp only
  split
  · rw [State.cfgInvalid_mem, State.setShims_mem]
    refine (foldl_mem (fun u z => ?_) _ _).trans ?_
    · split <;> simp
    · simp
  · rw [State.setShims_mem]
    refine (foldl_mem (fun u z => ?_) _ _).trans ?_
    · split <;> simp
    · simp

theorem State.tryPlace_wf {s : State} {id : Nat} {a : Ask} {place : Nat → Nat → State} (h : s.mem.wf = true)
    (hp : ∀ r c, (place r c).mem.wf = true) :
    (s.tryPlace id a place).mem.wf = true := by
  unfold State.tryPlace
  split
  · simp [hp]
  · split
    · simp [h]
    · exact h

@[simp] theorem State.placeLaunch_wf {s : State} {id : Nat} {l : Launch} (h : s.mem.wf = true) :
    (s.placeLaunch id l).mem.wf = true := by
  unfold State.placeLaunch
  split
  · apply State.tryPlace_wf
    · exact h
    · simp [h]
  · exact h

@[simp] theorem State.placeSaved_wf {s : State} {tid : Nat} {t : Truss} (h : s.mem.wf = true) :
    (s.placeSaved tid t).mem.wf = true := by
  unfold State.placeSaved
  split
  · exact h
  · apply State.tryPlace_wf
    · exact h
    · simp [h]

@[simp] theorem execPriorityAging_wf {l : Nat} {s : State} (h : s.mem.wf = true) :
    Res.Canonical (execPriorityAging l s) := by
  unfold execPriorityAging
  split
  · exact h
  · dsimp only
    split <;> exact h

/-! ### The items of a queue -/

@[simp] theorem State.markBegun_mem (s : State) (k n : Nat) : (s.markBegun k n).mem = s.mem := rfl

theorem beginItem_wf {cmd : Nat → Bool} {vf q : Nat} {f : Nat → Item → State → State} {s : State}
    (h : s.mem.wf = true) (hf : ∀ k i t, t.mem.wf = true → (f k i t).mem.wf = true) :
    Res.Canonical (beginItem cmd vf q f s) := by
  unfold beginItem
  split
  · exact h
  · split
    · exact h
    · split
      · simp [h]
      · simp [h, hf]

@[simp] theorem State.setUpLaunch_wf {s : State} {part vf queue item prio : Nat} {graph : Option (Nat × Nat)}
    {b : List Byte} {img : Image} {joins : Option (Nat × Nat)} (h : s.mem.wf = true) :
    (s.setUpLaunch part vf queue item prio graph b img joins).2.mem.wf = true := by
  unfold State.setUpLaunch
  dsimp only
  apply State.openJob_wf
  split
  · rename_i d _
    generalize hv : State.putOutst .. = v
    have hw : v.mem.wf = true := by rw [← hv]; exact State.putOutst_wf h
    cases e : v.t0Write part (leAt b 32 8) d with
    | none => exact hw
    | some w => exact State.t0Write_wf hw e
  · exact State.putOutst_wf h

@[simp] theorem State.nextLaunch_mem (s : State) (k : Nat) (joined : Bool) (next : Option (Nat × Nat)) :
    (s.nextLaunch k joined next).mem = s.mem := by
  unfold State.nextLaunch
  rw [State.modQueue_mem]
  split
  · split
    · rfl
    · simp
  · rfl

@[simp] theorem State.setWork_mem (s : State) (k n id : Nat) : (s.setWork k n id).mem = s.mem := rfl

@[simp] theorem State.markCtr_wf {s : State} {part ctr : Nat} (h : s.mem.wf = true) :
    (s.markCtr part ctr).mem.wf = true := by
  unfold State.markCtr
  split
  · exact h
  · simp [h]

theorem State.cancelled_wf {s : State} {part ctr : Nat} {f : State → State} (h : s.mem.wf = true)
    (hf : ∀ t, t.mem.wf = true → (f t).mem.wf = true) :
    (s.cancelled part ctr f).mem.wf = true := by
  unfold State.cancelled
  simp [h, hf]

@[simp] theorem execLaunchItem_wf {vf q : Nat} {s : State} (h : s.mem.wf = true) : Res.Canonical
    (execLaunchItem vf q s) := by
  unfold execLaunchItem
  refine beginItem_wf h fun k i t ht => ?_
  dsimp only
  split
  · exact State.finishItem_wf (by simp [ht])
  · split
    · exact State.cancelled_wf (by simp [ht]) fun u hu => State.finishItem_wf hu
    · rw [State.nextLaunch_mem, State.setWork_mem]
      exact State.setUpLaunch_wf (State.openJob_wf ht)

@[simp] theorem execGraphItem_wf {vf q : Nat} {s : State} (h : s.mem.wf = true) :
    Res.Canonical (execGraphItem vf q s) := by
  unfold execGraphItem
  apply beginItem_wf
  · exact h
  · intro z z1 u hu
    dsimp only
    split
    · simp [hu]
    · split <;> simp [hu]

@[simp] theorem State.skipNode_wf {s : State} {g m : Nat} {o : Nat × Nat × Word} (h : s.mem.wf = true) :
    (s.skipNode g m o).mem.wf = true := by
  unfold State.skipNode
  split
  · exact h
  · split
    · exact h
    · simp [h]

@[simp] theorem State.cancelNode_wf {s : State} {g m : Nat} (h : s.mem.wf = true) :
    (s.cancelNode g m).mem.wf = true := by
  unfold State.cancelNode
  split
  · apply State.cancelled_wf
    · exact h
    · intro u hu
      simp [hu]
  · exact h

@[simp] theorem execGraphNodeBegin_wf {vf q n m : Nat} {s : State} (h : s.mem.wf = true) :
    Res.Canonical (execGraphNodeBegin vf q n m s) := by
  unfold execGraphNodeBegin
  extract_lets k
  split
  · exact h
  · split
    · exact h
    · rename_i g _
      split
      · exact h
      · rename_i z _
        have hu : (s.openJob g.part (leAt z.1 56 8)).mem.wf = true := State.openJob_wf h
        extract_lets preds u
        split
        · exact h
        · split
          · simp [h]
          · split
            · split
              · simp [u, hu]
              · split
                · simp [u, hu]
                · split
                  · simp [u, hu]
                  · rw [Res.canonical_next]
                    exact State.setUpLaunch_wf hu
            · exact h

@[simp] theorem execWaitItem_wf {vf q : Nat} {s : State} (h : s.mem.wf = true) :
    Res.Canonical (execWaitItem vf q s) := by
  unfold execWaitItem
  apply beginItem_wf
  · exact h
  · intro z z1 u hu
    split
    · simp [hu]
    · exact hu

@[simp] theorem execWaitCompletes_wf {vf q : Nat} {s : State} (h : s.mem.wf = true) :
    Res.Canonical (execWaitCompletes vf q s) := by
  unfold execWaitCompletes
  dsimp only
  split
  · simp [h]
  · exact h

@[simp] theorem execSignalItem_wf {vf q : Nat} {s : State} (h : s.mem.wf = true) :
    Res.Canonical (execSignalItem vf q s) := by
  unfold execSignalItem
  apply beginItem_wf
  · exact h
  · intro z z1 u hu
    dsimp only
    split
    · simp [hu]
    · exact hu

@[simp] theorem execQfence_wf {vf q : Nat} {s : State} (h : s.mem.wf = true) : Res.Canonical (execQfence vf q s) := by
  unfold execQfence
  dsimp only
  split
  · split
    · simp [h]
    · exact h
  · apply beginItem_wf
    · exact h
    · intro z z1 u hu
      split
      · simp [hu]
      · exact hu

@[simp] theorem execNopItem_wf {vf q : Nat} {s : State} (h : s.mem.wf = true) :
    Res.Canonical (execNopItem vf q s) := by
  unfold execNopItem
  apply beginItem_wf
  · exact h
  · intro z z1 u hu
    simp [hu]

@[simp] theorem State.cancelLaunch_wf {s : State} {id : Nat} (h : s.mem.wf = true) :
    (s.cancelLaunch id).mem.wf = true := by
  unfold State.cancelLaunch
  split
  · exact h
  · simp [h]

@[simp] theorem State.cancelGraph_wf {s : State} {id : Nat} (h : s.mem.wf = true) :
    (s.cancelGraph id).mem.wf = true := by
  unfold State.cancelGraph
  split
  · exact h
  · refine foldl_wf (fun u z hu => ?_) _ ?_
    · split
      · simp [hu]
      · split
        · simp [hu]
        · exact hu
    · simp [h]

@[simp] theorem State.cancelBelow_wf {s : State} {part job : Nat} (h : s.mem.wf = true) :
    (s.cancelBelow part job).mem.wf = true := by
  unfold State.cancelBelow
  refine foldl_wf (fun u z hu => ?_) _ ?_
  · simp [hu]
  · refine foldl_wf (fun u z hu => ?_) _ ?_
    · simp [hu]
    · exact h

@[simp] theorem State.cancelQueued_wf {s : State} {part : Nat} {hit : Item → Bool} (h : s.mem.wf = true) :
    (s.cancelQueued part hit).mem.wf = true := by
  unfold State.cancelQueued
  refine foldl_wf (fun u z hu => ?_) _ ?_
  · apply State.settle_wf
    refine foldl_wf (fun u1 z1 hu1 => ?_) _ ?_
    · simp [hu1]
    · rw [State.modQueue_mem]
      refine foldl_wf (fun u1 z1 hu1 => ?_) _ ?_
      · simp [hu1]
      · exact hu
  · exact h

@[simp] theorem State.cancelItems_wf {s : State} {part level ident : Nat} (h : s.mem.wf = true) :
    (s.cancelItems part level ident).mem.wf = true := by
  have hjob {u : State} (hu : u.mem.wf = true) (job : Nat) (f : Job → Job) (hit : Item → Bool) :
      ((((u.modJob part job f).cancelQueued part hit).cancelBelow part job).settleJob part job).mem.wf = true :=
    State.settleJob_wf (State.cancelBelow_wf (State.cancelQueued_wf (by simp [hu])))
  unfold State.cancelItems
  split
  · refine foldl_wf (fun u z hu => foldl_wf (fun u n hu => ?_) _ hu) _ ?_
    · split
      · exact State.cancelNode_wf hu
      · exact hu
    · exact foldl_wf (fun _ _ hu => State.cancelLaunch_wf hu) _ (State.cancelQueued_wf h)
  · exact foldl_wf (fun _ _ hu => State.cancelGraph_wf hu) _ (State.cancelQueued_wf h)
  · exact State.cancelQueued_wf (foldl_wf (fun _ _ hu => hjob hu _ _ _) _ h)
  · split
    · split
      · exact h
      · exact hjob h _ _ _
    · exact h
  · exact h

@[simp] theorem execCancelCommand_wf {vf q : Nat} {s : State} (h : s.mem.wf = true) :
    Res.Canonical (execCancelCommand vf q s) := by
  unfold execCancelCommand
  apply beginItem_wf
  · exact h
  · intro z z1 u hu
    simp [hu]

@[simp] theorem execPhaseCommand_wf {vf q : Nat} {s : State} (h : s.mem.wf = true) : Res.Canonical
    (execPhaseCommand vf q s) := by
  unfold execPhaseCommand
  refine beginItem_wf h fun k i t ht => ?_
  have hu : (t.openJob (t.queuePart k) (leAt i.bytes 24 8)).mem.wf = true := State.openJob_wf ht
  dsimp only
  split
  · exact State.finishItem_wf hu
  · split
    · exact State.finishItem_wf hu
    · split
      · rename_i e
        exact State.arrive1_wf hu e
      · exact State.finishItem_wf hu

@[simp] theorem execPhaseEnd_wf {pid : Nat} {job : BitVec 64} {s : State} (h : s.mem.wf = true) :
    Res.Canonical (execPhaseEnd pid job s) := by
  unfold execPhaseEnd
  dsimp only
  split
  · exact h
  · split <;> simp [h]

/-! ### A move of a truss after its HOLD -/

@[simp] theorem fireSite_wf {p e : Nat} {s : State} (h : s.mem.wf = true) : Res.Canonical (fireSite p e s) := by
  unfold fireSite
  dsimp only
  split <;> simp [h]

/-- What a step of a plate's copy leaves has the memory that it began with. -/
def CopyX.KeepsMem (m : Memory) : CopyX → Prop
  | .wait => True
  | .sent _ t => t.mem = m
  | .done t => t.mem = m

theorem State.copyPlate_keeps (s : State) (part p q n : Nat) : CopyX.KeepsMem s.mem (s.copyPlate part p q n) := by
  unfold State.copyPlate
  dsimp only
  by_cases hn : n < plateBlocks
  · rw [if_pos hn]
    split
    · trivial
    · simp [CopyX.KeepsMem]
  · rw [if_neg hn]
    split
    · simp [CopyX.KeepsMem]
    · trivial

@[simp] theorem State.beginCopy_mem (s : State) (m : Move) (x : Truss) : (s.beginCopy m x).mem = s.mem := by
  unfold State.beginCopy
  dsimp only
  refine foldl_mem (fun _ _ => ?_) _ _
  rfl

@[simp] theorem execMoveCopy_wf {s : State} (h : s.mem.wf = true) : Res.Canonical (execMoveCopy s) := by
  unfold execMoveCopy
  split
  · exact h
  · split
    · exact h
    · rename_i _ m _ _ x _
      split
      · split
        · simp [h]
        · exact h
      · split
        · exact h
        · rename_i i rest _
          have hc := State.copyPlate_keeps s x.part (x.pagePair (m.dest x) i).1 (x.pagePair (m.dest x) i).2 m.sent
          dsimp only
          split
          · exact h
          · rename_i e
            rw [e] at hc
            exact hc ▸ h
          · rename_i e
            rw [e] at hc
            exact hc ▸ h

@[simp] theorem State.repoint_mem (s : State) (t : Nat) (old new : List Nat) : (s.repoint t old new).mem = s.mem := rfl

@[simp] theorem execMoveRelease_wf {s : State} (h : s.mem.wf = true) : Res.Canonical (execMoveRelease s) := by
  unfold execMoveRelease
  split
  · exact h
  · split
    · exact h
    · split
      · exact h
      · dsimp only
        rw [Res.canonical_next, State.modPart_mem]
        split
        · rw [State.setShims_mem]
          dsimp only
          rw [State.repoint_mem]
          refine foldl_wf (fun u z hu => ?_) _ ?_
          · exact hu
          · refine foldl_wf (fun u z hu => ?_) _ ?_
            · exact hu
            · exact h
        · dsimp only
          rw [State.repoint_mem]
          refine foldl_wf (fun u z hu => ?_) _ ?_
          · exact hu
          · refine foldl_wf (fun u z hu => ?_) _ ?_
            · exact hu
            · exact h

@[simp] theorem execMoveAbandon_wf {s : State} (h : s.mem.wf = true) : Res.Canonical (execMoveAbandon s) := by
  unfold execMoveAbandon
  split
  · exact h
  · split
    · exact h
    · split
      · simp [h]
      · exact h

/-! ### Seals -/

@[simp] theorem State.appendSeal_mem (s : State) (kind info : Nat) : (s.appendSeal kind info).mem = s.mem := rfl

@[simp] theorem execSealSummary_wf {s : State} (h : s.mem.wf = true) : Res.Canonical (execSealSummary s) := by
  unfold execSealSummary
  split <;> exact h

@[simp] theorem execGetMeasurements_wf {idx : Nat} {sign : Bool} {s : State} (h : s.mem.wf = true) :
    Res.Canonical (execGetMeasurements idx sign s) := by
  unfold execGetMeasurements
  split <;> exact h

/-! ### Worlds -/

@[simp] theorem kerfSteps_wf {s : State} (h : s.mem.wf = true) : Go.Canonical (kerfSteps s) := by
  unfold kerfSteps
  split
  · exact h
  · split
    · exact h
    · split
      · rename_i x r e
        have hr : Res.Canonical r := Go.wf_stop e (release_wf h)
        exact hr
      · rename_i x x1 t e
        have ht : t.mem.wf = true := Go.wf_ok e (release_wf h)
        exact ht

@[simp] theorem State.wakeTruss_mem (s : State) (t : Nat) (x : Truss) : (s.wakeTruss t x).mem = s.mem := by
  unfold State.wakeTruss
  refine foldl_mem (fun _ _ => ?_) _ _
  rfl

@[simp] theorem State.giveFork_mem (s : State) (v : Word) (p : Nat) : (s.giveFork v p).mem = s.mem := rfl

@[simp] theorem State.refuseFork_mem (s : State) (f : Nat) (k : Fork) (v : Word) :
    (s.refuseFork f k v).mem = s.mem := by
  unfold State.refuseFork
  refine foldl_mem (fun _ _ => ?_) _ _
  rfl

@[simp] theorem State.trapFork_mem (s : State) (f : Nat) (k : Fork) : (s.trapFork f k).mem = s.mem := by
  unfold State.trapFork
  simp

@[simp] theorem State.beginFork_mem (s : State) (f : Nat) (k : Fork) (part timeout : Nat) :
    (s.beginFork f k part timeout).mem = s.mem := by
  unfold State.beginFork
  split
  · simp
  · dsimp only
    split
    · simp
    · rfl

@[simp] theorem joinFork_wf {a : Reg} {n : Nat} {s : State} (h : s.mem.wf = true) :
    Res.Canonical (joinFork a n s) := by
  unfold joinFork
  split
  · exact h
  · dsimp only
    rw [Res.canonical_next]
    split
    · split
      · simp [h]
      · exact h
    · split
      · rw [State.beginFork_mem]
        dsimp only
        refine foldl_wf (fun u z hu => ?_) _ ?_
        · split
          · simp [hu]
          · exact hu
        · exact h
      · dsimp only
        refine foldl_wf (fun u z hu => ?_) _ ?_
        · split
          · simp [hu]
          · exact hu
        · exact h

@[simp] theorem execForkw_wf {d a : Reg} {n : BitVec 15} {s : State} (h : s.mem.wf = true) :
    Res.Canonical (execForkw d a n s) := by
  unfold execForkw
  split
  · simp [h]
  · split
    · simp [h]
    · split
      · simp [h]
      · apply Go.bind_wf
        · simp [h]
        · intro z u hu
          simp [hu]

@[simp] theorem State.placeCopy_mem (s : State) (f : Nat) (k : Fork) (x : Truss) (rival row col : Nat) :
    (s.placeCopy f k x rival row col).mem = s.mem := by
  unfold State.placeCopy
  refine foldl_mem (fun _ _ => ?_) _ _
  rfl

@[simp] theorem freeTickets_mem (l : List (Nat × Nat)) (s : State) : (freeTickets l s).2.mem = s.mem := by
  induction l generalizing s with
  | nil => rfl
  | cons x t ih =>
    unfold freeTickets
    split
    · exact (ih _).trans s.freeVal_mem
    · exact ih _

@[simp] theorem State.clonePage_mem (s : State) (tid part p q : Nat) : (s.clonePage tid part p q).mem = s.mem := by
  unfold State.clonePage
  simp

@[simp] theorem State.cloneLinks_mem (s : State) (old new : List Nat) : (s.cloneLinks old new).mem = s.mem := by
  unfold State.cloneLinks
  simp

@[simp] theorem State.finishFork_mem (s : State) (f : Nat) (k : Fork) (part : Nat) :
    (s.finishFork f k part).mem = s.mem := by
  unfold State.finishFork
  refine (foldl_mem (fun u z => ?_) _ _).trans ?_
  · dsimp only
    split
    · split
      · refine (foldl_mem (fun u1 z1 => ?_) _ _).trans ?_
        · split
          · simp
          · rfl
        · refine (foldl_mem (fun u1 z1 => ?_) _ _).trans ?_
          · split <;> rfl
          · rfl
      · refine (foldl_mem (fun u1 z1 => ?_) _ _).trans ?_
        · split <;> rfl
        · rfl
    · refine (foldl_mem (fun u1 z1 => ?_) _ _).trans ?_
      · split <;> rfl
      · rfl
  · dsimp only
    refine (foldl_mem (fun u z => ?_) _ _).trans ?_
    · simp
    · simp

@[simp] theorem State.placeFork_wf {s : State} {f : Nat} {k : Fork} (h : s.mem.wf = true) :
    (s.placeFork f k).mem.wf = true := by
  unfold State.placeFork
  split
  · exact h
  · rename_i l _
    split
    · exact h
    · split
      · split
        · split
          · simp [h]
          · exact h
        · rename_i p q _
          have hc := State.copyPlate_keeps s l.part p q k.copied.2
          split
          · exact h
          · rename_i e
            rw [e] at hc
            exact hc ▸ h
          · rename_i e
            rw [e] at hc
            exact hc ▸ h
      · split
        · exact h
        · split
          · simp [h]
          · split <;> simp [h]

@[simp] theorem State.undoCopies_wf {s : State} {part : Nat} {k : Fork} (h : s.mem.wf = true) :
    (s.undoCopies part k).mem.wf = true := by
  unfold State.undoCopies
  refine foldl_wf (fun u z hu => ?_) _ ?_
  · simp [hu]
  · refine foldl_wf (fun u z hu => ?_) _ ?_
    · simp [hu]
    · exact h

@[simp] theorem execForkwTimeout_wf {f : Nat} {s : State} (h : s.mem.wf = true) :
    Res.Canonical (execForkwTimeout f s) := by
  unfold execForkwTimeout
  split
  · exact h
  · split
    · exact h
    · simp [h]

@[simp] theorem execPlaceTruss_wf {t : Nat} {s : State} (h : s.mem.wf = true) :
    Res.Canonical (execPlaceTruss t s) := by
  unfold execPlaceTruss
  split
  · exact h
  · split
    · simp [h]
    · split
      · simp [h]
      · split
        · rw [Res.canonical_next]
          split
          · simp [h]
          · exact h
        · split
          · simp [h]
          · exact h

@[simp] theorem State.putLeaf_wf {s : State} {part slot panel g : Nat} (h : s.mem.wf = true) :
    (s.putLeaf part slot panel g).2.mem.wf = true := by
  unfold State.putLeaf
  split
  · exact h
  · split
    · simp [h]
    · exact h

@[simp] theorem State.shootdown_mem (s : State) (f : TlbEntry → Bool) : (s.shootdown f).mem = s.mem := rfl

@[simp] theorem State.mergePanel_wf {s : State} {part parent : Nat} {o : Nat × Nat × Nat} (h : s.mem.wf = true) :
    (s.mergePanel part parent o).mem.wf = true := by
  unfold State.mergePanel
  split
  · simp [h]
  · dsimp only
    split
    · simp [h]
    · rw [State.modPart_mem]
      split
      · exact h
      · simp [h]

@[simp] theorem State.mergeView_wf {s : State} {part parent view : Nat} (h : s.mem.wf = true) :
    (s.mergeView part parent view).mem.wf = true := by
  unfold State.mergeView
  split
  · exact h
  · refine foldl_wf (fun u z hu => ?_) _ ?_
    · simp [hu]
    · rw [State.givePanels_mem]
      refine foldl_wf (fun u z hu => ?_) _ ?_
      · simp [hu]
      · exact h

@[simp] theorem State.notifyOp_wf {s : State} {part vfn : Nat} {sel tail : Word} (h : s.mem.wf = true) :
    (s.notifyOp part vfn sel tail).mem.wf = true := by
  unfold State.notifyOp
  split
  · simp [h]
  · exact h

@[simp] theorem State.perform_wf {s : State} {part vfn : Nat} {e : OutboxEntry} (h : s.mem.wf = true) :
    (s.perform part vfn e).mem.wf = true := by
  unfold State.perform
  split
  · simp [h]
  · simp [h]
  · dsimp only
    split
    · split <;> simp [h]
    · simp [h]
  · simp [h]
  · split
    · dsimp only
      split
      · simp [h]
      · exact h
    · exact h
  · exact h

@[simp] theorem State.appendOutbox_mem (s : State) (f t : Nat) (l : List OutboxEntry) :
    (s.appendOutbox f t l).mem = s.mem := rfl

@[simp] theorem State.discardRival_wf {part f n : Nat} {r : Rival} {s : State} (h : s.mem.wf = true) :
    (State.discardRival part f n r s).mem.wf = true := by
  induction n generalizing f r s with
  | zero => exact State.tearRival_wf h
  | succ n ih =>
    unfold State.discardRival
    refine State.tearRival_wf (foldl_wf (fun u z hu => ?_) _ h)
    exact State.undoCopies_wf (foldl_wf (fun _ _ hv => ih hv) _ hu)

@[simp] theorem State.raiseForks_mem (s : State) (f part view : Nat) (k : Fork) :
    (s.raiseForks f part view k).mem = s.mem := by
  unfold State.raiseForks
  refine foldl_mem (fun _ _ => ?_) _ _
  rfl

@[simp] theorem State.dropRivals_wf {s : State} {f part : Nat} {sel : Nat → Rival → Bool} (h : s.mem.wf = true) :
    (s.dropRivals f part sel).mem.wf = true := by
  unfold State.dropRivals
  split
  · exact h
  · dsimp only
    refine foldl_wf (fun u z hu => ?_) _ ?_
    · simp [hu]
    · exact h

@[simp] theorem State.commit_wf {s : State} {f : Nat} {k : Fork} {i : Nat} (h : s.mem.wf = true) :
    (s.commit f k i).mem.wf = true := by
  unfold State.commit
  split
  · split
    · refine foldl_wf (fun u z hu => ?_) _ ?_
      · simp [hu]
      · apply State.mergeView_wf
        dsimp only
        refine foldl_wf (fun u z hu => ?_) _ ?_
        · split
          · exact hu
          · dsimp only
            refine foldl_wf (fun u1 z1 hu1 => ?_) _ ?_
            · exact hu1
            · exact hu
        · simp [h]
    · rw [State.appendOutbox_mem]
      apply State.mergeView_wf
      dsimp only
      refine foldl_wf (fun u z hu => ?_) _ ?_
      · split
        · exact hu
        · dsimp only
          refine foldl_wf (fun u1 z1 hu1 => ?_) _ ?_
          · exact hu1
          · exact hu
      · simp [h]
  · exact h

@[simp] theorem State.flushStores_mem (s : State) (r : Rival) : (s.flushStores r).mem = s.mem := by
  unfold State.flushStores
  simp

@[simp] theorem State.settleFork_wf {n f : Nat} {s : State} (h : s.mem.wf = true) :
    (State.settleFork n f s).mem.wf = true := by
  induction n generalizing f s with
  | zero => exact h
  | succ n ih =>
    unfold State.settleFork
    split
    · exact h
    · split
      · exact h
      · extract_lets part u v w
        have hv : v.mem.wf = true := State.dropRivals_wf h
        have hw : w.mem.wf = true := hv
        split
        · split
          · exact hv
          · split
            · split
              · exact hv
              · split
                · dsimp only
                  split
                  · exact State.commit_wf hv
                  · exact ih (State.commit_wf hv)
                · simp [hv]
            · dsimp only
              split
              · exact State.settleLaunch_wf (by simp [hw])
              · exact ih (by simp [hw])
        · exact hv

@[simp] theorem State.settleForks_wf {n f : Nat} {s : State} (h : s.mem.wf = true) :
    (State.settleForks n f s).mem.wf = true := by
  induction n generalizing f s with
  | zero => exact h
  | succ n ih =>
    unfold State.settleForks
    dsimp only
    split
    · exact State.settleFork_wf h
    · exact ih (State.settleFork_wf h)

@[simp] theorem execWyield_wf {a : Reg} {s : State} (h : s.mem.wf = true) : Res.Canonical (execWyield a s) := by
  unfold execWyield
  split
  · simp [h]
  · split
    · exact h
    · split
      · simp [h]
      · apply Go.bind_wf
        · simp [h]
        · intro z u hu
          dsimp only
          split
          · exact hu
          · simp [hu]

@[simp] theorem holdTurn_wf {s : State} (h : s.mem.wf = true) : Res.Canonical (holdTurn s) := by
  unfold holdTurn
  split
  · rename_i x r e
    have hr : Res.Canonical r := Go.wf_stop e (kerfSteps_wf h)
    exact hr
  · rename_i x x1 t e
    have ht : t.mem.wf = true := Go.wf_ok e (kerfSteps_wf h)
    exact ht

@[simp] theorem State.flushRival_mem (s : State) (part : Nat) (r : Rival) : (s.flushRival part r).mem = s.mem := by
  unfold State.flushRival
  simp

@[simp] theorem chooseNow_wf {s : State} (h : s.mem.wf = true) : Res.Canonical (chooseNow s) := by
  unfold chooseNow
  split
  · simp [h]
  · split
    · exact h
    · split
      · split
        · simp [h]
        · dsimp only
          rw [Res.canonical_next, complete_mem]
          split <;> simp [h]
      · exact h

@[simp] theorem execChoose_wf {s : State} (h : s.mem.wf = true) : Res.Canonical (execChoose s) := by
  unfold execChoose
  split
  · simp [h]
  · split
    · simp [h]
    · apply Go.bind_wf
      · simp [h]
      · intro z u hu
        split <;> simp [hu]

@[simp] theorem State.abortView_wf {s : State} {part v code : Nat} (h : s.mem.wf = true) :
    (s.abortView part v code).mem.wf = true := by
  unfold State.abortView
  split
  · exact h
  · split
    · exact h
    · simp [h]

@[simp] theorem execVpabort_wf {vf : Nat} {v : BitVec 64} {s : State} (h : s.mem.wf = true) :
    Res.Canonical (execVpabort vf v s) := by
  unfold execVpabort
  split
  · exact h
  · split
    · exact h
    · simp [h]

@[simp] theorem execTrussEnd_wf {t : Nat} {s : State} (h : s.mem.wf = true) : Res.Canonical (execTrussEnd t s) := by
  unfold execTrussEnd
  split
  · exact h
  · split
    · dsimp only
      rw [Res.canonical_next]
      split
      · simp [h]
      · exact h
    · dsimp only
      rw [Res.canonical_next]
      split
      · apply State.settleLaunch_wf
        simp [h]
      · simp [h]

/-! ### The reset ladder and the module's starts -/

@[simp] theorem State.pfResult_mem (s : State) (pid result : Nat) (busy : Bool) :
    (s.pfResult pid result busy).mem = s.mem := rfl

theorem pfOp_wf {pid : Nat} {exists_ : Bool} {f : State → State} {s : State} (h : s.mem.wf = true)
    (hf : ∀ t, t.mem.wf = true → (f t).mem.wf = true) :
    Res.Canonical (pfOp pid exists_ f s) := by
  unfold pfOp
  split
  · exact h
  · split
    · exact h
    · split
      · exact h
      · simp [h, hf]

@[simp] theorem State.resetLaunch_wf {s : State} {id : Nat} (h : s.mem.wf = true) :
    (s.resetLaunch id).mem.wf = true := by
  unfold State.resetLaunch
  split
  · exact h
  · apply State.settleLaunch_wf
    refine foldl_wf (fun u z hu => ?_) _ ?_
    · simp [hu]
    · exact h

@[simp] theorem State.resetGraph_wf {s : State} {id : Nat} (h : s.mem.wf = true) :
    (s.resetGraph id).mem.wf = true := by
  unfold State.resetGraph
  split
  · exact h
  · refine foldl_wf (fun u z hu => ?_) _ ?_
    · split
      · simp [hu]
      · split
        · simp [hu]
        · exact hu
    · exact h

@[simp] theorem State.resetItems_wf {s : State} {k : Nat} (h : s.mem.wf = true) : (s.resetItems k).mem.wf = true := by
  unfold State.resetItems
  apply State.flushRecords_wf
  refine foldl_wf (fun u z hu => ?_) _ ?_
  · split
    · exact hu
    · simp [hu]
  · exact h

@[simp] theorem State.beginQueueReset_wf {s : State} {k : Nat} (h : s.mem.wf = true) :
    (s.beginQueueReset k).mem.wf = true := by
  unfold State.beginQueueReset
  simp [h]

@[simp] theorem State.resetQueueWork_wf {s : State} {k : Nat} (h : s.mem.wf = true) :
    (s.resetQueueWork k).mem.wf = true := by
  unfold State.resetQueueWork
  apply State.flushRecords_wf
  refine foldl_wf (fun u z hu => ?_) _ ?_
  · simp [hu]
  · refine foldl_wf (fun u z hu => ?_) _ ?_
    · simp [hu]
    · exact h

@[simp] theorem State.resetJobs_mem (s : State) (f : Job → Bool) : (s.resetJobs f).mem = s.mem := rfl

@[simp] theorem State.beginPartReset_wf {s : State} {pid : Nat} (h : s.mem.wf = true) :
    (s.beginPartReset pid).mem.wf = true := by
  unfold State.beginPartReset
  rw [State.modPart_mem, State.resetJobs_mem]
  refine foldl_wf (fun u z hu => ?_) _ ?_
  · simp [hu]
  · exact h

@[simp] theorem State.partResetWork_wf {s : State} {pid : Nat} (h : s.mem.wf = true) :
    (s.partResetWork pid).mem.wf = true := by
  unfold State.partResetWork
  dsimp only
  split
  · refine foldl_wf (fun u z hu => ?_) _ ?_
    · simp [hu]
    · refine foldl_wf (fun u z hu => ?_) _ ?_
      · simp [hu]
      · exact h
  · dsimp only
    apply State.cancelCmds_wf
    refine foldl_wf (fun u z hu => ?_) _ ?_
    · simp [hu]
    · refine foldl_wf (fun u z hu => ?_) _ ?_
      · simp [hu]
      · exact h

@[simp] theorem State.engineResetWork_wf {s : State} {g pid : Nat} (h : s.mem.wf = true) :
    (s.engineResetWork g pid).mem.wf = true := by
  unfold State.engineResetWork
  simp [h]

@[simp] theorem State.scrubAll_mem (s : State) : s.scrubAll.mem = s.mem := rfl

@[simp] theorem State.endMove_mem (s : State) : s.endMove.mem = s.mem := by
  unfold State.endMove
  simp

@[simp] theorem State.beginWarm_wf {s : State} (h : s.mem.wf = true) : s.beginWarm.mem.wf = true := by
  unfold State.beginWarm
  dsimp only
  rw [State.resetJobs_mem, State.scrubAll_mem]
  refine foldl_wf (fun u z hu => ?_) _ ?_
  · apply State.settle_wf
    refine foldl_wf (fun u1 z1 hu1 => ?_) _ ?_
    · simp [hu1]
    · exact hu
  · refine foldl_wf (fun u z hu => ?_) _ ?_
    · simp [hu]
    · refine foldl_wf (fun u z hu => ?_) _ ?_
      · simp [hu]
      · simp [h]

@[simp] theorem State.startWarm_wf {s : State} (h : s.mem.wf = true) : s.startWarm.mem.wf = true := by
  unfold State.startWarm
  split
  · exact h
  · simp [h]

@[simp] theorem State.settleStart_wf {s : State} (h : s.mem.wf = true) : s.settleStart.mem.wf = true := by
  unfold State.settleStart
  split
  · exact h
  · split
    · split
      · exact h
      · simp [h]
    · split <;> exact h

@[simp] theorem State.coldBase_wf {s : State} (h : s.mem.wf = true) : s.coldBase.mem.wf = true := by
  unfold State.coldBase
  exact h

@[simp] theorem State.coldFailed_wf {s : State} {step : Nat} (h : s.mem.wf = true) :
    (s.coldFailed step).mem.wf = true := by
  unfold State.coldFailed
  exact h

@[simp] theorem State.coldStart_wf {s : State} (h : s.mem.wf = true) : s.coldStart.mem.wf = true := by
  unfold State.coldStart
  split <;> exact h

@[simp] theorem State.warmFailed_wf {s : State} (h : s.mem.wf = true) : s.warmFailed.mem.wf = true := by
  unfold State.warmFailed
  split <;> simp [h]

@[simp] theorem execColdStart_wf {s : State} (h : s.mem.wf = true) : Res.Canonical (execColdStart s) := by
  unfold execColdStart
  simp [h]

@[simp] theorem execWarmStart_wf {s : State} (h : s.mem.wf = true) : Res.Canonical (execWarmStart s) := by
  unfold execWarmStart
  split
  · exact h
  · simp [h]

@[simp] theorem execWarmStartTimeout_wf {s : State} (h : s.mem.wf = true) :
    Res.Canonical (execWarmStartTimeout s) := by
  unfold execWarmStartTimeout
  split
  · exact h
  · split
    · exact h
    · simp [h]

@[simp] theorem State.rungWork_wf {s : State} {r : Rung} (h : s.mem.wf = true) : (s.rungWork r).1.mem.wf = true := by
  unfold State.rungWork
  dsimp only
  split
  · simp [h]
  · simp [h]
  · simp [h]
  · simp [h]
  · exact h

@[simp] theorem State.endRung_mem (s : State) (r : Rung) : (s.endRung r).mem = s.mem := by
  unfold State.endRung
  split <;> rfl

@[simp] theorem State.rstStat_mem (s : State) (v result top : Nat) (busy : Bool) :
    (s.rstStat v result top busy).mem = s.mem := rfl

@[simp] theorem State.clearRst_mem (s : State) (asked : List Nat) : (s.clearRst asked).mem = s.mem := by
  unfold State.clearRst
  refine (foldl_mem (fun u z => ?_) _ _).trans ?_
  · split <;> rfl
  · rfl

@[simp] theorem State.reportTop_mem (s : State) (r : Rung) : (s.reportTop r).mem = s.mem := by
  unfold State.reportTop
  split <;> rfl

@[simp] theorem State.settleRungs_wf {s : State} (h : s.mem.wf = true) : s.settleRungs.mem.wf = true := by
  unfold State.settleRungs
  split
  · exact h
  · rw [State.clearRst_mem]
    refine foldl_wf (fun u z hu => ?_) _ ?_
    · split
      · exact hu
      · simp [hu]
    · refine foldl_wf (fun u z hu => ?_) _ ?_
      · dsimp only
        split <;> simp [hu]
      · exact h

@[simp] theorem State.applyRung_wf {s : State} {r : Rung} (h : s.mem.wf = true) : (s.applyRung r).mem.wf = true := by
  unfold State.applyRung
  split
  · exact h
  · dsimp only
    split
    · simp [h]
    · exact h
    · simp [h]
    · split
      · exact h
      · simp [h]
    · exact h

@[simp] theorem State.askRung_wf {s : State} {v : Nat} {r : Rung} (h : s.mem.wf = true) :
    (s.askRung v r).mem.wf = true := by
  unfold State.askRung
  simp [h]

@[simp] theorem rstOp_wf {vf : Nat} {f : Nat → State → Option Rung} {s : State} (h : s.mem.wf = true) :
    Res.Canonical (rstOp vf f s) := by
  unfold rstOp
  split
  · exact h
  · split
    · exact h
    · split
      · exact h
      · split
        · exact h
        · simp [h]

@[simp] theorem execResetQueue_wf {vf q : Nat} {s : State} (h : s.mem.wf = true) :
    Res.Canonical (execResetQueue vf q s) := by
  unfold execResetQueue
  simp [h]

@[simp] theorem execResetLaunch_wf {vf lid : Nat} {s : State} (h : s.mem.wf = true) :
    Res.Canonical (execResetLaunch vf lid s) := by
  unfold execResetLaunch
  simp [h]

@[simp] theorem State.settlePf_mem (s : State) : s.settlePf.mem = s.mem := by
  unfold State.settlePf
  split <;> rfl

@[simp] theorem State.pfRung_wf {s : State} {pid : Nat} {r : Rung} (h : s.mem.wf = true) :
    (s.pfRung pid r).mem.wf = true := by
  unfold State.pfRung
  simp [h]

@[simp] theorem execResetEngine_wf {pid bay eng : Nat} {s : State} (h : s.mem.wf = true) :
    Res.Canonical (execResetEngine pid bay eng s) := by
  unfold execResetEngine
  apply pfOp_wf
  · exact h
  · intro u hu
    split
    · exact hu
    · simp [hu]

@[simp] theorem execResetPartition_wf {pid : Nat} {s : State} (h : s.mem.wf = true) :
    Res.Canonical (execResetPartition pid s) := by
  unfold execResetPartition
  apply pfOp_wf
  · exact h
  · intro u hu
    simp [hu]

@[simp] theorem execResetDevice_wf {s : State} (h : s.mem.wf = true) : Res.Canonical (execResetDevice s) := by
  unfold execResetDevice
  split
  · exact h
  · split
    · exact h
    · rw [Res.canonical_next, State.settlePf_mem]
      apply State.settleRungs_wf
      simp [h]

@[simp] theorem execRungTimeout_wf {n : Nat} {s : State} (h : s.mem.wf = true) :
    Res.Canonical (execRungTimeout n s) := by
  unfold execRungTimeout
  split
  · exact h
  · split
    · exact h
    · split
      · exact h
      · dsimp only
        rw [Res.canonical_next]
        apply State.settleStart_wf
        apply State.settleRungs_wf
        rw [State.reportTop_mem]
        refine foldl_wf (fun u z hu => ?_) _ ?_
        · simp [hu]
        · exact h

/-! ### Partitions -/

@[simp] theorem State.resetVf_mem (s : State) (v : Nat) (part : Option Nat) (index : Nat) :
    (s.resetVf v part index).mem = s.mem := rfl

@[simp] theorem execPartitionCreate_wf {pid : Nat} {s : State} (h : s.mem.wf = true) :
    Res.Canonical (execPartitionCreate pid s) := by
  unfold execPartitionCreate
  apply pfOp_wf
  · exact h
  · intro u hu
    dsimp only
    split
    · exact hu
    · split
      · exact hu
      · split
        · exact hu
        · rw [State.pfResult_mem, State.appendSeal_mem]
          refine foldl_wf (fun u1 z hu1 => ?_) _ ?_
          · exact hu1
          · exact hu

@[simp] theorem State.cutLease_wf {pid n : Nat} {s : State} (h : s.mem.wf = true) :
    (State.cutLease pid n s).mem.wf = true := by
  induction n generalizing s with
  | zero => exact h
  | succ n ih =>
    unfold State.cutLease
    split
    · exact h
    · generalize hu : (if s.movesWrong pid then s.dropMove else s) = u
      have hu : u.mem.wf = true := by
        rw [← hu]
        split <;> simp [h]
      dsimp only
      split
      · split <;> simp [hu]
      · split
        · exact hu
        · split
          · split
            · exact hu
            · exact ih (by simp [hu])
          · split
            · exact hu
            · split
              · exact hu
              · exact ih (by simp [hu])

@[simp] theorem State.takeSlices_mem (s : State) (pid : Nat) (old new : List Byte) :
    (s.takeSlices pid old new).mem = s.mem := by
  unfold State.takeSlices
  rw [State.modPart_mem]
  dsimp only
  refine foldl_mem (fun _ _ => ?_) _ _
  rfl

@[simp] theorem State.dropSlices_mem (s : State) (pid mask : Nat) : (s.dropSlices pid mask).mem = s.mem := rfl

@[simp] theorem State.settleUpdate_wf {s : State} {pid : Nat} (h : s.mem.wf = true) :
    (s.settleUpdate pid).mem.wf = true := by
  unfold State.settleUpdate
  dsimp only
  split <;> simp [h]

@[simp] theorem State.disown_mem (s : State) (h1 : Nat) : (s.disown h1).mem = s.mem := rfl

@[simp] theorem State.revoke_mem (s : State) (pid g h1 : Nat) : (s.revoke pid g h1).mem = s.mem := rfl

@[simp] theorem execGranuleRevoke_wf {pid : Nat} {s : State} (h : s.mem.wf = true) :
    Res.Canonical (execGranuleRevoke pid s) := by
  unfold execGranuleRevoke
  apply pfOp_wf
  · exact h
  · intro u hu
    dsimp only
    split <;> exact hu

@[simp] theorem State.finishDestroy_wf {s : State} {pid : Nat} (h : s.mem.wf = true) :
    (s.finishDestroy pid).mem.wf = true := by
  unfold State.finishDestroy
  rw [State.appendSeal_mem]
  apply State.mapPending_wf
  rw [State.setPart_mem]
  dsimp only
  refine foldl_wf (fun u z hu => ?_) _ ?_
  · exact hu
  · refine foldl_wf (fun u z hu => ?_) _ ?_
    · exact hu
    · exact h

@[simp] theorem State.settleParts_wf {s : State} (h : s.mem.wf = true) : s.settleParts.mem.wf = true := by
  unfold State.settleParts
  rw [State.settlePf_mem]
  refine foldl_wf (fun u z hu => ?_) _ ?_
  · dsimp only
    split
    · simp [hu]
    · split
      · simp [hu]
      · exact hu
  · exact h

@[simp] theorem execPartitionUpdate_wf {pid : Nat} {s : State} (h : s.mem.wf = true) :
    Res.Canonical (execPartitionUpdate pid s) := by
  unfold execPartitionUpdate
  apply pfOp_wf
  · exact h
  · intro u hu
    dsimp only
    split
    · exact hu
    · split
      · exact hu
      · simp [hu]

@[simp] theorem execPartitionDestroy_wf {pid : Nat} {s : State} (h : s.mem.wf = true) :
    Res.Canonical (execPartitionDestroy pid s) := by
  unfold execPartitionDestroy
  apply pfOp_wf
  · exact h
  · intro u hu
    simp [hu]

@[simp] theorem execPartitionStatus_wf {pid : Nat} {s : State} (h : s.mem.wf = true) :
    Res.Canonical (execPartitionStatus pid s) := by
  unfold execPartitionStatus
  exact pfOp_wf h fun t ht => by simp [ht]

@[simp] theorem execGranuleGrant_wf {pid : Nat} {s : State} (h : s.mem.wf = true) :
    Res.Canonical (execGranuleGrant pid s) := by
  unfold execGranuleGrant
  apply pfOp_wf
  · exact h
  · intro u hu
    split
    · split
      · exact hu
      · split <;> exact hu

@[simp] theorem State.zeroStripes_wf {s : State} {h' c : Nat} (h : s.mem.wf = true) :
    (s.zeroStripes h' c).mem.wf = true := State.zeroStripes_kept h' c h

@[simp] theorem State.setOwner_mem (s : State) (h1 c part : Nat) : (s.setOwner h1 c part).mem = s.mem := rfl

@[simp] theorem execChannelGrant_wf {h1 c : Nat} {s : State} (h : s.mem.wf = true) :
    Res.Canonical (execChannelGrant h1 c s) := by
  unfold execChannelGrant
  split
  · exact h
  · simp [h]

@[simp] theorem execSavepoolWrite_wf {v : BitVec 64} {s : State} (h : s.mem.wf = true) :
    Res.Canonical (execSavepoolWrite v s) := by
  unfold execSavepoolWrite
  split <;> exact h

/-! ### KERF and REGION -/

@[simp] theorem stopHere_wf {s : State} (h : s.mem.wf = true) : Res.Canonical (stopHere s) := by
  unfold stopHere
  exact h

@[simp] theorem execKerf_wf {s : State} (h : s.mem.wf = true) : Res.Canonical (execKerf s) := by
  unfold execKerf
  split
  · split
    · apply Go.bind_wf
      · simp [h]
      · intro z u hu
        exact hu
    · simp [h]
  · apply Go.bind_wf
    · simp [h]
    · intro z u hu
      split <;> exact hu

@[simp] theorem State.freeLinks_mem (s : State) (t ix : Nat) (img : Image) : (s.freeLinks t ix img).mem = s.mem := by
  unfold State.freeLinks
  refine (foldl_mem (fun u z => ?_) _ _).trans ?_
  · split <;> rfl
  · rfl

@[simp] theorem State.recordRegion_mem (s : State) (img : Image) (number : Nat) (code : Nat × Nat) (mask : Word) :
    (s.recordRegion img number code mask).mem = s.mem := by
  unfold State.recordRegion
  simp

@[simp] theorem State.reissueStream_mem (s : State) (z : Nat × Bool × Stream) : (s.reissueStream z).mem = s.mem := by
  unfold State.reissueStream
  split
  all_goals
    dsimp only
    split <;> simp

@[simp] theorem State.reissueCmd_wf {s : State} {t : Truss} {z : KeptCmd} (h : s.mem.wf = true) :
    (s.reissueCmd t z).mem.wf = true := by
  unfold State.reissueCmd
  split
  · split
    · dsimp only
      split <;> exact h
    · dsimp only
      split
      · simp [h]
      · exact h
  · split
    · dsimp only
      split
      · exact h
      · simp [h]
    · dsimp only
      split <;> simp [h]

@[simp] theorem State.reissue_wf {s : State} {t : Truss} (h : s.mem.wf = true) : (s.reissue t).mem.wf = true := by
  unfold State.reissue
  split
  · rw [State.setPage_mem]
    refine foldl_wf (fun u z hu => ?_) _ ?_
    · simp [hu]
    · simp [h]
  · exact h

@[simp] theorem execRegion_wf {a : Reg} {s : State} (h : s.mem.wf = true) : Res.Canonical (execRegion a s) := by
  unfold execRegion
  split
  · split
    · dsimp only
      split <;> simp [h]
    · split
      · dsimp only
        split
        · simp [h]
        · apply Go.bind_wf
          · simp [h]
          · intro z u hu
            exact hu
      · split
        · dsimp only
          split
          · simp [h]
          · exact h
        · dsimp only
          split <;> simp [h]
  · simp [h]

/-! ### END and the waits -/

@[simp] theorem State.countCore_wf {s : State} (h : s.mem.wf = true) : s.countCore.mem.wf = true := by
  unfold State.countCore
  dsimp only
  split
  · exact h
  · simp [h]

@[simp] theorem execEndCore_wf {s : State} (h : s.mem.wf = true) : Res.Canonical (execEndCore s) := by
  unfold execEndCore
  split
  · exact h
  · apply Go.bind_wf
    · simp [h]
    · intro z u hu
      simp [hu]

@[simp] theorem execBarT_wf {s : State} (h : s.mem.wf = true) : Res.Canonical (execBarT s) := by
  unfold execBarT
  dsimp only
  split
  · simp [h]
  · split
    · simp [h]
    · exact h

@[simp] theorem State.phaseArrive_wf {s : State} (h : s.mem.wf = true) : s.phaseArrive.mem.wf = true := by
  unfold State.phaseArrive
  dsimp only
  split
  · exact h
  · split
    · simp [h]
    · exact h

@[simp] theorem execPhase_wf {a : Reg} {s : State} (h : s.mem.wf = true) : Res.Canonical (execPhase a s) := by
  unfold execPhase
  split
  · simp [h]
  · split
    · dsimp only
      split <;> simp [h]
    · dsimp only
      split
      · simp [h]
      · split
        · exact h
        · apply Go.bind_wf
          · simp [h]
          · intro z u hu
            simp [hu]

@[simp] theorem execCwait_wf {a b : Reg} {s : State} (h : s.mem.wf = true) : Res.Canonical (execCwait a b s) := by
  unfold execCwait
  split
  · simp [h]
  · dsimp only
    split
    · simp [h]
    · split
      · simp [h]
      · apply Go.bind_wf
        · simp [h]
        · intro z u hu
          split
          · simp [hu]
          · split
            · simp [hu]
            · exact hu

@[simp] theorem execCadd_wf {a b : Reg} {s : State} (h : s.mem.wf = true) : Res.Canonical (execCadd a b s) := by
  unfold execCadd
  split
  · dsimp only
    split
    · simp [h]
    · split <;> simp [h]
  · dsimp only
    split
    · simp [h]
    · split
      · simp [h]
      · apply Go.bind_wf
        · simp [h]
        · intro z u hu
          split
          · simp [hu]
          · split
            · simp [hu]
            · apply Go.bind_wf
              · simp [hu]
              · intro z1 u1 hu1
                split
                · exact hu1
                · apply Go.bind_wf
                  · simp [hu1]
                  · simp

@[simp] theorem execNotify_wf {a b : Reg} {s : State} (h : s.mem.wf = true) : Res.Canonical (execNotify a b s) := by
  unfold execNotify
  split
  · dsimp only
    split <;> simp [h]
  · dsimp only
    split
    · simp [h]
    · apply Go.bind_wf
      · simp [h]
      · intro z u hu
        simp [hu]

@[simp] theorem execCancel_wf {a : Reg} {s : State} (h : s.mem.wf = true) : Res.Canonical (execCancel a s) := by
  unfold execCancel
  split
  all_goals
    dsimp only
    split <;> simp [h]

@[simp] theorem execWaitEnds_wf {p : Nat} {s : State} (h : s.mem.wf = true) : Res.Canonical (execWaitEnds p s) := by
  unfold execWaitEnds
  dsimp only
  split
  · split <;> exact h
  · exact h

/-! ### System instructions -/

@[simp] theorem trapAfter_wf {cause : Nat} {n : BitVec 15} {s : State} (h : s.mem.wf = true) :
    Res.Canonical (trapAfter cause n s) := by
  unfold trapAfter
  simp [h]

@[simp] theorem execTrap_wf {n : BitVec 15} {s : State} (h : s.mem.wf = true) : Res.Canonical (execTrap n s) := by
  unfold execTrap
  simp [h]

@[simp] theorem execBrk_wf {n : BitVec 15} {s : State} (h : s.mem.wf = true) : Res.Canonical (execBrk n s) := by
  unfold execBrk
  simp [h]

@[simp] theorem execEret_wf {s : State} (h : s.mem.wf = true) : Res.Canonical (execEret s) := by
  unfold execEret
  split <;> simp [h]

@[simp] theorem execMfs_wf {d : Reg} {r : BitVec 12} {s : State} (h : s.mem.wf = true) :
    Res.Canonical (execMfs d r s) := by
  unfold execMfs
  split <;> simp [h]

@[simp] theorem execMts_wf {a : Reg} {r : BitVec 12} {s : State} (h : s.mem.wf = true) :
    Res.Canonical (execMts a r s) := by
  unfold execMts
  split <;> simp [h]

@[simp] theorem execWfe_wf {s : State} (h : s.mem.wf = true) : Res.Canonical (execWfe s) := by
  unfold execWfe
  dsimp only
  split
  · simp [h]
  · exact h

@[simp] theorem execIllegalWord_wf {w : Word32} {s : State} (h : s.mem.wf = true) :
    Res.Canonical (execIllegalWord w s) := by
  unfold execIllegalWord
  simp [h]

/-! ### The register windows of the functions -/

theorem vfOp_wf {vf : Nat} {f : Nat → State → State} {s : State} (h : s.mem.wf = true)
    (hf : ∀ n t, t.mem.wf = true → (f n t).mem.wf = true) :
    Res.Canonical (vfOp vf f s) := by
  unfold vfOp
  split
  · simp [h, hf]
  · exact h

theorem partOp_wf {vf : Nat} {f : Nat → State → State} {s : State} (h : s.mem.wf = true)
    (hf : ∀ n t, t.mem.wf = true → (f n t).mem.wf = true) :
    Res.Canonical (partOp vf f s) := by
  unfold partOp
  split
  · exact h
  · split
    · simp [h, hf]
    · exact h

@[simp] theorem State.twResult_mem (s : State) (vf part slot result : Nat) (busy : Bool) :
    (s.twResult vf part slot result busy).mem = s.mem := rfl

@[simp] theorem State.twBusy_mem (s : State) (vf result : Nat) : (s.twBusy vf result).mem = s.mem := rfl

theorem twOp_wf {vf : Nat} {f : Nat → State → State} {s : State} (h : s.mem.wf = true)
    (hf : ∀ n t, t.mem.wf = true → (f n t).mem.wf = true) :
    Res.Canonical (twOp vf f s) := by
  unfold twOp
  apply vfOp_wf
  · exact h
  · intro z u hu
    split
    · exact hu
    · simp [hf, hu]

@[simp] theorem State.pokeSlot_wf {s : State} {part slot k : Nat} {l : List Byte} (h : s.mem.wf = true) :
    (s.pokeSlot part slot k l).mem.wf = true := by
  unfold State.pokeSlot
  split
  · simp [h]
  · exact h

@[simp] theorem execTensorCreate_wf {vf slot : Nat} {s : State} (h : s.mem.wf = true) :
    Res.Canonical (execTensorCreate vf slot s) := by
  unfold execTensorCreate
  apply twOp_wf
  · exact h
  · intro z u hu
    dsimp only
    split
    · exact hu
    · split
      · exact hu
      · split
        · exact hu
        · split
          · exact hu
          · simp [hu]

@[simp] theorem execTensorDestroy_wf {vf slot : Nat} {s : State} (h : s.mem.wf = true) :
    Res.Canonical (execTensorDestroy vf slot s) := by
  unfold execTensorDestroy
  apply twOp_wf
  · exact h
  · intro z u hu
    dsimp only
    split
    · exact hu
    · simp [hu]

@[simp] theorem State.dropPanels_mem (s : State) (part slot first count : Nat) :
    (s.dropPanels part slot first count).mem = s.mem := rfl

@[simp] theorem State.settleInvals_mem (s : State) : s.settleInvals.mem = s.mem := by
  unfold State.settleInvals
  refine (foldl_mem (fun u z => ?_) _ _).trans ?_
  · split
    · dsimp only
      split <;> rfl
    · rfl
  · rfl

@[simp] theorem State.settlePanels_mem (s : State) : s.settlePanels.mem = s.mem := by
  unfold State.settlePanels
  refine (foldl_mem (fun u z => ?_) _ _).trans ?_
  · dsimp only
    split
    · rfl
    · simp
  · rfl

@[simp] theorem execInval_wf {vf slot : Nat} {s : State} (h : s.mem.wf = true) :
    Res.Canonical (execInval vf slot s) := by
  unfold execInval
  apply twOp_wf
  · exact h
  · simp

@[simp] theorem execTensorTableWrite_wf {vf off : Nat} {v : BitVec 64} {s : State} (h : s.mem.wf = true) :
    Res.Canonical (execTensorTableWrite vf off v s) := by
  unfold execTensorTableWrite
  apply partOp_wf
  · exact h
  · intro z u hu
    split
    · exact hu
    · split
      · dsimp only
        split <;> exact hu
      · split
        all_goals
          dsimp only
          split <;> exact hu

@[simp] theorem execVpadd_wf {vf : Nat} {v : BitVec 64} {s : State} (h : s.mem.wf = true) :
    Res.Canonical (execVpadd vf v s) := by
  unfold execVpadd
  apply partOp_wf
  · exact h
  · intro z u hu
    dsimp only
    split
    · exact hu
    · simp [hu]

@[simp] theorem execVptake_wf {vf : Nat} {s : State} (h : s.mem.wf = true) : Res.Canonical (execVptake vf s) := by
  unfold execVptake
  apply partOp_wf
  · exact h
  · intro z u hu
    split <;> exact hu

@[simp] theorem State.lateAnswer_mem (s : State) (part : Nat) : (s.lateAnswer part).mem = s.mem := rfl

@[simp] theorem State.badAnswer_mem (s : State) (part : Nat) : (s.badAnswer part).mem = s.mem := rfl

theorem takeRequest_wf {gen : BitVec 8} {rid : BitVec 32} {part : Nat} {f : PageReq → State → State} {s : State}
    (h : s.mem.wf = true) (hf : ∀ r t, t.mem.wf = true → (f r t).mem.wf = true) :
    (takeRequest gen rid part f s).mem.wf = true := by
  unfold takeRequest
  dsimp only
  split
  · exact h
  · simp [h, hf]

@[simp] theorem State.rewalk_wf {s : State} {part : Nat} {r : PageReq} {z : AgentId × Bool} (h : s.mem.wf = true) :
    (s.rewalk part r z).mem.wf = true := by
  unfold State.rewalk
  split
  · dsimp only
    split <;> simp [h]
  · simp [h]

@[simp] theorem execPransGrant_wf {vf : Nat} {gen : BitVec 8} {rid : BitVec 32} {s : State} (h : s.mem.wf = true) :
    Res.Canonical (execPransGrant vf gen rid s) := by
  unfold execPransGrant
  apply partOp_wf
  · exact h
  · intro z u hu
    apply takeRequest_wf
    · exact hu
    · intro z1 u1 hu1
      refine foldl_wf (fun u2 z2 hu2 => ?_) _ ?_
      · simp [hu2]
      · exact hu1

@[simp] theorem execPransFail_wf {vf : Nat} {gen : BitVec 8} {rid : BitVec 32} {s : State} (h : s.mem.wf = true) :
    Res.Canonical (execPransFail vf gen rid s) := by
  unfold execPransFail
  apply partOp_wf
  · exact h
  · intro z u hu
    apply takeRequest_wf
    · exact hu
    · simp

@[simp] theorem execPransFailiso_wf {vf : Nat} {gen : BitVec 8} {granule : BitVec 32} {s : State}
    (h : s.mem.wf = true) :
    Res.Canonical (execPransFailiso vf gen granule s) := by
  unfold execPransFailiso
  apply partOp_wf
  · exact h
  · intro z u hu
    dsimp only
    split
    · exact hu
    · split
      · exact hu
      · simp [hu]

@[simp] theorem State.unholdEvent_wf {s : State} {a : AgentId} (h : s.mem.wf = true) :
    (s.unholdEvent a).mem.wf = true := by
  unfold State.unholdEvent
  split <;> simp [h]

@[simp] theorem State.ringOpened_wf {s : State} {vf part : Nat} (h : s.mem.wf = true) :
    (s.ringOpened vf part).mem.wf = true := by
  unfold State.ringOpened
  dsimp only
  split
  · refine foldl_wf (fun u z hu => ?_) _ ?_
    · simp [hu]
    · simp [h]
  · simp [h]

@[simp] theorem execEqconsWrite_wf {vf : Nat} {v : BitVec 64} {s : State} (h : s.mem.wf = true) :
    Res.Canonical (execEqconsWrite vf v s) := by
  unfold execEqconsWrite
  apply vfOp_wf
  · exact h
  · intro z u hu
    dsimp only
    split
    · exact hu
    · simp [hu]

@[simp] theorem State.pushInjected_mem (s : State) : s.pushInjected.mem = s.mem := by
  unfold State.pushInjected
  refine (foldl_mem (fun u z => ?_) _ _).trans ?_
  · split
    · split
      · simp
      · rfl
  · rfl

@[simp] theorem execHopinj_wf {v : BitVec 64} {s : State} (h : s.mem.wf = true) : Res.Canonical (execHopinj v s) := by
  unfold execHopinj
  dsimp only
  split
  · exact h
  · simp [h]

@[simp] theorem writePrans_wf {vf : Nat} {v : BitVec 64} {s : State} (h : s.mem.wf = true) :
    Res.Canonical (writePrans vf v s) := by
  unfold writePrans
  dsimp only
  split
  · apply partOp_wf
    · exact h
    · simp
  · split
    · simp [h]
    · simp [h]
    · simp [h]
    · apply partOp_wf
      · exact h
      · simp

@[simp] theorem writeTwcmd_wf {vf : Nat} {v : BitVec 64} {s : State} (h : s.mem.wf = true) :
    Res.Canonical (writeTwcmd vf v s) := by
  unfold writeTwcmd
  dsimp only
  split
  · apply twOp_wf
    · exact h
    · simp
  · split
    · simp [h]
    · split <;> simp [h]

@[simp] theorem writeQcmd_wf {vf : Nat} {v : BitVec 64} {s : State} (h : s.mem.wf = true) :
    Res.Canonical (writeQcmd vf v s) := by
  unfold writeQcmd
  dsimp only
  split
  · apply vfOp_wf
    · exact h
    · simp
  · split
    · simp [h]
    · split <;> simp [h]

@[simp] theorem writeRstcmd_wf {vf : Nat} {v : BitVec 64} {s : State} (h : s.mem.wf = true) :
    Res.Canonical (writeRstcmd vf v s) := by
  unfold writeRstcmd
  split <;> simp [h]

@[simp] theorem writeVf_wf {vf off : Nat} {v : BitVec 64} {s : State} (h : s.mem.wf = true) :
    Res.Canonical (writeVf vf off v s) := by
  unfold writeVf
  split
  · exact h
  · split
    · split
      · simp [h]
      · exact h
    · split
      · apply vfOp_wf
        · exact h
        · simp
      · split
        · apply vfOp_wf
          · exact h
          · simp
        · simp [h]
        · apply vfOp_wf
          · exact h
          · simp
        · simp [h]
        · simp [h]
        · simp [h]
        · simp [h]
        · apply vfOp_wf
          · exact h
          · simp
        · simp [h]
        · simp [h]
        · split
          · apply vfOp_wf
            · exact h
            · simp
          · exact h
        · simp [h]
        · simp [h]
        · split
          · apply vfOp_wf
            · exact h
            · intro z u hu
              simp [hu]
          · exact h

@[simp] theorem writePcmd_wf {v : BitVec 64} {s : State} (h : s.mem.wf = true) : Res.Canonical (writePcmd v s) := by
  unfold writePcmd
  split
  · exact h
  · split
    · exact h
    · split
      · exact h
      · split
        · simp [h]
        · simp [h]
        · simp [h]
        · simp [h]
        · simp [h]
        · simp [h]
        · dsimp only
          split
          · simp [h]
          · split
            · simp [h]
            · split
              · simp [h]
              · exact h
        · exact h

@[simp] theorem writePf_wf {off : Nat} {v : BitVec 64} {s : State} (h : s.mem.wf = true) :
    Res.Canonical (writePf off v s) := by
  unfold writePf
  split
  · split
    · exact h
    · dsimp only
      split <;> exact h
    · simp [h]
    · dsimp only
      split <;> exact h
    · exact h
    · dsimp only
      split <;> exact h
    · simp [h]
    · simp [h]
    · dsimp only
      split
      · exact h
      · simp [h]
    · split
      · simp [h]
      · split
        all_goals
          dsimp only
          split <;> exact h
  · split
    · exact h
    · simp [h]
    · simp [h]
    · simp [h]
    · exact h
    · simp [h]
    · simp [h]
    · simp [h]
    · dsimp only
      split
      · exact h
      · simp [h]
    · split
      · exact h
      · split
        all_goals
          dsimp only
          split <;> exact h

@[simp] theorem execRegisterWrite_wf {win : RegWindow} {off : Nat} {v : BitVec 64} {s : State} (h : s.mem.wf = true) :
    Res.Canonical (execRegisterWrite win off v s) := by
  unfold execRegisterWrite
  split <;> simp [h]

/-! ### The passing of time -/

@[simp] theorem State.countPorts_mem (s : State) (n p : Nat) : (s.countPorts n p).mem = s.mem := by
  unfold State.countPorts
  refine foldl_mem (fun u k => ?_) _ _
  split
  · rfl
  · exact State.modPort_mem ..

@[simp] theorem State.meterPages_mem (s : State) (n : Nat) : (s.meterPages n).mem = s.mem := by
  unfold State.meterPages
  refine (foldl_mem (fun u z => ?_) _ _).trans ?_
  · split
    · rfl
    · simp
  · rfl

@[simp] theorem State.countTime_mem (s : State) (n us : Nat) : (s.countTime n us).mem = s.mem := by
  unfold State.countTime
  simp

@[simp] theorem State.carryOn_wf {s : State} (h : s.mem.wf = true) : s.carryOn.mem.wf = true := by
  unfold State.carryOn
  rw [State.pushInjected_mem]
  apply State.settleParts_wf
  apply State.settleRungs_wf
  apply State.settleStart_wf
  rw [State.settlePanels_mem, State.settleInvals_mem]
  refine foldl_wf (fun u z hu => ?_) _ ?_
  · simp [hu]
  · exact h

@[simp] theorem passTime_wf {cc : Nat} {s : State} (h : s.mem.wf = true) : (passTime cc s).mem.wf = true := by
  unfold passTime
  simp [h]

@[simp] theorem execFabstall_wf {t : Nat} {s : State} (h : s.mem.wf = true) : Res.Canonical (execFabstall t s) := by
  unfold execFabstall
  split
  · exact h
  · split
    · exact h
    · simp [h]

@[simp] theorem State.pageLinkErr_mem (s : State) (p : Nat) : (s.pageLinkErr p).mem = s.mem := by
  unfold State.pageLinkErr
  split
  · rfl
  · simp

@[simp] theorem strike_wf {u : Upset} {s : State} (h : s.mem.wf = true) : (strike u s).mem.wf = true := by
  cases u with
  | memory block a =>
    have hm : (s.mem.setBlock (.hbm (block * 64)) (s.mem.block (.hbm (block * 64))).1 descPoison).wf = true :=
      Memory.wf_setBlock _ _ _ h
    simpa [strike] using hm
  | tile p site tile blk => simp [strike, h]
  | token p e hop bits => simp [strike, h]
  | control p e b => simp [strike, h]
  | l1d p line view word => simp [strike, h]
  | code p line => simp [strike, h]
  | rdc b part block a => simp [strike, h]
  | header k => simp [strike, h]
  | core p => simp [strike, h]
  | elem p e => simp [strike, h]
  | warmStep =>
    unfold strike
    dsimp only
    split
    · simp [h]
    · exact h
  | coldStep step => simp [strike, h]
  | wear pages channels edges bays => simp [strike, h]

/-! ### The dispatch -/

@[simp] theorem exec_wf {i : Instr} {s : State} (h : s.mem.wf = true) : Res.Canonical (exec i s) := by
  unfold exec
  split <;> simp [h]

/-! ### What each kind of turn does -/

@[simp] theorem evictLine_wf {p line view : Nat} {s : State} (h : s.mem.wf = true) :
    (evictLine p line view s).mem.wf = true := by
  unfold evictLine
  dsimp only
  split
  · exact h
  · split
    · exact h
    · split
      · exact h
      · split
        · exact h
        · split
          · rename_i x x1 t e
            have ht : t.mem.wf = true := Go.wf_ok e (wbLine_wf h)
            exact ht
          · rename_i x r e
            have hr : Res.Canonical r := Go.wf_stop e (wbLine_wf h)
            exact h

@[simp] theorem dropCodeLine_mem (p line : Nat) (s : State) : (dropCodeLine p line s).mem = s.mem := rfl

@[simp] theorem forgetTlb_mem (b part view slot panel : Nat) (s : State) :
    (forgetTlb b part view slot panel s).mem = s.mem := rfl

@[simp] theorem forgetRdc_mem (b part block : Nat) (s : State) : (forgetRdc b part block s).mem = s.mem := rfl

@[simp] theorem execWord_wf {w : Word32} {s : State} (h : s.mem.wf = true) : Res.Canonical (execWord w s) := by
  unfold execWord
  split <;> simp [h]

@[simp] theorem fetchTurn_wf {s : State} (h : s.mem.wf = true) : Res.Canonical (fetchTurn s) := by
  have hf : Fetched.Canonical (fetch s) := fetch_wf h
  unfold fetchTurn
  split
  · rename_i e
    rwa [e] at hf
  · rename_i e
    rw [e] at hf
    exact execWord_wf hf

@[simp] theorem coreTurn_wf {p : Nat} {s : State} (h : s.mem.wf = true) : Res.Canonical (coreTurn p s) := by
  unfold coreTurn
  dsimp only
  split
  · exact h
  · split
    · simp [h]
    · split
      · simp [h]
      · split
        · simp [h]
        · split
          · simp [h]
          · split <;> simp [h]

/-! ### One step of the module -/

@[simp] theorem takeTurn_wf {t : Turn} {s : State} (h : s.mem.wf = true) : Res.Canonical (takeTurn t s) := by
  unfold takeTurn
  split
  · simp [h]
  · simp [h]
  · simp [h]
  · simp [h]
  · exact h
  · exact h
  · exact h
  · simp [h]
  · simp [h]
  · exact h
  · split
    · simp
    · simp [h]

@[simp] theorem step_wf {s : State} (h : s.mem.wf = true) : Res.Canonical (step s) := by
  unfold step
  split
  · simp [h]
  · split <;> simp [h]

end Sys2Proof.Machine

namespace Sys2Proof

open Sys2Proof.Machine Sys2Proof.Claims

/-- Settles O59: no block of memory is written at reset. -/
theorem memoryCanonicalAtReset : Obligations.MemoryCanonicalAtReset := by
  unfold Obligations.MemoryCanonicalAtReset
  rfl

/-- Settles O60: each function that a step calls keeps memory canonical, and so does the step. -/
theorem memoryCanonicalKept : Obligations.MemoryCanonicalKept := by
  intro s t h e
  exact Res.wf_next e (step_wf h)

end Sys2Proof
end

section
/-! SUPPORT. KERF and REGION (R159, R172); O31. -/

namespace Sys2Proof.Machine

open Sys2Proof.Claims

/-! ### The steps of a kerf -/

theorem coreOnly_setCore_setCore (s : State) (c d : Core) : CoreOnly s ((s.setCore c).setCore d) := by
  refine ⟨rfl, fun p h => ?_, ?_, fun _ => rfl⟩
  · have hc : p ≠ (s.setCore c).cur := h
    rw [State.page_setCore_other hc, State.page_setCore_other h]
  · have h := (s.setCore c).page_setCore d
    rw [State.setCore_cur, State.page_setCore] at h
    rw [h, State.core_setCore]

/-- No line has a dirty byte, and the writes of the core are complete: a release at a scope has nothing to do. -/
theorem release_clean {sc : Nat} {s : State} (hl : ∀ l ∈ s.core.l1d, l.dirty = 0) (hc : s.completeAtScope s.me sc = true) :
    release sc s = .ok () s := by
  have hn : (s.core.l1d.reverse.filter fun l => true && decide (l.dirty ≠ 0)) = [] := by
    simpa [List.filter_eq_nil_iff] using hl
  simp only [release, releaseLines, hn, wbLines, hc, if_true]

theorem kerfSteps_atKerf {s : State} (h : Claims.AtKerf s) : kerfSteps s = .ok () (s.setCore { s.core with l1d := [] }) := by
  obtain ⟨hc, hp, hl⟩ := h
  simp [kerfSteps, hc, hp, release_clean hl hc]

theorem kerfSteps_writes {s : State} (h : s.completeAtScope s.me 2 = false) :
    kerfSteps s = .stop (waitFor (.writes 2) s.core.stage s) := by
  simp [kerfSteps, h]

theorem State.trussOf_setCore (s : State) (c : Core) (p : Nat) : (s.setCore c).trussOf p = s.trussOf p := by
  have hp : ((s.setCore c).page p).status = (s.page p).status ∧ ((s.setCore c).page p).truss = (s.page p).truss := by
    by_cases h : p = s.cur
    · rw [h, State.page_setCore]
      exact ⟨rfl, rfl⟩
    · rw [State.page_setCore_other h]
      exact ⟨rfl, rfl⟩
  simp only [State.trussOf, hp, State.setCore_trusses]

theorem State.curStopping_setCore (s : State) (c : Core) : (s.setCore c).curStopping = s.curStopping := by
  simp only [State.curStopping, State.setCore_cur, State.trussOf_setCore]

theorem State.curRequest_of_truss {s : State} {x : Truss} (h : s.trussOf s.cur = some x) : s.curRequest = x.request := by
  simp [State.curRequest, h]

theorem State.curStopping_of_truss {s : State} {x : Truss} (h : s.trussOf s.cur = some x) :
    s.curStopping = decide (x.state = .stopping) := by
  simp [State.curStopping, h]

/-- A core that is set to wait, with what a program can name as it was. -/
theorem waitsFor_of_waitFor {i : Instr} {w : Wait} {n : Nat} {s : State} (h : exec i s = waitFor w n s) : WaitsFor i w s :=
  ⟨_, h, coreOnly_setCore _ _, by rw [State.core_setCore], by
    rw [State.core_setCore]
    exact ⟨fun _ => ⟨rfl, rfl⟩, rfl, rfl, rfl, rfl, rfl, rfl, rfl, rfl, rfl, rfl⟩⟩

/-! ### The record of a region -/

theorem Page.putShadow_frame (pg : Page) (e : Nat) :
    (pg.putShadow e).core = pg.core ∧ (pg.putShadow e).region = pg.region := by
  unfold Page.putShadow
  dsimp only
  split <;> exact ⟨rfl, rfl⟩

theorem Page.putShadows_frame (l : List Nat) (pg : Page) :
    (l.foldl Page.putShadow pg).core = pg.core ∧ (l.foldl Page.putShadow pg).region = pg.region := by
  induction l generalizing pg with
  | nil => exact ⟨rfl, rfl⟩
  | cons e t ih =>
    obtain ⟨hc, hr⟩ := ih (pg.putShadow e)
    obtain ⟨hc', hr'⟩ := pg.putShadow_frame e
    exact ⟨hc.trans hc', hr.trans hr'⟩

/-- To free the inbound tokens of a page changes links only. -/
theorem State.freeLinks_frame (s : State) (t ix : Nat) (img : Image) :
    s.freeLinks t ix img = { s with links := (s.freeLinks t ix img).links } := by
  unfold State.freeLinks
  generalize img.links.filter _ = l
  induction l generalizing s with
  | nil => rfl
  | cons e l ih =>
    rw [List.foldl_cons]
    split
    · exact (ih _).trans rfl
    · exact ih s

theorem State.freeLinks_page (s : State) (t ix : Nat) (img : Image) (p : Nat) :
    (s.freeLinks t ix img).page p = s.page p := by
  rw [State.freeLinks_frame]
  rfl

theorem State.freeLinks_cur (s : State) (t ix : Nat) (img : Image) : (s.freeLinks t ix img).cur = s.cur := by
  rw [State.freeLinks_frame]

theorem State.recordRegion_cur (s : State) (img : Image) (n : Nat) (code : Nat × Nat) (mask : Word) :
    (s.recordRegion img n code mask).cur = s.cur := State.freeLinks_cur ..

theorem State.recordRegion_core (s : State) (img : Image) (n : Nat) (code : Nat × Nat) (mask : Word) :
    (s.recordRegion img n code mask).core = { s.core with regno := BitVec.ofNat 64 n, regionReads := [] } := by
  rw [State.core, State.recordRegion_cur]
  unfold State.recordRegion
  dsimp only
  rw [State.freeLinks_page, State.page_setPage, (Page.putShadows_frame _ _).1]
  rfl

/-- What REGION keeps of the page: its number, the code offsets, the mask and the core. -/
theorem State.recordRegion_region (s : State) (img : Image) (n : Nat) (code : Nat × Nat) (mask : Word) :
    ∃ r, ((s.recordRegion img n code mask).page s.cur).region = some r ∧ r.regno = BitVec.ofNat 64 n ∧ r.code = code
      ∧ r.keep = mask.truncate 47
      ∧ r.core = { s.core with regno := BitVec.ofNat 64 n, regionReads := [] }.recorded := by
  unfold State.recordRegion
  dsimp only
  rw [State.freeLinks_page, State.page_setPage, (Page.putShadows_frame _ _).2]
  exact ⟨_, rfl, rfl, rfl, rfl, rfl⟩

theorem State.reissue_none {s : State} (t : Truss) (h : s.curPage.restart = false) : s.reissue t = s := by
  unfold State.reissue
  rw [h]

theorem State.reissueWaits_none {s : State} (h : s.curPage.restart = false) : s.reissueWaits = false := by
  simp [State.reissueWaits, h]

theorem illegal_of_trapWord {i : Instr} {w : Word32} {s : State} (he : encode i = some w) (h : exec i s = trapWord i s) :
    Illegal i s :=
  ⟨w, he, by rw [TrapsAs, h, trapWord, he]; rfl⟩

end Sys2Proof.Machine

namespace Sys2Proof

open Sys2Proof.Machine Sys2Proof.Claims

theorem kerfResults : Claims.KerfResults := by
  intro s x hx
  have hq : s.curRequest = x.request := State.curRequest_of_truss hx
  have hs : s.curStopping = decide (x.state = .stopping) := State.curStopping_of_truss hx
  have he : exec .kerf s = execKerf s := rfl
  refine ⟨fun hr hn hst => passes_of_complete hst ?_, fun hr h1 hn ha => ?_, fun hr hn ha => ?_, fun hc hr h1 => ?_⟩
  · have hgo : s.core.stage = 1 ∨ s.curRequest = false := by rw [hq]; exact hr.symm
    simp [he, execKerf, hgo, hs, hn]
  · have hk : exec .kerf s = waitFor .kerf 0 (s.setCore { s.core with l1d := [] }) := by
      simp [he, execKerf, hq, hr, h1, State.curStopping_setCore, hs, hn, kerfSteps_atKerf ha, Go.bind]
    refine ⟨_, hk, coreOnly_setCore_setCore _ _ _, ?_⟩
    rw [State.core_setCore, State.core_setCore]
    exact ⟨⟨fun _ => ⟨rfl, rfl⟩, rfl, rfl, rfl, rfl, rfl, rfl, rfl, rfl, rfl, rfl⟩, rfl, rfl⟩
  · have hk : exec .kerf s = stopHere (s.setCore { s.core with l1d := [] }) := by
      simp [he, execKerf, State.curStopping_setCore, hs, hn, kerfSteps_atKerf ha, Go.bind]
    refine ⟨_, hk, coreOnly_setCore_setCore _ _ _, ?_⟩
    rw [State.core_setCore, State.core_setCore]
    exact ⟨⟨fun _ => ⟨rfl, rfl⟩, rfl, rfl, rfl, rfl, rfl, rfl, rfl, rfl, rfl, rfl⟩, rfl, rfl⟩
  · refine waitsFor_of_waitFor (n := s.core.stage) ?_
    simp [he, execKerf, hq, hr, h1, kerfSteps_writes hc, Go.bind]

theorem regionRecords : Claims.RegionRecords := by
  intro s a x l z hx hl
  have he : exec (.region a) s = execRegion a s := rfl
  have hw : encode (.region a) = some (word 0xD2000000 0 a.val 0 0) := rfl
  refine ⟨fun hn => illegal_of_trapWord hw ?_, fun hz => ⟨fun hm => illegal_of_trapWord hw ?_, fun hm hd => ?_,
    fun hm hd hs hr hst => ?_⟩⟩
  · rw [he, execRegion, hn]
  · have hd : (s.core.rd a).toNat / 2 ^ 47 ≠ 0 := by omega
    simp only [he, execRegion, hz, hx, hl, if_pos hd]
  · have hk : (s.core.rd a).toNat / 2 ^ 47 = 0 := by omega
    simp only [TrapsAs, he, execRegion, hz, hx, hl, hk, hd, ne_eq, not_true_eq_false, if_false, if_true]
    rfl
  · have hk : (s.core.rd a).toNat / 2 ^ 47 = 0 := by omega
    have hcs : s.curStopping = false := by rw [State.curStopping_of_truss hx, hs]; rfl
    have hrun : exec (.region a) s = .next (complete (s.recordRegion l.img z.2.1 z.2.2 (s.core.rd a)).core
        (s.recordRegion l.img z.2.1 z.2.2 (s.core.rd a))) := by
      simp only [he, execRegion, hz, hx, hl, hk, hd, hcs, State.reissueWaits_none hr, State.reissue_none _ hr]
      rfl
    generalize hu : s.recordRegion l.img z.2.1 z.2.2 (s.core.rd a) = u at hrun
    have hcore : u.core = { s.core with regno := BitVec.ofNat 64 z.2.1, regionReads := [] } := by
      rw [← hu, State.recordRegion_core]
    obtain ⟨r, h1, h2, h3, h4, h5⟩ := s.recordRegion_region l.img z.2.1 z.2.2 (s.core.rd a)
    rw [hu] at h1
    have hcur : u.cur = s.cur := by rw [← hu, State.recordRegion_cur]
    have hq : u.core.sstep = false ∨ u.core.inh = true := by rw [hcore]; exact hst
    rw [complete_eq hq] at hrun
    refine ⟨_, r, hrun, ?_, ?_, ?_, ?_, h2, h3, h4, ?_⟩
    · rw [State.setCore_mem, ← hu, State.recordRegion_mem]
    · rw [State.core_setCore]
      exact pcPast_advance (by rw [hcore]) (by rw [hcore])
    · rw [State.core_setCore, Core.advance_frame, hcore]
      rfl
    · rw [← hcur, State.page_setCore, hcur]
      exact h1
    · rw [h5]
      exact ⟨rfl, rfl, rfl, rfl⟩

/-- Settles O31: KERF by the steps of a kerf on a clean L1D, REGION by what its record keeps of the core. -/
theorem checkpointResults : Obligations.CheckpointResults := ⟨kerfResults, regionRecords⟩

end Sys2Proof
end

section
/-! SUPPORT. What a failure changes of the pages, what ACQ changes of the caches, and the tile instructions (R18, R142);
O20. -/

namespace Sys2Proof.Machine

open Sys2Proof.Claims

/-! ### Pages that differ in their cores only -/

/-- Of each page, only the core differs. -/
structure CoresDiffer (s t : State) : Prop where
  page : ∀ p, t.page p = { s.page p with core := (t.page p).core }

theorem CoresDiffer.refl (s : State) : CoresDiffer s s := ⟨fun _ => rfl⟩

theorem CoresDiffer.trans {s t u : State} (h : CoresDiffer s t) (k : CoresDiffer t u) : CoresDiffer s u := by
  refine ⟨fun p => ?_⟩
  have hk := k.page p
  rw [h.page p] at hk
  exact hk

theorem coresDiffer_of_pages {s t : State} (h : t.pages = s.pages) : CoresDiffer s t :=
  ⟨fun p => by simp [State.page, h]⟩

theorem CoresDiffer.tiles {s t : State} (h : CoresDiffer s t) (p : Nat) : (t.page p).tiles = (s.page p).tiles := by
  rw [h.page p]

theorem coresDiffer_modCore (s : State) (p : Nat) (f : Core → Core) : CoresDiffer s (s.modCore p f) := by
  refine ⟨fun q => ?_⟩
  by_cases h : q = p
  · rw [h, State.modCore, State.page_setPage]
  · rw [State.modCore, State.page_setPage_other h]

theorem coresDiffer_setCore (s : State) (c : Core) : CoresDiffer s (s.setCore c) := coresDiffer_modCore s s.cur fun _ => c

theorem coresDiffer_foldl {α : Type} {f : State → α → State} (hf : ∀ s x, CoresDiffer s (f s x)) (l : List α) (s : State) :
    CoresDiffer s (l.foldl f s) := by
  induction l generalizing s with
  | nil => exact .refl s
  | cons x t ih => exact (hf s x).trans (ih _)

theorem coresDiffer_stopTruss (s : State) (t : Nat) : CoresDiffer s (s.stopTruss t) := by
  unfold State.stopTruss
  split
  · exact .refl s
  · split
    · exact .refl s
    · exact (coresDiffer_foldl (fun u p => coresDiffer_modCore u p _) _ s).trans (coresDiffer_of_pages rfl)

theorem coresDiffer_markFailed (s : State) (t : Nat) : CoresDiffer s (s.markFailed t) := coresDiffer_of_pages rfl

theorem coresDiffer_loseRival (s : State) (f t code : Nat) (d : Word) : CoresDiffer s (s.loseRival f t code d) := by
  unfold State.loseRival
  split
  · exact .refl s
  · refine .trans (coresDiffer_of_pages ?_) (coresDiffer_foldl (fun u t => ?_) _ _)
    · rfl
    · exact (coresDiffer_stopTruss u t).trans (coresDiffer_markFailed ..)

theorem coresDiffer_failLaunch (s : State) (l code : Nat) (d : Word) : CoresDiffer s (s.failLaunch l code d) := by
  unfold State.failLaunch
  split
  · exact .refl s
  · split
    · exact .refl s
    · exact coresDiffer_of_pages rfl

/-- A failure of a truss stops cores; nothing else of a page changes. -/
theorem coresDiffer_failTruss (s : State) (t code elem pageix : Nat) : CoresDiffer s (s.failTruss t code elem pageix) := by
  unfold State.failTruss
  split
  · exact .refl s
  · dsimp only
    split
    · exact coresDiffer_loseRival ..
    · exact ((coresDiffer_failLaunch ..).trans (coresDiffer_markFailed ..)).trans
        (coresDiffer_foldl coresDiffer_stopTruss _ _)

theorem coresDiffer_takeTrap (cause : Nat) (tpc tval : Word) (s : State) : CoresDiffer s (takeTrap cause tpc tval s) := by
  unfold takeTrap
  dsimp only
  split
  · exact (coresDiffer_setCore s _).trans (coresDiffer_failTruss ..)
  · exact coresDiffer_setCore s _

theorem coresDiffer_complete (c : Core) (s : State) : CoresDiffer s (complete c s) := by
  unfold complete stepTrap
  split
  · exact (coresDiffer_setCore s _).trans (coresDiffer_takeTrap ..)
  · exact coresDiffer_setCore s _

/-! ### ACQ -/

/-- The reads of a requester may be marked as too old; nothing else of it changes. -/
theorem reqGet_map_win {l : List (AgentId × Requester)} {g : AgentId × Requester → AgentId × Requester}
    (hk : ∀ q, (g q).1 = q.1) {P : Requester → Requester → Prop} (hg : ∀ q, P q.2 (g q).2) (h0 : P Requester.reset Requester.reset)
    (a : AgentId) : P (reqGet l a) (reqGet (l.map g) a) := by
  induction l with
  | nil => exact h0
  | cons q t ih =>
    have h1 := hk q
    have h2 := hg q
    obtain ⟨b, r⟩ := q
    rw [List.map_cons]
    generalize hz : g (b, r) = z at h1 h2
    obtain ⟨b', r'⟩ := z
    cases h1
    unfold reqGet
    split
    · exact h2
    · exact ih

theorem State.modReads_readsKept (s : State) (b part : Nat) (at_ : Nat → Bool) :
    ReadsKept s (s.modReads b part at_ fun e => { e with stale := true }) := by
  intro a
  refine reqGet_map_win (P := fun r r' => r' = { r with win := r'.win }
    ∧ r'.win.map (fun e => { e with stale := false }) = r.win.map fun e => { e with stale := false })
    (fun q => ?_) (fun q => ?_) ⟨rfl, rfl⟩ a
  · dsimp only
    split <;> rfl
  · dsimp only
    split
    · refine ⟨rfl, ?_⟩
      rw [List.map_map]
      refine List.map_congr_left fun e _ => ?_
      dsimp only [Function.comp]
      split <;> rfl
    · exact ⟨rfl, rfl⟩

/-- Only translation caches, remote-data caches and the marks of reads change with an invalidation of a bay's cache. -/
theorem State.rdcInval_frame (s : State) (b part : Nat) (f : Nat → Bool) :
    s.rdcInval b part f = { s with bays := (s.rdcInval b part f).bays, reqs := (s.rdcInval b part f).reqs } := rfl

/-- ACQ keeps dirty bytes, and touches the caches only. -/
theorem acquire_spec (sc : Nat) (s : State) :
    CacheFrame s (acquire sc s) ∧ (acquire sc s).core = s.core.invalClean fun _ => true := by
  have hp : (acquire sc s).pages = (s.setCore (s.core.invalClean fun _ => true)).pages := by
    unfold acquire
    dsimp only
    split <;> rfl
  have hpg (p : Nat) : (acquire sc s).page p = (s.setCore (s.core.invalClean fun _ => true)).page p := by
    simp only [State.page, hp]
  have hcur : (acquire sc s).cur = s.cur := by
    unfold acquire
    dsimp only
    split <;> rfl
  refine ⟨⟨?_, ?_, fun p h => ?_, fun a => by rw [acquire_mem]⟩, ?_⟩
  · unfold acquire
    dsimp only
    split <;> rfl
  · unfold acquire
    dsimp only
    split
    · exact fun a => ⟨rfl, rfl⟩
    · exact fun a => State.modReads_readsKept ((s.setCore _).setBay _ _) _ _ _ a
  · rw [hpg, State.page_setCore_other h]
  · rw [State.core, hcur, hpg, State.page_setCore]

/-- After ACQ no clean byte is valid. -/
theorem Core.invalClean_dirty (c : Core) : ∀ l ∈ (c.invalClean fun _ => true).l1d, l.valid = l.dirty := by
  intro l hl
  obtain ⟨k, -, hk⟩ := List.mem_map.1 (List.mem_filter.1 hl).1
  rw [← hk]
  rfl

/-- A change of the current core after a change of the caches. -/
theorem cacheFrame_setCore {s u : State} (h : CacheFrame s u) (c : Core) : CacheFrame s (u.setCore c) := by
  obtain ⟨he, hr, hp, hm⟩ := h
  have hc : u.cur = s.cur := by rw [he]
  refine ⟨?_, hr, fun p hn => ?_, hm⟩
  · rw [he]
    rfl
  · rw [State.page_setCore_other (hc ▸ hn), hp p hn]

/-! ### Tile selectors -/

theorem selects_split {sel : Word} {site tile : Nat} (h : Claims.Selects sel site tile) :
    selHigh sel = 0 ∧ selSite sel = site ∧ selTile sel = tile := by
  obtain ⟨he, hs, ht⟩ := h
  simp only [selHigh, selSite, selTile, bits, he]
  omega

theorem tileCheck_ok {sel : Word} {site tile : Nat} (s : State) (h : Claims.Selects sel site tile) : tileCheck sel s = none := by
  obtain ⟨h0, -, h2⟩ := selects_split h
  have hlt : ¬ 47 ≤ tile := by have := h.2.2; omega
  simp [tileCheck, h0, h2, hlt]

theorem tileCheck_bounds {sel : Word} (s : State) (h : 4096 ≤ sel.toNat) : tileCheck sel s = some (trapHere 5 sel s) := by
  have h0 : selHigh sel ≠ 0 := by simp only [selHigh]; omega
  simp [tileCheck, h0, causeBounds]

theorem tileCheck_owner {sel : Word} (s : State) (h : sel.toNat < 4096) (ht : 47 ≤ sel.toNat % 64) :
    tileCheck sel s = some (trapHere 3 sel s) := by
  have h0 : selHigh sel = 0 := by simp only [selHigh]; omega
  have h1 : 47 ≤ selTile sel := by simp only [selTile, bits]; omega
  simp [tileCheck, h0, h1, causePlateOwner]

/-! ### The state of a tile -/

theorem State.readTable_tiles (s : State) (p e q : Nat) : ((s.readTable p e).page q).tiles = (s.page q).tiles := by
  have hset (u : State) (x : Elem) : ((u.setElem p e x).page q).tiles = (u.page q).tiles := by
    by_cases h : q = p
    · rw [h, State.setElem, State.page_setPage]
      rfl
    · rw [State.setElem, State.page_setPage_other h]
  unfold State.readTable
  dsimp only
  split
  · rfl
  · split
    · rfl
    · split
      · exact hset s _
      · rw [State.failPage, (coresDiffer_failTruss ..).tiles]
        exact hset s _

/-- Where the element has no table to read from the tile, nothing is read. -/
theorem State.readTable_none {s : State} {site tile : Nat} (h : Claims.NoTableDue s site tile)
    (ha : (s.elem s.cur site).atile = tile) : s.readTable s.cur site = s := by
  unfold State.readTable
  dsimp only
  split
  · rfl
  · rename_i hg
    split
    · rfl
    · rename_i hst
      simp only [Bool.or_eq_true, not_or, decide_eq_true_eq, not_not, Bool.not_eq_true', Bool.not_eq_false] at hg
      obtain ⟨⟨-, halg⟩, htab⟩ := hg
      rw [ha] at hst
      rcases h with h | h | h | h
      · exact absurd ha h
      · exact absurd halg h
      · exact absurd (List.isEmpty_iff.1 htab) h
      · exact absurd (not_not.1 hst) h

/-- The state of the tile changes, and that of no other. -/
theorem State.setTileState_tiles (s : State) (p site tile : Nat) (st : BitVec 2) (ht : tile < 64) :
    ((s.setTileState p site tile st).page p).tile site tile = { (s.page p).tile site tile with state := st }
      ∧ ∀ y z, z < 64 → (y, z) ≠ (site, tile) → ((s.setTileState p site tile st).page p).tile y z = (s.page p).tile y z := by
  have hu : ∀ u : State, (u.page p).tiles = (s.page p).tiles →
      ((u.setPage p { (u.page p).setTile site tile { (u.page p).tile site tile with state := st } with
        core := { (u.page p).core with event := true } }).page p).tile site tile
          = { (s.page p).tile site tile with state := st }
      ∧ ∀ y z, z < 64 → (y, z) ≠ (site, tile) →
        ((u.setPage p { (u.page p).setTile site tile { (u.page p).tile site tile with state := st } with
          core := { (u.page p).core with event := true } }).page p).tile y z = (s.page p).tile y z := by
    intro u h
    rw [State.page_setPage]
    simp only [Page.tile, Page.setTile, h, fgetD, fget_fput_same, Option.getD_some, true_and]
    intro y z hz hn
    have hk : y * 64 + z ≠ site * 64 + tile := fun he => hn (by rw [Prod.mk.injEq]; omega)
    rw [fget_fput_other hk]
  unfold State.setTileState
  dsimp only
  split
  · exact hu _ (s.readTable_tiles p site p)
  · exact hu _ rfl

theorem State.setTileState_noTable {s : State} {site tile : Nat} (st : BitVec 2) (h : Claims.NoTableDue s site tile) :
    s.setTileState s.cur site tile st = s.setPage s.cur { (s.page s.cur).setTile site tile
      { (s.page s.cur).tile site tile with state := st } with core := { s.core with event := true } } := by
  unfold State.setTileState
  dsimp only
  split
  · rename_i ha
    rw [State.readTable_none h ha]
    rfl
  · rfl

end Sys2Proof.Machine

namespace Sys2Proof

open Sys2Proof.Machine Sys2Proof.Claims

/-- A change of a tile by the core from a state that R18 names. -/
theorem tileChange_allowed {s : State} {op site tile : Nat} {a : Reg} {new : BitVec 2}
    (hs : Claims.Selects (s.core.rd a) site tile) (hm : coreMove op ((s.page s.cur).tile site tile).state = some new) :
    tileChange op a s = .next (complete (s.setTileState s.cur site tile new).core (s.setTileState s.cur site tile new)) := by
  obtain ⟨-, h1, h2⟩ := selects_split hs
  have hm' : coreMove op (s.curPage.tile site tile).state = some new := hm
  simp only [tileChange, tileCheck_ok s hs, h1, h2, hm']

theorem tileChange_refused {s : State} {op site tile : Nat} {a : Reg}
    (hs : Claims.Selects (s.core.rd a) site tile) (hm : coreMove op ((s.page s.cur).tile site tile).state = none) :
    tileChange op a s = trapHere 3 (s.core.rd a) s := by
  obtain ⟨-, h1, h2⟩ := selects_split hs
  have hm' : coreMove op (s.curPage.tile site tile).state = none := hm
  simp only [tileChange, tileCheck_ok s hs, h1, h2, hm', causePlateOwner]

/-- What a core's change of a tile leaves: the tile in its new state, every other as it was. -/
theorem tiles_of_tileChange (s : State) (site tile : Nat) (new : BitVec 2) (ht : tile < 64) (c : Core) :
    ((complete c (s.setTileState s.cur site tile new)).page s.cur).tile site tile
        = { (s.page s.cur).tile site tile with state := new }
      ∧ ∀ y z, y < 64 → z < 64 → (y, z) ≠ (site, tile) →
        ((complete c (s.setTileState s.cur site tile new)).page s.cur).tile y z = (s.page s.cur).tile y z := by
  obtain ⟨h1, h2⟩ := s.setTileState_tiles s.cur site tile new ht
  have hc := (coresDiffer_complete c (s.setTileState s.cur site tile new)).tiles s.cur
  simp only [Page.tile, hc] at *
  exact ⟨h1, fun y z _ => h2 y z⟩

/-- The whole effect of a change of a tile that no table is to be read from. -/
theorem tileChange_frame {s : State} {site tile : Nat} {new : BitVec 2} (hq : NotStepping s) (hd : Claims.NoTableDue s site tile)
    {t : State} (ht : t = complete (s.setTileState s.cur site tile new).core (s.setTileState s.cur site tile new)) :
    t = { s with pages := t.pages } ∧ (∀ p, p ≠ s.cur → t.page p = s.page p) ∧ (∀ m, t.mem.byte m = s.mem.byte m)
      ∧ t.page s.cur = { s.page s.cur with core := t.core, tiles := (t.page s.cur).tiles }
      ∧ t.core = { s.core.clearStage with pc := t.core.pc, loops := t.core.loops, event := true }
      ∧ PcPast s.core t.core := by
  rw [State.setTileState_noTable new hd] at ht
  generalize hg : ({ (s.page s.cur).setTile site tile { (s.page s.cur).tile site tile with state := new } with
    core := { s.core with event := true } } : Page) = pg at ht
  have hpg : pg.core = { s.core with event := true } ∧ pg = { s.page s.cur with core := pg.core, tiles := pg.tiles } := by
    rw [← hg]
    exact ⟨rfl, rfl⟩
  obtain ⟨hcore, hpage⟩ := hpg
  have hsc : (s.setPage s.cur pg).core = pg.core := by
    rw [State.core, State.setPage_cur, State.page_setPage]
  rw [complete_eq (by rw [hsc, hcore]; exact hq), hsc] at ht
  have hcur : ((s.setPage s.cur pg).setCore pg.core.clearStage.advance).page s.cur
      = { pg with core := pg.core.clearStage.advance } := by
    have h := (s.setPage s.cur pg).page_setCore pg.core.clearStage.advance
    rwa [State.setPage_cur, State.page_setPage] at h
  have htc : t.core = pg.core.clearStage.advance := by rw [ht, State.core_setCore]
  refine ⟨by rw [ht]; rfl, fun p hp => ?_, fun m => by rw [ht]; rfl, ?_, ?_, ?_⟩
  · have hp' : p ≠ (s.setPage s.cur pg).cur := hp
    rw [ht, State.page_setCore_other hp', State.page_setPage_other hp]
  · rw [htc, ht, hcur, hpage]
  · rw [htc, Core.advance_frame, hcore]
    rfl
  · rw [htc]
    exact pcPast_advance (by rw [hcore]) (by rw [hcore])

/-- A core's change of a tile, where R18 allows it from the states of a list and no other. -/
theorem tileChange_results {s : State} {i : Instr} {a : Reg} {op site tile : Nat} {from_ : List (BitVec 2)} {new : BitVec 2}
    (he : exec i s = tileChange op a s) (hm : ∀ st, coreMove op st = if st ∈ from_ then some new else none)
    (hs : Claims.Selects (s.core.rd a) site tile) :
    let now := ((s.page s.cur).tile site tile).state
    (now ∉ from_ → TrapsAs i 3 (s.core.rd a) s)
    ∧ (now ∈ from_ → NotStepping s → ∃ t, exec i s = .next t
      ∧ ((t.page s.cur).tile site tile) = { (s.page s.cur).tile site tile with state := new }
      ∧ ∀ y z, y < 64 → z < 64 → (y, z) ≠ (site, tile) → (t.page s.cur).tile y z = (s.page s.cur).tile y z)
    ∧ (now ∈ from_ → NotStepping s → Claims.NoTableDue s site tile → ∃ t, exec i s = .next t ∧ t = { s with pages := t.pages }
      ∧ (∀ p, p ≠ s.cur → t.page p = s.page p) ∧ (∀ m, t.mem.byte m = s.mem.byte m)
      ∧ t.page s.cur = { s.page s.cur with core := t.core, tiles := (t.page s.cur).tiles }
      ∧ t.core = { s.core.clearStage with pc := t.core.pc, loops := t.core.loops, event := true }
      ∧ PcPast s.core t.core
      ∧ (t.page s.cur).tile site tile = { (s.page s.cur).tile site tile with state := new }
      ∧ ∀ y z, y < 64 → z < 64 → (y, z) ≠ (site, tile) → (t.page s.cur).tile y z = (s.page s.cur).tile y z) := by
  have ht : tile < 64 := by have := hs.2.2; omega
  refine ⟨fun hn => ?_, fun hn hq => ⟨_, he.trans (tileChange_allowed hs (by rw [hm, if_pos hn])), tiles_of_tileChange s _ _ _ ht _⟩,
    fun hn hq hd => ⟨_, he.trans (tileChange_allowed hs (by rw [hm, if_pos hn])), ?_⟩⟩
  · rw [TrapsAs, he, tileChange_refused hs (by rw [hm, if_neg hn])]
    rfl
  · obtain ⟨h1, h2, h3, h4, h5, h6⟩ := tileChange_frame hq hd rfl
    exact ⟨h1, h2, h3, h4, h5, h6, tiles_of_tileChange s _ _ _ ht _⟩

theorem tileRead_results {s : State} {d a : Reg} {st : BitVec 2} {site tile : Nat}
    (hs : Claims.Selects (s.core.rd a) site tile) (hq : NotStepping s) :
    let now := ((s.page s.cur).tile site tile).state
    (∃ t, exec (.tstat d a) s = .next t ∧ CacheFrame s t ∧ PcPast s.core t.core
      ∧ Sets d (now.zeroExtend 64) (s.core.tainted a) s.core t.core ∧ t.core.dz = s.core.dz
      ∧ t.core.disc = s.core.disc ∧ (∀ l ∈ t.core.l1d, l.valid = l.dirty)
      ∧ (t.page s.cur).tiles = (s.page s.cur).tiles)
    ∧ (now = st ∨ s.core.stage = 1 → ∃ t, exec (.twait a st) s = .next t ∧ CacheFrame s t ∧ PcPast s.core t.core
      ∧ t.core = { s.core.clearStage with pc := t.core.pc, loops := t.core.loops, l1d := t.core.l1d }
      ∧ (∀ l ∈ t.core.l1d, l.valid = l.dirty) ∧ (t.page s.cur).tiles = (s.page s.cur).tiles) := by
  obtain ⟨-, h1, h2⟩ := selects_split hs
  obtain ⟨hf, hc⟩ := acquire_spec 2 s
  generalize hu : acquire 2 s = u at hf hc
  have hcu : u.core.sstep = false ∨ u.core.inh = true := by rw [hc]; exact hq
  have htiles (c : Core) : ((u.setCore c).page s.cur).tiles = (s.page s.cur).tiles := by
    rw [(coresDiffer_setCore u c).tiles, ← hu]
    unfold acquire
    exact (coresDiffer_setCore s _).tiles s.cur
  have hdirty := s.core.invalClean_dirty
  refine ⟨⟨u.setCore (u.core.wr d (((s.page s.cur).tile site tile).state.zeroExtend 64) (s.core.tainted a)).clearStage.advance,
    ?_, cacheFrame_setCore hf _, ?_, ?_, ?_, ?_, ?_, htiles _⟩, fun hn => ⟨u.setCore u.core.clearStage.advance, ?_, cacheFrame_setCore hf _, ?_, ?_, ?_,
    htiles _⟩⟩
  · have he : exec (.tstat d a) s = execTstat d a s := rfl
    simp only [he, execTstat, tileCheck_ok s hs, h1, h2, hu, State.curPage]
    exact writeReg_eq hcu
  · rw [State.core_setCore, hc, wr_frame]
    exact pcPast_advance rfl rfl
  · rw [State.core_setCore, Core.advance_frame, hc]
    exact sets_wr (s.core.invalClean fun _ => true) d _ _
  · rw [State.core_setCore, Core.advance_frame, hc, wr_frame]
    rfl
  · rw [State.core_setCore, Core.advance_frame, hc, wr_frame]
    rfl
  · rw [State.core_setCore, Core.advance_frame, hc, wr_frame]
    exact hdirty
  · have he : exec (.twait a st) s = execTwait a st s := rfl
    have hgo : s.core.stage = 1 ∨ (s.curPage.tile site tile).state = st := hn.symm
    simp only [he, execTwait, tileCheck_ok s hs, h1, h2, if_pos hgo, hu, complete_eq hcu]
  · rw [State.core_setCore, hc]
    exact pcPast_advance rfl rfl
  · rw [State.core_setCore, Core.advance_frame, hc]
    rfl
  · rw [State.core_setCore, Core.advance_frame, hc]
    exact hdirty

/-- Every tile instruction starts with the checks of its selector. -/
theorem tileInstr_checked {s : State} {i : Instr} {d a : Reg} {st : BitVec 2} {r : Res}
    (hi : i = .tgive a ∨ i = .ttake a ∨ i = .tempty a ∨ i = .tstat d a ∨ i = .twait a st)
    (h : tileCheck (s.core.rd a) s = some r) : exec i s = r := by
  rcases hi with rfl | rfl | rfl | rfl | rfl
  · have he : exec (.tgive a) s = tileChange 1 a s := rfl
    simp only [he, tileChange, h]
  · have he : exec (.ttake a) s = tileChange 2 a s := rfl
    simp only [he, tileChange, h]
  · have he : exec (.tempty a) s = tileChange 3 a s := rfl
    simp only [he, tileChange, h]
  · have he : exec (.tstat d a) s = execTstat d a s := rfl
    simp only [he, execTstat, h]
  · have he : exec (.twait a st) s = execTwait a st s := rfl
    simp only [he, execTwait, h]

/-- Settles O20: the transitions of R18 by the state that the tile has, the reads by what ACQ.M leaves of the L1D. -/
theorem tileResults : Obligations.TileResults := by
  intro s d a st site tile sel now
  refine ⟨fun hs => ⟨fun i from_ new hi => ?_, fun hq => tileRead_results hs hq, fun hn h1 => ?_⟩, fun i hi => ⟨fun h => ?_, fun h ht => ?_⟩⟩
  · simp only [List.mem_cons, List.not_mem_nil, or_false, Prod.mk.injEq] at hi
    rcases hi with ⟨rfl, rfl, rfl⟩ | ⟨rfl, rfl, rfl⟩ | ⟨rfl, rfl, rfl⟩
    · exact tileChange_results (op := 1) rfl (by decide) hs
    · exact tileChange_results (op := 2) rfl (by decide) hs
    · exact tileChange_results (op := 3) rfl (by decide) hs
  · change Claims.Selects (s.core.rd a) site tile at hs
    obtain ⟨-, h2, h3⟩ := selects_split hs
    have he : exec (.twait a st) s = execTwait a st s := rfl
    have hw : ¬ (s.core.stage = 1 ∨ (s.curPage.tile site tile).state = st) := by
      rintro (h | h)
      · exact h1 h
      · exact hn h
    refine waitsFor_of_waitFor (n := 0) ?_
    simp only [he, execTwait, tileCheck_ok s hs, h2, h3, if_neg hw]
  · exact tileInstr_checked hi (tileCheck_bounds s h)
  · exact tileInstr_checked hi (tileCheck_owner s h ht)

end Sys2Proof
end

section
/-! SUPPORT. Bytes that enter a block or a line of the L1D. -/

namespace Sys2Proof.Machine

/-! ### Bytes of a block -/

theorem getLsbD_placeBytes (v k i : Nat) :
    (placeBytes v k).getLsbD i = (decide (i < 512) && decide (8 * k ≤ i) && v.testBit (i - 8 * k)) := by
  rw [placeBytes, BitVec.getLsbD_ofNat, Nat.testBit_mul_two_pow, Bool.and_assoc]

/-- A bit of a block once bytes [k, k + n) are set from `v`. -/
theorem getLsbD_setBytes (d : Data) (k n v i : Nat) (hi : i < 512) :
    (setBytes d k n v).getLsbD i = if 8 * k ≤ i ∧ i < 8 * (k + n) then v.testBit (i - 8 * k) else d.getLsbD i := by
  rw [setBytes, BitVec.getLsbD_or, BitVec.getLsbD_and, BitVec.getLsbD_not, getLsbD_placeBytes, getLsbD_placeBytes, ones,
    Nat.testBit_two_pow_sub_one, Nat.testBit_mod_two_pow]
  by_cases h1 : 8 * k ≤ i
  · by_cases h2 : i < 8 * (k + n)
    · have h3 : i - 8 * k < 8 * n := by omega
      simp [hi, h1, h2, h3]
    · have h3 : ¬ i - 8 * k < 8 * n := by omega
      simp [hi, h1, h2, h3]
  · simp [hi, h1]

theorem getLsbD_dataByte (d : Data) (k j : Nat) : (dataByte d k).getLsbD j = (decide (j < 8) && d.getLsbD (8 * k + j)) := by
  rw [dataByte, BitVec.getLsbD_ofNat, Nat.testBit_div_two_pow, BitVec.getLsbD, Nat.add_comm]

/-- A byte within the bytes set is the value's. -/
theorem dataByte_setBytes_in {d : Data} {k n i : Nat} (v : Word) (hn : k + n ≤ 64) (h1 : k ≤ i) (h2 : i < k + n) :
    dataByte (setBytes d k n v.toNat) i = v.extractLsb' (8 * (i - k)) 8 := by
  apply BitVec.eq_of_getLsbD_eq
  intro j hj
  have hb : 8 * k ≤ 8 * i + j ∧ 8 * i + j < 8 * (k + n) := by omega
  have he : 8 * i + j - 8 * k = 8 * (i - k) + j := by omega
  rw [getLsbD_dataByte, getLsbD_setBytes _ _ _ _ _ (by omega), if_pos hb, he, BitVec.getLsbD_extractLsb', BitVec.getLsbD]

/-- A byte outside the bytes set stays. -/
theorem dataByte_setBytes_out {d : Data} {k n v i : Nat} (hi : i < 64) (h : ¬ (k ≤ i ∧ i < k + n)) :
    dataByte (setBytes d k n v) i = dataByte d i := by
  apply BitVec.eq_of_getLsbD_eq
  intro j hj
  have hb : ¬ (8 * k ≤ 8 * i + j ∧ 8 * i + j < 8 * (k + n)) := by omega
  rw [getLsbD_dataByte, getLsbD_setBytes _ _ _ _ _ (by omega), if_neg hb, getLsbD_dataByte]

theorem getLsbD_byteMask (k n i : Nat) (hi : i < 64) : (byteMask k n).getLsbD i = decide (k ≤ i ∧ i < k + n) := by
  rw [byteMask, BitVec.getLsbD_ofNat, Nat.testBit_mul_two_pow, ones, Nat.testBit_two_pow_sub_one]
  simp only [hi, decide_true, Bool.true_and]
  by_cases h1 : k ≤ i
  · simp only [h1, decide_true, Bool.true_and, true_and]
    exact decide_eq_decide.2 (by omega)
  · simp [h1]

/-! ### Lines of the L1D -/

theorem find?_erase_or {α : Type} [BEq α] [LawfulBEq α] (p : α → Bool) (x : α) (l : List α) :
    (l.erase x).find? p = l.find? p ∨ l.find? p = some x := by
  induction l with
  | nil => exact .inl rfl
  | cons y t ih =>
    by_cases hy : y = x
    · subst hy
      rw [List.erase_cons_head]
      by_cases hp : p y = true
      · exact .inr (List.find?_cons_of_pos hp)
      · exact .inl (List.find?_cons_of_neg hp).symm
    · rw [List.erase_cons_tail (by simpa using hy)]
      by_cases hp : p y = true
      · exact .inl (by rw [List.find?_cons_of_pos hp, List.find?_cons_of_pos hp])
      · rwa [List.find?_cons_of_neg hp, List.find?_cons_of_neg hp]

/-- The line is the one of an address in a view. -/
def L1Line.isAt (n w : Nat) (l : L1Line) : Bool := l.line == n && l.view == w

theorem L1Line.isAt_iff {n w : Nat} {l : L1Line} : l.isAt n w = true ↔ l.line = n ∧ l.view = w := by
  simp [L1Line.isAt]

theorem Core.line_eq_find (c : Core) (n w : Nat) : c.line n w = c.l1d.find? (L1Line.isAt n w) := rfl

/-- The lines that stay where another enters: all but its own, and but the clean one that makes room. -/
def Core.linesBeside (c : Core) (l : L1Line) : List L1Line :=
  let rest := c.l1d.filter fun x => !(x.isAt l.line l.view)
  if rest.length < l1dLines then rest else
    match rest.reverse.find? fun x => x.dirty == 0 with
    | some x => rest.erase x
    | none => rest

theorem Core.l1d_setLine (c : Core) (l : L1Line) : (c.setLine l).l1d = l :: c.linesBeside l := rfl

theorem Core.line_setLine_same (c : Core) (l : L1Line) : (c.setLine l).line l.line l.view = some l := by
  rw [Core.line_eq_find, Core.l1d_setLine, List.find?_cons_of_pos (L1Line.isAt_iff.2 ⟨rfl, rfl⟩)]

/-- A line is as it was after another has entered, unless the L1D was full and it was clean. -/
theorem Core.line_setLine_other {c : Core} {l : L1Line} {n w : Nat} (h : (n, w) ≠ (l.line, l.view)) :
    (c.setLine l).line n w = c.line n w ∨ (1024 ≤ c.l1d.length ∧ ∃ x, c.line n w = some x ∧ x.dirty = 0) := by
  have hl : ¬ l.isAt n w = true := fun e => by
    obtain ⟨rfl, rfl⟩ := L1Line.isAt_iff.1 e
    exact h rfl
  have hf : (c.l1d.filter fun x => !(x.isAt l.line l.view)).find? (L1Line.isAt n w) = c.line n w := by
    rw [Core.line_eq_find, List.find?_filter]
    congr 1
    funext x
    cases hx : x.isAt n w
    · simp
    · have hn : x.isAt l.line l.view = false := by
        rw [Bool.eq_false_iff]
        intro e
        obtain ⟨rfl, rfl⟩ := L1Line.isAt_iff.1 hx
        exact h (Prod.ext (L1Line.isAt_iff.1 e).1 (L1Line.isAt_iff.1 e).2)
      simp [hn]
  rw [Core.line_eq_find, Core.l1d_setLine, List.find?_cons_of_neg hl, Core.linesBeside]
  split
  · exact .inl hf
  · rename_i hlen
    have h1 : 1024 ≤ c.l1d.length := by
      have := List.length_filter_le (fun x : L1Line => !(x.isAt l.line l.view)) c.l1d
      simp only [l1dLines] at hlen
      omega
    split
    · rename_i x hx
      have hd : x.dirty = 0 := by simpa using List.find?_some hx
      rcases find?_erase_or (L1Line.isAt n w) x (c.l1d.filter fun x => !(x.isAt l.line l.view)) with he | he
      · exact .inl (he.trans hf)
      · exact .inr ⟨h1, x, hf ▸ he, hd⟩
    · exact .inl hf

/-- Of a core, a line that enters changes the L1D only. -/
theorem Core.setLine_frame (c : Core) (l : L1Line) : c.setLine l = { c with l1d := (c.setLine l).l1d } := rfl

/-- A line with bytes [off, off + size) stored. -/
def L1Line.stored (l : L1Line) (off size v : Nat) : L1Line :=
  { l with data := setBytes l.data off size v, valid := l.valid ||| byteMask off size, dirty := l.dirty ||| byteMask off size }

/-- The line that a store writes: the one of the address, or a new one of no bytes. -/
def Core.lineOrNew (c : Core) (ln vw : Nat) : L1Line := (c.line ln vw).getD ⟨ln, vw, 0, 0, 0, descUint8, false⟩

theorem Core.storeLine_eq (c : Core) (ln vw off size v : Nat) :
    c.storeLine ln vw off size v = c.setLine ((c.lineOrNew ln vw).stored off size v) := rfl

theorem Core.lineOrNew_isAt (c : Core) (ln vw : Nat) : (c.lineOrNew ln vw).line = ln ∧ (c.lineOrNew ln vw).view = vw := by
  unfold Core.lineOrNew
  cases hc : c.line ln vw with
  | none => exact ⟨rfl, rfl⟩
  | some x => exact L1Line.isAt_iff.1 (List.find?_some hc)

theorem Core.line_storeLine (c : Core) (ln vw off size v : Nat) :
    (c.storeLine ln vw off size v).line ln vw = some ((c.lineOrNew ln vw).stored off size v) := by
  obtain ⟨h1, h2⟩ := c.lineOrNew_isAt ln vw
  have h := c.line_setLine_same ((c.lineOrNew ln vw).stored off size v)
  have h3 : ((c.lineOrNew ln vw).stored off size v).line = ln := h1
  have h4 : ((c.lineOrNew ln vw).stored off size v).view = vw := h2
  rwa [h3, h4] at h

/-- The bytes that a store writes are dirty, valid and the value's. -/
theorem L1Line.stored_in {l : L1Line} {off size k : Nat} (v : Word) (hs : off + size ≤ 64) (h1 : off ≤ k) (h2 : k < off + size) :
    (l.stored off size v.toNat).dirty.getLsbD k = true ∧ (l.stored off size v.toNat).valid.getLsbD k = true
      ∧ dataByte (l.stored off size v.toNat).data k = v.extractLsb' (8 * (k - off)) 8 := by
  have hm := getLsbD_byteMask off size k (by omega)
  simp only [h1, h2, and_self, decide_true] at hm
  simp only [L1Line.stored, BitVec.getLsbD_or, hm, Bool.or_true, true_and]
  exact dataByte_setBytes_in v hs h1 h2

/-- Every other byte of the line is as it was. -/
theorem L1Line.stored_out {l : L1Line} {off size k : Nat} (v : Nat) (hk : k < 64) (h : ¬ (off ≤ k ∧ k < off + size)) :
    (l.stored off size v).dirty.getLsbD k = l.dirty.getLsbD k ∧ (l.stored off size v).valid.getLsbD k = l.valid.getLsbD k
      ∧ dataByte (l.stored off size v).data k = dataByte l.data k := by
  have hm := getLsbD_byteMask off size k hk
  simp only [h, decide_false] at hm
  simp only [L1Line.stored, BitVec.getLsbD_or, hm, Bool.or_false, true_and]
  exact dataByte_setBytes_out hk h

end Sys2Proof.Machine
end

section
/-! SUPPORT. The store of a control core: translation, room in the L1D, and the write-back that makes it (R129 to R131); O18. -/

namespace Sys2Proof.Machine

open Sys2Proof.Claims

/-! ### Translation -/

theorem State.keepTlb_frame (s : State) (b : Nat) (t : TlbEntry) : s.keepTlb b t = { s with bays := (s.keepTlb b t).bays } := by
  unfold State.keepTlb
  dsimp only
  split <;> rfl

/-- A translation changes translation caches only. -/
theorem State.xlate_frame (s : State) (b part view slot panel : Nat) :
    (s.xlate b part view slot panel).2 = { s with bays := (s.xlate b part view slot panel).2.bays } := by
  unfold State.xlate
  split
  · rfl
  · split
    · rfl
    · split
      · rfl
      · split
        · exact State.keepTlb_frame ..
        · rfl

/-- What a state that differs in translation caches has in common with the one before. -/
structure SameButBays (s u : State) : Prop where
  cur : u.cur = s.cur
  core : u.core = s.core
  part : u.curPart = s.curPart
  view : u.curView = s.curView
  depth : u.curDepth = s.curDepth
  haz : u.hazOn u.cur = s.hazOn s.cur
  own : ∀ p v a b c, u.ownPanel p v a b c = s.ownPanel p v a b c
  me : u.me = s.me
  req : u.req = s.req
  mem : u.mem = s.mem

theorem sameButBays {s u : State} (h : u = { s with bays := u.bays }) : SameButBays s u := by
  generalize u.bays = b at h
  subst h
  exact ⟨rfl, rfl, rfl, rfl, rfl, rfl, fun _ _ _ _ _ => rfl, rfl, rfl, rfl⟩

theorem coreXlate_leaf {s u : State} {ea : Word} {wr : Bool} {e : Nat}
    (h : s.xlate (bayOf s.cur) s.curPart s.curView 0 (ea.toNat / 2 ^ 16) = (.leaf e, u)) :
    coreXlate ea wr s = if leafTgt e = 2 then .stop (trapHere causeBounds ea u) else .ok e u := by
  simp only [coreXlate, h]

theorem corePlace_ok {s : State} {e : Nat} {ea : Word} {wr : Bool} {ph : Phys} (h : s.placeOf s.curPart e ea.toNat = .ok ph) :
    corePlace e ea wr s = .ok ph s := by
  simp only [corePlace, h]

theorem coreOwn_own {s : State} {e : Nat} {ea : Word}
    (h : s.ownPanel s.curPart s.curView 0 (ea.toNat / 2 ^ 16) (leafSh e) = true) : coreOwn e ea s = .ok () s := by
  simp only [coreOwn, h, if_true]

theorem State.noteCore_off {s : State} {ea : Word} {wr : Bool} (h : s.hazOn s.cur = false) : s.noteCore ea wr = s := by
  simp [State.noteCore, h]

/-! ### The writes of a core -/

theorem State.rdcWrite_frame (s : State) (b part : Nat) (n : BitVec 32) (w : BlockW) :
    s.rdcWrite b part n w = { s with bays := (s.rdcWrite b part n w).bays } := by
  unfold State.rdcWrite
  split
  · rfl
  · split <;> rfl

theorem State.rdcWrites_frame (b part : Nat) (n : BitVec 32) (l : List BlockW) (s : State) :
    l.foldl (fun s w => s.rdcWrite b part n w) s
      = { s with bays := (l.foldl (fun s w => s.rdcWrite b part n w) s).bays } := by
  induction l generalizing s with
  | nil => rfl
  | cons w l ih =>
    rw [List.foldl_cons, ih, State.rdcWrite_frame]

/-- The state after a write is launched or queued: requesters, remote-data caches and packets differ, and the requester
retains the packet or has still to send it. -/
structure WriteMade (s : State) (a : AgentId) (bs : List BlockW) (t : State) : Prop where
  frame : t = { s with bays := t.bays, reqs := t.reqs, packets := t.packets, fresh := t.fresh }
  made : ∃ k ∈ (t.req a).kept.map Retained.pkt ++ (t.req a).unsent, k.op = .write ∧ k.blocks = bs

theorem State.launchWrite_kept (s : State) (a : AgentId) (k : Packet) (hk : k.op = .write) :
    (s.launchWrite a k = { s with bays := (s.launchWrite a k).bays, reqs := (s.launchWrite a k).reqs,
                                  packets := (s.launchWrite a k).packets, fresh := (s.launchWrite a k).fresh })
    ∧ ∃ x, ((s.launchWrite a k).req a).kept = (s.req a).kept ++ [x] ∧ x.pkt.op = k.op ∧ x.pkt.blocks = k.blocks := by
  unfold State.launchWrite
  dsimp only
  rw [if_pos hk, State.rdcWrites_frame]
  exact ⟨rfl, _, congrArg Requester.kept (reqGet_reqPut _ _ _), rfl, rfl⟩

theorem State.launchWrite_made {s : State} {a : AgentId} {k : Packet} {bs : List BlockW} (hk : k.op = .write)
    (hbs : k.blocks = bs) : WriteMade s a bs (s.launchWrite a k) := by
  obtain ⟨hf, x, hx, ho, hb⟩ := s.launchWrite_kept a k hk
  refine ⟨hf, x.pkt, List.mem_append_left _ (List.mem_map_of_mem ?_), ho.trans hk, hb.trans hbs⟩
  rw [hx]
  exact List.mem_append_right _ (List.mem_singleton_self x)

theorem WriteMade.of_setReq {s t : State} {a b : AgentId} {r : Requester} {bs : List BlockW}
    (h : WriteMade (s.setReq b r) a bs t) : WriteMade s a bs t :=
  ⟨h.frame, h.made⟩

/-- A core's write is launched, or queued behind the writes that it has still to send. -/
theorem State.submitWrite_made (s : State) (p : Nat) (k : Packet) (hk : k.op = .write) :
    WriteMade s (pageAgent p 0 0) k.blocks (s.submitWrite (pageAgent p 0 0) k) := by
  have hc : (pageAgent p 0 0).code % 8 = 0 := by simp [pageAgent]
  have hnote (u : State) (a b c : Nat) (ph : Phys) (wr : Bool) : u.noteOther (pageAgent p 0 0) a b c ph wr = u := by
    simp [State.noteOther, hc]
  unfold State.submitWrite
  simp only [hnote, ite_self, hc, hk, List.foldl_fixed, if_true]
  split
  · refine ⟨rfl, ?_⟩
    rw [State.req_setReq]
    exact ⟨_, List.mem_append_right _ (List.mem_append_right _ (List.mem_singleton_self _)), rfl, rfl⟩
  · refine WriteMade.of_setReq (State.launchWrite_made ?_ ?_)
    · rfl
    · rfl

theorem State.submitWrite_me (s : State) (k : Packet) (hk : k.op = .write) :
    WriteMade s s.me k.blocks (s.submitWrite s.me k) := s.submitWrite_made s.cur k hk

/-! ### Room -/

/-- A full L1D of dirty lines has an oldest line. -/
theorem Core.l1d_of_noRoom {c : Core} {n w : Nat} (h : c.hasRoom n w = false) : ∃ x, c.l1d.getLast? = some x := by
  cases hl : c.l1d with
  | nil => simp [Core.hasRoom, hl, l1dLines] at h
  | cons y t => exact ⟨_, List.getLast?_eq_some_getLast (List.cons_ne_nil y t)⟩

/-- The oldest line is written back: its dirty bytes go in a WRITE, and it stays in the L1D clean. -/
theorem wbLine_written {x : L1Line} {s u : State} {e : Nat} {ph : Phys} (hf : s.core.failed = false)
    (hk : (s.req s.me).keepRoom = true) (hst : (s.req s.me).stall = none)
    (hx : s.xlate (bayOf s.cur) s.curPart s.curView 0 ((BitVec.ofNat 64 (x.line * 64) : Word).toNat / 2 ^ 16) = (.leaf e, u))
    (ht : leafTgt e ≠ 2) (hp : u.placeOf u.curPart e (BitVec.ofNat 64 (x.line * 64) : Word).toNat = .ok ph) :
    wbLine x s = .ok () ((u.submitWrite u.me (writePacket u.me u.curPart 0 0 (BitVec.ofNat 64 (x.line * 64) : Word).toNat
        [⟨ph, x.data, descUint8, x.dirty, if x.bad then 3 else 0⟩])).setCore
      { (u.submitWrite u.me (writePacket u.me u.curPart 0 0 (BitVec.ofNat 64 (x.line * 64) : Word).toNat
        [⟨ph, x.data, descUint8, x.dirty, if x.bad then 3 else 0⟩])).core.setLine x.written with wbStall := false }) := by
  unfold wbLine
  dsimp only
  rw [if_neg (by simp [hf]), if_neg (by simp [hk, hst]), coreXlate_leaf hx, if_neg ht]
  dsimp only
  rw [corePlace_ok hp]

theorem wbLine_waits {x : L1Line} {s : State} (hf : s.core.failed = false)
    (h : (s.req s.me).stall ≠ none ∨ (s.req s.me).keepRoom = false) :
    wbLine x s = .stop (waitFor .room s.core.stage s) := by
  have hw : (!(s.req s.me).keepRoom || (s.req s.me).stall.isSome) = true := by
    rcases h with h | h
    · simp [Option.isSome_iff_ne_none.2 h]
    · simp [h]
  unfold wbLine
  dsimp only
  rw [if_neg (by simp [hf]), if_pos hw]

theorem State.hazOn_setCore (s : State) (c : Core) (h : c.haz = s.core.haz) : (s.setCore c).hazOn s.cur = s.hazOn s.cur := by
  have hc : ((s.setCore c).page s.cur).core.haz = (s.page s.cur).core.haz := by rw [State.page_setCore]; exact h
  simp only [State.hazOn, hc, State.trussOf_setCore]
  rfl

theorem State.curView_setCore (s : State) (c : Core) : (s.setCore c).curView = s.curView := by
  simp only [State.curView, State.setCore_cur, State.trussOf_setCore]

/-- What a core's own write leaves as it was. -/
theorem WriteMade.same {s t : State} {a : AgentId} {bs : List BlockW} (h : WriteMade s a bs t) :
    t.cur = s.cur ∧ t.core = s.core ∧ t.curView = s.curView ∧ t.hazOn t.cur = s.hazOn s.cur ∧ t.mem = s.mem := by
  have hf := h.frame
  generalize t.bays = b at hf
  generalize t.reqs = r at hf
  generalize t.packets = p at hf
  generalize t.fresh = f at hf
  subst hf
  exact ⟨rfl, rfl, rfl, rfl, rfl⟩

/-! ### Stores -/

/-- Each store is `store` of an aligned size. -/
theorem exec_of_stores {s : State} {v a b : Reg} {imm : BitVec 15} {h : BitVec 2} {i : Instr} {ea : Word} {size : Nat}
    (hi : (i, ea, size) ∈ Claims.Stores s.core v a b imm h) :
    exec i s = store ea size (s.core.rd v) s ∧ (size = 1 ∨ size = 2 ∨ size = 4 ∨ size = 8) := by
  simp only [Claims.Stores, List.mem_cons, List.not_mem_nil, or_false, Prod.mk.injEq] at hi
  rcases hi with ⟨rfl, rfl, rfl⟩ | ⟨rfl, rfl, rfl⟩ | ⟨rfl, rfl, rfl⟩ | ⟨rfl, rfl, rfl⟩ | ⟨rfl, rfl, rfl⟩ | ⟨rfl, rfl, rfl⟩
    | ⟨rfl, rfl, rfl⟩ | ⟨rfl, rfl, rfl⟩
  all_goals exact ⟨rfl, by decide⟩

/-- An aligned access lies within one block. -/
theorem aligned_fits {ea : Word} {size : Nat} (hs : size = 1 ∨ size = 2 ∨ size = 4 ∨ size = 8) (h : ea.toNat % size = 0) :
    ea.toNat % 64 + size ≤ 64 := by
  rcases hs with rfl | rfl | rfl | rfl <;> omega

/-- A store that may access goes on with the leaf of its page. -/
theorem store_xlated {s u : State} {ea : Word} {size e : Nat} {v : Word} (hm : Claims.MayAccess s ea size)
    (hf : s.core.failed = false)
    (hx : s.xlate (bayOf s.cur) s.curPart s.curView 0 (ea.toNat / 2 ^ 16) = (.leaf e, u)) :
    store ea size v s = if leafTgt e = 2 then trapHere causeBounds ea u
      else if leafRo e then trapHere causeHandle ea u
      else if decide (0 < u.curDepth) && leafNf e then trapHere causeWorld ea u
      else (coreOwn e ea u).bind fun _ s => (makeRoom (ea.toNat / 64) s).bind fun _ s =>
        .next (complete ((s.noteCore ea true).core.storeLine (ea.toNat / 64) (s.noteCore ea true).curView (ea.toNat % 64)
          size v.toNat) (s.noteCore ea true)) := by
  obtain ⟨-, -, ha, hr⟩ := hm
  have h0 : ¬ ea.toNat % size ≠ 0 := by simp [ha]
  have h1 : ¬ (!t0Range ea) = true := by simp only [t0Range, hr, decide_true]; decide
  have h2 : ¬ (s.core.failed && !s.core.wbStall) = true := by simp [hf]
  rw [store, if_neg h0, if_neg h1, if_neg h2, coreXlate_leaf hx]
  split <;> rfl

/-- A store into its own panel makes room and stores. -/
theorem store_own {s u : State} {ea : Word} {size e : Nat} {v : Word} (hm : Claims.MayAccess s ea size)
    (hf : s.core.failed = false)
    (hx : s.xlate (bayOf s.cur) s.curPart s.curView 0 (ea.toNat / 2 ^ 16) = (.leaf e, u)) (ht : leafTgt e ≠ 2)
    (hro : leafRo e = false) (hw : u.curDepth = 0 ∨ leafNf e = false)
    (ho : u.ownPanel u.curPart u.curView 0 (ea.toNat / 2 ^ 16) (leafSh e) = true) :
    store ea size v s = (makeRoom (ea.toNat / 64) u).bind fun _ s =>
      .next (complete ((s.noteCore ea true).core.storeLine (ea.toNat / 64) (s.noteCore ea true).curView (ea.toNat % 64)
        size v.toNat) (s.noteCore ea true)) := by
  have hn : ¬ (decide (0 < u.curDepth) && leafNf e) = true := by
    rcases hw with h | h <;> simp [h]
  rw [store_xlated hm hf hx, if_neg ht, if_neg (by simp [hro]), if_neg hn, coreOwn_own ho, Go.bind]

/-- The store itself, with room for its line: only the L1D of the core changes, and the pc moves on. -/
theorem store_completes {u : State} (ea : Word) (size : Nat) (v : Word) (hq : NotStepping u) (hh : u.hazOn u.cur = false) :
    complete ((u.noteCore ea true).core.storeLine (ea.toNat / 64) (u.noteCore ea true).curView (ea.toNat % 64) size v.toNat)
      (u.noteCore ea true)
      = u.setCore (u.core.storeLine (ea.toNat / 64) u.curView (ea.toNat % 64) size v.toNat).clearStage.advance := by
  rw [State.noteCore_off hh]
  exact complete_eq hq

theorem Core.l1d_advance (c : Core) : c.clearStage.advance.l1d = c.l1d := by
  rw [Core.advance_frame]
  rfl

theorem Core.line_advance (c : Core) (n w : Nat) : c.clearStage.advance.line n w = c.line n w := by
  rw [Core.line_eq_find, Core.l1d_advance, Core.line_eq_find]

end Sys2Proof.Machine

namespace Sys2Proof

open Sys2Proof.Machine Sys2Proof.Claims

/-- What a store with room leaves: its line, and every other but a clean one that makes room. -/
theorem stored_core (u : State) (n off size : Nat) (v : Word) (hs : off + size ≤ 64) :
    let t := u.setCore (u.core.storeLine n u.curView off size v.toNat).clearStage.advance
    let old := (u.core.line n u.curView).getD ⟨n, u.curView, 0, 0, 0, descUint8, false⟩
    ∃ l, CoreOnly u t ∧ PcPast u.core t.core
      ∧ t.core = { u.core.clearStage with pc := t.core.pc, loops := t.core.loops, l1d := t.core.l1d }
      ∧ t.core.line n u.curView = some l ∧ l.desc = old.desc
      ∧ (∀ k, k < 64 →
        (off ≤ k ∧ k < off + size → l.dirty.getLsbD k = true ∧ l.valid.getLsbD k = true
          ∧ dataByte l.data k = v.extractLsb' (8 * (k - off)) 8)
        ∧ (¬ (off ≤ k ∧ k < off + size) → l.dirty.getLsbD k = old.dirty.getLsbD k
          ∧ l.valid.getLsbD k = old.valid.getLsbD k ∧ dataByte l.data k = dataByte old.data k))
      ∧ ∀ m w, (m, w) ≠ (n, u.curView) → t.core.line m w = u.core.line m w
        ∨ (1024 ≤ u.core.l1d.length ∧ ∃ x, u.core.line m w = some x ∧ x.dirty = 0) := by
  intro t old
  have htc : t.core = (u.core.storeLine n u.curView off size v.toNat).clearStage.advance := State.core_setCore ..
  refine ⟨(u.core.lineOrNew n u.curView).stored off size v.toNat, coreOnly_setCore _ _, ?_, ?_, ?_, rfl,
    fun k hk => ⟨fun h => L1Line.stored_in v hs h.1 h.2, fun h => L1Line.stored_out _ hk h⟩, fun m w h => ?_⟩
  · rw [htc]
    exact pcPast_advance rfl rfl
  · rw [htc, Core.advance_frame]
    rfl
  · rw [htc, Core.line_advance, Core.line_storeLine]
  · rw [htc, Core.line_advance, Core.storeLine_eq]
    obtain ⟨h1, h2⟩ := u.core.lineOrNew_isAt n u.curView
    refine Core.line_setLine_other fun e => h ?_
    rw [e]
    exact Prod.ext h1 h2

/-- A store that must wait for room: the oldest line's write cannot be made. -/
theorem store_waits {s u : State} {n : Nat} {f : Unit → State → Res} (hk : SameButBays s u) (hf : s.core.failed = false)
    (hr : u.core.hasRoom n u.curView = false) (h : (s.req s.me).stall ≠ none ∨ 32 ≤ (s.req s.me).kept.length + (s.req s.me).unsent.length) :
    (makeRoom n u).bind f = waitFor .room u.core.stage u := by
  obtain ⟨x, hx⟩ := Core.l1d_of_noRoom hr
  have h' : (u.req u.me).stall ≠ none ∨ (u.req u.me).keepRoom = false := by
    rw [hk.req, hk.me]
    exact h.imp id fun h => by simp [Requester.keepRoom, h]
  rw [makeRoom, if_neg (by simp [hr]), hx]
  dsimp only
  rw [wbLine_waits (by rw [hk.core, hf]) h', Go.bind]

/-- A store that makes room: the oldest line's dirty bytes go in a WRITE, and the store's enter the L1D. -/
theorem store_writesBack {s u : State} {ea : Word} {size : Nat} {v : Word} (hk : SameButBays s u) (hf : s.core.failed = false)
    (hq : NotStepping s) (hh : s.hazOn s.cur = false) (hfit : ea.toNat % 64 + size ≤ 64)
    (hr : u.core.hasRoom (ea.toNat / 64) u.curView = false) {x : L1Line} {e : Nat} {u' : State} {ph : Phys}
    (hx : s.core.l1d.getLast? = some x) (hs : (s.req s.me).stall = none)
    (hn : (s.req s.me).kept.length + (s.req s.me).unsent.length < 32)
    (hxl : u.xlate (bayOf s.cur) s.curPart s.curView 0 ((BitVec.ofNat 64 (x.line * 64) : Word).toNat / 2 ^ 16) = (.leaf e, u'))
    (ht : leafTgt e ≠ 2) (hp : u'.placeOf s.curPart e (BitVec.ofNat 64 (x.line * 64) : Word).toNat = .ok ph) :
    ∃ t l k, ((makeRoom (ea.toNat / 64) u).bind fun _ s =>
        .next (complete ((s.noteCore ea true).core.storeLine (ea.toNat / 64) (s.noteCore ea true).curView (ea.toNat % 64)
          size v.toNat) (s.noteCore ea true))) = .next t ∧ t.mem = s.mem ∧ PcPast s.core t.core
      ∧ k ∈ (t.req s.me).kept.map Retained.pkt ++ (t.req s.me).unsent ∧ k.op = .write
      ∧ k.blocks = [⟨ph, x.data, descUint8, x.dirty, if x.bad then 3 else 0⟩]
      ∧ t.core.line (ea.toNat / 64) s.curView = some l
      ∧ ∀ j, ea.toNat % 64 ≤ j → j < ea.toNat % 64 + size → l.dirty.getLsbD j = true
        ∧ dataByte l.data j = v.extractLsb' (8 * (j - ea.toNat % 64)) 8 := by
  have hu' : u' = { u with bays := u'.bays } := by
    have := u.xlate_frame (bayOf s.cur) s.curPart s.curView 0 ((BitVec.ofNat 64 (x.line * 64) : Word).toNat / 2 ^ 16)
    rwa [hxl] at this
  have hk' := sameButBays hu'
  have hwb := wbLine_written (x := x) (s := u) (u := u') (e := e) (ph := ph) (by rw [hk.core, hf])
    (by rw [hk.req, hk.me]; simpa [Requester.keepRoom] using hn) (by rw [hk.req, hk.me, hs])
    (by rw [hk.cur, hk.part, hk.view]; exact hxl) ht (by rw [hk'.part, hk.part]; exact hp)
  have hme : u'.me = s.me := hk'.me.trans hk.me
  have hmade := u'.submitWrite_me (writePacket u'.me u'.curPart 0 0 (BitVec.ofNat 64 (x.line * 64) : Word).toNat
    [⟨ph, x.data, descUint8, x.dirty, if x.bad then 3 else 0⟩]) rfl
  generalize u'.submitWrite u'.me _ = w at hwb hmade
  obtain ⟨hcur, hcore, hview, hhaz, hmem⟩ := hmade.same
  have hwc : w.core = s.core := hcore.trans (hk'.core.trans hk.core)
  generalize hc : ({ w.core.setLine x.written with wbStall := false } : Core) = c at hwb
  have hcs : c = { s.core with l1d := c.l1d, wbStall := false } := by
    rw [← hc, hwc]
    rfl
  have hz : (w.setCore c).hazOn (w.setCore c).cur = false := by
    rw [State.setCore_cur, State.hazOn_setCore _ _ (by rw [hcs, hwc]), hhaz, hk'.haz, hk.haz, hh]
  have hst : NotStepping (w.setCore c) := by
    rw [NotStepping, State.core_setCore, hcs]
    exact hq
  obtain ⟨k, hkm, hko, hkb⟩ := hmade.made
  rw [hme] at hkm
  have hv : (w.setCore c).curView = s.curView := by rw [State.curView_setCore, hview, hk'.view, hk.view]
  refine ⟨(w.setCore c).setCore ((w.setCore c).core.storeLine (ea.toNat / 64) (w.setCore c).curView (ea.toNat % 64) size
      v.toNat).clearStage.advance,
    ((w.setCore c).core.lineOrNew (ea.toNat / 64) s.curView).stored (ea.toNat % 64) size v.toNat, k,
    ?_, ?_, ?_, hkm, hko, hkb, ?_, fun j h1 h2 => ?_⟩
  · rw [makeRoom, if_neg (by simp [hr]), hk.core, hx]
    dsimp only
    rw [hwb, Go.bind, store_completes _ _ _ hst hz]
  · exact (hmem.trans hk'.mem).trans hk.mem
  · rw [State.core_setCore, State.core_setCore]
    exact pcPast_advance (by rw [hcs]; rfl) (by rw [hcs]; rfl)
  · rw [State.core_setCore, Core.line_advance, hv, Core.line_storeLine]
  · obtain ⟨hd, -, hb⟩ := L1Line.stored_in (l := (w.setCore c).core.lineOrNew (ea.toNat / 64) s.curView) v hfit h1 h2
    exact ⟨hd, hb⟩

/-- Settles O18: the leaf's checks in their order, then room in the L1D, made by a write-back of the oldest line where
every line is dirty. -/
theorem storeResults : Obligations.StoreResults := by
  intro s u v a b imm h i ea size e hi hm hf hx
  obtain ⟨he, hsz⟩ := exec_of_stores hi
  have hfit := aligned_fits hsz hm.2.2.1
  have hu : u = { s with bays := u.bays } := by
    have := s.xlate_frame (bayOf s.cur) s.curPart s.curView 0 (ea.toNat / 2 ^ 16)
    rwa [hx] at this
  have hk := sameButBays hu
  have hst := store_xlated (v := s.core.rd v) hm hf hx
  have hq : NotStepping u := by rw [NotStepping, hk.core]; exact hm.1
  have hh : u.hazOn u.cur = false := hk.haz.trans hm.2.1
  refine ⟨hu, fun ht => ?_, fun ht hro => ?_, fun ht hro hd hnf => ?_, fun ht hro hw ho hroom => ?_, fun ht hro hw ho hroom => ?_⟩
  · rw [he, hst, if_pos ht, trapHere, hk.core]
    rfl
  · rw [he, hst, if_neg ht, if_pos hro, trapHere, hk.core]
    rfl
  · have hn : (decide (0 < u.curDepth) && leafNf e) = true := by simp [hk.depth, hd, hnf]
    rw [he, hst, if_neg ht, if_neg (by simp [hro]), if_pos hn, trapHere, hk.core]
    rfl
  · have hr : u.core.hasRoom (ea.toNat / 64) u.curView = true := by rw [hk.core, hk.view, hroom]
    have ho' : u.ownPanel u.curPart u.curView 0 (ea.toNat / 2 ^ 16) (leafSh e) = true := by rw [hk.own, hk.part, hk.view, ho]
    obtain ⟨l, h1⟩ := stored_core u (ea.toNat / 64) (ea.toNat % 64) size (s.core.rd v) hfit
    refine ⟨_, l, ?_, by simpa only [hk.core, hk.view] using h1⟩
    rw [he, store_own hm hf hx ht hro (hk.depth ▸ hw) ho', makeRoom, if_pos hr, Go.bind, store_completes _ _ _ hq hh, hk.view, hk.core]
  · have hr : u.core.hasRoom (ea.toNat / 64) u.curView = false := by rw [hk.core, hk.view, hroom]
    have ho' : u.ownPanel u.curPart u.curView 0 (ea.toNat / 2 ^ 16) (leafSh e) = true := by rw [hk.own, hk.part, hk.view, ho]
    rw [he, store_own hm hf hx ht hro (hk.depth ▸ hw) ho']
    refine ⟨fun h => ⟨_, store_waits hk hf hr h, coreOnly_setCore _ _, ?_⟩, fun x e' u' ph hl hs hn hxl ht' hp =>
      store_writesBack hk hf hm.1 hm.2.1 hfit hr hl hs hn hxl ht' hp⟩
    rw [State.core_setCore, hk.core]
    exact ⟨rfl, ⟨fun _ => ⟨rfl, rfl⟩, rfl, rfl, rfl, rfl, rfl, rfl, rfl, rfl, rfl, rfl⟩, rfl⟩

end Sys2Proof
end

section
/-! SUPPORT. The firing of an element, part by part: free values, inputs consumed, tiles replaced, meters (R249 to R251,
R269); O34. -/

namespace Sys2Proof.Machine

open Sys2Proof.Claims

/-! ### Free values in poisoned lanes -/

/-- Only the count of free values used differs. -/
def FreeOnly (s t : State) : Prop := t = { s with freeCount := t.freeCount }

theorem FreeOnly.trans {s t u : State} (h : FreeOnly s t) (k : FreeOnly t u) : FreeOnly s u := by
  unfold FreeOnly at *
  rw [k, h]

theorem FreeOnly.elem {s t : State} (h : FreeOnly s t) (p e : Nat) : t.elem p e = s.elem p e := by
  unfold FreeOnly at h
  generalize t.freeCount = c at h
  subst h
  rfl

/-- Every lane that is not poisoned is the emitted token's. -/
def LanesKept (o : OutTok) (d : Data) : Prop :=
  ∀ n, n < 16 → (o.bad &&& o.valid).getLsbD n = false → lane d n = lane o.data n

/-- One lane of a token with poisoned lanes given a free value. -/
def freeLane (o : OutTok) (r : Data × State) (l : Nat) : Data × State :=
  if o.bad.getLsbD l && o.valid.getLsbD l then (setBytes r.1 (4 * l) 4 (r.2.freeVal.1.toNat % 2 ^ 32), r.2.freeVal.2) else r

theorem freePoison_eq (o : OutTok) (s : State) : freePoison o s = if o.bad = 0 then (o, s) else
    ({ o with data := ((List.range 16).foldl (freeLane o) (o.data, s)).1 }, ((List.range 16).foldl (freeLane o) (o.data, s)).2) := rfl

theorem lane_setBytes_other {d : Data} {l n v : Nat} (hn : n < 16) (h : n ≠ l) : lane (setBytes d (4 * l) 4 v) n = lane d n := by
  apply BitVec.eq_of_getLsbD_eq
  intro j hj
  have hb : ¬ (8 * (4 * l) ≤ 32 * n + j ∧ 32 * n + j < 8 * (4 * l + 4)) := by omega
  have hl (x : Data) : (lane x n).getLsbD j = x.getLsbD (32 * n + j) := by
    rw [lane, BitVec.getLsbD_ofNat, Nat.testBit_div_two_pow, BitVec.getLsbD, Nat.add_comm]
    simp [hj]
  rw [hl, hl, getLsbD_setBytes _ _ _ _ _ (by omega), if_neg hb]

theorem freeLanes_kept (o : OutTok) (l : List Nat) (r : Data × State) (h : LanesKept o r.1) :
    LanesKept o (l.foldl (freeLane o) r).1 ∧ FreeOnly r.2 (l.foldl (freeLane o) r).2 := by
  induction l generalizing r with
  | nil => exact ⟨h, rfl⟩
  | cons l t ih =>
    have hstep : LanesKept o (freeLane o r l).1 ∧ FreeOnly r.2 (freeLane o r l).2 := by
      unfold freeLane
      split
      · rename_i hb
        refine ⟨fun n hn hk => ?_, rfl⟩
        have hne : n ≠ l := by
          rintro rfl
          rw [BitVec.getLsbD_and, hb] at hk
          cases hk
        exact (lane_setBytes_other hn hne).trans (h n hn hk)
      · exact ⟨h, rfl⟩
    obtain ⟨h1, h2⟩ := ih _ hstep.1
    exact ⟨h1, hstep.2.trans h2⟩

theorem freePoison_freed (o : OutTok) (s : State) :
    (∃ d : Data, (freePoison o s).1 = { o with data := d } ∧ LanesKept o d) ∧ FreeOnly s (freePoison o s).2 := by
  rw [freePoison_eq]
  split
  · exact ⟨⟨o.data, rfl, fun _ _ _ => rfl⟩, rfl⟩
  · obtain ⟨h1, h2⟩ := freeLanes_kept o (List.range 16) (o.data, s) fun _ _ _ => rfl
    exact ⟨⟨_, rfl, h1⟩, h2⟩

theorem freePoisons_freeOnly (l : List OutTok) (s : State) : FreeOnly s (freePoisons l s).2 := by
  induction l generalizing s with
  | nil => rfl
  | cons o t ih => exact (freePoison_freed o s).2.trans (ih _)

theorem freePoisons_freed (l : List OutTok) (s : State) : Claims.Freed l (freePoisons l s).1 := by
  induction l generalizing s with
  | nil => exact ⟨rfl, fun _ _ h => by simp at h⟩
  | cons o t ih =>
    obtain ⟨hlen, hk⟩ := ih (freePoison o s).2
    obtain ⟨d, hd, hl⟩ := (freePoison_freed o s).1
    refine ⟨congrArg (· + 1) hlen, fun k w hw => ?_⟩
    cases k with
    | zero =>
      cases hw
      exact ⟨d, congrArg some hd, hl⟩
    | succ k => exact hk k w hw

/-! ### Inputs consumed -/

/-- The tokens consumed have arrived whole: their check changes nothing. -/
theorem State.checkedInputs_sound {s : State} {p e : Nat} (eats : Nat) (h : Claims.Sound (s.elem p e)) :
    s.checkedInputs p e eats = s := by
  unfold State.checkedInputs
  refine List.foldlRecOn (motive := fun u => u = s) _ _ rfl fun u hu i hi => ?_
  subst hu
  split
  · split
    · rename_i t ht
      rw [State.checked, h i t (List.mem_range.1 hi) ht]
      rfl
    · rfl
  · rfl

theorem fgetD_fset (m : FMap (List Token)) (k j : Nat) (l : List Token) :
    fgetD (fset m k (if l.isEmpty then none else some l)) j [] = if j = k then l else fgetD m j [] := by
  by_cases hj : j = k
  · subst hj
    cases l with
    | nil => simp [fset, fgetD, fget_fdel_same]
    | cons t l => simp [fset, fgetD]
  · cases l with
    | nil => simp [fset, fgetD, fget_fdel_other hj, hj]
    | cons t l => simp [fset, fgetD, fget_fput_other hj, hj]

theorem Elem.hops_hopPop (x : Elem) (h j : Nat) :
    fgetD (x.hopPop h).hops j [] = if j = h then (fgetD x.hops h []).drop 1 else fgetD x.hops j [] := fgetD_fset ..

/-- Consumption changes the hops and the bursts of an element only. -/
theorem Elem.eat_frame (x : Elem) (i : Nat) : x.eat i = { x with hops := (x.eat i).hops, ins := (x.eat i).ins } := rfl

theorem Elem.hops_eat (x : Elem) (i j : Nat) :
    fgetD (x.eat i).hops j [] = if j = 37 + i then (fgetD x.hops j []).drop 1 else fgetD x.hops j [] := by
  refine (Elem.hops_hopPop (x.setBurst i (x.inBurst i).pass) (inHop i) j).trans ?_
  unfold inHop
  split
  · rename_i h
    rw [h]
    rfl
  · rfl

theorem Elem.inBurst_eat {x : Elem} {i j : Nat} (hi : i < 4) (hj : j < 4) :
    (x.eat i).inBurst j = if j = i then (x.inBurst i).pass else x.inBurst j := by
  have h1 : i % 4 = i := by omega
  have h2 : j % 4 = j := by omega
  simp only [Elem.inBurst, Elem.eat, Elem.hopPop, Elem.setBurst, h1, h2, Vector.getElem_set, eq_comm (a := i)]

/-- An element once the inputs of a set are consumed. -/
def Elem.eats (x : Elem) (m n : Nat) : Elem :=
  (List.range n).foldl (fun (y : Elem) i => if m.testBit i then y.eat i else y) x

theorem Elem.eats_succ (x : Elem) (m n : Nat) :
    x.eats m (n + 1) = if m.testBit n then (x.eats m n).eat n else x.eats m n := by
  rw [Elem.eats, List.range_succ, List.foldl_append]
  rfl

theorem Elem.eats_frame (x : Elem) (m n : Nat) : x.eats m n = { x with hops := (x.eats m n).hops, ins := (x.eats m n).ins } := by
  induction n with
  | zero => rfl
  | succ n ih =>
    rw [Elem.eats_succ]
    split
    · rw [Elem.eat_frame, ih]
    · exact ih

theorem Elem.hops_eats (x : Elem) (m n j : Nat) :
    fgetD (x.eats m n).hops j [] = (fgetD x.hops j []).drop (if 37 ≤ j ∧ j < 37 + n ∧ m.testBit (j - 37) then 1 else 0) := by
  induction n with
  | zero =>
    have : ¬ (37 ≤ j ∧ j < 37 + 0 ∧ m.testBit (j - 37) = true) := by omega
    rw [if_neg this]
    rfl
  | succ n ih =>
    rw [Elem.eats_succ]
    by_cases hj : j = 37 + n
    · subst hj
      have h0 : ¬ (37 ≤ 37 + n ∧ 37 + n < 37 + n ∧ m.testBit (37 + n - 37) = true) := by omega
      rw [if_neg h0] at ih
      have hn : 37 + n - 37 = n := by omega
      rw [hn]
      by_cases hb : m.testBit n = true
      · have h1 : 37 ≤ 37 + n ∧ 37 + n < 37 + (n + 1) ∧ m.testBit n = true := ⟨by omega, by omega, hb⟩
        rw [if_pos hb, if_pos h1, Elem.hops_eat, if_pos rfl, ih]
        rfl
      · rw [if_neg hb, if_neg (fun h => hb h.2.2), ih]
    · have hc : (37 ≤ j ∧ j < 37 + (n + 1) ∧ m.testBit (j - 37) = true) ↔ (37 ≤ j ∧ j < 37 + n ∧ m.testBit (j - 37) = true) := by
        have : j < 37 + (n + 1) ↔ j < 37 + n := by omega
        rw [this]
      simp only [hc, ← ih]
      split
      · rw [Elem.hops_eat, if_neg hj]
      · rfl

theorem Elem.inBurst_eats (x : Elem) (m n j : Nat) (hn : n ≤ 4) (hj : j < 4) :
    (x.eats m n).inBurst j = if j < n ∧ m.testBit j then (x.inBurst j).pass else x.inBurst j := by
  induction n with
  | zero => simp [Elem.eats]
  | succ n ih =>
    have ih := ih (by omega)
    rw [Elem.eats_succ]
    by_cases he : j = n
    · subst he
      rw [if_neg (by omega)] at ih
      by_cases hb : m.testBit j = true
      · rw [if_pos hb, if_pos ⟨by omega, hb⟩, Elem.inBurst_eat (by omega) hj, if_pos rfl, ih]
      · rw [if_neg hb, if_neg (fun h => hb h.2), ih]
    · have hc : (j < n + 1 ∧ m.testBit j = true) ↔ (j < n ∧ m.testBit j = true) := by
        have : j < n + 1 ↔ j < n := by omega
        rw [this]
      simp only [hc, ← ih]
      split
      · rw [Elem.inBurst_eat (by omega) hj, if_neg he]
      · rfl

/-! ### Tiles replaced -/

/-- One tile of the site replaced; a change of its state is an event of the page's core. -/
def State.fireTile (p e : Nat) (s : State) (z : Nat × Tile) : State :=
  let pg := s.page p
  let moved := decide ((pg.tile e z.1).state ≠ z.2.state)
  s.setPage p { pg.setTile e z.1 z.2 with core := { pg.core with event := pg.core.event || moved } }

/-- What the replacement of tiles of page `p` leaves as it was. -/
structure TilesOnly (p : Nat) (s t : State) : Prop where
  frame : t = { s with pages := t.pages }
  others : ∀ q, q ≠ p → t.page q = s.page q
  page : t.page p = { s.page p with tiles := (t.page p).tiles,
                                    core := { (s.page p).core with event := (t.page p).core.event } }

theorem TilesOnly.trans {p : Nat} {s t u : State} (h : TilesOnly p s t) (k : TilesOnly p t u) : TilesOnly p s u := by
  refine ⟨?_, fun q hq => (k.others q hq).trans (h.others q hq), ?_⟩
  · rw [k.frame, h.frame]
  · have hk := k.page
    rw [h.page] at hk
    exact hk

theorem State.fireTile_only (p e : Nat) (s : State) (z : Nat × Tile) : TilesOnly p s (s.fireTile p e z) :=
  ⟨rfl, fun _ hq => State.page_setPage_other hq, by rw [State.fireTile, State.page_setPage]; rfl⟩

theorem State.fireTiles_only (p e : Nat) (l : List (Nat × Tile)) (s : State) : TilesOnly p s (l.foldl (State.fireTile p e) s) := by
  induction l generalizing s with
  | nil => exact ⟨rfl, fun _ _ => rfl, rfl⟩
  | cons z l ih => exact (s.fireTile_only p e z).trans (ih _)

theorem State.tile_fireTile (p e : Nat) (s : State) (z : Nat × Tile) (y k : Nat) :
    ((s.fireTile p e z).page p).tile y k = if y * 64 + k = e * 64 + z.1 then z.2 else (s.page p).tile y k := by
  rw [State.fireTile, State.page_setPage]
  unfold Page.tile Page.setTile fgetD
  split
  · rename_i h
    rw [h, fget_fput_same]
    rfl
  · rename_i h
    rw [fget_fput_other h]

theorem State.tile_fireTiles_other {p e : Nat} {l : List (Nat × Tile)} {y k : Nat} (h : ∀ z ∈ l, y * 64 + k ≠ e * 64 + z.1)
    (s : State) : ((l.foldl (State.fireTile p e) s).page p).tile y k = (s.page p).tile y k := by
  induction l generalizing s with
  | nil => rfl
  | cons z l ih =>
    rw [List.foldl_cons, ih (fun w hw => h w (List.mem_cons_of_mem z hw)), State.tile_fireTile,
      if_neg (h z List.mem_cons_self)]

theorem State.tile_fireTiles_same {p e : Nat} {l : List (Nat × Tile)} {k : Nat} {tl : Tile} (hm : (k, tl) ∈ l)
    (hu : ∀ z, (k, z) ∈ l → z = tl) (s : State) : ((l.foldl (State.fireTile p e) s).page p).tile e k = tl := by
  induction l generalizing s with
  | nil => cases hm
  | cons w l ih =>
    rw [List.foldl_cons]
    by_cases hl : (k, tl) ∈ l
    · exact ih hl (fun z hz => hu z (List.mem_cons_of_mem w hz)) _
    · have hw : w = (k, tl) := (List.eq_or_mem_of_mem_cons hm).elim Eq.symm fun h => absurd h hl
      have ho : ∀ z ∈ l, e * 64 + k ≠ e * 64 + z.1 := by
        intro z hz he
        have hzk : z.1 = k := by omega
        have hz' : (k, z.2) ∈ l := by rw [← hzk]; exact hz
        exact hl (hu z.2 (List.mem_cons_of_mem w hz') ▸ hz')
      rw [State.tile_fireTiles_other ho, State.tile_fireTile, hw, if_pos rfl]

/-! ### Meters and the watchdog -/

/-- What the end of a firing leaves: the watchdog, the meters, and the caches that an acquire touches may differ. -/
structure FiringEnds (s t : State) : Prop where
  frame : t = { s with trusses := t.trusses, meters := t.meters, bays := t.bays, reqs := t.reqs }
  reads : ReadsKept s t
  bays : ∀ b, t.bay b = { s.bay b with rdc := (t.bay b).rdc }

theorem State.meter_frame (s : State) (p m k : Nat) : s.meter p m k = { s with meters := (s.meter p m k).meters } := by
  unfold State.meter
  split <;> rfl

theorem State.meters_frame (p : Nat) (l : List (Nat × Nat)) (s : State) :
    l.foldl (fun s z => s.meter p z.1 z.2) s = { s with meters := (l.foldl (fun s z => s.meter p z.1 z.2) s).meters } := by
  induction l generalizing s with
  | nil => rfl
  | cons z l ih =>
    rw [List.foldl_cons, ih, State.meter_frame]

/-- The end of a firing in a partition: an acquire where it fired on a tile, the meters, and the fabric has moved. -/
def State.firingEnd (s : State) (p part tiles : Nat) (l : List (Nat × Nat)) : State :=
  ((l.foldl (fun s z => s.meter part z.1 z.2) (if tiles = 0 then s else s.rdcInval (bayOf p) part fun _ => true)).meter part 6 1).fabricMoved p

theorem State.rdcInval_readsKept (s : State) (b part : Nat) (f : Nat → Bool) : ReadsKept s (s.rdcInval b part f) :=
  State.modReads_readsKept (s.setBay _ _) _ _ _

theorem State.rdcInval_bay (s : State) (b part : Nat) (f : Nat → Bool) (c : Nat) :
    (s.rdcInval b part f).bay c = { s.bay c with rdc := ((s.rdcInval b part f).bay c).rdc } := by
  by_cases h : c = b
  · subst h
    simp [State.rdcInval, State.bay, State.modReads, State.setBay, fgetD]
  · simp [State.rdcInval, State.bay, State.modReads, State.setBay, fgetD, fget_fput_other h]

theorem State.firingEnd_ends (s : State) (p part tiles : Nat) (l : List (Nat × Nat)) :
    FiringEnds s (s.firingEnd p part tiles l) ∧ (tiles = 0 → (s.firingEnd p part tiles l).bays = s.bays
      ∧ (s.firingEnd p part tiles l).reqs = s.reqs) := by
  unfold State.firingEnd
  rw [State.meter_frame, State.meters_frame]
  by_cases h : tiles = 0
  · simp only [if_pos h]
    exact ⟨⟨rfl, fun _ => ⟨rfl, rfl⟩, fun _ => rfl⟩, fun _ => ⟨rfl, rfl⟩⟩
  · simp only [if_neg h]
    exact ⟨⟨rfl, s.rdcInval_readsKept (bayOf p) part fun _ => true, s.rdcInval_bay (bayOf p) part fun _ => true⟩,
      fun h0 => absurd h0 h⟩

/-! ### The firing -/

/-- The element that a firing leaves, with the tokens that it emits. -/
def Elem.fired (x : Elem) (f : Fire) (o0 o1 : List OutTok) : Elem :=
  let y := f.x.eats f.eats 4
  let e0 := renderAll x.home x.annc[0] o0
  let e1 := renderAll x.home x.annc[1] o1
  { y with
    status := y.status ||| f.fl ||| x.classFlags f.eats, fire := y.fire + 1, q0 := y.q0 ++ e0.1, q1 := y.q1 ++ e1.1, annc := #v[e0.2, e1.2] }

/-- The state once the element has fired and its tiles are replaced, before the end of the firing. -/
def State.firedTiles (u : State) (p e : Nat) (f : Fire) (o0 o1 : List OutTok) : State :=
  f.tiles.foldl (State.fireTile p e) (u.setElem p e ((u.elem p e).fired f o0 o1))

/-- A firing with the tokens to emit. -/
def State.fireWith (u : State) (p e : Nat) (f : Fire) (o0 o1 : List OutTok) : State :=
  let w := u.firedTiles p e f o0 o1
  w.firingEnd p (((w.trussOf p).map Truss.part).getD 0x3F) (((opRow (u.elem p e).opc).map OpRow.tiles).getD 0) f.mets

/-- A firing of whole tokens, part by part. -/
theorem State.applyFire_eq {s : State} {p e : Nat} (f : Fire) (h : Claims.Sound (s.elem p e)) :
    ∃ u o0 o1, FreeOnly s u ∧ Claims.Freed f.out0 o0 ∧ Claims.Freed f.out1 o1
      ∧ s.applyFire p e f = u.fireWith p e f o0 o1 := by
  have hu := (freePoisons_freeOnly f.out0 s).trans (freePoisons_freeOnly f.out1 _)
  have hc := State.checkedInputs_sound f.eats ((hu.elem p e).symm ▸ h)
  refine ⟨_, _, _, hu, freePoisons_freed f.out0 s, freePoisons_freed f.out1 (freePoisons f.out0 s).2, ?_⟩
  have he : s.applyFire p e f = ((freePoisons f.out1 (freePoisons f.out0 s).2).2.checkedInputs p e f.eats).fireWith p e f
      (freePoisons f.out0 s).1 (freePoisons f.out1 (freePoisons f.out0 s).2).1 := rfl
  rw [he, hc]

/-- The page of a firing, and every other, after it. -/
structure FiredPage (s t : State) (p e : Nat) (f : Fire) (y : Elem) : Prop where
  others : ∀ q, q ≠ p → t.page q = s.page q
  page : t.page p = { s.page p with elems := fput (s.page p).elems e y, tiles := (t.page p).tiles,
                                    core := { (s.page p).core with event := (t.page p).core.event } }
  tile : ∀ k tl, (k, tl) ∈ f.tiles → (∀ z, (k, z) ∈ f.tiles → z = tl) → (t.page p).tile e k = tl
  kept : ∀ z k, (∀ w ∈ f.tiles, z * 64 + k ≠ e * 64 + w.1) → (t.page p).tile z k = (s.page p).tile z k

theorem State.firedTiles_page (u : State) (p e : Nat) (f : Fire) (o0 o1 : List OutTok) :
    FiredPage u (u.firedTiles p e f o0 o1) p e f ((u.elem p e).fired f o0 o1)
      ∧ u.firedTiles p e f o0 o1 = { u with pages := (u.firedTiles p e f o0 o1).pages } := by
  unfold State.firedTiles
  generalize (u.elem p e).fired f o0 o1 = y
  obtain ⟨hf, ho, hp⟩ := State.fireTiles_only p e f.tiles (u.setElem p e y)
  have hset : (u.setElem p e y).page p = (u.page p).setElem e y := by rw [State.setElem, State.page_setPage]
  refine ⟨⟨fun q hq => ?_, ?_, fun k tl hm hu => State.tile_fireTiles_same hm hu _, fun z k hz => ?_⟩, ?_⟩
  · rw [ho q hq, State.setElem, State.page_setPage_other hq]
  · rw [hset] at hp
    exact hp
  · rw [State.tile_fireTiles_other hz, hset]
    rfl
  · rw [hf]
    rfl

/-- Elements of the page and of others: only the one that fired is another. -/
theorem FiredPage.elem {s t : State} {p e : Nat} {f : Fire} {y : Elem} (h : FiredPage s t p e f y) :
    t.elem p e = y ∧ ∀ q d, (q, d) ≠ (p, e) → t.elem q d = s.elem q d := by
  constructor
  · rw [State.elem, h.page]
    simp [Page.elem, fgetD]
  · intro q d hn
    by_cases hq : q = p
    · subst hq
      have hd : d ≠ e := fun he => hn (by rw [he])
      rw [State.elem, h.page]
      simp [Page.elem, fgetD, fget_fput_other hd, State.elem]
    · rw [State.elem, h.others q hq, State.elem]

theorem FiredPage.of_pages {s t u v : State} {p e : Nat} {f : Fire} {y : Elem} (h : FiredPage u v p e f y)
    (hs : u.pages = s.pages) (ht : t.pages = v.pages) : FiredPage s t p e f y := by
  have h1 (q : Nat) : u.page q = s.page q := by rw [State.page, hs, State.page]
  have h2 (q : Nat) : t.page q = v.page q := by rw [State.page, ht, State.page]
  refine ⟨fun q hq => ?_, ?_, fun k tl hm hu => ?_, fun z k hz => ?_⟩
  · rw [h2, h.others q hq, h1]
  · rw [h2, ← h1]
    exact h.page
  · rw [h2]
    exact h.tile k tl hm hu
  · rw [h2, h.kept z k hz, h1]

/-- The element that has fired, but for consumption and emission. -/
theorem Elem.fired_spec (x : Elem) (f : Fire) (o0 o1 : List OutTok) :
    let y := x.fired f o0 o1
    y.fire = f.x.fire + 1 ∧ y.status = f.x.status ||| f.fl ||| x.classFlags f.eats
    ∧ (∀ j, fgetD y.hops j [] = (fgetD f.x.hops j []).drop (if 37 ≤ j ∧ j < 41 ∧ f.eats.testBit (j - 37) then 1 else 0))
    ∧ y = { f.x with fire := y.fire, status := y.status, hops := y.hops, ins := y.ins, q0 := y.q0, q1 := y.q1, annc := y.annc }
    ∧ (∀ i, i < 4 → y.inBurst i = if f.eats.testBit i then (f.x.inBurst i).pass else f.x.inBurst i)
    ∧ y.q0 = f.x.q0 ++ (renderAll x.home x.annc[0] o0).1 ∧ y.annc[0] = (renderAll x.home x.annc[0] o0).2
    ∧ y.q1 = f.x.q1 ++ (renderAll x.home x.annc[1] o1).1 ∧ y.annc[1] = (renderAll x.home x.annc[1] o1).2 := by
  have hf := f.x.eats_frame f.eats 4
  have hh := f.x.hops_eats f.eats 4
  have hb := fun i (h : i < 4) => f.x.inBurst_eats f.eats 4 i (le_refl 4) h
  unfold Elem.fired
  generalize f.x.eats f.eats 4 = z at hf hh hb
  generalize z.hops = a at hf hh
  generalize z.ins = b at hf
  subst hf
  refine ⟨rfl, rfl, hh, rfl, fun i hi => ?_, rfl, rfl, rfl, rfl⟩
  refine (hb i hi).trans ?_
  simp only [hi, true_and]

end Sys2Proof.Machine

namespace Sys2Proof

open Sys2Proof.Machine Sys2Proof.Claims

theorem exec_of_firings (s : State) (p e : Nat) : ∀ z ∈ Claims.Firings p e, exec z.1 s = fireOp z.2.1 z.2.2 p e s := by
  simp only [Claims.Firings, List.forall_mem_append, List.forall_mem_cons, List.not_mem_nil, false_imp_iff, implies_true, and_true]
  refine ⟨⟨?_, ?_⟩, ?_⟩
  all_goals
    repeat' apply And.intro
    all_goals rfl

/-- A firing of whole tokens is carried out as the plan says. -/
theorem fired_applyFire {s : State} {p e : Nat} (f : Fire) (h : Claims.Sound (s.elem p e)) :
    Claims.Fired s (s.applyFire p e f) p e f := by
  obtain ⟨u, o0, o1, hu, h0, h1, heq⟩ := State.applyFire_eq f h
  have hux := hu.elem p e
  obtain ⟨hpg, hw⟩ := u.firedTiles_page p e f o0 o1
  rw [hux] at hpg
  unfold State.fireWith at heq
  rw [hux] at heq
  generalize u.firedTiles p e f o0 o1 = w at hpg hw heq
  obtain ⟨⟨hfr, hrd, hby⟩, hacq⟩ := w.firingEnd_ends p (((w.trussOf p).map Truss.part).getD 0x3F)
    (((opRow (s.elem p e).opc).map OpRow.tiles).getD 0) f.mets
  rw [← heq] at hfr hrd hby hacq
  generalize s.applyFire p e f = t at *
  unfold FreeOnly at hu
  have hup : u.pages = s.pages := by rw [hu]
  have hub : u.bays = s.bays := by rw [hu]
  have hur : u.reqs = s.reqs := by rw [hu]
  have hwb : w.bays = s.bays := by rw [hw]; exact hub
  have hwr : w.reqs = s.reqs := by rw [hw]; exact hur
  have htp : t.pages = w.pages := by rw [hfr]
  have hP := hpg.of_pages hup htp
  obtain ⟨hel, hother⟩ := hP.elem
  obtain ⟨y1, y2, y3, y4, y5, y6, y7, y8, y9⟩ := (s.elem p e).fired_spec f o0 o1
  have hwbay (b : Nat) : w.bay b = s.bay b := by rw [State.bay, hwb, State.bay]
  have hwreq (a : AgentId) : w.req a = s.req a := by rw [State.req, hwr, State.req]
  simp only [Claims.Fired, hel]
  refine ⟨⟨?_, fun a => ?_, fun b => ?_, fun a => ?_, hP.others, ?_, hother⟩, y1, y2, fun h0 => ?_, fun i hi => ?_,
    fun j hj => ?_, y4, y5, ⟨o0, h0, y6, y7⟩, ⟨o1, h1, y8, y9⟩, fun k tl _ hm hun => hP.tile k tl hm hun, fun z k hz hk hd => ?_⟩
  · rw [hfr, hw, hu]
  · rw [← hwreq]
    exact hrd a
  · rw [← hwbay]
    exact hby b
  · rw [hfr, hw, hu]
  · have hpp := hP.page
    have hee : (t.page p).elems = fput (s.page p).elems e ((s.elem p e).fired f o0 o1) := by rw [hpp]
    rw [hee]
    exact hpp
  · rw [(hacq h0).1, (hacq h0).2]
    exact ⟨hwb, hwr⟩
  · have hsub : 37 + i - 37 = i := by omega
    rw [y3, hsub]
    have hc : (37 ≤ 37 + i ∧ 37 + i < 41 ∧ f.eats.testBit i = true) ↔ f.eats.testBit i = true :=
      ⟨fun h => h.2.2, fun h => ⟨by omega, by omega, h⟩⟩
    simp only [hc]
  · have hc : ¬ (37 ≤ j ∧ j < 41 ∧ f.eats.testBit (j - 37) = true) := fun h => by omega
    rw [y3, if_neg hc]
    rfl
  · refine hP.kept z k fun v hv hkey => ?_
    rcases hd with ⟨hze, hlt⟩ | hnil
    · have := hlt v hv
      omega
    · rw [hnil] at hv
      cases hv

/-- Settles O34: each operation fires under the one rule, and a firing is carried out part by part. -/
theorem elementFirings : Obligations.ElementFirings := by
  intro s p e opc i plan hi _
  have hx : exec i s = fireOp opc plan p e s := exec_of_firings s p e _ hi
  refine ⟨fun hl => ⟨fun f hf hr hs => ⟨_, ?_, fired_applyFire f hs⟩, fun f hf hr => ?_, fun b dry hw => ?_, fun hb => ?_, fun hf => ?_,
    fun c hc => ?_⟩, fun hn => ?_⟩
  · simp only [hx, fireOp, hl, hf, hr, if_true]
  · simp only [hx, fireOp, hl, hf, hr, if_true, Bool.false_eq_true, if_false]
  · simp only [hx, fireOp, hl, hw, if_true]
  · simp only [hx, fireOp, hl, hb, if_true]
  · simp only [hx, fireOp, hl, hf, if_true]
    rfl
  · simp only [hx, fireOp, hl, hc, if_true]
    rfl
  · have hl : s.elemLive p e opc = false := by
      rcases hn with h | h | h | h <;> simp [State.elemLive, h]
    simp only [hx, fireOp, hl, Bool.false_eq_true, if_false]

end Sys2Proof
end

section
/-! SUPPORT. What tearing trusses down and completing launches leaves of the pages and of the places of the trusses. -/

namespace Sys2Proof.Machine

open Sys2Proof.Claims

/-- A fold leaves what is read of the state as it was where each of its steps does. -/
theorem foldl_same {α β : Type} (π : State → β) {f : State → α → State} (hf : ∀ s x, π (f s x) = π s) (l : List α)
    (s : State) : π (l.foldl f s) = π s := by
  induction l generalizing s with
  | nil => rfl
  | cons x t ih => exact (ih _).trans (hf s x)

/-- What the map holds after a change of one key. -/
theorem fget_fmod {α : Type} (m : FMap α) (k j : Nat) (f : α → α) :
    fget (fmod m k f) j = if k = j then (fget m j).map f else fget m j := by
  induction m with
  | nil => simp [fmod, fget]
  | cons x t ih =>
    by_cases hk : x.1 = k <;> by_cases hj : x.1 = j <;> by_cases hkj : k = j <;> simp_all [fmod, fget]

/-- Where a truss stands, and of which launch it is. -/
def Truss.place (x : Truss) : Nat × Nat × Nat × Nat × Nat × Nat × Nat :=
  (x.launch, x.ix, x.row, x.col, x.h, x.w, x.part)

/-- The time, the status and truss of every page, and where each truss stands. -/
def State.skel (s : State) : Nat × (Nat → PageStatus × Nat) × (Nat → Option (Nat × Nat × Nat × Nat × Nat × Nat × Nat)) :=
  (s.now, fun p => ((s.page p).status, (s.page p).truss), fun id => (fget s.trusses id).map Truss.place)

theorem State.skel_status {s t : State} (h : t.skel = s.skel) (p : Nat) : (t.page p).status = (s.page p).status :=
  congrArg (fun z => (z.2.1 p).1) h

theorem State.skel_gone {s t : State} (h : t.skel = s.skel) {id : Nat} (hs : fget s.trusses id = none) :
    fget t.trusses id = none := by
  have he : (fget t.trusses id).map Truss.place = (fget s.trusses id).map Truss.place := congrArg (fun z => z.2.2 id) h
  rwa [hs, Option.map_none, Option.map_eq_none_iff] at he

theorem State.skel_place {s t : State} (h : t.skel = s.skel) {id : Nat} {x : Truss} (hs : fget s.trusses id = some x) :
    ∃ y, fget t.trusses id = some y ∧ y.place = x.place := by
  have he : (fget t.trusses id).map Truss.place = (fget s.trusses id).map Truss.place := congrArg (fun z => z.2.2 id) h
  rw [hs] at he
  exact Option.map_eq_some_iff.1 he

@[simp] theorem State.modCore_skel (s : State) (p : Nat) (f : Core → Core) : (s.modCore p f).skel = s.skel := by
  have h : (fun q => (((s.modCore p f).page q).status, ((s.modCore p f).page q).truss))
      = fun q => ((s.page q).status, (s.page q).truss) := by
    funext q
    by_cases hq : q = p
    · subst hq
      rw [State.modCore, State.page_setPage]
    · rw [State.modCore, State.page_setPage_other hq]
  exact congrArg (fun z => (s.now, z, fun id => (fget s.trusses id).map Truss.place)) h

/-- A change of one truss that leaves it where it stands. -/
theorem State.modTruss_skel (s : State) (id : Nat) {f : Truss → Truss} (hf : ∀ x, (f x).place = x.place) :
    ({ s with trusses := fmod s.trusses id f } : State).skel = s.skel := by
  have h : (fun j => (fget (fmod s.trusses id f) j).map Truss.place) = fun j => (fget s.trusses j).map Truss.place := by
    funext j
    rw [fget_fmod]
    split
    · rw [Option.map_map]
      exact congrArg (fun g => (fget s.trusses j).map g) (funext hf)
    · rfl
  exact congrArg (fun z => (s.now, (fun p => ((s.page p).status, (s.page p).truss)), z)) h

theorem State.putTruss_skel {s : State} {id : Nat} {x y : Truss} (hx : fget s.trusses id = some x) (hy : y.place = x.place) :
    ({ s with trusses := fput s.trusses id y } : State).skel = s.skel := by
  have h : (fun j => (fget (fput s.trusses id y) j).map Truss.place) = fun j => (fget s.trusses j).map Truss.place := by
    funext j
    by_cases hj : j = id
    · subst hj
      rw [fget_fput_same, hx, Option.map_some, Option.map_some, hy]
    · rw [fget_fput_other hj]
  exact congrArg (fun z => (s.now, (fun p => ((s.page p).status, (s.page p).truss)), z)) h

/-- A fold keeps the skeleton where each of its steps does. -/
@[simp] theorem foldl_skel {α : Type} {f : State → α → State} (hf : ∀ s x, (f s x).skel = s.skel) (l : List α) (s : State) :
    (l.foldl f s).skel = s.skel := foldl_same State.skel hf l s

theorem snd_skel {α : Type} {z : α × State} {a : α} {t : State} (e : z = (a, t)) : t.skel = z.2.skel := by rw [e]

@[simp] theorem State.stopTruss_skel (s : State) (t : Nat) : (s.stopTruss t).skel = s.skel := by
  unfold State.stopTruss
  split
  · rfl
  · rename_i x hx
    split
    · rfl
    · have ht : ((s.heldPages t x).foldl (fun s p => s.modCore p Core.askStop) s).trusses = s.trusses :=
        foldl_same State.trusses (fun u p => State.modCore_trusses u p _) _ _
      dsimp only
      refine (State.putTruss_skel (x := x) (y := { x with state := .stopping, request := true }) (by rw [ht, hx]) rfl).trans ?_
      exact foldl_skel (fun _ _ => State.modCore_skel ..) _ _

theorem ite_skel {c : Prop} [Decidable c] {s a b : State} (ha : a.skel = s.skel) (hb : b.skel = s.skel) :
    (if c then a else b).skel = s.skel := by
  split
  · exact ha
  · exact hb

theorem State.setBay_skel (s : State) (b : Nat) (x : Bay) : (s.setBay b x).skel = s.skel := rfl

@[simp] theorem State.setPart_skel (s : State) (p : Nat) (x : Partition) : (s.setPart p x).skel = s.skel := rfl

@[simp] theorem State.setReq_skel (s : State) (a : AgentId) (r : Requester) : (s.setReq a r).skel = s.skel := rfl

theorem State.raiseVf_skel (s : State) (n v : Nat) : (s.raiseVf n v).skel = s.skel := rfl

@[simp] theorem State.meter_skel (s : State) (p m k : Nat) : (s.meter p m k).skel = s.skel := by
  unfold State.meter
  split <;> rfl

@[simp] theorem State.meterBlock_skel (s : State) (part : Nat) (wr : Bool) (n : Nat) (p : Phys) :
    (s.meterBlock part wr n p).skel = s.skel := by
  unfold State.meterBlock
  split
  · simp
  · simp
  · rfl

@[simp] theorem State.stopLaunch_skel (s : State) (l : Nat) : (s.stopLaunch l).skel = s.skel :=
  foldl_skel State.stopTruss_skel _ s

@[simp] theorem State.failLaunch_skel (s : State) (l code : Nat) (detail : Word) :
    (s.failLaunch l code detail).skel = s.skel := by
  unfold State.failLaunch
  split
  · rfl
  · split <;> rfl

@[simp] theorem State.pokeBlock_skel (s : State) (p : Phys) (l : List Byte) : (s.pokeBlock p l).skel = s.skel := rfl

theorem State.t0WriteAux_skel {part n a : Nat} {l : List Byte} {s t : State}
    (e : State.t0WriteAux part n a l s = some t) : t.skel = s.skel := by
  induction n generalizing a l s with
  | zero => cases e; rfl
  | succ n ih =>
    unfold State.t0WriteAux at e
    dsimp only at e
    split at e
    · cases e; rfl
    · split at e
      · cases e
      · exact (ih e).trans ((State.meterBlock_skel ..).trans (State.pokeBlock_skel ..))

theorem State.t0Write_skel {s t : State} {part addr : Nat} {l : List Byte} (e : s.t0Write part addr l = some t) :
    t.skel = s.skel := State.t0WriteAux_skel e

@[simp] theorem State.t0Put_skel (s : State) (part addr n v : Nat) : (s.t0Put part addr n v).skel = s.skel := by
  unfold State.t0Put
  cases e : s.t0Write part addr (toBytes n v) with
  | none => rfl
  | some u => exact State.t0Write_skel e

@[simp] theorem State.send_skel (s : State) (k : Packet) : (s.send k).skel = s.skel := rfl

@[simp] theorem State.tearRequester_skel (s : State) (a : AgentId) : (s.tearRequester a).skel = s.skel := by
  have hsent : ((s.req a).kept.foldl (fun s k => s.send (k.abandon a)) s).skel = s.skel :=
    foldl_skel (fun _ _ => State.send_skel ..) _ _
  unfold State.tearRequester
  exact (foldl_skel (fun _ _ => State.setBay_skel ..) _ _).trans hsent

@[simp] theorem State.refSlot_skel (s : State) (part slot : Nat) : (s.refSlot part slot).skel = s.skel := by
  unfold State.refSlot
  split <;> rfl

@[simp] theorem State.unrefSlot_skel (s : State) (part slot : Nat) : (s.unrefSlot part slot).skel = s.skel := by
  unfold State.unrefSlot
  split
  · rfl
  · dsimp only
    split
    · split <;> rfl
    · rfl

@[simp] theorem State.refCmd_skel (s : State) (op : Nat) (d : List Byte) (part : Nat) (take : Bool) :
    (s.refCmd op d part take).skel = s.skel := by
  unfold State.refCmd
  refine (foldl_skel (fun u z => ?_) _ _).trans ?_
  · split <;> simp
  · rfl

@[simp] theorem State.restall_skel (s : State) (a : AgentId) (st : Option Stall) : (s.restall a st).skel = s.skel := by
  unfold State.restall
  dsimp only
  rw [State.setReq_skel]
  split
  · exact State.modCore_skel ..
  · rfl

@[simp] theorem State.feedStarved_skel (part n : Nat) (s : State) : (State.feedStarved part n s).skel = s.skel := by
  induction n generalizing s with
  | zero => rfl
  | succ n ih =>
    unfold State.feedStarved
    dsimp only
    split
    · rfl
    · split
      · simp [ih]
      · split
        · simp [ih]
        · split
          · rfl
          · simp [ih]

@[simp] theorem State.givePanels_skel (s : State) (part : Nat) (l : List Nat) :
    (s.givePanels part l).skel = s.skel := by
  unfold State.givePanels
  rw [State.feedStarved_skel]
  rfl

@[simp] theorem State.modQueue_skel (s : State) (k : Nat) (f : Queue → Queue) : (s.modQueue k f).skel = s.skel := rfl

@[simp] theorem State.reportCtr_skel (s : State) (part ctr status code : Nat) (detail : Word) :
    (s.reportCtr part ctr status code detail).skel = s.skel := by
  unfold State.reportCtr
  split
  · rfl
  · simp

@[simp] theorem State.writeRecords_skel (k n : Nat) (s : State) : (State.writeRecords k n s).skel = s.skel := by
  induction n generalizing s with
  | zero => rfl
  | succ n ih =>
    have hw (a : Nat) (l : List Byte) : ((s.t0Write (s.queuePart k) a l).getD s).skel = s.skel := by
      cases e : s.t0Write (s.queuePart k) a l with
      | none => rfl
      | some u => exact State.t0Write_skel e
    unfold State.writeRecords
    split
    · rfl
    · split
      · rfl
      · split
        · rfl
        · refine (ih _).trans ?_
          split
          · exact (State.raiseVf_skel ..).trans ((State.modQueue_skel ..).trans (hw _ _))
          · exact (State.modQueue_skel ..).trans (hw _ _)

@[simp] theorem State.flushRecords_skel (s : State) (k : Nat) : (s.flushRecords k).skel = s.skel := by
  unfold State.flushRecords
  simp

@[simp] theorem State.doneItem_skel (s : State) (k n status code : Nat) (detail : Word) :
    (s.doneItem k n status code detail).skel = s.skel := by
  unfold State.doneItem
  split
  · rfl
  · simp

@[simp] theorem State.settleItems_skel (k : Nat) (l : List Item) (s : State) :
    (State.settleItems k l s).skel = s.skel := by
  induction l generalizing s with
  | nil => rfl
  | cons i t ih =>
    unfold State.settleItems
    refine (ih _).trans ?_
    split
    · rfl
    · split
      · simp
      · split <;> simp

@[simp] theorem State.settle_skel (s : State) (k : Nat) : (s.settle k).skel = s.skel := by
  unfold State.settle
  simp

@[simp] theorem State.finishItem_skel (s : State) (k n status code : Nat) (detail : Word) :
    (s.finishItem k n status code detail).skel = s.skel := by
  unfold State.finishItem
  simp

@[simp] theorem State.modJob_skel (s : State) (part b : Nat) (f : Job → Job) : (s.modJob part b f).skel = s.skel := rfl

theorem State.arrive1_skel {s : State} {part job : Nat} {ids : List Nat} {t : State} (e : s.arrive1 part job ids = some t) :
    t.skel = s.skel := by
  unfold State.arrive1 at e
  dsimp only at e
  split at e
  · cases e
  · cases e
    simp

@[simp] theorem State.noteArrived_skel (s : State) (id : Nat) (l : Launch) : (s.noteArrived id l).skel = s.skel := by
  unfold State.noteArrived
  split <;> rfl

@[simp] theorem State.tryArrive_skel (s : State) (id : Nat) : (s.tryArrive id).skel = s.skel := by
  unfold State.tryArrive
  split
  · rfl
  · split
    · rfl
    · dsimp only
      split
      · rfl
      · split
        · rename_i x t e
          have ht : t.skel = s.skel := State.arrive1_skel e
          simp [ht]
        · simp

@[simp] theorem State.leaveJob_skel (s : State) (id : Nat) (l : Launch) : (s.leaveJob id l).2.skel = s.skel := by
  unfold State.leaveJob
  split
  · rfl
  · split
    · simp
    · split
      · split
        · rename_i x t e
          have ht : t.skel = s.skel := State.arrive1_skel e
          dsimp only
          split
          · rfl
          · simp [ht]
        · dsimp only
          split <;> rfl
      · split
        · rename_i x t e
          have ht : t.skel = s.skel := State.arrive1_skel e
          dsimp only
          split
          · rfl
          · simp [ht]
        · dsimp only
          split <;> rfl

@[simp] theorem State.leavePhase_skel (s : State) (pid job n status : Nat) :
    (s.leavePhase pid job n status).skel = s.skel := by
  unfold State.leavePhase
  refine (foldl_skel (fun u z => State.finishItem_skel u _ _ _ _ _) _ _).trans ?_
  refine (foldl_skel (fun u id => ?_) _ _).trans rfl
  refine (foldl_skel (fun v z => ?_) _ _).trans rfl
  refine (foldl_skel (fun w p => State.modCore_skel w p _) _ _).trans ?_
  exact State.modTruss_skel v z.1 fun _ => rfl

@[simp] theorem State.endPhases_skel (s : State) (pid job k : Nat) : (s.endPhases pid job k).skel = s.skel := by
  unfold State.endPhases
  simp

@[simp] theorem State.settleJob_skel (s : State) (pid job : Nat) : (s.settleJob pid job).skel = s.skel := by
  unfold State.settleJob
  split
  · rfl
  · split
    · rfl
    · simp

@[simp] theorem State.retire_skel (s : State) (part : Nat) (f : AgentId → Bool) :
    (s.retire part f).skel = s.skel := rfl

@[simp] theorem State.cancelCmd_skel (s : State) (g : Nat) (c : EngCmd) (running : Bool) :
    (s.cancelCmd g c running).skel = s.skel := by
  unfold State.cancelCmd
  dsimp only
  generalize hu : (if running = true then (s.tearRequester (engAgent g)).retire c.part _ else s) = u
  have hu : u.skel = s.skel := by
    rw [← hu]
    exact ite_skel ((State.retire_skel ..).trans (State.tearRequester_skel ..)) rfl
  generalize hv : (if c.bytes.isEmpty = true then u else u.refCmd c.op c.bytes c.part false) = v
  have hv : v.skel = s.skel := by
    rw [← hv]
    exact ite_skel hu ((State.refCmd_skel ..).trans hu)
  split
  · exact (State.modCore_skel ..).trans hv
  · exact hv

@[simp] theorem State.cancelOn_skel (s : State) (f : EngCmd → Bool) (g : Nat) : (s.cancelOn f g).skel = s.skel := by
  unfold State.cancelOn
  refine Eq.trans (b := State.skel (List.foldl _ s _)) rfl (foldl_skel (fun u z => ?_) _ s)
  split
  · exact State.cancelCmd_skel ..
  · rfl

@[simp] theorem State.cancelCmds_skel (s : State) (f : EngCmd → Bool) : (s.cancelCmds f).skel = s.skel := by
  unfold State.cancelCmds
  simp

@[simp] theorem State.dropAgents_skel (s : State) (p : Nat) : (s.dropAgents p).skel = s.skel := by
  unfold State.dropAgents
  simp

@[simp] theorem State.dropView_skel (s : State) (part view : Nat) (pages : List Nat) :
    (s.dropView part view pages).skel = s.skel := by
  unfold State.dropView
  split
  · rfl
  · rw [State.givePanels_skel]
    rfl

@[simp] theorem State.unrefView_skel (s : State) (part view : Nat) : (s.unrefView part view).skel = s.skel := by
  unfold State.unrefView
  split
  · rfl
  · simp

@[simp] theorem State.freeTag_skel (s : State) (part v : Nat) : (s.freeTag part v).skel = s.skel := by
  unfold State.freeTag
  split
  · rfl
  · split
    · rfl
    · simp

@[simp] theorem State.putOutst_skel (s : State) (part ctr n : Nat) : (s.putOutst part ctr n).skel = s.skel := by
  unfold State.putOutst
  split
  · rfl
  · simp

@[simp] theorem State.dropLinks_skel (s : State) (dead : Link → Bool) : (s.dropLinks dead).skel = s.skel := by
  unfold State.dropLinks
  refine (foldl_skel (fun u z => ?_) _ _).trans ?_
  · rfl
  · refine (foldl_skel (fun u z => ?_) _ _).trans ?_
    · simp
    · rfl

@[simp] theorem State.settleGraph_skel (s : State) (g : Nat) : (s.settleGraph g).skel = s.skel := by
  unfold State.settleGraph
  split
  · rfl
  · split
    · rw [State.finishItem_skel]
      rw [State.dropLinks_skel]
      rfl
    · rfl

@[simp] theorem State.nodeDone_skel (s : State) (g m : Nat) (o : Nat × Nat × Word) :
    (s.nodeDone g m o).skel = s.skel := by
  unfold State.nodeDone
  split
  · rfl
  · rw [State.settleGraph_skel]
    rw [State.putOutst_skel]
    rfl

@[simp] theorem State.finishLaunch_skel (s : State) (id : Nat) : (s.finishLaunch id).skel = s.skel := by
  unfold State.finishLaunch
  split
  · rfl
  · rename_i l _
    have hleft : (s.leaveJob id l).2.skel = s.skel := State.leaveJob_skel s id l
    dsimp only
    generalize hu : State.settleJob .. = u
    have hu : u.skel = s.skel := by rw [← hu]; exact (State.settleJob_skel ..).trans hleft
    split
    · exact (State.finishItem_skel ..).trans ((State.dropLinks_skel ..).trans hu)
    · exact (State.nodeDone_skel ..).trans ((State.reportCtr_skel ..).trans hu)

@[simp] theorem State.settleLaunch_skel (s : State) (id : Nat) : (s.settleLaunch id).skel = s.skel := by
  unfold State.settleLaunch
  split
  · rfl
  · dsimp only
    split
    · refine (State.finishLaunch_skel ..).trans ((State.putOutst_skel ..).trans ?_)
      refine Eq.trans (b := State.skel (List.foldl _ s _)) rfl (foldl_skel (fun u z => ?_) _ s)
      exact foldl_skel (fun v k => State.freeTag_skel ..) _ u
    · rfl

@[simp] theorem State.countOut_skel (s : State) (id : Nat) : (s.countOut id).skel = s.skel := by
  unfold State.countOut
  dsimp only
  split
  · rfl
  · rw [State.settleLaunch_skel]
    split
    · rw [State.putOutst_skel]
      rfl
    · rw [State.tryArrive_skel]
      rw [State.putOutst_skel]
      rfl

/-! ### What placing leaves of the trusses and launches -/

/-- The trusses and the launches. -/
def State.roster (s : State) : FMap Truss × FMap Launch := (s.trusses, s.launches)

theorem State.roster_trusses {s t : State} (h : t.roster = s.roster) : t.trusses = s.trusses := congrArg Prod.fst h

theorem State.roster_launches {s t : State} (h : t.roster = s.roster) : t.launches = s.launches := congrArg Prod.snd h

theorem foldl_roster {α : Type} {f : State → α → State} (hf : ∀ s x, (f s x).roster = s.roster) (l : List α) (s : State) :
    (l.foldl f s).roster = s.roster := foldl_same State.roster hf l s

theorem snd_roster {α : Type} {z : α × State} {a : α} {t : State} (e : z = (a, t)) : t.roster = z.2.roster := by rw [e]

theorem State.markFaulted_roster (s : State) (p e : Nat) : (s.markFaulted p e).roster = s.roster := rfl

theorem State.setPage_roster (s : State) (p : Nat) (pg : Page) : (s.setPage p pg).roster = s.roster := rfl

theorem State.modCore_roster (s : State) (p : Nat) (f : Core → Core) : (s.modCore p f).roster = s.roster := rfl

theorem State.modElem_roster (s : State) (p e : Nat) (f : Elem → Elem) : (s.modElem p e f).roster = s.roster := rfl

theorem State.enterHop_roster (s : State) (p e f : Nat) (t : Token) : (s.enterHop p e f t).roster = s.roster := by
  unfold State.enterHop
  dsimp only
  split <;> rfl

theorem applyControl_roster {by_ : CwBy} {p e f v : Nat} {s t : State} (e' : applyControl by_ p e f v s = .ok t) :
    t.roster = s.roster := by
  unfold applyControl at e'
  dsimp only at e'
  split at e'
  case h_5 => cases e'
  all_goals
    split at e'
    · cases e'
      rfl
    · cases e'

theorem applyBinding_roster {img : Image} {p ix e f v : Nat} {s t : State} (e' : applyBinding img p ix e f v s = .ok t) :
    t.roster = s.roster := by
  unfold applyBinding at e'
  split at e'
  · split at e' <;> cases e'
    rfl
  · cases e'

theorem applyInjection_roster {img : Image} {p e f v inj : Nat} {s t : State}
    (e' : applyInjection img p e f v inj s = .ok t) : t.roster = s.roster := by
  unfold applyInjection at e'
  split at e'
  · dsimp only at e'
    split at e'
    · cases e'
    · split at e' <;> cases e'
      exact State.enterHop_roster ..
  · cases e'

theorem applyAt_roster {by_ : CwBy} {img : Image} {p ix : Nat} {w : Word32} {inj : Nat} {s t : State}
    (e : applyAt by_ img p ix w inj s = .ok t) : t.roster = s.roster := by
  unfold applyAt at e
  dsimp only at e
  split at e
  · split at e <;> cases e
    rfl
  · split at e
    · cases e
    · exact applyBinding_roster e
  · split at e
    · cases e
    · exact applyInjection_roster e
  · exact applyControl_roster e

/-- A configuration word, and what it leaves of the element that it names, change no truss and no launch. -/
theorem applyWord_roster (by_ : CwBy) (img : Image) (t : Truss) (w : Word32) (inj : Nat) (s : State) :
    (applyWord by_ img t w inj s).2.roster = s.roster ∧
      ∀ u, (applyWord by_ img t w inj s).1 = .ok u → u.roster = s.roster := by
  unfold applyWord
  split
  · exact ⟨rfl, fun _ e => CwRes.noConfusion e⟩
  · split
    · rename_i v e
      have hv : v.roster = s.roster := applyAt_roster e
      refine ⟨(State.modElem_roster ..).trans hv, fun u e' => ?_⟩
      cases e'
      exact (State.modElem_roster ..).trans hv
    · exact ⟨State.markFaulted_roster .., fun _ e => CwRes.noConfusion e⟩
    · exact ⟨rfl, fun u e => applyAt_roster e⟩

@[simp] theorem State.judgeUnit_roster (s : State) (t : Truss) (by_ : CwBy) : (s.judgeUnit t by_).2.roster = s.roster := by
  unfold State.judgeUnit
  dsimp only
  refine (foldl_roster (fun u z => ?_) _ _).trans ?_
  · rfl
  · refine foldl_roster (fun _ _ => ?_) _ _
    rfl

@[simp] theorem applyUnit_roster (by_ : CwBy) (img : Image) (t : Truss) (ws : List Word32) (done : List (Nat × Nat))
    (s : State) : (applyUnit by_ img t ws done s).2.roster = s.roster := by
  induction ws generalizing done s with
  | nil => exact State.judgeUnit_roster s t by_
  | cons w ws ih =>
    obtain ⟨h2, h1⟩ := applyWord_roster by_ img t w (done.filter fun k => k == (cwElem w, cwField w)).length s
    unfold applyUnit
    dsimp only
    split
    · rename_i u v e
      have hu : u.roster = s.roster := h1 u (by rw [e])
      exact (ih _ _).trans hu
    · rename_i e
      exact (State.judgeUnit_roster _ t by_).trans ((snd_roster e).trans h2)

theorem State.setShims_roster (s : State) (t : Truss) (img : Image) : (s.setShims t img).roster = s.roster :=
  foldl_roster (fun _ _ => State.setPage_roster ..) _ _

theorem State.bringUp_roster (s : State) (tid : Nat) (t : Truss) (img : Image) :
    (s.bringUp tid t img).2.roster = s.roster := by
  unfold State.bringUp
  refine (State.setShims_roster ..).trans ((foldl_roster (fun _ _ => State.setPage_roster ..) _ _).trans ?_)
  exact (applyUnit_roster ..).trans (foldl_roster (fun _ _ => State.setPage_roster ..) _ _)

theorem State.makeLinks_roster (s : State) (id : Nat) (l : Launch) (tid ix : Nat) :
    (s.makeLinks id l tid ix).roster = s.roster := by
  unfold State.makeLinks
  refine foldl_roster (fun u e => ?_) _ _
  split
  · dsimp only
    split <;> rfl
  · split <;> rfl

theorem State.startTruss_roster (s : State) (l : Launch) (z : Nat × Truss) : (s.startTruss l z).roster = s.roster := by
  unfold State.startTruss
  split
  · rfl
  · exact foldl_roster (fun _ _ => State.modCore_roster ..) _ _

end Sys2Proof.Machine
end

section
/-! SUPPORT. Trusses: how they are placed and ended, and what the end of one does to its pages. -/

namespace Sys2Proof.Machine

open Sys2Proof.Claims

/-! ### Ending -/

theorem State.heldPages_of_skel {s t : State} (h : t.skel = s.skel) (id : Nat) (x : Truss) :
    t.heldPages id x = s.heldPages id x := by
  have hp : (fun p => ((t.page p).status, (t.page p).truss)) = fun p => ((s.page p).status, (s.page p).truss) :=
    congrArg (fun z => z.2.1) h
  unfold State.heldPages
  refine List.filter_congr fun p _ => ?_
  have he := congrFun hp p
  rw [(Prod.mk.inj he).1, (Prod.mk.inj he).2]

/-- A page that is released is being scrubbed; no other page's status changes. -/
theorem State.releasePage_status (s : State) (p q : Nat) :
    ((s.releasePage p).page q).status = if q = p then .scrubbing s.now else (s.page q).status := by
  have hd : (s.dropAgents p).skel = s.skel := State.dropAgents_skel s p
  unfold State.releasePage
  by_cases h : q = p
  · subst h
    rw [if_pos rfl, State.page_setPage, Page.scrubbing, show (s.dropAgents q).now = s.now from congrArg (fun z => z.1) hd]
  · rw [if_neg h, State.page_setPage_other h, State.skel_status hd]

theorem State.releasePage_now (s : State) (p : Nat) : (s.releasePage p).now = s.now :=
  congrArg (fun z => z.1) (State.dropAgents_skel s p)

theorem State.releasePages_status (l : List Nat) (s : State) (q : Nat) :
    ((l.foldl State.releasePage s).page q).status = if q ∈ l then .scrubbing s.now else (s.page q).status := by
  induction l generalizing s with
  | nil => rfl
  | cons p l ih =>
    rw [List.foldl_cons, ih, State.releasePage_now, State.releasePage_status]
    by_cases hl : q ∈ l <;> by_cases hp : q = p <;> simp [hl, hp]

/-- A truss that is torn down and that is not being moved is gone, and the pages it held are being scrubbed. -/
theorem State.tearTruss_gone {s : State} {id : Nat} {x : Truss} (hx : fget s.trusses id = some x)
    (hm : (s.move.map Move.truss) ≠ some id) : fget (s.tearTruss id).trusses id = none
      ∧ ∀ p ∈ s.heldPages id x, ((s.tearTruss id).page p).status = .scrubbing s.now := by
  have hc : (s.cancelCmds fun c => c.truss == id).skel = s.skel := State.cancelCmds_skel s _
  unfold State.tearTruss
  rw [hx]
  simp only [if_neg hm, State.heldPages_of_skel hc]
  refine ⟨fget_fdel_same _ _, fun p hp => ?_⟩
  refine (State.releasePages_status _ _ p).trans ?_
  rw [if_pos hp, show (s.cancelCmds fun c => c.truss == id).now = s.now from congrArg (fun z => z.1) hc]

theorem State.copying_of_not_moving {s : State} {id : Nat} (hm : (s.move.map Move.truss) ≠ some id) :
    s.copying id = false := by
  unfold State.copying
  cases h : s.move with
  | none => rfl
  | some m =>
    have : m.truss ≠ id := fun e => hm (by rw [h, Option.map_some, e])
    simp [this]

theorem trussEnd_ends {s : State} {id : Nat} {x : Truss} (hx : fget s.trusses id = some x)
    (hm : (s.move.map Move.truss) ≠ some id) (hf : x.fork = none) :
    exec (.trussEnd id) s = .next (if (x.state = .running ∧ x.cores = 0 ∧ s.heldPages id x ≠ []
        ∧ (∀ p ∈ s.heldPages id x, (s.page p).quiet = true) ∧ s.trussQuiet id (s.heldPages id x) = true)
      ∨ (x.state = .stopping ∧ (x.failure = true ∨ ∀ p ∈ s.heldPages id x, s.coreHalted p = true))
      then (s.tearTruss id).countOut x.launch else s) := by
  show execTrussEnd id s = _
  unfold execTrussEnd
  rw [hx]
  simp only [hf, State.copying_of_not_moving hm]
  refine congrArg Host.Outcome.next (if_congr ?_ rfl rfl)
  simp [and_assoc]

/-- A memory write through a partition's view changes memory and meters alone. -/
theorem State.t0WriteAux_roster {part n a : Nat} {l : List Byte} {s t : State}
    (e : State.t0WriteAux part n a l s = some t) : t.roster = s.roster ∧ t.pages = s.pages := by
  induction n generalizing a l s with
  | zero => cases e; exact ⟨rfl, rfl⟩
  | succ n ih =>
    unfold State.t0WriteAux at e
    dsimp only at e
    split at e
    · cases e; exact ⟨rfl, rfl⟩
    · split at e
      · cases e
      · rename_i p _
        obtain ⟨hr, hp⟩ := ih e
        have hm (u : State) (k : Nat) : (u.meterBlock part true k p).roster = u.roster
            ∧ (u.meterBlock part true k p).pages = u.pages := by
          unfold State.meterBlock
          split
          · rw [State.meter_frame]; exact ⟨rfl, rfl⟩
          · rw [State.meter_frame]; exact ⟨rfl, rfl⟩
          · exact ⟨rfl, rfl⟩
        exact ⟨hr.trans ((hm _ _).1.trans rfl), hp.trans ((hm _ _).2.trans rfl)⟩

theorem State.putEvent_roster {s t : State} {n : Nat} {e : Event} (h : s.putEvent n e = some t) :
    t.roster = s.roster ∧ t.pages = s.pages := by
  unfold State.putEvent at h
  dsimp only at h
  split at h
  · cases h
  · split at h
    · cases h
    · split at h
      · cases h
      · rename_i u hu
        cases h
        obtain ⟨hr, hp⟩ := State.t0WriteAux_roster hu
        exact ⟨hr, hp⟩

theorem State.sendEvent_roster (s : State) (n : Nat) (e : Event) :
    (s.sendEvent n e).2.roster = s.roster ∧ (s.sendEvent n e).2.pages = s.pages := by
  unfold State.sendEvent
  dsimp only
  split
  · exact ⟨rfl, rfl⟩
  · split
    · rename_i t ht
      split at ht
      · exact State.putEvent_roster ht
      · cases ht
    · split
      · exact ⟨rfl, rfl⟩
      · split <;> exact ⟨rfl, rfl⟩

theorem priorityAging_spec {s : State} {id : Nat} {l : Launch} (hl : fget s.launches id = some l) :
    (l.placed < l.ntruss → l.since + 1600000 ≤ s.now → l.prio < 3 → ∃ t l', exec (.priorityAging id) s = .next t
      ∧ t = { s with launches := t.launches } ∧ fget t.launches id = some l' ∧ l'.prio = l.prio + 1
      ∧ l'.since = l.since + 1600000)
    ∧ (s.now < l.since + 1600000 ∨ 3 ≤ l.prio → exec (.priorityAging id) s = .next s) := by
  have he : exec (.priorityAging id) s = execPriorityAging id s := rfl
  simp only [he, execPriorityAging, hl]
  have hms : oneMs = 1600000 := rfl
  constructor
  · intro hp hs h3
    simp only [hp, hms ▸ hs, h3, decide_true, Bool.true_or, Bool.and_self, if_true]
    exact ⟨_, _, rfl, rfl, fget_fput_same _ _ _, rfl, rfl⟩
  · intro h
    rw [if_neg]
    simp only [Bool.and_eq_true, decide_eq_true_eq]
    omega

theorem pageScrub_spec {s : State} {p since : Nat} (hp : (s.page p).status = .scrubbing since) :
    ((s.req (pageAgent p 0 0)).allAcked = true → ∃ t, exec (.pageScrub p) s = .next t ∧ t.page p = Page.reset
      ∧ t.mem = s.mem ∧ ∀ n, n ≠ p → t.page n = s.page n)
    ∧ ((s.req (pageAgent p 0 0)).allAcked = false → exec (.pageScrub p) s = .next s) := by
  have he : exec (.pageScrub p) s = execPageScrub p s := rfl
  simp only [he, execPageScrub, hp]
  constructor
  · intro ha
    rw [ha]
    refine ⟨_, rfl, ?_, rfl, fun n hn => ?_⟩
    · exact congrArg (Option.getD · Page.reset) (fget_fdel_same s.pages p)
    · exact congrArg (Option.getD · Page.reset) (fget_fdel_other hn)
  · intro ha
    rw [ha]
    rfl

theorem fabstall_spec {s : State} {id : Nat} {x : Truss} (hx : fget s.trusses id = some x) :
    (x.stallFc < 2 ^ 20 ∨ x.armed = false → exec (.fabstall id) s = .next s)
    ∧ (2 ^ 20 ≤ x.stallFc → x.armed = true → ∃ t, exec (.fabstall id) s = .next t ∧ t.pages = s.pages
      ∧ fget t.trusses id = some { x with armed := false }) := by
  have he : exec (.fabstall id) s = execFabstall id s := rfl
  simp only [he, execFabstall, hx]
  refine ⟨fun h => by rw [if_pos h], fun hs ha => ?_⟩
  rw [if_neg (by rw [ha]; simpa using hs)]
  refine ⟨_, rfl, (State.sendEvent_roster _ _ _).2, ?_⟩
  rw [State.roster_trusses (State.sendEvent_roster _ _ _).1]
  exact fget_fput_same _ _ _

theorem State.refuseFork_forks (s : State) (f : Nat) (k : Fork) (v : Word) :
    fget (s.refuseFork f k v).forks f = none := by
  have hk : (s.refuseFork f k v).forks = fdel s.forks f :=
    foldl_same State.forks (fun u (z : Nat × Nat) => (rfl : (u.giveFork v z.1).forks = u.forks)) _ _
  rw [hk, fget_fdel_same]

theorem forkwTimeout_spec {s : State} {id : Nat} {k : Fork} (hk : fget s.forks id = some k) :
    (s.now < k.deadline ∨ k.made.length = k.wanted.length → exec (.forkwTimeout id) s = .next s)
    ∧ (k.deadline ≤ s.now → k.made.length ≠ k.wanted.length → k.tags ≠ [] → k.rivals = [] →
      ∃ t, exec (.forkwTimeout id) s = .next t ∧ fget t.forks id = none) := by
  have he : exec (.forkwTimeout id) s = execForkwTimeout id s := rfl
  simp only [he, execForkwTimeout, hk]
  constructor
  · intro h
    rw [if_pos (by tauto)]
  · intro hd hm ht hr
    rw [if_neg (by simp [ht, hr, hm, Nat.not_lt.2 hd])]
    exact ⟨_, rfl, State.refuseFork_forks _ _ _ _⟩

theorem ending : Claims.Ending := by
  intro s id p
  refine ⟨fun l hl => priorityAging_spec hl, fun x hx hm hf => ?_, fun since hp => pageScrub_spec hp,
    fun x hx => fabstall_spec hx, fun k hk => forkwTimeout_spec hk⟩
  refine ⟨fun he => ?_, fun he => ?_⟩
  · obtain ⟨hgone, hscrub⟩ := State.tearTruss_gone hx hm
    have hsk : ((s.tearTruss id).countOut x.launch).skel = (s.tearTruss id).skel := State.countOut_skel _ _
    refine ⟨_, (trussEnd_ends hx hm hf).trans (congrArg _ (if_pos he)), State.skel_gone hsk hgone, fun q hq => ?_⟩
    rw [State.skel_status hsk, hscrub q hq]
  · exact (trussEnd_ends hx hm hf).trans (congrArg _ (if_neg he))

end Sys2Proof.Machine
end

section
/-! SUPPORT. Where a truss is placed, and that the next truss of a launch is placed there. -/

namespace Sys2Proof.Machine

open Sys2Proof.Claims

/-! ### Placing -/

theorem mem_origins {h w r c : Nat} (hm : (r, c) ∈ origins h w) : r < 13 - h ∧ c < 37 - w := by
  obtain ⟨c', hc', hr'⟩ := List.mem_flatMap.1 hm
  obtain ⟨r', hr, he⟩ := List.mem_map.1 hr'
  cases he
  exact ⟨List.mem_range.1 hr, List.mem_range.1 hc'⟩

theorem mem_rectPages {r c h w j k : Nat} (hj : j < h) (hk : k < w) : (r + j) * 36 + (c + k) ∈ rectPages r c h w := by
  refine List.mem_map.2 ⟨j * w + k, List.mem_range.2 ?_, ?_⟩
  · calc j * w + k < j * w + w := by omega
      _ = (j + 1) * w := by ring
      _ ≤ h * w := Nat.mul_le_mul_right w hj
  · have hd : (j * w + k) / w = j := by
      rw [Nat.mul_comm, Nat.mul_add_div (by omega), Nat.div_eq_of_lt hk, Nat.add_zero]
    have hm : (j * w + k) % w = k := by
      rw [Nat.mul_comm, Nat.mul_add_mod, Nat.mod_eq_of_lt hk]
    rw [hd, hm]

theorem freeSpot_spec {s : State} {part h w r c : Nat} (hs : s.freeSpot part h w = some (r, c)) :
    r + h ≤ 12 ∧ c + w ≤ 36 ∧ (s.usedPages part).length + h * w ≤ (s.part part).lease
      ∧ ∀ j k, j < h → k < w →
        let p := (r + j) * 36 + (c + k)
        (s.page p).status = .free ∧ p ∉ s.fuses.pages ∧ bayOf p ∉ s.fuses.bays
          ∧ (s.part part).bayOk (bayOf p) = true := by
  unfold State.freeSpot at hs
  split at hs
  · cases hs
  · rename_i hl
    have hor := mem_origins (List.mem_of_find?_eq_some hs)
    have hok := List.find?_some hs
    refine ⟨by omega, by omega, by omega, fun j k hj hk => ?_⟩
    rw [Bool.and_eq_true, List.all_eq_true] at hok
    have hp := hok.1 _ (mem_rectPages hj hk)
    simpa [State.pageWorks, State.pageFree, and_assoc, and_comm, and_left_comm] using hp

theorem State.stopTruss_launches (s : State) (t : Nat) : (s.stopTruss t).launches = s.launches := by
  unfold State.stopTruss
  split
  · rfl
  · split
    · rfl
    · exact foldl_same State.launches (fun u p => State.modCore_launches u p Core.askStop) _ s

theorem State.markFailed_launches (s : State) (t : Nat) : (s.markFailed t).launches = s.launches := rfl

theorem State.markFailed_skel (s : State) (t : Nat) : (s.markFailed t).skel = s.skel := s.modTruss_skel t fun _ => rfl

theorem State.loseRival_launches (s : State) (f t code : Nat) (d : Word) :
    (s.loseRival f t code d).launches = s.launches := by
  unfold State.loseRival
  split
  · rfl
  · exact foldl_same State.launches
      (fun u x => (State.markFailed_launches (u.stopTruss x) x).trans (State.stopTruss_launches u x)) _ _

theorem State.loseRival_skel (s : State) (f t code : Nat) (d : Word) : (s.loseRival f t code d).skel = s.skel := by
  unfold State.loseRival
  split
  · rfl
  · exact foldl_skel (fun u x => (State.markFailed_skel (u.stopTruss x) x).trans (State.stopTruss_skel u x)) _ _

/-- A failure of a launch leaves every launch's count of placed trusses as it is. -/
theorem State.failLaunch_placed (s : State) (l code : Nat) (d : Word) (id : Nat) :
    (fget (s.failLaunch l code d).launches id).map Launch.placed = (fget s.launches id).map Launch.placed := by
  unfold State.failLaunch
  split
  · rfl
  · rename_i x hx
    split
    · rfl
    · by_cases h : id = l
      · subst h
        simp only [fget_fput_same, hx, Option.map_some]
      · simp only [fget_fput_other h]

theorem State.failTruss_placed (s : State) (t code el ix id : Nat) :
    (fget (s.failTruss t code el ix).launches id).map Launch.placed = (fget s.launches id).map Launch.placed := by
  unfold State.failTruss
  split
  · rfl
  · dsimp only
    split
    · rw [State.loseRival_launches]
    · have hstop (u : State) (l : Nat) : (u.stopLaunch l).launches = u.launches :=
        foldl_same State.launches State.stopTruss_launches _ u
      rw [hstop]
      exact State.failLaunch_placed ..

theorem State.failTruss_skel (s : State) (t code el ix : Nat) : (s.failTruss t code el ix).skel = s.skel := by
  unfold State.failTruss
  split
  · rfl
  · dsimp only
    split
    · exact State.loseRival_skel ..
    · exact (State.stopLaunch_skel ..).trans ((State.markFailed_skel ..).trans (State.failLaunch_skel ..))

/-- A truss stands at a place, and a launch has placed a number of trusses. -/
def State.Placed (s : State) (tid : Nat) (place : Nat × Nat × Nat × Nat × Nat × Nat × Nat) (id n : Nat) : Prop :=
  (∃ x, fget s.trusses tid = some x ∧ x.place = place) ∧ ∃ l, fget s.launches id = some l ∧ l.placed = n

theorem State.Placed.of_roster {s t : State} {tid id n : Nat} {place : Nat × Nat × Nat × Nat × Nat × Nat × Nat}
    (h : s.Placed tid place id n) (hr : t.roster = s.roster) : t.Placed tid place id n := by
  unfold State.Placed
  rw [State.roster_trusses hr, State.roster_launches hr]
  exact h

theorem State.Placed.failTruss {s : State} {tid id n : Nat} {place : Nat × Nat × Nat × Nat × Nat × Nat × Nat}
    (h : s.Placed tid place id n) (t code el ix : Nat) : (s.failTruss t code el ix).Placed tid place id n := by
  obtain ⟨⟨x, hx, hp⟩, l, hl, hn⟩ := h
  obtain ⟨y, hy, hyp⟩ := State.skel_place (State.failTruss_skel s t code el ix) hx
  have hm := State.failTruss_placed s t code el ix id
  rw [hl] at hm
  obtain ⟨l', hl', hn'⟩ := Option.map_eq_some_iff.1 hm
  exact ⟨⟨y, hy, hyp.trans hp⟩, l', hl', hn'.trans hn⟩

/-- The truss that PLACE makes of a launch stands at the place given, and the launch counts it. -/
theorem State.placeAt_placed (s : State) (id : Nat) (l : Launch) (row col : Nat) :
    (s.placeAt id l row col).Placed s.fresh (id, l.placed, row, col, l.img.h, l.img.w, l.part) id (l.placed + 1) := by
  have hup (u : State) (x : Truss) (y : Launch) (hx : x.place = (id, l.placed, row, col, l.img.h, l.img.w, l.part))
      (hy : y.placed = l.placed + 1) (hu : u.roster = (fput s.trusses s.fresh x, fput s.launches id y)) :
      (u.bringUp s.fresh x l.img).2.Placed s.fresh (id, l.placed, row, col, l.img.h, l.img.w, l.part) id
        (l.placed + 1) := by
    refine State.Placed.of_roster (s := u) ?_ (State.bringUp_roster ..)
    obtain ⟨ht, hl⟩ := Prod.mk.inj hu
    exact ⟨⟨x, by rw [ht, fget_fput_same], hx⟩, y, by rw [hl, fget_fput_same], hy⟩
  unfold State.placeAt
  dsimp only
  split
  · exact State.Placed.failTruss (hup _ _ _ rfl rfl (State.makeLinks_roster ..)) _ _ _ _
  · split
    · exact State.Placed.of_roster (hup _ _ _ rfl rfl (State.makeLinks_roster ..))
        (foldl_roster (fun _ _ => State.startTruss_roster ..) _ _)
    · exact hup _ _ _ rfl rfl (State.makeLinks_roster ..)

theorem placeTruss_spec {s : State} {id : Nat} {l : Launch} {r c : Nat} (hm : s.move = none) (hc : s.compact = none)
    (hl : fget s.launches id = some l) (hp : l.placed < l.ntruss) (hk : l.cancel = false) (hr : l.reset = false)
    (hf : l.failure = none) (hs : s.freeSpot l.part l.img.h l.img.w = some (r, c)) :
    exec (.placeTruss id) s = .next (s.placeAt id l r c) := by
  show execPlaceTruss id s = _
  simp [execPlaceTruss, State.placeLaunch, State.tryPlace, hm, hc, hl, hp, hk, hr, hf, hs]

theorem placing : Claims.Placing := by
  refine ⟨fun s part h w r c hs => freeSpot_spec hs, fun s id l hm hc hl hp hk hr hf r c hs => ?_⟩
  obtain ⟨⟨x, hx, hxp⟩, l', hl', hn⟩ := State.placeAt_placed s id l r c
  simp only [Truss.place, Prod.mk.injEq] at hxp
  obtain ⟨h1, h2, h3, h4, h5, h6, h7⟩ := hxp
  exact ⟨_, x, l', placeTruss_spec hm hc hl hp hk hr hf hs, State.placeAt_mem .., hx, h1, h2, h3, h4, h5, h6, h7, hl', hn⟩

end Sys2Proof.Machine
end

section
/-! SUPPORT. Moves: what ends one, how the pages' plates are copied, and how the truss stands at its new place. -/

namespace Sys2Proof.Machine

open Sys2Proof.Claims

/-! ### Before COPY -/

/-- A move that is dropped leaves its truss where it stood, with the time of the drop. -/
theorem State.dropMove_spec {s : State} {m : Move} {x : Truss} (hm : s.move = some m)
    (hx : fget s.trusses m.truss = some x) :
    s.dropMove.move = none ∧ (s.dropMove.part x.part).moveabort = (s.part x.part).moveabort + 1
      ∧ ∃ y, fget s.dropMove.trusses m.truss = some y ∧ y.row = x.row ∧ y.col = x.col ∧ y.aborted = some s.now := by
  unfold State.dropMove
  rw [hm]
  simp only [hx]
  refine ⟨rfl, ?_, _, fget_fput_same _ _ _, rfl, rfl, ?_⟩
  · rw [State.modPart, State.part_setPart]
    exact congrArg (fun z => (fgetD z x.part Partition.reset).moveabort + 1)
      (foldl_same State.parts (fun u p => State.setPage_parts u p _) _ s)
  · exact congrArg some (foldl_same State.now (fun u p => State.setPage_now u p _) _ s)

/-- Where pages are written one after another, one that none of them names stays. -/
theorem foldl_setPage_other {α : Type} {k : α → Nat} {f : State → α → Page} {l : List α} {q : Nat} (s : State)
    (h : ∀ a ∈ l, k a ≠ q) : (l.foldl (fun s a => s.setPage (k a) (f s a)) s).page q = s.page q := by
  induction l generalizing s with
  | nil => rfl
  | cons a l ih =>
    rw [List.foldl_cons, ih _ fun b hb => h b (List.mem_cons_of_mem _ hb)]
    exact State.page_setPage_other (h a List.mem_cons_self).symm

/-- Where pages are written one after another, one that some of them names has what each of them writes. -/
theorem foldl_setPage_mem {α : Type} {k : α → Nat} {f : State → α → Page} {P : Page → Prop} {l : List α} {q : Nat}
    (s : State) (hf : ∀ u a, u.now = s.now → k a = q → a ∈ l → P (f u a)) (h : ∃ a ∈ l, k a = q) :
    P ((l.foldl (fun s a => s.setPage (k a) (f s a)) s).page q) := by
  induction l generalizing s with
  | nil => obtain ⟨a, ha, _⟩ := h; cases ha
  | cons a l ih =>
    rw [List.foldl_cons]
    by_cases hl : ∃ b ∈ l, k b = q
    · exact ih _ (fun u b hu hb hm => hf u b hu hb (List.mem_cons_of_mem _ hm)) hl
    · obtain ⟨b, hb, hbq⟩ := h
      have hab : k a = q := by
        rcases List.mem_cons.1 hb with e | e
        · rw [← e, hbq]
        · exact absurd ⟨b, e, hbq⟩ hl
      rw [foldl_setPage_other _ fun c hc hk => hl ⟨c, hc, hk⟩, hab, State.page_setPage]
      exact hf s a rfl hab List.mem_cons_self

theorem State.beginCopy_spec (s : State) (m : Move) (x : Truss) :
    (s.beginCopy m x).move = some { m with state := 1, left := copyOrder m.row m.col x, sent := 0 }
      ∧ (∀ p ∈ x.pages, (s.beginCopy m x).page p = s.page p)
      ∧ ∀ p ∈ m.dest x, p ∉ x.pages → ((s.beginCopy m x).page p).status = .used
        ∧ ((s.beginCopy m x).page p).truss = m.truss := by
  refine ⟨rfl, fun p hp => ?_, fun p hp hn => ?_⟩
  · refine foldl_setPage_other (k := fun p => p) s fun q hq e => ?_
    have := (List.mem_filter.1 hq).2
    simp_all
  · refine foldl_setPage_mem (k := fun p => p)
      (P := fun pg => pg.status = .used ∧ pg.truss = m.truss) s (fun _ _ _ _ _ => ⟨rfl, rfl⟩) ⟨p, ?_, rfl⟩
    exact List.mem_filter.2 ⟨hp, by simpa using hn⟩

theorem moveHold_spec {s : State} {m : Move} {x : Truss} (hm : s.move = some m) (hx : fget s.trusses m.truss = some x)
    (h0 : m.state = 0) :
    (s.moveHit m x = true → exec .moveCopy s = .next s ∧ exec .moveAbandon s = .next s.dropMove)
    ∧ (s.moveHit m x = false → exec .moveAbandon s = .next s
      ∧ (s.quiescent m.truss x = true → (∀ p ∈ m.dest x, (s.page p).status = .free ∨ p ∈ x.pages) →
        exec .moveCopy s = .next (s.beginCopy m x))
      ∧ (s.quiescent m.truss x = false → exec .moveCopy s = .next s))
    ∧ exec .moveRelease s = .next s := by
  have hc : exec .moveCopy s = execMoveCopy s := rfl
  have ha : exec .moveAbandon s = execMoveAbandon s := rfl
  have hr : exec .moveRelease s = execMoveRelease s := rfl
  rw [hc, ha, hr]
  simp only [execMoveCopy, execMoveAbandon, execMoveRelease, hm, hx, h0, true_and, true_or, if_true]
  refine ⟨fun hh => by simp [hh], fun hh => ⟨by simp [hh], fun hq hp => ?_, fun hq => by simp [hq]⟩, trivial⟩
  have hd : ((m.dest x).all fun p => s.pageFree p || x.pages.contains p) = true := by
    rw [List.all_eq_true]
    intro p hpd
    simpa [State.pageFree] using hp p hpd
  rw [hh, hq, hd]
  rfl

/-! ### COPY -/

theorem State.copyPlate_sends {s : State} {part p q n : Nat} (hn : n < plateBlocks)
    (hr : (s.keptOf (moverAgent (bayOf p))).length
      + (s.packets.filter fun z => z.2.op == .move && z.2.src == moverAgent (bayOf p) && !z.2.metered).length < 32) :
    ∃ t k, s.copyPlate part p q n = .sent (n + moveBlocks) t ∧ t.mem = s.mem ∧ t.pages = s.pages ∧ t.trusses = s.trusses
      ∧ fget t.packets s.fresh = some k ∧ k.op = .move ∧ k.cls = 2 ∧ k.part = part ∧ k.src = moverAgent (bayOf p)
      ∧ k.dst = moverAgent (bayOf q) ∧ k.blocks = (List.range moveBlocks).map fun j => s.plateBlock p (n + j) := by
  unfold State.copyPlate
  rw [if_pos hn, if_neg (by omega)]
  exact ⟨_, _, rfl, rfl, rfl, rfl, fget_fput_same _ _ _, rfl, rfl, rfl, rfl, rfl, rfl⟩

theorem State.copyPlate_waits {s : State} {part p q n : Nat} (hn : n < plateBlocks)
    (hr : 32 ≤ (s.keptOf (moverAgent (bayOf p))).length
      + (s.packets.filter fun z => z.2.op == .move && z.2.src == moverAgent (bayOf p) && !z.2.metered).length) :
    s.copyPlate part p q n = .wait := by
  unfold State.copyPlate
  rw [if_pos hn, if_pos hr]

theorem State.copyPlate_acked {s : State} {part p q n : Nat} (hn : plateBlocks ≤ n) :
    s.copyPlate part p q n = if s.keptOf (moverAgent (bayOf p)) = []
        ∧ (s.packets.filter fun z => z.2.op == .move && z.2.src == moverAgent (bayOf p) && !z.2.metered) = []
      then .done (s.meter part 12 12582912) else .wait := by
  unfold State.copyPlate
  rw [if_neg (Nat.not_lt.2 hn)]
  refine if_congr ?_ rfl rfl
  simp

theorem State.meter_counts (s : State) (p m k : Nat) :
    (p < 48 → fgetD (s.meter p m k).meters (16 * p + m) 0 = fgetD s.meters (16 * p + m) 0 + BitVec.ofNat 64 k)
      ∧ ∀ n, n ≠ 16 * p + m → fgetD (s.meter p m k).meters n 0 = fgetD s.meters n 0 := by
  unfold State.meter
  split
  · exact ⟨fun _ => by simp [fgetD], fun n hn => by simp [fgetD, fget_fput_other hn]⟩
  · rename_i h
    refine ⟨fun hp => ?_, fun _ _ => rfl⟩
    have hk : k = 0 := by omega
    simp [hk]

/-- What a step of a plate's copy makes of the move. -/
def Move.advance (m : Move) (rest : List Nat) (s : State) : CopyX → Res
  | .wait => .next s
  | .sent n t => .next { t with move := some { m with sent := n } }
  | .done t => .next { t with move := some { m with left := rest, sent := 0 } }

theorem moveRelease_copying {s : State} {m : Move} {x : Truss} (hm : s.move = some m)
    (hx : fget s.trusses m.truss = some x) {k : Nat} {rest : List Nat} (hl : m.left = k :: rest) :
    exec .moveRelease s = .next s := by
  show execMoveRelease s = _
  unfold execMoveRelease
  rw [hm]
  simp only [hx]
  rw [if_pos (Or.inr (by rw [hl]; rfl))]

theorem moveCopy_copying {s : State} {m : Move} {x : Truss} (hm : s.move = some m) (hx : fget s.trusses m.truss = some x)
    (h0 : m.state ≠ 0) {k : Nat} {rest : List Nat} (hl : m.left = k :: rest) :
    exec .moveCopy s
      = m.advance rest s (s.copyPlate x.part (x.pagePair (m.dest x) k).1 (x.pagePair (m.dest x) k).2 m.sent) := by
  show execMoveCopy s = _
  unfold execMoveCopy
  rw [hm]
  simp only [hx]
  rw [if_neg h0]
  split
  · rename_i h
    rw [hl] at h
    cases h
  · rename_i h
    rw [hl] at h
    cases h
    rfl

theorem copyStep_spec {s : State} {m : Move} {x : Truss} (hm : s.move = some m) (hx : fget s.trusses m.truss = some x)
    (h0 : m.state ≠ 0) {k : Nat} {rest : List Nat} (hl : m.left = k :: rest) :
    let z := x.pagePair (m.dest x) k
    let a := moverAgent (bayOf z.1)
    let out := s.packets.filter fun q => q.2.op == .move && q.2.src == a && !q.2.metered
    (m.sent < plateBlocks → (s.keptOf a).length + out.length < 32 → ∃ t q, exec .moveCopy s = .next t ∧ t.mem = s.mem
      ∧ t.pages = s.pages ∧ t.trusses = s.trusses ∧ t.move = some { m with sent := m.sent + moveBlocks }
      ∧ fget t.packets s.fresh = some q ∧ q.op = .move ∧ q.cls = 2 ∧ q.part = x.part ∧ q.src = a
      ∧ q.dst = moverAgent (bayOf z.2) ∧ q.blocks = (List.range moveBlocks).map fun j => s.plateBlock z.1 (m.sent + j))
    ∧ (m.sent < plateBlocks → 32 ≤ (s.keptOf a).length + out.length → exec .moveCopy s = .next s)
    ∧ (plateBlocks ≤ m.sent → s.keptOf a = [] → out = [] → ∃ t, exec .moveCopy s = .next t ∧ t.mem = s.mem
      ∧ t.pages = s.pages ∧ t.trusses = s.trusses ∧ t.move = some { m with left := rest, sent := 0 }
      ∧ (x.part < 48 → fgetD t.meters (16 * x.part + 12) 0 = fgetD s.meters (16 * x.part + 12) 0 + 12582912)
      ∧ ∀ n, n ≠ 16 * x.part + 12 → fgetD t.meters n 0 = fgetD s.meters n 0)
    ∧ (plateBlocks ≤ m.sent → s.keptOf a ≠ [] ∨ out ≠ [] → exec .moveCopy s = .next s) := by
  rw [moveCopy_copying hm hx h0 hl]
  refine ⟨fun hn hr => ?_, fun hn hr => ?_, fun hn hk ho => ?_, fun hn hr => ?_⟩
  · obtain ⟨t, q, he, h⟩ := State.copyPlate_sends (part := x.part) (q := (x.pagePair (m.dest x) k).2) hn hr
    obtain ⟨hmem, hpages, htrusses, hq⟩ := h
    rw [he]
    exact ⟨_, q, rfl, hmem, hpages, htrusses, rfl, hq⟩
  · rw [State.copyPlate_waits hn hr]
    rfl
  · rw [State.copyPlate_acked hn, if_pos ⟨hk, ho⟩]
    obtain ⟨hmine, hothers⟩ := s.meter_counts x.part 12 12582912
    have hf := s.meter_frame x.part 12 12582912
    have hmem : (s.meter x.part 12 12582912).mem = s.mem := by rw [hf]
    have hpages : (s.meter x.part 12 12582912).pages = s.pages := by rw [hf]
    have htrusses : (s.meter x.part 12 12582912).trusses = s.trusses := by rw [hf]
    exact ⟨_, rfl, hmem, hpages, htrusses, rfl, hmine, hothers⟩
  · rw [State.copyPlate_acked hn, if_neg (by tauto)]
    rfl

/-! ### RELEASE -/

/-- Pages that a truss has left are being scrubbed. -/
def State.vacate (s : State) (l : List Nat) : State :=
  l.foldl (fun s p => s.setPage p ((s.page p).scrubbing s.now)) s

/-- A partition's pages take new contents. -/
def State.fillPages (s : State) (part : Nat) (l : List (Nat × Page)) : State :=
  l.foldl (fun s z => s.setPage z.1 (z.2.setPart part)) s

/-- The pages of a truss that moves, with what each holds at its new place. -/
def State.moving (s : State) (m : Move) (x : Truss) : State :=
  ((s.vacate (x.pages.filter fun p => !(m.dest x).contains p)).fillPages x.part
    ((m.dest x).zip (x.pages.map fun p => (s.page p).moved (s.yielded m.truss)))).repoint m.truss x.pages (m.dest x)

theorem moveRelease_eq {s : State} {m : Move} {x : Truss} (hm : s.move = some m) (hx : fget s.trusses m.truss = some x)
    (h0 : m.state ≠ 0) (hl : m.left = []) : ∃ y : Truss, y.row = m.row ∧ y.col = m.col ∧ y.ix = x.ix ∧ y.part = x.part ∧
    exec .moveRelease s =
      let u : State := { s.moving m x with move := none, trusses := fput (s.moving m x).trusses m.truss y }
      .next (State.modPart (match u.launchOf y with
        | some l => u.setShims y l.img
        | none => u) x.part fun p => { p with moves := p.moves + 1 }) := by
  refine ⟨{ (s.moving m x).afterMove m.truss x with row := m.row, col := m.col, since := (s.moving m x).now },
    rfl, rfl, rfl, rfl, ?_⟩
  show execMoveRelease s = _
  unfold execMoveRelease
  rw [hm]
  simp only [hx]
  rw [if_neg (by simp [h0, hl])]
  rfl

/-- What is not said of elements and ports: the status, the truss, the core and the tiles of every page. -/
def State.husks (s : State) : Nat → PageStatus × Core × FMap Tile :=
  fun p => ((s.page p).status, (s.page p).core, (s.page p).tiles)

theorem State.setShims_husks (s : State) (t : Truss) (img : Image) : (s.setShims t img).husks = s.husks := by
  refine foldl_same State.husks (fun u z => ?_) _ s
  funext q
  by_cases h : q = z.1
  · subst h
    simp only [State.husks, State.page_setPage]
  · simp only [State.husks, State.page_setPage_other h]

theorem State.vacate_status {s : State} {l : List Nat} {p : Nat} (h : p ∈ l) :
    ((s.vacate l).page p).status = .scrubbing s.now :=
  foldl_setPage_mem (k := fun p => p) (P := fun pg => pg.status = .scrubbing s.now) s
    (fun _ _ hu _ _ => congrArg PageStatus.scrubbing hu) ⟨p, h, rfl⟩

/-- The pages that a truss leaves as it moves are being scrubbed. -/
theorem State.moving_left {s : State} {m : Move} {x : Truss} {p : Nat} (hp : p ∈ x.pages) (hn : p ∉ m.dest x) :
    ((s.moving m x).page p).status = .scrubbing s.now := by
  have hother (u : State) (l : List Page) : ((u.fillPages x.part ((m.dest x).zip l)).page p) = u.page p :=
    foldl_setPage_other (k := Prod.fst) u fun z hz e => hn (e ▸ (List.of_mem_zip hz).1)
  refine (congrArg Page.status (hother _ _)).trans (State.vacate_status ?_)
  exact List.mem_filter.2 ⟨hp, by simpa using hn⟩

theorem eq_of_mem_zip_nodup {α : Type} {l : List Nat} {m : List α} {k q : Nat} {a b : α} (hl : l.Nodup)
    (hz : (q, a) ∈ l.zip m) (hk : l[k]? = some q) (hb : m[k]? = some b) : a = b := by
  obtain ⟨i, hi⟩ := List.mem_iff_getElem?.1 hz
  obtain ⟨hq, ha⟩ := List.getElem?_zip_eq_some.1 hi
  have hik : i = k := (List.getElem?_inj (List.getElem?_eq_some_iff.1 hq).1 hl).1 (hq.trans hk.symm)
  subst hik
  exact Option.some.inj (ha.symm.trans hb)

/-- A page's core and tiles stand at its new place as they stood at the old one. -/
theorem State.moving_page {s : State} {m : Move} {x : Truss} {k p q : Nat} (hd : (m.dest x).Nodup)
    (hp : x.pages[k]? = some p) (hq : (m.dest x)[k]? = some q) :
    ((s.moving m x).page q).tiles = (s.page p).tiles
      ∧ ((s.moving m x).page q).core = ((s.page p).moved (s.yielded m.truss)).core := by
  have hc : (x.pages.map fun p => (s.page p).moved (s.yielded m.truss))[k]?
      = some ((s.page p).moved (s.yielded m.truss)) := by
    rw [List.getElem?_map, hp, Option.map_some]
  refine foldl_setPage_mem (k := Prod.fst) (l := (m.dest x).zip (x.pages.map fun p => (s.page p).moved (s.yielded m.truss)))
    (P := fun pg => pg.tiles = (s.page p).tiles ∧ pg.core = ((s.page p).moved (s.yielded m.truss)).core) _ ?_ ?_
  · rintro _ ⟨q', pg⟩ _ rfl hz
    rw [eq_of_mem_zip_nodup hd hz hq hc]
    exact ⟨rfl, rfl⟩
  · exact ⟨(q, _), List.mem_iff_getElem?.2 ⟨k, List.getElem?_zip_eq_some.2 ⟨hq, hc⟩⟩, rfl⟩

theorem Page.moved_core (stay : Bool) (pg : Page) :
    (∀ g, (pg.moved stay).core.rd g = pg.core.rd g) ∧ (pg.moved stay).core.pc = pg.core.pc := by
  have h : (pg.core.offKerf stay).regs = pg.core.regs ∧ (pg.core.offKerf stay).pc = pg.core.pc := by
    unfold Core.offKerf
    split
    · split <;> exact ⟨rfl, rfl⟩
    · exact ⟨rfl, rfl⟩
  refine ⟨fun g => ?_, h.2⟩
  show (if g = 0 then 0 else (pg.core.offKerf stay).regs[g.val]) = pg.core.rd g
  rw [h.1]
  rfl

theorem State.moving_mem (s : State) (m : Move) (x : Truss) : (s.moving m x).mem = s.mem :=
  (foldl_mem (fun (u : State) (z : Nat × Page) => State.setPage_mem u z.1 _) _ _).trans
    (foldl_mem (fun u p => State.setPage_mem u p _) _ s)

theorem State.moving_parts (s : State) (m : Move) (x : Truss) : (s.moving m x).parts = s.parts :=
  (foldl_same State.parts (fun (u : State) (z : Nat × Page) => State.setPage_parts u z.1 _) _ _).trans
    (foldl_same State.parts (fun u p => State.setPage_parts u p _) _ s)

theorem State.setShims_parts (s : State) (t : Truss) (img : Image) : (s.setShims t img).parts = s.parts :=
  foldl_same State.parts (fun (u : State) (z : Nat × Nat) => State.setPage_parts u z.1 _) _ s

theorem moveRelease_spec {s : State} {m : Move} {x : Truss} (hm : s.move = some m) (hx : fget s.trusses m.truss = some x)
    (h0 : m.state ≠ 0) (hl : m.left = []) (hd : (m.dest x).Nodup) : ∃ t, exec .moveRelease s = .next t ∧ t.move = none
      ∧ t.mem = s.mem ∧ (t.part x.part).moves = (s.part x.part).moves + 1
      ∧ (∃ y, fget t.trusses m.truss = some y ∧ y.row = m.row ∧ y.col = m.col ∧ y.ix = x.ix)
      ∧ (∀ p ∈ x.pages, p ∉ m.dest x → (t.page p).status = .scrubbing s.now)
      ∧ ∀ (k p p' : Nat), x.pages[k]? = some p → (m.dest x)[k]? = some p' →
        (t.page p').tiles = (s.page p).tiles ∧ ∀ g, (t.page p').core.rd g = (s.page p).core.rd g
          ∧ (t.page p').core.pc = (s.page p).core.pc := by
  obtain ⟨y, hrow, hcol, hix, -, he⟩ := moveRelease_eq hm hx h0 hl
  rw [he]
  dsimp only
  generalize hu : ({ s.moving m x with move := none, trusses := fput (s.moving m x).trusses m.truss y } : State) = u
  have humem : u.mem = s.mem := by rw [← hu]; exact State.moving_mem s m x
  have huparts : u.parts = s.parts := by rw [← hu]; exact State.moving_parts s m x
  have humove : u.move = none := by rw [← hu]
  have hutruss : fget u.trusses m.truss = some y := by rw [← hu]; exact fget_fput_same _ _ _
  have huhusks : u.husks = (s.moving m x).husks := by rw [← hu]; rfl
  generalize hv : (match u.launchOf y with | some l => u.setShims y l.img | none => u) = v
  have hvu : v.mem = u.mem ∧ v.parts = u.parts ∧ v.move = u.move ∧ v.trusses = u.trusses ∧ v.husks = u.husks := by
    rw [← hv]
    split
    · rename_i l _
      exact ⟨State.setShims_mem .., State.setShims_parts ..,
        foldl_same State.move (fun (w : State) (z : Nat × Nat) => State.setPage_move w z.1 _) _ u,
        State.roster_trusses (State.setShims_roster u y l.img), State.setShims_husks ..⟩
    · exact ⟨rfl, rfl, rfl, rfl, rfl⟩
  obtain ⟨hmem, hparts, hmove, htruss, hhusks⟩ := hvu
  have hpage (q : Nat) : (v.page q).status = ((s.moving m x).page q).status
      ∧ (v.page q).core = ((s.moving m x).page q).core ∧ (v.page q).tiles = ((s.moving m x).page q).tiles := by
    have h := congrFun (hhusks.trans huhusks) q
    simp only [State.husks, Prod.mk.injEq] at h
    exact h
  refine ⟨_, rfl, hmove.trans humove, hmem.trans humem, ?_, ⟨y, ?_, hrow, hcol, hix⟩, fun p hp hn => ?_,
    fun k p q hp hq => ?_⟩
  · rw [State.modPart, State.part_setPart, State.part, hparts, huparts]
    rfl
  · exact (congrArg (fget · m.truss) htruss).trans hutruss
  · exact (hpage p).1.trans (State.moving_left hp hn)
  · obtain ⟨-, hcore, htiles⟩ := hpage q
    obtain ⟨htiles', hcore'⟩ := State.moving_page hd hp hq
    obtain ⟨hrd, hpc⟩ := Page.moved_core (s.yielded m.truss) (s.page p)
    refine ⟨htiles.trans htiles', fun g => ⟨?_, ?_⟩⟩
    · exact (congrArg (Core.rd · g) (hcore.trans hcore')).trans (hrd g)
    · exact (congrArg Core.pc (hcore.trans hcore')).trans hpc

theorem moving : Claims.Moving := by
  intro s m x hm hx
  refine ⟨fun h0 => ?_, fun h0 => ⟨?_, fun k rest hl => ?_, fun hl hd hlen => moveRelease_spec hm hx h0 hl hd⟩⟩
  · obtain ⟨hhit, hhold, hrel⟩ := moveHold_spec hm hx h0
    refine ⟨fun hh => ?_, fun hh => ?_, hrel⟩
    · obtain ⟨hcopy, hdrop⟩ := hhit hh
      obtain ⟨hmove, habort, htruss⟩ := State.dropMove_spec hm hx
      exact ⟨hcopy, _, hdrop, hmove, State.dropMove_mem s, habort, htruss⟩
    · obtain ⟨hab, hcopy, hwait⟩ := hhold hh
      refine ⟨hab, fun hq hp => ?_, hwait⟩
      obtain ⟨hmove, hold, hnew⟩ := State.beginCopy_spec s m x
      exact ⟨_, _, hcopy hq hp, foldl_mem (fun u p => State.setPage_mem u p _) _ s, hmove, rfl, rfl, rfl, hold, hnew⟩
  · show execMoveAbandon s = _
    simp [execMoveAbandon, hm, hx, h0]
  · exact ⟨moveRelease_copying hm hx hl, copyStep_spec hm hx h0 hl⟩

end Sys2Proof.Machine

namespace Sys2Proof

open Sys2Proof.Machine Sys2Proof.Claims

/-- Settles O57: the three parts are one instruction each, and the end of a truss is read off the state's skeleton (the status
of its pages and where its trusses stand), which nothing that completes a launch, a job or a graph changes. -/
theorem trussResults : Obligations.TrussResults := ⟨placing, ending, moving⟩

end Sys2Proof
end

section
/-! SUPPORT. A cancel in a state whose table of trusses holds one key twice. -/

namespace Sys2Proof.Machine

open Sys2Proof.Claims

/-- A running truss of a launch, of one page at the grid's origin. -/
def twinTruss (launch : Nat) : Truss :=
  ⟨launch, 0, 1, 1, 0, 0, 0, .running, 1, 0, 0, 0, none, 0, none, false, 0, true, [], false, [], [], 0⟩

/-- A launch of one truss, of no queue that stands and of no job. -/
def twinLaunch : Launch :=
  ⟨0, 0, 0, 0, 0, none, 1, 0, Image.blank, 0, 0, 0, false, 1, 1, none, false, false, 0, 0, [], false, false, none⟩

/-- Two trusses under one key, the first of launch 2, which is none, and the second of launch 1. -/
def twinState : State :=
  { State.reset with launches := [(1, twinLaunch)], trusses := [(0, twinTruss 2), (0, twinTruss 1)] }

theorem twinState_launch : fget twinState.launches 1 = some twinLaunch := rfl

/-- The truss of launch 1 stands. -/
theorem twinState_launchTrusses : twinState.launchTrusses 1 = [0] := by decide

/-- The cancel stops key 0 by its first entry, which drops the second: no truss of launch 1 is left, and it is finished. -/
theorem twinState_cancel : (fget (twinState.cancelItems 0 1 0).launches 1).isNone = true := by decide

end Sys2Proof.Machine

namespace Sys2Proof

open Sys2Proof.Machine Sys2Proof.Claims

/-- Refutes O53: its last part says that CANCEL leaves a launch with a standing truss marked, in every state, and no
hypothesis says that the keys of the state's maps rise. Where the table of trusses holds one key twice, stopping the truss
writes the key once, the launch's own truss goes with that, and the launch is finished where it should be marked. -/
theorem not_itemResults : ¬ Obligations.ItemResults := by
  rintro ⟨-, -, -, hphases⟩
  obtain ⟨-, -, -, hcancel⟩ := hphases twinState 0 0
  have hstands : twinState.launchTrusses 1 ≠ [] := by
    rw [twinState_launchTrusses]
    exact List.cons_ne_nil 0 []
  obtain ⟨l, hl, -⟩ := hcancel 1 twinLaunch twinState_launch hstands
  have hgone := twinState_cancel
  rw [show twinLaunch.part = 0 from rfl, show twinLaunch.ident.toNat = 0 from rfl] at hl
  rw [hl] at hgone
  exact Bool.noConfusion hgone

end Sys2Proof
end

section
/-! SUPPORT. Panel copies: what a copy writes, and what the view keeps of it. -/

namespace Sys2Proof.Machine

open Sys2Proof.Claims

/-! ### Blocks that are written and read back -/

theorem toBytes_succ (n v : Nat) : toBytes (n + 1) v = BitVec.ofNat 8 v :: toBytes n (v / 256) := by
  rw [toBytes, List.range_succ_eq_map, List.map_cons, List.map_map, toBytes]
  refine congrArg₂ _ (by simp) (List.map_congr_left fun k _ => ?_)
  show BitVec.ofNat 8 (v / 2 ^ (8 * (k + 1))) = BitVec.ofNat 8 (v / 256 / 2 ^ (8 * k))
  rw [Nat.div_div_eq_div_mul, show 2 ^ (8 * (k + 1)) = 256 * 2 ^ (8 * k) by rw [Nat.mul_add, Nat.pow_add]; omega]

theorem ofBytes_toBytes (n v : Nat) : ofBytes (toBytes n v) = v % 2 ^ (8 * n) := by
  induction n generalizing v with
  | zero => rw [Nat.mul_zero, Nat.pow_zero, Nat.mod_one]; rfl
  | succ n ih =>
    rw [toBytes_succ, ofBytes, ih, show 2 ^ (8 * (n + 1)) = 256 * 2 ^ (8 * n) by rw [Nat.mul_add, Nat.pow_add]; omega,
      Nat.mod_mul, BitVec.toNat_ofNat]

theorem dataOf_dataList (d : Data) : dataOf (dataList d) = d := by
  have hl : (dataList d).take 64 = dataList d := List.take_of_length_le (by rw [length_dataList])
  rw [dataOf, hl, dataList, ofBytes_toBytes, Nat.mod_eq_of_lt d.isLt, BitVec.ofNat_toNat, BitVec.setWidth_eq]

/-- What stands at a place after a list of bytes is written there. -/
theorem readBytes_writeBytes (cells : List Host.Cell) (a : Nat) (l : List Byte) :
    readBytes (writeBytes cells a l) a l.length = l := by
  refine List.ext_getElem (by simp [readBytes]) fun k h1 h2 => ?_
  simp only [readBytes, List.getElem_map, List.getElem_range]
  exact readByte_writeBytes h2

theorem fgetD_setDesc (l : FMap Desc) (k : Nat) (d dflt : Desc) : fgetD (setDesc l k d dflt) k dflt = d := by
  unfold setDesc fgetD
  split
  · rename_i h
    rw [fget_fdel_same, h]
    rfl
  · rw [fget_fput_same]
    rfl

theorem Memory.block_setBlock_hbm (m : Memory) (a : Nat) (d : Data) (x : Desc) :
    (m.setBlock (.hbm a) d x).block (.hbm a) = (d, x) := by
  have hb := readBytes_writeBytes m.cells (a / 64 * 64) (dataList d)
  rw [length_dataList] at hb
  simp only [Memory.block, Memory.setBlock, hb, dataOf_dataList, fgetD_setDesc]

theorem Memory.byte_setBlock_hbm {m : Memory} {a : Nat} {d : Data} {x : Desc} {p : Phys} (h : p.blk ≠ (Phys.hbm a).blk) :
    (m.setBlock (.hbm a) d x).byte p = m.byte p := by
  cases p with
  | hbm b =>
    refine Memory.byte_setBlock_other fun e => h ?_
    simp only [Phys.blk, e]
  | host b => rfl
  | remote k b => rfl

/-! ### The copy of a panel -/

/-- The views of a partition. -/
def State.viewsOf (s : State) (pid : Nat) : FMap View := (s.part pid).views

theorem State.refSlot_views (s : State) (part slot pid : Nat) : (s.refSlot part slot).viewsOf pid = s.viewsOf pid := by
  unfold State.refSlot
  split
  · rfl
  · by_cases h : pid = part
    · subst h
      unfold State.viewsOf
      rw [State.modPart, State.part_setPart]
      rfl
    · exact congrArg Partition.views (State.part_setPart_other h)

theorem State.restall_parts (s : State) (a : AgentId) (st : Option Stall) : (s.restall a st).parts = s.parts := by
  unfold State.restall
  dsimp only
  rw [State.setReq_parts]
  split <;> rfl

theorem State.forgetPanel_parts (s : State) (part g : Nat) : (s.forgetPanel part g).parts = s.parts := by
  unfold State.forgetPanel
  split
  · exact foldl_same State.parts (fun u b => (rfl : (u.rdcInval b part _).parts = u.parts)) _ s
  · rfl

/-- What the end of a panel's copy makes of the view. -/
def View.copied (v : View) (slot panel g : Nat) : View :=
  { v with copying := v.copying.filter fun o => !(o.1 == slot && o.2.1 == panel),
           overlay := v.overlay ++ [(slot, panel, g)] }

theorem State.endCopy_view {s : State} {pid view slot panel g : Nat} {v : View} (h : fget (s.part pid).views view = some v) :
    fget ((s.endCopy pid view slot panel g).part pid).views view = some (v.copied slot panel g) := by
  have hf : (s.forgetPanel pid g).part pid = s.part pid :=
    congrArg (fgetD · pid Partition.reset) (State.forgetPanel_parts s pid g)
  have hviews : (s.endCopy pid view slot panel g).viewsOf pid
      = fmod (s.part pid).views view fun v => v.copied slot panel g := by
    unfold State.endCopy
    refine (congrArg (fun z => (fgetD z pid Partition.reset).views)
      (foldl_same State.parts (fun u a => State.restall_parts u a none) _ _)).trans ?_
    refine (State.refSlot_views _ pid slot pid).trans ?_
    refine (congrArg Partition.views (State.part_setPart _ pid _)).trans ?_
    rw [hf]
    rfl
  show fget ((s.endCopy pid view slot panel g).viewsOf pid) view = _
  rw [hviews, fget_fmod, if_pos rfl, h, Option.map_some]

theorem find_map_advance {l : List (Nat × Nat × Nat × Nat)} {slot panel g n : Nat}
    (h : l.find? (fun o => o.1 == slot && o.2.1 == panel) = some (slot, panel, g, n)) (k : Nat) :
    (l.map fun o => if o.1 == slot && o.2.1 == panel then (o.1, o.2.1, g, k) else o).find?
      (fun o => o.1 == slot && o.2.1 == panel) = some (slot, panel, g, k) := by
  induction l with
  | nil => cases h
  | cons o l ih =>
    by_cases ho : (o.1 == slot && o.2.1 == panel) = true
    · have he : o.1 = slot ∧ o.2.1 = panel := by simpa using ho
      simp [he.1, he.2]
    · rw [List.map_cons, if_neg ho]
      simp only [Bool.not_eq_true] at ho
      simp only [List.find?_cons, ho] at h ⊢
      exact ih h

theorem State.meter_mem_pages (s : State) (p m k : Nat) :
    (s.meter p m k).mem = s.mem ∧ (s.meter p m k).pages = s.pages ∧ (s.meter p m k).parts = s.parts := by
  rw [State.meter_frame]
  exact ⟨rfl, rfl, rfl⟩

theorem panelCopies : Claims.PanelCopies := by
  intro s pid view slot panel g n e a v p hv hc hx hp hserve ha
  have he : exec (.panelCopy pid view slot panel) s = execPanelCopy pid view slot panel s := rfl
  rw [he]
  simp only [execPanelCopy, hv, hc, hx, hp, hserve, ha, if_true]
  generalize hu : (State.meter (State.meter { s with mem := s.mem.setBlock (.hbm a) (s.mem.block p).1 (s.mem.block p).2 }
    pid 7 64) pid 8 64) = u
  have hm1 := State.meter_mem_pages { s with mem := s.mem.setBlock (.hbm a) (s.mem.block p).1 (s.mem.block p).2 } pid 7 64
  have hm2 := State.meter_mem_pages (State.meter { s with mem := s.mem.setBlock (.hbm a) (s.mem.block p).1 (s.mem.block p).2 }
    pid 7 64) pid 8 64
  rw [hu] at hm2
  have humem : u.mem = s.mem.setBlock (.hbm a) (s.mem.block p).1 (s.mem.block p).2 := hm2.1.trans hm1.1
  have hupages : u.pages = s.pages := hm2.2.1.trans hm1.2.1
  have huparts : u.parts = s.parts := hm2.2.2.trans hm1.2.2
  have huview : fget (u.part pid).views view = some v := by rw [State.part, huparts]; exact hv
  have hblock : u.mem.block (.hbm a) = s.mem.block p := by rw [humem, Memory.block_setBlock_hbm]
  have hbyte (m : Phys) (hm : m.blk ≠ (Phys.hbm a).blk) : u.mem.byte m = s.mem.byte m := by
    rw [humem, Memory.byte_setBlock_hbm hm]
  split
  · rename_i hn
    refine ⟨_, rfl, hblock, hbyte, fun _ => ⟨hupages, ?_⟩, fun h => absurd hn (by omega)⟩
    rw [State.modPart, State.part_setPart]
    refine ⟨{ v with copying := v.copying.map fun o =>
      if o.1 == slot && o.2.1 == panel then (o.1, o.2.1, g, n + 1) else o }, ?_, find_map_advance hc (n + 1), rfl⟩
    rw [fget_fmod, if_pos rfl, huview]
    rfl
  · rename_i hn
    have hmem : (u.endCopy pid view slot panel g).mem = u.mem := State.endCopy_mem ..
    refine ⟨_, rfl, ?_, fun m hm => ?_, fun h => absurd h (by omega), fun _ => ?_⟩
    · rw [hmem, hblock]
    · rw [hmem, hbyte m hm]
    · refine ⟨_, State.endCopy_view huview, rfl, fun o ho hs => ?_⟩
      have := (List.mem_filter.1 ho).2
      simp [hs.1, hs.2] at this

end Sys2Proof.Machine
end

section
/-! SUPPORT. Reductions: what a group that is combined, or that cannot be, makes of its participants' commands. -/

namespace Sys2Proof.Machine

open Sys2Proof.Claims

/-! ### Commands of contributions -/

/-- The commands that an engine holds. -/
def State.cmdsOf (s : State) (k : Nat) : List EngCmd := (fgetD s.engines k Engine.reset).cmds

/-- A command that waits with a contribution. -/
def Contribution.owns (x : Contribution) (c : EngCmd) : Bool :=
  decide (c.op = 3) && decide (c.page = x.page) && decide (c.ticket = x.ticket) && decide (c.phase = 1)
    && decide (gGroup c.bytes = x.group) && decide (gSeq c.bytes = x.seq) && decide (gRank c.bytes = x.rank)

theorem State.modContrib_cmds (s : State) (x : Contribution) (f : EngCmd → EngCmd) (k : Nat) :
    (s.modContrib x f).cmdsOf k = if k = x.eng then (s.cmdsOf k).map fun c => if x.owns c then f c else c else s.cmdsOf k := by
  unfold State.modContrib State.cmdsOf
  simp only [fgetD, fget_fmod, eq_comm (a := x.eng)]
  split
  · cases fget s.engines k <;> rfl
  · rfl

/-- Where each contribution in turn changes the commands that wait with it, in a way that a second change repeats, each of
those commands ends up changed. -/
theorem foldl_modContrib {step : State → Contribution → State} {f : EngCmd → EngCmd}
    (hstep : ∀ s y, (step s y).engines = (s.modContrib y f).engines)
    (hf : ∀ (y : Contribution) c, y.owns (f c) = true → f (f c) = f c) (l : List Contribution) (s : State) :
    ∀ y ∈ l, ∀ c ∈ s.cmdsOf y.eng, y.owns c = true → f c ∈ (l.foldl step s).cmdsOf y.eng := by
  have hcmds (u : State) (y : Contribution) (k : Nat) : (step u y).cmdsOf k = (u.modContrib y f).cmdsOf k := by
    unfold State.cmdsOf
    rw [hstep]
  -- A command in its changed form stays, and one that a step does not change stays too.
  have hone (u : State) (y : Contribution) (k : Nat) (c : EngCmd) (hc : c ∈ u.cmdsOf k) :
      c ∈ (step u y).cmdsOf k ∨ f c ∈ (step u y).cmdsOf k := by
    rw [hcmds, State.modContrib_cmds]
    split
    · by_cases ho : y.owns c = true
      · exact .inr (List.mem_map.2 ⟨c, hc, if_pos ho⟩)
      · exact .inl (List.mem_map.2 ⟨c, hc, if_neg ho⟩)
    · exact .inl hc
  have hchanged (u : State) (y : Contribution) (k : Nat) (c : EngCmd) (hc : f c ∈ u.cmdsOf k) : f c ∈ (step u y).cmdsOf k := by
    rw [hcmds, State.modContrib_cmds]
    split
    · refine List.mem_map.2 ⟨f c, hc, ?_⟩
      split
      · exact hf y c ‹_›
      · rfl
    · exact hc
  have hstays (k : Nat) (c : EngCmd) (l : List Contribution) : ∀ u : State, f c ∈ u.cmdsOf k →
      f c ∈ (l.foldl step u).cmdsOf k := by
    induction l with
    | nil => exact fun _ h => h
    | cons z l ih => exact fun u h => ih _ (hchanged u z k c h)
  induction l generalizing s with
  | nil => exact fun _ h => absurd h List.not_mem_nil
  | cons z l ih =>
    intro y hy c hc ho
    rw [List.foldl_cons]
    rcases List.mem_cons.1 hy with rfl | hy
    · refine hstays _ _ _ _ ?_
      rw [hcmds, State.modContrib_cmds, if_pos rfl]
      exact List.mem_map.2 ⟨c, hc, if_pos ho⟩
    · rcases hone s z y.eng c hc with h | h
      · exact ih _ y hy c h ho
      · exact hstays _ _ _ _ h

/-! ### Contributions that fail -/

/-- Memory, the engines, and the contributions that wait or are awaited no more. -/
def State.works (s : State) : Memory × FMap Engine × List Contribution × List (Nat × Nat × Word × Nat) :=
  (s.mem, s.engines, s.groups, s.deadGroups)

theorem State.stopTruss_works (s : State) (t : Nat) : (s.stopTruss t).works = s.works := by
  unfold State.stopTruss
  split
  · rfl
  · split
    · rfl
    · exact foldl_same State.works (fun u p => (rfl : (u.modCore p Core.askStop).works = u.works)) _ s

theorem State.failLaunch_works (s : State) (l code : Nat) (d : Word) : (s.failLaunch l code d).works = s.works := by
  unfold State.failLaunch
  split
  · rfl
  · split <;> rfl

theorem State.loseRival_works (s : State) (f t code : Nat) (d : Word) : (s.loseRival f t code d).works = s.works := by
  have hlose (u : State) (x : Nat) : ((u.stopTruss x).markFailed x).works = u.works := State.stopTruss_works u x
  unfold State.loseRival
  split
  · rfl
  · exact foldl_same State.works hlose _ _

theorem State.failItem_works (s : State) (t code : Nat) (d : Word) : (s.failItem t code d).works = s.works := by
  unfold State.failItem
  split
  · rfl
  · split
    · exact State.loseRival_works ..
    · exact State.failLaunch_works ..

theorem State.failContrib_works (s : State) (y : Contribution) :
    (s.failContrib y).works = (s.modContrib y fun c => { c with status := 3, draining := true }).works := by
  unfold State.failContrib
  dsimp only
  split
  · split
    · exact State.failItem_works ..
    · rfl
  · rfl

/-! ### Groups -/

theorem repeats_iff (l : List Contribution) :
    (l.any fun y => decide (1 < l.countP fun z => z.rank == y.rank)) = true ↔ ¬ (l.map Contribution.rank).Nodup := by
  rw [List.nodup_iff_count_le_one, List.any_eq_true]
  have hcount (a : Nat) : (l.map Contribution.rank).count a = l.countP fun z => z.rank == a := by
    rw [List.count, List.countP_map]
    rfl
  constructor
  · rintro ⟨y, _, hy⟩ h
    have := h y.rank
    rw [hcount] at this
    simp only [decide_eq_true_eq] at hy
    omega
  · intro h
    obtain ⟨a, ha⟩ := not_forall.1 h
    rw [hcount] at ha
    obtain ⟨y, hy, hya⟩ := List.countP_pos_iff.1 (show 0 < l.countP fun z => z.rank == a by omega)
    rw [← beq_iff_eq.1 hya] at ha
    exact ⟨y, hy, by simpa using ha⟩

/-- The contributions of a group agree with the first in everything but their values and ranks. -/
def EvenWith (x : Contribution) (l : List Contribution) : Prop :=
  ∀ y ∈ l, y.p = x.p ∧ y.op = x.op ∧ y.count = x.count ∧ y.fmt = x.fmt

theorem uneven_iff (x : Contribution) (l : List Contribution) :
    (l.any fun y => decide (y.p ≠ x.p) || decide (y.op ≠ x.op) || decide (y.count ≠ x.count) || decide (y.fmt ≠ x.fmt)) = true
      ↔ ¬ EvenWith x l := by
  unfold EvenWith
  rw [List.any_eq_true]
  push Not
  refine exists_congr fun y => and_congr_right fun _ => ?_
  simp only [Bool.or_eq_true, decide_eq_true_eq]
  tauto

/-- The contributions that a group leaves. -/
def State.dropGroup (s : State) (pid g : Nat) (q : Word) : State :=
  { s with groups := s.groups.filter fun c => !(c.part == pid && c.group == g && c.seq == q) }

/-- The words of a record of contributions that are awaited no more, for a group. -/
def deadKey (pid g : Nat) (q : Word) (z : Nat × Nat × Word × Nat) : Bool := z.1 == pid && z.2.1 == g && z.2.2.1 == q

theorem mem_dropGroup {s : State} {pid g : Nat} {q : Word} {c : Contribution} (h : c ∈ (s.dropGroup pid g q).groups) :
    ¬ (c.part = pid ∧ c.group = g ∧ c.seq = q) := by
  rintro ⟨h1, h2, h3⟩
  have := (List.mem_filter.1 h).2
  simp [h1, h2, h3] at this

section
variable {s : State} {pid g : Nat} {q : BitVec 64} {x : Contribution} {xs : List Contribution}
  (hl : s.groupOf pid g q = x :: xs)
include hl

theorem reduceCombine_waits (he : EvenWith x (x :: xs)) (hn : ((x :: xs).map Contribution.rank).Nodup)
    (hd : (s.deadGroups.find? (deadKey pid g q)).map (fun z => z.2.2.2) = none) (hp : (x :: xs).length < x.p) :
    exec (.reduceCombine pid g q) s = .next s := by
  show execReduceCombine pid g q s = _
  unfold execReduceCombine
  rw [hl]
  have hu := (not_congr (uneven_iff x (x :: xs))).2 (not_not.2 he)
  have hr := (not_congr (repeats_iff (x :: xs))).2 (not_not.2 hn)
  rw [Option.map_eq_none_iff] at hd
  simp only [Bool.not_eq_true] at hu hr
  simp only [hu, hr, if_pos hp]
  have hd' : (s.deadGroups.find? fun z => z.1 == pid && z.2.1 == g && z.2.2.1 == q) = none := hd
  rw [hd']
  rfl

theorem reduceCombine_combines (he : EvenWith x (x :: xs)) (hn : ((x :: xs).map Contribution.rank).Nodup)
    (hd : (s.deadGroups.find? (deadKey pid g q)).map (fun z => z.2.2.2) = none) (hp : x.p ≤ (x :: xs).length) :
    exec (.reduceCombine pid g q) s = .next ((x :: xs).foldl (fun s y => s.modContrib y fun c =>
      { c with
        vals := (List.range x.count).map fun k =>
          redcCombine x.op (fmtInt x.fmt) ((x :: xs).map fun y => (y.vals[k]?).getD none)
        phase := 2
        pos := 0 }) (s.dropGroup pid g q)) := by
  show execReduceCombine pid g q s = _
  unfold execReduceCombine
  rw [hl]
  have hu := (not_congr (uneven_iff x (x :: xs))).2 (not_not.2 he)
  have hr := (not_congr (repeats_iff (x :: xs))).2 (not_not.2 hn)
  rw [Option.map_eq_none_iff] at hd
  simp only [Bool.not_eq_true] at hu hr
  simp only [hu, hr, if_neg (Nat.not_lt.2 hp)]
  have hd' : (s.deadGroups.find? fun z => z.1 == pid && z.2.1 == g && z.2.2.1 == q) = none := hd
  rw [hd']
  rfl

theorem reduceCombine_fails (h : ¬ EvenWith x (x :: xs) ∨ ¬ ((x :: xs).map Contribution.rank).Nodup
      ∨ (s.deadGroups.find? (deadKey pid g q)).map (fun z => z.2.2.2) ≠ none) :
    let all := ((s.deadGroups.find? (deadKey pid g q)).map fun z => z.2.2.2).getD
      (((x :: xs).map Contribution.p).foldl Nat.max 0)
    exec (.reduceCombine pid g q) s = .next ((x :: xs).foldl State.failContrib
      { s.dropGroup pid g q with
        deadGroups := s.deadGroups.filter (fun z => !deadKey pid g q z)
          ++ if all ≤ (x :: xs).length then [] else [(pid, g, q, all - (x :: xs).length)] }) := by
  show execReduceCombine pid g q s = _
  unfold execReduceCombine
  rw [hl]
  have hc : ((x :: xs).any fun y => decide (y.p ≠ x.p) || decide (y.op ≠ x.op) || decide (y.count ≠ x.count)
        || decide (y.fmt ≠ x.fmt)) = true
      ∨ ((x :: xs).any fun y => decide (1 < (x :: xs).countP fun z => z.rank == y.rank)) = true
      ∨ ((s.deadGroups.find? (deadKey pid g q)).map fun z => z.2.2.2).isSome = true := by
    rwa [uneven_iff, repeats_iff, ← Option.ne_none_iff_isSome]
  simp only [List.foldl_map]
  rw [if_pos]
  · rfl
  · simp only [Bool.or_eq_true]
    rcases hc with h | h | h
    · exact .inl (.inl h)
    · exact .inl (.inr h)
    · exact .inr h

end

theorem Contribution.owns_of {y : Contribution} {c : EngCmd} (h : c.op = 3 ∧ c.page = y.page ∧ c.ticket = y.ticket
    ∧ c.phase = 1 ∧ gGroup c.bytes = y.group ∧ gSeq c.bytes = y.seq ∧ gRank c.bytes = y.rank) : y.owns c = true := by
  obtain ⟨h1, h2, h3, h4, h5, h6, h7⟩ := h
  simp [Contribution.owns, h1, h2, h3, h4, h5, h6, h7]

theorem reductions : Claims.Reductions := by
  intro s pid g q x xs hl
  refine ⟨fun he hn hd hp => reduceCombine_waits hl he hn hd hp, fun he hn hd hp => ?_, fun h => ?_⟩
  · have hkeep {β : Type} (π : State → β) (h : ∀ (u : State) (y : Contribution) (f : EngCmd → EngCmd),
        π (u.modContrib y f) = π u) (f : EngCmd → EngCmd) (l : List Contribution) (u : State) :
        π (l.foldl (fun s y => s.modContrib y f) u) = π u := foldl_same π (fun u y => h u y f) l u
    refine ⟨_, reduceCombine_combines hl he hn hd hp, hkeep State.mem (fun _ _ _ => rfl) _ _ _,
      hkeep State.pages (fun _ _ _ => rfl) _ _ _, fun c hc => ?_, fun y hy c hc hs => ?_⟩
    · rw [hkeep State.groups (fun _ _ _ => rfl)] at hc
      exact mem_dropGroup hc
    · refine foldl_modContrib (fun _ _ => rfl) (fun z d hz => ?_) (x :: xs) (s.dropGroup pid g q) y hy c hc
        (Contribution.owns_of hs)
      simp [Contribution.owns] at hz
  · have hw (u : State) (l : List Contribution) : (l.foldl State.failContrib u).mem = u.mem
        ∧ (l.foldl State.failContrib u).groups = u.groups ∧ (l.foldl State.failContrib u).deadGroups = u.deadGroups := by
      have hstep (v : State) (y : Contribution) : (v.failContrib y).mem = v.mem ∧ (v.failContrib y).groups = v.groups
          ∧ (v.failContrib y).deadGroups = v.deadGroups := by
        have := State.failContrib_works v y
        simp only [State.works, Prod.mk.injEq] at this
        exact ⟨this.1, this.2.2.1, this.2.2.2⟩
      exact ⟨foldl_same State.mem (fun v y => (hstep v y).1) l u, foldl_same State.groups (fun v y => (hstep v y).2.1) l u,
        foldl_same State.deadGroups (fun v y => (hstep v y).2.2) l u⟩
    refine ⟨_, reduceCombine_fails hl h, (hw _ _).1, fun c hc => ?_, fun z hz hk => ?_, fun hlt => ?_,
      fun y hy c hc hs => ?_⟩
    · rw [(hw _ _).2.1] at hc
      exact mem_dropGroup hc
    · rw [(hw _ _).2.2] at hz
      rcases List.mem_append.1 hz with hz | hz
      · have := (List.mem_filter.1 hz).2
        rw [show deadKey pid g q z = true from hk] at this
        cases this
      · split at hz
        · cases hz
        · rw [List.mem_singleton.1 hz]
          exact ⟨Nat.lt_of_not_le ‹_›, rfl⟩
    · rw [(hw _ _).2.2]
      refine List.mem_append_right _ ?_
      split
      · exact absurd ‹_› (Nat.not_le.2 hlt)
      · exact List.mem_singleton_self _
    · refine foldl_modContrib (f := fun c => { c with status := 3, draining := true }) (fun v z => ?_) (fun _ _ _ => rfl)
        (x :: xs) _ y hy c hc (Contribution.owns_of hs)
      have := State.failContrib_works v z
      simp only [State.works, Prod.mk.injEq] at this
      exact this.2.1

end Sys2Proof.Machine
end

section
/-! SUPPORT. Commands of engines: how one is taken from a cmd port, and what is left as one ends. -/

namespace Sys2Proof.Machine

open Sys2Proof.Claims

/-! ### COMMAND tokens -/

theorem engineTakeCommand_eq {s : State} {p : Nat} {tok : Token} {rest : List Token} {tr : Truss}
    (hr : s.fabricRuns p = true) (hm : s.inMove p = false) (hc : (s.page p).cmd = tok :: rest) (ht : s.trussOf p = some tr)
    (hk : tok.kind = 3) :
    (∀ op sel addr crx g, tok.packet = some (op, sel, addr, crx) → s.chooseEngine (bayOf p) op sel = some g →
      ∃ t c, exec (.engineTakeCommand p) s = .next t ∧ t.mem = s.mem ∧ (t.page p).cmd = rest
        ∧ (fgetD t.engines g Engine.reset).cmds = (fgetD s.engines g Engine.reset).cmds ++ [c]
        ∧ c.op = op ∧ c.page = p ∧ c.ticket = none ∧ c.crx = crx ∧ c.idx = [BitVec.ofNat 64 addr] ∧ c.part = tr.part)
    ∧ (∀ op sel addr crx, tok.packet = some (op, sel, addr, crx) → s.chooseEngine (bayOf p) op sel = none →
      exec (.engineTakeCommand p) s = .next s)
    ∧ (tok.packet = none → exec (.engineTakeCommand p) s =
      if decide (tok.lanesUsed = 4) && (lane tok.data 3).toNat.testBit 0 then
        if 4 ≤ (s.page p).crxHeld then .next s
        else .next (((s.setPage p { s.page p with cmd := rest }).crxDone p 3).cfgInvalid (s.page p).truss (s.cmdElem p))
      else .next ((s.setPage p { s.page p with cmd := rest }).cfgInvalid (s.page p).truss (s.cmdElem p))) := by
  have he : exec (.engineTakeCommand p) s = execEngineTakeCommand p s := rfl
  have hkn : tok.kind.toNat = 3 := by rw [hk]; rfl
  rw [he]
  simp only [execEngineTakeCommand, hr, hm, hc, ht, hkn]
  refine ⟨fun op sel addr crx g hp hg => ?_, fun op sel addr crx hp hg => ?_, fun hp => ?_⟩
  · simp only [hp, hg]
    refine ⟨_, { EngCmd.start op [] tr (s.page p).truss p none with
      elem := s.cmdElem p, crx := crx, idx := [BitVec.ofNat 64 addr] }, rfl, rfl, ?_, ?_, rfl, rfl, rfl, rfl, rfl, rfl⟩
    · exact congrArg Page.cmd (State.page_setPage s p _)
    · simp only [fgetD, fget_fput_same, Option.getD_some]
      rfl
  · simp only [hp, hg]
    rfl
  · simp only [hp]
    cases h : decide (tok.lanesUsed = 4) && (lane tok.data 3).toNat.testBit 0 with
    | false => rfl
    | true => by_cases h4 : 4 ≤ (s.page p).crxHeld <;> simp [h4]

theorem completionToken_low (n : Nat) : (completionToken 0x0A 3 n).data.extractLsb' 0 16 = 0x030A#16 := by
  refine BitVec.eq_of_toNat_eq ?_
  show (BitVec.extractLsb' 0 16 (BitVec.ofNat 512 (0x0A % 256 + 3 % 128 * 256 + n % 2 ^ 32 * 2 ^ 32))).toNat = 0x030A
  rw [BitVec.extractLsb'_toNat, BitVec.toNat_ofNat]
  omega

theorem State.crxDone_page (s : State) (p st : Nat) : (s.crxDone p st).page p =
    { s.page p with
      crx := (s.page p).crx ++ [completionToken 0x0A st ((Config.freeWord s.freeCount).toNat % 2 ^ 32)]
      core := { (s.page p).core with event := true } } := State.page_setPage ..

/-- The completion token of a malformed command joins crx, and the cmd port has lost its token. -/
theorem malformed_page (s : State) (p : Nat) (rest : List Token) (tr el : Nat) :
    let t := ((s.setPage p { s.page p with cmd := rest }).crxDone p 3).cfgInvalid tr el
    (t.page p).cmd = rest ∧ ∃ k, (t.page p).crx = (s.page p).crx ++ [k] ∧ k.kind = 0 ∧ k.out = true
      ∧ k.data.extractLsb' 0 16 = 0x030A#16 := by
  have hd := (coresDiffer_failTruss ((s.setPage p { s.page p with cmd := rest }).crxDone p 3) tr 0x03 el (el / 64)).page p
  have hp : ((s.setPage p { s.page p with cmd := rest }).crxDone p 3).page p
      = { s.page p with
          cmd := rest
          crx := (s.page p).crx ++ [completionToken 0x0A 3 ((Config.freeWord s.freeCount).toNat % 2 ^ 32)]
          core := { (s.page p).core with event := true } } := by
    rw [State.crxDone_page, State.page_setPage]
    rfl
  dsimp only [State.cfgInvalid]
  rw [hd, hp]
  exact ⟨rfl, _, rfl, rfl, rfl, completionToken_low _⟩

theorem takeCommand_spec {s : State} {p : Nat} {tok : Token} {rest : List Token}
    (hn : exec (.engineTakeCommand p) s =
      if decide (tok.lanesUsed = 4) && (lane tok.data 3).toNat.testBit 0 then
        if 4 ≤ (s.page p).crxHeld then .next s
        else .next (((s.setPage p { s.page p with cmd := rest }).crxDone p 3).cfgInvalid (s.page p).truss (s.cmdElem p))
      else .next ((s.setPage p { s.page p with cmd := rest }).cfgInvalid (s.page p).truss (s.cmdElem p))) :
    let asks := tok.lanesUsed = 4 ∧ (lane tok.data 3).getLsbD 0 = true
    (¬ asks → exec (.engineTakeCommand p) s =
      .next ((s.setPage p { s.page p with cmd := rest }).cfgInvalid (s.page p).truss (s.cmdElem p)))
    ∧ (asks → 4 ≤ (s.page p).crxHeld → exec (.engineTakeCommand p) s = .next s)
    ∧ (asks → (s.page p).crxHeld < 4 → ∃ t k, exec (.engineTakeCommand p) s = .next t ∧ t.mem = s.mem
      ∧ (t.page p).cmd = rest ∧ (t.page p).crx = (s.page p).crx ++ [k] ∧ k.kind = 0 ∧ k.out = true
      ∧ k.data.extractLsb' 0 16 = 0x030A#16) := by
  have hb : (decide (tok.lanesUsed = 4) && (lane tok.data 3).toNat.testBit 0) = true
      ↔ tok.lanesUsed = 4 ∧ (lane tok.data 3).getLsbD 0 = true := by
    rw [Bool.and_eq_true, decide_eq_true_eq]
    rfl
  rw [hn]
  refine ⟨fun h => if_neg (fun k => h (hb.1 k)), fun h h4 => ?_, fun h h4 => ?_⟩
  · rw [if_pos (hb.2 h), if_pos h4]
  · rw [if_pos (hb.2 h), if_neg (Nat.not_le.2 h4)]
    obtain ⟨hcmd, k, hcrx, hk⟩ := malformed_page s p rest (s.page p).truss (s.cmdElem p)
    refine ⟨_, k, rfl, ?_, hcmd, hcrx, hk⟩
    rw [State.cfgInvalid_mem, State.crxDone_mem, State.setPage_mem]

/-! ### What the end of a command leaves -/

/-- The engines, and what each core holds of its tickets. -/
def State.ledger (s : State) : FMap Engine × (Nat → FMap Nat × Nat) :=
  (s.engines, fun p => ((s.page p).core.tickets, (s.page p).core.ticket))

theorem State.setPage_ledger (s : State) (p : Nat) {pg : Page} (h1 : pg.core.tickets = (s.page p).core.tickets)
    (h2 : pg.core.ticket = (s.page p).core.ticket) : (s.setPage p pg).ledger = s.ledger := by
  refine congrArg (Prod.mk s.engines) (funext fun q => ?_)
  by_cases h : q = p
  · rw [h, State.page_setPage, h1, h2]
  · rw [State.page_setPage_other h]

theorem Core.askStop_tickets (c : Core) : c.askStop.tickets = c.tickets ∧ c.askStop.ticket = c.ticket := by
  unfold Core.askStop
  split
  · split <;> exact ⟨rfl, rfl⟩
  · exact ⟨rfl, rfl⟩

theorem State.stopTruss_ledger (s : State) (t : Nat) : (s.stopTruss t).ledger = s.ledger := by
  unfold State.stopTruss
  split
  · rfl
  · split
    · rfl
    · exact foldl_same State.ledger (fun u p => u.setPage_ledger p (pg := { u.page p with core := (u.page p).core.askStop })
        (Core.askStop_tickets _).1 (Core.askStop_tickets _).2) _ s

theorem State.failLaunch_ledger (s : State) (l code : Nat) (d : Word) : (s.failLaunch l code d).ledger = s.ledger := by
  unfold State.failLaunch
  split
  · rfl
  · split <;> rfl

theorem State.failTruss_ledger (s : State) (t code el ix : Nat) : (s.failTruss t code el ix).ledger = s.ledger := by
  have hlose (u : State) (x : Nat) : ((u.stopTruss x).markFailed x).ledger = u.ledger := State.stopTruss_ledger u x
  unfold State.failTruss
  split
  · rfl
  · dsimp only
    split
    · unfold State.loseRival
      split
      · rfl
      · exact foldl_same State.ledger hlose _ _
    · exact (foldl_same State.ledger State.stopTruss_ledger _ _).trans (State.failLaunch_ledger ..)

theorem State.setElem_ledger (s : State) (p e : Nat) (x : Elem) : (s.setElem p e x).ledger = s.ledger :=
  s.setPage_ledger p rfl rfl

theorem State.readTable_ledger (s : State) (p e : Nat) : (s.readTable p e).ledger = s.ledger := by
  unfold State.readTable
  dsimp only
  split
  · rfl
  · split
    · rfl
    · split
      · exact State.setElem_ledger ..
      · exact (State.failTruss_ledger ..).trans (State.setElem_ledger ..)

theorem State.setTileState_ledger (s : State) (p e n : Nat) (st : BitVec 2) : (s.setTileState p e n st).ledger = s.ledger := by
  unfold State.setTileState
  dsimp only
  split
  · refine (State.setPage_ledger (s.readTable p e) p ?_ ?_).trans (State.readTable_ledger ..) <;> rfl
  · refine State.setPage_ledger s p ?_ ?_ <;> rfl

theorem State.setSide_ledger (s : State) (x : Side) (st : BitVec 2) : (s.setSide x st).ledger = s.ledger := by
  cases x with
  | tensor g slot gen => rfl
  | plate p e n => exact State.setTileState_ledger ..

theorem State.releaseSides_ledger (s : State) (a b : Side) : (s.releaseSides a b).ledger = s.ledger := by
  unfold State.releaseSides
  refine (State.setSide_ledger ..).trans ?_
  split
  · rfl
  · exact State.setSide_ledger ..

/-- References of slots change no page and no engine. -/
theorem State.refCmd_pages (s : State) (op : Nat) (d : List Byte) (part : Nat) (take : Bool) :
    (s.refCmd op d part take).pages = s.pages ∧ (s.refCmd op d part take).engines = s.engines := by
  have hslot (u : State) (h : Nat) : ((if take then u.refSlot part h else u.unrefSlot part h) : State).pages = u.pages
      ∧ ((if take then u.refSlot part h else u.unrefSlot part h) : State).engines = u.engines := by
    split
    · unfold State.refSlot
      split <;> exact ⟨rfl, rfl⟩
    · unfold State.unrefSlot
      split
      · exact ⟨rfl, rfl⟩
      · dsimp only
        split
        · split <;> exact ⟨rfl, rfl⟩
        · exact ⟨rfl, rfl⟩
  exact ⟨foldl_same State.pages (fun u h => (hslot u (hSlot h)).1) _ s,
    foldl_same State.engines (fun u h => (hslot u (hSlot h)).2) _ s⟩

/-! ### The tiles that a command held -/

/-- A tile of a page. -/
def State.tileOf (s : State) (p e n : Nat) : Tile := (s.page p).tile e n

theorem State.setTileState_same (s : State) (p e n : Nat) (st : BitVec 2) :
    ((s.setTileState p e n st).tileOf p e n).state = st := by
  unfold State.setTileState State.tileOf
  dsimp only
  rw [State.page_setPage]
  simp [Page.tile, Page.setTile, fgetD]

theorem State.setTileState_others {s : State} {p e n q y z : Nat} {st : BitVec 2} (hn : n < 64) (hz : z < 64)
    (h : (q, y, z) ≠ (p, e, n)) : (s.setTileState p e n st).tileOf q y z = s.tileOf q y z := by
  unfold State.tileOf
  by_cases hq : q = p
  · subst hq
    exact (State.setTileState_tiles s q e n st hn).2 y z hz fun he => h (congrArg (Prod.mk q) he)
  · refine congrArg (fun m => fgetD m (y * 64 + z) Tile.reset) ?_
    unfold State.setTileState
    dsimp only
    rw [State.page_setPage_other hq]
    split
    · exact State.readTable_tiles ..
    · rfl

theorem State.releaseSides_tiles {s : State} {x : Side} {q e n : Nat} :
    ((s.releaseSides x (.plate q e n)).tileOf q e n).state = 1
      ∧ ∀ q' e' n', x = .plate q' e' n' → e' < 64 → n' < 64 → e < 64 → n < 64 → (q', e', n') ≠ (q, e, n) →
        ((s.releaseSides x (.plate q e n)).tileOf q' e' n').state = 0 := by
  unfold State.releaseSides
  refine ⟨State.setTileState_same .., fun q' e' n' hx _ hn' _ hn hne => ?_⟩
  subst hx
  rw [if_neg fun he => hne (by rw [Side.plate.injEq] at he; rw [he.1, he.2.1, he.2.2])]
  refine (congrArg Tile.state (State.setTileState_others hn hn' hne)).trans ?_
  exact State.setTileState_same ..

/-! ### The end of a command -/

/-- A command that ends lets go of its tiles and of its slots. -/
def State.cmdLetsGo (s : State) (g : Nat) (c : EngCmd) (tr : Truss) : State :=
  ((((s.engSides c.op c.bytes tr (g / 8)).map fun z => s.releaseSides z.1 z.2).getD s)).refCmd c.op c.bytes c.part false

theorem State.cmdLetsGo_ledger (s : State) (g : Nat) (c : EngCmd) (tr : Truss) : (s.cmdLetsGo g c tr).ledger = s.ledger := by
  unfold State.cmdLetsGo
  generalize hu : ((s.engSides c.op c.bytes tr (g / 8)).map fun z => s.releaseSides z.1 z.2).getD s = u
  have hul : u.ledger = s.ledger := by
    rw [← hu]
    cases s.engSides c.op c.bytes tr (g / 8) with
    | none => rfl
    | some z => exact State.releaseSides_ledger ..
  obtain ⟨hp, he⟩ := u.refCmd_pages c.op c.bytes c.part false
  refine Eq.trans ?_ hul
  unfold State.ledger State.page
  rw [hp, he]

theorem State.cmdLetsGo_tileOf {s : State} {g : Nat} {c : EngCmd} {tr : Truss} {x y : Side}
    (h : s.engSides c.op c.bytes tr (g / 8) = some (x, y)) (p e n : Nat) :
    (s.cmdLetsGo g c tr).tileOf p e n = (s.releaseSides x y).tileOf p e n := by
  unfold State.cmdLetsGo State.tileOf State.page
  rw [(State.refCmd_pages ..).1, h]
  rfl

/-- A ticket of a core that reads a status, with the rows that its command skipped. -/
def State.ticketReads (s : State) (p n st rows : Nat) : State :=
  s.modCore p fun k => { (k.setTicket n st).setSkips n rows with event := true }

theorem State.ticketReads_spec (s : State) (p n st rows : Nat) :
    ((s.ticketReads p n st rows).page p).core.tickets = ((s.page p).core.setTicket n st).tickets
      ∧ fgetD ((s.ticketReads p n st rows).page p).core.skips n 0 = rows
      ∧ ((s.ticketReads p n st rows).page p).core.event = true := by
  rw [State.ticketReads, State.modCore, State.page_setPage]
  refine ⟨rfl, ?_, rfl⟩
  simp only [Core.setSkips]
  split
  · rename_i h
    rw [fset, fgetD, fget_fdel_same, h]
    rfl
  · rw [fset, fgetD, fget_fput_same]
    rfl

theorem State.ticketReads_tileOf (s : State) (p n st rows q e m : Nat) :
    (s.ticketReads p n st rows).tileOf q e m = s.tileOf q e m := by
  refine congrArg (fun l => fgetD l (e * 64 + m) Tile.reset) ?_
  exact (coresDiffer_modCore s p _).tiles q

theorem State.finishCmd_eq {s : State} {g : Nat} {c : EngCmd} {tr : Truss} {st : Nat} (hcrx : c.crx = false)
    (hb : c.bytes ≠ []) : s.finishCmd g c tr st =
      let u := (c.ticket.map fun n => (s.cmdLetsGo g c tr).ticketReads c.page n st c.skipped).getD (s.cmdLetsGo g c tr)
      { u with engines := fmod u.engines g fun e => { e with cmds := e.cmds.drop 1 } } := by
  have he : c.bytes.isEmpty = false := by simpa using hb
  have hs : s.engSides c.op c.bytes tr (engAgent g).bay = s.engSides c.op c.bytes tr (g / 8) := rfl
  unfold State.finishCmd State.cmdLetsGo
  simp only [he, hcrx, hs]
  cases s.engSides c.op c.bytes tr (g / 8) <;> cases c.ticket <;> rfl

theorem State.finishCmd_cmds {s : State} {g : Nat} {c : EngCmd} {tr : Truss} {st : Nat} (hcrx : c.crx = false)
    (hb : c.bytes ≠ []) : (s.finishCmd g c tr st).cmdsOf g = (s.cmdsOf g).drop 1 := by
  have hl : (s.cmdLetsGo g c tr).engines = s.engines := congrArg Prod.fst (s.cmdLetsGo_ledger g c tr)
  have hu : ((c.ticket.map fun n => (s.cmdLetsGo g c tr).ticketReads c.page n st c.skipped).getD (s.cmdLetsGo g c tr)).engines
      = s.engines := by
    cases c.ticket with
    | none => exact hl
    | some n => exact hl
  rw [State.finishCmd_eq hcrx hb]
  unfold State.cmdsOf
  simp only [hu, fgetD, fget_fmod]
  cases fget s.engines g <;> rfl

theorem State.finishCmd_ticket {s : State} {g : Nat} {c : EngCmd} {tr : Truss} {st n : Nat} (hcrx : c.crx = false)
    (hb : c.bytes ≠ []) (hn : c.ticket = some n) :
    ((s.finishCmd g c tr st).page c.page).core.tickets = ((s.page c.page).core.setTicket n st).tickets
      ∧ fgetD ((s.finishCmd g c tr st).page c.page).core.skips n 0 = c.skipped
      ∧ ((s.finishCmd g c tr st).page c.page).core.event = true := by
  have hl := congrFun (congrArg Prod.snd (s.cmdLetsGo_ledger g c tr)) c.page
  simp only [State.ledger, Prod.mk.injEq] at hl
  obtain ⟨htickets, hticket⟩ := hl
  rw [State.finishCmd_eq hcrx hb, hn]
  obtain ⟨h1, h2, h3⟩ := (s.cmdLetsGo g c tr).ticketReads_spec c.page n st c.skipped
  refine ⟨h1.trans ?_, h2, h3⟩
  unfold Core.setTicket
  rw [htickets, hticket]

theorem State.finishCmd_tileOf {s : State} {g : Nat} {c : EngCmd} {tr : Truss} {st : Nat} {x y : Side} (hcrx : c.crx = false)
    (hb : c.bytes ≠ []) (hs : s.engSides c.op c.bytes tr (g / 8) = some (x, y)) (p e n : Nat) :
    (s.finishCmd g c tr st).tileOf p e n = (s.releaseSides x y).tileOf p e n := by
  rw [State.finishCmd_eq hcrx hb]
  refine Eq.trans ?_ (State.cmdLetsGo_tileOf hs p e n)
  cases c.ticket with
  | none => rfl
  | some m => exact State.ticketReads_tileOf ..

end Sys2Proof.Machine
end

section
/-! SUPPORT. Blocks that engines write: the order they are taken in, and what one is composed of. -/

namespace Sys2Proof.Machine

open Sys2Proof.Claims

/-! ### Lists of sources -/

theorem mem_firsts {l : List Nat} {a : Nat} : a ∈ firsts l ↔ a ∈ l := by
  have h (l r : List Nat) : a ∈ l.foldl (fun r k => if r.contains k then r else r ++ [k]) r ↔ a ∈ r ∨ a ∈ l := by
    induction l generalizing r with
    | nil => simp
    | cons k l ih =>
      rw [List.foldl_cons, ih]
      by_cases hk : r.contains k = true
      · rw [if_pos hk]
        have : k ∈ r := by simpa using hk
        constructor
        · rintro (h | h)
          · exact .inl h
          · exact .inr (List.mem_cons_of_mem _ h)
        · rintro (h | h)
          · exact .inl h
          · rcases List.mem_cons.1 h with rfl | h
            · exact .inl this
            · exact .inr h
      · rw [if_neg hk]
        simp only [List.mem_append, List.mem_cons, List.not_mem_nil, or_false, or_assoc]
  exact (h l []).trans (by simp)

theorem nodup_firsts (l : List Nat) : (firsts l).Nodup := by
  have h (l r : List Nat) (hr : r.Nodup) : (l.foldl (fun r k => if r.contains k then r else r ++ [k]) r).Nodup := by
    induction l generalizing r with
    | nil => exact hr
    | cons k l ih =>
      rw [List.foldl_cons]
      refine ih _ ?_
      split
      · exact hr
      · rename_i hk
        refine List.nodup_append.2 ⟨hr, List.nodup_singleton k, fun a ha b hb => ?_⟩
        rw [List.mem_singleton.1 hb]
        rintro rfl
        exact hk (by simpa using ha)
  exact h l [] List.nodup_nil

/-- The firsts of a list of one value are at most one. -/
theorem length_firsts_le_one {l : List Nat} {a : Nat} (h : ∀ b ∈ l, b = a) : (firsts l).length ≤ 1 := by
  have hr : firsts l = List.replicate (firsts l).length a := List.eq_replicate_of_mem fun b hb => h b (mem_firsts.1 hb)
  have hn := nodup_firsts l
  rw [hr] at hn
  exact List.nodup_replicate.1 hn

theorem mem_of_mem_lastPairs {b : Side} {elw blk : Nat} {ps : List (Nat × Nat)} {z : Nat × Nat}
    (h : z ∈ lastPairs b elw blk ps) : z ∈ ps := by
  have hf (l r : List (Nat × Nat)) (hz : z ∈ l.foldl (fun l z => (l.filter fun q => decide (q.2 ≠ z.2)) ++ [z]) r) :
      z ∈ r ∨ z ∈ l := by
    induction l generalizing r with
    | nil => exact .inl hz
    | cons y l ih =>
      rcases ih _ hz with h | h
      · rcases List.mem_append.1 h with h | h
        · exact .inl (List.mem_of_mem_filter h)
        · rw [List.mem_singleton.1 h]
          exact .inr List.mem_cons_self
      · exact .inr (List.mem_cons_of_mem _ h)
  rcases hf _ [] h with h | h
  · cases h
  · exact List.mem_of_mem_filter h

/-- A pair may always take its own source. -/
theorem own_mem_openSources (op : Nat) (same : Bool) (pl mine : List (Nat × Nat)) (z : Nat × Nat) :
    z.1 ∈ openSources op same pl mine z := by
  have hown : z.1 ∈ firsts (z.1 :: if op = 0 then (pl.filter fun q => decide (q.2 = z.2)).map Prod.fst else []) :=
    mem_firsts.2 List.mem_cons_self
  have hadd (l : List Nat) (ps : List (Nat × Nat)) (h : z.1 ∈ l) :
      z.1 ∈ firsts (l ++ (ps.filter fun q => l.contains q.2).map Prod.fst) := mem_firsts.2 (List.mem_append_left _ h)
  have hfold (k : List Nat) (l : List Nat) (h : z.1 ∈ l) :
      z.1 ∈ k.foldl (fun l _ => firsts (l ++ (mine.filter fun q => l.contains q.2).map Prod.fst)) l := by
    induction k generalizing l with
    | nil => exact h
    | cons _ k ih => exact ih _ (hadd l mine h)
  unfold openSources
  dsimp only
  generalize firsts (z.1 :: if op = 0 then (pl.filter fun q => decide (q.2 = z.2)).map Prod.fst else []) = own at hown ⊢
  split
  · exact hadd _ pl (hfold _ _ hown)
  · exact hown

/-- Where the sides are distinct, and no two pairs of a CPY have one destination, a pair has its own source alone. -/
theorem length_openSources_le_one {op : Nat} {pl mine : List (Nat × Nat)} {z : Nat × Nat} (hz : z ∈ pl)
    (hd : op = 0 → (pl.map Prod.snd).Nodup) : (openSources op false pl mine z).length ≤ 1 := by
  unfold openSources
  simp only [Bool.false_and, Bool.false_eq_true, if_false]
  refine length_firsts_le_one (a := z.1) fun b hb => ?_
  rcases List.mem_cons.1 hb with rfl | hb
  · rfl
  · split at hb
    · rename_i h0
      obtain ⟨q, hq, rfl⟩ := List.mem_map.1 hb
      obtain ⟨hq, hqz⟩ := List.mem_filter.1 hq
      rw [List.inj_on_of_nodup_map (hd h0) hq hz (of_decide_eq_true hqz)]
    · cases hb

/-- What a pair may become as its source is chosen: its destination stays, and a pair of one source stays whole. -/
def Chosen (z : (Nat × Nat) × List Nat) (w : Nat × Nat) : Prop :=
  w.2 = z.1.2 ∧ (w.1 = z.1.1 ∨ w.1 ∈ z.2) ∧ (z.2.length ≤ 1 → w = z.1)

theorem State.chooseSources_spec (s : State) (l : List ((Nat × Nat) × List Nat)) :
    (∃ n, (s.chooseSources l).2 = { s with freeCount := n }) ∧ List.Forall₂ Chosen l (s.chooseSources l).1 := by
  have h (l : List ((Nat × Nat) × List Nat)) (r : List (Nat × Nat) × State) (n : Nat)
      (hr : r.2 = { s with freeCount := n }) : ∃ picks n', l.foldl (fun (r : List (Nat × Nat) × State) z =>
        if z.2.length ≤ 1 then (r.1 ++ [z.1], r.2)
        else
          let v := r.2.freeVal
          (r.1 ++ [((z.2[v.1.toNat % z.2.length]?).getD z.1.1, z.1.2)], v.2)) r
        = (r.1 ++ picks, { s with freeCount := n' }) ∧ List.Forall₂ Chosen l picks := by
    induction l generalizing r n with
    | nil => exact ⟨[], n, by rw [List.append_nil, ← hr]; rfl, .nil⟩
    | cons z l ih =>
      rw [List.foldl_cons]
      by_cases hz : z.2.length ≤ 1
      · rw [if_pos hz]
        obtain ⟨picks, n', he, hp⟩ := ih (r.1 ++ [z.1], r.2) n hr
        refine ⟨z.1 :: picks, n', ?_, .cons ⟨rfl, .inl rfl, fun _ => rfl⟩ hp⟩
        rw [he, List.append_assoc]
        rfl
      · rw [if_neg hz]
        obtain ⟨picks, n', he, hp⟩ := ih (r.1 ++ [((z.2[r.2.freeVal.1.toNat % z.2.length]?).getD z.1.1, z.1.2)],
          r.2.freeVal.2) (n + 1) (by rw [State.freeVal, hr])
        refine ⟨((z.2[r.2.freeVal.1.toNat % z.2.length]?).getD z.1.1, z.1.2) :: picks, n',
          he.trans (by rw [List.append_assoc]; rfl), .cons ⟨rfl, ?_, fun h => absurd h hz⟩ hp⟩
        cases hg : z.2[r.2.freeVal.1.toNat % z.2.length]? with
        | none => exact .inl rfl
        | some a => exact .inr (List.mem_of_getElem? hg)
  obtain ⟨picks, n', he, hp⟩ := h l ([], s) s.freeCount rfl
  refine ⟨⟨n', congrArg Prod.snd he⟩, ?_⟩
  have h1 : (s.chooseSources l).1 = picks := (congrArg Prod.fst he).trans (List.nil_append _)
  rw [h1]
  exact hp

/-! ### The command that an engine is at -/

theorem State.modCmd_cmds {s : State} {k : Nat} {c : EngCmd} {more : List EngCmd} (h : s.cmdsOf k = c :: more)
    (f : EngCmd → EngCmd) : (s.modCmd k f).cmdsOf k = f c :: more := by
  unfold State.cmdsOf at h
  unfold State.modCmd State.cmdsOf
  simp only [fgetD, fget_fmod, if_true] at h ⊢
  cases he : fget s.engines k with
  | none => rw [he] at h; cases h
  | some e =>
    rw [he] at h
    simp only [Option.getD_some] at h
    simp only [Option.map_some, Option.getD_some, h]

section
variable {s : State} {b g : Nat} {c : EngCmd} {more : List EngCmd} {tr : Truss} (hg : g ≤ 5)
  (hc : s.cmdsOf (b * 8 + g) = c :: more) (ht : fget s.trusses c.truss = some tr)
  (hs : (s.req (engAgent (b * 8 + g))).stall = none)
include hg hc ht hs

theorem engineComplete_draining (hd : c.draining = true) (hcrx : c.crx = false) :
    exec (.engineCommandComplete b g) s = if s.completeAtScope (engAgent (b * 8 + g)) 2 = false then .next s
      else .next (s.finishCmd (b * 8 + g) c tr (if c.status ≠ 0 then c.status else if c.mix then 5 else 1)) := by
  have hgs : ¬ ((s.req (engAgent (b * 8 + g))).stall.isSome = true ∨ 5 < g) := by simp [hs, hg]
  have hc' : (fgetD s.engines (b * 8 + g) Engine.reset).cmds = c :: more := hc
  show execEngineCommandComplete b g s = _
  unfold execEngineCommandComplete
  simp only [hc', ht, if_neg hgs, hd, hcrx]
  simp

theorem engineComplete_block {x y : Side} (hd : c.draining = false) (hb : c.bytes ≠ []) (h3 : c.op < 3)
    (hi : c.op = 0 ∨ gNidx c.bytes ≤ c.idx.length) (he : s.engSides c.op c.bytes tr b = some (x, y)) :
    exec (.engineCommandComplete b g) s = .next (engBlock (b * 8 + g) c tr x y s) := by
  have hgs : ¬ ((s.req (engAgent (b * 8 + g))).stall.isSome = true ∨ 5 < g) := by simp [hs, hg]
  have hc' : (fgetD s.engines (b * 8 + g) Engine.reset).cmds = c :: more := hc
  have hbe : c.bytes.isEmpty = false := by simpa using hb
  have hop : c.op ≠ 3 := by omega
  have hidx : ¬ (c.op ≠ 0 ∧ c.idx.length < gNidx c.bytes) := by omega
  show execEngineCommandComplete b g s = _
  unfold execEngineCommandComplete
  simp only [hc', ht, if_neg hgs, hd, hbe, he, if_neg hop, if_neg hidx]
  rfl

end

/-- With no block taken, another is, or with none left the command waits for its writes. -/
theorem engBlock_next {s : State} {k : Nat} {c : EngCmd} {more : List EngCmd} (hc : s.cmdsOf k = c :: more) (tr : Truss)
    (x y : Side) (ho : c.order[c.pos]? = none) : (engBlock k c tr x y s).mem = s.mem ∧ (engBlock k c tr x y s).pages = s.pages
      ∧ ∃ d, (engBlock k c tr x y s).cmdsOf k = d :: more
        ∧ (c.rest y (c.plan x y).1 = [] → d.draining = true ∧ d.order = c.order)
        ∧ (c.rest y (c.plan x y).1 ≠ [] → ∃ blk ∈ c.rest y (c.plan x y).1, d = { c with order := c.order ++ [blk] }) := by
  unfold engBlock
  simp only [ho]
  split
  · rename_i hl
    exact ⟨rfl, rfl, _, State.modCmd_cmds hc _, fun _ => ⟨rfl, rfl⟩, fun h => absurd hl h⟩
  · rename_i blk rest hl
    refine ⟨rfl, rfl, _, State.modCmd_cmds (s := s.freeVal.2) hc _, fun h => ?_, fun _ => ⟨_, ?_, rfl⟩⟩
    · rw [hl] at h
      cases h
    · cases hb : (c.rest y (c.plan x y).1)[s.freeVal.1.toNat % (c.rest y (c.plan x y).1).length]? with
      | none => rw [hl]; exact List.mem_cons_self
      | some a => exact List.mem_of_getElem? hb

/-! ### A block from tile to tile -/

theorem Tile.block_setBlock (t : Tile) (k : Nat) (d : Data × Desc) : (t.setBlock k d).block k = d := by
  unfold Tile.setBlock Tile.block fgetD
  dsimp only
  split
  · rename_i h
    rw [fget_fdel_same, h]
    rfl
  · rw [fget_fput_same]
    rfl

/-- The pairs that land in a block, each with the sources that it may take: its own alone where more blocks than the reorder
window holds would be read. -/
def sourcesOf (op : Nat) (x y : Side) (elw blk : Nat) (pl : List (Nat × Nat)) : List ((Nat × Nat) × List Nat) :=
  let ps := lastPairs y elw blk pl
  let wide := ps.map fun z => (z, openSources op (sameSide x y) pl (pl.filter fun q => decide (y.off elw q.2 / 64 = blk)) z)
  if 64 < (firsts ((wide.flatMap Prod.snd).map fun n => x.off elw n / 64)).length then ps.map fun z => (z, [z.1]) else wide

/-- The blocks that those sources stand in. -/
def blocksOf (x : Side) (elw : Nat) (l : List ((Nat × Nat) × List Nat)) : List Nat :=
  firsts ((l.flatMap Prod.snd).map fun n => x.off elw n / 64)

theorem mem_blocksOf {x : Side} {elw : Nat} {l : List ((Nat × Nat) × List Nat)} {z : (Nat × Nat) × List Nat} {n : Nat}
    (hz : z ∈ l) (hn : n ∈ z.2) : x.off elw n / 64 ∈ blocksOf x elw l :=
  mem_firsts.2 (List.mem_map.2 ⟨n, List.mem_flatMap.2 ⟨z, hz, hn⟩, rfl⟩)

/-- Each pair comes with its own source, and with others only where R152 leaves them open. -/
theorem sourcesOf_spec (op : Nat) (x y : Side) (elw blk : Nat) (pl : List (Nat × Nat)) :
    ∃ f : Nat × Nat → List Nat, sourcesOf op x y elw blk pl = (lastPairs y elw blk pl).map (fun z => (z, f z))
      ∧ ∀ z, z.1 ∈ f z ∧ (f z = [z.1]
        ∨ f z = openSources op (sameSide x y) pl (pl.filter fun q => decide (y.off elw q.2 / 64 = blk)) z) := by
  unfold sourcesOf
  dsimp only
  split
  · exact ⟨fun z => [z.1], rfl, fun z => ⟨List.mem_singleton_self _, .inl rfl⟩⟩
  · exact ⟨_, rfl, fun z => ⟨own_mem_openSources .., .inr rfl⟩⟩

theorem forall₂_getElem {α β : Type} {R : α → β → Prop} {l : List α} {m : List β} (h : List.Forall₂ R l m) {i : Nat} {a : α}
    {b : β} (ha : l[i]? = some a) (hb : m[i]? = some b) : R a b := by
  induction h generalizing i with
  | nil => cases ha
  | cons hr _ ih =>
    cases i with
    | zero => cases ha; cases hb; exact hr
    | succ i => exact ih ha hb

/-- A block of a tile that is made from blocks of a tile. -/
def State.engWritten (s : State) (k : Nat) (q e n blk : Nat) (r : Data × BitVec 64 × Desc × Bool) : State :=
  let w := applyWrite ((s.tileOf q e n).block blk) ⟨.hbm 0, r.1, r.2.2.1, r.2.1, 2⟩
  ((s.setPage q ((s.page q).setTile e n ((s.tileOf q e n).setBlock blk w.1))).modCmd k fun c =>
    { c with mix := c.mix || w.2, pos := c.pos + 1 }).modCmd k fun c => { c with mix := c.mix || r.2.2.2 }

theorem engBlock_plates {s : State} {k : Nat} {c : EngCmd} {tr : Truss} {q e n q' e' n' blk : Nat}
    (ho : c.order[c.pos]? = some blk) :
    let x : Side := .plate q e n
    let y : Side := .plate q' e' n'
    let elw := gElw c.op c.bytes
    let all := sourcesOf c.op x y elw blk (c.plan x y).1
    let src := (blocksOf x elw all).map fun j => (j, (s.tileOf q e n).block j)
    engBlock k c tr x y s
      = (s.chooseSources all).2.engWritten k q' e' n' blk (composeBlock x y elw (s.chooseSources all).1 src) := by
  unfold engBlock
  simp only [ho]
  rfl

theorem engWritten_spec {s : State} {k q e n blk : Nat} {c : EngCmd} {more : List EngCmd} (hc : s.cmdsOf k = c :: more)
    (r : Data × BitVec 64 × Desc × Bool) : (s.engWritten k q e n blk r).mem = s.mem
      ∧ ((s.engWritten k q e n blk r).tileOf q e n).block blk
        = (applyWrite ((s.tileOf q e n).block blk) ⟨.hbm 0, r.1, r.2.2.1, r.2.1, 2⟩).1
      ∧ ((s.engWritten k q e n blk r).cmdsOf k).map EngCmd.pos = (c.pos + 1) :: more.map EngCmd.pos := by
  unfold State.engWritten
  dsimp only
  refine ⟨rfl, ?_, ?_⟩
  · refine (congrArg (fun pg => (Page.tile pg e n).block blk) (State.page_setPage s q _)).trans ?_
    simp only [Page.tile, Page.setTile, fgetD, fget_fput_same, Option.getD_some]
    exact Tile.block_setBlock ..
  · rw [State.modCmd_cmds (State.modCmd_cmds (s := s.setPage q _) hc _)]
    rfl

/-- A block from tile to tile is composed of the elements of the command's plan, each from a source that R152 lets it have. -/
theorem plates_spec {s : State} {k : Nat} {c : EngCmd} {more : List EngCmd} {tr : Truss} {q e n q' e' n' blk : Nat}
    (hc : s.cmdsOf k = c :: more) (ho : c.order[c.pos]? = some blk) :
    let elw := gElw c.op c.bytes
    let x : Side := .plate q e n
    let y : Side := .plate q' e' n'
    let pl := c.plan x y
    let ps := lastPairs y elw blk pl.1
    let mine := pl.1.filter fun z => decide (y.off elw z.2 / 64 = blk)
    let t := engBlock k c tr x y s
    ∃ l src, t.mem = s.mem ∧ (∀ z ∈ src, z.2 = ((s.page q).tile e n).block z.1)
      ∧ (∀ z ∈ l, x.off elw z.1 / 64 ∈ src.map Prod.fst) ∧ l.length = ps.length
      ∧ (∀ (i : Nat) (z w : Nat × Nat), ps[i]? = some z → l[i]? = some w →
        w.2 = z.2 ∧ w.1 ∈ openSources c.op (sameSide x y) pl.1 mine z)
      ∧ ((q, e, n) ≠ (q', e', n') → (c.op = 0 → (pl.1.map Prod.snd).Nodup) → l = ps)
      ∧ ((t.page q').tile e' n').block blk
        = (applyWrite (((s.page q').tile e' n').block blk)
            ⟨.hbm 0, (composeBlock x y elw l src).1, (composeBlock x y elw l src).2.2.1, (composeBlock x y elw l src).2.1,
              2⟩).1
      ∧ (t.cmdsOf k).map EngCmd.pos = (c.pos + 1) :: more.map EngCmd.pos := by
  intro elw x y pl ps mine t
  have htq : t = _ := engBlock_plates (s := s) (k := k) (tr := tr) ho
  obtain ⟨f, hf, hsrc⟩ := sourcesOf_spec c.op x y elw blk pl.1
  obtain ⟨⟨m, hm⟩, hch⟩ := s.chooseSources_spec (sourcesOf c.op x y elw blk pl.1)
  have hpick : List.Forall₂ (fun z w => Chosen (z, f z) w) ps (s.chooseSources (sourcesOf c.op x y elw blk pl.1)).1 := by
    rw [hf, List.forall₂_map_left_iff] at hch
    rw [hf]
    exact hch
  have hcm : (s.chooseSources (sourcesOf c.op x y elw blk pl.1)).2.cmdsOf k = c :: more := by rw [hm]; exact hc
  obtain ⟨hmem, hblock, hpos⟩ := engWritten_spec (q := q') (e := e') (n := n') (blk := blk) hcm
    (composeBlock x y elw (s.chooseSources (sourcesOf c.op x y elw blk pl.1)).1
      ((blocksOf x elw (sourcesOf c.op x y elw blk pl.1)).map fun j => (j, (s.tileOf q e n).block j)))
  have hown (z w : Nat × Nat) (h : Chosen (z, f z) w) : w.1 ∈ f z := by
    rcases h.2.1 with h | h
    · rw [h]
      exact (hsrc z).1
    · exact h
  refine ⟨(s.chooseSources (sourcesOf c.op x y elw blk pl.1)).1,
    (blocksOf x elw (sourcesOf c.op x y elw blk pl.1)).map fun j => (j, (s.tileOf q e n).block j), ?_, ?_, ?_, ?_, ?_, ?_, ?_,
    ?_⟩
  · rw [htq]
    exact hmem.trans (by rw [hm])
  · intro z hz
    obtain ⟨j, -, rfl⟩ := List.mem_map.1 hz
    rfl
  · intro w hw
    obtain ⟨i, hi⟩ := List.mem_iff_getElem?.1 hw
    have hil : i < ps.length := by
      rw [hpick.length_eq]
      exact (List.getElem?_eq_some_iff.1 hi).1
    have hz : ps[i]? = some ps[i] := List.getElem?_eq_getElem hil
    rw [List.map_map]
    refine List.mem_map.2 ⟨_, mem_blocksOf (z := (ps[i], f ps[i])) ?_ (hown _ _ (forall₂_getElem hpick hz hi)), rfl⟩
    rw [hf]
    exact List.mem_map.2 ⟨_, List.getElem_mem hil, rfl⟩
  · exact hpick.length_eq.symm
  · intro i z w hz hw
    have h := forall₂_getElem hpick hz hw
    refine ⟨h.1, ?_⟩
    have ho := hown z w h
    rcases (hsrc z).2 with hs | hs
    · rw [hs, List.mem_singleton] at ho
      rw [ho]
      exact own_mem_openSources ..
    · rwa [hs] at ho
  · intro hne hd
    have hside : sameSide x y = false := by
      by_contra h
      simp only [sameSide, x, y, Bool.not_eq_false, Bool.and_eq_true, beq_iff_eq] at h
      exact hne (by rw [h.1.1, h.1.2, h.2])
    refine List.ext_getElem hpick.length_eq.symm fun i hi hi' => ?_
    have h := forall₂_getElem hpick (List.getElem?_eq_getElem hi') (List.getElem?_eq_getElem hi)
    refine h.2.2 ?_
    show (f ps[i]).length ≤ 1
    rcases (hsrc ps[i]).2 with hs | hs
    · rw [hs]
      exact le_refl 1
    · rw [hs, hside]
      exact length_openSources_le_one (mem_of_mem_lastPairs (List.getElem_mem hi')) hd
  · rw [htq]
    refine hblock.trans ?_
    rw [hm]
    rfl
  · rw [htq]
    exact hpos

theorem commands : Claims.Commands := by
  refine ⟨fun s p tok rest tr hr hm hc ht hk => ?_, fun s b g c more tr hg hc ht hs hcrx hb => ?_⟩
  · obtain ⟨htake, hwait, hbad⟩ := engineTakeCommand_eq hr hm hc ht hk
    exact ⟨htake, hwait, fun hp => takeCommand_spec (hbad hp)⟩
  · have hbay : (b * 8 + g) / 8 = b := by omega
    refine ⟨fun hd ha => ?_, fun hd ha => ?_, fun x y hd h3 hi he ho => ?_, fun q e n q' e' n' blk hd h3 hi he ho => ?_⟩
    · rw [engineComplete_draining hg hc ht hs hd hcrx, if_pos ha]
    · refine ⟨_, (engineComplete_draining hg hc ht hs hd hcrx).trans (if_neg (by rw [ha]; exact Bool.noConfusion)), ?_, ?_,
        fun x q e n he => ?_⟩
      · exact (State.finishCmd_cmds hcrx hb).trans (by rw [show s.cmdsOf (b * 8 + g) = c :: more from hc]; rfl)
      · exact fun n hn => State.finishCmd_ticket hcrx hb hn
      · obtain ⟨hfull, hempty⟩ := State.releaseSides_tiles (s := s) (x := x) (q := q) (e := e) (n := n)
        have htile := State.finishCmd_tileOf (st := if c.status ≠ 0 then c.status else if c.mix then 5 else 1) hcrx hb he
        refine ⟨(congrArg Tile.state (htile q e n)).trans hfull, fun q' e' n' hx he' hn' he hn hne => ?_⟩
        exact (congrArg Tile.state (htile q' e' n')).trans (hempty q' e' n' hx he' hn' he hn hne)
    · obtain ⟨hmem, hpages, d, hcmds, hnext⟩ := engBlock_next hc tr x y ho
      exact ⟨_, d, engineComplete_block hg hc ht hs hd hb h3 hi he, hmem, hpages, hcmds, hnext⟩
    · obtain ⟨l, src, hspec⟩ := plates_spec (tr := tr) (q := q) (e := e) (n := n) (q' := q') (e' := e') (n' := n') hc ho
      exact ⟨_, l, src, engineComplete_block hg hc ht hs hd hb h3 hi he, hspec⟩

end Sys2Proof.Machine

namespace Sys2Proof

open Sys2Proof.Machine Sys2Proof.Claims

/-- Settles O51: a command's end and each block that it writes are read off the model's own steps, with the choices of
R152 kept open; a group changes the commands that wait in it alone; and a panel is copied block by block. -/
theorem engineResults : Obligations.EngineResults := ⟨commands, reductions, panelCopies⟩

end Sys2Proof
end

section
/-! SUPPORT. The order of R49 among zeros; O42. -/

namespace Sys2Proof

open Sys2Proof.Machine Sys2Proof.Claims

/-- Zero with denominator zero is no finite number of the statements. -/
theorem not_is_fin_zero (g h : Bool) (n : Nat) (v : Rat) : ¬ Claims.Is (.fin g n 0) h v := by
  rintro ⟨n, d, hx, hd, -⟩
  cases hx
  exact hd rfl

/-- The pick of the model goes by the numerator of a zero and its sign alone. -/
theorem pickV_zero_over_zero : pickV true false (.fin true 0 0) (.fin false 0 1) = (.fin false 0 1, 0) := by decide

/-- Refutes O42: `Picks` speaks of every `Num`, and −0 below +0 in it only of those with a denominator that is not zero. For
−0/0, which no decoding gives, and +0 it asks MAX to give −0/0, and the model gives +0. -/
theorem not_exactOperations : ¬ Obligations.ExactOperations := by
  rintro ⟨-, hpicks, -, -⟩
  obtain ⟨hnumbers, -⟩ := hpicks true false (.fin true 0 0) (.fin false 0 1)
  obtain ⟨-, hfirst⟩ := hnumbers rfl rfl
  have hpick := hfirst ?_
  · rw [pickV_zero_over_zero] at hpick
    exact absurd hpick (by decide)
  · rintro (⟨-, hlt | ⟨v, -, hv, -⟩⟩ | ⟨hmin, -⟩)
    · exact absurd hlt (by decide)
    · exact not_is_fin_zero _ _ _ _ hv
    · cases hmin

end Sys2Proof
end

section
/-! SUPPORT. A pass of PST at a ring position that no 32-bit lane holds; O45. -/

namespace Sys2Proof.Machine

open Sys2Proof.Claims

/-- PST of one block a pass with a token for each, at ring position 2^32, and a token at in0. -/
def farRing : Elem :=
  { Elem.reset with cfg := [(0, 0xA10), (4, 0x081)], hops := [(37, [dataToken 0 1 0])], cnt := [0, 2 ^ 32] }

/-- The element at site 0 of page 0. -/
def farState : State := (placeOne State.reset).setElem 0 0 farRing

theorem farState_elem : farState.elem 0 0 = farRing := rfl

/-- PST is live and has its token, its tile EMPTY, and the pass ends with this block. -/
theorem farState_ready : farState.elemLive 0 0 0xA1 = true ∧ farRing.ready = true
    ∧ ((farState.page 0).tile 0 (farRing.ta + 2 ^ 32)).state = 0 ∧ farRing.p 0 % 64 + farRing.p 1 % 64 < 64
    ∧ 0 ≤ farRing.p 1 % 64 ∧ 0 = farRing.p 1 % 64 ∧ farRing.outs.testBit 0 = true := by decide +kernel

end Sys2Proof.Machine

namespace Sys2Proof

open Sys2Proof.Machine Sys2Proof.Claims

/-- Refutes O45: `PlateTokens` says that lane 0 of the token that PST sends at the close of a pass is the number of the tile,
in every state. A lane has 32 bits, and no hypothesis bounds the ring position of the element: at position 2^32 no token is as it
says. -/
theorem not_moverValues : ¬ Obligations.MoverValues := by
  rintro ⟨-, -, -, -, -, hplate, -⟩
  obtain ⟨hlive, hready, htile, hblocks, hpos, hlast, houts⟩ := farState_ready
  obtain ⟨-, hpst, -⟩ := hplate farState 0 0 (by decide) hready
  obtain ⟨f, ⟨-, -, -, tl, -, -, -, hclose⟩, -⟩ := hpst hlive htile hblocks hpos
  obtain ⟨-, -, -, -, htoken⟩ := hclose (.inl hlast)
  obtain ⟨o, -, -, hlane, -⟩ := htoken houts
  have hfar : (lane o.data 0).toNat = farRing.ta + 2 ^ 32 := hlane
  have hlt := (lane o.data 0).isLt
  omega

end Sys2Proof
end

section
/-! SUPPORT. READ, WRITE, ATOMIC and ABANDON at their homes: what a block's write leaves, a packet that arrives, and the
answer that is sent (R311, R313, R316, R326, R328, R378); O47. -/

namespace Sys2Proof.Machine

open Sys2Proof.Claims

/-! ### Bytes of a block under a mask -/

theorem getLsbD_spreadBytes (m : BitVec 64) (n i : Nat) (hi : i < 512) :
    ((List.range n).foldl (fun acc k => if m.getLsbD k then acc ||| (BitVec.ofNat 512 0xFF <<< (8 * k)) else acc) (0 : Data)).getLsbD i
      = (decide (i / 8 < n) && m.getLsbD (i / 8)) := by
  induction n with
  | zero => simp
  | succ n ih =>
    have hbyte : (BitVec.ofNat 512 0xFF <<< (8 * n)).getLsbD i = decide (i / 8 = n) := by
      have h255 : (255 : Nat) = 2 ^ 8 - 1 := rfl
      rw [BitVec.getLsbD_shiftLeft, BitVec.getLsbD_ofNat, h255, Nat.testBit_two_pow_sub_one]
      by_cases h : i / 8 = n
      · have h1 : ¬ i < 8 * n := by omega
        have h2 : i - 8 * n < 8 := by omega
        have h3 : i - 8 * n < 512 := by omega
        simp [hi, h, h1, h2, h3]
      · by_cases h1 : i < 8 * n
        · simp [h1, h]
        · have h2 : ¬ i - 8 * n < 8 := by omega
          simp [h2, h]
    rw [List.range_succ, List.foldl_append, List.foldl_cons, List.foldl_nil]
    by_cases hm : m.getLsbD n = true
    · rw [if_pos hm, BitVec.getLsbD_or, ih, hbyte]
      by_cases h : i / 8 = n
      · simp [h, hm]
      · have : decide (i / 8 < n + 1) = decide (i / 8 < n) := decide_eq_decide.2 (by omega)
        rw [this, decide_eq_false h, Bool.or_false]
    · rw [if_neg hm, ih]
      by_cases h : i / 8 = n
      · simp [h, hm]
      · have : decide (i / 8 < n + 1) = decide (i / 8 < n) := decide_eq_decide.2 (by omega)
        rw [this]

/-- A byte of merged data is the new one where the mask has it. -/
theorem dataByte_mergeData (old new : Data) (m : BitVec 64) (k : Nat) (hk : k < 64) :
    dataByte (mergeData old new m) k = if m.getLsbD k then dataByte new k else dataByte old k := by
  apply BitVec.eq_of_getLsbD_eq
  intro j hj
  have hs : (spreadMask m).getLsbD (8 * k + j) = m.getLsbD k := by
    have hd : (8 * k + j) / 8 = k := by omega
    rw [spreadMask, getLsbD_spreadBytes _ _ _ (by omega), hd]
    simp [hk]
  rw [getLsbD_dataByte, mergeData, BitVec.getLsbD_or, BitVec.getLsbD_and, BitVec.getLsbD_and, BitVec.getLsbD_not, hs]
  have hi : 8 * k + j < 512 := by omega
  cases hm : m.getLsbD k <;> simp [getLsbD_dataByte, hi]

@[simp] theorem dataByte_zero (k : Nat) : dataByte 0 k = 0 := by
  apply BitVec.eq_of_getLsbD_eq
  intro j _
  simp [getLsbD_dataByte]

/-- The bytes set in a block are read back. -/
theorem dataBytes_setBytes (d : Data) (k n v : Nat) (h : k + n ≤ 64) : dataBytes (setBytes d k n v) k n = v % 2 ^ (8 * n) := by
  apply Nat.eq_of_testBit_eq
  intro i
  rw [dataBytes, bits, Nat.testBit_mod_two_pow, Nat.testBit_mod_two_pow, Nat.testBit_div_two_pow, ← BitVec.getLsbD]
  by_cases hi : i < 8 * n
  · have hb : 8 * k ≤ i + 8 * k ∧ i + 8 * k < 8 * (k + n) := by omega
    rw [getLsbD_setBytes _ _ _ _ _ (by omega), if_pos hb, Nat.add_sub_cancel]
  · simp [hi]

/-! ### One block's write -/

@[simp] theorem fmtOf_mkDesc (s f : BitVec 8) : fmtOf (mkDesc s f) = f :=
  (BitVec.extractLsb'_append_eq_of_add_le (by omega)).trans BitVec.extractLsb'_eq_self

@[simp] theorem scaleOf_mkDesc (s f : BitVec 8) : scaleOf (mkDesc s f) = s :=
  (BitVec.extractLsb'_append_eq_of_le (by omega)).trans BitVec.extractLsb'_eq_self

/-- A reserved format is stored as POISON, never as VOID. -/
theorem fmtOf_storedDesc_void (d : Desc) : fmtOf (storedDesc d) = 0#8 ↔ fmtOf d = 0#8 := by
  unfold storedDesc
  split
  · rfl
  · rename_i h
    rw [fmtOf_mkDesc]
    refine iff_of_false (by decide) fun h0 => h ?_
    rw [h0]
    rfl

/-- The bytes that a write leaves, whoever writes. -/
theorem applyWrite_bytes (old : Data × Desc) (w : BlockW) :
    (applyWrite old w).1.1 = mergeData (if descIsVoid old.2 then 0 else old.1)
      (if w.mode = 1 ∧ fmtOf w.desc = 0#8 then 0 else w.data) w.mask := by
  unfold applyWrite
  dsimp only
  split
  · rename_i h
    have hn : ¬ (w.mode = 1 ∧ fmtOf w.desc = 0#8) := fun e => by omega
    rw [if_neg hn]
  · rename_i h
    simp only [fmtOf_storedDesc_void, h, true_and]
    split <;> rfl
  · rename_i h
    have hn : ¬ (w.mode = 1 ∧ fmtOf w.desc = 0#8) := fun e => by omega
    simp only [if_neg hn]
    split <;> rfl
  · rename_i h _
    have hn : ¬ (w.mode = 1 ∧ fmtOf w.desc = 0#8) := fun e => h e.1
    rw [if_neg hn]

theorem dataByte_applyWrite (old : Data × Desc) (w : BlockW) {k : Nat} (hk : k < 64) :
    dataByte (applyWrite old w).1.1 k = if w.mask.getLsbD k then (if w.mode = 1 ∧ fmtOf w.desc = 0#8 then 0 else dataByte w.data k)
      else if descIsVoid old.2 then 0 else dataByte old.1 k := by
  rw [applyWrite_bytes, dataByte_mergeData _ _ _ _ hk]
  split
  · split
    · exact dataByte_zero k
    · rfl
  · split
    · exact dataByte_zero k
    · rfl

theorem applyWrite_core {old : Data × Desc} {w : BlockW} (h : w.mode = 0) :
    (applyWrite old w).1.2 = (if descIsVoid old.2 then descUint8 else old.2) ∧ (applyWrite old w).2 = false := by
  simp only [applyWrite, h, and_self]

theorem applyWrite_burst {old : Data × Desc} {w : BlockW} (h : w.mode = 1) :
    (applyWrite old w).2 = false ∧ (applyWrite old w).1.2 =
      if fmtOf (storedDesc w.desc) ≠ 0x0E#8 ∧ (w.mask = fullMask ∨ descIsVoid old.2 = true ∨ old.2 = storedDesc w.desc)
      then storedDesc w.desc else descPoison := by
  simp only [applyWrite, h, true_and]
  by_cases hp : fmtOf (storedDesc w.desc) = 0x0E#8
  · rw [if_pos hp, if_neg fun e => e.1 hp]
  · rw [if_neg hp]
    simp only [ne_eq, hp, not_false_eq_true, true_and, Bool.or_eq_true, decide_eq_true_eq, or_assoc]

theorem applyWrite_engine {old : Data × Desc} {w : BlockW} (h : w.mode = 2) :
    ((applyWrite old w).1.2, (applyWrite old w).2) = if w.mask = fullMask ∨ old.2 = storedDesc w.desc
      then (storedDesc w.desc, false) else (descPoison, true) := by
  simp only [applyWrite, h, Bool.or_eq_true, decide_eq_true_eq]
  split <;> rfl

/-! ### Blocks of memory -/

/-- A block of this module or of host memory reads as written. -/
theorem Memory.block_setBlock (m : Memory) {p : Phys} (d : Data) (x : Desc) (h : ∀ k a, p ≠ .remote k a) :
    (m.setBlock p d x).block p = (d, x) := by
  cases p with
  | hbm a => exact m.block_setBlock_hbm a d x
  | host a =>
    have hb := readBytes_writeBytes m.hostCells (a / 64 * 64) (dataList d)
    rw [length_dataList] at hb
    simp only [Memory.block, Memory.setBlock, hb, dataOf_dataList, fgetD_setDesc]
  | remote k a => exact absurd rfl (h k a)

/-- A byte outside a written block stays. -/
theorem Memory.byte_setBlock {m : Memory} {p a : Phys} {d : Data} {x : Desc} (h : a.blk ≠ p.blk) :
    (m.setBlock p d x).byte a = m.byte a := by
  cases p with
  | hbm b => exact Memory.byte_setBlock_hbm h
  | host b =>
    cases a with
    | host c =>
      have hbc : c / 64 * 64 ≠ b / 64 * 64 := fun e => h (congrArg Phys.host e)
      refine readByte_writeBytes_outside ?_
      rw [length_dataList]
      omega
    | _ => rfl
  | remote k b => rfl

/-- Memory after one block of a write. -/
def Memory.written (m : Memory) (w : BlockW) : Memory :=
  m.setBlock w.phys (applyWrite (m.block w.phys) w).1.1 (applyWrite (m.block w.phys) w).1.2

theorem Memory.byte_foldl_written {a : Phys} {l : List BlockW} (h : ∀ w ∈ l, a.blk ≠ w.phys.blk) (m : Memory) :
    (l.foldl Memory.written m).byte a = m.byte a := by
  induction l generalizing m with
  | nil => rfl
  | cons w l ih =>
    exact (ih (fun x hx => h x (List.mem_cons_of_mem w hx)) _).trans (Memory.byte_setBlock (h w List.mem_cons_self))

theorem State.meterHost_frame (s : State) (part n : Nat) (p : Phys) : s.meterHost part n p = { s with meters := (s.meterHost part n p).meters } := by
  cases p with
  | host a => exact s.meter_frame part 13 n
  | _ => rfl

/-- The blocks of a write change memory in their order, and meters. -/
theorem State.applyBlocks_frame (part : Nat) (l : List BlockW) (s : State) :
    ∃ m, (s.applyBlocks part l).2 = { s with mem := l.foldl Memory.written s.mem, meters := m } := by
  induction l generalizing s with
  | nil => exact ⟨s.meters, rfl⟩
  | cons w l ih =>
    simp only [State.applyBlocks]
    split
    · obtain ⟨m, hm⟩ := ih (State.meter { s with mem := s.mem.written w } part 8 64)
      refine ⟨m, hm.trans ?_⟩
      rw [State.meter_frame]
      rfl
    · obtain ⟨m, hm⟩ := ih (State.meterHost { s with mem := s.mem.written w } part 64 w.phys)
      refine ⟨m, hm.trans ?_⟩
      rw [State.meterHost_frame]
      rfl

/-! ### A packet that arrives -/

theorem State.depart_frame {s u : State} {k : Nat} {p : Packet} (h : s.depart k p = some u) : u = { s with outs := u.outs } := by
  unfold State.depart at h
  split at h
  · cases h
    rfl
  · split at h
    · cases h
    · dsimp only at h
      split at h
      · split at h
        · cases h
          rfl
        · cases h
      · cases h

/-- A packet that is served leaves the packets in flight, and changes switch outputs only. -/
theorem arrive_of_arrives {s u : State} {k : Nat} {op : PktOp} {p : Packet} (h : Claims.Arrives s k op p u) :
    ∃ o, s.arrive k op = some (p, { s with outs := o, packets := fdel s.packets k }) := by
  obtain ⟨hp, hop, hpath, -, hdep, -⟩ := h
  refine ⟨u.outs, ?_⟩
  have hu := State.depart_frame hdep
  generalize u.outs = o at hu
  subst hu
  simp only [State.arrive, hp, hop, hpath, hdep, List.isEmpty_nil, ne_eq, not_true, Bool.not_true, Bool.false_eq_true, or_self,
    if_false, Option.map_some]

theorem ne_fresh_of_arrives {s u : State} {k : Nat} {op : PktOp} {p : Packet} (h : Claims.Arrives s k op p u) : k ≠ s.fresh := by
  obtain ⟨-, -, -, -, -, hk⟩ := h
  exact hk

/-! ### The answer -/

/-- The answer stands at its source, and the packet that it answers is gone. -/
theorem answers_send {s t : State} {k : Nat} {q : Packet} (hk : k ≠ s.fresh) (hf : t.fresh = s.fresh)
    (hp : t.packets = fdel s.packets k) :
    Claims.Answers s (t.send q) k { q with path := t.pathFrom q.src.bay q, at_ := none } := by
  have hpk : (t.send q).packets = fput (fdel s.packets k) s.fresh { q with path := t.pathFrom q.src.bay q, at_ := none } := by
    rw [State.send, hf, hp]
  refine ⟨congrArg (· + 1) hf, ?_, ?_, rfl, fun n hn hne => ?_⟩
  · rw [hpk, fget_fput_other hk, fget_fdel_same]
  · rw [hpk, fget_fput_same]
  · rw [hpk, fget_fput_other hne, fget_fdel_other hn]

/-- An answer is the reply, whatever it carries. -/
theorem repliesTo_reply (p : Packet) (op : PktOp) (cls len note : Nat) (vec : List (BitVec 32)) (blocks : List BlockW)
    (words : List Word) (path : List Nat) (at_ : Option Nat) :
    Claims.RepliesTo p { p.reply op cls with len := len, note := note, vec := vec, blocks := blocks, words := words, path := path, at_ := at_ }
      op cls := ⟨rfl, rfl, rfl, rfl, rfl, rfl, rfl, rfl, rfl, rfl, rfl⟩

/-- The DATA that answers a READ. -/
def dataFor (s : State) (p : Packet) : Packet :=
  { p.reply .data p.cls with
    len := 64, vec := (s.bay p.dst.bay).home.vec,
    blocks := [⟨p.phys, (s.mem.block p.phys).1, (s.mem.block p.phys).2, fullMask, 1⟩] }

/-- READ at the home of a block of this module or of host memory. -/
theorem readPkt_eq {s u : State} {k : Nat} {p : Packet} (h : Claims.Arrives s k .read p u) (hp : ∀ m a, p.phys ≠ .remote m a) :
    ∃ o m, let v : State := { s with outs := o, packets := fdel s.packets k }
      exec (.readPkt k) s = if s.mayServe p.part p.phys = false then .next (v.send (p.reply .ownernak 0))
        else if s.holeBefore p.src p.dst.bay none [p.phys] = true then .next (v.hold k p)
        else .next (State.send { v with meters := m } (dataFor s p)) := by
  obtain ⟨o, ho⟩ := arrive_of_arrives h
  have hx : exec (.readPkt k) s = execReadPkt k s := rfl
  let v : State := { s with outs := o, packets := fdel s.packets k }
  refine ⟨o, (match p.phys with
    | .hbm _ => v.meter p.part 7 64
    | _ => v.meterHost p.part 64 p.phys).meters, ?_⟩
  rw [hx, execReadPkt, ho]
  unfold dataFor
  cases hph : p.phys with
  | remote m a => exact absurd hph (hp m a)
  | hbm a =>
    simp only [Bool.not_eq_true', hph]
    rw [State.meter_frame]
    rfl
  | host a =>
    simp only [Bool.not_eq_true', hph]
    rw [State.meterHost_frame]
    rfl

/-- What a home that has judged a packet leaves of it. -/
theorem atHome_eq {s u : State} {k : Nat} {op : PktOp} {p : Packet} (f : Packet → State → State) (h : Claims.Arrives s k op p u) :
    ∃ o, let v : State := { s with outs := o, packets := fdel s.packets k }
      atHome k op f s = match s.judge p with
        | .gone => .next (v.received p)
        | .shaving => .next ((v.received p).send (p.reply .resend 0))
        | .refused => .next (v.send (p.reply .ownernak 0))
        | .held => .next (v.hold k p)
        | .away => .next (v.meter p.part 10 p.bytes)
        | .apply => .next (f p (v.markApplied p)) := by
  obtain ⟨o, ho⟩ := arrive_of_arrives h
  refine ⟨o, ?_⟩
  rw [atHome, ho]
  rfl

/-! ### What a WRITE or ATOMIC meets -/

theorem State.trim_of_shaving {s : State} {p : Packet} (h : s.judge p = .shaving) : p.trim = true := by
  unfold State.judge at h
  split at h
  · cases h
  · split at h
    · assumption
    · repeat' split at h
      all_goals cases h

theorem State.received_frame (s : State) (p : Packet) : s.received p = { s with parts := (s.received p).parts } := by
  unfold State.received
  split <;> rfl

/-- A shaving counts at its destination (R332). -/
theorem State.shavrecv_received {s : State} {p : Packet} (h : p.trim = true) :
    ((s.received p).part p.part).shavrecv = (s.part p.part).shavrecv + 1 := by
  simp [State.received, h, State.modPart, State.setPart, State.part, fgetD]

/-- An ATOMIC applied: its place in memory, and what it counts. -/
theorem State.meterAtomic_frame (s : State) (p : Packet) :
    ∃ m, (s.meter p.part 15 1).meterHost p.part (2 * p.width) p.phys = { s with meters := m } := by
  rw [State.meterHost_frame]
  generalize ((s.meter p.part 15 1).meterHost p.part (2 * p.width) p.phys).meters = m
  rw [State.meter_frame]
  exact ⟨m, rfl⟩

/-- The read-modify-write on a block that is not POISON. -/
theorem atomicApply_eq {b : Data × Desc} (off width aop : Nat) (words : List Word) (h : descPoisoned b.2 = false) :
    let d : Data := if descIsVoid b.2 then 0 else b.1
    let old := dataBytes d off width
    ∃ new, atomicApply b off width aop words
        = (BitVec.ofNat 64 old, if descIsVoid b.2 then 1 else 0, (setBytes d off width new, if descIsVoid b.2 then descUint8 else b.2))
      ∧ new % 2 ^ (8 * width) = (if aop = 9 then (if old = ((words[1]?).getD 0).toNat % 2 ^ (8 * width) then ((words[0]?).getD 0).toNat
          else old) else atomicOp aop (8 * width) old ((words[0]?).getD 0).toNat) % 2 ^ (8 * width) := by
  intro d old
  have h0 : words.head? = words[0]? := List.head?_eq_getElem?
  have h1 : (words.drop 1).head? = words[1]? := by rw [List.head?_eq_getElem?, List.getElem?_drop]
  let x := ((words[0]?).getD 0).toNat
  let y := ((words[1]?).getD 0).toNat
  refine ⟨if aop = 9 then (if old = y % 2 ^ (8 * width) then x % 2 ^ (8 * width) else old) else atomicOp aop (8 * width) old x, ?_, ?_⟩
  · rw [atomicApply, if_neg (by simp [h]), h0, h1]
  · show _ = (if aop = 9 then (if old = y % 2 ^ (8 * width) then x else old) else atomicOp aop (8 * width) old x) % 2 ^ (8 * width)
    by_cases h9 : aop = 9
    · by_cases ho : old = y % 2 ^ (8 * width)
      · simp only [if_pos h9, if_pos ho, Nat.mod_mod]
      · simp only [if_pos h9, if_neg ho]
    · simp only [if_neg h9]

end Sys2Proof.Machine

namespace Sys2Proof

open Sys2Proof.Machine Sys2Proof.Claims

theorem blockWrites : Claims.BlockWrites := by
  intro old w
  refine ⟨fun k hk => dataByte_applyWrite old w hk, applyWrite_core, applyWrite_burst, fun h => ?_⟩
  have he := applyWrite_engine (old := old) h
  refine ⟨fun hd => ?_, fun hd => ?_⟩
  · exact Prod.ext_iff.1 (he.trans (if_pos hd))
  · exact Prod.ext_iff.1 (he.trans (if_neg hd))

theorem homeReads {s u : State} {k : Nat} {p : Packet} (h : Claims.Arrives s k .read p u) (hp : ∀ m a, p.phys ≠ .remote m a) :
    (s.mayServe p.part p.phys = false → ∃ t q, exec (.readPkt k) s = .next t ∧ t.mem = s.mem ∧ t.pages = s.pages
      ∧ Claims.Answers s t k q ∧ Claims.RepliesTo p q .ownernak 0)
    ∧ (s.mayServe p.part p.phys = true → s.holeBefore p.src p.dst.bay none [p.phys] = false →
      ∃ t q, exec (.readPkt k) s = .next t ∧ t.mem = s.mem ∧ t.pages = s.pages ∧ Claims.Answers s t k q
        ∧ Claims.RepliesTo p q .data p.cls
        ∧ q.blocks = [⟨p.phys, (s.mem.block p.phys).1, (s.mem.block p.phys).2, fullMask, 1⟩]
        ∧ q.vec = (List.range 8).map fun e => fgetD (s.bay p.dst.bay).home.applied e 0) := by
  obtain ⟨o, m, hx⟩ := readPkt_eq h hp
  have hk := ne_fresh_of_arrives h
  refine ⟨fun hs => ?_, fun hs hh => ?_⟩
  · exact ⟨_, _, hx.trans (if_pos hs), rfl, rfl, answers_send hk rfl rfl, repliesTo_reply ..⟩
  · have hn : ¬ s.mayServe p.part p.phys = false := by rw [hs]; exact Bool.noConfusion
    have hb : ¬ s.holeBefore p.src p.dst.bay none [p.phys] = true := by rw [hh]; exact Bool.noConfusion
    exact ⟨_, _, hx.trans ((if_neg hn).trans (if_neg hb)), rfl, rfl, answers_send hk rfl rfl, repliesTo_reply .., rfl, rfl⟩

/-- WRITE at its home, by what it meets there. -/
theorem homeWrites {s u : State} {k : Nat} {p : Packet} (h : Claims.Arrives s k .write p u) :
    (s.judge p = .apply → ∃ t q, exec (.writePkt k) s = .next t ∧ t.pages = s.pages ∧ Claims.Answers s t k q
      ∧ Claims.RepliesTo p q .ack 0 ∧ t.mem = p.blocks.foldl Memory.written s.mem
      ∧ ∀ a, (∀ w ∈ p.blocks, a.blk ≠ w.phys.blk) → t.mem.byte a = s.mem.byte a)
    ∧ (s.judge p = .shaving → ∃ t q, exec (.writePkt k) s = .next t ∧ t.mem = s.mem ∧ t.pages = s.pages
      ∧ Claims.Answers s t k q ∧ Claims.RepliesTo p q .resend 0 ∧ (t.part p.part).shavrecv = (s.part p.part).shavrecv + 1)
    ∧ (s.judge p = .refused → ∃ t q, exec (.writePkt k) s = .next t ∧ t.mem = s.mem ∧ t.pages = s.pages
      ∧ Claims.Answers s t k q ∧ Claims.RepliesTo p q .ownernak 0)
    ∧ (s.judge p = .held → ∃ t, exec (.writePkt k) s = .next t ∧ t.mem = s.mem ∧ t.pages = s.pages ∧ t.fresh = s.fresh
      ∧ fget t.packets k = some { p with at_ := none } ∧ ∀ n, n ≠ k → fget t.packets n = fget s.packets n)
    ∧ (s.judge p = .gone → ∃ t, exec (.writePkt k) s = .next t ∧ t.mem = s.mem ∧ t.pages = s.pages
      ∧ Claims.TakesPacket s t k) := by
  obtain ⟨o, hx⟩ := atHome_eq (fun p s => (s.applyBlocks p.part p.blocks).2.send
    { p.reply .ack 0 with note := if (s.applyBlocks p.part p.blocks).1 then 1 else 0 }) h
  have hk := ne_fresh_of_arrives h
  have he : exec (.writePkt k) s = _ := hx
  rw [he]
  refine ⟨fun hj => ?_, fun hj => ?_, fun hj => ?_, fun hj => ?_, fun hj => ?_⟩ <;> rw [hj] <;> dsimp only
  · obtain ⟨m, hm⟩ := State.applyBlocks_frame p.part p.blocks (State.markApplied { s with outs := o, packets := fdel s.packets k } p)
    rw [hm]
    exact ⟨_, _, rfl, rfl, answers_send hk rfl rfl, repliesTo_reply .., rfl, fun a ha => Memory.byte_foldl_written ha _⟩
  · have hs := State.shavrecv_received (s := { s with outs := o, packets := fdel s.packets k }) (State.trim_of_shaving hj)
    rw [State.received_frame] at hs ⊢
    exact ⟨_, _, rfl, rfl, rfl, answers_send hk rfl rfl, repliesTo_reply .., hs⟩
  · exact ⟨_, _, rfl, rfl, rfl, answers_send hk rfl rfl, repliesTo_reply ..⟩
  · exact ⟨_, rfl, rfl, rfl, rfl, State.hold_packet _ _ _, fun n hn => (fget_fput_other hn).trans (fget_fdel_other hn)⟩
  · rw [State.received_frame]
    exact ⟨_, rfl, rfl, rfl, rfl, fget_fdel_same _ _, fun n hn => fget_fdel_other hn⟩

/-- ABANDON at its home counts its index as applied. -/
theorem homeAbandons {s u : State} {k : Nat} {p : Packet} (h : Claims.Arrives s k .abandon p u) :
    ∃ t, exec (.abandonPkt k) s = .next t ∧ t.mem = s.mem ∧ t.pages = s.pages ∧ Claims.TakesPacket s t k
      ∧ (t.bay p.dst.bay).home = (s.bay p.dst.bay).home.mark p.src.bay p.n ∧ ∀ b, b ≠ p.dst.bay → t.bay b = s.bay b := by
  obtain ⟨o, ho⟩ := arrive_of_arrives h
  have hx : exec (.abandonPkt k) s = execAbandonPkt k s := rfl
  rw [hx, execAbandonPkt, ho]
  refine ⟨_, rfl, rfl, rfl, ⟨rfl, fget_fdel_same _ _, fun n hn => fget_fdel_other hn⟩, ?_, fun b hb => ?_⟩
  · simp [State.bay, State.setBay, fgetD]
  · simp [State.bay, State.setBay, fgetD, fget_fput_other hb]

theorem homeAccesses : Claims.HomeAccesses := fun _ _ _ _ => ⟨homeReads, homeWrites, homeAbandons⟩

theorem homeAtomics : Claims.HomeAtomics := by
  intro s u k p h hj _ hfit hp x y b d old
  obtain ⟨o, hx⟩ := atHome_eq (fun p s =>
    let r := atomicApply (s.mem.block p.phys) p.phys.low p.width p.aop p.words
    let s := { s with mem := s.mem.setBlock p.phys r.2.2.1 r.2.2.2 }
    let s := (s.meter p.part 15 1).meterHost p.part (2 * p.width) p.phys
    s.send { p.reply .aresp 0 with len := 8, words := [r.1], note := r.2.1, vec := (s.bay p.dst.bay).home.vec }) h
  have hk := ne_fresh_of_arrives h
  have he : exec (.atomicPkt k) s = _ := hx
  rw [hj] at he
  dsimp only at he
  obtain ⟨m, hm⟩ := State.meterAtomic_frame { State.markApplied { s with outs := o, packets := fdel s.packets k } p with
    mem := s.mem.setBlock p.phys (atomicApply b p.phys.low p.width p.aop p.words).2.2.1
      (atomicApply b p.phys.low p.width p.aop p.words).2.2.2 } p
  have he := he.trans (congrArg (fun v : State => Host.Outcome.next (v.send { p.reply .aresp 0 with
    len := 8, words := [(atomicApply b p.phys.low p.width p.aop p.words).1],
    note := (atomicApply b p.phys.low p.width p.aop p.words).2.1, vec := (v.bay p.dst.bay).home.vec })) hm)
  refine ⟨_, _, he, rfl, answers_send hk rfl rfl, repliesTo_reply .., fun a ha => Memory.byte_setBlock ha, fun hb => ?_, fun hb => ?_⟩
  · have ha : atomicApply b p.phys.low p.width p.aop p.words = (0, 2, b) := if_pos hb
    rw [ha]
    exact ⟨rfl, Memory.block_setBlock _ _ _ hp⟩
  · obtain ⟨new, ha, hnew⟩ := atomicApply_eq (b := b) p.phys.low p.width p.aop p.words hb
    rw [ha]
    have hblk := Memory.block_setBlock s.mem (setBytes d p.phys.low p.width new) (if descIsVoid b.2 then descUint8 else b.2) hp
    refine ⟨rfl, rfl, congrArg Prod.snd hblk, fun j hj hout => ?_, ?_⟩
    · exact (congrArg (fun z => dataByte z.1 j) hblk).trans (dataByte_setBytes_out hj hout)
    · exact (congrArg (fun z => dataBytes z.1 p.phys.low p.width) hblk).trans ((dataBytes_setBytes _ _ _ _ hfit).trans hnew)

/-- Settles O47: a home's answer is read off the packet that arrives, block by block of what it writes. -/
theorem homeResults : Obligations.HomeResults := ⟨blockWrites, homeAccesses, homeAtomics⟩

end Sys2Proof
end


section
/-! SUPPORT. Loads that complete (R129 to R131); O21. -/

namespace Sys2Proof.Machine

open Sys2Proof.Claims

/-! ### Extension -/

theorem testBit_dataBytes (d : Data) (off size j : Nat) :
    (dataBytes d off size).testBit j = (decide (j < 8 * size) && d.getLsbD (8 * off + j)) := by
  rw [dataBytes, bits, Nat.testBit_mod_two_pow, Nat.testBit_div_two_pow, BitVec.getLsbD, Nat.add_comm]

/-- The bits of an extended value: its own, then copies of its top one or zeros. -/
theorem getLsbD_extend {size v : Nat} (sg : Bool) (hs : size = 1 ∨ size = 2 ∨ size = 4 ∨ size = 8)
    (hv : ∀ j, 8 * size ≤ j → v.testBit j = false) {j : Nat} (hj : j < 64) :
    (extend size sg v).getLsbD j = if j < 8 * size then v.testBit j else sg && v.testBit (8 * size - 1) := by
  have hu (n : Nat) : (BitVec.ofNat n v).getLsbD j = (decide (j < n) && v.testBit j) := BitVec.getLsbD_ofNat ..
  cases sg with
  | false =>
    have he : extend size false v = BitVec.ofNat 64 v := rfl
    rw [he, hu, decide_eq_true hj, Bool.true_and]
    split
    · rfl
    · exact hv j (by omega)
  | true =>
    have hx (n : Nat) (hn : 0 < n) : ((BitVec.ofNat n v).signExtend 64).getLsbD j
        = if j < n then v.testBit j else v.testBit (n - 1) := by
      rw [BitVec.getLsbD_signExtend, hu, BitVec.msb_eq_getLsbD_last, BitVec.getLsbD_ofNat,
        decide_eq_true hj, decide_eq_true (show n - 1 < n by omega), Bool.true_and, Bool.true_and]
      split <;> simp [*]
    rcases hs with rfl | rfl | rfl | rfl
    · exact hx 8 (by omega)
    · exact hx 16 (by omega)
    · exact hx 32 (by omega)
    · exact (hu 64).trans (by simp [hj])

/-- A load's word: the bytes read, extended. -/
theorem extended_extend {size : Nat} (sg : Bool) (d : Data) (off : Nat)
    (hs : size = 1 ∨ size = 2 ∨ size = 4 ∨ size = 8) :
    Claims.Extended (extend size sg (dataBytes d off size)) size sg (fun k => dataByte d (off + k)) := by
  have hv : ∀ j, 8 * size ≤ j → (dataBytes d off size).testBit j = false := fun j hj => by
    simp [testBit_dataBytes, Nat.not_lt.2 hj]
  have hsz : size ≤ 8 := by omega
  refine ⟨fun k hk => BitVec.eq_of_getLsbD_eq fun j hj => ?_, fun j h1 h2 => ?_⟩
  · have hb : 8 * k + j < 8 * size := by omega
    rw [BitVec.getLsbD_extractLsb', getLsbD_extend sg hs hv (by omega), if_pos hb, testBit_dataBytes, getLsbD_dataByte,
      Nat.mul_add, Nat.add_assoc]
    simp [hj, hb]
  · rw [getLsbD_extend sg hs hv h2, if_neg (by omega), getLsbD_extend sg hs hv (by omega), if_pos (by omega)]

theorem extended_congr {v : Word} {size : Nat} {sg : Bool} {f g : Nat → Byte} (h : Claims.Extended v size sg f)
    (hfg : ∀ k, k < size → f k = g k) : Claims.Extended v size sg g :=
  ⟨fun k hk => (h.1 k hk).trans (hfg k hk), h.2⟩

/-! ### The bytes at hand -/

/-- A mask holds every byte of an access. -/
theorem covers_iff {m : BitVec 64} {off size : Nat} (hfit : off + size ≤ 64) :
    m &&& byteMask off size = byteMask off size ↔ Claims.Covers m off size := by
  constructor
  · intro h k hk
    have hb := congrArg (BitVec.getLsbD · (off + k)) h
    simp only [BitVec.getLsbD_and] at hb
    rw [getLsbD_byteMask _ _ _ (by omega), decide_eq_true (by omega), Bool.and_true] at hb
    exact hb
  · refine fun h => BitVec.eq_of_getLsbD_eq fun i hi => ?_
    rw [BitVec.getLsbD_and, getLsbD_byteMask _ _ _ hi]
    by_cases hb : off ≤ i ∧ i < off + size
    · have hk := h (i - off) (by omega)
      rw [show off + (i - off) = i by omega] at hk
      simp [hk]
    · simp [hb]

theorem dataByte_seenData (dc : Desc) (data : Data) (l : L1Line) {k : Nat} (hk : k < 64) :
    dataByte (seenData dc data l) k
      = if l.dirty.getLsbD k then dataByte l.data k else if descIsVoid dc then 0 else dataByte data k := by
  rw [seenData, dataByte_mergeData _ _ _ _ hk]
  cases descIsVoid dc with
  | false => rfl
  | true => simp only [if_true, dataByte_zero]

/-- The bytes of an access are the core's own dirty ones: a POISON line traps. -/
theorem coreRead_dirty {s : State} {ea : Word} {size : Nat} {home : Bool} {l : L1Line}
    (hh : s.hazOn s.cur = false) (hfit : ea.toNat % 64 + size ≤ 64)
    (hl : s.core.line (ea.toNat / 64) s.curView = some l) (hd : Claims.Covers l.dirty (ea.toNat % 64) size) :
    coreRead ea size home s = if descPoisoned l.desc then .stop (trapHere causePoison ea s)
      else .ok (dataBytes l.data (ea.toNat % 64) size, descUint8, true) s := by
  simp only [coreRead, hl, Option.getD_some, if_pos ((covers_iff hfit).2 hd), State.noteCore_off hh]

/-- The bytes of an access are in the L1D. -/
theorem coreRead_valid {s : State} {ea : Word} {size : Nat} {l : L1Line}
    (hh : s.hazOn s.cur = false) (hfit : ea.toNat % 64 + size ≤ 64)
    (hl : s.core.line (ea.toNat / 64) s.curView = some l) (hd : ¬ Claims.Covers l.dirty (ea.toNat % 64) size)
    (hv : Claims.Covers l.valid (ea.toNat % 64) size) :
    coreRead ea size false s = .ok (dataBytes (seenData l.desc l.data l) (ea.toNat % 64) size, l.desc, false) s := by
  simp only [coreRead, hl, Option.getD_some, if_neg (mt (covers_iff hfit).1 hd), (covers_iff hfit).2 hv,
    State.noteCore_off hh, Bool.not_false, decide_true, Bool.and_self, if_true]

/-- The line of an address, or one without bytes. -/
def lineAt (s : State) (ea : Word) : L1Line :=
  (s.core.line (ea.toNat / 64) s.curView).getD ⟨ea.toNat / 64, s.curView, 0, 0, 0, descUint8, false⟩

/-- The home's answer is at hand. -/
theorem coreRead_home {s : State} {ea : Word} {size tag : Nat} {w : BlockW} {rest : List (Nat × BlockW)}
    (hfit : ea.toNat % 64 + size ≤ 64) (hd : ¬ Claims.Covers (lineAt s ea).dirty (ea.toNat % 64) size)
    (hr : s.core.resp = (tag, w) :: rest) :
    coreRead ea size true s = .ok (dataBytes (seenData w.desc w.data (lineAt s ea)) (ea.toNat % 64) size, w.desc, false)
      (s.setCore { s.core with resp := rest }) := by
  have hm := mt (covers_iff hfit).1 hd
  simp only [lineAt] at hm
  simp only [coreRead, hr, if_neg hm, lineAt, Bool.not_true, Bool.false_and]
  rfl

/-! ### The load -/

/-- Each load is `load` of an aligned size. -/
theorem exec_of_loads {s : State} {d a b : Reg} {imm : BitVec 15} {h : BitVec 2} {i : Instr} {ea : Word} {size : Nat}
    {sg tn : Bool} (hi : (i, ea, size, sg, tn) ∈ Claims.Loads s.core d a b imm h) :
    exec i s = load d ea size sg tn tn s ∧ (size = 1 ∨ size = 2 ∨ size = 4 ∨ size = 8) := by
  simp only [Claims.Loads, List.mem_cons, List.not_mem_nil, or_false, Prod.mk.injEq] at hi
  rcases hi with ⟨rfl, rfl, rfl, rfl, rfl⟩ | ⟨rfl, rfl, rfl, rfl, rfl⟩ | ⟨rfl, rfl, rfl, rfl, rfl⟩
    | ⟨rfl, rfl, rfl, rfl, rfl⟩ | ⟨rfl, rfl, rfl, rfl, rfl⟩ | ⟨rfl, rfl, rfl, rfl, rfl⟩ | ⟨rfl, rfl, rfl, rfl, rfl⟩
    | ⟨rfl, rfl, rfl, rfl, rfl⟩ | ⟨rfl, rfl, rfl, rfl, rfl⟩ | ⟨rfl, rfl, rfl, rfl, rfl⟩ | ⟨rfl, rfl, rfl, rfl, rfl⟩
    | ⟨rfl, rfl, rfl, rfl, rfl⟩ | ⟨rfl, rfl, rfl, rfl, rfl⟩ | ⟨rfl, rfl, rfl, rfl, rfl⟩
  all_goals exact ⟨rfl, by decide⟩

/-- A load that may access reads its bytes and gives its result. -/
theorem load_accesses {s : State} {d : Reg} {ea : Word} {size : Nat} {sg tn home : Bool} (hm : Claims.MayAccess s ea size) :
    load d ea size sg tn home s = (coreRead ea size home s).bind (loadResult d ea size sg tn) := by
  obtain ⟨-, -, ha, hr⟩ := hm
  have h0 : ¬ ea.toNat % size ≠ 0 := by simp [ha]
  have h1 : ¬ (!t0Range ea) = true := by simp only [t0Range, hr, decide_true]; decide
  rw [load, if_neg h0, if_neg h1]

theorem loadResult_poison {d : Reg} {ea : Word} {size v : Nat} {sg tn fl : Bool} {dc : Desc} {s : State}
    (h : descPoisoned dc = true) : loadResult d ea size sg tn (v, dc, fl) s = trapHere causePoison ea s := by
  simp only [loadResult, h, if_true]

/-- What a load leaves in the core: its register, and DISC of a VOID block. -/
def loadedCore (c : Core) (d : Reg) (v : Word) (tn : Bool) (dc : Desc) : Core :=
  (if descIsVoid dc then c.setDisc else c).wr d v tn

theorem loadResult_completes {d : Reg} {ea : Word} {size v : Nat} {sg tn fl : Bool} {dc : Desc} {s : State}
    (hq : NotStepping s) (h : descPoisoned dc = false) : loadResult d ea size sg tn (v, dc, fl) s
      = .next (s.setCore (loadedCore s.core d (extend size sg v) tn dc).clearStage.advance) := by
  have hs : (loadedCore s.core d (extend size sg v) tn dc).sstep = s.core.sstep := by
    rw [loadedCore, wr_frame]
    split <;> rfl
  simp only [loadResult, h, Bool.false_eq_true, if_false]
  rw [← complete_eq (s := s) (c := loadedCore s.core d (extend size sg v) tn dc) (by rw [hs]; exact hq)]
  rfl

theorem result_loadedCore (s : State) (d : Reg) (v : Word) (tn : Bool) (dc : Desc) :
    Result s (s.setCore (loadedCore s.core d v tn dc).clearStage.advance) d v tn s.core.dz
      (s.core.disc || descIsVoid dc) := by
  have hf := wr_frame (if descIsVoid dc then s.core.setDisc else s.core) d v tn
  have hr := result_complete (s := s) (c := loadedCore s.core d v tn dc) (d := d) (v := v) (tn := tn)
    (by rw [loadedCore, hf]; split <;> rfl)
    (fun r => by
      have := sets_wr (if descIsVoid dc then s.core.setDisc else s.core) d v tn r
      rw [loadedCore]
      revert this
      split <;> exact id)
  have hz : (loadedCore s.core d v tn dc).dz = s.core.dz := by
    rw [loadedCore, hf]
    split <;> rfl
  have hd : (loadedCore s.core d v tn dc).disc = (s.core.disc || descIsVoid dc) := by
    rw [loadedCore, hf]
    cases hv : descIsVoid dc with
    | false => simp
    | true => simp [Core.setDisc]
  rwa [hz, hd] at hr

theorem loadedCore_l1d (c : Core) (d : Reg) (v : Word) (tn : Bool) (dc : Desc) : (loadedCore c d v tn dc).l1d = c.l1d := by
  rw [loadedCore, wr_frame]
  split <;> rfl

/-! ### A core replaced twice -/

theorem fdel_fdel {α : Type} (m : FMap α) (k : Nat) : fdel (fdel m k) k = fdel m k := by
  induction m with
  | nil => rfl
  | cons x t ih =>
    by_cases h : x.1 = k <;> simp [fdel, h, ih]

theorem fdel_fins {α : Type} (m : FMap α) (k : Nat) (v : α) : fdel (fins m k v) k = fdel m k := by
  induction m with
  | nil => simp [fins, fdel]
  | cons x t ih =>
    by_cases h : k < x.1
    · simp [fins, fdel, h]
    · simp [fins, fdel, h, ih]

theorem fput_fput {α : Type} (m : FMap α) (k : Nat) (v w : α) : fput (fput m k v) k w = fput m k w := by
  rw [fput, fput, fdel_fins, fdel_fdel, fput]

theorem State.setCore_setCore (s : State) (c d : Core) : (s.setCore c).setCore d = s.setCore d := by
  have hp : (s.setCore c).page (s.setCore c).cur = { s.page s.cur with core := c } := s.page_setCore c
  rw [State.setCore, hp]
  simp only [State.setCore, State.setPage, fput_fput]

/-- A trap drops the answers that the instruction had got. -/
theorem takeTrap_setResp (s : State) (cause : Nat) (tpc tval : Word) (r : List (Nat × BlockW)) :
    takeTrap cause tpc tval (s.setCore { s.core with resp := r }) = takeTrap cause tpc tval s := by
  have hc : (s.setCore { s.core with resp := r }).core.clearStage = s.core.clearStage := by
    rw [State.core_setCore]
    rfl
  have hp : (s.setCore { s.core with resp := r }).curPage = { s.curPage with core := { s.core with resp := r } } :=
    s.page_setCore _
  simp only [takeTrap, hc, hp, State.setCore_setCore]

end Sys2Proof.Machine

namespace Sys2Proof

open Sys2Proof.Machine Sys2Proof.Claims

theorem loadResults : Claims.LoadResults := by
  intro s d a b imm h i ea size sg l hi hm hl off hcov
  obtain ⟨he, hs⟩ := exec_of_loads hi
  obtain ⟨hq, hh, ha, hr⟩ := id hm
  have hfit : off + size ≤ 64 := aligned_fits hs ha
  rw [load_accesses hm] at he
  by_cases hd : Claims.Covers l.dirty off size
  · rw [coreRead_dirty hh hfit hl hd] at he
    refine ⟨fun hp => ?_, fun hp => ?_⟩
    · rw [if_pos hp] at he
      exact he
    · rw [if_neg (by simp [hp]), Go.bind, loadResult_completes hq (by decide)] at he
      refine ⟨_, _, _, he, result_loadedCore s d _ false descUint8, ?_, ?_⟩
      · exact extended_congr (extended_extend sg l.data off hs) fun k hk => by simp [hd k hk]
      · simp [hd, show descIsVoid descUint8 = false by decide]
  · rw [coreRead_valid hh hfit hl hd (hcov.resolve_left hd), Go.bind] at he
    refine ⟨fun hp => he.trans (loadResult_poison hp), fun hp => ?_⟩
    rw [loadResult_completes hq hp] at he
    refine ⟨_, _, _, he, result_loadedCore s d _ false l.desc, ?_, ?_⟩
    · refine extended_congr (extended_extend sg _ off hs) fun k hk => ?_
      rw [dataByte_seenData _ _ _ (by omega)]
      cases l.dirty.getLsbD (off + k) <;> simp
    · simp [hd]

/-- A load that reads at the home: LDC.D, and each load whose address is tainted. -/
theorem exec_of_homeLoads {s : State} {d a b : Reg} {imm : BitVec 15} {h : BitVec 2} {i : Instr} {ea : Word} {size : Nat}
    {sg : Bool} (hi : (i, ea, size, sg, true) ∈ (Instr.ldcD d a imm, s.core.rd a + imm.signExtend 64, 8, false, true)
        :: Claims.Loads s.core d a b imm h) :
    exec i s = load d ea size sg true true s ∧ (size = 1 ∨ size = 2 ∨ size = 4 ∨ size = 8) := by
  rcases List.mem_cons.1 hi with hi | hi
  · obtain ⟨rfl, rfl, rfl, rfl, -⟩ := by simpa only [Prod.mk.injEq] using hi
    exact ⟨rfl, by decide⟩
  · exact exec_of_loads hi

theorem loadsFromHome : Claims.LoadsFromHome := by
  intro s d a b imm h i ea size sg tag w rest hi hm hresp off dirty hnd
  obtain ⟨he, hs⟩ := exec_of_homeLoads hi
  obtain ⟨hq, hh, ha, hr⟩ := id hm
  have hfit : off + size ≤ 64 := aligned_fits hs ha
  have hdirty (k : Nat) : dirty k ↔ (lineAt s ea).dirty.getLsbD k = true := by
    simp only [dirty, lineAt]
    cases s.core.line (ea.toNat / 64) s.curView <;> simp
  have hd : ¬ Claims.Covers (lineAt s ea).dirty off size := by
    obtain ⟨k, hk, hn⟩ := hnd
    exact fun hc => hn ((hdirty _).2 (hc k hk))
  rw [load_accesses hm, coreRead_home hfit hd hresp, Go.bind] at he
  refine ⟨fun hp => ?_, fun hp => ?_⟩
  · rw [loadResult_poison hp, trapHere, takeTrap_setResp, State.core_setCore] at he
    exact he
  · rw [loadResult_completes (by rw [NotStepping, State.core_setCore]; exact hq) hp, State.core_setCore,
      State.setCore_setCore] at he
    have hcore : (loadedCore { s.core with resp := rest } d
          (extend size sg (dataBytes (seenData w.desc w.data (lineAt s ea)) off size)) true w.desc).clearStage
        = (loadedCore s.core d (extend size sg (dataBytes (seenData w.desc w.data (lineAt s ea)) off size)) true
            w.desc).clearStage := by
      simp only [loadedCore, Core.setDisc, Core.wr, Core.clearStage]
      split <;> split <;> rfl
    rw [hcore] at he
    refine ⟨_, _, he, result_loadedCore s d _ true w.desc, ?_, _, extended_extend sg _ off hs, fun k hk => ⟨?_, ?_⟩⟩
    · rw [State.core_setCore, Core.l1d_advance, loadedCore_l1d]
    · intro l hl hb
      have hla : lineAt s ea = l := by rw [lineAt, hl, Option.getD_some]
      rw [dataByte_seenData _ _ _ (by omega), hla, if_pos hb]
    · intro hb
      rw [dataByte_seenData _ _ _ (by omega), if_neg (mt (hdirty _).2 hb)]

/-- Settles O21: the bytes at hand, extended, are what the load leaves. -/
theorem loadsComplete : Obligations.LoadsComplete := ⟨loadResults, loadsFromHome⟩

end Sys2Proof
end


section
/-! SUPPORT. Exact values, magnitudes and rounding (R36 to R46); O41. -/

namespace Sys2Proof

open Machine

/-! ### Exact values as rationals (R46) -/

theorem is_fraction {g : Bool} {n d : Nat} (hd : d ≠ 0) : Claims.Is (.fin g n d) g ((n : Rat) / d) :=
  ⟨n, d, rfl, hd, (div_mul_cancel₀ _ (by exact_mod_cast hd)).symm⟩

theorem is_congr {x : Num} {g : Bool} {v w : Rat} (h : Claims.Is x g v) (hv : v = w) : Claims.Is x g w := hv ▸ h

/-- A finite number's magnitude is the quotient of its parts. -/
theorem is_fin_iff {g h : Bool} {n d : Nat} {v : Rat} :
    Claims.Is (.fin g n d) h v ↔ g = h ∧ d ≠ 0 ∧ v = (n : Rat) / d := by
  constructor
  · rintro ⟨n, d, hx, hd, hv⟩
    obtain ⟨rfl, rfl, rfl⟩ := Num.fin.inj hx
    exact ⟨rfl, hd, by rw [hv, mul_div_cancel_right₀ _ (by exact_mod_cast hd)]⟩
  · rintro ⟨rfl, hd, rfl⟩
    exact is_fraction hd

theorem not_is_nan {sig g : Bool} {v : Rat} : ¬ Claims.Is (.nan sig) g v := by
  rintro ⟨_, _, hx, -⟩
  exact Num.noConfusion hx

theorem not_is_inf {h g : Bool} {v : Rat} : ¬ Claims.Is (.inf h) g v := by
  rintro ⟨_, _, hx, -⟩
  exact Num.noConfusion hx

theorem is_ofInt (z : Int) : Claims.Is (Num.ofInt z) (decide (z < 0)) (z.natAbs : Rat) :=
  ⟨_, 1, rfl, one_ne_zero, by simp⟩

/-- A power of two with a whole exponent, as numerator or denominator. -/
theorem zpow_two_of_nonneg {e : Int} (h : 0 ≤ e) : (2 : Rat) ^ e = ((2 ^ e.toNat : Nat) : Rat) := by
  obtain ⟨n, rfl⟩ := Int.eq_ofNat_of_zero_le h
  simp

theorem zpow_two_of_neg {e : Int} (h : ¬ 0 ≤ e) : (2 : Rat) ^ e = ((2 ^ (-e).toNat : Nat) : Rat)⁻¹ := by
  obtain ⟨n, hn⟩ := Int.eq_ofNat_of_zero_le (show 0 ≤ -e by omega)
  obtain rfl : e = -(n : Int) := by omega
  simp

theorem is_scale {x : Num} {g : Bool} {v : Rat} (e : Int) (h : Claims.Is x g v) : Claims.Is (x.scale e) g (v * 2 ^ e) := by
  obtain ⟨n, d, rfl, hd, hv⟩ := h
  have hp (k : Nat) : (2 : Nat) ^ k ≠ 0 := by positivity
  by_cases he : 0 ≤ e
  · refine ⟨n * 2 ^ e.toNat, d, by simp [Num.scale, he], hd, ?_⟩
    rw [zpow_two_of_nonneg he, Nat.cast_mul, hv]
    ring
  · refine ⟨n, d * 2 ^ (-e).toNat, by simp [Num.scale, he], Nat.mul_ne_zero hd (hp _), ?_⟩
    have h2 : ((2 ^ (-e).toNat : Nat) : Rat) ≠ 0 := by exact_mod_cast hp _
    rw [zpow_two_of_neg he, Nat.cast_mul, hv]
    field_simp

theorem pow2_eq_scale (g : Bool) (m : Nat) (e : Int) : Num.pow2 g m e = (Num.fin g m 1).scale e := by
  simp only [Num.pow2, Num.scale, Nat.one_mul]

theorem is_pow2 (g : Bool) (m : Nat) (e : Int) : Claims.Is (Num.pow2 g m e) g ((m : Rat) * 2 ^ e) := by
  rw [pow2_eq_scale]
  exact is_scale e (is_congr (is_fraction one_ne_zero) (by simp))

theorem scale_nan (sig : Bool) (e : Int) : (Num.nan sig).scale e = .nan sig := rfl

theorem scale_inf (g : Bool) (e : Int) : (Num.inf g).scale e = .inf g := rfl

/-! ### Magnitudes of a format (R36, R45) -/

theorem is_mag {k : FloatFmt} {bias : Int} (he : k.emin = 1 - bias) (g : Bool) (idx : Nat) :
    Claims.Is (k.mag g idx) g (Claims.magnitude k.p bias idx) := by
  unfold FloatFmt.mag Claims.magnitude
  dsimp only
  rw [he, Nat.add_comm (idx % _)]
  split
  · exact is_pow2 ..
  · exact is_pow2 ..

/-- The magnitude of an exponent step and a significand, the next step's first one included. -/
theorem magnitude_step {p : Nat} {bias : Int} {e a : Nat} (h1 : e ≠ 0 → 2 ^ (p - 1) ≤ a) (h2 : a ≤ 2 * 2 ^ (p - 1)) :
    Claims.magnitude p bias (e * 2 ^ (p - 1) + a) = (a : Rat) * 2 ^ (1 - bias - ((p : Int) - 1) + e) := by
  have hpos : 0 < 2 ^ (p - 1) := by positivity
  generalize hh : 2 ^ (p - 1) = h at *
  unfold Claims.magnitude
  simp only [hh]
  by_cases hs : e * h + a < h
  · have he : e = 0 := by
      by_contra hc
      have := h1 hc
      omega
    subst he
    rw [if_pos hs]
    simp
  · rw [if_neg hs]
    have ha : h ≤ a := by
      by_contra hc
      have he : e = 0 := by
        by_contra he
        exact hc (h1 he)
      subst he
      omega
    obtain ⟨b, rfl⟩ := Nat.exists_eq_add_of_le ha
    have hd : e * h + (h + b) = b + (e + 1) * h := by ring
    rw [hd, Nat.add_mul_mod_self_right, Nat.add_mul_div_right _ _ hpos]
    rcases Nat.lt_or_ge b h with hb | hb
    · rw [Nat.mod_eq_of_lt hb, Nat.div_eq_of_lt hb]
      congr 2
      push_cast
      ring
    · obtain rfl : b = h := by omega
      rw [Nat.mod_self, Nat.div_self hpos, show (1 - bias - ((p : Int) - 1) + ((1 + (e + 1) : Nat) : Int) - 1)
          = (1 - bias - ((p : Int) - 1) + (e : Int)) + 1 by push_cast; ring, zpow_add_one₀ two_ne_zero]
      push_cast
      ring

/-! ### The binary logarithm -/

/-- ⌊log2 (n / d)⌋ is at least an exponent just where n / d is at least its power. -/
theorem floorLog2_spec {n d : Nat} (hn : n ≠ 0) (hd : d ≠ 0) :
    (2 : Rat) ^ floorLog2 n d ≤ (n : Rat) / d ∧ (n : Rat) / d < 2 ^ (floorLog2 n d + 1) := by
  have hdp : (0 : Rat) < d := by exact_mod_cast Nat.pos_of_ne_zero hd
  have hge (e : Int) : (if 0 ≤ e then decide (d * 2 ^ e.toNat ≤ n) else decide (d ≤ n * 2 ^ (-e).toNat)) = true
      ↔ (2 : Rat) ^ e ≤ (n : Rat) / d := by
    rw [le_div_iff₀ hdp]
    by_cases he : 0 ≤ e
    · rw [if_pos he, zpow_two_of_nonneg he, decide_eq_true_iff, Nat.mul_comm]
      exact_mod_cast Iff.rfl
    · have hp : (0 : Rat) < ((2 ^ (-e).toNat : Nat) : Rat) := by exact_mod_cast Nat.two_pow_pos _
      rw [if_neg he, zpow_two_of_neg he, decide_eq_true_iff, inv_mul_le_iff₀ hp, Nat.mul_comm]
      exact_mod_cast Iff.rfl
  have hnl : 2 ^ Nat.log2 n ≤ n ∧ n < 2 ^ (Nat.log2 n + 1) := ⟨Nat.log2_self_le hn, Nat.lt_log2_self⟩
  have hdl : 2 ^ Nat.log2 d ≤ d ∧ d < 2 ^ (Nat.log2 d + 1) := ⟨Nat.log2_self_le hd, Nat.lt_log2_self⟩
  have hnq : (2 : Rat) ^ (Nat.log2 n : Int) ≤ n ∧ (n : Rat) < 2 ^ ((Nat.log2 n : Int) + 1) := by
    constructor
    · exact_mod_cast hnl.1
    · exact_mod_cast hnl.2
  have hdq : (2 : Rat) ^ (Nat.log2 d : Int) ≤ d ∧ (d : Rat) < 2 ^ ((Nat.log2 d : Int) + 1) := by
    constructor
    · exact_mod_cast hdl.1
    · exact_mod_cast hdl.2
  generalize ha : (Nat.log2 n : Int) - (Nat.log2 d : Int) = a
  have hup : (n : Rat) / d < 2 ^ (a + 1) := by
    rw [div_lt_iff₀ hdp]
    calc (n : Rat) < 2 ^ ((Nat.log2 n : Int) + 1) := hnq.2
      _ = 2 ^ (a + 1) * 2 ^ (Nat.log2 d : Int) := by rw [← zpow_add₀ two_ne_zero]; congr 1; omega
      _ ≤ 2 ^ (a + 1) * d := by gcongr; exact hdq.1
  have hlo : (2 : Rat) ^ (a - 1) ≤ (n : Rat) / d := by
    rw [le_div_iff₀ hdp]
    calc (2 : Rat) ^ (a - 1) * d ≤ 2 ^ (a - 1) * 2 ^ ((Nat.log2 d : Int) + 1) := by gcongr; exact hdq.2.le
      _ = 2 ^ (Nat.log2 n : Int) := by rw [← zpow_add₀ two_ne_zero]; congr 1; omega
      _ ≤ n := hnq.1
  unfold floorLog2
  simp only [ha]
  by_cases hc : (2 : Rat) ^ a ≤ (n : Rat) / d
  · rw [if_pos ((hge a).2 hc)]
    exact ⟨hc, hup⟩
  · rw [if_neg (mt (hge a).1 hc)]
    exact ⟨hlo, by rw [sub_add_cancel]; exact not_le.1 hc⟩

/-! ### Rounding to a neighbour (R43) -/

theorem quotient_add_fraction {a b : Nat} (hb : b ≠ 0) : (a : Rat) / b = (a / b : Nat) + ((a % b : Nat) : Rat) / b := by
  have hq : (b : Rat) ≠ 0 := by exact_mod_cast hb
  rw [div_eq_iff hq, add_mul, div_mul_cancel₀ _ hq]
  exact_mod_cast (Nat.div_add_mod' a b).symm

/-- The neighbour that `roundsUp` takes is the one that the rounding mode names. -/
theorem roundsTo_neighbour {mag : Nat → Rat} {rm : Nat} {g : Bool} {y u : Rat} {j A rem b : Nat} (hrm : rm < 6) (hu : 0 < u)
    (hlo : mag j = A * u) (hhi : mag (j + 1) = (A + 1) * u) (hy : y = (A + (rem : Rat) / b) * u)
    (h0 : rem ≠ 0) (h1 : rem < b) :
    let k := j + if roundsUp rm g (decide (j % 2 = 1)) rem b then 1 else 0
    Claims.RoundsTo mag rm g y k ∧ mag k ≠ y := by
  intro k
  have hb : (0 : Rat) < b := by exact_mod_cast Nat.lt_of_le_of_lt (Nat.zero_le _) h1
  have hr0 : (0 : Rat) < (rem : Rat) / b := div_pos (by exact_mod_cast Nat.pos_of_ne_zero h0) hb
  have hr1 : (rem : Rat) / b < 1 := by
    rw [div_lt_one hb]
    exact_mod_cast h1
  have hlt : mag j < y := by
    rw [hlo, hy]
    gcongr
    linarith
  have hgt : y < mag (j + 1) := by
    rw [hhi, hy]
    gcongr
  have hmid : (mag j + mag (j + 1)) / 2 = (A + 1 / 2) * u := by
    rw [hlo, hhi]
    ring
  have hbelow : (mag j + mag (j + 1)) / 2 < y ↔ b < 2 * rem := by
    rw [hmid, hy, mul_lt_mul_iff_of_pos_right hu, add_lt_add_iff_left, div_lt_div_iff₀ two_pos hb]
    norm_cast
    omega
  have hat : (mag j + mag (j + 1)) / 2 = y ↔ 2 * rem = b := by
    rw [hmid, hy, mul_left_inj' hu.ne', add_right_inj, div_eq_div_iff two_ne_zero hb.ne']
    norm_cast
    omega
  refine ⟨.inr ⟨j, hlt, not_lt.2 hgt.le, hgt.ne', ?_⟩, ?_⟩
  · have hup : ((rm = 0 ∧ ((mag j + mag (j + 1)) / 2 < y ∨ ((mag j + mag (j + 1)) / 2 = y ∧ j % 2 = 1)))
        ∨ (rm = 1 ∧ ((mag j + mag (j + 1)) / 2 < y ∨ (mag j + mag (j + 1)) / 2 = y)) ∨ (rm = 3 ∧ g = false)
        ∨ (rm = 4 ∧ g = true) ∨ (rm = 5 ∧ j % 2 = 0)) ↔ roundsUp rm g (decide (j % 2 = 1)) rem b = true := by
      rw [hbelow, hat]
      interval_cases rm
      · simp [roundsUp]
      · simp [roundsUp]
        omega
      · simp [roundsUp]
      · simp [roundsUp]
      · simp [roundsUp]
      · simp [roundsUp]
    dsimp only
    rw [hup]
    exact ⟨fun h => by simp only [k, h, if_true], fun h => by simp only [k, h, Bool.false_eq_true, if_false, Nat.add_zero]⟩
  · dsimp only [k]
    split
    · exact hgt.ne'
    · exact hlt.ne

/-- Rounding to a format's magnitudes, the exponent unbounded (R45). -/
theorem round_spec {k : FloatFmt} {bias : Int} {rm : Nat} {g : Bool} {n d : Nat} (he : k.emin = 1 - bias) (hp : 1 ≤ k.p)
    (hrm : rm < 6) (hd : d ≠ 0) :
    Claims.RoundsTo (Claims.magnitude k.p bias) rm g ((n : Rat) / d) (k.round rm g n d).1
      ∧ ((k.round rm g n d).2 = true ↔ Claims.magnitude k.p bias (k.round rm g n d).1 = (n : Rat) / d) := by
  by_cases hn : n = 0
  · subst hn
    have h0 : Claims.magnitude k.p bias 0 = ((0 : Nat) : Rat) / d := by simp [Claims.magnitude]
    simp only [FloatFmt.round, if_true]
    exact ⟨.inl h0, by simp [h0]⟩
  · have hdp : (0 : Rat) < d := by exact_mod_cast Nat.pos_of_ne_zero hd
    obtain ⟨hl, hu⟩ := floorLog2_spec hn hd
    generalize hqm : k.emin - ((k.p : Int) - 1) = qmin
    generalize hq : max (floorLog2 n d - ((k.p : Int) - 1)) qmin = q
    obtain ⟨e, rfl⟩ : ∃ e : Nat, q = qmin + e := ⟨(q - qmin).toNat, by omega⟩
    generalize hA : (if 0 ≤ qmin + e then n else n * 2 ^ (-(qmin + e)).toNat) = a
    generalize hB : (if 0 ≤ qmin + (e : Int) then d * 2 ^ (qmin + (e : Int)).toNat else d) = b
    have hpow : (0 : Rat) < 2 ^ (qmin + (e : Int)) := by positivity
    have hb : 0 < b := by
      rw [← hB]
      have := Nat.pos_of_ne_zero hd
      split
      · positivity
      · exact this
    have hbq : (0 : Rat) < b := by exact_mod_cast hb
    -- The scaled fraction is y in units of the step.
    have hab : (n : Rat) / d = (a : Rat) / b * 2 ^ (qmin + (e : Int)) := by
      rw [← hA, ← hB]
      by_cases h : 0 ≤ qmin + (e : Int)
      · rw [if_pos h, if_pos h, zpow_two_of_nonneg h]
        push_cast
        field_simp
      · rw [if_neg h, if_neg h, zpow_two_of_neg h]
        push_cast
        field_simp
    have hdiv := quotient_add_fraction (a := a) hb.ne'
    have hhi : a / b < 2 * 2 ^ (k.p - 1) := by
      rw [Nat.div_lt_iff_lt_mul hb]
      have : (a : Rat) / b * 2 ^ (qmin + (e : Int)) < 2 ^ (k.p : Int) * 2 ^ (qmin + (e : Int)) := by
        rw [← hab, ← zpow_add₀ two_ne_zero]
        refine hu.trans_le (zpow_le_zpow_right₀ one_le_two ?_)
        omega
      have := lt_of_mul_lt_mul_right this hpow.le
      rw [div_lt_iff₀ hbq] at this
      have h2 : 2 * 2 ^ (k.p - 1) = 2 ^ k.p := by rw [mul_comm, Nat.pow_pred_mul hp]
      rw [h2]
      exact_mod_cast this
    have hlo : e ≠ 0 → 2 ^ (k.p - 1) ≤ a / b := by
      intro hne
      rw [Nat.le_div_iff_mul_le hb]
      have : (2 : Rat) ^ ((k.p - 1 : Nat) : Int) * 2 ^ (qmin + (e : Int)) ≤ (a : Rat) / b * 2 ^ (qmin + (e : Int)) := by
        rw [← hab, ← zpow_add₀ two_ne_zero]
        refine le_trans (zpow_le_zpow_right₀ one_le_two ?_) hl
        omega
      have := le_of_mul_le_mul_right this hpow
      rw [le_div_iff₀ hbq] at this
      exact_mod_cast this
    have hm0 := magnitude_step (bias := bias) hlo hhi.le
    have hm1 := magnitude_step (p := k.p) (bias := bias) (e := e) (a := a / b + 1) (fun h => (hlo h).trans (Nat.le_succ _)) hhi
    rw [← he, hqm] at hm0 hm1
    have hidx : k.round rm g n d = if a % b = 0 then (e * 2 ^ (k.p - 1) + a / b, true) else
        (e * 2 ^ (k.p - 1) + a / b + (if roundsUp rm g (decide ((e * 2 ^ (k.p - 1) + a / b) % 2 = 1)) (a % b) b then 1 else 0),
          false) := by
      simp only [FloatFmt.round, if_neg hn, hqm, hq, hA, hB, add_sub_cancel_left, Int.toNat_natCast]
    rw [hidx]
    by_cases hr : a % b = 0
    · rw [if_pos hr]
      have hy : Claims.magnitude k.p bias (e * 2 ^ (k.p - 1) + a / b) = (n : Rat) / d := by
        rw [hm0, hab, hdiv, hr]
        simp
      exact ⟨.inl hy, by simp [hy]⟩
    · rw [if_neg hr]
      have h := roundsTo_neighbour (mag := Claims.magnitude k.p bias) (g := g) (j := e * 2 ^ (k.p - 1) + a / b)
        (y := (n : Rat) / d) hrm hpow hm0 (by rw [Nat.add_assoc, hm1]; push_cast; ring) (by rw [hab, hdiv]) hr (Nat.mod_lt _ hb)
      exact ⟨h.1, by simpa using h.2⟩

/-- The magnitude of an integer result. -/
def roundNat (rm : Nat) (g : Bool) (n d : Nat) : Nat :=
  if n % d = 0 then n / d else n / d + (if roundsUp rm g (decide (n / d % 2 = 1)) (n % d) d then 1 else 0)

theorem roundInt_eq (rm : Nat) (g : Bool) (n d : Nat) :
    roundInt rm g n d = (if g then -(roundNat rm g n d : Int) else roundNat rm g n d, decide (n % d = 0)) := rfl

/-- Rounding to an integer (R43). -/
theorem roundNat_spec {rm : Nat} {g : Bool} {n d : Nat} (hrm : rm < 6) (hd : d ≠ 0) :
    Claims.RoundsTo (fun k => (k : Rat)) rm g ((n : Rat) / d) (roundNat rm g n d)
      ∧ (n % d = 0 ↔ (roundNat rm g n d : Rat) = (n : Rat) / d) := by
  have hdiv := quotient_add_fraction (a := n) hd
  unfold roundNat
  by_cases hr : n % d = 0
  · rw [if_pos hr]
    have hy : ((n / d : Nat) : Rat) = (n : Rat) / d := by rw [hdiv, hr]; simp
    exact ⟨.inl hy, by simp [hr, hy]⟩
  · rw [if_neg hr]
    have h := roundsTo_neighbour (mag := fun k => (k : Rat)) (g := g) (u := 1) (j := n / d) (A := n / d) hrm one_pos
      (y := (n : Rat) / d) (by simp) (by push_cast; ring) (by rw [hdiv, mul_one]) hr (Nat.mod_lt _ (Nat.pos_of_ne_zero hd))
    exact ⟨h.1, by simpa [hr] using h.2⟩

/-! ### The tables of formats (R30) -/

/-- The format of a row of `Claims.floats`. -/
def rowFmt (r : Nat × Nat × Int × Nat × Bool × Bool × Nat × Nat) : FloatFmt :=
  ⟨r.2.1, 1 - r.2.2.1, r.2.2.2.2.2.2.1, r.2.2.2.2.1, r.2.2.2.2.2.1, r.2.2.2.1, decide (r.2.2.2.1 ≠ 8), r.2.2.2.2.2.2.2⟩

/-- What the codes of a format must be for its width: those past the largest finite magnitude are the NaN's and the
infinity's. -/
def codesSound (code : Nat) (k : FloatFmt) : Bool :=
  decide (1 ≤ k.p) && (if k.width = 8 then (if k.signed then decide (0x7E ≤ k.top) else decide (k.nan = 0xFF ∧ 0xFD ≤ k.top))
    else k.signed && decide (k.top + 1 < k.nan % 2 ^ (k.width - 1)) && decide (k.p = 11 ↔ code = 6))

theorem floats_table : ∀ r ∈ Claims.floats, floatFmt (BitVec.ofNat 8 r.1) = some (rowFmt r) ∧ codesSound r.1 (rowFmt r) = true
    ∧ BitVec.ofNat 8 r.1 ≠ 0#8 ∧ ∀ b, readsPoison (BitVec.ofNat 8 r.1) b = false := by
  have h : ∀ r ∈ Claims.floats, floatFmt (BitVec.ofNat 8 r.1) = some (rowFmt r) ∧ codesSound r.1 (rowFmt r) = true
      ∧ BitVec.ofNat 8 r.1 ≠ 0#8 ∧ (decide (BitVec.ofNat 8 r.1 = 0x0E#8) || !fmtListed (BitVec.ofNat 8 r.1)
        || fmtInt (BitVec.ofNat 8 r.1)) = false := by decide
  intro r hr
  obtain ⟨h1, h2, h3, h4⟩ := h r hr
  obtain ⟨h4, h5⟩ := Bool.or_eq_false_iff.1 h4
  exact ⟨h1, h2, h3, fun b => by rw [readsPoison, h4, h5]; rfl⟩

theorem ints_table : ∀ r ∈ Claims.ints, floatFmt (BitVec.ofNat 8 r.1) = none ∧ intRange (BitVec.ofNat 8 r.1) = r.2.2
    ∧ fmtBits (BitVec.ofNat 8 r.1) = r.2.1 ∧ BitVec.ofNat 8 r.1 ≠ 0#8
    ∧ (decide (BitVec.ofNat 8 r.1 = 0x0E#8) || !fmtListed (BitVec.ofNat 8 r.1)) = false := by decide

end Sys2Proof
end


section
/-! SUPPORT. Every value format, read and written (R31 to R46); O41. -/

namespace Sys2Proof

open Machine

/-! ### Decoding -/

theorem intDecode_eq {f w : Nat} {lo hi v : Int} (hf : (f, w, lo, hi) ∈ Claims.ints) {raw : Nat} (h1 : lo ≤ v) (h2 : v ≤ hi)
    (hv : v % 2 ^ w = ((raw % 2 ^ w : Nat) : Int)) : intDecode (BitVec.ofNat 8 f) raw = v := by
  obtain ⟨-, -, hw, -, -⟩ := ints_table _ hf
  dsimp only at hw
  simp only [intDecode, hw]
  simp only [Claims.ints, List.mem_cons, List.not_mem_nil, or_false, Prod.mk.injEq] at hf
  rcases hf with ⟨rfl, rfl, rfl, rfl⟩ | ⟨rfl, rfl, rfl, rfl⟩ | ⟨rfl, rfl, rfl, rfl⟩ | ⟨rfl, rfl, rfl, rfl⟩
  all_goals
    rw [BitVec.toNat_ofNat]
    split <;> omega

/-- A code of a floating format, by its magnitude (R36 to R40). -/
theorem decode_code {code : Nat} {f : FloatFmt} (hs : codesSound code f = true) (c : Nat) (hc : c < 2 ^ f.width) :
    let k := if f.signed then c % 2 ^ (f.width - 1) else c
    let g := f.signed && decide (2 ^ (f.width - 1) ≤ c)
    (k ≤ f.top → c ≠ f.nan → f.decode c = f.mag g k)
    ∧ (f.hasInf = true → k = f.top + 1 → c ≠ f.nan → f.decode c = .inf g)
    ∧ (c = f.nan ∨ f.top + 1 < k → ∃ sig, f.decode c = .nan sig
        ∧ (sig = false ↔ code = 6 ∨ f.width = 8 ∨ k / 2 ^ (f.p - 2) % 2 = 1)) := by
  intro k g
  have hd : f.decode c = if f.width = 8 then (if c = f.nan then .nan false
      else if f.hasInf && decide (k = f.top + 1) then .inf g else f.mag g k)
      else if k ≤ f.top then f.mag g k else if k = f.top + 1 then .inf g
      else .nan (decide (f.p ≠ 11) && decide (k / 2 ^ (f.p - 2) % 2 = 0)) := rfl
  rw [hd]
  simp only [codesSound, Bool.and_eq_true] at hs
  obtain ⟨-, hs⟩ := hs
  have hks : f.signed = true → k = c % 2 ^ (f.width - 1) := fun h => if_pos h
  have hku : f.signed = false → k = c := fun h => if_neg (by simp [h])
  clear_value k g
  by_cases hw : f.width = 8
  · rw [if_pos hw] at hs ⊢
    rw [hw] at hc hks
    have hnan (h : f.top + 1 < k) : c = f.nan := by
      cases hg : f.signed with
      | true =>
        rw [if_pos hg, decide_eq_true_eq] at hs
        have hm : c % 2 ^ (8 - 1) < 2 ^ (8 - 1) := Nat.mod_lt _ (by decide)
        have := hks hg
        omega
      | false =>
        rw [if_neg (by simp [hg]), decide_eq_true_eq] at hs
        have := hku hg
        omega
    refine ⟨fun h1 h2 => ?_, fun h1 h2 h3 => ?_, fun h => ⟨false, ?_, by simp [hw]⟩⟩
    · rw [if_neg h2, if_neg]
      simp only [Bool.and_eq_true, decide_eq_true_eq]
      omega
    · rw [if_neg h3, if_pos (by simp [h1, h2])]
    · rw [if_pos (h.elim id hnan)]
  · rw [if_neg hw] at hs ⊢
    simp only [Bool.and_eq_true, decide_eq_true_eq] at hs
    obtain ⟨⟨hg, hn⟩, hp⟩ := hs
    have hk := hks hg
    refine ⟨fun h1 _ => if_pos h1, fun _ h2 _ => ?_, fun h => ?_⟩
    · rw [if_neg (by omega), if_pos h2]
    · have hlt : f.top + 1 < k := by
        rcases h with h | h
        · rw [hk, h]
          exact hn
        · exact h
      refine ⟨_, by rw [if_neg (by omega), if_neg (by omega)], ?_⟩
      rw [← hp, Bool.and_eq_false_iff, decide_eq_false_iff_not, decide_eq_false_iff_not]
      simp only [hw, false_or]
      omega

theorem decodes_floats : ∀ f p bias w signed inf top nan, (f, p, bias, w, signed, inf, top, nan) ∈ Claims.floats →
    ∀ (s : BitVec 8) (stored : Bool) (raw : Nat),
      let c := raw % 2 ^ w
      let k := if signed then c % 2 ^ (w - 1) else c
      let g := signed && decide (2 ^ (w - 1) ≤ c)
      let quiet := f = 6 ∨ w = 8 ∨ (k / 2 ^ (p - 2)) % 2 = 1
      (s = 0xFF#8 → decodeVal (BitVec.ofNat 8 f) s stored raw = (.num (.nan false), 0))
      ∧ (s ≠ 0xFF#8 → k ≤ top → c ≠ nan → ∃ x, decodeVal (BitVec.ofNat 8 f) s stored raw = (.num x, 0)
          ∧ Claims.Is x g (Claims.magnitude p bias k * (2 : Rat) ^ ((s.toNat : Int) - 127)))
      ∧ (s ≠ 0xFF#8 → inf = true → k = top + 1 → c ≠ nan → decodeVal (BitVec.ofNat 8 f) s stored raw = (.num (.inf g), 0))
      ∧ (s ≠ 0xFF#8 → c = nan ∨ top + 1 < k →
          ∃ sig, decodeVal (BitVec.ofNat 8 f) s stored raw = (.num (.nan sig), 0) ∧ (sig = false ↔ quiet)) := by
  intro f p bias w signed inf top nan hf s stored raw c k g quiet
  obtain ⟨hfmt, hs, h0, hp⟩ := floats_table _ hf
  dsimp only at hfmt h0 hp
  obtain ⟨hfin, hinf, hnan⟩ := decode_code hs c (Nat.mod_lt _ (Nat.two_pow_pos w))
  have hd : decodeVal (BitVec.ofNat 8 f) s stored raw = if s = 0xFF#8 then (.num (.nan false), 0)
      else (.num (((rowFmt (f, p, bias, w, signed, inf, top, nan)).decode c).scale ((s.toNat : Int) - 127)), 0) := by
    simp only [decodeVal, if_neg h0, hp, Bool.false_eq_true, if_false, hfmt]
    rfl
  rw [hd]
  refine ⟨fun h => if_pos h, fun h h1 h2 => ?_, fun h h1 h2 h3 => ?_, fun h h1 => ?_⟩ <;> simp only [if_neg h]
  · exact ⟨_, rfl, is_scale _ ((hfin h1 h2) ▸ is_mag rfl g k)⟩
  · rw [hinf h1 h2 h3]
    rfl
  · obtain ⟨sig, h2, h3⟩ := hnan h1
    exact ⟨sig, by rw [h2]; rfl, h3⟩

theorem decodes_ints : ∀ f w lo hi, (f, w, lo, hi) ∈ Claims.ints → ∀ (s : BitVec 8) (raw : Nat) (v : Int), s ≠ 0xFF#8 → lo ≤ v →
    v ≤ hi → v % 2 ^ w = ((raw % 2 ^ w : Nat) : Int) →
      (∃ x, decodeVal (BitVec.ofNat 8 f) s false raw = (.num x, 0)
        ∧ Claims.Is x (decide (v < 0)) ((v.natAbs : Rat) * (2 : Rat) ^ ((s.toNat : Int) - 127)))
      ∧ ∃ x, decodeVal (BitVec.ofNat 8 f) s true raw = (.num x, 0) ∧ Claims.Is x (decide (v < 0)) (v.natAbs : Rat) := by
  intro f w lo hi hf s raw v hs h1 h2 hv
  obtain ⟨hfmt, -, -, h0, hp⟩ := ints_table _ hf
  dsimp only at hfmt h0 hp
  have hd (stored : Bool) : decodeVal (BitVec.ofNat 8 f) s stored raw
      = (.num (if stored then Num.ofInt v else (Num.ofInt v).scale ((s.toNat : Int) - 127)), 0) := by
    simp only [decodeVal, if_neg h0, readsPoison, hp, hs, decide_false, Bool.and_false, Bool.or_self, Bool.false_eq_true,
      if_false, hfmt, intDecode_eq hf h1 h2 hv]
  exact ⟨⟨_, hd false, is_scale _ (is_ofInt v)⟩, _, hd true, is_ofInt v⟩

/-- A code that is of no row is VOID, POISON or reserved. -/
theorem poison_of_no_row : ∀ f : BitVec 8, f = 0x0E#8 ∨ (f ≠ 0#8 ∧ (∀ r ∈ Claims.ints, r.1 ≠ f.toNat)
    ∧ ∀ r ∈ Claims.floats, r.1 ≠ f.toNat) → f ≠ 0#8 ∧ (decide (f = 0x0E#8) || !fmtListed f) = true := by decide +kernel

theorem fmtInt_of_row : ∀ f : BitVec 8, (∃ r ∈ Claims.ints, r.1 = f.toNat) → f ≠ 0#8 ∧ fmtInt f = true := by decide +kernel

theorem decodes : Claims.Decodes := by
  refine ⟨decodes_floats, decodes_ints, fun f s stored raw => ⟨fun h => by rw [decodeVal, if_pos h], fun h => ?_⟩⟩
  have hp : f ≠ 0#8 ∧ readsPoison f s = true := by
    rw [← or_assoc] at h
    rcases h with h | ⟨rfl, h⟩
    · exact (poison_of_no_row f h).imp id fun h => by rw [readsPoison, h, Bool.true_or]
    · exact (fmtInt_of_row f h).imp id fun h => by simp [readsPoison, h]
  rw [decodeVal, if_neg hp.1, if_pos hp.2]

/-! ### Conversion -/

/-- The code of a finite value in a floating format: rounded once, its overflow by the rule (R45). -/
theorem convert_fin (k : FloatFmt) {x : Num} {s rm ovr n d : Nat} {g : Bool}
    (hx : x.scale (127 - (s : Int)) = .fin g n d) : k.convert x s rm ovr =
      if g = true ∧ k.signed = false ∧ n ≠ 0 then (0, flSat)
      else if k.top < (k.round rm g n d).1 then
        (if ovr = 2 then ((k.infCode g).1, (k.infCode g).2 ||| ((if (k.round rm g n d).2 then 0 else flInx) ||| flOvf))
          else (k.code g k.top, (if (k.round rm g n d).2 then 0 else flInx) ||| flOvf))
      else (k.code g (k.round rm g n d).1, (if (k.round rm g n d).2 then 0 else flInx)
        ||| (if (k.round rm g n d).2 = true ∨ 2 ^ (k.p - 1) ≤ (k.round rm g n d).1 then 0 else flUnf)) := by
  generalize hr : k.round rm g n d = r
  simp only [FloatFmt.convert, hx, hr]
  have hc : (g && !k.signed && decide (n ≠ 0)) = true ↔ g = true ∧ k.signed = false ∧ n ≠ 0 := by simp [and_assoc]
  have hu : (!r.2 && decide (r.1 < 2 ^ (k.p - 1))) = true ↔ ¬ (r.2 = true ∨ 2 ^ (k.p - 1) ≤ r.1) := by simp
  simp only [hc, hu, ite_not, BitVec.or_assoc]

theorem inexactFlag_eq {k : Nat} {mag : Nat → Rat} {y : Rat} {b : Bool} (h : b = true ↔ mag k = y) :
    (if b then (0 : BitVec 8) else flInx) = if mag k = y then 0 else flInx := by
  simp only [h]

theorem inexactFlag_eq_zero {p : Prop} [Decidable p] : (if p then (0 : BitVec 8) else flInx) = 0 ↔ p := by
  split
  · simp [*]
  · simp [*, flInx]

theorem converts_floats : ∀ f p bias w signed inf top nan, (f, p, bias, w, signed, inf, top, nan) ∈ Claims.floats →
    ∀ (x : Sys2Proof.Num) (s rm ovr : Nat), s < 256 → rm < 6 → ovr < 3 →
      let code (g : Bool) (k : Nat) : Nat := if g = true ∧ signed = true ∧ (k ≠ 0 ∨ w ≠ 8) then 2 ^ (w - 1) + k else k
      let huge (g : Bool) (fl : BitVec 8) : Nat × BitVec 8 := if inf then (code g (top + 1), fl) else (nan, flInv ||| fl)
      (∀ g v, Claims.Is x g v →
        let y := v * (2 : Rat) ^ (127 - (s : Int))
        (signed = false → g = true → v ≠ 0 → convert x (BitVec.ofNat 8 f) s rm ovr = (0, flSat))
        ∧ (signed = true ∨ g = false ∨ v = 0 → ∃ k, Claims.RoundsTo (Claims.magnitude p bias) rm g y k
            ∧ let inx := if Claims.magnitude p bias k = y then 0 else flInx
              convert x (BitVec.ofNat 8 f) s rm ovr =
                if top < k then (if ovr = 2 then huge g (inx ||| flOvf) else (code g top, inx ||| flOvf))
                else (code g k, inx ||| (if inx = 0 ∨ 2 ^ (p - 1) ≤ k then 0 else flUnf))))
      ∧ (∀ g, x = .inf g → convert x (BitVec.ofNat 8 f) s rm ovr =
          if g = true ∧ signed = false then (0, flSat) else if ovr = 0 then (code g top, flSat) else huge g 0)
      ∧ ∀ sig, x = .nan sig → convert x (BitVec.ofNat 8 f) s rm ovr = (nan, if sig then flInv else 0) := by
  intro f p bias w signed inf top nan hf x s rm ovr _ hrm _ code huge
  obtain ⟨hfmt, hs, -, -⟩ := floats_table _ hf
  generalize hk : rowFmt (f, p, bias, w, signed, inf, top, nan) = k at hfmt hs
  have hp : 1 ≤ k.p := by
    simp only [codesSound, Bool.and_eq_true, decide_eq_true_eq] at hs
    exact hs.1
  have hconv : convert x (BitVec.ofNat 8 f) s rm ovr = k.convert x s rm ovr := by
    dsimp only at hfmt
    rw [convert, hfmt]
  have hcode (g : Bool) (i : Nat) : k.code g i = code g i := by
    subst hk
    simp only [FloatFmt.code, rowFmt, code, Bool.and_eq_true, Bool.or_eq_true, decide_eq_true_eq, and_assoc]
  have hhuge (g : Bool) (fl : BitVec 8) : ((k.infCode g).1, (k.infCode g).2 ||| fl) = huge g fl := by
    have hi : k.infCode g = if inf then (code g (top + 1), 0) else (nan, flInv) := by
      rw [FloatFmt.infCode, hcode]
      subst hk
      rfl
    rw [hi]
    dsimp only [huge]
    cases inf with
    | true => simp
    | false => rfl
  have hke : k.emin = 1 - bias := by
    subst hk
    rfl
  obtain ⟨hkp, hkt, hks, hkn⟩ : k.p = p ∧ k.top = top ∧ k.signed = signed ∧ k.nan = nan := by
    subst hk
    exact ⟨rfl, rfl, rfl, rfl⟩
  rw [hconv]
  refine ⟨fun g v hx => ?_, fun g hx => ?_, fun sig hx => ?_⟩
  · obtain ⟨n, d, hy, hd, hv⟩ := is_scale (127 - (s : Int)) hx
    have hq : v * (2 : Rat) ^ (127 - (s : Int)) = (n : Rat) / d := by
      rw [hv, mul_div_cancel_right₀ _ (by exact_mod_cast hd)]
    have hn : n = 0 ↔ v = 0 := by
      have h2 : (2 : Rat) ^ (127 - (s : Int)) ≠ 0 := by positivity
      have hdq : (d : Rat) ≠ 0 := by exact_mod_cast hd
      have hz : (n : Rat) = 0 ↔ v = 0 := by
        rw [hv]
        simp [h2, hdq]
      rwa [Nat.cast_eq_zero] at hz
    rw [convert_fin k hy, hks]
    refine ⟨fun h1 h2 h3 => if_pos ⟨h2, h1, mt hn.1 h3⟩, fun h => ?_⟩
    rw [if_neg]
    · obtain ⟨h1, h2⟩ := round_spec (g := g) (n := n) (rm := rm) hke hp hrm hd
      refine ⟨_, by rw [← hkp, hq]; exact h1, ?_⟩
      rw [← hkp, hq, inexactFlag_eq h2]
      simp only [inexactFlag_eq_zero, h2, hkt, hcode, hhuge]
    · rintro ⟨h1, h2, h3⟩
      rcases h with h | h | h
      · simp [h] at h2
      · simp [h] at h1
      · exact h3 (hn.2 h)
  · subst hx
    have hc : (g && !signed) = true ↔ g = true ∧ signed = false := by simp
    have h0 : huge g 0 = k.infCode g := (hhuge g 0).symm.trans (Prod.ext rfl BitVec.or_zero)
    simp only [FloatFmt.convert, scale_inf, hks, hc, hcode, hkt, h0]
  · subst hx
    simp only [FloatFmt.convert, scale_nan, hkn]

/-- An integer clamped into its format (R45). -/
theorem saturate_eq {f w : Nat} {lo hi : Int} (hf : (f, w, lo, hi) ∈ Claims.ints) (z : Int) :
    saturate (BitVec.ofNat 8 f) z
      = ((max lo (min hi z) % (2 : Int) ^ w).toNat, if max lo (min hi z) = z then 0 else flSat) := by
  obtain ⟨-, hr, hw, -, -⟩ := ints_table _ hf
  have hlh : lo ≤ hi := by
    have : ∀ r ∈ Claims.ints, r.2.2.1 ≤ r.2.2.2 := by decide
    exact this _ hf
  dsimp only at hr hw
  simp only [saturate, hr, hw]
  by_cases h1 : hi < z
  · have hm : max lo (min hi z) = hi := by omega
    rw [if_pos h1, hm, if_neg (by omega)]
  · by_cases h2 : z < lo
    · have hm : max lo (min hi z) = lo := by omega
      rw [if_neg h1, if_pos h2, hm, if_neg (by omega)]
    · have hm : max lo (min hi z) = z := by omega
      rw [if_neg h1, if_neg h2, hm, if_pos rfl]

theorem converts_ints : ∀ f w lo hi, (f, w, lo, hi) ∈ Claims.ints → ∀ (x : Sys2Proof.Num) (s rm ovr : Nat), s < 256 → rm < 6 →
    ovr < 3 →
      let code (v : Int) : Nat := (v % (2 : Int) ^ w).toNat
      (∀ g v, Claims.Is x g v → ∃ m : Nat, Claims.RoundsTo (fun n => (n : Rat)) rm g (v * (2 : Rat) ^ (127 - (s : Int))) m
        ∧ let z : Int := if g then -(m : Int) else m
          let c := max lo (min hi z)
          convert x (BitVec.ofNat 8 f) s rm ovr =
            (code c, (if c = z then 0 else flSat) ||| (if (m : Rat) = v * (2 : Rat) ^ (127 - (s : Int)) then 0 else flInx)))
      ∧ (∀ g, x = .inf g → convert x (BitVec.ofNat 8 f) s rm ovr = (code (if g then lo else hi), flSat))
      ∧ ∀ sig, x = .nan sig → convert x (BitVec.ofNat 8 f) s rm ovr = (0, flInv) := by
  intro f w lo hi hf x s rm ovr _ hrm _ code
  obtain ⟨hfmt, hr, hw, -, -⟩ := ints_table _ hf
  dsimp only at hfmt hr hw
  refine ⟨fun g v hx => ?_, fun g hx => ?_, fun sig hx => ?_⟩
  · obtain ⟨n, d, hy, hd, hv⟩ := is_scale (127 - (s : Int)) hx
    have hq : v * (2 : Rat) ^ (127 - (s : Int)) = (n : Rat) / d := by
      rw [hv, mul_div_cancel_right₀ _ (by exact_mod_cast hd)]
    obtain ⟨h1, h2⟩ := roundNat_spec (g := g) (n := n) hrm hd
    refine ⟨roundNat rm g n d, by rw [hq]; exact h1, ?_⟩
    simp only [convert, hfmt, hy, roundInt_eq, saturate_eq hf, decide_eq_true_eq, h2, hq]
    rfl
  · subst hx
    simp only [convert, hfmt, scale_inf, hr, hw]
    rfl
  · subst hx
    simp only [convert, hfmt, scale_nan]

/-- Settles O41: decoding by the tables of formats, conversion by one rounding of the exact fraction. -/
theorem numberFormats : Obligations.NumberFormats := ⟨decodes, converts_floats, converts_ints⟩

end Sys2Proof
end


section
/-! SUPPORT. Firings, slots of a token's data, and lane computations (R34, R182, R249); O43, O44, O46. -/

namespace Sys2Proof.Machine

open Sys2Proof.Claims

/-! ### Plans that fire -/

section
variable {s : State} {p e opc : Nat} {i : Instr} {plan : Page → Nat → Plan}

/-- An operation whose plan is to fire does so, or lacks the room. -/
theorem fires_of_plan (hi : (i, opc, plan) ∈ Claims.Firings p e) (he : e < 64) (hl : s.elemLive p e opc = true) {f : Fire}
    (hf : plan (s.page p) e = .fire f) {φ : Fire → Prop} (hφ : φ f) : Claims.Fires i s p e φ := by
  obtain ⟨hfire, hroom, -⟩ := (elementFirings s p e opc i plan hi he).1 hl
  exact ⟨f, hφ, hfire f hf, hroom f hf⟩

theorem exec_of_fail (hi : (i, opc, plan) ∈ Claims.Firings p e) (he : e < 64) (hl : s.elemLive p e opc = true) {c : Nat}
    (hf : plan (s.page p) e = .fail c) :
    exec i s = .next ((s.setElem p e { s.elem p e with faulted := true }).failPage p c e) := by
  obtain ⟨-, -, -, -, -, hfail⟩ := (elementFirings s p e opc i plan hi he).1 hl
  exact hfail c hf

end

/-! ### Flags and masks -/

theorem getLsbD_orFlags (l : List (BitVec 8)) (b : Nat) : (orFlags l).getLsbD b = true ↔ ∃ x ∈ l, x.getLsbD b = true := by
  have h (l : List (BitVec 8)) (a : BitVec 8) :
      (l.foldl (· ||| ·) a).getLsbD b = true ↔ a.getLsbD b = true ∨ ∃ x ∈ l, x.getLsbD b = true := by
    induction l generalizing a with
    | nil => simp
    | cons y t ih => simp [ih, or_assoc]
  simp [orFlags, h]

/-- The mask of the places of a list where a test holds. -/
def maskWhere {α : Type} (g : α → Bool) (l : List α) : BitVec 16 :=
  (l.zipIdx).foldl (fun (m : BitVec 16) z => if g z.1 then setBitTo m z.2 true else m) 0

theorem getLsbD_maskWhere {α : Type} (g : α → Bool) {l : List α} (hl : l.length ≤ 16) (i : Nat) :
    (maskWhere g l).getLsbD i = true ↔ ∃ a, l[i]? = some a ∧ g a = true := by
  have h (l : List α) (k : Nat) (hk : k + l.length ≤ 16) (m : BitVec 16) :
      (((l.zipIdx k).foldl (fun (m : BitVec 16) z => if g z.1 then setBitTo m z.2 true else m) m).getLsbD i = true
        ↔ m.getLsbD i = true ∨ ∃ j a, k + j = i ∧ l[j]? = some a ∧ g a = true) := by
    induction l generalizing k m with
    | nil => simp
    | cons y t ih =>
      rw [List.length_cons] at hk
      rw [List.zipIdx_cons, List.foldl_cons, ih (k + 1) (by omega)]
      have hset : (if g y then setBitTo m k true else m).getLsbD i = true ↔ m.getLsbD i = true ∨ (k = i ∧ g y = true) := by
        by_cases hg : g y = true
        · rw [if_pos hg, getLsbD_setBitTo _ _ _ _ (by omega)]
          by_cases hik : i = k
          · simp [hik, hg]
          · simp [hik, Ne.symm hik]
        · simp [hg]
      dsimp only
      rw [hset, or_assoc]
      refine or_congr_right ⟨?_, ?_⟩
      · rintro (⟨h1, h2⟩ | ⟨j, a, h1, h2, h3⟩)
        · exact ⟨0, y, h1, rfl, h2⟩
        · exact ⟨j + 1, a, by omega, h2, h3⟩
      · rintro ⟨j, a, h1, h2, h3⟩
        cases j with
        | zero =>
          obtain rfl : y = a := Option.some.inj h2
          exact .inl ⟨h1, h3⟩
        | succ j => exact .inr ⟨j, a, by omega, h2, h3⟩
  rw [maskWhere, h l 0 (by omega)]
  simp

theorem ne_zero_iff_bit {n : Nat} (m : BitVec n) : m ≠ 0 ↔ ∃ i, i < n ∧ m.getLsbD i = true := by
  refine ⟨fun h => ?_, fun ⟨i, hi, hb⟩ h => by simp [h] at hb⟩
  by_contra hn
  refine h (BitVec.eq_of_getLsbD_eq fun i hi => ?_)
  rw [Bool.eq_false_iff.2 fun hb => hn ⟨i, hi, hb⟩]
  simp

/-! ### The slots of a token's data -/

/-- The number of a list of digits of `w` bits. -/
def slotsNat (w : Nat) : List Nat → Nat
  | [] => 0
  | a :: t => a % 2 ^ w + 2 ^ w * slotsNat w t

theorem slotsNat_digit (w s : Nat) (l : List Nat) : slotsNat w l / 2 ^ (w * s) % 2 ^ w = (l[s]?).getD 0 % 2 ^ w := by
  have hp : 0 < 2 ^ w := Nat.two_pow_pos w
  induction l generalizing s with
  | nil => simp [slotsNat]
  | cons a t ih =>
    cases s with
    | zero => simp [slotsNat]
    | succ s =>
      rw [slotsNat, Nat.mul_succ, Nat.add_comm (w * s), Nat.pow_add, ← Nat.div_div_eq_div_mul, Nat.add_mul_div_left _ _ hp,
        Nat.div_eq_of_lt (Nat.mod_lt _ hp), Nat.zero_add, ih, List.getElem?_cons_succ]

theorem ofSlots_eq (w : Nat) (l : List Nat) : ofSlots w l = BitVec.ofNat 512 (slotsNat w l) := by
  have h (l : List Nat) (k a : Nat) :
      (l.zipIdx k).foldl (fun a z => a + z.1 % 2 ^ w * 2 ^ (w * z.2)) a = a + 2 ^ (w * k) * slotsNat w l := by
    induction l generalizing k a with
    | nil => simp [slotsNat]
    | cons y t ih =>
      rw [List.zipIdx_cons, List.foldl_cons, ih, slotsNat, Nat.mul_succ, Nat.pow_add]
      ring
  rw [ofSlots, h]
  simp

theorem testBit_slotBits (d : Data) (w s i : Nat) : (slotBits d w s).testBit i = (decide (i < w) && d.getLsbD (w * s + i)) := by
  rw [slotBits, bits, Nat.testBit_mod_two_pow, Nat.testBit_div_two_pow, BitVec.getLsbD, Nat.add_comm]

/-- A slot of data made of slots. -/
theorem slotBits_ofSlots {w s : Nat} (l : List Nat) (hs : w * (s + 1) ≤ 512) :
    slotBits (ofSlots w l) w s = (l[s]?).getD 0 % 2 ^ w := by
  apply Nat.eq_of_testBit_eq
  intro i
  rw [testBit_slotBits, ofSlots_eq, BitVec.getLsbD_ofNat, ← slotsNat_digit, Nat.testBit_mod_two_pow, Nat.testBit_div_two_pow,
    Nat.add_comm i]
  by_cases hi : i < w
  · rw [Nat.mul_succ] at hs
    simp [hi, show w * s + i < 512 by omega]
  · simp [hi]

theorem getLsbD_lane (d : Data) (l i : Nat) : (lane d l).getLsbD i = (decide (i < 32) && d.getLsbD (32 * l + i)) := by
  rw [lane, BitVec.getLsbD_ofNat, Nat.testBit_div_two_pow, BitVec.getLsbD, Nat.add_comm]

/-- A lane whose slots are zero is zero. -/
theorem lane_eq_zero {d : Data} {p w l : Nat} (hpw : p * w = 32) (h : ∀ j, j < p → slotBits d w (l * p + j) = 0) :
    lane d l = 0 := by
  have hw : 0 < w := Nat.pos_of_ne_zero fun h0 => by simp [h0] at hpw
  refine BitVec.eq_of_getLsbD_eq fun i hi => ?_
  have hj : i / w < p := by rwa [Nat.div_lt_iff_lt_mul hw, hpw]
  have hb := testBit_slotBits d w (l * p + i / w) (i % w)
  rw [h _ hj, Nat.zero_testBit, decide_eq_true (Nat.mod_lt _ hw), Bool.true_and] at hb
  have hidx : w * (l * p + i / w) + i % w = 32 * l + i := by
    have hi' := Nat.div_add_mod i w
    have hpl : w * (l * p) = 32 * l := by rw [← hpw]; ring
    rw [Nat.mul_add, hpl, Nat.add_assoc, hi']
  rw [getLsbD_lane, ← hidx, ← hb]
  simp

/-- The element at a place of lists of one length put end to end. -/
theorem getElem?_flatMap_uniform {α β : Type} {g : α → List β} {p : Nat} {L : List α} (hL : ∀ a ∈ L, (g a).length = p)
    {l j : Nat} (hj : j < p) : (L.flatMap g)[l * p + j]? = (L[l]?).bind fun a => (g a)[j]? := by
  induction L generalizing l with
  | nil => simp
  | cons a t ih =>
    have ha := hL a (List.mem_cons_self ..)
    rw [List.flatMap_cons]
    cases l with
    | zero =>
      rw [List.getElem?_append_left (by omega)]
      simp
    | succ l =>
      have hge : (g a).length ≤ (l + 1) * p + j := by rw [ha, Nat.succ_mul]; omega
      rw [List.getElem?_append_right hge, ha, show (l + 1) * p + j - p = l * p + j by rw [Nat.succ_mul]; omega,
        ih fun b hb => hL b (List.mem_cons_of_mem _ hb), List.getElem?_cons_succ]

theorem Elem.pack_cases (x : Elem) : x.pack = 1 ∨ x.pack = 2 ∨ x.pack = 4 := by
  have h : bits (x.fld 1) 6 2 < 4 := Nat.mod_lt _ (by decide)
  unfold Elem.pack
  interval_cases bits (x.fld 1) 6 2 <;> decide

theorem Elem.pack_mul_slotW (x : Elem) : x.pack * x.slotW = 32 := by
  rw [Elem.slotW]
  rcases x.pack_cases with h | h | h <;> rw [h]

/-! ### Lanes -/

/-- The code of a slot's result. -/
def slotCode (conv : Num → Nat × BitVec 8) : Option (Val × BitVec 8) → Nat
  | some (.num v, _) => (conv v).1
  | _ => 0

/-- The flags of a slot's result, its conversion's too. -/
def slotFlags (conv : Num → Nat × BitVec 8) : Option (Val × BitVec 8) → BitVec 8
  | some (.num v, g) => g ||| (conv v).2
  | some (.poison, g) => g
  | none => 0

/-- The slot's result is poisoned. -/
def slotBad : Option (Val × BitVec 8) → Bool
  | some (.poison, _) => true
  | _ => false

theorem slotBad_iff {r : Option (Val × BitVec 8)} : slotBad r = true ↔ ∃ g, r = some (.poison, g) := by
  constructor
  · intro h
    match r, h with
    | some (.poison, g), _ => exact ⟨g, rfl⟩
  · rintro ⟨g, rfl⟩
    rfl

theorem getLsbD_slotFlags {conv : Num → Nat × BitVec 8} {r : Option (Val × BitVec 8)} {b : Nat} :
    (slotFlags conv r).getLsbD b = true
      ↔ ∃ v g, r = some (v, g) ∧ (g.getLsbD b = true ∨ ∃ n, v = .num n ∧ (conv n).2.getLsbD b = true) := by
  match r with
  | none => simp [slotFlags]
  | some (.poison, g) => simp [slotFlags]
  | some (.num v, g) => simp [slotFlags]

/-- A lane's results, slot by slot. -/
theorem laneOf_eq (conv : Num → Nat × BitVec 8) (rs : List (Option (Val × BitVec 8))) :
    laneOf conv rs = if rs.all Option.isSome then
      some (rs.map (slotCode conv), rs.any slotBad, rs.foldr (fun r a => slotFlags conv r ||| a) 0) else none := by
  unfold laneOf
  induction rs with
  | nil => rfl
  | cons r t ih =>
    rw [List.foldr_cons, ih]
    by_cases ht : t.all Option.isSome = true
    · rw [if_pos ht]
      match r with
      | none => rfl
      | some (.poison, g) => simp [ht, slotCode, slotBad, slotFlags]
      | some (.num v, g) => simp [ht, slotCode, slotBad, slotFlags]
    · rw [if_neg ht, if_neg (by simp [ht])]
      match r with
      | none => rfl
      | some (.poison, g) => rfl
      | some (.num v, g) => rfl

theorem getLsbD_foldr_slotFlags (conv : Num → Nat × BitVec 8) (rs : List (Option (Val × BitVec 8))) (b : Nat) :
    (rs.foldr (fun r a => slotFlags conv r ||| a) 0).getLsbD b = true ↔ ∃ r ∈ rs, (slotFlags conv r).getLsbD b = true := by
  induction rs with
  | nil => simp
  | cons r t ih => rw [List.foldr_cons, BitVec.getLsbD_or, Bool.or_eq_true, ih, List.exists_mem_cons_iff]

/-- A lane's codes, zeros without results. -/
def laneCodes (p : Nat) : Option (List Nat × Bool × BitVec 8) → List Nat
  | some (cs, _, _) => cs
  | none => List.replicate p 0

/-- A lane is poisoned. -/
def laneBad : Option (List Nat × Bool × BitVec 8) → Bool
  | some (_, b, _) => b
  | none => false

/-- A lane's flags. -/
def laneFlags : Option (List Nat × Bool × BitVec 8) → BitVec 8
  | some (_, _, fs) => fs
  | none => 0

/-- The results of the 16 lanes. -/
def laneResults (x : Elem) (f : Nat → Option (Val × BitVec 8)) (conv : Num → Nat × BitVec 8) :
    List (Option (List Nat × Bool × BitVec 8)) :=
  (List.range 16).map fun l => laneOf conv ((List.range x.pack).map fun j => f (l * x.pack + j))

theorem laneToken_eq (x : Elem) (d : Desc) (f : Nat → Option (Val × BitVec 8)) (conv : Num → Nat × BitVec 8) :
    let r := laneResults x f conv
    x.laneToken d f conv = (⟨ofSlots x.slotW (r.flatMap (laneCodes x.pack)), maskWhere Option.isSome r, x.rankIn, some d, x.burst,
      maskWhere laneBad r, decide (maskWhere laneBad r ≠ 0), []⟩, orFlags (r.map laneFlags)) := by
  intro r
  have hb : ∀ z : Option (List Nat × Bool × BitVec 8), (match z with
      | some (_, b, _) => b
      | none => false) = laneBad z := fun z => by cases z <;> rfl
  have hc : ∀ z : Option (List Nat × Bool × BitVec 8), (match z with
      | some (cs, _, _) => cs
      | none => List.replicate x.pack 0) = laneCodes x.pack z := fun z => by cases z <;> rfl
  have hf : ∀ z : Option (List Nat × Bool × BitVec 8), (match z with
      | some (_, _, fs) => fs
      | none => 0) = laneFlags z := fun z => by cases z <;> rfl
  simp only [← funext hb, ← funext hc, ← funext hf]
  rfl

section
variable {x : Elem} {f : Nat → Option (Val × BitVec 8)} {conv : Num → Nat × BitVec 8}

/-- Every slot of a lane has a result. -/
def LaneOk (x : Elem) (f : Nat → Option (Val × BitVec 8)) (l : Nat) : Prop := ∀ j, j < x.pack → f (l * x.pack + j) ≠ none

/-- A slot of a lane is poisoned. -/
def LanePoisoned (x : Elem) (f : Nat → Option (Val × BitVec 8)) (l : Nat) : Prop :=
  ∃ j g, j < x.pack ∧ f (l * x.pack + j) = some (.poison, g)

theorem laneResults_ok {l : Nat} (hl : l < 16) (h : LaneOk x f l) : (laneResults x f conv)[l]? =
    some (some ((List.range x.pack).map fun j => slotCode conv (f (l * x.pack + j)),
      ((List.range x.pack).map fun j => f (l * x.pack + j)).any slotBad,
      ((List.range x.pack).map fun j => f (l * x.pack + j)).foldr (fun r a => slotFlags conv r ||| a) 0)) := by
  have hall : ((List.range x.pack).map fun j => f (l * x.pack + j)).all Option.isSome = true := by
    simpa [Option.isSome_iff_ne_none, LaneOk] using h
  rw [laneResults, List.getElem?_map, List.getElem?_range hl, Option.map_some, laneOf_eq, if_pos hall, List.map_map]
  rfl

theorem laneResults_not_ok {l : Nat} (hl : l < 16) (h : ¬ LaneOk x f l) : (laneResults x f conv)[l]? = some none := by
  have hall : ¬ ((List.range x.pack).map fun j => f (l * x.pack + j)).all Option.isSome = true := by
    simpa [Option.isSome_iff_ne_none, LaneOk] using h
  rw [laneResults, List.getElem?_map, List.getElem?_range hl, Option.map_some, laneOf_eq, if_neg hall]

theorem length_laneResults : (laneResults x f conv).length = 16 := by simp [laneResults]

theorem length_laneCodes : ∀ a ∈ laneResults x f conv, (laneCodes x.pack a).length = x.pack := by
  intro a ha
  obtain ⟨l, hl⟩ := List.getElem?_of_mem ha
  have hlt : l < 16 := by
    obtain ⟨h, -⟩ := List.getElem?_eq_some_iff.1 hl
    rwa [length_laneResults] at h
  by_cases h : LaneOk x f l
  · rw [laneResults_ok hlt h] at hl
    obtain rfl := Option.some.inj hl
    simp [laneCodes]
  · rw [laneResults_not_ok hlt h] at hl
    obtain rfl := Option.some.inj hl
    simp [laneCodes]

theorem any_slotBad_iff {l : Nat} :
    ((List.range x.pack).map fun j => f (l * x.pack + j)).any slotBad = true ↔ LanePoisoned x f l := by
  simp only [List.any_eq_true, List.mem_map, List.mem_range, slotBad_iff, LanePoisoned]
  constructor
  · rintro ⟨r, ⟨j, hj, hr⟩, g, rfl⟩
    exact ⟨j, g, hj, hr⟩
  · rintro ⟨j, g, hj, hr⟩
    exact ⟨_, ⟨j, hj, hr⟩, g, rfl⟩

theorem slot_laneCodes {l j : Nat} (hl : l < 16) (hj : j < x.pack) :
    slotBits (ofSlots x.slotW ((laneResults x f conv).flatMap (laneCodes x.pack))) x.slotW (l * x.pack + j)
      = ((((laneResults x f conv)[l]?).bind fun a => (laneCodes x.pack a)[j]?).getD 0) % 2 ^ x.slotW := by
  have hpw := x.pack_mul_slotW
  rw [slotBits_ofSlots, getElem?_flatMap_uniform length_laneCodes hj]
  calc x.slotW * (l * x.pack + j + 1) ≤ x.slotW * ((l + 1) * x.pack) := by
        gcongr
        rw [Nat.succ_mul]
        omega
    _ = (l + 1) * 32 := by rw [← hpw]; ring
    _ ≤ 512 := by omega

end

/-- What a computing operation's token holds, slot by slot (R34, R182). -/
theorem laneOut_laneToken (x : Elem) (d : Desc) (f : Nat → Option (Val × BitVec 8)) (conv : Num → Nat × BitVec 8) :
    Claims.LaneOut x d x.rankIn f conv (x.laneToken d f conv).1 (x.laneToken d f conv).2 := by
  have hlen : (laneResults x f conv).length ≤ 16 := length_laneResults.le
  have hvalid {l : Nat} (hl : l < 16) : (maskWhere Option.isSome (laneResults x f conv)).getLsbD l = true ↔ LaneOk x f l := by
    rw [getLsbD_maskWhere _ hlen]
    by_cases h : LaneOk x f l
    · simp [laneResults_ok hl h, h]
    · simp [laneResults_not_ok hl h, h]
  have hbad {l : Nat} (hl : l < 16) :
      (maskWhere laneBad (laneResults x f conv)).getLsbD l = true ↔ LaneOk x f l ∧ LanePoisoned x f l := by
    rw [getLsbD_maskWhere _ hlen]
    by_cases h : LaneOk x f l
    · rw [laneResults_ok hl h, ← any_slotBad_iff]
      simp [laneBad, h]
    · simp [laneResults_not_ok hl h, h, laneBad]
  rw [laneToken_eq]
  refine ⟨rfl, rfl, rfl, rfl, fun l hl => ⟨hvalid hl, hbad hl, fun h => ?_⟩, ?_, fun l j v g hl hj hok hnb hv => ?_, fun b _ => ?_⟩
  · refine lane_eq_zero x.pack_mul_slotW fun j hj => ?_
    rw [slot_laneCodes hl hj, laneResults_not_ok hl h]
    simp [laneCodes, hj]
  · rw [decide_eq_true_iff, ne_zero_iff_bit]
    exact exists_congr fun l => and_congr_right fun hl => hbad hl
  · have hs := slot_laneCodes (f := f) (conv := conv) hl hj
    rw [laneResults_ok hl hok] at hs
    refine hs.trans ?_
    simp only [Option.bind_some, laneCodes, List.getElem?_map, List.getElem?_range hj, Option.map_some, Option.getD_some]
    have hv' : f (l * x.pack + j) = some (.num v, g) := hv
    rw [hv']
    rfl
  · rw [getLsbD_orFlags]
    constructor
    · rintro ⟨fs, hfs, hb⟩
      obtain ⟨r, hr, rfl⟩ := List.mem_map.1 hfs
      obtain ⟨l, hl⟩ := List.getElem?_of_mem hr
      have hlt : l < 16 := by
        obtain ⟨h, -⟩ := List.getElem?_eq_some_iff.1 hl
        rwa [length_laneResults] at h
      by_cases h : LaneOk x f l
      · rw [laneResults_ok hlt h] at hl
        obtain rfl := Option.some.inj hl
        obtain ⟨r, hr, hb⟩ := (getLsbD_foldr_slotFlags _ _ _).1 hb
        obtain ⟨j, hj, rfl⟩ := List.mem_map.1 hr
        obtain ⟨v, g, hv, hg⟩ := getLsbD_slotFlags.1 hb
        exact ⟨l, j, v, g, hlt, List.mem_range.1 hj, h, hv, hg⟩
      · rw [laneResults_not_ok hlt h] at hl
        obtain rfl := Option.some.inj hl
        simp [laneFlags] at hb
    · rintro ⟨l, j, v, g, hl, hj, hok, hv, hg⟩
      refine ⟨_, List.mem_map.2 ⟨_, List.mem_of_getElem? (laneResults_ok (conv := conv) hl hok), rfl⟩, ?_⟩
      exact (getLsbD_foldr_slotFlags _ _ _).2 ⟨_, List.mem_map.2 ⟨j, List.mem_range.2 hj, rfl⟩,
        getLsbD_slotFlags.2 ⟨v, g, hv, hg⟩⟩

end Sys2Proof.Machine
end


section
/-! SUPPORT. Exact arithmetic on rationals (R46, R184); O43, O44, O46. -/

namespace Sys2Proof

open Machine

theorem sg_not (g : Bool) (v : Rat) : Claims.sg (!g) v = -Claims.sg g v := by cases g <;> simp [Claims.sg]

theorem sg_mul (g h : Bool) (a b : Rat) : Claims.sg (g != h) (a * b) = Claims.sg g a * Claims.sg h b := by
  cases g <;> cases h <;> simp [Claims.sg]

theorem real_of_is {x : Num} {g : Bool} {v : Rat} (h : Claims.Is x g v) : Claims.Real x (Claims.sg g v) := ⟨g, v, h, rfl⟩

theorem real_congr {x : Num} {v w : Rat} (h : Claims.Real x v) (hv : v = w) : Claims.Real x w := hv ▸ h

/-- A finite number, by its parts. -/
theorem real_iff {x : Num} {v : Rat} :
    Claims.Real x v ↔ ∃ g n d, x = .fin g n d ∧ d ≠ 0 ∧ v = Claims.sg g ((n : Rat) / d) := by
  constructor
  · rintro ⟨g, m, ⟨n, d, rfl, hd, hm⟩, rfl⟩
    exact ⟨g, n, d, rfl, hd, by rw [hm, mul_div_cancel_right₀ _ (by exact_mod_cast hd)]⟩
  · rintro ⟨g, n, d, rfl, hd, rfl⟩
    exact ⟨g, _, is_fraction hd, rfl⟩

theorem real_isNan {x : Num} {v : Rat} (h : Claims.Real x v) : x.isNan = false := by
  obtain ⟨g, n, d, rfl, -, -⟩ := real_iff.1 h
  rfl

theorem real_ofInt (z : Int) : Claims.Real (Num.ofInt z) (z : Rat) := by
  refine real_congr (real_of_is (is_ofInt z)) ?_
  by_cases hz : z < 0
  · simp only [hz, decide_true, Claims.sg, if_true]
    rw [show (z.natAbs : Rat) = ((z.natAbs : Int) : Rat) by simp, Int.ofNat_natAbs_of_nonpos hz.le]
    simp
  · simp only [hz, decide_false, Claims.sg, Bool.false_eq_true, if_false]
    rw [show (z.natAbs : Rat) = ((z.natAbs : Int) : Rat) by simp, Int.natAbs_of_nonneg (not_lt.1 hz)]

theorem is_neg {x : Num} {g : Bool} {v : Rat} (h : Claims.Is x g v) : Claims.Is x.neg (!g) v := by
  obtain ⟨n, d, rfl, hd, hv⟩ := h
  exact ⟨n, d, rfl, hd, hv⟩

theorem real_neg {x : Num} {v : Rat} (h : Claims.Real x v) : Claims.Real x.neg (-v) := by
  obtain ⟨g, m, hm, rfl⟩ := h
  exact ⟨_, m, is_neg hm, sg_not g m⟩

theorem is_mul {x y : Num} {g h : Bool} {a b : Rat} (hx : Claims.Is x g a) (hy : Claims.Is y h b) :
    ∃ r, x.mul y = (r, 0) ∧ Claims.Is r (g != h) (a * b) := by
  obtain ⟨n, d, rfl, hd, hn⟩ := hx
  obtain ⟨m, e, rfl, he, hm⟩ := hy
  refine ⟨_, rfl, n * m, d * e, rfl, Nat.mul_ne_zero hd he, ?_⟩
  push_cast
  rw [hn, hm]
  ring

theorem real_mul {x y : Num} {a b : Rat} (hx : Claims.Real x a) (hy : Claims.Real y b) :
    ∃ r, x.mul y = (r, 0) ∧ Claims.Real r (a * b) := by
  obtain ⟨g, m, hm, rfl⟩ := hx
  obtain ⟨h, k, hk, rfl⟩ := hy
  obtain ⟨r, hr, hrk⟩ := is_mul hm hk
  exact ⟨r, hr, _, _, hrk, sg_mul g h m k⟩

theorem is_div {x y : Num} {g h : Bool} {a b : Rat} (hx : Claims.Is x g a) (hy : Claims.Is y h b) (hb : b ≠ 0) :
    ∃ r, x.div y = (r, 0) ∧ Claims.Is r (g != h) (a / b) := by
  obtain ⟨n, d, rfl, hd, hn⟩ := hx
  obtain ⟨m, e, rfl, he, hm⟩ := hy
  have heq : (e : Rat) ≠ 0 := by exact_mod_cast he
  have hm0 : m ≠ 0 := by
    rintro rfl
    rw [Nat.cast_zero] at hm
    exact (mul_ne_zero hb heq) hm.symm
  refine ⟨_, rfl, n * e, d * m, rfl, Nat.mul_ne_zero hd hm0, ?_⟩
  push_cast
  rw [hn, hm]
  field_simp

/-- A sum of finite numbers is exact. -/
theorem real_add {x y : Num} {a b : Rat} (rm : Nat) (hx : Claims.Real x a) (hy : Claims.Real y b) :
    ∃ r, x.add rm y = (r, 0) ∧ Claims.Real r (a + b) := by
  obtain ⟨g, n, d, rfl, hd, rfl⟩ := real_iff.1 hx
  obtain ⟨h, m, e, rfl, he, rfl⟩ := real_iff.1 hy
  have hdq : (d : Rat) ≠ 0 := by exact_mod_cast hd
  have heq : (e : Rat) ≠ 0 := by exact_mod_cast he
  have hsum : (n : Rat) / d + m / e = ((n * e + m * d : Nat) : Rat) / ((d * e : Nat) : Rat) := by
    push_cast
    field_simp
  have hsub {i j : Nat} (hij : j ≤ i) : ((i - j : Nat) : Rat) / ((d * e : Nat) : Rat) = (i : Rat) / (d * e) - j / (d * e) := by
    push_cast [hij]
    rw [sub_div]
  have hne : (n : Rat) / d = ((n * e : Nat) : Rat) / (d * e) := by push_cast; field_simp
  have hme : (m : Rat) / e = ((m * d : Nat) : Rat) / (d * e) := by push_cast; field_simp
  have hde : d * e ≠ 0 := Nat.mul_ne_zero hd he
  by_cases hgh : g = h
  · subst hgh
    have hadd : (Num.fin g n d).add rm (Num.fin g m e) = (.fin g (n * e + m * d) (d * e), 0) := by simp only [Num.add, if_true]
    refine ⟨_, hadd, real_congr (real_of_is (is_fraction hde)) ?_⟩
    rw [← hsum]
    cases g
    · rfl
    · simp only [Claims.sg, if_true]
      ring
  · have hsg (v : Rat) : Claims.sg h v = -Claims.sg g v := by
      rw [← sg_not]
      congr 1
      cases g <;> cases h <;> simp_all
    simp only [Num.add, if_neg hgh]
    by_cases h1 : n * e = m * d
    · rw [if_pos h1]
      refine ⟨_, rfl, real_congr (real_of_is (is_fraction one_ne_zero)) ?_⟩
      rw [hsg, hne, hme, h1]
      simp [Claims.sg]
    · rw [if_neg h1]
      by_cases h2 : m * d < n * e
      · rw [if_pos h2]
        refine ⟨_, rfl, real_congr (real_of_is (is_fraction hde)) ?_⟩
        rw [hsub h2.le, hsg, ← hne, ← hme]
        cases g <;> simp only [Claims.sg, Bool.false_eq_true, if_true, if_false] <;> ring
      · rw [if_neg h2]
        refine ⟨_, rfl, real_congr (real_of_is (is_fraction hde)) ?_⟩
        rw [hsub (not_lt.1 h2), hsg, hsg, ← hne, ← hme]
        cases g <;> simp only [Claims.sg, Bool.false_eq_true, if_true, if_false] <;> ring

theorem real_zero : Claims.Real .zero 0 := real_congr (real_of_is (is_fraction one_ne_zero)) (by simp [Claims.sg])

/-- A sum of finite terms is exact (R51). -/
theorem real_foldNums {l : List (Num × BitVec 8)} {v : Num × BitVec 8 → Rat} (h : ∀ t ∈ l, Claims.Real t.1 (v t) ∧ t.2 = 0) :
    ∃ r, foldNums l = (r, 0) ∧ Claims.Real r (l.map v).sum := by
  induction l with
  | nil => exact ⟨_, rfl, real_zero⟩
  | cons t l ih =>
    obtain ⟨r, hr, hrv⟩ := ih fun u hu => h u (List.mem_cons_of_mem _ hu)
    obtain ⟨ht, h0⟩ := h t (List.mem_cons_self ..)
    obtain ⟨q, hq, hqv⟩ := real_add 0 ht hrv
    refine ⟨q, ?_, by rw [List.map_cons, List.sum_cons]; exact hqv⟩
    simp only [foldNums, hr, hq, h0]
    rfl

theorem real_sumNums {l : List (Num × BitVec 8)} {v : Num × BitVec 8 → Rat} (h : ∀ t ∈ l, Claims.Real t.1 (v t) ∧ t.2 = 0) :
    ∃ r, sumNums l = (r, 0) ∧ Claims.Real r (l.map v).sum := by
  obtain ⟨r, hr, hrv⟩ := real_foldNums h
  have hinf (g : Bool) : (l.any fun t => decide (t.1 = .inf g)) = false := by
    rw [List.any_eq_false]
    intro t ht he
    obtain ⟨_, n, d, hf, -, -⟩ := real_iff.1 (h t ht).1
    rw [decide_eq_true_iff, hf] at he
    exact Num.noConfusion he
  refine ⟨r, ?_, hrv⟩
  simp only [sumNums, hr, hinf, Bool.false_and, Bool.false_eq_true, if_false]
  rfl

end Sys2Proof
end


section
/-! SUPPORT. Emitted tokens, operands and slots (R33 to R35, R182, R183); O43. -/

namespace Sys2Proof.Machine

open Sys2Proof.Claims

/-! ### Emission -/

theorem mkDesc_eta (d : Desc) : mkDesc (scaleOf d) (fmtOf d) = d := by
  refine BitVec.eq_of_getLsbD_eq fun i hi => ?_
  rw [mkDesc, BitVec.getLsbD_append, fmtOf, scaleOf, BitVec.getLsbD_extractLsb', BitVec.getLsbD_extractLsb']
  by_cases h : i < 8
  · simp [h]
  · have h8 : i - 8 < 8 := by omega
    simp [h, h8, show 8 + (i - 8) = i by omega]

theorem mkDesc_eq_iff {s f : BitVec 8} {d : Desc} : mkDesc s f = d ↔ f = fmtOf d ∧ s = scaleOf d := by
  constructor
  · rintro rfl
    simp
  · rintro ⟨rfl, rfl⟩
    exact mkDesc_eta d

theorem renderAll_one (home : Burst) (ann : Option Burst) (o : OutTok) : renderAll home ann [o] = render home ann o := by
  simp [renderAll]

/-- The burst announced when a token's own tokens go. -/
def saidBefore (ann : Option Burst) (o : OutTok) : Option Burst :=
  match o.before.getLast? with
  | some t => some (burstOf t)
  | none => ann

/-- A computed token, by what is announced when it goes. -/
theorem render_computed (home : Burst) {ann : Option Burst} {o : OutTok} {d : Desc} (h : o.pois = false) (hd : o.desc = some d) :
    render home ann o = if ∃ b, saidBefore ann o = some b ∧ b.bad = false ∧ b.fmt = fmtOf d ∧ b.scale = scaleOf d then
        (o.before ++ [dataToken o.data o.valid o.rank], saidBefore ann o)
      else (o.before ++ [scaleToken (fmtOf d) (scaleOf d) o.blen, dataToken o.data o.valid o.rank],
        opened (fmtOf d) (scaleOf d) o.blen) := by
  have hr : render home ann o = match saidBefore ann o with
      | some b => if !b.bad && mkDesc b.scale b.fmt == d then
          (o.before ++ [dataToken o.data o.valid o.rank], saidBefore ann o)
        else (o.before ++ [scaleToken (fmtOf d) (scaleOf d) o.blen, dataToken o.data o.valid o.rank],
          opened (fmtOf d) (scaleOf d) o.blen)
      | none => (o.before ++ [scaleToken (fmtOf d) (scaleOf d) o.blen, dataToken o.data o.valid o.rank],
          opened (fmtOf d) (scaleOf d) o.blen) := by
    simp only [render, h, Bool.false_eq_true, if_false, hd]
    rfl
  rw [hr]
  cases saidBefore ann o with
  | none => simp
  | some b => simp [mkDesc_eq_iff]

/-- A token of moved bits, by what is announced when it goes. -/
theorem render_moved (home : Burst) {ann : Option Burst} {o : OutTok} (h : o.pois = false) (hd : o.desc = none) :
    render home ann o = if ∃ b, saidBefore ann o = some b ∧ b.fmt = 0x0E#8
            ∧ ((b.bad = true ∧ b.blen = 0) ∨ (home.bad = false ∧ readsPoison home.fmt home.scale = false)) then
        (o.before ++ [scaleToken home.fmt home.scale home.blen, dataToken o.data o.valid o.rank],
          opened home.fmt home.scale home.blen)
      else (o.before ++ [dataToken o.data o.valid o.rank], saidBefore ann o) := by
  have hr : render home ann o = match saidBefore ann o with
      | some b =>
        if decide (b.fmt = 0x0E#8) && ((b.bad && decide (b.blen = 0)) || !(home.bad || readsPoison home.fmt home.scale)) then
          (o.before ++ [scaleToken home.fmt home.scale home.blen, dataToken o.data o.valid o.rank],
            opened home.fmt home.scale home.blen)
        else (o.before ++ [dataToken o.data o.valid o.rank], saidBefore ann o)
      | none => (o.before ++ [dataToken o.data o.valid o.rank], saidBefore ann o) := by
    simp only [render, h, Bool.false_eq_true, if_false, hd]
    rfl
  rw [hr]
  cases saidBefore ann o with
  | none => simp
  | some b => simp

end Sys2Proof.Machine

namespace Sys2Proof

open Sys2Proof.Machine Sys2Proof.Claims

theorem rendering : Claims.Rendering := by
  intro home ann o l tok said r again
  have hr : r = render home ann o := renderAll_one home ann o
  have hs : saidBefore ann o = said := rfl
  clear_value said
  refine ⟨rfl, rfl, rfl, rfl, rfl, rfl, by rw [hr]; rfl, fun h => hr.trans (if_pos h), fun d h hd => ⟨fun hb => ?_, fun hb => ?_⟩,
    fun h hd => ⟨fun hb => ?_, fun hb => ?_⟩⟩
  · rw [hr, render_computed home h hd, hs, if_pos hb]
  · rw [hr, render_computed home h hd, hs, if_neg]
    · rfl
    · rintro ⟨b, hb', h1, h2, h3⟩
      rcases hb b hb' with h | h | h
      · simp [h1] at h
      · exact h h2
      · exact h h3
  · rw [hr, render_moved home h hd, hs, if_pos hb]
    rfl
  · rw [hr, render_moved home h hd, hs, if_neg]
    rintro ⟨b, hb', h1⟩
    exact hb b hb' h1

/-! ### Operands -/

theorem operands : Claims.Operands := by
  intro A f1 f2 f3 v0 v1 v2 g0 g1 g2
  refine ⟨fun h => by simp [op1, h], ?_, ?_, fun h0 => ⟨?_, ?_, fun h1 => ⟨?_, ?_, fun h2 => ⟨?_, ?_⟩⟩⟩⟩
  · rintro (h | h)
    · simp [op2, h]
    · cases h0 : A 0 <;> simp [op2, h, h0]
  · rintro (h | h | h)
    · simp [op3, h]
    · cases h0 : A 0 <;> simp [op3, h, h0]
    · cases h0 : A 0 <;> cases h1 : A 1 <;> simp [op3, h, h0, h1]
  · rintro rfl
    simp [op1, h0]
  · rintro a rfl
    simp [op1, h0]
  · rintro (rfl | rfl)
    · simp [op2, h0, h1, Val.map2]
    · cases v0 <;> simp [op2, h0, h1, Val.map2]
  · rintro a b rfl rfl
    simp [op2, h0, h1, Val.map2]
  · rintro (rfl | rfl | rfl)
    · simp [op3, h0, h1, h2]
    · cases v0 <;> simp [op3, h0, h1, h2]
    · cases v0 <;> cases v1 <;> simp [op3, h0, h1, h2]
  · rintro a b c rfl rfl rfl
    simp [op3, h0, h1, h2]

/-! ### Slots -/

theorem isConst_iff (x : Elem) (i : Nat) : x.isConst i = true ↔ Claims.Const x i := by
  simp [Elem.isConst, Claims.Const]

/-- What an input's burst reads as: POISON, or its own format and scale. -/
theorem inDesc_eq (x : Elem) (j w : Nat) {t : Token} (ht : t.lost = false) :
    x.inDesc j w t = if (x.inBurst j).bad = true ∨ readsPoison (x.inBurst j).fmt (x.inBurst j).scale = true
        ∨ ((x.inBurst j).fmt ≠ 0#8 ∧ (inClass x.icls (x.inBurst j).fmt = false ∨ w < fmtBits (x.inBurst j).fmt)) then descPoison
      else mkDesc (x.inBurst j).scale (x.inBurst j).fmt := by
  generalize hb : x.inBurst j = b
  have hv : readsPoison 0#8 b.scale = false := by
    rw [readsPoison, show (decide (0#8 = 0x0E#8) || !fmtListed 0#8) = false by decide, show fmtInt 0#8 = false by decide]
    rfl
  simp only [Elem.inDesc, hb, ht, Bool.false_or]
  by_cases h1 : b.bad = true
  · simp [h1]
  · by_cases h2 : b.fmt = 0#8
    · simp [h1, h2, hv]
    · simp [h1, h2, or_assoc]

theorem decodeVal_poison (stored : Bool) (raw : Nat) :
    decodeVal (fmtOf descPoison) (scaleOf descPoison) stored raw = (.poison, flPois) := by
  rw [decodeVal, if_neg (by decide), if_pos (by decide)]

theorem rankIn_spec (x : Elem) :
    (∀ i, i < 3 → x.insMask.testBit i = true → (x.tok i).rank.toNat ≤ x.rankIn.toNat)
      ∧ (x.rankIn = 0 ∨ ∃ i, i < 3 ∧ x.insMask.testBit i = true ∧ (x.tok i).rank = x.rankIn) := by
  have hmax (l : List Nat) (a : Nat) : (∀ v ∈ l, v ≤ l.foldl Nat.max a) ∧ a ≤ l.foldl Nat.max a
      ∧ (l.foldl Nat.max a = a ∨ l.foldl Nat.max a ∈ l) := by
    induction l generalizing a with
    | nil => simp
    | cons v l ih =>
      obtain ⟨h1, h2, h3⟩ := ih (Nat.max a v)
      rw [List.foldl_cons]
      have hle : a ≤ Nat.max a v ∧ v ≤ Nat.max a v := ⟨Nat.le_max_left .., Nat.le_max_right ..⟩
      refine ⟨fun w hw => ?_, hle.1.trans h2, ?_⟩
      · rcases List.mem_cons.1 hw with rfl | hw
        · exact hle.2.trans h2
        · exact h1 w hw
      · rcases h3 with h | h
        · rcases Nat.le_total a v with hav | hav
          · exact .inr (by rw [h, show Nat.max a v = v from Nat.max_eq_right hav]; exact List.mem_cons_self ..)
          · exact .inl (by rw [h]; exact Nat.max_eq_left hav)
        · exact .inr (List.mem_cons_of_mem _ h)
  obtain ⟨h1, -, h3⟩ := hmax (x.used.map fun i => (x.tok i).rank.toNat) 0
  have hused (i : Nat) : i ∈ x.used ↔ i < 3 ∧ x.insMask.testBit i = true := by
    rw [Elem.used, List.mem_filter]
    refine and_congr_left fun _ => ?_
    simp only [List.mem_cons, List.not_mem_nil, or_false]
    omega
  generalize hm : (x.used.map fun i => (x.tok i).rank.toNat).foldl Nat.max 0 = m at h1 h3
  have hr : x.rankIn = BitVec.ofNat 3 m := by rw [Elem.rankIn, hm]
  have hlt : m < 8 := by
    rcases h3 with h | h
    · omega
    · obtain ⟨i, -, rfl⟩ := List.mem_map.1 h
      exact (x.tok i).rank.isLt
  have hn : x.rankIn.toNat = m := by rw [hr, BitVec.toNat_ofNat, Nat.mod_eq_of_lt hlt]
  refine ⟨fun i hi hu => ?_, ?_⟩
  · rw [hn]
    exact h1 _ (List.mem_map.2 ⟨i, (hused i).2 ⟨hi, hu⟩, rfl⟩)
  · rcases h3 with h | h
    · exact .inl (by rw [hr, h]; rfl)
    · obtain ⟨i, hi, rfl⟩ := List.mem_map.1 h
      obtain ⟨h3, hu⟩ := (hused i).1 hi
      exact .inr ⟨i, h3, hu, by rw [hr, BitVec.ofNat_toNat, BitVec.setWidth_eq]⟩

theorem slotReads : Claims.SlotReads := by
  refine ⟨?_, fun x => ⟨?_, (rankIn_spec x).1, (rankIn_spec x).2⟩⟩
  · intro x stored sl i j hi hj b raw poisoned
    have hconst : j = i ↔ x.isConst i = false := by
      rcases hj with ⟨hc, rfl⟩ | ⟨hc, rfl⟩
      · rw [(isConst_iff x i).2 hc]
        rcases hc with ⟨rfl, -⟩ | ⟨rfl, -⟩ <;> simp
      · rw [← isConst_iff, Bool.not_eq_true] at hc
        simp [hc]
    have hdesc : x.argDesc i = x.inDesc j x.slotW (x.tok j) := by
      rcases hj with ⟨hc, rfl⟩ | ⟨hc, rfl⟩
      · rw [Elem.argDesc, if_pos ((isConst_iff x i).2 hc)]
      · rw [Elem.argDesc, if_neg (mt (isConst_iff x j).1 hc)]
    have hraw : x.argRaw i sl = raw := by
      dsimp only [raw]
      by_cases h : j = i
      · rw [Elem.argRaw, hconst.1 h, if_pos h]
        rfl
      · have hc : x.isConst i = true := by simpa using mt hconst.2 h
        rw [Elem.argRaw, if_pos hc, if_neg h]
        rfl
    have hvalid : x.argValid i sl = true ↔ (j = i → (x.tok i).valid.getLsbD (sl / x.pack) = true) := by
      rw [hconst, Elem.argValid, Bool.or_eq_true]
      cases x.isConst i <;> simp
    refine ⟨fun h hv => ?_, fun hv hlost => ⟨fun hp => ?_, fun hp => ?_⟩⟩
    · rw [Elem.arg, if_neg]
      rw [hvalid]
      simp [h, hv]
    · rw [Elem.arg, if_pos (hvalid.2 hv)]
      dsimp only
      rw [hdesc, (inDesc_eq x j x.slotW hlost).trans (if_pos hp), decodeVal_poison]
    · rw [Elem.arg, if_pos (hvalid.2 hv)]
      dsimp only
      rw [hdesc, (inDesc_eq x j x.slotW hlost).trans (if_neg hp), fmtOf_mkDesc, scaleOf_mkDesc, hraw]
  · simp only [Elem.intPath, fmtInt, Elem.used, Elem.intLike, Bool.and_eq_true, decide_eq_true_eq, List.all_eq_true,
      List.mem_filter, Bool.or_eq_true]
    refine and_congr_right fun _ => forall_congr' fun i => ?_
    rw [and_imp]
    refine imp_congr ?_ Iff.rfl
    simp only [List.mem_cons, List.not_mem_nil, or_false]
    omega

end Sys2Proof
end


section
/-! SUPPORT. Lane operations, fixed point and conversions (R184 to R197); O43. -/

namespace Sys2Proof.Machine

open Sys2Proof.Claims

/-! ### Lane operations -/

section
variable {s : State} {p e opc : Nat} {i : Instr}

/-- A firing that emits one computed token. -/
theorem computes_laneToken (x y : Elem) (eats : Nat) (fl : BitVec 8) (mets : List (Nat × Nat)) (stored : Bool)
    (g : Args → Option (Val × BitVec 8)) (sc rm ovr : Nat) :
    let r := x.laneToken (x.outDesc sc) (fun sl => g (x.arg stored sl)) (fun v => convert v x.tfmt sc rm ovr)
    Claims.Computes x stored g sc rm ovr r.2 { Fire.of eats y [r.1] with fl := fl, mets := mets } :=
  ⟨rfl, rfl, _, rfl, laneOut_laneToken ..⟩

theorem fires_lanePlan {sfu : Bool} {f : Elem → Args → Option (Val × BitVec 8)}
    (hi : (i, opc, lanePlan sfu f) ∈ Claims.Firings p e) (he : e < 64) (hl : s.elemLive p e opc = true)
    (hr : (s.elem p e).ready = true) :
    let x := s.elem p e
    Claims.Fires i s p e fun z => (z.eats = x.insMask % 8 ∧ z.x = x)
      ∧ Claims.Computes x x.intPath (f x) (if x.intPath then 127 else x.tscale) x.rm x.ovr z.fl z := by
  intro x
  refine fires_of_plan hi he hl ?_ ?_ (f := ?_)
  rotate_left
  · have hr' : ((s.page p).elem e).ready = true := hr
    simp only [lanePlan]
    rw [if_neg (by simp [hr'])]
  · exact ⟨⟨rfl, rfl⟩, computes_laneToken ..⟩

theorem fires_comparePlan {test : Num → Num → Bool} (hi : (i, opc, comparePlan test) ∈ Claims.Firings p e) (he : e < 64)
    (hl : s.elemLive p e opc = true) (hr : (s.elem p e).ready = true) :
    let x := s.elem p e
    Claims.Fires i s p e fun z => (z.eats = x.insMask % 8 ∧ z.x = x)
      ∧ Claims.Computes x x.intPath (op2 fun a b => (Num.ofInt (if test a b then 1 else 0),
        if a.isSnan || b.isSnan then flInv else 0)) 127 0 0 z.fl z := by
  intro x
  refine fires_of_plan hi he hl ?_ ?_ (f := ?_)
  rotate_left
  · have hr' : ((s.page p).elem e).ready = true := hr
    simp only [comparePlan]
    rw [if_neg (by simp [hr'])]
  · exact ⟨⟨rfl, rfl⟩, computes_laneToken ..⟩

end

theorem select_eq : Claims.select = selSlot := by
  funext A
  unfold Claims.select selSlot
  rcases A 0 with _ | ⟨_ | _, _⟩ <;> rfl

/-- Each row of the lane operations is one of the plans. -/
theorem laneRows_plans (x : Elem) (p e : Nat) : ∀ z ∈ Claims.laneRows x p e,
    ∃ sfu f, (z.1, z.2.1, lanePlan sfu f) ∈ Claims.Firings p e ∧ f x = z.2.2 := by
  simp only [Claims.laneRows, List.forall_mem_append, List.forall_mem_cons, List.not_mem_nil, false_imp_iff, implies_true, and_true,
    select_eq]
  refine ⟨⟨?_, ?_, ?_, ?_, ?_, ?_, ?_, ?_, ?_, ?_, ?_, ?_⟩, ?_, ?_, ?_, ?_, ?_, ?_⟩
  · exact ⟨_, _, List.mem_of_getElem? (i := 0) rfl, rfl⟩
  · exact ⟨_, _, List.mem_of_getElem? (i := 1) rfl, rfl⟩
  · exact ⟨_, _, List.mem_of_getElem? (i := 2) rfl, rfl⟩
  · exact ⟨_, _, List.mem_of_getElem? (i := 3) rfl, rfl⟩
  · exact ⟨_, _, List.mem_of_getElem? (i := 5) rfl, rfl⟩
  · exact ⟨_, _, List.mem_of_getElem? (i := 6) rfl, rfl⟩
  · exact ⟨_, _, List.mem_of_getElem? (i := 7) rfl, rfl⟩
  · exact ⟨_, _, List.mem_of_getElem? (i := 8) rfl, rfl⟩
  · exact ⟨_, _, List.mem_of_getElem? (i := 9) rfl, rfl⟩
  · exact ⟨_, _, List.mem_of_getElem? (i := 10) rfl, rfl⟩
  · exact ⟨_, _, List.mem_of_getElem? (i := 15) rfl, rfl⟩
  · exact ⟨_, _, List.mem_of_getElem? (i := 25) rfl, rfl⟩
  · exact ⟨_, _, List.mem_of_getElem? (i := 30) rfl, rfl⟩
  · exact ⟨_, _, List.mem_of_getElem? (i := 31) rfl, rfl⟩
  · exact ⟨_, _, List.mem_of_getElem? (i := 32) rfl, rfl⟩
  · exact ⟨_, _, List.mem_of_getElem? (i := 33) rfl, rfl⟩
  · exact ⟨_, _, List.mem_of_getElem? (i := 34) rfl, rfl⟩
  · exact ⟨_, _, List.mem_of_getElem? (i := 35) rfl, rfl⟩

end Sys2Proof.Machine

namespace Sys2Proof

open Sys2Proof.Machine Sys2Proof.Claims

theorem laneOps : Claims.LaneOps := by
  intro s p e opc i he hl hr x whole
  refine ⟨fun g hg => ?_, fun test ht => ?_⟩
  · obtain ⟨sfu, f, hi, hf⟩ := laneRows_plans x p e _ hg
    dsimp only at hi hf
    rw [← hf]
    exact fires_lanePlan hi he hl hr
  · have hi : (i, opc, comparePlan test) ∈ Claims.Firings p e := by
      simp only [List.mem_cons, List.not_mem_nil, or_false, Prod.mk.injEq] at ht
      rcases ht with ⟨rfl, rfl, rfl⟩ | ⟨rfl, rfl, rfl⟩ | ⟨rfl, rfl, rfl⟩ | ⟨rfl, rfl, rfl⟩
      · exact List.mem_of_getElem? (i := 11) rfl
      · exact List.mem_of_getElem? (i := 12) rfl
      · exact List.mem_of_getElem? (i := 13) rfl
      · exact List.mem_of_getElem? (i := 14) rfl
    exact fires_comparePlan hi he hl hr

/-! ### Fixed point -/

/-- The integer of a whole number. -/
theorem int_of_is {a : Num} {g : Bool} {n : Nat} (h : Claims.Is a g (n : Rat)) :
    Num.int a = if g then -(n : Int) else n := by
  obtain ⟨m, d, rfl, hd, hv⟩ := h
  have hm : m = n * d := by exact_mod_cast hv
  simp only [Num.int, hm, Nat.mul_div_cancel _ (Nat.pos_of_ne_zero hd)]

theorem fires_intPlan {s : State} {p e opc : Nat} {i : Instr} {f : Elem → Args → Option (Val × BitVec 8)} {φ : Fire → Prop}
    (hi : (i, opc, intPlan f) ∈ Claims.Firings p e) (he : e < 64) (hl : s.elemLive p e opc = true)
    (hr : (s.elem p e).ready = true)
    (hφ : ∀ r, r = (s.elem p e).laneToken ((s.elem p e).outDesc 127) (fun sl => f (s.elem p e) ((s.elem p e).arg true sl))
        (fun v => convert v (s.elem p e).tfmt 127 (s.elem p e).rm 0) →
      φ { Fire.of (s.elem p e).usedMask (s.elem p e) [r.1] with
        fl := r.2, mets := [(4, slotsValid (s.elem p e) ((s.elem p e).tok 0))] }) :
    Claims.Fires i s p e φ := by
  refine fires_of_plan hi he hl ?_ (hφ _ rfl)
  have hr' : ((s.page p).elem e).ready = true := hr
  simp only [intPlan]
  rw [if_neg (by simp [hr'])]
  rfl

theorem fixedPoint : Claims.FixedPoint := by
  intro s p e he hr x int whole
  refine ⟨fun hl => ⟨rshrNum, ?_, ?_⟩, fun hl => ?_⟩
  · intro a b g h n m ha hb
    refine ⟨_, rfl, ?_⟩
    have hs : ((rshrNum.sextInt b : Nat) : Int) = ((int h m % 64).toNat : Int) := by
      rw [rshrNum.sextInt, int_of_is hb]
    rw [hs, div_eq_mul_inv, ← zpow_natCast, ← zpow_neg]
    exact is_scale _ ha
  · refine fires_intPlan (List.mem_of_getElem? (i := 23) rfl) he hl hr fun r hr => ?_
    subst hr
    exact ⟨⟨rfl, rfl⟩, computes_laneToken ..⟩
  · refine ⟨fun a b c => reqNum x.rm (BitVec.ofNat 12 (x.p 0)).toInt (Num.int a) (Num.int b) ((Num.int c) % 64).toNat, ?_, ?_⟩
    · intro a b c g h k n m j hrm ha hb hc prod v
      have hv : v = (prod.natAbs : Rat) / ((2 ^ (31 + (int k j % 64).toNat) : Nat) : Rat) := by push_cast; rfl
      obtain ⟨h1, h2⟩ := roundNat_spec (g := decide (prod < 0)) (n := prod.natAbs) hrm
        (Nat.two_pow_pos (31 + (int k j % 64).toNat)).ne'
      refine ⟨roundNat x.rm (decide (prod < 0)) prod.natAbs (2 ^ (31 + (int k j % 64).toNat)), by rw [hv]; exact h1, ?_⟩
      refine ⟨_, ?_, real_ofInt _⟩
      dsimp only
      rw [int_of_is ha, int_of_is hb, int_of_is hc, reqNum, roundInt_eq]
      simp only [hv, ← h2, decide_eq_true_eq]
      rfl
    · refine fires_intPlan (List.mem_of_getElem? (i := 24) rfl) he hl hr fun r hr => ?_
      subst hr
      refine ⟨⟨rfl, rfl⟩, rfl, rfl, _, fun sl j => if x.isConst j then
        some (.num (Num.ofInt (if j = 1 then (x.k 0).toInt else ((x.k 1).toNat % 64 : Nat))), 0) else x.arg true sl j, rfl,
        fun sl j => ⟨fun hc => by simp [hc], fun hc => by simp [hc]⟩, ?_⟩
      exact laneOut_laneToken ..

end Sys2Proof
end


section
/-! SUPPORT. CVT and DQ, with their side port and amax (R50, R195 to R197); O43. -/

namespace Sys2Proof

open Sys2Proof.Machine Sys2Proof.Claims

/-! ### The side port (R196) -/

theorem sideNow_iff (x : Elem) : (x.side && x.atBoundary) = true ↔ Claims.SideNow x := by
  simp [Elem.atBoundary, Claims.SideNow]

/-- A ctl token is refused where it is not sound. -/
theorem sideRefused_iff (t : Token) : (!t.valid.getLsbD 0 || decide (32 ≤ (lane t.data 0).toNat)
    || decide (6 ≤ (lane t.data 0).toNat % 8) || decide ((lane t.data 0).toNat / 8 = 3) || t.lost) = true ↔ ¬ Claims.sideOk t := by
  simp only [Claims.sideOk, Bool.or_eq_true, Bool.not_eq_true', decide_eq_true_eq]
  rw [not_and_or, not_and_or, not_and_or, not_and_or, Bool.not_eq_true, Bool.not_eq_false, not_lt, not_lt, not_not]
  tauto

theorem sideSwitch_refused {x : Elem} {t : Token} (hn : Claims.SideNow x) (ht : x.data 3 = some t) (h : ¬ Claims.sideOk t) :
    x.sideSwitch = none := by
  simp only [Elem.sideSwitch, if_pos ((sideNow_iff x).2 hn), ht, if_pos ((sideRefused_iff t).2 h)]

/-- Without a token that is refused, the element goes on, with the mode of the ctl token that it takes. -/
theorem sideSwitch_taken {x : Elem} (h : Claims.SideNow x → ∀ t, x.data 3 = some t → Claims.sideOk t) :
    ∃ ate y, x.sideSwitch = some (ate, y) ∧ Claims.SideTaken x y (1 + if ate then 8 else 0) := by
  by_cases hn : Claims.SideNow x
  · cases hd : x.data 3 with
    | none => exact ⟨false, x, by simp only [Elem.sideSwitch, ite_self, hd], .inl ⟨.inr hd, rfl, rfl⟩⟩
    | some t =>
      have hok := h hn t hd
      obtain ⟨-, -, hv, -, -⟩ := id hok
      refine ⟨true, { x with modeSw := some (BitVec.ofNat 5 (lane t.data 0).toNat) }, ?_,
        .inr ⟨hn, t, hd, hok, rfl, rfl, ?_, ?_⟩⟩
      · simp only [Elem.sideSwitch, if_pos ((sideNow_iff x).2 hn), hd, if_neg fun hr => (sideRefused_iff t).1 hr hok]
      · simp only [Elem.rm, BitVec.toNat_ofNat]
        omega
      · simp only [Elem.ovr, bits, BitVec.toNat_ofNat]
        omega
  · exact ⟨false, x, by simp only [Elem.sideSwitch, if_neg (mt (sideNow_iff x).1 hn)], .inl ⟨.inl hn, rfl, rfl⟩⟩

/-! ### amax (R50) -/

/-- The FP32 code of a magnitude is an FP32 code. -/
theorem fp32_magnitude_lt {x : Num} (h : x.isNan = false) : (fp32.convert x.abs 127 3 2).1 < 2 ^ 32 := by
  match x, h with
  | .inf g, _ => exact (by decide : (fp32.convert (Num.inf false) 127 3 2).1 < 2 ^ 32)
  | .fin g n d, _ =>
    have hs : (Num.fin g n d).abs.scale (127 - ((127 : Nat) : Int)) = .fin false (n * 2 ^ 0) d := rfl
    rw [convert_fin fp32 hs, if_neg (by simp)]
    generalize fp32.round 3 false (n * 2 ^ 0) d = r
    have hc (k : Nat) : fp32.code false k = k := rfl
    split
    · rw [if_pos rfl]
      exact (by decide : (fp32.infCode false).1 < 2 ^ 32)
    · dsimp only
      rw [hc]
      have ht : fp32.top = 0x7F7FFFFF := rfl
      omega

/-- amax and its flags after the slots of a list. -/
def amaxSlots {α : Type} (f : α → Option (Val × BitVec 8)) (l : List α) (r : BitVec 32 × BitVec 8) : BitVec 32 × BitVec 8 :=
  l.foldl (fun r s => match f s with
    | some v => let z := amaxStep r.1 v.1; (z.1, r.2 ||| z.2)
    | none => r) r

/-- What `r` becomes when the numbers that hold are taken into amax: the largest magnitude, and NANS for a NaN. -/
structure AmaxTaken (holds : Num → Prop) (r0 r : BitVec 32 × BitVec 8) : Prop where
  le : r0.1.toNat ≤ r.1.toNat
  bound : ∀ n, holds n → n.isNan = false → (fp32.convert n.abs 127 3 2).1 ≤ r.1.toNat
  attained : r.1 = r0.1 ∨ ∃ n, holds n ∧ n.isNan = false ∧ (fp32.convert n.abs 127 3 2).1 = r.1.toNat
  nans : (∃ n, holds n ∧ n.isNan = true) → r.2 = r0.2 ||| flNans
  quiet : (∀ n, holds n → n.isNan = false) → r.2 = r0.2

theorem AmaxTaken.none (r : BitVec 32 × BitVec 8) {holds : Num → Prop} (h : ∀ n, ¬ holds n) : AmaxTaken holds r r :=
  ⟨le_rfl, fun n hn => absurd hn (h n), .inl rfl, fun ⟨n, hn, _⟩ => absurd hn (h n), fun _ => rfl⟩

theorem AmaxTaken.trans {h1 h2 : Num → Prop} {r0 r1 r2 : BitVec 32 × BitVec 8} (ha : AmaxTaken h1 r0 r1) (hb : AmaxTaken h2 r1 r2) :
    AmaxTaken (fun n => h1 n ∨ h2 n) r0 r2 where
  le := ha.le.trans hb.le
  bound n hn hx := hn.elim (fun h => (ha.bound n h hx).trans hb.le) fun h => hb.bound n h hx
  attained := by
    rcases hb.attained with he | ⟨n, hn, hx, he⟩
    · rw [he]
      exact ha.attained.imp id fun ⟨n, hn, hx⟩ => ⟨n, .inl hn, hx⟩
    · exact .inr ⟨n, .inr hn, hx, he⟩
  nans := by
    rintro ⟨n, hn, hx⟩
    by_cases h2 : ∃ n, h2 n ∧ n.isNan = true
    · rw [hb.nans h2]
      by_cases h1 : ∃ n, h1 n ∧ n.isNan = true
      · rw [ha.nans h1, BitVec.or_assoc, BitVec.or_self]
      · rw [ha.quiet fun n hn => by simpa using fun hc => h1 ⟨n, hn, hc⟩]
    · rw [hb.quiet fun n hn => by simpa using fun hc => h2 ⟨n, hn, hc⟩]
      exact ha.nans ⟨n, hn.resolve_right fun h => h2 ⟨n, h, hx⟩, hx⟩
  quiet h := (hb.quiet fun n hn => h n (.inr hn)).trans (ha.quiet fun n hn => h n (.inl hn))

theorem AmaxTaken.congr {h1 h2 : Num → Prop} {r0 r : BitVec 32 × BitVec 8} (h : AmaxTaken h1 r0 r) (he : ∀ n, h1 n ↔ h2 n) :
    AmaxTaken h2 r0 r := by
  obtain rfl : h1 = h2 := funext fun n => propext (he n)
  exact h

/-- One slot's value taken into amax. -/
theorem amaxTaken_step (v : Val) (r : BitVec 32 × BitVec 8) :
    AmaxTaken (fun n => v = .num n) r ((amaxStep r.1 v).1, r.2 ||| (amaxStep r.1 v).2) := by
  have h0 : r.2 ||| 0 = r.2 := BitVec.or_zero
  match v with
  | .poison =>
    rw [show amaxStep r.1 .poison = (r.1, 0) from rfl, h0]
    exact .none r fun n hn => Val.noConfusion hn
  | .num x =>
    cases hx : x.isNan with
    | true =>
      rw [show amaxStep r.1 (.num x) = (r.1, flNans) by simp [amaxStep, hx]]
      refine ⟨le_rfl, ?_, .inl rfl, fun _ => rfl, fun h => ?_⟩
      · rintro n ⟨⟩ hn
        simp [hx] at hn
      · simpa [hx] using h x rfl
    | false =>
      have hb : (BitVec.ofNat 32 (fp32.convert x.abs 127 3 2).1).toNat = (fp32.convert x.abs 127 3 2).1 :=
        Nat.mod_eq_of_lt (fp32_magnitude_lt hx)
      rw [show amaxStep r.1 (.num x) = (if r.1.toNat < (BitVec.ofNat 32 (fp32.convert x.abs 127 3 2).1).toNat then
        BitVec.ofNat 32 (fp32.convert x.abs 127 3 2).1 else r.1, 0) by simp [amaxStep, hx], h0]
      have hq : (∃ n, Val.num x = .num n ∧ n.isNan = true) → r.2 = r.2 ||| flNans := by
        rintro ⟨n, ⟨⟩, hn⟩
        simp [hx] at hn
      dsimp only
      split
      case isTrue hlt =>
        refine ⟨hlt.le, ?_, .inr ⟨x, rfl, hx, hb.symm⟩, hq, fun _ => rfl⟩
        rintro n ⟨⟩ -
        exact hb.ge
      case isFalse hlt =>
        refine ⟨le_rfl, ?_, .inl rfl, hq, fun _ => rfl⟩
        rintro n ⟨⟩ -
        rwa [← hb, ← not_lt]

theorem amaxTaken_amaxSlots {α : Type} (f : α → Option (Val × BitVec 8)) (l : List α) (r : BitVec 32 × BitVec 8) :
    AmaxTaken (fun n => ∃ s ∈ l, ∃ g, f s = some (.num n, g)) r (amaxSlots f l r) := by
  induction l generalizing r with
  | nil => exact .none r fun n hn => by simp at hn
  | cons a t ih =>
    have ha : AmaxTaken (fun n => ∃ g, f a = some (.num n, g)) r (match f a with
        | some v => let z := amaxStep r.1 v.1; (z.1, r.2 ||| z.2)
        | none => r) := by
      cases hf : f a with
      | none => exact .none r fun n hn => by simp at hn
      | some v =>
        refine (amaxTaken_step v.1 r).congr fun n => ?_
        obtain ⟨v, g⟩ := v
        simp
    refine (ha.trans (ih _)).congr fun n => ?_
    rw [List.exists_mem_cons_iff (fun s => ∃ g, f s = some (.num n, g))]

theorem amax_amaxToken (x : Elem) : Claims.Amax x x.amaxToken.1 x.amaxToken.2 := by
  have hmag (n : Num) : convert n.abs 0x07#8 127 3 2 = fp32.convert n.abs 127 3 2 := rfl
  refine ⟨fun h => by simp [Elem.amaxToken, h], fun h => ?_⟩
  have ht : x.amaxToken = amaxSlots (fun s => x.arg false s 0) (List.range (16 * x.pack)) (x.amax, 0) := by
    simp only [Elem.amaxToken, h, if_true]
    rfl
  have hs := amaxTaken_amaxSlots (fun s => x.arg false s 0) (List.range (16 * x.pack)) (x.amax, 0)
  rw [← ht] at hs
  have hh (n : Num) : (∃ s ∈ List.range (16 * x.pack), ∃ g, x.arg false s 0 = some (.num n, g))
      ↔ ∃ sl g, sl < 16 * x.pack ∧ x.arg false sl 0 = some (.num n, g) := by simp
  obtain ⟨h1, h2, h3, h4, h5⟩ := hs.congr hh
  simp only [hmag]
  exact ⟨h1, h2, h3, fun h => (h4 h).trans (BitVec.zero_or), h5⟩

/-! ### Conversions -/

theorem fires_cvtPlan {s : State} {p e opc : Nat} {i : Instr} {fl0 : BitVec 8} {f : Elem → Args → Option (Val × BitVec 8)}
    {plan : Page → Nat → Plan} (hp : plan (s.page p) e = cvtPlan fl0 f (s.page p) e) {ate : Bool} {y : Elem}
    (hi : (i, opc, plan) ∈ Claims.Firings p e) (he : e < 64) (hl : s.elemLive p e opc = true)
    (hr : (s.elem p e).ready = true) (hy : (s.elem p e).sideSwitch = some (ate, y)) :
    Claims.Fires i s p e fun z => ∃ m mfl fl, z.eats = (1 + if ate then 8 else 0) ∧ z.x = { y with amax := m } ∧ Claims.Amax y m mfl
      ∧ z.fl = fl ||| mfl ||| fl0 ∧ Claims.Computes y y.intPath (f y) (if y.intPath then 127 else y.tscale) y.rm y.ovr fl z := by
  have hr' : ((s.page p).elem e).ready = true := hr
  have hy' : ((s.page p).elem e).sideSwitch = some (ate, y) := hy
  refine fires_of_plan hi he hl (f := ?_) ?_ ?_
  rotate_left
  · rw [hp]
    simp only [cvtPlan, hr', Bool.not_true, Bool.false_eq_true, if_false, hy']
    rfl
  · exact ⟨_, _, _, rfl, rfl, amax_amaxToken y, rfl, computes_laneToken ..⟩

theorem cvtPlan_refused {pg : Page} {e : Nat} {fl0 : BitVec 8} {f : Elem → Args → Option (Val × BitVec 8)}
    (hr : (pg.elem e).ready = true) (hy : (pg.elem e).sideSwitch = none) : cvtPlan fl0 f pg e = .fail 0x03 := by
  simp only [cvtPlan, hr, Bool.not_true, Bool.false_eq_true, if_false, hy]

/-- The zero point of DQ. -/
def dqZero (x : Elem) : Int := if fmtInt (fmtOf (x.argDesc 0)) then (BitVec.ofNat 12 (x.p 0)).toInt else 0

/-- DQ's difference. -/
def dqDiff (x : Elem) (a : Num) : Num × BitVec 8 := if dqZero x = 0 then (a, 0) else a.add x.rm (Num.ofInt (-dqZero x))

theorem real_dqDiff {x : Elem} {a : Num} {v : Rat} (h : Claims.Real a v) :
    ∃ r, dqDiff x a = (r, 0) ∧ Claims.Real r (v - (dqZero x : Rat)) := by
  by_cases hz : dqZero x = 0
  · exact ⟨a, if_pos hz, by simpa [hz] using h⟩
  · obtain ⟨r, hr, hv⟩ := real_add x.rm h (real_ofInt (-dqZero x))
    exact ⟨r, by rw [dqDiff, if_neg hz, hr], real_congr hv (by push_cast; ring)⟩

theorem nan_dqDiff {x : Elem} {sig : Bool} : (dqDiff x (.nan sig)).1 = .nan sig := by
  by_cases hz : dqZero x = 0
  · rw [dqDiff, if_pos hz]
  · rw [dqDiff, if_neg hz]
    simp [Num.add, nan2, Num.ofInt, Num.isSnan]

/-- DQ's product of a difference with K0. -/
def dqScaled (k : Num) (a : Num) (d : Num × BitVec 8) : Num × BitVec 8 :=
  match k with
  | .nan _ => (.nan a.isSnan, d.2)
  | f => ((d.1.mul f).1, d.2 ||| (d.1.mul f).2)

theorem dqNum_eq (x : Elem) (a : Num) :
    dqNum x a = if (x.p 1).testBit 0 = true then dqScaled (ofFp32 (x.k 0)) a (dqDiff x a) else dqDiff x a := by
  unfold dqNum
  generalize ofFp32 (x.k 0) = k
  cases k <;> rfl

theorem dqScaled_nan {k : Num} (hk : k.isNan = true) (a : Num) (d : Num × BitVec 8) : dqScaled k a d = (.nan a.isSnan, d.2) := by
  match k, hk with
  | .nan _, _ => rfl

theorem dqScaled_num {k : Num} (hk : k.isNan = false) (a : Num) (d : Num × BitVec 8) :
    dqScaled k a d = ((d.1.mul k).1, d.2 ||| (d.1.mul k).2) := by
  match k, hk with
  | .inf _, _ => rfl
  | .fin _ _ _, _ => rfl

theorem isSnan_of_not_isNan {k : Num} (hk : k.isNan = false) : k.isSnan = false := by
  match k, hk with
  | .inf _, _ => rfl
  | .fin _ _ _, _ => rfl

theorem nan_mul (sig : Bool) (y : Num) : (Num.nan sig).mul y = (.nan (sig || y.isSnan), 0) := by
  cases y <;> rfl

/-- DQ of a value (R197). -/
theorem dqNum_spec (x : Elem) (a : Num) (v : Rat) :
    let scaled := (x.p 1).testBit 0 = true
    (Claims.Real a v → ¬ scaled → ∃ r, dqNum x a = (r, 0) ∧ Claims.Real r (v - (dqZero x : Rat)))
    ∧ (∀ k, Claims.Real a v → scaled → Claims.Real (ofFp32 (x.k 0)) k →
        ∃ r, dqNum x a = (r, 0) ∧ Claims.Real r ((v - (dqZero x : Rat)) * k))
    ∧ (a.isNan = true ∨ (scaled ∧ (ofFp32 (x.k 0)).isNan = true) → (dqNum x a).1.isNan = true ∧ (dqNum x a).1.isSnan = a.isSnan) := by
  intro scaled
  rw [dqNum_eq]
  generalize ofFp32 (x.k 0) = f
  refine ⟨fun ha hs => ?_, fun k ha hs hk => ?_, fun h => ?_⟩
  · rw [if_neg hs]
    exact real_dqDiff ha
  · obtain ⟨r, hr, hv⟩ := real_dqDiff (x := x) ha
    obtain ⟨q, hq, hw⟩ := real_mul hv hk
    refine ⟨q, ?_, hw⟩
    rw [if_pos hs, dqScaled_num (real_isNan hk), hr, hq]
    simp
  · by_cases hs : scaled
    · rw [if_pos hs]
      cases hk : f.isNan with
      | true =>
        rw [dqScaled_nan hk]
        exact ⟨rfl, rfl⟩
      | false =>
        rw [hk] at h
        match a, h.resolve_right (by simp) with
        | .nan sig, _ =>
          rw [dqScaled_num hk, nan_dqDiff, nan_mul, isSnan_of_not_isNan hk, Bool.or_false]
          exact ⟨rfl, rfl⟩
    · rw [if_neg hs]
      match a, h.resolve_right fun h => hs h.1 with
      | .nan sig, _ =>
        rw [nan_dqDiff]
        exact ⟨rfl, rfl⟩

/-- Taking a ctl token changes neither operands nor parameters. -/
theorem sideTaken_same {x y : Elem} {eats : Nat} (h : Claims.SideTaken x y eats) :
    dqZero y = dqZero x ∧ (∀ m, y.p m = x.p m) ∧ ∀ m, y.k m = x.k m := by
  rcases h with ⟨-, rfl, -⟩ | ⟨-, t, -, -, -, hy, -⟩
  · exact ⟨rfl, fun _ => rfl, fun _ => rfl⟩
  · rw [hy]
    exact ⟨rfl, fun _ => rfl, fun _ => rfl⟩

theorem conversions : Claims.Conversions := by
  intro s p e opc i he hl hr x scaled hi
  have hplan : ∃ plan fl0 f, (i, opc, plan) ∈ Claims.Firings p e ∧ plan (s.page p) e = cvtPlan fl0 f (s.page p) e
      ∧ ((opc = 0x48 ∧ fl0 = 0 ∧ f = fun _ => op1 fun a => (a, 0))
        ∨ (opc = 0x4A ∧ fl0 = (if (x.p 1).testBit 0 && (ofFp32 (x.k 0)).isNan then flInv else 0) ∧ f = fun x => op1 (dqNum x))) := by
    simp only [List.mem_cons, List.not_mem_nil, or_false, Prod.mk.injEq] at hi
    rcases hi with ⟨rfl, rfl⟩ | ⟨rfl, rfl⟩
    · exact ⟨_, _, _, List.mem_of_getElem? (i := 36) rfl, rfl, .inl ⟨rfl, rfl, rfl⟩⟩
    · exact ⟨_, _, _, List.mem_of_getElem? (i := 38) rfl, rfl, .inr ⟨rfl, rfl, rfl⟩⟩
  obtain ⟨plan, fl0, f, hmem, hp, hf⟩ := hplan
  refine ⟨fun hn t ht hbad => ?_, fun hok => ?_⟩
  · exact exec_of_fail hmem he hl (hp.trans (cvtPlan_refused hr (sideSwitch_refused hn ht hbad)))
  · obtain ⟨ate, y, hy, hside⟩ := sideSwitch_taken hok
    obtain ⟨hz, hpm, hkm⟩ := sideTaken_same hside
    have hfire := fires_cvtPlan hp hmem he hl hr hy
    rcases hf with ⟨rfl, rfl, rfl⟩ | ⟨rfl, rfl, rfl⟩
    · refine ⟨y, _, hside, fun a => (a, 0), fun _ _ => rfl, fun h => absurd h (by decide), ?_⟩
      simpa using hfire
    · refine ⟨y, _, hside, dqNum y, fun h => absurd h (by decide), fun _ a v => ?_, ?_⟩
      · have h := dqNum_spec y a v
        rw [hz, hpm, hkm] at h
        exact h
      · simpa [scaled] using hfire

/-- Settles O43: the shared lane computation, slot by slot, under each operation's function. -/
theorem laneValues : Obligations.LaneValues := ⟨rendering, slotReads, operands, laneOps, fixedPoint, conversions⟩

end Sys2Proof
end


section
/-! SUPPORT. Accumulators and reductions (R53, R54, R185, R203, R204); O44. -/

namespace Sys2Proof.Machine

open Sys2Proof.Claims

/-- A lane computation reads only the slots of a token. -/
theorem laneToken_congr {x : Elem} {d : Desc} {f g : Nat → Option (Val × BitVec 8)} {conv : Num → Nat × BitVec 8}
    (h : ∀ sl, sl < 16 * x.pack → f sl = g sl) : x.laneToken d f conv = x.laneToken d g conv := by
  have hr : laneResults x f conv = laneResults x g conv := by
    refine List.map_congr_left fun l hl => congrArg _ (List.map_congr_left fun j hj => h _ ?_)
    rw [List.mem_range] at hl hj
    calc l * x.pack + j < l * x.pack + x.pack := by omega
      _ = (l + 1) * x.pack := by ring
      _ ≤ 16 * x.pack := Nat.mul_le_mul_right _ hl
  rw [laneToken_eq, laneToken_eq, hr]

theorem ors_orFlags (n : Nat) (h : Nat → BitVec 8) : Claims.Ors n h (orFlags ((List.range n).map h)) := by
  intro b _
  rw [getLsbD_orFlags]
  simp

/-- The same token with another RANK. -/
theorem laneOut_rank {x : Elem} {d : Desc} {r : BitVec 3} {val : Nat → Option (Val × BitVec 8)} {conv : Num → Nat × BitVec 8}
    {o : OutTok} {fl : BitVec 8} (h : Claims.LaneOut x d r val conv o fl) (r' : BitVec 3) :
    Claims.LaneOut x d r' val conv { o with rank := r' } fl := by
  obtain ⟨-, h⟩ := h
  exact ⟨rfl, h⟩

/-! ### Accumulation -/

/-- The accumulator of a slot after a firing of MAC or ACC, and the flags. -/
def accStep (g : Args → Option (Val × BitVec 8)) (x : Elem) (sl : Nat) : Acc × BitVec 8 :=
  match g (x.arg x.accIsInt sl) with
  | some v => (Claims.accAt x sl).add x.accIsInt v.1 v.2
  | none => (Claims.accAt x sl, 0)

theorem accPlan_eq (g : Args → Option (Val × BitVec 8)) {pg : Page} {e : Nat} {x : Elem} (hx : pg.elem e = x)
    (hr : x.ready = true) :
    let acc := (List.range (16 * x.pack)).map fun sl => (accStep g x sl).1
    let fl := orFlags ((List.range (16 * x.pack)).map fun sl => (accStep g x sl).2)
    let sc := if x.accIsInt && fmtInt x.tfmt then 127 else x.tscale
    let r := x.laneToken (x.outDesc sc) (fun sl => if (accStep g x sl).1.seen then
      some (Claims.accVal (accStep g x sl).1 x.accIsInt, 0) else none) (fun v => convert v x.tfmt sc x.rm x.ovr)
    accPlan g pg e = if x.rankIn.toNat < x.emit then
        .fire { Fire.of x.usedMask { x with acc := acc } [] with fl := fl, mets := [(4, slotsValid x (x.tok 0))] }
      else .fire { Fire.of x.usedMask { x with acc := [] } [{ r.1 with rank := x.rankIn - BitVec.ofNat 3 x.emit }] with
        fl := fl ||| r.2, mets := [(4, slotsValid x (x.tok 0))] } := by
  intro acc fl sc r
  have hdef : accPlan g pg e = (let step := (List.range (16 * x.pack)).map (accStep g x)
      let lanes := x.laneToken (x.outDesc sc) (fun s => if (Machine.accAt (step.map Prod.fst) s).seen then
        some ((Machine.accAt (step.map Prod.fst) s).val x.accIsInt, 0) else none) (fun v => convert v x.tfmt sc x.rm x.ovr)
      if !x.ready then .wait false
      else if x.rankIn.toNat < x.emit then
        .fire { Fire.of x.usedMask { x with acc := step.map Prod.fst } [] with
          fl := orFlags (step.map Prod.snd), mets := [(4, slotsValid x (x.tok 0))] }
      else .fire { Fire.of x.usedMask { x with acc := [] } [{ lanes.1 with rank := x.rankIn - BitVec.ofNat 3 x.emit }] with
        fl := orFlags (step.map Prod.snd) ||| lanes.2, mets := [(4, slotsValid x (x.tok 0))] }) := by
    subst hx
    rfl
  have hacc : ((List.range (16 * x.pack)).map (accStep g x)).map Prod.fst = acc := List.map_map ..
  have hfl : ((List.range (16 * x.pack)).map (accStep g x)).map Prod.snd
      = (List.range (16 * x.pack)).map fun sl => (accStep g x sl).2 := List.map_map ..
  have hlane : x.laneToken (x.outDesc sc) (fun s => if (Machine.accAt acc s).seen then
      some ((Machine.accAt acc s).val x.accIsInt, 0) else none) (fun v => convert v x.tfmt sc x.rm x.ovr) = r := by
    refine laneToken_congr fun sl hsl => ?_
    have ha : Machine.accAt acc sl = (accStep g x sl).1 := by
      simp [Machine.accAt, acc, hsl]
    rw [ha]
    rfl
  have hr' : (!x.ready) = false := by rw [hr]; rfl
  simp only [hdef, hacc, hfl, hlane, hr', Bool.false_eq_true, if_false]
  rfl

end Sys2Proof.Machine

namespace Sys2Proof

open Sys2Proof.Machine Sys2Proof.Claims

theorem accumulates : Claims.Accumulates := by
  intro s p e opc i g he hl hr hi x int step sc
  have hplan : ∃ plan, (i, opc, plan) ∈ Claims.Firings p e ∧ plan = accPlan g := by
    simp only [List.mem_cons, List.not_mem_nil, or_false, Prod.mk.injEq] at hi
    rcases hi with ⟨rfl, rfl, rfl⟩ | ⟨rfl, rfl, rfl⟩
    · exact ⟨_, List.mem_of_getElem? (i := 4) rfl, rfl⟩
    · exact ⟨_, List.mem_of_getElem? (i := 44) rfl, rfl⟩
  obtain ⟨plan, hmem, rfl⟩ := hplan
  have hstep : step = accStep g x := rfl
  have hp := accPlan_eq g (pg := s.page p) (e := e) (x := x) rfl hr
  by_cases hq : x.rankIn.toNat < x.emit
  · refine fires_of_plan hmem he hl (hp.trans (if_pos hq)) ⟨rfl, rfl, rfl, _, ors_orFlags _ _, fun _ => ⟨rfl, rfl, _, rfl, ?_, ?_⟩,
      fun h => absurd hq (not_lt.2 h)⟩
    · simp
    · intro sl hsl
      simp [hstep, hsl]
  · refine fires_of_plan hmem he hl (hp.trans (if_neg hq)) ⟨rfl, rfl, rfl, _, ors_orFlags _ _, fun h => absurd h hq,
      fun _ => ⟨rfl, _, _, rfl, rfl, laneOut_rank (laneOut_laneToken ..) _⟩⟩

/-! ### The tree (R53) -/

theorem fp32_convert (z : Num) (s rm ovr : Nat) : convert z 0x07#8 s rm ovr = fp32.convert z s rm ovr := rfl

/-- The integer of a real number that is one. -/
theorem int_of_real {x : Num} {u : Int} (h : Claims.Real x (u : Rat)) : Num.int x = u := by
  obtain ⟨g, m, hm, hu⟩ := h
  have hm0 : 0 ≤ m := by
    obtain ⟨n, d, -, hd, hv⟩ := hm
    have hdq : (0 : Rat) < d := by exact_mod_cast Nat.pos_of_ne_zero hd
    exact nonneg_of_mul_nonneg_left (hv ▸ Nat.cast_nonneg n) hdq
  have hn : m = (u.natAbs : Rat) := by
    have habs : |Claims.sg g m| = m := by cases g <;> simp [Claims.sg, abs_of_nonneg hm0]
    rw [← habs, hu, Nat.cast_natAbs, Int.cast_abs]
  rw [hn] at hm hu
  rw [int_of_is hm]
  have hu' : (if g then -(u.natAbs : Int) else (u.natAbs : Int)) = u := by
    have : ((if g then -(u.natAbs : Int) else (u.natAbs : Int) : Int) : Rat) = (u : Rat) := by
      rw [← hu]
      cases g <;> simp [Claims.sg]
    exact_mod_cast this
  exact hu'

theorem treeSums : Claims.TreeSums := by
  refine ⟨fun f v hf => ?_, fun x y u v hx hy => ?_, fun x y u v hx hy => ?_⟩
  · simp only [List.mem_cons, List.not_mem_nil, or_false] at hf
    rcases hf with rfl | rfl
    · exact ⟨rfl, by cases v <;> rfl⟩
    · exact ⟨rfl, by cases v <;> rfl⟩
  · obtain ⟨z, hz, hv⟩ := real_add 0 hx hy
    refine ⟨z, hv, ?_⟩
    rw [fp32_convert]
    simp only [sumFp, Val.map2, hz, toFp32]
    exact congrArg _ BitVec.zero_or
  · simp only [sumInt, Val.map2, int_of_real hx, int_of_real hy]
    congr 1
    by_cases h : -2 ^ 31 ≤ u + v ∧ u + v < 2 ^ 31
    · rw [if_pos h, if_neg (by omega)]
    · rw [if_neg h, if_pos (by omega)]

/-- Two children of a node, with the flags under them. -/
def combine (f : Val → Val → Val × BitVec 8) (a b : Option Val × BitVec 8) : Option Val × BitVec 8 :=
  match a.1, b.1 with
  | some u, some v => ((f u v).1, (f u v).2 ||| a.2 ||| b.2)
  | some u, none => (u, a.2 ||| b.2)
  | none, v => (v, a.2 ||| b.2)

theorem node_succ (f : Val → Val → Val × BitVec 8) (leaf : Nat → Option Val) (n i : Nat) :
    Claims.node f leaf (n + 1) i = combine f (Claims.node f leaf n (2 * i)) (Claims.node f leaf n (2 * i + 1)) := rfl

theorem treeLevel_one (f : Val → Val → Val × BitVec 8) (a : Option Val) : treeLevel f [a] = ([a], 0) := by simp [treeLevel]

theorem treeRoot_succ (f : Val → Val → Val × BitVec 8) (n : Nat) (l : List (Option Val)) :
    treeRoot f (n + 1) l = ((treeRoot f n (treeLevel f l).1).1, (treeLevel f l).2 ||| (treeRoot f n (treeLevel f l).1).2) := rfl

theorem treeLevel_cons (f : Val → Val → Val × BitVec 8) (a b : Option Val) (t : List (Option Val)) :
    treeLevel f (a :: b :: t) = ((combine f (a, 0) (b, 0)).1 :: (treeLevel f t).1, (combine f (a, 0) (b, 0)).2 ||| (treeLevel f t).2) := by
  cases a <;> cases b <;> simp [treeLevel, combine]

/-- A level of two halves is the levels of the halves. -/
theorem treeLevel_append (f : Val → Val → Val × BitVec 8) (k : Nat) {l m : List (Option Val)} (hl : l.length = 2 * k) :
    treeLevel f (l ++ m) = ((treeLevel f l).1 ++ (treeLevel f m).1, (treeLevel f l).2 ||| (treeLevel f m).2) := by
  induction k generalizing l with
  | zero =>
    obtain rfl := List.length_eq_zero_iff.1 hl
    simp [treeLevel]
  | succ k ih =>
    match l, hl with
    | a :: b :: t, hl =>
      have ht : t.length = 2 * k := by simp only [List.length_cons] at hl; omega
      simp only [List.cons_append, treeLevel_cons, ih ht, BitVec.or_assoc]

theorem length_treeLevel (f : Val → Val → Val × BitVec 8) (k : Nat) {l : List (Option Val)} (hl : l.length = 2 * k) :
    (treeLevel f l).1.length = k := by
  induction k generalizing l with
  | zero =>
    obtain rfl := List.length_eq_zero_iff.1 hl
    simp [treeLevel]
  | succ k ih =>
    match l, hl with
    | a :: b :: t, hl =>
      have ht : t.length = 2 * k := by simp only [List.length_cons] at hl; omega
      simp only [treeLevel_cons, List.length_cons, ih ht]

/-- The root over two halves combines their roots. -/
theorem treeRoot_append (f : Val → Val → Val × BitVec 8) (k : Nat) {l m : List (Option Val)} (hl : l.length = 2 ^ k)
    (hm : m.length = 2 ^ k) : treeRoot f (k + 1) (l ++ m) = combine f (treeRoot f k l) (treeRoot f k m) := by
  induction k generalizing l m with
  | zero =>
    obtain ⟨a, rfl⟩ := List.length_eq_one_iff.1 hl
    obtain ⟨b, rfl⟩ := List.length_eq_one_iff.1 hm
    rw [treeRoot_succ, List.singleton_append, treeLevel_cons]
    cases a <;> cases b <;> simp [treeRoot, treeLevel, combine]
  | succ k ih =>
    rw [Nat.pow_succ, Nat.mul_comm] at hl hm
    rw [treeRoot_succ, treeLevel_append f _ hl, ih (length_treeLevel f _ hl) (length_treeLevel f _ hm), treeRoot_succ f k l,
      treeRoot_succ f k m]
    generalize treeRoot f k (treeLevel f l).1 = a
    generalize treeRoot f k (treeLevel f m).1 = b
    obtain ⟨a, fa⟩ := a
    obtain ⟨b, fb⟩ := b
    cases a <;> cases b <;> simp only [combine, Prod.mk.injEq, true_and] <;> ac_rfl

/-- The root of a full tree is its top node. -/
theorem treeRoot_eq_node (f : Val → Val → Val × BitVec 8) (leaf : Nat → Option Val) (n i : Nat) :
    treeRoot f n ((List.range (2 ^ n)).map fun j => leaf (i * 2 ^ n + j)) = Claims.node f leaf n i := by
  induction n generalizing i with
  | zero => simp [treeRoot, Claims.node]
  | succ n ih =>
    have hsplit : ((List.range (2 ^ (n + 1))).map fun j => leaf (i * 2 ^ (n + 1) + j))
        = ((List.range (2 ^ n)).map fun j => leaf (2 * i * 2 ^ n + j))
          ++ (List.range (2 ^ n)).map fun j => leaf ((2 * i + 1) * 2 ^ n + j) := by
      rw [Nat.pow_succ, Nat.mul_two, List.range_add, List.map_append, List.map_map]
      congr 1
      · exact List.map_congr_left fun j _ => by congr 1; ring
      · exact List.map_congr_left fun j _ => by simp only [Function.comp_apply]; congr 1; ring
    rw [hsplit, treeRoot_append f n (by simp) (by simp), ih, ih, node_succ]

/-- Levels above the root change nothing. -/
theorem treeRoot_above (f : Val → Val → Val × BitVec 8) (n m : Nat) {l : List (Option Val)} (hl : l.length = 2 ^ n) :
    treeRoot f (n + m) l = treeRoot f n l := by
  induction n generalizing l with
  | zero =>
    obtain ⟨a, rfl⟩ := List.length_eq_one_iff.1 hl
    induction m with
    | zero => rfl
    | succ m ih =>
      rw [← Nat.add_assoc, treeRoot_succ, treeLevel_one, ih]
      simp [treeRoot]
  | succ n ih =>
    rw [Nat.pow_succ, Nat.mul_comm] at hl
    rw [Nat.succ_add, treeRoot_succ, treeRoot_succ, ih (length_treeLevel f _ hl)]

/-! ### Reductions (R203) -/

/-- The accumulator, the exact running result and the flags after a root. -/
def rootTaken (f : Val → Val → Val × BitVec 8) (add int : Bool) (x : Elem) (root : Option Val) : Acc × Option Num × BitVec 8 :=
  let a := Claims.accAt x 0
  match root with
  | none => (a, (x.run.head?).join, 0)
  | some .poison => ({ a with seen := true, poison := true }, (x.run.head?).join, 0)
  | some (.num y) =>
    if add then let z := a.add int (.num y) 0; (z.1, none, z.2)
    else
      match (x.run.head?).join with
      | none => ({ a with seen := true }, some y, 0)
      | some z =>
        match f (.num z) (.num y) with
        | (.num w, fl) => ({ a with seen := true }, some w, fl)
        | (.poison, fl) => ({ a with seen := true, poison := true }, some z, fl)

/-- The value that a reduction emits. -/
def rootVal (add int : Bool) (r : Acc × Option Num × BitVec 8) : Val :=
  if r.1.poison then .poison else if add then Claims.accVal r.1 int else .num (r.2.1.getD .zero)

/-- The code of that value, and the flags of its conversion. -/
def rootCode (x : Elem) (sc : Nat) (v : Val) : Nat × BitVec 8 :=
  match v with
  | .num y => convert y x.tfmt sc x.rm x.ovr
  | .poison => (0, 0)

/-- The token of a reduction. -/
def rootToken (x : Elem) (sc : Nat) (a : Acc) (z : Nat × BitVec 8) : OutTok :=
  ⟨BitVec.ofNat 512 (if a.seen then z.1 % 2 ^ (32 / x.pack) else 0), if a.seen then 1 else 0, x.rankIn - BitVec.ofNat 3 x.emit,
    some (mkDesc (BitVec.ofNat 8 sc) x.tfmt), x.burst, if a.poison then 1 else 0, a.poison, []⟩

theorem reducePlan_eq (f : Val → Val → Val × BitVec 8) (add : Bool) {pg : Page} {e n : Nat} {x : Elem} (hx : pg.elem e = x)
    (hr : x.ready = true) (hn : 2 ^ n = 16 * x.pack) :
    let int := add && x.accIsInt
    let leaf (sl : Nat) := x.arg (if add then int else x.intPath) sl 0
    let root := Claims.node f (fun sl => (leaf sl).map Prod.fst) n 0
    let r := rootTaken f add int x root.1
    let fl := orFlags ((List.range (16 * x.pack)).map fun sl => ((leaf sl).map Prod.snd).getD 0) ||| root.2 ||| r.2.2
    let sc := if (if add then int && fmtInt x.tfmt else x.intPath) then 127 else x.tscale
    let z := rootCode x sc (rootVal add int r)
    reducePlan f add pg e = if x.rankIn.toNat < x.emit then
        .fire { Fire.of x.usedMask { x with acc := [r.1], run := [r.2.1] } [] with
          fl := fl, mets := [(4, slotsValid x (x.tok 0))] }
      else .fire { Fire.of x.usedMask { x with acc := [], run := [] } [rootToken x sc r.1 z] with
        fl := fl ||| (if r.1.seen then z.2 else 0), mets := [(4, slotsValid x (x.tok 0))] } := by
  intro int leaf root r fl sc z
  have hroot : treeRoot f 6 (((List.range (16 * x.pack)).map leaf).map fun v => v.map Prod.fst) = root := by
    have h6 : n + (6 - n) = 6 := by
      rcases x.pack_cases with h | h | h <;> rw [h] at hn
      · obtain rfl := Nat.pow_right_injective le_rfl (hn.trans (by rfl : 16 * 1 = 2 ^ 4)); rfl
      · obtain rfl := Nat.pow_right_injective le_rfl (hn.trans (by rfl : 16 * 2 = 2 ^ 5)); rfl
      · obtain rfl := Nat.pow_right_injective le_rfl (hn.trans (by rfl : 16 * 4 = 2 ^ 6)); rfl
    have hlen : (((List.range (16 * x.pack)).map leaf).map fun v => v.map Prod.fst).length = 2 ^ n := by simp [hn]
    rw [← h6, treeRoot_above f n _ hlen, List.map_map, ← hn, show root = Claims.node f _ n 0 from rfl, ← treeRoot_eq_node]
    simp [Function.comp_def]
  have hfl : (((List.range (16 * x.pack)).map leaf).map fun v => match v with
      | some z => z.2
      | none => 0) = (List.range (16 * x.pack)).map fun sl => ((leaf sl).map Prod.snd).getD 0 := by
    rw [List.map_map]
    exact List.map_congr_left fun sl _ => by cases h : leaf sl <;> simp [h]
  have hr' : (!x.ready) = false := by rw [hr]; rfl
  unfold reducePlan
  simp only [hx, hr', Bool.false_eq_true, if_false]
  dsimp only [leaf, int] at hroot hfl
  dsimp only [fl]
  rw [hroot, ← hfl]
  clear hroot hfl
  clear_value root
  rfl

theorem flags_of_seen (b : Bool) (z : Nat × BitVec 8) : (if b then z.2 else 0) = (if b then z else (0, 0)).2 := by
  cases b <;> rfl

theorem code_of_seen (b : Bool) (z : Nat × BitVec 8) (m : Nat) :
    (if b then z.1 % m else 0) = (if b then z else (0, 0)).1 % m := by
  cases b <;> simp

/-- A reduction fires with the root that it takes in, and emits at RANK q. -/
theorem fires_reducePlan {s : State} {p e opc n : Nat} {i : Instr} {f : Val → Val → Val × BitVec 8} {add : Bool}
    {plan : Page → Nat → Plan} (hp : plan (s.page p) e = reducePlan f add (s.page p) e)
    (hi : (i, opc, plan) ∈ Claims.Firings p e) (he : e < 64) (hl : s.elemLive p e opc = true)
    (hr : (s.elem p e).ready = true) (hn : 2 ^ n = 16 * (s.elem p e).pack) :
    let x := s.elem p e
    let int := add && x.accIsInt
    let leaf (sl : Nat) := x.arg (if add then int else x.intPath) sl 0
    let root := Claims.node f (fun sl => (leaf sl).map Prod.fst) n 0
    let r := rootTaken f add int x root.1
    let sc := if (if add then int && fmtInt x.tfmt else x.intPath) then 127 else x.tscale
    Claims.Fires i s p e fun f => f.eats = x.insMask % 8 ∧ f.out1 = [] ∧ f.tiles = [] ∧ ∃ lfl,
      Claims.Ors (16 * x.pack) (fun sl => ((leaf sl).map Prod.snd).getD 0) lfl
      ∧ (x.rankIn.toNat < x.emit → f.out0 = [] ∧ f.x = { x with acc := [r.1], run := [r.2.1] } ∧ f.fl = lfl ||| root.2 ||| r.2.2)
      ∧ (x.emit ≤ x.rankIn.toNat → f.x = { x with acc := [], run := [] } ∧ ∃ o z, f.out0 = [o]
        ∧ (r.1.poison = false → r.1.seen = true → z = convert (if add then (if int then Num.ofInt r.1.bits.toInt else ofFp32 r.1.bits)
            else r.2.1.getD .zero) x.tfmt sc x.rm x.ovr)
        ∧ (r.1.poison = true ∨ r.1.seen = false → z = (0, 0))
        ∧ f.fl = lfl ||| root.2 ||| r.2.2 ||| z.2
        ∧ o.data = BitVec.ofNat 512 (z.1 % 2 ^ (32 / x.pack)) ∧ o.valid = (if r.1.seen then 1 else 0)
        ∧ o.rank = x.rankIn - BitVec.ofNat 3 x.emit ∧ o.desc = some (mkDesc (BitVec.ofNat 8 sc) x.tfmt) ∧ o.blen = x.burst
        ∧ o.pois = r.1.poison ∧ o.bad = (if r.1.poison then 1 else 0) ∧ o.before = []) := by
  intro x int leaf root r sc
  have hplan := hp.trans (reducePlan_eq f add (pg := s.page p) (e := e) (x := x) rfl hr hn)
  by_cases hq : x.rankIn.toNat < x.emit
  · exact fires_of_plan hi he hl (hplan.trans (if_pos hq)) ⟨rfl, rfl, rfl, _, ors_orFlags _ _, fun _ => ⟨rfl, rfl, rfl⟩,
      fun h => absurd hq (not_lt.2 h)⟩
  · refine fires_of_plan hi he hl (hplan.trans (if_neg hq)) ⟨rfl, rfl, rfl, _, ors_orFlags _ _, fun h => absurd h hq,
      fun _ => ⟨rfl, _, if r.1.seen then rootCode x sc (rootVal add int r) else (0, 0), rfl, fun h1 h2 => ?_, fun h => ?_, ?_, ?_,
        rfl, rfl, rfl, rfl, rfl, rfl, rfl⟩⟩
    · rw [if_pos h2]
      simp only [rootVal, h1, Bool.false_eq_true, if_false, Claims.accVal]
      cases add <;> rfl
    · rcases h with h | h
      · simp only [rootVal, h, if_true]
        exact ite_self _
      · rw [h]
        rfl
    · exact congrArg (orFlags _ ||| root.2 ||| r.2.2 ||| ·) (flags_of_seen r.1.seen (rootCode x sc (rootVal add int r)))
    · exact congrArg (BitVec.ofNat 512) (code_of_seen r.1.seen (rootCode x sc (rootVal add int r)) _)

/-- The root taken in by an exact reduction, which never poisons what it holds. -/
theorem rootTaken_pick (g : Num → Num → Num × BitVec 8) (int : Bool) (x : Elem) (root : Option Val) :
    rootTaken (Val.map2 g) false int x root = (match root with
      | none => (Claims.accAt x 0, (x.run.head?).join, 0)
      | some .poison => ({ Claims.accAt x 0 with seen := true, poison := true }, (x.run.head?).join, 0)
      | some (.num y) => match (x.run.head?).join with
        | none => ({ Claims.accAt x 0 with seen := true }, some y, 0)
        | some z => ({ Claims.accAt x 0 with seen := true }, some (g z y).1, (g z y).2)) := by
  rcases root with _ | _ | _ <;> rfl

theorem reduces : Claims.Reduces := by
  intro s p e opc n i he hl hr hi hn x int leaf comb root a old took r sc
  simp only [List.mem_cons, List.not_mem_nil, or_false, Prod.mk.injEq] at hi
  rcases hi with ⟨rfl, rfl⟩ | ⟨rfl, rfl⟩ | ⟨rfl, rfl⟩
  · have hfire := fires_reducePlan (plan := rsumPlan) (s := s) (p := p) (e := e) rfl (List.mem_of_getElem? (i := 41) rfl) he hl hr hn
    have hrt : r = rootTaken comb true int x root.1 := by
      dsimp only [r, rootTaken]
      rcases root.1 with _ | _ | _ <;> rfl
    clear_value r
    subst hrt
    exact hfire
  · have hfire := fires_reducePlan (plan := rmaxPlan) (s := s) (p := p) (e := e) rfl (List.mem_of_getElem? (i := 42) rfl) he hl hr hn
    have hrt : r = rootTaken comb false false x root.1 := by
      refine Eq.trans ?_ (rootTaken_pick (pickV true false) false x root.1).symm
      dsimp only [r]
      rcases root.1 with _ | _ | _ <;> rfl
    clear_value r
    subst hrt
    exact hfire
  · have hfire := fires_reducePlan (plan := rminPlan) (s := s) (p := p) (e := e) rfl (List.mem_of_getElem? (i := 43) rfl) he hl hr hn
    have hrt : r = rootTaken comb false false x root.1 := by
      refine Eq.trans ?_ (rootTaken_pick (pickV false false) false x root.1).symm
      dsimp only [r]
      rcases root.1 with _ | _ | _ <;> rfl
    clear_value r
    subst hrt
    exact hfire

end Sys2Proof
end


section
/-! SUPPORT. Block quantisation (R198, R199); O44. -/

namespace Sys2Proof

open Sys2Proof.Machine Sys2Proof.Claims

/-! ### Values that a token holds -/

/-- A decoded number is a NaN, an infinity, or finite. -/
def Num.sound (x : Num) : Prop := ∀ g n d, x = .fin g n d → d ≠ 0

theorem sound_of_is {x : Num} {g : Bool} {v : Rat} (h : Claims.Is x g v) : x.sound := by
  rintro g' n d rfl
  exact (is_fin_iff.1 h).2.1

theorem sound_scale {x : Num} (h : x.sound) (e : Int) : (x.scale e).sound := by
  match x, h with
  | .nan _, _ => exact fun _ _ _ h => Num.noConfusion h
  | .inf _, _ => exact fun _ _ _ h => Num.noConfusion h
  | .fin g n d, h => exact sound_of_is (is_scale e (is_fraction (g := g) (n := n) (h g n d rfl)))

theorem sound_decode (k : FloatFmt) (c : Nat) : (k.decode c).sound := by
  have hm (g : Bool) (i : Nat) : (k.mag g i).sound := by
    unfold FloatFmt.mag
    dsimp only
    split
    · exact sound_of_is (is_pow2 ..)
    · exact sound_of_is (is_pow2 ..)
  have hn (s : Bool) : (Num.nan s).sound := fun _ _ _ h => Num.noConfusion h
  have hi (g : Bool) : (Num.inf g).sound := fun _ _ _ h => Num.noConfusion h
  unfold FloatFmt.decode
  dsimp only
  generalize (if k.signed = true then c % 2 ^ (k.width - 1) else c) = idx
  split
  · split
    · exact hn _
    · split
      · exact hi _
      · exact hm _ _
  · split
    · exact hm _ _
    · split
      · exact hi _
      · exact hn _

theorem sound_decodeVal {f s : BitVec 8} {stored : Bool} {raw : Nat} {x : Num}
    (h : (decodeVal f s stored raw).1 = .num x) : x.sound := by
  unfold decodeVal at h
  split at h
  · obtain rfl := Val.num.inj h
    exact sound_of_is (is_fraction one_ne_zero)
  · split at h
    · exact Val.noConfusion h
    · split at h
      · dsimp only at h
        split at h
        · obtain rfl := Val.num.inj h
          exact fun _ _ _ h => Num.noConfusion h
        · obtain rfl := Val.num.inj h
          exact sound_scale (sound_decode _ _) _
      · obtain rfl := Val.num.inj h
        split
        · exact sound_of_is (is_ofInt _)
        · exact sound_scale (sound_of_is (is_ofInt _)) _

/-- A NaN made quiet. -/
def Num.quiet (x : Num) : Num := if x.isNan then .nan false else x

/-- A value, a NaN made quiet. -/
def quietVal : Val → Val
  | .num n => .num n.quiet
  | .poison => .poison

theorem heldArg_eq (x : Elem) (t : Token) (d : Desc) (sl : Nat) :
    heldArg x t d sl = (Claims.heldVal x t d sl).map fun v => (quietVal v, 0) := by
  unfold heldArg Claims.heldVal
  split
  · rw [Option.map_some, show x.slotW = 32 / x.pack from rfl]
    rcases (decodeVal (fmtOf d) (scaleOf d) false (slotBits t.data (32 / x.pack) sl)).1 with (_ | _ | _) | _ <;> rfl
  · rfl

theorem heldArg_none {x : Elem} {t : Token} {d : Desc} {sl : Nat} (h : Claims.heldVal x t d sl = none) :
    heldArg x t d sl = none := by rw [heldArg_eq, h, Option.map_none]

theorem heldArg_num {x : Elem} {t : Token} {d : Desc} {sl : Nat} {w : Num} (h : Claims.heldVal x t d sl = some (.num w)) :
    heldArg x t d sl = some (.num w.quiet, 0) := by rw [heldArg_eq, h, Option.map_some, quietVal]

theorem quiet_of_not_nan {x : Num} (h : x.isNan = false) : x.quiet = x := by simp [Num.quiet, h]

/-! ### The values of a burst -/

/-- A held token's slot holds a value. -/
def Held (x : Elem) (l : List (Token × Desc)) (v : Val) : Prop :=
  ∃ z ∈ l, ∃ sl, sl < 16 * x.pack ∧ Claims.heldVal x z.1 z.2 sl = some v

/-- The values of a burst, its NaNs quiet. -/
def heldVals (x : Elem) (l : List (Token × Desc)) : List (Val × BitVec 8) :=
  l.flatMap fun z => (List.range (16 * x.pack)).filterMap (heldArg x z.1 z.2)

/-- The numbers among values. -/
def burstNums (l : List (Val × BitVec 8)) : List Num :=
  l.filterMap fun v => match v.1 with
    | .num y => some y
    | .poison => none

/-- The magnitudes of the finite numbers that are not zero. -/
def finiteMags (l : List Num) : List Num :=
  l.filterMap fun y => match y with
    | .fin _ a b => if a = 0 then none else some (Num.fin false a b)
    | _ => none

/-- The larger of two magnitudes. -/
def largerMag (a b : Num) : Num := if a.lt b then b else a

/-- The scale of a burst that is not all NaN. -/
def burstScale (x : Elem) (mags : List Num) : Nat :=
  match mags with
  | [] => x.tscale
  | m :: t =>
    match t.foldl largerMag m with
    | .fin _ a b => (max 0 (min 254 (127 + floorLog2 a b - fmtEmax x.tfmt))).toNat
    | _ => x.tscale

/-- Every value of a burst is a NaN, poison aside. -/
def burstNan (x : Elem) (l : List (Token × Desc)) : Bool := !(heldVals x l).isEmpty && (burstNums (heldVals x l)).all Num.isNan

/-- The burst holds POISON. -/
def burstPoisoned (x : Elem) (l : List (Token × Desc)) : Bool := (heldVals x l).any fun v => decide (v.1 = .poison)

/-- The scale that BQ chooses. -/
def chosenScale (x : Elem) (l : List (Token × Desc)) : Nat :=
  if burstNan x l then 255 else burstScale x (finiteMags (burstNums (heldVals x l)))

/-- The conversion of a burst's values. -/
def burstConv (x : Elem) (l : List (Token × Desc)) (v : Num) : Nat × BitVec 8 :=
  if burstNan x l then (0, 0) else convert v x.tfmt (chosenScale x l) x.rm x.ovr

/-- A token that BQ emits, before the SCALE token is put before the first one, and the flags of its conversion. -/
def burstToken (x : Elem) (l : List (Token × Desc)) (z : Token × Desc) : OutTok × BitVec 8 :=
  if burstPoisoned x l then (⟨0, z.1.valid, z.1.rank, some descPoison, l.length - 1, z.1.valid, false, []⟩, 0)
  else
    let r := x.laneToken (x.outDesc (chosenScale x l)) (fun k => heldArg x z.1 z.2 k) (burstConv x l)
    ({ r.1 with rank := z.1.rank, blen := l.length - 1, bad := 0, pois := false }, r.2)

/-- The tokens of a burst, a SCALE token before the first. -/
def withHead (head : Token) (l : List (OutTok × BitVec 8)) : List OutTok :=
  match l with
  | [] => []
  | a :: t => { a.1 with before := [head] } :: t.map Prod.fst

theorem bqBurst_eq (x : Elem) (l : List (Token × Desc)) :
    bqBurst x l = (let d := if burstPoisoned x l then descPoison else x.outDesc (chosenScale x l)
      (withHead (scaleToken (fmtOf d) (scaleOf d) (l.length - 1)) (l.map (burstToken x l)),
        orFlags ((l.map (burstToken x l)).map Prod.snd))) := by
  have htok (z : Token × Desc) : burstToken x l z = if burstPoisoned x l then
      ((⟨0, z.1.valid, z.1.rank, some (if burstPoisoned x l then descPoison else x.outDesc (chosenScale x l)), l.length - 1,
        z.1.valid, false, []⟩ : OutTok), (0 : BitVec 8))
    else
      let r := x.laneToken (if burstPoisoned x l then descPoison else x.outDesc (chosenScale x l)) (fun k => heldArg x z.1 z.2 k)
        (fun v => if burstNan x l then (0, 0) else convert v x.tfmt (chosenScale x l) x.rm x.ovr)
      ({ r.1 with rank := z.1.rank, blen := l.length - 1, bad := 0, pois := false }, r.2) := by
    unfold burstToken
    split <;> rfl
  rw [funext htok]
  rfl

theorem mem_heldVals {x : Elem} {l : List (Token × Desc)} {w : Val × BitVec 8} :
    w ∈ heldVals x l ↔ ∃ v, Held x l v ∧ w = (quietVal v, 0) := by
  simp only [heldVals, List.mem_flatMap, List.mem_filterMap, List.mem_range, heldArg_eq, Option.map_eq_some_iff, Held]
  constructor
  · rintro ⟨z, hz, sl, hsl, v, hv, rfl⟩
    exact ⟨v, ⟨z, hz, sl, hsl, hv⟩, rfl⟩
  · rintro ⟨v, ⟨z, hz, sl, hsl, hv⟩, rfl⟩
    exact ⟨z, hz, sl, hsl, v, hv, rfl⟩

theorem mem_numsOf {x : Elem} {l : List (Token × Desc)} {n : Num} :
    n ∈ burstNums (heldVals x l) ↔ ∃ m, Held x l (.num m) ∧ n = m.quiet := by
  simp only [burstNums, List.mem_filterMap, mem_heldVals]
  constructor
  · rintro ⟨w, ⟨v, hv, rfl⟩, hn⟩
    cases v with
    | num m => exact ⟨m, hv, (Option.some.inj hn).symm⟩
    | poison => exact absurd hn.symm (Option.some_ne_none n)
  · rintro ⟨m, hm, rfl⟩
    exact ⟨(.num m.quiet, 0), ⟨.num m, hm, rfl⟩, rfl⟩

theorem burstPoisoned_iff {x : Elem} {l : List (Token × Desc)} : burstPoisoned x l = true ↔ Held x l .poison := by
  simp only [burstPoisoned, List.any_eq_true, decide_eq_true_eq]
  constructor
  · rintro ⟨w, hw, hp⟩
    obtain ⟨v, hv, rfl⟩ := mem_heldVals.1 hw
    cases v with
    | num m => exact Val.noConfusion (hp : Val.num m.quiet = .poison)
    | poison => exact hv
  · exact fun h => ⟨(.poison, 0), mem_heldVals.2 ⟨.poison, h, rfl⟩, rfl⟩

theorem quiet_isNan (n : Num) : n.quiet.isNan = n.isNan := by
  cases n <;> rfl

theorem burstNan_iff {x : Elem} {l : List (Token × Desc)} (hp : ¬ Held x l .poison) :
    burstNan x l = true ↔ (∃ v, Held x l v) ∧ ∀ v, Held x l v → ∃ sig, v = .num (.nan sig) := by
  have hempty : (!(heldVals x l).isEmpty) = true ↔ ∃ v, Held x l v := by
    rw [Bool.not_eq_true', List.isEmpty_eq_false_iff_exists_mem]
    constructor
    · rintro ⟨w, hw⟩
      obtain ⟨v, hv, -⟩ := mem_heldVals.1 hw
      exact ⟨v, hv⟩
    · rintro ⟨v, hv⟩
      exact ⟨(quietVal v, 0), mem_heldVals.2 ⟨v, hv, rfl⟩⟩
  rw [burstNan, Bool.and_eq_true, hempty, List.all_eq_true]
  refine and_congr_right fun _ => ⟨fun h v hv => ?_, fun h n hn => ?_⟩
  · cases v with
    | poison => exact absurd hv hp
    | num n =>
      have hn := h _ (mem_numsOf.2 ⟨n, hv, rfl⟩)
      rw [quiet_isNan] at hn
      match n, hn with
      | .nan sig, _ => exact ⟨sig, rfl⟩
  · obtain ⟨m, hm, rfl⟩ := mem_numsOf.1 hn
    obtain ⟨sig, hs⟩ := h _ hm
    rw [Val.num.inj hs]
    rfl

/-! ### The scale of a burst (R199) -/

/-- The value of a finite magnitude. -/
def magVal : Num → Rat
  | .fin _ n d => (n : Rat) / d
  | _ => 0

/-- A magnitude that is not zero. -/
def Magnitude (y : Num) : Prop := ∃ a b, y = .fin false a b ∧ a ≠ 0 ∧ b ≠ 0

theorem mem_finiteMags {x : Elem} {l : List (Token × Desc)} {y : Num} :
    y ∈ finiteMags (burstNums (heldVals x l)) ↔ ∃ g a b, Held x l (.num (.fin g a b)) ∧ a ≠ 0 ∧ y = .fin false a b := by
  simp only [finiteMags, List.mem_filterMap, mem_numsOf]
  constructor
  · rintro ⟨n, ⟨m, hm, rfl⟩, hy⟩
    match m, hm, hy with
    | .fin g a b, hm, hy =>
      rw [quiet_of_not_nan rfl] at hy
      dsimp only at hy
      split at hy
      · cases hy
      · exact ⟨g, a, b, hm, by assumption, (Option.some.inj hy).symm⟩
    | .nan _, _, hy => cases hy
    | .inf _, _, hy => cases hy
  · rintro ⟨g, a, b, hm, ha, rfl⟩
    exact ⟨.fin g a b, ⟨_, hm, (quiet_of_not_nan rfl).symm⟩, if_neg ha⟩

theorem held_sound {x : Elem} {l : List (Token × Desc)} {n : Num} (h : Held x l (.num n)) : n.sound := by
  obtain ⟨z, -, sl, -, hv⟩ := h
  unfold Claims.heldVal at hv
  split at hv
  · exact sound_decodeVal (Option.some.inj hv)
  · cases hv

theorem magnitude_of_mem {x : Elem} {l : List (Token × Desc)} {y : Num} (h : y ∈ finiteMags (burstNums (heldVals x l))) :
    Magnitude y := by
  obtain ⟨g, a, b, hm, ha, rfl⟩ := mem_finiteMags.1 h
  exact ⟨a, b, rfl, ha, held_sound hm g a b rfl⟩

theorem lt_iff_magVal {y z : Num} (hy : Magnitude y) (hz : Magnitude z) : y.lt z = true ↔ magVal y < magVal z := by
  obtain ⟨a, b, rfl, -, hb⟩ := hy
  obtain ⟨c, d, rfl, -, hd⟩ := hz
  have hbq : (0 : Rat) < b := by exact_mod_cast Nat.pos_of_ne_zero hb
  have hdq : (0 : Rat) < d := by exact_mod_cast Nat.pos_of_ne_zero hd
  rw [magVal, magVal, div_lt_div_iff₀ hbq hdq]
  simp only [Num.lt, Bool.false_eq_true, if_false, decide_eq_true_eq]
  exact_mod_cast Iff.rfl

theorem foldl_largerMag (t : List Num) (m : Num) (h : ∀ y ∈ m :: t, Magnitude y) :
    t.foldl largerMag m ∈ m :: t ∧ ∀ y ∈ m :: t, magVal y ≤ magVal (t.foldl largerMag m) := by
  induction t generalizing m with
  | nil => simp
  | cons z t ih =>
    have hm := h m (List.mem_cons_self ..)
    have hz := h z (List.mem_cons_of_mem _ (List.mem_cons_self ..))
    have hmax : (largerMag m z = m ∨ largerMag m z = z) ∧ magVal m ≤ magVal (largerMag m z)
        ∧ magVal z ≤ magVal (largerMag m z) := by
      unfold largerMag
      split
      case isTrue hlt => exact ⟨.inr rfl, ((lt_iff_magVal hm hz).1 hlt).le, le_rfl⟩
      case isFalse hlt => exact ⟨.inl rfl, le_rfl, not_lt.1 (mt (lt_iff_magVal hm hz).2 hlt)⟩
    obtain ⟨he, h1, h2⟩ := hmax
    obtain ⟨hmem, hle⟩ := ih (largerMag m z) (by
      intro y hy
      rcases List.mem_cons.1 hy with rfl | hy
      · rcases he with he | he <;> rw [he]
        · exact hm
        · exact hz
      · exact h y (List.mem_cons_of_mem _ (List.mem_cons_of_mem _ hy)))
    rw [List.foldl_cons]
    have htop := hle _ (List.mem_cons_self ..)
    refine ⟨?_, fun y hy => ?_⟩
    · rcases List.mem_cons.1 hmem with hr | hr
      · rw [hr]
        rcases he with he | he <;> simp [he]
      · exact List.mem_cons_of_mem _ (List.mem_cons_of_mem _ hr)
    · rcases List.mem_cons.1 hy with rfl | hy
      · exact h1.trans htop
      · rcases List.mem_cons.1 hy with rfl | hy
        · exact h2.trans htop
        · exact hle y (List.mem_cons_of_mem _ hy)

/-- The binade of a positive number is one. -/
theorem binade_unique {v : Rat} {a b : Int} (ha : (2 : Rat) ^ a ≤ v) (ha' : v < 2 ^ (a + 1)) (hb : (2 : Rat) ^ b ≤ v)
    (hb' : v < 2 ^ (b + 1)) : a = b := by
  have h1 : a < b + 1 := (zpow_lt_zpow_iff_right₀ one_lt_two).1 (ha.trans_lt hb')
  have h2 : b < a + 1 := (zpow_lt_zpow_iff_right₀ one_lt_two).1 (hb.trans_lt ha')
  omega

theorem floorLog2_of_binade {n d : Nat} {v : Rat} {a : Int} (hd : d ≠ 0) (hv : v = (n : Rat) / d) (h1 : (2 : Rat) ^ a ≤ v)
    (h2 : v < 2 ^ (a + 1)) : floorLog2 n d = a := by
  have hn : n ≠ 0 := by
    rintro rfl
    have : (0 : Rat) < 2 ^ a := by positivity
    rw [hv] at h1
    simp at h1
    linarith
  obtain ⟨h3, h4⟩ := floorLog2_spec hn hd
  rw [← hv] at h3 h4
  exact binade_unique h3 h4 h1 h2

/-- The top binade of a floating format (R199). -/
theorem fmtEmax_of_floats {f p : Nat} {bias : Int} {w : Nat} {signed inf : Bool} {top nan : Nat}
    (hf : (f, p, bias, w, signed, inf, top, nan) ∈ Claims.floats) {E : Int} (h1 : (2 : Rat) ^ E ≤ Claims.magnitude p bias top)
    (h2 : Claims.magnitude p bias top < (2 : Rat) ^ (E + 1)) : fmtEmax (BitVec.ofNat 8 f) = E := by
  obtain ⟨hfmt, -, -, -⟩ := floats_table _ hf
  dsimp only at hfmt
  obtain ⟨n, d, hm, hd, hv⟩ := is_mag (k := rowFmt (f, p, bias, w, signed, inf, top, nan)) (bias := bias) rfl false top
  have hm' : (rowFmt (f, p, bias, w, signed, inf, top, nan)).mag false (rowFmt (f, p, bias, w, signed, inf, top, nan)).top
      = .fin false n d := hm
  simp only [fmtEmax, hfmt, hm']
  refine floorLog2_of_binade hd ?_ h1 h2
  rw [hv, mul_div_cancel_right₀ _ (by exact_mod_cast hd)]
  rfl

theorem blockScale_chosenScale {x : Elem} {l : List (Token × Desc)} (hp : ¬ Held x l .poison) :
    Claims.BlockScale x (Held x l) (chosenScale x l) := by
  refine ⟨fun h => if_pos ((burstNan_iff hp).2 h), fun hn h0 => ?_, fun n g m hn hm hm0 hmax a E h1 h2 hE => ?_⟩
  · rw [chosenScale, if_neg (mt (burstNan_iff hp).1 hn)]
    have hnil : finiteMags (burstNums (heldVals x l)) = [] := by
      refine List.eq_nil_iff_forall_not_mem.2 fun y hy => ?_
      obtain ⟨g, a, b, hh, ha, -⟩ := mem_finiteMags.1 hy
      have hb := held_sound hh g a b rfl
      have hz := h0 _ _ _ hh (is_fraction hb)
      rw [div_eq_zero_iff] at hz
      rcases hz with hz | hz
      · exact ha (by exact_mod_cast hz)
      · exact hb (by exact_mod_cast hz)
    rw [hnil]
    rfl
  · have hnn : ¬ burstNan x l = true := by
      rw [burstNan_iff hp]
      rintro ⟨-, h⟩
      obtain ⟨sig, hs⟩ := h _ hn
      rw [Val.num.inj hs] at hm
      exact not_is_nan hm
    obtain ⟨a', b', rfl, hb', hv⟩ := id hm
    have hval : m = (a' : Rat) / b' := (is_fin_iff.1 hm).2.2
    have ha' : a' ≠ 0 := by
      rintro rfl
      exact hm0 (by simp [hval])
    have hmem : Num.fin false a' b' ∈ finiteMags (burstNums (heldVals x l)) := mem_finiteMags.2 ⟨g, a', b', hn, ha', rfl⟩
    rw [chosenScale, if_neg hnn]
    cases hl : finiteMags (burstNums (heldVals x l)) with
    | nil =>
      rw [hl] at hmem
      cases hmem
    | cons z t =>
      have hall : ∀ y ∈ z :: t, Magnitude y := fun y hy => magnitude_of_mem (hl ▸ hy)
      obtain ⟨htop, hle⟩ := foldl_largerMag t z hall
      have hge := hle _ (hl ▸ hmem)
      obtain ⟨g2, c, d, hh, hc, hr⟩ := mem_finiteMags.1 (hl ▸ htop)
      have hd := held_sound hh g2 c d rfl
      have hle' := hmax _ _ _ hh (is_fraction hd)
      rw [hr] at hge
      have heq : m = (c : Rat) / d := le_antisymm (hval.trans_le hge) hle'
      obtain ⟨f, p, bias, w, signed, inf, top, nan, hf, htf, hE1, hE2⟩ := hE
      simp only [burstScale, hr, htf, fmtEmax_of_floats hf hE1 hE2, floorLog2_of_binade hd heq h1 h2]

/-! ### The tokens of a burst (R198) -/

theorem burstConv_number {x : Elem} {l : List (Token × Desc)} (h : ¬ burstNan x l = true) (v : Num) :
    burstConv x l v = convert v x.tfmt (chosenScale x l) x.rm x.ovr := if_neg h

theorem burstConv_nan {x : Elem} {l : List (Token × Desc)} (h : burstNan x l = true) (v : Num) :
    burstConv x l v = (0, 0) := if_pos h

/-- The lanes of a token that BQ holds, after the switch of a mode or without one. -/
theorem heldVal_valid {x : Elem} {k : Token} {d : Desc} {l j : Nat} (hj : j < x.pack) :
    Claims.heldVal x k d (l * x.pack + j) = if k.valid.getLsbD l then
      some (decodeVal (fmtOf d) (scaleOf d) false (slotBits k.data (32 / x.pack) (l * x.pack + j))).1 else none := by
  have hl : (l * x.pack + j) / x.pack = l := by
    rw [Nat.mul_comm, Nat.mul_add_div (by omega), Nat.div_eq_of_lt hj, Nat.add_zero]
  rw [Claims.heldVal, hl]

theorem pack_pos (x : Elem) : 0 < x.pack := by
  rcases x.pack_cases with h | h | h <;> omega

theorem slotBits_of_lane_zero {d : Data} {p w l j : Nat} (hpw : p * w = 32) (hj : j < p) (h : lane d l = 0) :
    slotBits d w (l * p + j) = 0 := by
  refine Nat.eq_of_testBit_eq fun i => ?_
  rw [testBit_slotBits, Nat.zero_testBit]
  by_cases hi : i < w
  · have hidx : w * (l * p + j) + i = 32 * l + (w * j + i) := by rw [← hpw]; ring
    have hlt : w * j + i < 32 := by
      calc w * j + i < w * j + w := by omega
        _ = (j + 1) * w := by ring
        _ ≤ p * w := Nat.mul_le_mul_right _ hj
        _ = 32 := hpw
    have hb := getLsbD_lane d l (w * j + i)
    rw [h, decide_eq_true hlt, Bool.true_and, ← hidx] at hb
    rw [← hb]
    simp
  · simp [hi]

/-- What a token of a burst without POISON becomes. -/
theorem burstToken_computed {x : Elem} {l : List (Token × Desc)} (hp : ¬ Held x l .poison) {z : Token × Desc} (hz : z ∈ l) :
    let o := (burstToken x l z).1
    o.valid = z.1.valid ∧ o.rank = z.1.rank ∧ o.blen = l.length - 1 ∧ o.pois = false
    ∧ o.desc = some (mkDesc (BitVec.ofNat 8 (chosenScale x l)) x.tfmt) ∧ o.bad = 0 ∧ o.before = []
    ∧ (∀ sl, sl < 16 * x.pack → (Claims.heldVal x z.1 z.2 sl = none → slotBits o.data (32 / x.pack) sl = 0)
      ∧ ∀ w, Claims.heldVal x z.1 z.2 sl = some (.num w) →
        slotBits o.data (32 / x.pack) sl = (burstConv x l w.quiet).1 % 2 ^ (32 / x.pack))
    ∧ ∀ b, b < 8 → ((burstToken x l z).2.getLsbD b = true ↔ ∃ sl w, sl < 16 * x.pack
      ∧ Claims.heldVal x z.1 z.2 sl = some (.num w) ∧ (burstConv x l w.quiet).2.getLsbD b = true) := by
  have hpp := pack_pos x
  have htok : burstToken x l z = ({ (x.laneToken (x.outDesc (chosenScale x l)) (fun k => heldArg x z.1 z.2 k) (burstConv x l)).1 with
      rank := z.1.rank, blen := l.length - 1, bad := 0, pois := false },
      (x.laneToken (x.outDesc (chosenScale x l)) (fun k => heldArg x z.1 z.2 k) (burstConv x l)).2) :=
    if_neg (mt burstPoisoned_iff.1 hp)
  obtain ⟨-, hdesc, -, hbefore, hlane, -, hslot, hfl⟩ :=
    laneOut_laneToken x (x.outDesc (chosenScale x l)) (fun k => heldArg x z.1 z.2 k) (burstConv x l)
  rw [htok]
  generalize x.laneToken (x.outDesc (chosenScale x l)) (fun k => heldArg x z.1 z.2 k) (burstConv x l) = r at *
  have hok (n : Nat) : (∀ j, j < x.pack → heldArg x z.1 z.2 (n * x.pack + j) ≠ none) ↔ z.1.valid.getLsbD n = true := by
    constructor
    · intro h
      have h0 := h 0 hpp
      rw [heldArg_eq, heldVal_valid hpp] at h0
      by_contra hn
      simp [hn] at h0
    · intro h j hj
      rw [heldArg_eq, heldVal_valid hj, if_pos h]
      simp
  have hnb (sl : Nat) (hsl : sl < 16 * x.pack) (g : BitVec 8) : heldArg x z.1 z.2 sl ≠ some (.poison, g) := by
    intro h
    rw [heldArg_eq, Option.map_eq_some_iff] at h
    obtain ⟨v, hv, he⟩ := h
    cases v with
    | num n => cases he
    | poison => exact hp ⟨z, hz, sl, hsl, hv⟩
  have hlt (n j : Nat) (hn : n < 16) (hj : j < x.pack) : n * x.pack + j < 16 * x.pack := by
    calc n * x.pack + j < n * x.pack + x.pack := by omega
      _ = (n + 1) * x.pack := by ring
      _ ≤ 16 * x.pack := Nat.mul_le_mul_right _ hn
  refine ⟨?_, rfl, rfl, rfl, hdesc, rfl, hbefore, fun sl hsl => ?_, fun b hb => ?_⟩
  · refine BitVec.eq_of_getLsbD_eq fun n hn => Bool.eq_iff_iff.2 ?_
    exact (hlane n hn).1.trans (hok n)
  · obtain ⟨n, j, hn, hj, rfl⟩ : ∃ n j, n < 16 ∧ j < x.pack ∧ sl = n * x.pack + j :=
      ⟨sl / x.pack, sl % x.pack, by rwa [Nat.div_lt_iff_lt_mul hpp], Nat.mod_lt _ hpp, by rw [Nat.mul_comm, Nat.div_add_mod]⟩
    refine ⟨fun hv => ?_, fun w hw => ?_⟩
    · refine slotBits_of_lane_zero x.pack_mul_slotW hj ((hlane n hn).2.2 fun h => ?_)
      exact h j hj (heldArg_none hv)
    · have hv : z.1.valid.getLsbD n = true := by
        rw [heldVal_valid hj] at hw
        by_contra hc
        rw [if_neg hc] at hw
        cases hw
      refine hslot n j w.quiet 0 hn hj ((hok n).2 hv) ?_ ?_
      · rintro ⟨i, g, hi, hg⟩
        exact hnb _ (hlt n i hn hi) g hg
      · exact heldArg_num hw
  · rw [hfl b hb]
    constructor
    · rintro ⟨n, j, v, g, hn, hj, -, hv, hg⟩
      obtain ⟨u, hu, he⟩ := Option.map_eq_some_iff.1 ((heldArg_eq ..).symm.trans hv)
      obtain ⟨rfl, rfl⟩ := Prod.mk.inj he
      cases u with
      | poison => exact absurd ⟨z, hz, _, hlt n j hn hj, hu⟩ hp
      | num w =>
        refine ⟨_, w, hlt n j hn hj, hu, ?_⟩
        rcases hg with hg | ⟨m, hm, hg⟩
        · simp at hg
        · rwa [← Val.num.inj hm] at hg
    · rintro ⟨sl, w, hsl, hw, hg⟩
      obtain ⟨n, j, hn, hj, rfl⟩ : ∃ n j, n < 16 ∧ j < x.pack ∧ sl = n * x.pack + j :=
        ⟨sl / x.pack, sl % x.pack, by rwa [Nat.div_lt_iff_lt_mul hpp], Nat.mod_lt _ hpp, by rw [Nat.mul_comm, Nat.div_add_mod]⟩
      have hv : z.1.valid.getLsbD n = true := by
        rw [heldVal_valid hj] at hw
        by_contra hc
        rw [if_neg hc] at hw
        cases hw
      exact ⟨n, j, .num w.quiet, 0, hn, hj, (hok n).2 hv, heldArg_num hw, .inr ⟨_, rfl, hg⟩⟩

theorem burstToken_poisoned {x : Elem} {l : List (Token × Desc)} (hp : Held x l .poison) (z : Token × Desc) :
    burstToken x l z = (⟨0, z.1.valid, z.1.rank, some descPoison, l.length - 1, z.1.valid, false, []⟩, 0) :=
  if_pos (burstPoisoned_iff.2 hp)

theorem length_withHead (head : Token) (l : List (OutTok × BitVec 8)) : (withHead head l).length = l.length := by
  cases l <;> simp [withHead]

theorem getElem?_withHead (head : Token) (l : List (OutTok × BitVec 8)) (j : Nat) : (withHead head l)[j]? = (l[j]?).map fun a =>
    if j = 0 then { a.1 with before := [head] } else a.1 := by
  cases l with
  | nil => simp [withHead]
  | cons a t => cases j <;> simp [withHead]

/-- A token of the burst as it stands in it. -/
theorem getElem?_withHead_of {x : Elem} {l : List (Token × Desc)} {z : Token × Desc} {j : Nat} (head : Token) (hz : l[j]? = some z)
    (hb : (burstToken x l z).1.before = []) : (withHead head (l.map (burstToken x l)))[j]? = some { (burstToken x l z).1 with
      before := if j = 0 then [head] else [] } := by
  rw [getElem?_withHead, List.getElem?_map, hz, Option.map_some, Option.map_some]
  by_cases hj : j = 0
  · rw [if_pos hj, if_pos hj]
  · rw [if_neg hj, if_neg hj, ← hb]

theorem eq_zero_of_bits {fl : BitVec 8} (h : ∀ b, b < 8 → ¬ fl.getLsbD b = true) : fl = 0 :=
  BitVec.eq_of_getLsbD_eq fun b hb => by
    rw [Bool.eq_false_iff.2 (h b hb)]
    simp

/-! ### The firing -/

theorem bqPlan_refused {pg : Page} {e : Nat} (hr : (pg.elem e).ready = true) (hy : (pg.elem e).sideSwitch = none) :
    bqPlan pg e = .fail 0x03 := by
  simp only [bqPlan, hr, Bool.not_true, Bool.false_eq_true, if_false, hy]

/-- The tokens that BQ holds with the one it takes. -/
def bqHeld (x : Elem) : List Token := x.held ++ [x.tok 0]

/-- Their descriptors, as BQ keeps them. -/
def bqWords (x : Elem) : List Word := x.words ++ [(x.inDesc 0 x.slotW (x.tok 0)).zeroExtend 64]

/-- The tokens and descriptors of BQ's burst. -/
def bqPairs (x : Elem) : List (Token × Desc) := (bqHeld x).zip ((bqWords x).map fun d => BitVec.ofNat 16 d.toNat)

theorem bqPlan_eq {pg : Page} {e : Nat} {x y : Elem} {ate : Bool} (hx : pg.elem e = x) (hr : x.ready = true)
    (hy : x.sideSwitch = some (ate, y)) :
    let fl := y.amaxToken.2 ||| bqFlags y (y.tok 0) (y.inDesc 0 y.slotW (y.tok 0))
    let mets := [(4, slotsValid y (y.tok 0))]
    let r := bqBurst y (bqPairs y)
    bqPlan pg e = if (bqHeld y).length ≤ y.burst ∧ (y.emit = 0 ∨ (y.tok 0).rank.toNat < y.emit) then
        .fire { Fire.of (1 + if ate then 8 else 0) { y with held := bqHeld y, words := bqWords y, amax := y.amaxToken.1 } [] with
          fl := fl, mets := mets }
      else .fire { Fire.of (1 + if ate then 8 else 0) { y with held := [], words := [], amax := y.amaxToken.1 } r.1 with
        fl := fl ||| r.2, mets := mets } := by
  intro fl mets r
  subst hx
  simp only [bqPlan, hr, Bool.not_true, Bool.false_eq_true, if_false, hy]
  rfl

/-- The flags of the values that BQ takes, as its input reads them. -/
theorem bqFlags_eq (x : Elem) : bqFlags x (x.tok 0) (x.inDesc 0 x.slotW (x.tok 0)) = orFlags ((List.range (16 * x.pack)).map fun sl =>
    match x.arg false sl 0 with
    | some (.num v, g) => g ||| (if v.isSnan then flInv else 0)
    | some (.poison, g) => g
    | none => 0) := by
  unfold bqFlags
  congr 1
  refine List.map_congr_left fun sl _ => ?_
  have harg : x.arg false sl 0 = if (x.tok 0).valid.getLsbD (sl / x.pack) then
      some (decodeVal (fmtOf (x.inDesc 0 x.slotW (x.tok 0))) (scaleOf (x.inDesc 0 x.slotW (x.tok 0))) false
        (slotBits (x.tok 0).data x.slotW sl)) else none := rfl
  rw [harg]
  cases (x.tok 0).valid.getLsbD (sl / x.pack) with
  | false => rfl
  | true =>
    simp only [if_true]
    generalize decodeVal _ _ _ _ = v
    obtain ⟨_ | _, g⟩ := v <;> rfl

theorem getElem?_zip_map {α β γ : Type} (f : β → γ) (d : β) {l : List α} {m : List β} (h : l.length = m.length) (j : Nat) :
    (l.zip (m.map f))[j]? = (l[j]?).map fun k => (k, f ((m[j]?).getD d)) := by
  by_cases hj : j < l.length
  · have hm : j < m.length := h ▸ hj
    simp [hj, hm]
  · have hm : ¬ j < m.length := h ▸ hj
    simp [hj]

/-- A ctl token changes only the mode. -/
theorem sideTaken_modeSw {x y : Elem} {eats : Nat} (h : Claims.SideTaken x y eats) : ∃ m, y = { x with modeSw := m } := by
  rcases h with ⟨-, rfl, -⟩ | ⟨-, t, -, -, -, hy, -⟩
  · exact ⟨y.modeSw, rfl⟩
  · exact ⟨_, hy⟩

/-- What BQ's burst is, token by token (R198, R199). -/
theorem bqBurst_spec (x : Elem) (l : List (Token × Desc)) :
    let S := chosenScale x l
    let some_number := ∃ v, Held x l v ∧ ∀ sig, v ≠ .num (.nan sig)
    let r := bqBurst x l
    r.1.length = l.length ∧ (¬ Held x l .poison → Claims.BlockScale x (Held x l) S)
    ∧ ∀ (j : Nat) (z : Token × Desc), l[j]? = some z → ∃ o, r.1[j]? = some o ∧ o.valid = z.1.valid ∧ o.rank = z.1.rank
      ∧ o.blen = l.length - 1 ∧ o.pois = false
      ∧ (Held x l .poison → r.2 = 0 ∧ o.desc = some descPoison ∧ o.bad = z.1.valid
          ∧ o.before = (if j = 0 then [scaleToken 0x0E#8 0x7F#8 (l.length - 1)] else []))
      ∧ (¬ Held x l .poison → o.desc = some (mkDesc (BitVec.ofNat 8 S) x.tfmt) ∧ o.bad = 0
          ∧ o.before = (if j = 0 then [scaleToken x.tfmt (BitVec.ofNat 8 S) (l.length - 1)] else [])
          ∧ (¬ some_number → r.2 = 0)
          ∧ (some_number → ∀ b, b < 8 → (r.2.getLsbD b = true ↔
              ∃ w, Held x l (.num w) ∧ (convert w.quiet x.tfmt S x.rm x.ovr).2.getLsbD b = true))
          ∧ ∀ sl, sl < 16 * x.pack → (Claims.heldVal x z.1 z.2 sl = none → slotBits o.data (32 / x.pack) sl = 0)
            ∧ ∀ w, Claims.heldVal x z.1 z.2 sl = some (.num w) →
              (some_number → slotBits o.data (32 / x.pack) sl = (convert w.quiet x.tfmt S x.rm x.ovr).1 % 2 ^ (32 / x.pack))
              ∧ (¬ some_number → slotBits o.data (32 / x.pack) sl = 0)) := by
  intro S some_number r
  have hlen : r.1.length = l.length := by
    dsimp only [r]
    rw [bqBurst_eq, length_withHead, List.length_map]
  refine ⟨hlen, blockScale_chosenScale, fun j z hz => ?_⟩
  have hmem : z ∈ l := List.mem_of_getElem? hz
  by_cases hp : Held x l .poison
  · have hb : r = (withHead (scaleToken 0x0E#8 0x7F#8 (l.length - 1)) (l.map (burstToken x l)),
        orFlags ((l.map (burstToken x l)).map Prod.snd)) := by
      dsimp only [r]
      rw [bqBurst_eq, if_pos (burstPoisoned_iff.2 hp)]
      rfl
    have hfl : r.2 = 0 := by
      rw [hb]
      refine eq_zero_of_bits fun b _ hc => ?_
      obtain ⟨v, hv, hbit⟩ := (getLsbD_orFlags _ _).1 hc
      obtain ⟨q, hq, rfl⟩ := List.mem_map.1 hv
      obtain ⟨u, -, rfl⟩ := List.mem_map.1 hq
      rw [burstToken_poisoned hp] at hbit
      simp at hbit
    have hout := getElem?_withHead_of (x := x) (scaleToken 0x0E#8 0x7F#8 (l.length - 1)) hz (by rw [burstToken_poisoned hp])
    rw [burstToken_poisoned hp] at hout
    exact ⟨_, by rw [hb]; exact hout, rfl, rfl, rfl, rfl, fun _ => ⟨hfl, rfl, rfl, rfl⟩, fun h => absurd hp h⟩
  · have hb : r = (withHead (scaleToken x.tfmt (BitVec.ofNat 8 S) (l.length - 1)) (l.map (burstToken x l)),
        orFlags ((l.map (burstToken x l)).map Prod.snd)) := by
      dsimp only [r]
      rw [bqBurst_eq, if_neg (mt burstPoisoned_iff.1 hp)]
      dsimp only [Elem.outDesc]
      rw [fmtOf_mkDesc, scaleOf_mkDesc]
    have hnumber : some_number ↔ (∃ v, Held x l v) ∧ ¬ burstNan x l = true := by
      rw [burstNan_iff hp]
      constructor
      · rintro ⟨v, hv, hn⟩
        refine ⟨⟨v, hv⟩, fun ⟨_, h⟩ => ?_⟩
        obtain ⟨sig, hs⟩ := h v hv
        exact hn sig hs
      · rintro ⟨hv, h⟩
        by_contra hc
        refine h ⟨hv, fun v hv => ?_⟩
        by_contra hs
        exact hc ⟨v, hv, fun sig he => hs ⟨sig, he⟩⟩
    have hbit (b : Nat) (hb8 : b < 8) : r.2.getLsbD b = true ↔ ∃ w, Held x l (.num w) ∧ (burstConv x l w.quiet).2.getLsbD b = true := by
      rw [hb, getLsbD_orFlags]
      constructor
      · rintro ⟨v, hv, hbit⟩
        obtain ⟨q, hq, rfl⟩ := List.mem_map.1 hv
        obtain ⟨u, hu, rfl⟩ := List.mem_map.1 hq
        obtain ⟨-, -, -, -, -, -, -, -, hfl⟩ := burstToken_computed hp hu
        obtain ⟨sl, w, hsl, hw, hg⟩ := (hfl b hb8).1 hbit
        exact ⟨w, ⟨u, hu, sl, hsl, hw⟩, hg⟩
      · rintro ⟨w, ⟨u, hu, sl, hsl, hw⟩, hg⟩
        obtain ⟨-, -, -, -, -, -, -, -, hfl⟩ := burstToken_computed hp hu
        exact ⟨_, List.mem_map.2 ⟨_, List.mem_map.2 ⟨u, hu, rfl⟩, rfl⟩, (hfl b hb8).2 ⟨sl, w, hsl, hw, hg⟩⟩
    obtain ⟨h1, h2, h3, h4, h5, h6, h7, h8, -⟩ := burstToken_computed hp hmem
    have ho : r.1[j]? = some { (burstToken x l z).1 with
        before := if j = 0 then [scaleToken x.tfmt (BitVec.ofNat 8 S) (l.length - 1)] else [] } := by
      rw [hb]
      exact getElem?_withHead_of _ hz h7
    refine ⟨_, ho, h1, h2, h3, h4, fun h => absurd h hp, fun _ => ⟨h5, h6, rfl, fun hn => ?_, fun hn b hb8 => ?_, fun sl hsl =>
      ⟨(h8 sl hsl).1, fun w hw => ⟨fun hn => ?_, fun hn => ?_⟩⟩⟩⟩
    · refine eq_zero_of_bits fun b hb8 hc => ?_
      obtain ⟨w, hw, hg⟩ := (hbit b hb8).1 hc
      have hnan : burstNan x l = true := by
        by_contra hnan
        exact hn (hnumber.2 ⟨⟨_, hw⟩, hnan⟩)
      rw [burstConv_nan hnan] at hg
      simp at hg
    · rw [hbit b hb8]
      refine exists_congr fun w => and_congr_right fun _ => ?_
      rw [burstConv_number (hnumber.1 hn).2]
    · rw [← burstConv_number (hnumber.1 hn).2]
      exact (h8 sl hsl).2 w hw
    · have hnan : burstNan x l = true := by
        by_contra hnan
        exact hn (hnumber.2 ⟨⟨_, z, hmem, sl, hsl, hw⟩, hnan⟩)
      have hs := (h8 sl hsl).2 w hw
      rw [burstConv_nan hnan, Nat.zero_mod] at hs
      exact hs

theorem quantises : Claims.Quantises := by
  intro s p e he hl hr x hlen
  have hmem : (Instr.bq p e, 0x49, bqPlan) ∈ Claims.Firings p e := List.mem_of_getElem? (i := 37) rfl
  refine ⟨fun hn t ht hbad => exec_of_fail hmem he hl (bqPlan_refused hr (sideSwitch_refused hn ht hbad)), fun hok => ?_⟩
  obtain ⟨ate, y, hy, hside⟩ := sideSwitch_taken hok
  have hplan := bqPlan_eq (pg := s.page p) (e := e) (x := x) rfl hr hy
  refine ⟨y, _, hside, ?_⟩
  obtain ⟨mode, hmode⟩ := sideTaken_modeSw hside
  intro t d held words desc val holds quiet n some_number
  have ht : y.tok 0 = t := by rw [hmode]; rfl
  have hheld : bqHeld y = held := by rw [hmode]; rfl
  have hwords : bqWords y = words := by rw [hmode]; rfl
  have hpack : y.pack = x.pack := by rw [hmode]; rfl
  have hval (k : Token) (dc : Desc) (sl : Nat) : Claims.heldVal y k dc sl = Claims.heldVal x k dc sl := by rw [hmode]; rfl
  have hpair (j : Nat) : (bqPairs y)[j]? = (held[j]?).map fun k => (k, desc j) := by
    rw [bqPairs, hheld, hwords, getElem?_zip_map _ 0 (by simp [held, words, hlen])]
    simp only [desc, BitVec.ofNat_toNat]
  have hholds (v : Val) : Held y (bqPairs y) v ↔ holds v := by
    simp only [Held, hval, hpack]
    constructor
    · rintro ⟨z, hz, sl, hsl, hv⟩
      obtain ⟨j, hj⟩ := List.getElem?_of_mem hz
      rw [hpair, Option.map_eq_some_iff] at hj
      obtain ⟨k, hk, rfl⟩ := hj
      refine ⟨j, sl, ?_⟩
      simp only [val, hk, if_pos hsl]
      exact hv
    · rintro ⟨j, sl, hv⟩
      dsimp only [val] at hv
      cases hk : held[j]? with
      | none =>
        rw [hk] at hv
        cases hv
      | some k =>
        rw [hk] at hv
        dsimp only at hv
        by_cases hsl : sl < 16 * x.pack
        · rw [if_pos hsl] at hv
          exact ⟨_, List.mem_of_getElem? (by rw [hpair, hk, Option.map_some]), sl, hsl, hv⟩
        · rw [if_neg hsl] at hv
          cases hv
  have hlen' : (bqPairs y).length = n := by
    have hw : held.length = words.length := by simp [held, words, hlen]
    rw [bqPairs, hheld, hwords, List.length_zip, List.length_map, ← hw, Nat.min_self]
  have hflags : bqFlags y (y.tok 0) (y.inDesc 0 y.slotW (y.tok 0)) = orFlags ((List.range (16 * x.pack)).map fun sl =>
      match x.arg false sl 0 with
      | some (.num v, g) => g ||| (if v.isSnan then flInv else 0)
      | some (.poison, g) => g
      | none => 0) := by
    rw [bqFlags_eq, hmode]
    rfl
  have hcond : ((bqHeld y).length ≤ y.burst ∧ (y.emit = 0 ∨ (y.tok 0).rank.toNat < y.emit))
      ↔ n ≤ x.burst ∧ (x.emit = 0 ∨ t.rank.toNat < x.emit) := by
    rw [hheld, ht, hmode]
    rfl
  dsimp only at hplan
  rw [hflags] at hplan
  by_cases hc : n ≤ x.burst ∧ (x.emit = 0 ∨ t.rank.toNat < x.emit)
  · rw [if_pos (hcond.2 hc), hheld, hwords] at hplan
    exact fires_of_plan hmem he hl hplan ⟨_, _, _, rfl, rfl, rfl, amax_amaxToken y, ors_orFlags _ _, fun _ => ⟨rfl, rfl, rfl⟩,
      fun h => absurd hc (by omega)⟩
  · rw [if_neg (mt hcond.1 hc)] at hplan
    obtain ⟨hl1, hscale, htok⟩ := bqBurst_spec y (bqPairs y)
    have hH : Held y (bqPairs y) = holds := funext fun v => propext (hholds v)
    rw [hH] at hscale
    rw [hlen'] at hl1
    refine fires_of_plan hmem he hl hplan ⟨_, _, _, rfl, rfl, rfl, amax_amaxToken y, ors_orFlags _ _, fun h => absurd h hc,
      fun _ => ⟨rfl, chosenScale y (bqPairs y), _, rfl, hl1, fun h => ?_, fun j k hk => ?_⟩⟩
    · have hb := hscale h
      rwa [hmode] at hb ⊢
    · obtain ⟨o, ho, h1, h2, h3, h4, h5, h6⟩ := htok j (k, desc j) (by rw [hpair, hk]; rfl)
      rw [hH, hlen'] at h5 h6
      refine ⟨o, ho, h1, h2, by rw [h3, hlen'], h4, h5, fun hp => ?_⟩
      obtain ⟨g1, g2, g3, g4, g5, g6⟩ := h6 hp
      have htf : y.tfmt = x.tfmt := by rw [hmode]; rfl
      rw [htf] at g1 g3 g5
      refine ⟨g1, g2, g3, g4, g5, fun sl hsl => ?_⟩
      have hv : val j sl = Claims.heldVal x k (desc j) sl := by
        simp only [val, hk, if_pos hsl]
      have g := g6 sl (by rw [hpack]; exact hsl)
      rw [hval, hpack, htf] at g
      rw [hv]
      exact g

/-- Settles O44: the accumulators slot by slot, the tree by its halves, and BQ's burst by the values it holds. -/
theorem accumulationValues : Obligations.AccumulationValues := ⟨accumulates, treeSums, reduces, quantises⟩

end Sys2Proof
end


section
/-! SUPPORT. Algebras and the operations on their values (R55 to R62, R218); O46. -/

namespace Sys2Proof

open Sys2Proof.Machine Sys2Proof.Claims

/-! ### The preset algebras (R60 to R62) -/

theorem presets_rows : ∀ r ∈ ([(0, 1, 0, [1]), (1, 2, 0b10, [1, 1]), (2, 2, 0b10, [1, -1]), (3, 2, 0b10, [1, 0]),
      (4, 4, 0b1110, [1, 1, 1, 1]), (5, 8, 0b11110000, [1, 1, 1, 1, 1, 1, 1, 1]),
      (6, 8, 0b01111110, [1, -1, -1, -1, 1, 1, 1, -1])] : List (Nat × Nat × Nat × List Int)),
    (preset r.1).n = r.2.1 ∧ (∀ k, k < 8 → (preset r.1).conj.testBit k = Nat.testBit r.2.2.1 k) ∧ (preset r.1).metric = r.2.2.2
      ∧ ∀ k, k < r.2.1 → (preset r.1).entry 0 k = (1, k) ∧ (preset r.1).entry k 0 = (1, k) := by decide +kernel

/-- The basis of Cl(3,0), by generators. -/
def basis3 : List (List Nat) := [[], [1], [2], [3], [1, 2], [1, 3], [2, 3], [1, 2, 3]]

/-- The basis of the even part of Cl(1,3), by generators. -/
def basis13 : List (List Nat) := [[], [0, 1], [0, 2], [0, 3], [1, 2], [1, 3], [2, 3], [0, 1, 2, 3]]

/-- The table of an algebra is that of products of generators. -/
def tableAgrees (c : Nat) (basis : List (List Nat)) (sq : Nat → Int) : Bool :=
  (List.range 8).all fun i => (List.range 8).all fun j => decide
    (((preset c).entry i j).1 = (Claims.mulGens sq ((basis[i]?).getD []) ((basis[j]?).getD [])).1
      ∧ basis[((preset c).entry i j).2]? = some (Claims.mulGens sq ((basis[i]?).getD []) ((basis[j]?).getD [])).2)

theorem entry_of_tableAgrees {c : Nat} {basis : List (List Nat)} {sq : Nat → Int} (h : tableAgrees c basis sq = true)
    (hl : basis.length = 8) {i j : Nat} {a b : List Nat} (ha : basis[i]? = some a) (hb : basis[j]? = some b) :
    ((preset c).entry i j).1 = (Claims.mulGens sq a b).1 ∧ basis[((preset c).entry i j).2]? = some (Claims.mulGens sq a b).2 := by
  obtain ⟨hi, -⟩ := List.getElem?_eq_some_iff.1 ha
  obtain ⟨hj, -⟩ := List.getElem?_eq_some_iff.1 hb
  simp only [tableAgrees, List.all_eq_true, List.mem_range, decide_eq_true_eq] at h
  have := h i (hl ▸ hi) j (hl ▸ hj)
  rwa [ha, hb, Option.getD_some, Option.getD_some] at this

theorem presets : Claims.Presets := by
  refine ⟨fun c n conj metric h => presets_rows _ h, ?_, ?_, ?_⟩
  · have h : ∀ r ∈ ([(1, -1), (2, 1), (3, 0)] : List (Nat × Int)), (preset r.1).entry 1 1 = (r.2, 0) := by decide +kernel
    exact fun c sq hc => h _ hc
  · intro i j hi
    revert j
    revert hi
    revert i
    decide +kernel
  · rintro c basis sq (⟨rfl, rfl, hs⟩ | ⟨rfl, rfl, hs⟩) i j a b ha hb
    · obtain rfl : sq = fun _ => 1 := funext hs
      exact entry_of_tableAgrees (basis := basis3) (by decide +kernel) rfl ha hb
    · obtain rfl : sq = fun g => if g = 0 then 1 else -1 := funext hs
      exact entry_of_tableAgrees (basis := basis13) (by decide +kernel) rfl ha hb

/-! ### Values with finite components (R57, R59, R218) -/

theorem real_div {x y : Num} {a b : Rat} (hx : Claims.Real x a) (hy : Claims.Real y b) (hb : b ≠ 0) :
    ∃ r, x.div y = (r, 0) ∧ Claims.Real r (a / b) := by
  obtain ⟨g, m, hm, rfl⟩ := hx
  obtain ⟨h, k, hk, rfl⟩ := hy
  have hk0 : k ≠ 0 := by
    rintro rfl
    exact hb (by cases h <;> simp [Claims.sg])
  obtain ⟨r, hr, hrk⟩ := is_div hm hk hk0
  refine ⟨r, hr, _, _, hrk, ?_⟩
  cases g <;> cases h <;> simp [Claims.sg, div_neg, neg_div]

/-- A finite number is ±0 just where its value is. -/
theorem isZero_iff_real {x : Num} {v : Rat} (h : Claims.Real x v) : x.isZero = true ↔ v = 0 := by
  obtain ⟨g, n, d, rfl, hd, rfl⟩ := real_iff.1 h
  have hdq : (d : Rat) ≠ 0 := by exact_mod_cast hd
  cases g <;> simp [Num.isZero, Claims.sg, hdq]

/-- A sign before a finite number. -/
theorem real_signed {z : Num} {v : Rat} {s : Int} (hs : s = 1 ∨ s = -1) (h : Claims.Real z v) :
    Claims.Real (if s < 0 then z.neg else z) ((s : Rat) * v) := by
  rcases hs with rfl | rfl
  · exact real_congr (by simpa using h) (by simp)
  · exact real_congr (by simpa using real_neg h) (by simp)

/-- The rational that a finite number is. -/
def realVal : Num → Rat
  | .fin g n d => Claims.sg g ((n : Rat) / d)
  | _ => 0

theorem realVal_eq {x : Num} {v : Rat} (h : Claims.Real x v) : realVal x = v := by
  obtain ⟨g, n, d, rfl, hd, rfl⟩ := real_iff.1 h
  rfl

/-- A sum of finite terms, by their values. -/
theorem real_sumNums_val {l : List (Num × BitVec 8)} (h : ∀ t ∈ l, (∃ v, Claims.Real t.1 v) ∧ t.2 = 0) :
    ∃ r, sumNums l = (r, 0) ∧ Claims.Real r (l.map fun t => realVal t.1).sum := by
  refine real_sumNums (v := fun t => realVal t.1) fun t ht => ?_
  obtain ⟨⟨v, hv⟩, h0⟩ := h t ht
  exact ⟨by rw [realVal_eq hv]; exact hv, h0⟩

theorem sum_filterMap {α β : Type} (f : α → Option β) (v : β → Rat) (l : List α) :
    ((l.filterMap f).map v).sum = (l.map fun z => ((f z).map v).getD 0).sum := by
  induction l with
  | nil => rfl
  | cons a t ih =>
    cases h : f a with
    | none => simp [List.filterMap_cons_none h, h, ih]
    | some b => simp [List.filterMap_cons_some h, h, ih]

/-- A sum over a list with its places, as a sum over the places. -/
theorem sum_zipIdx {α : Type} {l : List α} {n : Nat} (hl : l.length = n) {G : α × Nat → Rat} {H : Nat → Rat}
    (h : ∀ k z, l[k]? = some z → G (z, k) = H k) : ((l.zipIdx).map G).sum = ((List.range n).map H).sum := by
  congr 1
  refine List.ext_getElem? fun k => ?_
  rw [List.getElem?_map, List.getElem?_map, List.getElem?_zipIdx, Nat.zero_add]
  by_cases hk : k < n
  · obtain ⟨z, hz⟩ : ∃ z, l[k]? = some z := ⟨_, List.getElem?_eq_getElem (hl ▸ hk)⟩
    rw [hz, List.getElem?_range hk, Option.map_some, Option.map_some, Option.map_some, h k z hz]
  · rw [List.getElem?_eq_none (by omega), List.getElem?_eq_none (by simpa using hk)]
    rfl

/-- A term with the sign of a table or a metric. -/
theorem signed_term {z y : Num} {u v : Rat} {g : Int} (hg : g = 1 ∨ g = -1 ∨ g = 0) (hz : Claims.Real z u) (hy : Claims.Real y v) :
    let t : Option (Num × BitVec 8) := if g = 0 then none else
      some (if g < 0 then (z.mul y).1.neg else (z.mul y).1, (z.mul y).2)
    (∀ q, t = some q → (∃ w, Claims.Real q.1 w) ∧ q.2 = 0) ∧ ((t.map fun q => realVal q.1).getD 0) = (g : Rat) * u * v := by
  obtain ⟨r, hr, hv⟩ := real_mul hz hy
  intro t
  by_cases h0 : g = 0
  · subst h0
    exact ⟨fun q hq => by simp [t] at hq, by simp [t]⟩
  · have hs := real_signed (s := g) (by omega) hv
    have ht : t = some (if g < 0 then r.neg else r, 0) := by simp only [t, if_neg h0, hr]
    refine ⟨fun q hq => ?_, ?_⟩
    · rw [ht] at hq
      obtain rfl := Option.some.inj hq
      exact ⟨⟨_, hs⟩, rfl⟩
    · rw [ht, Option.map_some, Option.getD_some, realVal_eq hs]
      ring

theorem norm_spec {a : Algebra} {x : List Num} {u : Nat → Rat} (hx : x.length = a.n) (hm : a.metric.length = a.n)
    (hs : ∀ m ∈ a.metric, m = 1 ∨ m = -1 ∨ m = 0) (hu : ∀ i z, x[i]? = some z → Claims.Real z (u i)) :
    ∃ r, a.norm x = (r, 0) ∧ Claims.Real r
      ((List.range a.n).map fun k => (((a.metric[k]?).getD 0 : Int) : Rat) * u k * u k).sum := by
  have hsign (k : Nat) (hk : k < a.n) : (a.metric[k]?).getD 0 = 1 ∨ (a.metric[k]?).getD 0 = -1 ∨ (a.metric[k]?).getD 0 = 0 := by
    rw [List.getElem?_eq_getElem (hm ▸ hk), Option.getD_some]
    exact hs _ (List.getElem_mem _)
  have hlt {k : Nat} {z : Num} (hz : x[k]? = some z) : k < a.n := by
    obtain ⟨h, -⟩ := List.getElem?_eq_some_iff.1 hz
    exact hx ▸ h
  have hdef : a.norm x = sumNums ((x.zipIdx).filterMap fun z => if (a.metric[z.2]?).getD 0 = 0 then none else
      some (if (a.metric[z.2]?).getD 0 < 0 then (z.1.mul z.1).1.neg else (z.1.mul z.1).1, (z.1.mul z.1).2)) := rfl
  obtain ⟨r, hr, hv⟩ := real_sumNums_val (l := (x.zipIdx).filterMap fun z : Num × Nat => if (a.metric[z.2]?).getD 0 = 0 then none else
      some (if (a.metric[z.2]?).getD 0 < 0 then (z.1.mul z.1).1.neg else (z.1.mul z.1).1, (z.1.mul z.1).2)) (by
    intro t ht
    obtain ⟨⟨z, k⟩, hz, hf⟩ := List.mem_filterMap.1 ht
    have hzk := List.mk_mem_zipIdx_iff_getElem?.1 hz
    exact (signed_term (hsign k (hlt hzk)) (hu k z hzk) (hu k z hzk)).1 t hf)
  refine ⟨r, hdef.trans hr, real_congr hv ?_⟩
  rw [sum_filterMap]
  exact sum_zipIdx hx fun k z hz => (signed_term (hsign k (hlt hz)) (hu k z hz) (hu k z hz)).2

theorem conjOf_spec {a : Algebra} {x : List Num} {u : Nat → Rat} (hx : x.length = a.n)
    (hu : ∀ i z, x[i]? = some z → Claims.Real z (u i)) {k : Nat} (hk : k < a.n) :
    ∃ z, (a.conjOf x)[k]? = some z ∧ Claims.Real z (if a.conj.testBit k then -(u k) else u k) := by
  obtain ⟨y, hy⟩ : ∃ y, x[k]? = some y := ⟨_, List.getElem?_eq_getElem (hx ▸ hk)⟩
  refine ⟨if a.conj.testBit k then y.neg else y, ?_, ?_⟩
  · rw [Algebra.conjOf, List.getElem?_map, List.getElem?_zipIdx, hy, Nat.zero_add]
    rfl
  · split
    · exact real_neg (hu k y hy)
    · exact hu k y hy

theorem algebraValues : Claims.AlgebraValues := by
  intro a x u hx hm hs hu norm conj
  obtain ⟨r, hr, hv⟩ := norm_spec hx hm hs hu
  refine ⟨⟨r, hr, hv⟩, fun k hk => ?_⟩
  obtain ⟨z, hz, hzv⟩ := conjOf_spec hx hu hk
  have hnan : x.any Num.isNan = false := by
    rw [List.any_eq_false]
    intro y hy
    obtain ⟨i, hi⟩ := List.getElem?_of_mem hy
    simp [real_isNan (hu i y hi)]
  have hinv : a.inv x k = if r.isZero = true then (.nan false, (0 : BitVec 8) ||| flInv)
      else ((z.div r).1, (z.div r).2 ||| 0) := by
    simp only [Algebra.inv, hnan, hr, hz, real_isNan hv, Bool.false_eq_true, if_false, Option.getD_some]
  refine ⟨⟨z, hz, hzv⟩, fun h0 => ?_, fun h0 => ?_⟩
  · rw [hinv, if_pos ((isZero_iff_real hv).2 h0)]
    rfl
  · obtain ⟨q, hq, hqv⟩ := real_div hzv hv h0
    refine ⟨q, ?_, hqv⟩
    rw [hinv, if_neg (mt (isZero_iff_real hv).1 h0), hq]
    exact Prod.ext rfl BitVec.or_zero

end Sys2Proof
end


section
/-! SUPPORT. The algebra operations on lanes (R55, R57, R59, R218); O46. -/

namespace Sys2Proof.Machine

open Sys2Proof.Claims

/-! ### The components of a value -/

/-- The values read from some slots and the flags of the reads; nothing where one is missing. -/
def gathered (vs : List (Option (Val × BitVec 8))) : Option (List Val × BitVec 8) :=
  vs.foldr (fun v acc =>
    match v, acc with
    | some a, some (l, fl) => some (a.1 :: l, a.2 ||| fl)
    | _, _ => none) (some ([], 0))

theorem valueArg_eq (x : Elem) (n s i : Nat) :
    x.valueArg n s i = gathered ((List.range n).map fun k => x.arg false (s / n * n + k) i) := rfl

theorem gathered_cons_some (a : Val × BitVec 8) (t : List (Option (Val × BitVec 8))) :
    gathered (some a :: t) = (gathered t).map fun r => (a.1 :: r.1, a.2 ||| r.2) := by
  rw [gathered, List.foldr_cons]
  change (match some a, gathered t with
    | some a, some (l, fl) => some (a.1 :: l, a.2 ||| fl)
    | _, _ => none) = _
  cases gathered t <;> rfl

theorem gathered_none_cons (t : List (Option (Val × BitVec 8))) : gathered (none :: t) = none := rfl

theorem gathered_of_missing {vs : List (Option (Val × BitVec 8))} (h : none ∈ vs) : gathered vs = none := by
  induction vs with
  | nil => cases h
  | cons v t ih =>
    cases v with
    | none => exact gathered_none_cons t
    | some a => rw [gathered_cons_some, ih ((List.mem_cons.1 h).resolve_left (by simp)), Option.map_none]

/-- What is gathered where nothing is missing. -/
theorem gathered_spec {vs : List (Option (Val × BitVec 8))} (h : none ∉ vs) :
    ∃ l fl, gathered vs = some (l, fl) ∧ l.map some = vs.map (Option.map Prod.fst)
      ∧ ∀ b, fl.getLsbD b = true ↔ ∃ v ∈ vs, ((v.map Prod.snd).getD 0).getLsbD b = true := by
  induction vs with
  | nil => exact ⟨[], 0, rfl, rfl, by simp⟩
  | cons v t ih =>
    cases v with
    | none => simp at h
    | some a =>
      obtain ⟨l, fl, hg, hl, hfl⟩ := ih fun ht => h (List.mem_cons_of_mem _ ht)
      refine ⟨a.1 :: l, a.2 ||| fl, by rw [gathered_cons_some, hg]; rfl, by simp [hl], fun b => ?_⟩
      rw [BitVec.getLsbD_or, Bool.or_eq_true, hfl b, List.exists_mem_cons_iff, Option.map_some, Option.getD_some]

theorem numsOf_num (l : List Num) : numsOf (l.map Val.num) = some l := by
  induction l with
  | nil => rfl
  | cons y t ih =>
    rw [List.map_cons, numsOf, List.foldr_cons]
    change (match Val.num y, numsOf (t.map Val.num) with
      | .num y, some r => some (y :: r)
      | _, _ => none) = _
    rw [ih]

theorem numsOf_poison {l : List Val} (h : Val.poison ∈ l) : numsOf l = none := by
  induction l with
  | nil => cases h
  | cons v t ih =>
    rw [numsOf, List.foldr_cons]
    change (match v, numsOf t with
      | .num y, some r => some (y :: r)
      | _, _ => none) = _
    rcases List.mem_cons.1 h with rfl | h
    · rfl
    · rw [ih h]
      cases v <;> rfl

/-- Where the value of a slot is whole, and where it is poisoned. -/
theorem valueArg_spec (x : Elem) (n q k i : Nat) (hk : k < n) :
    ((∃ j, j < n ∧ x.arg false (q * n + j) i = none) → x.valueArg n (q * n + k) i = none)
    ∧ ((¬ ∃ j, j < n ∧ x.arg false (q * n + j) i = none) → ∃ l fl, x.valueArg n (q * n + k) i = some (l, fl)
      ∧ ((∃ j g, j < n ∧ x.arg false (q * n + j) i = some (.poison, g)) → numsOf l = none)
      ∧ ∀ u ufl, Claims.Components x n (q * n) i u ufl → numsOf l = some u ∧ fl = ufl) := by
  have hfirst : (q * n + k) / n * n = q * n := by
    rw [Nat.add_comm, Nat.add_mul_div_right _ _ (by omega), Nat.div_eq_of_lt hk, Nat.zero_add]
  have hmem (v : Option (Val × BitVec 8)) : v ∈ ((List.range n).map fun j => x.arg false (q * n + j) i)
      ↔ ∃ j, j < n ∧ x.arg false (q * n + j) i = v := by simp
  rw [valueArg_eq, hfirst]
  refine ⟨fun h => gathered_of_missing ((hmem none).2 h), fun h => ?_⟩
  obtain ⟨l, fl, hg, hl, hfl⟩ := gathered_spec (mt (hmem none).1 h)
  refine ⟨l, fl, hg, fun ⟨j, g, hj, hp⟩ => numsOf_poison ?_, fun u ufl hu => ?_⟩
  · have hp' : some Val.poison ∈ l.map some := by
      rw [hl]
      exact List.mem_map.2 ⟨_, (hmem _).2 ⟨j, hj, hp⟩, rfl⟩
    simpa using hp'
  · obtain ⟨hlen, hnum, hors⟩ := hu
    have hlu : l = u.map Val.num := by
      refine List.map_injective_iff.2 (Option.some_injective Val) (hl.trans (List.ext_getElem? fun j => ?_))
      rw [List.getElem?_map, List.getElem?_map, List.getElem?_map, List.getElem?_map]
      by_cases hj : j < n
      · obtain ⟨z, hz⟩ : ∃ z, u[j]? = some z := ⟨_, List.getElem?_eq_getElem (hlen ▸ hj)⟩
        obtain ⟨g, hg⟩ := hnum j z hz
        rw [List.getElem?_range hj, hz, Option.map_some, Option.map_some, hg]
        rfl
      · rw [List.getElem?_eq_none (by simpa using hj), List.getElem?_eq_none (by omega)]
        rfl
    refine ⟨by rw [hlu, numsOf_num], BitVec.eq_of_getLsbD_eq fun b hb => Bool.eq_iff_iff.2 ?_⟩
    rw [hfl b, hors b hb]
    simp only [List.mem_map, List.mem_range]
    constructor
    · rintro ⟨v, ⟨j, hj, rfl⟩, h⟩
      exact ⟨j, hj, h⟩
    · rintro ⟨j, hj, h⟩
      exact ⟨_, ⟨j, hj, rfl⟩, h⟩

/-! ### The slots of an algebra operation -/

/-- Component `k` of the result for operands with these components, `f` the operation's function of them. -/
def algValue (f : List Num → List Num → Nat → Num × BitVec 8) (u v : List Val × BitVec 8) (k : Nat) : Val × BitVec 8 :=
  match numsOf u.1, numsOf v.1 with
  | some p, some q => (.num (f p q k).1, u.2 ||| v.2 ||| (f p q k).2)
  | _, _ => (.poison, u.2 ||| v.2)

/-- Component `k` of the result, where both operands are whole. -/
def algResult (f : List Num → List Num → Nat → Num × BitVec 8) (k : Nat) :
    Option (List Val × BitVec 8) → Option (List Val × BitVec 8) → Option (Val × BitVec 8)
  | some u, some v => some (algValue f u v k)
  | _, _ => none

/-- What slot `s` of an algebra operation's token holds. -/
def algSlot (two : Bool) (f : List Num → List Num → Nat → Num × BitVec 8) (x : Elem) (n s : Nat) : Option (Val × BitVec 8) :=
  algResult f (s % n) (x.valueArg n s 0) (if two then x.valueArg n s 1 else some ([], 0))

/-- The firing of an algebra operation whose token's slots hold `slot`. -/
def algFire (two : Bool) (x : Elem) (n : Nat) (slot : Nat → Option (Val × BitVec 8)) : Fire :=
  let r := x.laneToken (x.outDesc x.tscale) slot (fun v => convert v x.tfmt x.tscale x.rm x.ovr)
  { Fire.of x.usedMask x [r.1] with
    fl := r.2, mets := if two then [(3, n * n * (List.range (16 * x.pack / n)).countP fun v => (slot (v * n)).isSome)] else [] }

theorem algPlan_eq {two : Bool} {f : Elem → Algebra → List Num → List Num → Nat → Num × BitVec 8} {pg : Page} {e : Nat} {x : Elem}
    {a : Algebra} (hx : pg.elem e = x) (hr : x.ready = true) (ha : x.algebra = some a) :
    algPlan two f pg e = .fire (algFire two x a.n (algSlot two (f x a) x a.n)) := by
  have hdef : algPlan two f pg e = (match x.algebra with
      | none => .wait false
      | some a => if !x.ready then .wait false else .fire (algFire two x a.n fun s =>
        match x.valueArg a.n s 0, (if two then x.valueArg a.n s 1 else some ([], 0)) with
        | some u, some v =>
          match numsOf u.1, numsOf v.1 with
          | some p, some q => some (.num (f x a p q (s % a.n)).1, u.2 ||| v.2 ||| (f x a p q (s % a.n)).2)
          | _, _ => some (.poison, u.2 ||| v.2)
        | _, _ => none)) := by
    subst hx
    rfl
  rw [hdef, ha, hr]
  refine congrArg (fun slot => Plan.fire (algFire two x a.n slot)) (funext fun s => ?_)
  unfold algSlot
  cases x.valueArg a.n s 0 with
  | none => rfl
  | some u =>
    cases (if two then x.valueArg a.n s 1 else some ([], 0)) with
    | none => rfl
    | some v =>
      simp only [algResult, algValue]
      cases numsOf u.1 <;> cases numsOf v.1 <;> rfl

theorem fires_algPlan {s : State} {p e opc : Nat} {i : Instr} {two : Bool} {a : Algebra}
    {f : Elem → Algebra → List Num → List Num → Nat → Num × BitVec 8} (hi : (i, opc, algPlan two f) ∈ Claims.Firings p e) (he : e < 64)
    (hl : s.elemLive p e opc = true) (hr : (s.elem p e).ready = true) (ha : (s.elem p e).algebra = some a) :
    let x := s.elem p e
    Claims.Fires i s p e fun z => z.eats = x.insMask % 8 ∧ z.x = x ∧ z.out1 = [] ∧ z.tiles = [] ∧ ∃ o, z.out0 = [o]
      ∧ Claims.LaneOut x (mkDesc (BitVec.ofNat 8 x.tscale) x.tfmt) x.rankIn (algSlot two (f x a) x a.n)
        (fun v => convert v x.tfmt x.tscale x.rm x.ovr) o z.fl := by
  intro x
  exact fires_of_plan hi he hl (algPlan_eq (x := x) rfl hr ha) ⟨rfl, rfl, rfl, rfl, _, rfl, laneOut_laneToken ..⟩

/-- What a slot holds of one algebra value or two, `f` the operation's function of their components. -/
theorem algSlot_spec (two : Bool) (f : List Num → List Num → Nat → Num × BitVec 8) (x : Elem) {n q k : Nat} (hk : k < n) :
    let val := algSlot two f x n (q * n + k)
    let gone (i : Nat) : Prop := ∃ j, j < n ∧ x.arg false (q * n + j) i = none
    let poisoned (i : Nat) : Prop := ∃ j g, j < n ∧ x.arg false (q * n + j) i = some (.poison, g)
    (gone 0 ∨ (two = true ∧ gone 1) → val = none)
    ∧ (¬ (gone 0 ∨ (two = true ∧ gone 1)) → poisoned 0 ∨ (two = true ∧ poisoned 1) → ∃ g, val = some (.poison, g))
    ∧ ∀ u v ufl vfl, Claims.Components x n (q * n) 0 u ufl →
        (if two = true then Claims.Components x n (q * n) 1 v vfl else v = [] ∧ vfl = 0) →
          val = some (.num (f u v k).1, ufl ||| vfl ||| (f u v k).2) := by
  intro val gone poisoned
  have hmod : (q * n + k) % n = k := by
    rw [Nat.mul_comm, Nat.mul_add_mod, Nat.mod_eq_of_lt hk]
  obtain ⟨m0, s0⟩ := valueArg_spec x n q k 0 hk
  have hval : val = algResult f k (x.valueArg n (q * n + k) 0) (if two then x.valueArg n (q * n + k) 1 else some ([], 0)) := by
    simp only [val, algSlot, hmod]
  generalize hsec : (if two then x.valueArg n (q * n + k) 1 else some ([], 0)) = second at hval
  obtain ⟨m1, s1⟩ : (two = true ∧ gone 1 → second = none) ∧ (¬ (two = true ∧ gone 1) → ∃ l fl, second = some (l, fl)
      ∧ (two = true ∧ poisoned 1 → numsOf l = none)
      ∧ ∀ v vfl, (if two = true then Claims.Components x n (q * n) 1 v vfl else v = [] ∧ vfl = 0) → numsOf l = some v ∧ fl = vfl) := by
    subst hsec
    cases two with
    | true =>
      simp only [true_and, if_true]
      exact valueArg_spec x n q k 1 hk
    | false =>
      refine ⟨fun h => absurd h.1 (by simp), fun _ => ⟨[], 0, rfl, fun h => absurd h.1 (by simp), ?_⟩⟩
      rintro v vfl ⟨rfl, rfl⟩
      exact ⟨rfl, rfl⟩
  have hgone {i : Nat} {u : List Num} {ufl : BitVec 8} (hu : Claims.Components x n (q * n) i u ufl) : ¬ gone i := by
    rintro ⟨j, hj, h⟩
    obtain ⟨hlen, hnum, -⟩ := hu
    obtain ⟨g, hg⟩ := hnum j _ (List.getElem?_eq_getElem (hlen ▸ hj))
    rw [hg] at h
    cases h
  refine ⟨fun h => ?_, fun h hp => ?_, fun u v ufl vfl hu hv => ?_⟩
  · rw [hval]
    rcases h with h | h
    · rw [m0 h]
      cases second <;> rfl
    · rw [m1 h]
      cases x.valueArg n (q * n + k) 0 <;> rfl
  · obtain ⟨h0, h1⟩ := not_or.1 h
    obtain ⟨l, fl, hl, hlp, -⟩ := s0 h0
    obtain ⟨l', fl', hl', hlp', -⟩ := s1 h1
    refine ⟨fl ||| fl', ?_⟩
    rw [hval, hl, hl']
    refine congrArg some ?_
    rcases hp with hp | hp
    · simp only [algValue, hlp hp]
    · simp only [algValue, hlp' hp]
      cases numsOf l <;> rfl
  · have h1 : ¬ (two = true ∧ gone 1) := by
      rintro ⟨rfl, h⟩
      exact hgone hv h
    obtain ⟨l, fl, hl, -, hlu⟩ := s0 (hgone hu)
    obtain ⟨l', fl', hl', -, hlv⟩ := s1 h1
    obtain ⟨hlu, rfl⟩ := hlu u ufl hu
    obtain ⟨hlv, rfl⟩ := hlv v vfl hv
    rw [hval, hl, hl']
    refine congrArg some ?_
    simp only [algValue, hlu, hlv]

end Sys2Proof.Machine

namespace Sys2Proof

open Sys2Proof.Machine Sys2Proof.Claims

theorem any_isNan_iff {l : List Num} : l.any Num.isNan = true ↔ ∃ z ∈ l, z.isNan = true := List.any_eq_true

/-- The NaN that a NaN component makes of a value, signalling where one is. -/
theorem nanValue_spec (l : List Num) (r : Num × BitVec 8) (hr : r = (.nan (l.any Num.isSnan), 0)) :
    r.1.isNan = true ∧ r.2 = 0 ∧ (r.1.isSnan = true ↔ ∃ z ∈ l, z.isSnan = true) := by
  subst hr
  exact ⟨rfl, rfl, List.any_eq_true⟩

/-- Each algebra operation, as its plan's function of the components: on a NaN, and on none (R57, R59, R218). -/
theorem algebraRows (x : Elem) (a : Algebra) (p e : Nat) : ∀ r ∈ ([(.amul p e, 0x68), (.aconj p e, 0x6A), (.anorm p e, 0x6B),
      (.ainv p e, 0x6C)] : List (Instr × Nat)), ∃ f, (r.1, r.2, algPlan (decide (r.2 = 0x68)) f) ∈ Claims.Firings p e
    ∧ ∀ u v k, u.length = a.n → k < a.n → (r.2 ≠ 0x68 → v = []) →
      ((∃ z ∈ u ++ v, z.isNan = true) → f x a u v k = (.nan ((u ++ v).any Num.isSnan), 0))
      ∧ (¬ (∃ z ∈ u ++ v, z.isNan = true) → (r.2 = 0x68 → f x a u v k = a.mul u v k)
        ∧ (r.2 = 0x6A → (a.conjOf u)[k]? = some (f x a u v k).1 ∧ (f x a u v k).2 = 0)
        ∧ (r.2 = 0x6B → f x a u v k = if k = 0 ∨ (x.p 0).testBit 0 = true then a.norm u else (.zero, 0))
        ∧ (r.2 = 0x6C → f x a u v k = a.inv u k)) := by
  simp only [List.forall_mem_cons, List.not_mem_nil, false_imp_iff, implies_true, and_true, ← any_isNan_iff]
  refine ⟨⟨_, List.mem_of_getElem? (i := 48) rfl, fun u v k _ _ _ => ⟨fun h => if_pos h, fun _ => ⟨fun _ => rfl, by simp⟩⟩⟩,
    ⟨_, List.mem_of_getElem? (i := 50) rfl, fun u v k hu hk hv => ?_⟩, ⟨_, List.mem_of_getElem? (i := 51) rfl, fun u v k hu hk hv => ?_⟩,
    ⟨_, List.mem_of_getElem? (i := 52) rfl, fun u v k hu hk hv => ?_⟩⟩
  all_goals
    obtain rfl := hv (by decide)
    rw [List.append_nil]
  · refine ⟨fun h => if_pos h, fun h => ⟨by simp, fun _ => ?_, by simp⟩⟩
    obtain ⟨z, hz⟩ : ∃ z, (a.conjOf u)[k]? = some z := ⟨_, List.getElem?_eq_getElem (by simpa [Algebra.conjOf, hu] using hk)⟩
    rw [if_neg h, hz]
    exact ⟨rfl, rfl⟩
  · refine ⟨fun h => if_pos h, fun h => ⟨by simp, by simp, fun _ => ?_, by simp⟩⟩
    rw [if_neg h]
    by_cases hc : k = 0 ∨ (x.p 0).testBit 0 = true
    · rw [if_pos hc, if_neg (by simpa [or_iff_not_imp_left] using hc)]
    · rw [if_neg hc, if_pos (by simpa [not_or] using hc)]
  · exact ⟨fun h => if_pos h, fun _ => ⟨by simp, by simp, by simp, fun _ => rfl⟩⟩

theorem algebraOps : Claims.AlgebraOps := by
  intro s p e opc i a he hl hr ha _ _ x two nan hi
  obtain ⟨f, hmem, hf⟩ := algebraRows x a p e _ hi
  dsimp only at hmem hf
  refine ⟨_, fun q k hk hq => ?_, fires_algPlan hmem he hl hr ha⟩
  obtain ⟨h1, h2, h3⟩ := algSlot_spec (decide (opc = 0x68)) (f x a) x (q := q) hk
  simp only [decide_eq_true_eq] at h1 h2 h3
  refine ⟨h1, h2, fun u v ufl vfl hu hv => ⟨f x a u v k, h3 u v ufl vfl hu hv, ?_⟩⟩
  obtain ⟨hlen, -⟩ := id hu
  obtain ⟨hn, hnn⟩ := hf u v k hlen hk fun h => by
    rw [if_neg h] at hv
    exact hv.1
  exact ⟨fun h => nanValue_spec _ _ (hn h), hnn⟩

end Sys2Proof
end


section
/-! SUPPORT. One group of a matrix operation taken into an accumulator (R51, R52, R58, R214, R215); O46. -/

namespace Sys2Proof.Machine

open Sys2Proof.Claims

/-! ### The group of an operand -/

/-- The formats of matrices are 8-bit integers, the two of 16 bits and binary8. -/
theorem matrixFmt_iff (f : BitVec 8) : matrixFmt f = true
    ↔ f.toNat ∈ [1, 2, 5, 6] ∨ ∃ r ∈ Claims.floats, r.1 = f.toNat ∧ 0x10 ≤ f.toNat := by
  have h : ∀ n < 256, matrixFmt (BitVec.ofNat 8 n)
      = (decide (n ∈ [1, 2, 5, 6]) || (decide (0x10 ≤ n) && (Claims.floats.map Prod.fst).contains n)) := by decide +kernel
  have hf := h f.toNat f.isLt
  rw [BitVec.ofNat_toNat, BitVec.setWidth_eq] at hf
  rw [hf, Bool.or_eq_true, decide_eq_true_iff, Bool.and_eq_true, decide_eq_true_iff, List.contains_iff_mem, List.mem_map]
  refine or_congr_right ⟨?_, ?_⟩
  · rintro ⟨hn, r, hr, hrn⟩
    exact ⟨r, hr, hrn, hn⟩
  · rintro ⟨r, hr, hrn, hn⟩
    exact ⟨hn, r, hr, hrn⟩

/-- The descriptor that a matrix operation reads a group under, from what the claim says of it. -/
theorem eq_groupDesc {w : Nat} {d r : Desc} {matrix : BitVec 8 → Prop} (hm : ∀ f, matrixFmt f = true ↔ matrix f)
    (h1 : matrix (fmtOf d) ∧ fmtBits (fmtOf d) ≤ w ∧ readsPoison (fmtOf d) (scaleOf d) = false → r = d)
    (h2 : ¬ (matrix (fmtOf d) ∧ fmtBits (fmtOf d) ≤ w ∧ readsPoison (fmtOf d) (scaleOf d) = false) → r = descPoison) :
    r = groupDesc w d := by
  have hc : (matrixFmt (fmtOf d) && decide (fmtBits (fmtOf d) ≤ w) && !descPoisoned d) = true
      ↔ matrix (fmtOf d) ∧ fmtBits (fmtOf d) ≤ w ∧ readsPoison (fmtOf d) (scaleOf d) = false := by
    rw [Bool.and_eq_true, Bool.and_eq_true, hm, decide_eq_true_iff, and_assoc, descPoisoned, Bool.not_eq_true']
  by_cases h : matrix (fmtOf d) ∧ fmtBits (fmtOf d) ≤ w ∧ readsPoison (fmtOf d) (scaleOf d) = false
  · rw [h1 h, groupDesc, if_pos (hc.2 h)]
  · rw [h2 h, groupDesc, if_neg (mt hc.1 h)]

theorem operandGroup_of_spec {pg : Page} {e k : Nat} (hk : k < 2) {g : Group} (h : Claims.OperandGroup pg e k (some g)) :
    operandGroup pg e k = some g := by
  have hm := matrixFmt_iff
  dsimp only [Claims.OperandGroup] at h
  have hring : (if k = 0 then (pg.elem e).ta else (pg.elem e).tb) + (((pg.elem e).cnt[2 * k + 1]?).getD 0) = (pg.elem e).ringTile k := by
    interval_cases k <;> rfl
  by_cases ht : ((pg.elem e).p 0).testBit k = true
  · have hdef : operandGroup pg e k = if (pg.tile e ((pg.elem e).ringTile k)).state = 1 then
        some ⟨((pg.tile e ((pg.elem e).ringTile k)).block ((pg.elem e).pos (2 * k))).1,
          groupDesc (pg.elem e).slotW ((pg.tile e ((pg.elem e).ringTile k)).block ((pg.elem e).pos (2 * k))).2, BitVec.allOnes 16⟩
        else none := if_pos ht
    rw [if_pos ht, hring] at h
    obtain ⟨h1, h2⟩ := h
    by_cases hs : (pg.tile e ((pg.elem e).ringTile k)).state = 1
    · obtain ⟨r, ⟨ha, hb⟩, hg⟩ := h1 hs
      rw [hdef, if_pos hs, hg, eq_groupDesc hm ha hb]
      rfl
    · cases h2 hs
  · have hdef : operandGroup pg e k = ((pg.elem e).data k).map fun t =>
        ⟨t.data, groupDesc (pg.elem e).slotW ((pg.elem e).inDesc k (pg.elem e).slotW t), t.valid⟩ := if_neg ht
    rw [if_neg ht] at h
    obtain ⟨h1, h2⟩ := h
    cases hd : (pg.elem e).data k with
    | none => cases h2 hd
    | some t =>
      obtain ⟨r, ⟨ha, hb⟩, hg⟩ := h1 t hd
      rw [hdef, hd, hg, eq_groupDesc hm ha hb]
      rfl

/-! ### The values of a row -/

/-- Every lane of value `k` of a row is valid. -/
def Whole (x : Elem) (n : Nat) (g : Group) (row k : Nat) : Prop :=
  ∀ c, c < n → g.valid.getLsbD (((row * x.pack + k) * n + c) / x.pack) = true

theorem value_of_not_whole {x : Elem} {n : Nat} {g : Group} {row k : Nat} {int : Bool} (h : ¬ Whole x n g row k) :
    g.value x.pack n row k x.pack int = none := by
  rw [Group.value, if_neg]
  simpa [Whole] using h

theorem value_of_whole {x : Elem} {n : Nat} {g : Group} {row k : Nat} {int : Bool} (h : Whole x n g row k) :
    ∃ l, g.value x.pack n row k x.pack int = some l ∧ l.length = n ∧ ∀ m, Claims.rowValue x g n row k int m → l = m := by
  have hall : (List.range n).all (fun c => g.valid.getLsbD (((row * x.pack + k) * n + c) / x.pack)) = true := by
    simpa [Whole] using h
  refine ⟨_, by rw [Group.value, if_pos hall], by simp, fun l' ⟨hlen, _, hv⟩ => List.ext_getElem? fun c => ?_⟩
  rw [List.getElem?_map]
  by_cases hc : c < n
  · obtain ⟨z, hz⟩ : ∃ z, l'[c]? = some z := ⟨_, List.getElem?_eq_getElem (hlen ▸ hc)⟩
    have hd : (g.val (32 / x.pack) int ((row * x.pack + k) * n + c)).1 = .num z := hv c z hz
    rw [List.getElem?_range hc, hz, Option.map_some, hd]
  · rw [List.getElem?_eq_none (by simpa using hc), List.getElem?_eq_none (by omega)]
    rfl

/-- A pair of values, where both are there. -/
def bothOf {α β : Type} : Option α → Option β → Option (α × β)
  | some u, some v => some (u, v)
  | _, _ => none

/-- The pair of values at `k` of rows `i` and `j`. -/
def pairAt (x : Elem) (n : Nat) (A B : Group) (int : Bool) (i j k : Nat) : Option (List Num × List Num) :=
  bothOf (A.value x.pack n i k x.pack int) (B.value x.pack n j k x.pack int)

/-- The pairs of valid values of rows `i` and `j`. -/
def pairs (x : Elem) (n : Nat) (A B : Group) (int : Bool) (i j : Nat) : List (List Num × List Num) :=
  (List.range x.pack).filterMap (pairAt x n A B int i j)

section
variable {x : Elem} {n : Nat} {A B : Group} {int : Bool} {i j : Nat}

theorem pairAt_of_whole {k : Nat} (ha : Whole x n A i k) (hb : Whole x n B j k) : ∃ a b, pairAt x n A B int i j k = some (a, b)
    ∧ a.length = n ∧ b.length = n ∧ ∀ a' b', Claims.rowValue x A n i k int a' → Claims.rowValue x B n j k int b' → a = a' ∧ b = b' := by
  obtain ⟨a, ha, hal, hau⟩ := value_of_whole (int := int) ha
  obtain ⟨b, hb, hbl, hbu⟩ := value_of_whole (int := int) hb
  exact ⟨a, b, by rw [pairAt, ha, hb]; rfl, hal, hbl, fun a' b' h h' => ⟨hau a' h, hbu b' h'⟩⟩

theorem pairAt_of_not_whole {k : Nat} (h : ¬ (Whole x n A i k ∧ Whole x n B j k)) : pairAt x n A B int i j k = none := by
  by_cases ha : Whole x n A i k
  · rw [pairAt, value_of_not_whole fun hb => h ⟨ha, hb⟩]
    cases A.value x.pack n i k x.pack int <;> rfl
  · rw [pairAt, value_of_not_whole ha]
    rfl

theorem pairs_isEmpty_iff : (pairs x n A B int i j).isEmpty = true ↔ ∀ k, ¬ (k < x.pack ∧ Whole x n A i k ∧ Whole x n B j k) := by
  rw [List.isEmpty_iff, pairs, List.filterMap_eq_nil_iff]
  constructor
  · rintro h k ⟨hk, ha, hb⟩
    obtain ⟨a, b, hab, -⟩ := pairAt_of_whole (int := int) ha hb
    rw [h k (List.mem_range.2 hk)] at hab
    cases hab
  · exact fun h k hk => pairAt_of_not_whole fun hw => h k ⟨List.mem_range.1 hk, hw⟩

end

/-! ### Sums -/

theorem sum_range_mul (n m : Nat) (F : Nat → Nat → Rat) :
    ((List.range (n * m)).map fun z => F (z / m) (z % m)).sum = ((List.range n).map fun i => ((List.range m).map (F i)).sum).sum := by
  induction n with
  | zero => simp
  | succ n ih =>
    rw [Nat.succ_mul, List.range_add, List.map_append, List.sum_append, ih, List.range_succ, List.map_append, List.sum_append,
      List.map_map, List.map_singleton, List.sum_singleton]
    congr 2
    refine List.map_congr_left fun z hz => ?_
    have hz := List.mem_range.1 hz
    rw [Function.comp, Nat.mul_comm, Nat.mul_add_div (by omega), Nat.mul_add_mod, Nat.div_eq_of_lt hz, Nat.mod_eq_of_lt hz, Nat.add_zero]

theorem sum_flatMap {α β : Type} (f : α → List β) (v : β → Rat) (l : List α) :
    ((l.flatMap f).map v).sum = (l.map fun q => ((f q).map v).sum).sum := by
  rw [List.map_flatMap, List.flatMap, List.sum_flatten, List.map_map]
  rfl

/-! ### The products of a group -/

/-- The signs of an algebra's entries. -/
def SignsOk (a : Algebra) : Prop := ∀ i j, (a.entry i j).1 = 1 ∨ (a.entry i j).1 = -1 ∨ (a.entry i j).1 = 0

theorem signsOk_of_table {a : Algebra} (h : ∀ t ∈ a.table, t.1 = 1 ∨ t.1 = -1 ∨ t.1 = 0) : SignsOk a := by
  intro i j
  rw [Algebra.entry]
  cases ht : a.table[i * 8 + j]? with
  | none => exact .inr (.inr rfl)
  | some t => exact h t (List.mem_of_getElem? ht)

theorem signsOk_preset (c : Nat) : SignsOk (preset c) := by
  refine signsOk_of_table ?_
  unfold preset
  split <;> decide +kernel

theorem signsOk_loaded (l : List (BitVec 32)) : SignsOk (loadedAlgebra l) := by
  refine signsOk_of_table fun t ht => ?_
  obtain ⟨z, -, rfl⟩ := List.mem_map.1 ht
  dsimp only
  rw [sign2]
  split
  · exact .inl rfl
  · split
    · exact .inr (.inl rfl)
    · exact .inr (.inr rfl)

theorem signsOk_algebra {x : Elem} {a : Algebra} (h : x.algebra = some a) : SignsOk a := by
  rw [Elem.algebra] at h
  split at h
  · split at h
    · cases h
    · obtain rfl := Option.some.inj h
      exact signsOk_loaded _
  · obtain rfl := Option.some.inj h
    exact signsOk_preset _

/-- The terms of a product's component: finite, without flags, and their sum. -/
theorem terms_spec {a : Algebra} (hs : SignsOk a) {p q : List Num} {u v : Nat → Rat} (hp : p.length = a.n) (hq : q.length = a.n)
    (hu : ∀ z y, p[z]? = some y → Claims.Real y (u z)) (hv : ∀ z y, q[z]? = some y → Claims.Real y (v z)) (c : Nat) :
    (∀ t ∈ a.terms p q c, (∃ w, Claims.Real t.1 w) ∧ t.2 = 0)
    ∧ ((a.terms p q c).map fun t => realVal t.1).sum = ((List.range a.n).map fun z => ((List.range a.n).map fun y =>
        if (a.entry z y).2 = c then ((a.entry z y).1 : Rat) * u z * v y else 0).sum).sum := by
  have hcomp {l : List Num} {w : Nat → Rat} (hl : l.length = a.n) (hw : ∀ z y, l[z]? = some y → Claims.Real y (w z)) {k : Nat}
      (hk : k < a.n) : Claims.Real ((l[k]?).getD .zero) (w k) := by
    have hz : l[k]? = some l[k] := List.getElem?_eq_getElem (hl ▸ hk)
    rw [hz, Option.getD_some]
    exact hw k _ hz
  -- The term at entry `z`, and its value.
  have hterm (z : Nat) (hz : z < a.n * a.n) :
      let t : Option (Num × BitVec 8) := if (a.entry (z / a.n) (z % a.n)).1 = 0 ∨ (a.entry (z / a.n) (z % a.n)).2 ≠ c then none else
        some (if (a.entry (z / a.n) (z % a.n)).1 < 0 then (((p[z / a.n]?).getD .zero).mul ((q[z % a.n]?).getD .zero)).1.neg
          else (((p[z / a.n]?).getD .zero).mul ((q[z % a.n]?).getD .zero)).1,
          (((p[z / a.n]?).getD .zero).mul ((q[z % a.n]?).getD .zero)).2)
      (∀ r, t = some r → (∃ w, Claims.Real r.1 w) ∧ r.2 = 0) ∧ ((t.map fun r => realVal r.1).getD 0)
        = if (a.entry (z / a.n) (z % a.n)).2 = c then ((a.entry (z / a.n) (z % a.n)).1 : Rat) * u (z / a.n) * v (z % a.n) else 0 := by
    have hn : 0 < a.n := Nat.pos_of_ne_zero fun h => by simp [h] at hz
    intro t
    by_cases hc : (a.entry (z / a.n) (z % a.n)).2 = c
    · have h := signed_term (hs (z / a.n) (z % a.n)) (hcomp hp hu (Nat.div_lt_of_lt_mul hz)) (hcomp hq hv (Nat.mod_lt z hn))
      have ht : t = if (a.entry (z / a.n) (z % a.n)).1 = 0 then none else
          some (if (a.entry (z / a.n) (z % a.n)).1 < 0 then (((p[z / a.n]?).getD .zero).mul ((q[z % a.n]?).getD .zero)).1.neg
            else (((p[z / a.n]?).getD .zero).mul ((q[z % a.n]?).getD .zero)).1,
            (((p[z / a.n]?).getD .zero).mul ((q[z % a.n]?).getD .zero)).2) := by
        simp only [t, hc, ne_eq, not_true_eq_false, or_false]
      rw [ht, if_pos hc]
      exact h
    · have ht : t = none := if_pos (.inr hc)
      rw [ht, if_neg hc]
      exact ⟨fun r hr => (by cases hr), rfl⟩
  constructor
  · intro t ht
    obtain ⟨z, hz, hf⟩ := List.mem_filterMap.1 ht
    exact (hterm z (List.mem_range.1 hz)).1 t hf
  · rw [Algebra.terms, sum_filterMap, ← sum_range_mul a.n a.n fun z y =>
      if (a.entry z y).2 = c then ((a.entry z y).1 : Rat) * u z * v y else 0]
    congr 1
    exact List.map_congr_left fun z hz => (hterm z (List.mem_range.1 hz)).2

end Sys2Proof.Machine
end


section
/-! SUPPORT. An accumulator of a matrix operation takes a group in (R51, R52, R58, R215); O46. -/

namespace Sys2Proof.Machine

open Sys2Proof.Claims

/-- What the products of a group's pairs make of an accumulator, POISON among the operands or not. -/
def takeIn (a : Algebra) (int bad : Bool) (old : Acc) (prods : List (List Num × List Num)) (c : Nat) : Acc × BitVec 8 :=
  if prods.isEmpty then (old, 0) else if bad then ({ old with poison := true }, 0) else accGroup a int old prods c

theorem accGroup_bits (a : Algebra) (int : Bool) (old : Acc) (prods : List (List Num × List Num)) (c : Nat) :
    (accGroup a int old prods c).1 = { old with bits := (accGroup a int old prods c).1.bits } := by
  cases int <;> rfl

/-- A stored 8-bit integer is one. -/
theorem decodeVal_byte {f s : BitVec 8} {raw : Nat} {y : Num} (hf : byteInt f = true) (h : (decodeVal f s true raw).1 = .num y) :
    ∃ z : Int, y = Num.ofInt z := by
  have hff : f ≠ 0#8 ∧ floatFmt f = none := by
    simp only [byteInt, Bool.or_eq_true, decide_eq_true_eq] at hf
    rcases hf with rfl | rfl <;> decide
  rw [decodeVal, if_neg hff.1] at h
  split at h
  · cases h
  · rw [hff.2] at h
    exact ⟨_, (Val.num.inj h).symm⟩

section
variable {x : Elem} {alg : Algebra} {A B : Group} {i j c : Nat} {old : Acc} {u v : Nat → Nat → Rat}

/-- The pairs of a group have values `u` and `v`, zeros where there is no pair. -/
def PairValues (x : Elem) (n : Nat) (A B : Group) (int : Bool) (i j : Nat) (u v : Nat → Nat → Rat) : Prop :=
  (∀ k, k < x.pack ∧ Whole x n A i k ∧ Whole x n B j k → ∃ a b, Claims.rowValue x A n i k int a ∧ Claims.rowValue x B n j k int b
    ∧ (∀ z y, a[z]? = some y → Claims.Real y (u k z)) ∧ (∀ z y, b[z]? = some y → Claims.Real y (v k z)))
  ∧ ∀ k z, ¬ (k < x.pack ∧ Whole x n A i k ∧ Whole x n B j k) → u k z = 0 ∧ v k z = 0

/-- The exact sum of the products of component `c`. -/
def totalOf (alg : Algebra) (pack c : Nat) (u v : Nat → Nat → Rat) : Rat :=
  ((List.range pack).map fun k => ((List.range alg.n).map fun z => ((List.range alg.n).map fun y =>
    if (alg.entry z y).2 = c then ((alg.entry z y).1 : Rat) * u k z * v k y else 0).sum).sum).sum

/-- A pair that is there, with its values. -/
theorem pairAt_values {n : Nat} {int : Bool} (h : PairValues x n A B int i j u v) {k : Nat}
    (hk : k < x.pack ∧ Whole x n A i k ∧ Whole x n B j k) :
    ∃ a b, pairAt x n A B int i j k = some (a, b) ∧ Claims.rowValue x A n i k int a ∧ Claims.rowValue x B n j k int b
      ∧ (∀ z y, a[z]? = some y → Claims.Real y (u k z)) ∧ (∀ z y, b[z]? = some y → Claims.Real y (v k z)) := by
  obtain ⟨a, b, ha, hb, hu, hv⟩ := h.1 k hk
  obtain ⟨a', b', hab, -, -, heq⟩ := pairAt_of_whole (int := int) hk.2.1 hk.2.2
  obtain ⟨rfl, rfl⟩ := heq a b ha hb
  exact ⟨a', b', hab, ha, hb, hu, hv⟩

/-- Integer accumulators: the products' sum is whole. -/
theorem accGroup_int (h : PairValues x (preset 0).n A B true i j u v) (hA : byteInt (fmtOf A.desc) = true)
    (hB : byteInt (fmtOf B.desc) = true) :
    let r := accGroup (preset 0) true old (pairs x (preset 0).n A B true i j) 0
    ∃ z : Int, (z : Rat) = totalOf (preset 0) x.pack 0 u v ∧ r.1.bits = old.bits + BitVec.ofInt 32 z
      ∧ r.2 = if -2 ^ 31 ≤ old.bits.toInt + z ∧ old.bits.toInt + z < 2 ^ 31 then 0 else flOvf := by
  intro r
  refine ⟨((pairs x (preset 0).n A B true i j).map fun q => Num.int ((q.1.head?).getD .zero) * Num.int ((q.2.head?).getD .zero)).sum,
    ?_, ?_, ?_⟩
  · rw [Int.cast_list_sum, List.map_map, pairs, sum_filterMap, totalOf]
    congr 1
    refine List.map_congr_left fun k hk => ?_
    have hentry : ((List.range (preset 0).n).map fun z => ((List.range (preset 0).n).map fun y =>
        if ((preset 0).entry z y).2 = 0 then (((preset 0).entry z y).1 : Rat) * u k z * v k y else 0).sum).sum = u k 0 * v k 0 := by
      have h1 : (preset 0).n = 1 := rfl
      have h2 : (preset 0).entry 0 0 = (1, 0) := by decide +kernel
      simp [h1, h2]
    rw [hentry]
    by_cases hp : k < x.pack ∧ Whole x (preset 0).n A i k ∧ Whole x (preset 0).n B j k
    · obtain ⟨a, b, hab, ⟨hal, -, hav⟩, ⟨hbl, -, hbv⟩, hu, hv⟩ := pairAt_values h hp
      -- The value of one component.
      have hone {l : List Num} {f s : BitVec 8} {raw : Nat → Nat} {w : Nat → Rat} (hf : byteInt f = true) (hl : l.length = 1)
          (hd : ∀ c z, l[c]? = some z → (decodeVal f s true (raw c)).1 = .num z)
          (hw : ∀ z y, l[z]? = some y → Claims.Real y (w z)) : ((Num.int ((l.head?).getD .zero) : Int) : Rat) = w 0 := by
        obtain ⟨y, rfl⟩ := List.length_eq_one_iff.1 hl
        obtain ⟨z, rfl⟩ := decodeVal_byte hf (hd 0 y rfl)
        rw [List.head?_cons, Option.getD_some, int_of_real (real_ofInt z), ← realVal_eq (real_ofInt z)]
        exact realVal_eq (hw 0 _ rfl)
      rw [hab, Option.map_some, Option.getD_some, Function.comp, Int.cast_mul, hone hA hal hav hu, hone hB hbl hbv hv]
    · rw [pairAt_of_not_whole fun hw => hp ⟨List.mem_range.1 hk, hw⟩, (h.2 k 0 hp).1, zero_mul]
      rfl
  · change BitVec.ofInt 32 _ = _
    rw [BitVec.ofInt_add, BitVec.ofInt_toInt]
  · generalize hz : ((pairs x (preset 0).n A B true i j).map fun q =>
      Num.int ((q.1.head?).getD .zero) * Num.int ((q.2.head?).getD .zero)).sum = z
    have hr : r.2 = if old.bits.toInt + z < -2147483648 ∨ 2147483647 < old.bits.toInt + z then flOvf else 0 := by
      rw [← hz]
      rfl
    rw [hr]
    by_cases ht : -2 ^ 31 ≤ old.bits.toInt + z ∧ old.bits.toInt + z < 2 ^ 31
    · rw [if_pos ht, if_neg (by omega)]
    · rw [if_neg ht, if_pos (by omega)]

/-- FP32 accumulators: one rounding of the exact sum. -/
theorem accGroup_float (hs : SignsOk alg) (h : PairValues x alg.n A B false i j u v) {w : Rat} (hw : Claims.Real (ofFp32 old.bits) w) :
    let r := accGroup alg false old (pairs x alg.n A B false i j) c
    ∃ y, Claims.Real y (w + totalOf alg x.pack c u v) ∧ r.1.bits = BitVec.ofNat 32 (convert y 0x07#8 127 0 2).1
      ∧ r.2 = (convert y 0x07#8 127 0 2).2 := by
  intro r
  obtain ⟨g, hg, hgv⟩ := real_sumNums_val (l := (pairs x alg.n A B false i j).flatMap fun q => alg.terms q.1 q.2 c) (by
    intro t ht
    obtain ⟨q, hq, ht⟩ := List.mem_flatMap.1 ht
    obtain ⟨k, hk, hqk⟩ := List.mem_filterMap.1 hq
    by_cases hp : k < x.pack ∧ Whole x alg.n A i k ∧ Whole x alg.n B j k
    · obtain ⟨a, b, hab, ⟨hal, -⟩, ⟨hbl, -⟩, hu, hv⟩ := pairAt_values h hp
      obtain rfl := Option.some.inj (hab.symm.trans hqk)
      exact (terms_spec hs hal hbl hu hv c).1 t ht
    · rw [pairAt_of_not_whole fun hw => hp ⟨List.mem_range.1 hk, hw⟩] at hqk
      cases hqk)
  have htotal : (((pairs x alg.n A B false i j).flatMap fun q => alg.terms q.1 q.2 c).map fun t => realVal t.1).sum
      = totalOf alg x.pack c u v := by
    rw [sum_flatMap, pairs, sum_filterMap, totalOf]
    congr 1
    refine List.map_congr_left fun k hk => ?_
    by_cases hp : k < x.pack ∧ Whole x alg.n A i k ∧ Whole x alg.n B j k
    · obtain ⟨a, b, hab, ⟨hal, -⟩, ⟨hbl, -⟩, hu, hv⟩ := pairAt_values h hp
      rw [hab, Option.map_some, Option.getD_some]
      exact (terms_spec hs hal hbl hu hv c).2
    · rw [pairAt_of_not_whole fun hw => hp ⟨List.mem_range.1 hk, hw⟩]
      simp [(h.2 k _ hp).1]
  rw [htotal] at hgv
  obtain ⟨y, hy, hyv⟩ := real_add 0 hw hgv
  have hr : r = ({ old with bits := (toFp32 y).1 }, (0 : BitVec 8) ||| 0 ||| (toFp32 y).2) := by
    simp only [r, accGroup, hg, hy, Bool.false_eq_true, if_false]
  refine ⟨y, hyv, by rw [hr]; rfl, ?_⟩
  rw [hr]
  exact BitVec.zero_or

/-- What a group makes of an accumulator (R51, R52, R58, R215). -/
theorem takesGroup {int bad : Bool} (hs : SignsOk alg)
    (hint : int = true → alg = preset 0 ∧ c = 0 ∧ byteInt (fmtOf A.desc) = true ∧ byteInt (fmtOf B.desc) = true)
    (hbad : bad = true ↔ fmtOf A.desc = 0x0E#8 ∨ fmtOf B.desc = 0x0E#8) :
    let r := takeIn alg int bad old (pairs x alg.n A B int i j) c
    Claims.TakesGroup x alg A B int i j c old r.1 r.2 := by
  intro r
  unfold Claims.TakesGroup
  intro n whole pair poisoned
  have hempty : (pairs x alg.n A B int i j).isEmpty = true ↔ ∀ k, ¬ pair k := pairs_isEmpty_iff
  have hsome (h : ∃ k, pair k) : r = if bad then ({ old with poison := true }, 0) else
      accGroup alg int old (pairs x alg.n A B int i j) c := by
    obtain ⟨k, hk⟩ := h
    exact if_neg fun he => hempty.1 he k hk
  refine ⟨fun h => ?_, fun h hp => ?_, fun h hp => ?_⟩
  · have hr : r = (old, 0) := if_pos (hempty.2 h)
    rw [hr]
    exact ⟨rfl, rfl⟩
  · rw [hsome h, if_pos (hbad.2 hp)]
    exact ⟨rfl, rfl⟩
  · have hr := (hsome h).trans (if_neg (mt hbad.1 hp))
    rw [hr]
    refine ⟨accGroup_bits .., fun u v h1 h2 => ⟨?_, ?_⟩⟩
    · rintro rfl
      obtain ⟨rfl, rfl, hA, hB⟩ := hint rfl
      exact accGroup_int ⟨h1, h2⟩ hA hB
    · rintro rfl w hw
      exact accGroup_float hs ⟨h1, h2⟩ hw

end

end Sys2Proof.Machine
end


section
/-! SUPPORT. The accumulators of a matrix operation before and after a group (R215, R216, R219); O46. -/

namespace Sys2Proof.Machine

open Sys2Proof.Claims

/-! ### Before the group -/

/-- The accumulator that MMAZ loads from element `z` of tile TC, and its flags. -/
def loadAcc (t : Tile) (int : Bool) (z : Nat) : Acc × BitVec 8 :=
  let b := t.block (z / 16)
  let f := fmtOf b.2
  if f = 0#8 then (Acc.zero, flDisc)
  else if f = 7#8 ∨ f = 4#8 then
    match (decodeVal f (scaleOf b.2) false (dataBytes b.1 (4 * (z % 16)) 4)).1 with
    | .num y =>
      if int then (⟨BitVec.ofNat 32 (convert y 4#8 127 0 0).1, false, false⟩, (convert y 4#8 127 0 0).2)
      else (⟨(toFp32 y).1, false, false⟩, (toFp32 y).2)
    | .poison => (⟨0, false, true⟩, flPois)
  else (⟨0, false, true⟩, flPois)

theorem loadC_eq (t : Tile) (int : Bool) : loadC t int = ((List.range 256).map fun z => (loadAcc t int z).1,
    orFlags ((List.range 256).map fun z => (loadAcc t int z).2)) := by
  have h : loadC t int = (((List.range 256).map (loadAcc t int)).map Prod.fst, orFlags (((List.range 256).map (loadAcc t int)).map Prod.snd)) := rfl
  rw [h, List.map_map, List.map_map]
  rfl

theorem loaded_loadAcc (t : Tile) (int : Bool) (z : Nat) : Claims.Loaded t int z (loadAcc t int z).1 (loadAcc t int z).2 := by
  unfold Claims.Loaded loadAcc
  dsimp only
  generalize t.block (z / 16) = b
  generalize dataBytes b.1 (4 * (z % 16)) 4 = raw
  generalize (decodeVal (fmtOf b.2) (scaleOf b.2) false raw).1 = v
  refine ⟨fun h0 => ?_, fun h0 hv => ?_, fun n hf hv => ?_⟩
  · rw [if_pos h0]
    exact ⟨rfl, rfl⟩
  · rw [if_neg h0]
    by_cases hf : fmtOf b.2 = 7#8 ∨ fmtOf b.2 = 4#8
    · cases v with
      | poison =>
        rw [if_pos hf]
        exact ⟨rfl, rfl⟩
      | num n =>
        obtain ⟨h7, h4⟩ := hv n rfl
        exact absurd hf (by simp [h7, h4])
    · rw [if_neg hf]
      exact ⟨rfl, rfl⟩
  · have h0 : fmtOf b.2 ≠ 0#8 := by
      rintro h0
      rw [h0] at hf
      exact absurd hf (by decide)
    rw [if_neg h0, if_pos hf, hv]
    cases int <;> exact ⟨rfl, rfl⟩

/-- An INT32 accumulator turned to FP32. -/
def toFpAcc (a : Acc) : Acc × BitVec 8 :=
  ({ a with bits := (toFp32 (Num.ofInt a.bits.toInt)).1 }, (toFp32 (Num.ofInt a.bits.toInt)).2)

/-- Accumulator `z` before a group, in the type that the group leaves it in, and the flags of setting it up. -/
def startAt (x : Elem) (tc : Tile) (int : Bool) (z : Nat) : Acc × BitVec 8 :=
  if x.pos 5 = 0 then (if x.opc = 0x62 then loadAcc tc int z else (Acc.zero, 0))
  else if x.accInt && !int then toFpAcc ((x.acc[z]?).getD Acc.zero) else ((x.acc[z]?).getD Acc.zero, 0)

/-- How many accumulators there are, `size` where they are new. -/
def accCount (x : Elem) (size : Nat) : Nat := if x.pos 5 = 0 then size else x.acc.length

/-- The accumulators before a group. -/
def startAccs (x : Elem) (tc : Tile) (size : Nat) (int : Bool) : List Acc × BitVec 8 :=
  if decide (x.pos 5 = 0) then (if x.opc = 0x62 then loadC tc int else (List.replicate size Acc.zero, 0))
  else if x.accInt && !int then accsToFp x.acc else (x.acc, 0)

theorem map_range_getElem? {α : Type} (d : α) (l : List α) : ((List.range l.length).map fun z => (l[z]?).getD d) = l := by
  refine List.ext_getElem? fun k => ?_
  rw [List.getElem?_map]
  by_cases hk : k < l.length
  · rw [List.getElem?_range hk, Option.map_some, List.getElem?_eq_getElem hk, Option.getD_some]
  · rw [List.getElem?_eq_none (by simpa using hk), List.getElem?_eq_none (by omega)]
    rfl

theorem orFlags_zeros {α : Type} (l : List α) : orFlags (l.map fun _ => (0 : BitVec 8)) = 0 := by
  refine eq_zero_of_bits fun b _ hb => ?_
  obtain ⟨v, hv, hbit⟩ := (getLsbD_orFlags _ _).1 hb
  obtain ⟨-, -, rfl⟩ := List.mem_map.1 hv
  simp at hbit

section
variable {x : Elem} {tc : Tile} {int : Bool} {z : Nat}

theorem startAt_zero (h : x.pos 5 = 0) (ho : x.opc ≠ 0x62) : startAt x tc int z = (Acc.zero, 0) := by rw [startAt, if_pos h, if_neg ho]

theorem startAt_loaded (h : x.pos 5 = 0) (ho : x.opc = 0x62) : startAt x tc int z = loadAcc tc int z := by
  rw [startAt, if_pos h, if_pos ho]

theorem startAt_held {a : Acc} (h : x.pos 5 ≠ 0) (hi : x.accInt = false ∨ int = true) (ha : x.acc[z]? = some a) :
    startAt x tc int z = (a, 0) := by
  rw [startAt, if_neg h, if_neg (by rcases hi with hi | hi <;> simp [hi]), ha, Option.getD_some]

theorem startAt_turned {a : Acc} (h : x.pos 5 ≠ 0) (hi : x.accInt = true) (hi' : int = false) (ha : x.acc[z]? = some a) :
    startAt x tc int z = toFpAcc a := by
  rw [startAt, if_neg h, if_pos (by simp [hi, hi']), ha, Option.getD_some]

end

theorem startAccs_eq (x : Elem) (tc : Tile) (size : Nat) (int : Bool) (hsize : x.opc = 0x62 → size = 256) :
    startAccs x tc size int = ((List.range (accCount x size)).map fun z => (startAt x tc int z).1,
      orFlags ((List.range (accCount x size)).map fun z => (startAt x tc int z).2)) := by
  by_cases h5 : x.pos 5 = 0
  · by_cases ho : x.opc = 0x62
    · simp only [startAccs, startAt, accCount, decide_eq_true_eq, h5, ho, if_true, hsize ho, loadC_eq]
    · simp only [startAccs, startAt, accCount, decide_eq_true_eq, h5, ho, if_true, if_false, orFlags_zeros]
      rw [List.map_const', List.length_range]
  · by_cases hi : (x.accInt && !int) = true
    · have hacc : x.acc.map toFpAcc = (List.range x.acc.length).map fun z => toFpAcc ((x.acc[z]?).getD Acc.zero) := by
        conv_lhs => rw [← map_range_getElem? Acc.zero x.acc]
        rw [List.map_map]
        rfl
      have hdef : accsToFp x.acc = ((x.acc.map toFpAcc).map Prod.fst, orFlags ((x.acc.map toFpAcc).map Prod.snd)) := rfl
      simp only [startAccs, startAt, accCount, decide_eq_true_eq, h5, hi, if_true, if_false, hdef, hacc, List.map_map, Function.comp_def]
    · simp only [startAccs, startAt, accCount, decide_eq_true_eq, h5, hi, if_false, orFlags_zeros, map_range_getElem?, Bool.false_eq_true]

/-! ### After the group -/

/-- The values of row `i` of `R` rows of a group. -/
def rowVals (x : Elem) (n R : Nat) (g : Group) (int : Bool) (i : Nat) : List (Option (List Num)) :=
  (((List.range R).map fun i => (List.range x.pack).map fun k => g.value x.pack n i k x.pack int)[i]?).getD []

/-- The pairs of valid values of rows `i` and `j` of `R` rows. -/
def prodsAt (x : Elem) (n R : Nat) (A B : Group) (int : Bool) (i j : Nat) : List (List Num × List Num) :=
  ((rowVals x n R A int i).zip (rowVals x n R B int j)).filterMap fun q =>
    match q.1, q.2 with
    | some u, some v => some (u, v)
    | _, _ => none

theorem prodsAt_eq (x : Elem) (n : Nat) {R : Nat} (A B : Group) (int : Bool) {i j : Nat} (hi : i < R) (hj : j < R) :
    prodsAt x n R A B int i j = pairs x n A B int i j := by
  have hrow (g : Group) {i : Nat} (hi : i < R) : rowVals x n R g int i = (List.range x.pack).map fun k => g.value x.pack n i k x.pack int := by
    rw [rowVals, List.getElem?_map, List.getElem?_range hi]
    rfl
  rw [prodsAt, hrow A hi, hrow B hj, List.zip_map', List.filterMap_map]
  refine congrArg (List.filterMap · _) (funext fun k => ?_)
  dsimp only [Function.comp, pairAt]
  cases A.value x.pack n i k x.pack int with
  | none => rfl
  | some u => cases B.value x.pack n j k x.pack int <;> rfl

/-- An operand is POISON. -/
def groupsBad (A B : Group) : Bool := decide (fmtOf A.desc = 0x0E#8) || decide (fmtOf B.desc = 0x0E#8)

theorem groupsBad_iff (A B : Group) : groupsBad A B = true ↔ fmtOf A.desc = 0x0E#8 ∨ fmtOf B.desc = 0x0E#8 := by
  rw [groupsBad, Bool.or_eq_true, decide_eq_true_iff, decide_eq_true_iff]

/-- Accumulator `z` after a group, and the flags of taking it in. -/
def stepAt (x : Elem) (alg : Algebra) (A B : Group) (int : Bool) (tc : Tile) (z : Nat) : Acc × BitVec 8 :=
  takeIn alg int (groupsBad A B) (startAt x tc int z).1
    (prodsAt x alg.n (16 / alg.n) A B int (z / alg.n / (16 / alg.n)) (z / alg.n % (16 / alg.n))) (z % alg.n)

/-- The flag of a POISON operand with a valid lane. -/
def groupPois (A B : Group) : BitVec 8 :=
  if (A.any && decide (fmtOf A.desc = 0x0E#8)) || (B.any && decide (fmtOf B.desc = 0x0E#8)) then flPois else 0

/-- The accumulators after a group, with every flag of the group. -/
def groupAccs (x : Elem) (alg : Algebra) (A B : Group) (int : Bool) (tc : Tile) : List Acc × BitVec 8 :=
  let cnt := accCount x (16 / alg.n * (16 / alg.n) * alg.n)
  ((List.range cnt).map fun z => (stepAt x alg A B int tc z).1,
    orFlags ((List.range cnt).map fun z => (startAt x tc int z).2) ||| orFlags ((List.range cnt).map fun z => (stepAt x alg A B int tc z).2)
      ||| groupPois A B)

theorem zipIdx_map_range {α : Type} (f : Nat → α) (n : Nat) : ((List.range n).map f).zipIdx = (List.range n).map fun z => (f z, z) := by
  refine List.ext_getElem? fun k => ?_
  rw [List.getElem?_zipIdx, List.getElem?_map, List.getElem?_map, Nat.zero_add]
  by_cases hk : k < n
  · rw [List.getElem?_range hk]
    rfl
  · rw [List.getElem?_eq_none (by simpa using hk)]
    rfl

/-- The element has a matrix algebra. -/
def MatrixAlgebra (x : Elem) (alg : Algebra) : Prop :=
  (x.opc = 0x69 → x.algebra = some alg) ∧ (x.opc ≠ 0x69 → alg = preset 0) ∧ alg.n ∈ [1, 2, 4, 8]

theorem MatrixAlgebra.signs {x : Elem} {alg : Algebra} (h : MatrixAlgebra x alg) : SignsOk alg := by
  obtain ⟨h1, h2, -⟩ := h
  by_cases ho : x.opc = 0x69
  · exact signsOk_algebra (h1 ho)
  · rw [h2 ho]
    exact signsOk_preset 0

theorem MatrixAlgebra.size {x : Elem} {alg : Algebra} (h : MatrixAlgebra x alg) (ho : x.opc = 0x62) :
    16 / alg.n * (16 / alg.n) * alg.n = 256 := by
  rw [h.2.1 (by rw [ho]; decide)]
  rfl

/-- The accumulators that a firing leaves before it emits (R215, R216). -/
theorem updated_groupAccs {s : State} {p e : Nat} {alg : Algebra} {A B : Group} {int : Bool} (halg : MatrixAlgebra (s.elem p e) alg)
    (hint : int = true → (s.elem p e).opc ≠ 0x69 ∧ byteInt (fmtOf A.desc) = true ∧ byteInt (fmtOf B.desc) = true) :
    let r := groupAccs (s.elem p e) alg A B int ((s.page p).tile e (s.elem p e).tc)
    Claims.Updated s p e alg A B int r.1 r.2 := by
  unfold Claims.Updated
  intro r x first R size poisoned hlen
  have hcount : accCount x size = size := by
    by_cases h5 : x.pos 5 = 0
    · exact if_pos h5
    · exact (if_neg h5).trans (hlen.resolve_left h5)
  have hr : r = ((List.range size).map fun z => (stepAt x alg A B int ((s.page p).tile e x.tc) z).1,
      orFlags ((List.range size).map fun z => (startAt x ((s.page p).tile e x.tc) int z).2)
        ||| orFlags ((List.range size).map fun z => (stepAt x alg A B int ((s.page p).tile e x.tc) z).2) ||| groupPois A B) := by
    rw [← hcount]
    rfl
  have hn : 0 < alg.n := by
    obtain ⟨-, -, h⟩ := halg
    simp only [List.mem_cons, List.not_mem_nil, or_false] at h
    omega
  have hpoison : (A.any && decide (fmtOf A.desc = 0x0E#8)) || (B.any && decide (fmtOf B.desc = 0x0E#8)) ↔ poisoned A ∨ poisoned B := by
    simp [poisoned, Group.any, and_comm]
  have hheld (h : ¬ first) (z : Nat) (hz : z < size) : ∃ a, x.acc[z]? = some a :=
    ⟨_, List.getElem?_eq_getElem (by rw [hlen.resolve_left h]; exact hz)⟩
  refine ⟨by rw [hr]; simp, fun z => (startAt x ((s.page p).tile e x.tc) int z).1,
    fun z => (startAt x ((s.page p).tile e x.tc) int z).2, fun z => (stepAt x alg A B int ((s.page p).tile e x.tc) z).2,
    fun z hz => ⟨fun h ho => ?_, fun h ho => ?_, fun h hi => ?_, fun h hi hi' => ?_, ?_⟩, _, _, ors_orFlags _ _, ors_orFlags _ _,
    fun h => ?_, fun h => ?_⟩
  · dsimp only
    rw [startAt_zero h ho]
    exact ⟨rfl, rfl⟩
  · dsimp only
    rw [startAt_loaded h ho]
    exact loaded_loadAcc _ _ _
  · obtain ⟨a, ha⟩ := hheld h z hz
    dsimp only
    rw [startAt_held h hi ha]
    exact ⟨ha, rfl⟩
  · obtain ⟨a, ha⟩ := hheld h z hz
    dsimp only
    rw [startAt_turned h hi hi' ha]
    exact ⟨a, ha, rfl, rfl⟩
  · refine ⟨(stepAt x alg A B int ((s.page p).tile e x.tc) z).1, ?_, ?_⟩
    · rw [hr, List.getElem?_map, List.getElem?_range hz]
      rfl
    · have hzn : z / alg.n < R * R := by
        rw [Nat.div_lt_iff_lt_mul hn]
        exact hz
      have hR : 0 < R := Nat.pos_of_ne_zero fun h0 => by simp [h0] at hzn
      dsimp only
      rw [stepAt, prodsAt_eq _ _ _ _ _ (Nat.div_lt_of_lt_mul hzn) (Nat.mod_lt _ hR)]
      refine takesGroup halg.signs (fun h => ?_) (groupsBad_iff A B)
      obtain ⟨ho, hA, hB⟩ := hint h
      have hp := halg.2.1 ho
      exact ⟨hp, by rw [hp]; exact Nat.mod_one z, hA, hB⟩
  · rw [hr, groupPois, if_pos (hpoison.2 h)]
  · rw [hr, groupPois, if_neg (mt hpoison.1 h)]
    exact BitVec.or_zero

end Sys2Proof.Machine
end


section
/-! SUPPORT. The rings of a matrix operation and what it emits (R213 to R216, R219); O46. -/

namespace Sys2Proof.Machine

open Sys2Proof.Claims

/-! ### The rings -/

/-- Groups to a tile of operand `k`. -/
def ringGroups (x : Elem) (k : Nat) : Nat := (x.p 1 / 64 ^ k) % 64 + 1

theorem ringGroups_eq (x : Elem) {k : Nat} (hk : k < 2) : (if k = 0 then x.p 1 % 64 else bits (x.p 1) 6 6) + 1 = ringGroups x k := by
  interval_cases k
  · simp [ringGroups]
  · rfl

theorem ringLen_eq (x : Elem) {k : Nat} (hk : k < 2) : x.ringLen k = (x.p 2 / 8 ^ k) % 8 + 1 := by
  interval_cases k
  · simp [Elem.ringLen]
  · rfl

section
variable {pg : Page} {e k : Nat} {cnt : List Nat} {x : Elem}

theorem advanceRing_tokens (hx : pg.elem e = x) (ht : x.fromTile k = false) : advanceRing pg e k cnt = (cnt, []) := by
  subst hx
  rw [advanceRing, ht]
  rfl

theorem advanceRing_within (hk : k < 2) (hx : pg.elem e = x) (ht : x.fromTile k = true) (hn : x.pos (2 * k) + 1 < ringGroups x k) :
    advanceRing pg e k cnt = (cnt.set (2 * k) (x.pos (2 * k) + 1), []) := by
  subst hx
  rw [← ringGroups_eq _ hk] at hn
  exact (if_pos ht).trans (if_pos hn)

theorem advanceRing_over (hk : k < 2) (hx : pg.elem e = x) (ht : x.fromTile k = true) (hn : ringGroups x k ≤ x.pos (2 * k) + 1) :
    advanceRing pg e k cnt = ((cnt.set (2 * k) 0).set (2 * k + 1) ((x.pos (2 * k + 1) + 1) % x.ringLen k),
      if (x.p 0).testBit (2 + k) then [(x.ringTile k, { pg.tile e (x.ringTile k) with state := 0 })] else []) := by
  subst hx
  rw [← ringGroups_eq _ hk] at hn
  exact (if_pos ht).trans (if_neg (not_lt.2 hn))

/-- What a group of operand `k` makes of the positions, and the tile that it releases. -/
theorem advanceRing_spec (hk : k < 2) (hx : pg.elem e = x) (hl : cnt.length = 6) :
    let r := advanceRing pg e k cnt
    r.1.length = 6
    ∧ (r.1[2 * k]?).getD 0 = (if x.fromTile k = false then (cnt[2 * k]?).getD 0
        else if x.pos (2 * k) + 1 < ringGroups x k then x.pos (2 * k) + 1 else 0)
    ∧ (r.1[2 * k + 1]?).getD 0 = (if x.fromTile k = true ∧ ringGroups x k ≤ x.pos (2 * k) + 1 then
        (x.pos (2 * k + 1) + 1) % x.ringLen k else (cnt[2 * k + 1]?).getD 0)
    ∧ (∀ j, j ≠ 2 * k → j ≠ 2 * k + 1 → r.1[j]? = cnt[j]?)
    ∧ ∀ tl, tl ∈ r.2 ↔ x.fromTile k = true ∧ (x.p 0).testBit (2 + k) = true ∧ ringGroups x k ≤ x.pos (2 * k) + 1
      ∧ tl = (x.ringTile k, { pg.tile e (x.ringTile k) with state := 0 }) := by
  intro r
  by_cases ht : x.fromTile k = true
  · by_cases hn : x.pos (2 * k) + 1 < ringGroups x k
    · have hr : r = _ := advanceRing_within hk hx ht hn
      rw [hr]
      refine ⟨by simp [hl], ?_, ?_, fun j hj _ => by simp [Ne.symm hj], fun tl => ?_⟩
      · rw [if_neg (by simp [ht]), if_pos hn, List.getElem?_set_self (by omega), Option.getD_some]
      · rw [if_neg (by omega), List.getElem?_set_ne (by omega)]
      · simp [hn]
    · have hr : r = _ := advanceRing_over hk hx ht (not_lt.1 hn)
      rw [hr]
      refine ⟨by simp [hl], ?_, ?_, fun j hj hj' => by simp [Ne.symm hj, Ne.symm hj'], fun tl => ?_⟩
      · dsimp only
        rw [if_neg (by simp [ht]), if_neg hn, List.getElem?_set_ne (by omega), List.getElem?_set_self (by omega), Option.getD_some]
      · dsimp only
        rw [if_pos ⟨ht, not_lt.1 hn⟩, List.getElem?_set_self (by simp [hl]; omega), Option.getD_some]
      · by_cases hb : (x.p 0).testBit (2 + k) = true
        · simp [hb, ht, not_lt.1 hn]
        · simp [hb]
  · have hr : r = (cnt, []) := advanceRing_tokens hx (by simpa using ht)
    rw [hr]
    refine ⟨hl, by rw [if_pos (by simpa using ht)], by rw [if_neg fun h => ht h.1], fun _ _ _ => rfl, fun tl => ?_⟩
    simp [ht]

end

/-- The positions after a group of each operand, and the tiles that they release. -/
def movedRings (pg : Page) (e : Nat) : List Nat × List (Nat × Tile) :=
  let a := advanceRing pg e 0 ((List.range 6).map (pg.elem e).pos)
  let b := advanceRing pg e 1 a.1
  (b.1, a.2 ++ b.2)

/-- The positions that a group of each operand leaves. -/
def RingMoves (x : Elem) (cnt : List Nat) : Prop := ∀ k, k < 2 →
  (cnt[2 * k]?).getD 0 = (if x.fromTile k = false then x.pos (2 * k)
    else if x.pos (2 * k) + 1 < ringGroups x k then x.pos (2 * k) + 1 else 0)
  ∧ (cnt[2 * k + 1]?).getD 0 = (if x.fromTile k = true ∧ ringGroups x k ≤ x.pos (2 * k) + 1 then
    (x.pos (2 * k + 1) + 1) % ((x.p 2 / 8 ^ k) % 8 + 1) else x.pos (2 * k + 1))

theorem ringMoves_set {x : Elem} {cnt : List Nat} (h : RingMoves x cnt) {j v : Nat} (hj : 4 ≤ j) : RingMoves x (cnt.set j v) := by
  intro k hk
  rw [List.getElem?_set_ne (by omega), List.getElem?_set_ne (by omega)]
  exact h k hk

/-- Operand `k` releases tile `tl` after a group. -/
def RingFrees (pg : Page) (e k : Nat) (tl : Nat × Tile) : Prop :=
  let x := pg.elem e
  x.fromTile k = true ∧ (x.p 0).testBit (2 + k) = true ∧ ringGroups x k ≤ x.pos (2 * k) + 1
    ∧ tl = (x.ringTile k, { pg.tile e (x.ringTile k) with state := 0 })

theorem movedRings_spec (pg : Page) (e : Nat) : (movedRings pg e).1.length = 6 ∧ RingMoves (pg.elem e) (movedRings pg e).1
    ∧ ((movedRings pg e).1[4]?).getD 0 = (pg.elem e).pos 4
    ∧ ∀ tl, tl ∈ (movedRings pg e).2 ↔ RingFrees pg e 0 tl ∨ RingFrees pg e 1 tl := by
  have h0 (j : Nat) (hj : j < 6) : (((List.range 6).map (pg.elem e).pos)[j]?).getD 0 = (pg.elem e).pos j := by
    rw [List.getElem?_map, List.getElem?_range hj]
    rfl
  obtain ⟨al, a0, a1, ak, at_⟩ := advanceRing_spec (pg := pg) (e := e) (k := 0) (cnt := (List.range 6).map (pg.elem e).pos) (by decide) rfl
    (by simp)
  obtain ⟨bl, b0, b1, bk, bt⟩ := advanceRing_spec (pg := pg) (e := e) (k := 1)
    (cnt := (advanceRing pg e 0 ((List.range 6).map (pg.elem e).pos)).1) (by decide) rfl al
  rw [ak 2 (by decide) (by decide), h0 2 (by decide)] at b0
  rw [ak 3 (by decide) (by decide), h0 3 (by decide)] at b1
  rw [h0 0 (by decide)] at a0
  rw [h0 1 (by decide)] at a1
  refine ⟨bl, fun k hk => ?_, ?_, fun tl => ?_⟩
  · rw [← ringLen_eq _ hk]
    interval_cases k
    · exact ⟨by rw [← a0]; exact congrArg (·.getD 0) (bk 0 (by decide) (by decide)),
        by rw [← a1]; exact congrArg (·.getD 0) (bk 1 (by decide) (by decide))⟩
    · exact ⟨b0, b1⟩
  · rw [← h0 4 (by decide), ← ak 4 (by decide) (by decide)]
    exact congrArg (·.getD 0) (bk 4 (by decide) (by decide))
  · exact List.mem_append.trans (or_congr (at_ tl) (bt tl))

/-! ### Emission -/

/-- The result of an accumulator; none where it is poisoned. -/
def resultOf (x : Elem) (int : Bool) (sc : Nat) (a : Acc) : Option Nat :=
  if a.poison then none else some (convert (if int then Num.ofInt a.bits.toInt else ofFp32 a.bits) x.tfmt sc x.rm x.ovr).1

/-- The flags of converting an accumulator. -/
def resultFlagsOf (x : Elem) (int : Bool) (sc : Nat) (a : Acc) : BitVec 8 :=
  if a.poison then 0 else (convert (if int then Num.ofInt a.bits.toInt else ofFp32 a.bits) x.tfmt sc x.rm x.ovr).2

theorem emitCodes_eq (x : Elem) (accs : List Acc) (int : Bool) : emitCodes x accs int
    = (accs.map (resultOf x int (emitScale x int)), orFlags (accs.map (resultFlagsOf x int (emitScale x int)))) := by
  have h (a : Acc) : (match a.val int with
      | .poison => ((none : Option Nat), (0 : BitVec 8))
      | .num y => let c := convert y x.tfmt (emitScale x int) x.rm x.ovr; (some c.1, c.2))
      = (resultOf x int (emitScale x int) a, resultFlagsOf x int (emitScale x int) a) := by
    unfold Acc.val resultOf resultFlagsOf
    cases a.poison <;> rfl
  have hdef : emitCodes x accs int = ((accs.map fun a => match a.val int with
      | .poison => ((none : Option Nat), (0 : BitVec 8))
      | .num y => let c := convert y x.tfmt (emitScale x int) x.rm x.ovr; (some c.1, c.2)).map Prod.fst,
      orFlags ((accs.map fun a => match a.val int with
      | .poison => ((none : Option Nat), (0 : BitVec 8))
      | .num y => let c := convert y x.tfmt (emitScale x int) x.rm x.ovr; (some c.1, c.2)).map Prod.snd)) := rfl
  rw [hdef, funext h, List.map_map, List.map_map]
  rfl

theorem resultOf_eq_none_iff (x : Elem) (int : Bool) (sc : Nat) (a : Acc) : resultOf x int sc a = none ↔ a.poison = true := by
  rw [resultOf]
  cases a.poison <;> simp

theorem ors_orFlags_map {α : Type} (f : α → BitVec 8) (l : List α) :
    Claims.Ors l.length (fun z => ((l[z]?).map f).getD 0) (orFlags (l.map f)) := by
  intro b _
  rw [getLsbD_orFlags]
  constructor
  · rintro ⟨v, hv, hb⟩
    obtain ⟨a, ha, rfl⟩ := List.mem_map.1 hv
    obtain ⟨k, hk⟩ := List.getElem?_of_mem ha
    obtain ⟨hlt, -⟩ := List.getElem?_eq_some_iff.1 hk
    exact ⟨k, hlt, by dsimp only; rw [hk]; exact hb⟩
  · rintro ⟨k, hk, hb⟩
    dsimp only at hb
    rw [List.getElem?_eq_getElem hk] at hb
    exact ⟨_, List.mem_map.2 ⟨_, List.getElem_mem hk, rfl⟩, hb⟩

/-- Lane `l` of data made of lanes. -/
theorem lane_ofSlots (l : List Nat) {k : Nat} (hk : k < 16) : (lane (ofSlots 32 l) k).toNat = (l[k]?).getD 0 % 2 ^ 32 := by
  rw [← slotBits_ofSlots l (by omega), lane, BitVec.toNat_ofNat]
  rfl

/-- A token of an emission: the results from `16·t`. -/
def emitToken (x : Elem) (int : Bool) (codes : List (Option Nat)) (rank : BitVec 3) (t : Nat) : OutTok :=
  let cs := (codes.drop (16 * t)).take 16
  ⟨ofSlots 32 (cs.map fun c => c.getD 0), BitVec.ofNat 16 (ones cs.length), if t = 15 then rank else 0,
    some (x.outDesc (emitScale x int)), 15, maskWhere Option.isNone cs, decide (maskWhere Option.isNone cs ≠ 0),
    if t = 0 then [scaleToken (fmtOf (x.outDesc (emitScale x int))) (scaleOf (x.outDesc (emitScale x int))) 15] else []⟩

theorem emitTokens_eq (x : Elem) (int : Bool) (codes : List (Option Nat)) (rank : BitVec 3) :
    emitTokens x int codes rank = (List.range 16).map (emitToken x int codes rank) := rfl

/-- What a token of an emission holds (R216, R219). -/
theorem emitToken_spec (x : Elem) (int : Bool) (accs : List Acc) (rank : BitVec 3) (k : Nat) :
    let sc := emitScale x int
    let d := mkDesc (BitVec.ofNat 8 sc) x.tfmt
    let o := emitToken x int (accs.map (resultOf x int sc)) rank k
    o.desc = some d ∧ o.blen = 15 ∧ o.rank = (if k = 15 then rank else 0)
      ∧ o.before = (if k = 0 then [scaleToken x.tfmt (BitVec.ofNat 8 sc) 15] else [])
      ∧ (o.pois = true ↔ ∃ l a, l < 16 ∧ accs[16 * k + l]? = some a ∧ a.poison = true)
      ∧ ∀ l, l < 16 → (o.valid.getLsbD l = true ↔ 16 * k + l < accs.length)
        ∧ ∀ a, accs[16 * k + l]? = some a → (o.bad.getLsbD l = a.poison)
          ∧ ∀ c, resultOf x int sc a = some c → (lane o.data l).toNat = c % 2 ^ 32 := by
  intro sc d o
  generalize hcs : ((accs.map (resultOf x int sc)).drop (16 * k)).take 16 = cs
  have hget (l : Nat) : cs[l]? = if l < 16 then (accs[16 * k + l]?).map (resultOf x int sc) else none := by
    rw [← hcs, List.getElem?_take, List.getElem?_drop, List.getElem?_map]
  have hlen : cs.length = min 16 (accs.length - 16 * k) := by rw [← hcs]; simp
  have ho : o = ⟨ofSlots 32 (cs.map fun c => c.getD 0), BitVec.ofNat 16 (ones cs.length), if k = 15 then rank else 0, some d, 15,
      maskWhere Option.isNone cs, decide (maskWhere Option.isNone cs ≠ 0),
      if k = 0 then [scaleToken (fmtOf d) (scaleOf d) 15] else []⟩ := by
    rw [← hcs]
    rfl
  have hbad (l : Nat) : (maskWhere Option.isNone cs).getLsbD l = true ↔ l < 16 ∧ ∃ a, accs[16 * k + l]? = some a ∧ a.poison = true := by
    rw [getLsbD_maskWhere _ (by omega), hget]
    by_cases hl : l < 16
    · rw [if_pos hl]
      simp [hl, resultOf_eq_none_iff]
    · simp [hl]
  rw [ho, fmtOf_mkDesc, scaleOf_mkDesc]
  refine ⟨rfl, rfl, rfl, rfl, ?_, fun l hl => ⟨?_, fun a ha => ⟨?_, fun c hc => ?_⟩⟩⟩
  · rw [decide_eq_true_iff, ne_zero_iff_bit]
    constructor
    · rintro ⟨l, -, hb⟩
      obtain ⟨hl, a, ha⟩ := (hbad l).1 hb
      exact ⟨l, a, hl, ha⟩
    · rintro ⟨l, a, hl, ha⟩
      exact ⟨l, hl, (hbad l).2 ⟨hl, a, ha⟩⟩
  · rw [BitVec.getLsbD_ofNat, ones, Nat.testBit_two_pow_sub_one, Bool.and_eq_true, decide_eq_true_iff, decide_eq_true_iff, hlen]
    omega
  · refine Bool.eq_iff_iff.2 ((hbad l).trans ?_)
    simp [hl, ha]
  · dsimp only
    rw [lane_ofSlots _ hl, List.getElem?_map, hget, if_pos hl, ha, Option.map_some, Option.map_some, hc]
    rfl

end Sys2Proof.Machine
end


section
/-! SUPPORT. The firings of matrix operations (R213 to R216, R219); O46. -/

namespace Sys2Proof.Machine

open Sys2Proof.Claims

/-! ### The plan -/

/-- The tiles that a firing of a matrix operation replaces. -/
def matrixTiles (pg : Page) (e : Nat) : List (Nat × Tile) :=
  let x := pg.elem e
  (movedRings pg e).2 ++ (if x.opc = 0x62 ∧ decide (x.pos 5 = 0) = true then [(x.tc, { pg.tile e x.tc with state := 0 })] else [])

/-- A firing of a matrix operation that leaves element `y`, sends `out` and sets `fl`. -/
def matrixFire (pg : Page) (e : Nat) (y : Elem) (out : List OutTok) (fl : BitVec 8) (met : Nat × Nat) : Fire :=
  let x := pg.elem e
  { Fire.of ((if x.fromTile 0 then 0 else 1) + (if x.fromTile 1 then 0 else 2)) y out with
    fl := fl, tiles := matrixTiles pg e, mets := [met] }

/-- What a matrix operation does whose group leaves the accumulators and flags `g`. -/
def matrixStep (pg : Page) (e : Nat) (g : List Acc × BitVec 8) (int : Bool) (met : Nat × Nat) : Plan :=
  let x := pg.elem e
  let cnt := (movedRings pg e).1
  let out : BitVec 3 := BitVec.ofNat 3 (x.tokenRank - x.emit)
  let r := emitCodes x g.1 int
  if x.tokenRank < x.emit then
    .fire (matrixFire pg e { x with acc := g.1, accInt := int, cnt := cnt.set 5 1 } [] g.2 met)
  else if x.writesD then
    if (pg.tile e (x.ringTile 2)).state ≠ 0 ∨ (x.tellsD = true ∧ x.free 0 = 0) then .blocked
    else .fire (matrixFire pg e { x with
      acc := [], accInt := false, cnt := (cnt.set 5 0).set 4 ((x.pos 4 + 1) % x.ringLen 2),
      cRows := pendingC (x.ringTile 2) out (x.outDesc (emitScale x int)) r.1 } [] (g.2 ||| r.2) met)
  else .fire (matrixFire pg e { x with acc := [], accInt := false, cnt := cnt.set 5 0 } (emitTokens x int r.1 out) (g.2 ||| r.2) met)

/-- The type of the accumulators after a group (R215). -/
def groupInt (x : Elem) (A B : Group) : Bool :=
  if decide (x.pos 5 = 0) then byteInt (fmtOf A.desc) && byteInt (fmtOf B.desc) && decide (x.opc ≠ 0x69)
  else x.accInt && (byteInt (fmtOf A.desc) && byteInt (fmtOf B.desc) && decide (x.opc ≠ 0x69))

/-- The accumulators after a group, from the list of those before. -/
def takenAccs (x : Elem) (alg : Algebra) (A B : Group) (int : Bool) (start : List Acc × BitVec 8) : List Acc × BitVec 8 :=
  let upd := (start.1.zipIdx).map fun z => takeIn alg int (groupsBad A B) z.1
    (prodsAt x alg.n (16 / alg.n) A B int (z.2 / alg.n / (16 / alg.n)) (z.2 / alg.n % (16 / alg.n))) (z.2 % alg.n)
  (upd.map Prod.fst, start.2 ||| orFlags (upd.map Prod.snd) ||| groupPois A B)

theorem takenAccs_startAccs (x : Elem) (alg : Algebra) (A B : Group) (int : Bool) (tc : Tile)
    (hsize : x.opc = 0x62 → 16 / alg.n * (16 / alg.n) * alg.n = 256) :
    takenAccs x alg A B int (startAccs x tc (16 / alg.n * (16 / alg.n) * alg.n) int) = groupAccs x alg A B int tc := by
  rw [startAccs_eq x tc _ int hsize]
  simp only [takenAccs, zipIdx_map_range, List.map_map]
  rfl

theorem matrixPlan_eq {pg : Page} {e : Nat} {alg : Algebra} {A B : Group}
    (halg : (if (pg.elem e).opc = 0x69 then (pg.elem e).algebra else some (preset 0)) = some alg) (hc : (pg.elem e).cRows = [])
    (hA : operandGroup pg e 0 = some A) (hB : operandGroup pg e 1 = some B)
    (htc : (pg.elem e).opc = 0x62 → (pg.elem e).pos 5 = 0 → (pg.tile e (pg.elem e).tc).state = 1)
    (hsize : (pg.elem e).opc = 0x62 → 16 / alg.n * (16 / alg.n) * alg.n = 256) :
    ∃ met, matrixPlan pg e = matrixStep pg e (groupAccs (pg.elem e) alg A B (groupInt (pg.elem e) A B) (pg.tile e (pg.elem e).tc))
      (groupInt (pg.elem e) A B) met := by
  have hmiss : ¬ ((pg.elem e).opc = 0x62 ∧ decide ((pg.elem e).pos 5 = 0) = true ∧ (pg.tile e (pg.elem e).tc).state ≠ 1) := by
    rintro ⟨h1, h2, h3⟩
    exact h3 (htc h1 (of_decide_eq_true h2))
  rw [← takenAccs_startAccs _ _ _ _ _ _ hsize]
  have hc' : (pg.elem e).cRows.isEmpty = true := by rw [hc]; rfl
  apply Exists.intro
  unfold matrixPlan
  simp only [halg, hc', Bool.not_true, Bool.false_eq_true, if_false, hA, hB, if_neg hmiss]
  rfl

/-! ### The firing -/

/-- What every firing of a matrix operation takes and frees. -/
theorem matrixFire_taken (pg : Page) (e : Nat) (y : Elem) (out : List OutTok) (fl : BitVec 8) (met : Nat × Nat) :
    let x := pg.elem e
    let f := matrixFire pg e y out fl met
    f.out1 = [] ∧ f.eats = (if x.fromTile 0 then 0 else 1) + (if x.fromTile 1 then 0 else 2)
      ∧ ∀ tl, tl ∈ f.tiles ↔ RingFrees pg e 0 tl ∨ RingFrees pg e 1 tl
        ∨ (x.opc = 0x62 ∧ x.pos 5 = 0 ∧ tl = (x.tc, { pg.tile e x.tc with state := 0 })) := by
  intro x f
  obtain ⟨-, -, -, htiles⟩ := movedRings_spec pg e
  refine ⟨rfl, rfl, fun tl => ?_⟩
  have hf : f.tiles = matrixTiles pg e := rfl
  rw [hf, matrixTiles, List.mem_append, htiles, or_assoc]
  refine or_congr_right (or_congr_right ?_)
  by_cases hc : x.opc = 0x62 ∧ x.pos 5 = 0
  · rw [if_pos ⟨hc.1, decide_eq_true hc.2⟩]
    simp [hc, x]
  · rw [if_neg fun h => hc ⟨h.1, of_decide_eq_true h.2⟩]
    simp only [List.not_mem_nil, false_iff]
    exact fun h => hc ⟨h.1, h.2.1⟩

theorem writesD_iff (x : Elem) : x.writesD = true ↔ x.opc = 0x60 ∨ x.opc = 0x62 ∨ (x.opc = 0x69 ∧ x.outs = 0) := by
  simp [Elem.writesD, or_assoc]

theorem tellsD_iff (x : Elem) : x.tellsD = true ↔ x.outs.testBit 0 = true ∧ x.opc ≠ 0x69 := by
  simp [Elem.tellsD]

theorem exec_of_blocked {s : State} {p e opc : Nat} {i : Instr} {plan : Page → Nat → Plan} (hi : (i, opc, plan) ∈ Claims.Firings p e)
    (he : e < 64) (hl : s.elemLive p e opc = true) (hb : plan (s.page p) e = .blocked) : exec i s = .next s := by
  obtain ⟨-, -, -, hblocked, -⟩ := (elementFirings s p e opc i plan hi he).1 hl
  exact hblocked hb

/-- What a matrix operation with its groups at hand plans. -/
theorem matrixPlan_of_ready {s : State} {p e : Nat} {i : Instr} {alg : Algebra} {A B : Group} {int : Bool}
    (h : Claims.MatrixReady s p e i alg A B int) :
    let g := groupAccs (s.elem p e) alg A B int ((s.page p).tile e (s.elem p e).tc)
    (i, (s.elem p e).opc, matrixPlan) ∈ Claims.Firings p e ∧ e < 64 ∧ s.elemLive p e (s.elem p e).opc = true
      ∧ Claims.Updated s p e alg A B int g.1 g.2 ∧ ∃ met, matrixPlan (s.page p) e = matrixStep (s.page p) e g int met := by
  intro g
  obtain ⟨hi, hl, he, hc, halg, halg', hn, hA, hB, htc, hint⟩ := h
  have hmem : (i, (s.elem p e).opc, matrixPlan) ∈ Claims.Firings p e := by
    simp only [List.mem_cons, List.not_mem_nil, or_false, Prod.mk.injEq] at hi
    rcases hi with ⟨rfl, ho⟩ | ⟨rfl, ho⟩ | ⟨rfl, ho⟩ | ⟨rfl, ho⟩ <;> rw [ho]
    · exact List.mem_of_getElem? (i := 45) rfl
    · exact List.mem_of_getElem? (i := 46) rfl
    · exact List.mem_of_getElem? (i := 47) rfl
    · exact List.mem_of_getElem? (i := 49) rfl
  have hma : MatrixAlgebra (s.elem p e) alg := ⟨halg, halg', hn⟩
  have hg : groupInt (s.elem p e) A B = int := by
    rw [hint]
    change groupInt (s.elem p e) A B = (decide ((s.elem p e).opc ≠ 0x69) && byteInt (fmtOf A.desc) && byteInt (fmtOf B.desc)
      && (decide ((s.elem p e).pos 5 = 0) || (s.elem p e).accInt))
    rw [groupInt]
    by_cases h5 : (s.elem p e).pos 5 = 0
    · rw [if_pos (decide_eq_true h5), decide_eq_true h5, Bool.true_or, Bool.and_true, Bool.and_comm, ← Bool.and_assoc]
    · rw [if_neg (by simpa using h5), decide_eq_false h5, Bool.false_or, Bool.and_comm, Bool.and_comm (_ && _) (decide _),
        ← Bool.and_assoc]
  have hints : int = true → (s.elem p e).opc ≠ 0x69 ∧ byteInt (fmtOf A.desc) = true ∧ byteInt (fmtOf B.desc) = true := by
    intro ht
    rw [hint] at ht
    simp only [Bool.and_eq_true, decide_eq_true_eq] at ht
    obtain ⟨⟨⟨h1, h2⟩, h3⟩, -⟩ := ht
    exact ⟨h1, h2, h3⟩
  refine ⟨hmem, he, hl, updated_groupAccs hma hints, ?_⟩
  have halg1 : (if (s.elem p e).opc = 0x69 then (s.elem p e).algebra else some (preset 0)) = some alg := by
    by_cases ho : (s.elem p e).opc = 0x69
    · rw [if_pos ho, halg ho]
    · rw [if_neg ho, halg' ho]
  obtain ⟨met, hp⟩ := matrixPlan_eq (pg := s.page p) halg1 hc (operandGroup_of_spec (by decide) hA) (operandGroup_of_spec (by decide) hB)
    (fun ho h5 => htc ho (decide_eq_true h5)) hma.size
  exact ⟨met, by rw [hp, show (s.page p).elem e = s.elem p e from rfl, hg]⟩

end Sys2Proof.Machine

namespace Sys2Proof

open Sys2Proof.Machine Sys2Proof.Claims

theorem matrixFirings : Claims.MatrixFirings := by
  intro s p e i alg A B int hready
  obtain ⟨hmem, he, hl, hup, met, hplan⟩ := matrixPlan_of_ready hready
  generalize groupAccs (s.elem p e) alg A B int ((s.page p).tile e (s.elem p e).tc) = g at hup hplan
  intro x at_ tiled rank rankIn out toD tells dTile sc d result resultFlags groups lap moves freed taken
  have htaken (y : Elem) (o : List OutTok) (fl : BitVec 8) : taken (matrixFire (s.page p) e y o fl met) :=
    matrixFire_taken (s.page p) e y o fl met
  obtain ⟨hlen, hmoves, h4, -⟩ := movedRings_spec (s.page p) e
  have h5 (w : Nat) : (((movedRings (s.page p) e).1.set 5 w)[5]?).getD 0 = w := by
    rw [List.getElem?_set_self (by omega), Option.getD_some]
  have hmoves5 (w : Nat) : moves ((movedRings (s.page p) e).1.set 5 w) := ringMoves_set hmoves (by decide)
  have hD : x.writesD = true ↔ toD := writesD_iff x
  have htell : x.tellsD = true ↔ tells := tellsD_iff x
  have hfull : (((s.page p).tile e (x.ringTile 2)).state ≠ 0 ∨ (x.tellsD = true ∧ x.free 0 = 0))
      ↔ ((s.page p).tile e dTile).state ≠ 0 ∨ (tells ∧ x.free 0 = 0) := or_congr_right (and_congr_left fun _ => htell)
  have hcodes : emitCodes x g.1 int = (g.1.map result, orFlags (g.1.map resultFlags)) := emitCodes_eq x g.1 int
  have hors : Claims.Ors g.1.length (fun z => ((g.1[z]?).map resultFlags).getD 0) (emitCodes x g.1 int).2 := by
    rw [hcodes]
    exact ors_orFlags_map resultFlags g.1
  refine ⟨fun hr => ?_, fun hr hd hw => ?_, fun hr hd => ?_⟩
  · refine fires_of_plan hmem he hl (hplan.trans (if_pos hr)) ⟨htaken _ _ _, rfl, _, _, hup, rfl, hmoves5 1, h5 1, ?_⟩
    rw [List.getElem?_set_ne (by decide)]
    exact h4
  · exact exec_of_blocked hmem he hl
      (hplan.trans ((if_neg (not_lt.2 hr)).trans ((if_pos (hD.2 hd)).trans (if_pos (hfull.2 hw)))))
  · by_cases hw : toD
    · have hroom : ¬ (((s.page p).tile e (x.ringTile 2)).state ≠ 0 ∨ (x.tellsD = true ∧ x.free 0 = 0)) := by
        rw [hfull]
        rintro (h | ⟨h, h0⟩)
        · exact h (hd hw).1
        · exact (hd hw).2 h h0
      refine fires_of_plan hmem he hl (hplan.trans ((if_neg (not_lt.2 hr)).trans ((if_pos (hD.2 hw)).trans (if_neg hroom))))
        ⟨htaken _ _ _, g.1, ((movedRings (s.page p) e).1.set 5 0).set 4 ((x.pos 4 + 1) % x.ringLen 2), g.2, (emitCodes x g.1 int).2, hup,
          ringMoves_set (hmoves5 0) (le_refl 4), ?_, hors, rfl, fun _ => ⟨rfl, ?_, ?_⟩, fun h => absurd hw h⟩
      · rw [List.getElem?_set_ne (by decide)]
        exact h5 0
      · rw [List.getElem?_set_self (by simp [hlen]), Option.getD_some]
        rfl
      · rw [← show (emitCodes x g.1 int).1 = g.1.map result by rw [hcodes]]
        rfl
    · refine fires_of_plan hmem he hl (hplan.trans ((if_neg (not_lt.2 hr)).trans (if_neg (mt hD.1 hw))))
        ⟨htaken _ _ _, g.1, _, g.2, (emitCodes x g.1 int).2, hup, hmoves5 0, h5 0, hors, rfl, fun h => absurd h hw,
          fun _ => ⟨rfl, rfl, fun k hk => ?_⟩⟩
      refine ⟨emitToken x int (emitCodes x g.1 int).1 out k, ?_, ?_⟩
      · exact (List.getElem?_map ..).trans (by rw [List.getElem?_range hk]; rfl)
      · rw [hcodes]
        exact emitToken_spec x int g.1 out k

/-- Settles O46: the preset tables by computation, the operations on algebra values slot by slot, and the firings of the matrix
operations by the accumulators that one group leaves. -/
theorem matrixValues : Obligations.MatrixValues := ⟨presets, algebraValues, algebraOps, matrixFirings⟩

end Sys2Proof
end

section
/-! SUPPORT. Decoding and encoding as inverses of each other (R63 to R72); O1, O2. -/

namespace Sys2Proof

open Sys2Proof.Laws

/-- Every instruction: the rows of R66 to R72 one by one, and the steps that no word encodes. -/
theorem encoded_all (i : Instr) : Encoded.Statement i := by
  cases i with
  | add d a b => exact Encoded.add d a b
  | sub d a b => exact Encoded.sub d a b
  | mul d a b => exact Encoded.mul d a b
  | mulh d a b => exact Encoded.mulh d a b
  | mulhu d a b => exact Encoded.mulhu d a b
  | div d a b => exact Encoded.div d a b
  | divu d a b => exact Encoded.divu d a b
  | rem d a b => exact Encoded.rem d a b
  | remu d a b => exact Encoded.remu d a b
  | and d a b => exact Encoded.and d a b
  | or d a b => exact Encoded.or d a b
  | xor d a b => exact Encoded.xor d a b
  | andn d a b => exact Encoded.andn d a b
  | shl d a b => exact Encoded.shl d a b
  | shr d a b => exact Encoded.shr d a b
  | sra d a b => exact Encoded.sra d a b
  | ror d a b => exact Encoded.ror d a b
  | clz d a => exact Encoded.clz d a
  | ctz d a => exact Encoded.ctz d a
  | popc d a => exact Encoded.popc d a
  | untaint d => exact Encoded.untaint d
  | min d a b => exact Encoded.min d a b
  | max d a b => exact Encoded.max d a b
  | minu d a b => exact Encoded.minu d a b
  | maxu d a b => exact Encoded.maxu d a b
  | seq d a b => exact Encoded.seq d a b
  | slt d a b => exact Encoded.slt d a b
  | sltu d a b => exact Encoded.sltu d a b
  | sel d a b c => exact Encoded.sel d a b c
  | addi d a imm => exact Encoded.addi d a imm
  | andi d a imm => exact Encoded.andi d a imm
  | ori d a imm => exact Encoded.ori d a imm
  | xori d a imm => exact Encoded.xori d a imm
  | shli d a n => exact Encoded.shli d a n
  | shri d a n => exact Encoded.shri d a n
  | srai d a n => exact Encoded.srai d a n
  | slti d a imm => exact Encoded.slti d a imm
  | bfx d a l p => exact Encoded.bfx d a l p
  | bfi d a l p => exact Encoded.bfi d a l p
  | li d imm => exact Encoded.li d imm
  | lih d imm => exact Encoded.lih d imm
  | beq a b off => exact Encoded.beq a b off
  | bne a b off => exact Encoded.bne a b off
  | blt a b off => exact Encoded.blt a b off
  | bge a b off => exact Encoded.bge a b off
  | bltu a b off => exact Encoded.bltu a b off
  | bgeu a b off => exact Encoded.bgeu a b off
  | j off => exact Encoded.j off
  | jal off => exact Encoded.jal off
  | jr a => exact Encoded.jr a
  | jalr d a => exact Encoded.jalr d a
  | loop c a n => exact Encoded.loop c a n
  | loopi c n k => exact Encoded.loopi c n k
  | lbrk c => exact Encoded.lbrk c
  | endCore => exact Encoded.endCore
  | ldB d a imm => exact Encoded.ldB d a imm
  | ldH d a imm => exact Encoded.ldH d a imm
  | ldW d a imm => exact Encoded.ldW d a imm
  | ldD d a imm => exact Encoded.ldD d a imm
  | ldBs d a imm => exact Encoded.ldBs d a imm
  | ldHs d a imm => exact Encoded.ldHs d a imm
  | ldWs d a imm => exact Encoded.ldWs d a imm
  | ldcD d a imm => exact Encoded.ldcD d a imm
  | stB t a imm => exact Encoded.stB t a imm
  | stH t a imm => exact Encoded.stH t a imm
  | stW t a imm => exact Encoded.stW t a imm
  | stD t a imm => exact Encoded.stD t a imm
  | ldx d a b h z => exact Encoded.ldx d a b h z
  | stx t a b h z => exact Encoded.stx t a b h z
  | prdD d a imm => exact Encoded.prdD d a imm
  | pwrD t a imm => exact Encoded.pwrD t a imm
  | amoW d a b r op => exact Encoded.amoW d a b r op
  | amoD d a b r op => exact Encoded.amoD d a b r op
  | casW d a b r => exact Encoded.casW d a b r
  | casD d a b r => exact Encoded.casD d a b r
  | fence => exact Encoded.fence
  | rel c => exact Encoded.rel c
  | acq c => exact Encoded.acq c
  | wbr a b c => exact Encoded.wbr a b c
  | invr a b c => exact Encoded.invr a b c
  | flr a b c => exact Encoded.flr a b c
  | icinv a b c => exact Encoded.icinv a b c
  | tstat d a => exact Encoded.tstat d a
  | tgive a => exact Encoded.tgive a
  | ttake a => exact Encoded.ttake a
  | tempty a => exact Encoded.tempty a
  | twait a st => exact Encoded.twait a st
  | sld a p => exact Encoded.sld a p
  | sst a p => exact Encoded.sst a p
  | sstop p => exact Encoded.sstop p
  | swait p => exact Encoded.swait p
  | sstat d p => exact Encoded.sstat d p
  | spush a b k => exact Encoded.spush a b k
  | spop d => exact Encoded.spop d
  | cpy d a e => exact Encoded.cpy d a e
  | gath d a => exact Encoded.gath d a
  | scat d a => exact Encoded.scat d a
  | redc d a => exact Encoded.redc d a
  | ewait a => exact Encoded.ewait a
  | epoll d a => exact Encoded.epoll d a
  | cfg a b => exact Encoded.cfg a b
  | start => exact Encoded.start
  | kerf => exact Encoded.kerf
  | erd d a w => exact Encoded.erd d a w
  | round a => exact Encoded.round a
  | lstat d a => exact Encoded.lstat d a
  | barT => exact Encoded.barT
  | phase a => exact Encoded.phase a
  | cwait a b => exact Encoded.cwait a b
  | cadd a b => exact Encoded.cadd a b
  | notify a b => exact Encoded.notify a b
  | cancel a => exact Encoded.cancel a
  | forkw d a n => exact Encoded.forkw d a n
  | choose => exact Encoded.choose
  | wyield a => exact Encoded.wyield a
  | region a => exact Encoded.region a
  | trap n => exact Encoded.trap n
  | eret => exact Encoded.eret
  | mfs d r => exact Encoded.mfs d r
  | mts a r => exact Encoded.mts a r
  | wfe => exact Encoded.wfe
  | brk n => exact Encoded.brk n
  | _ => exact Encoded.of_none rfl

/-- Settles O1: row by row, by the word that each instruction has. -/
theorem decodeOfEncode : Obligations.DecodeOfEncode := encoded_all

/-! ### What a decoded word keeps of its bits -/

theorem regAt_val (w lo : Nat) : (regAt w lo).val = w / 2 ^ lo % 32 := rfl

theorem bitsAt_toNat (w lo n : Nat) : (bitsAt w lo n).toNat = w / 2 ^ lo % 2 ^ n := BitVec.toNat_ofNat ..

/-- A field's bits shifted down in two parts. -/
theorem div_pow_add (w m n : Nat) : w / 2 ^ (m + n) = w / 2 ^ m / 2 ^ n := by
  rw [Nat.div_div_eq_div_mul, pow_add]

theorem encode_eq_of_val {i : Instr} {v w : Nat} (he : encode i = some (BitVec.ofNat 32 v)) (hv : v = w) :
    encode i = some (BitVec.ofNat 32 w) := hv ▸ he

/-- Every row of the tables: its conditions fix the bits that are no operand's, and its operands are the rest. -/
theorem encode_of_decodeFields {op w : Nat} (ho : w / 2 ^ 25 = op) :
    ∀ i, decodeFields op w = .ok i → encode i = some (BitVec.ofNat 32 w) := by
  have cut25 := div_pow_add w 20 5
  have cut20 := div_pow_add w 15 5
  have cut15 := div_pow_add w 10 5
  simp only [Nat.reducePow, Nat.reduceAdd] at cut25 cut20 cut15
  fun_cases decodeFields op w
  all_goals rintro _ ⟨⟩
  all_goals
    refine encode_eq_of_val rfl ?_
    simp only [Nat.reducePow, Nat.div_one, regAt_val, bitsAt_toNat, fld, cut25, cut20, cut15] at *
    omega

/-- The opcode is what stands above bit 25. -/
theorem opcode_eq (w : Word32) : w.toNat / 2 ^ 25 = fld w.toNat 25 7 :=
  (Nat.mod_eq_of_lt (Nat.div_lt_of_lt_mul (n := 2 ^ 25) (k := 2 ^ 7) w.isLt)).symm

/-- Settles O2: a word is read by a row of its opcode, and each row gives back the word it reads. -/
theorem encodeOfDecode : Obligations.EncodeOfDecode := by
  intro w i h
  unfold decode at h
  split at h
  · cases h
  split at h
  · cases h
  · rw [encode_of_decodeFields (opcode_eq w) i h, BitVec.ofNat_toNat, BitVec.setWidth_eq]

end Sys2Proof
end

section
/-! SUPPORT. A core's turn: the fetch of a word that is at hand, and what the word then does (R65, R103, R104); O4, O6. -/

namespace Sys2Proof.Machine

open Sys2Proof.Claims

/-- A trap drops what the instruction had under way. -/
theorem takeTrap_setCore {s : State} {c : Core} (h : c.clearStage = s.core.clearStage) (cause : Nat) (tpc tval : Word) :
    takeTrap cause tpc tval (s.setCore c) = takeTrap cause tpc tval s := by
  have hp : (s.setCore c).curPage = { s.curPage with core := c } := s.page_setCore c
  unfold takeTrap
  simp only [State.core_setCore, hp, h, State.setCore_setCore]

/-! ### Fetch -/

theorem landLine_of_scratch_nil {asked : Bool} {s : State} (h : s.core.scratch = []) : landLine asked s = s := by
  unfold landLine
  dsimp only
  rw [h]

theorem codeLine_of_l1i {ea : Word} {s : State} {d : Data} (h : fget s.core.l1i (ea.toNat / 64) = some d) :
    codeLine ea s = .bytes d s := by
  unfold codeLine
  dsimp only
  rw [h]

/-- A word in an L1I line is fetched from there. -/
theorem fetch_of_wordAt {w : Word32} {s : State} (hs : s.core.scratch = []) (h : Claims.WordAt w s) : fetch s = .word w s := by
  obtain ⟨hend, hcode, hbuf, hdue, d, hline, rfl⟩ := h
  unfold fetch
  simp [hend, hcode, hbuf, hdue, landLine_of_scratch_nil hs, codeLine_of_l1i hline]

/-! ### The turn of a core -/

/-- A core with an instruction under way, which waits for nothing, goes on with it. -/
theorem coreTurn_of_fetched {s : State} {p : Nat} {w : Word32} (hr : (s.page p).core.run = .running)
    (hw : (s.page p).core.wait = none) (hs : (s.req (pageAgent p 0 0)).stall = none) (hf : (s.page p).core.fetched = some w) :
    coreTurn p s = execWord w { s with cur := p } := by
  have hc : State.core { s with cur := p } = (s.page p).core := rfl
  have hq : State.req { s with cur := p } (State.me { s with cur := p }) = s.req (pageAgent p 0 0) := rfl
  unfold coreTurn
  simp [hc, hq, hr, hw, hs, hf]

/-- A core that may issue executes the word at its pc. -/
theorem coreTurn_of_mayIssue {s : State} {p : Nat} {w : Word32} (hm : Claims.MayIssue p s) (ha : Claims.WordAt w { s with cur := p }) :
    coreTurn p s = execWord w (Claims.holding w { s with cur := p }) := by
  obtain ⟨hrun, hclear, hlost, hhaz, hchosen, hstall⟩ := hm
  have hwait : (s.page p).core.wait = none := by rw [← hclear, Core.clearStage_wait]
  have hfetched : (s.page p).core.fetched = none := by rw [← hclear, Core.clearStage_fetched]
  have hfailed : (s.page p).core.failed = false := by rw [← hclear, Core.clearStage_failed]
  have hscratch : (s.page p).core.scratch = [] := by rw [← hclear, Core.clearStage_scratch]
  have hc : State.core { s with cur := p } = (s.page p).core := rfl
  have hq : State.req { s with cur := p } (State.me { s with cur := p }) = s.req (pageAgent p 0 0) := rfl
  have hch : State.chosen { s with cur := p } p = false := hchosen
  unfold coreTurn
  simp [hc, hq, hrun, hwait, hstall, hfetched, Core.atBoundary, hfailed, hlost, hhaz, hch, fetchTurn,
    fetch_of_wordAt (hc ▸ hscratch) ha, Claims.holding]

theorem execWord_of_decode {w : Word32} {i : Instr} (h : decode w = .ok i) (s : State) : execWord w s = exec i s := by
  rw [execWord, h]

theorem execWord_of_undecoded {w : Word32} {e : DecodeError} (h : decode w = .error e) (s : State) :
    execWord w s = execIllegalWord w s := by
  rw [execWord, h]

/-- The trap of an undecodable word is that of the state before the fetch, for a trap drops the word held. -/
theorem execIllegalWord_holding (w : Word32) (s : State) : execIllegalWord w (Claims.holding w s) = execIllegalWord w s := by
  unfold execIllegalWord trapHere Claims.holding
  rw [takeTrap_setCore (c := { s.core with fetched := some w }) rfl, State.core_setCore]

/-- The step of a core's turn. -/
theorem step_core {s : State} {p : Nat} {ts : List Turn} (h : s.turns = .core p :: ts) :
    step s = coreTurn p { s with turns := ts } := by
  rw [step, h]
  rfl

end Sys2Proof.Machine

namespace Sys2Proof

open Sys2Proof.Machine Sys2Proof.Claims

/-- Settles O4: the fetch answers the word at the pc, or the instruction under way stands in `fetched`. -/
theorem stepRunsDecoded : Obligations.StepRunsDecoded := by
  intro s p ts w i ht hd
  rw [step_core ht]
  refine ⟨fun hm ha => ?_, fun hr hw hs hf => ?_⟩
  · rw [coreTurn_of_mayIssue (s := { s with turns := ts }) hm ha, execWord_of_decode hd]
  · rw [coreTurn_of_fetched (s := { s with turns := ts }) hr hw hs hf, execWord_of_decode hd]

theorem stepTrapsUndecoded : Claims.StepTrapsUndecoded := by
  intro s p ts w e ht hm ha hd
  have hstep : step s = execIllegalWord w { s with turns := ts, cur := p } := by
    rw [step_core ht, coreTurn_of_mayIssue (s := { s with turns := ts }) hm ha, execWord_of_undecoded hd, execIllegalWord_holding]
  exact ⟨hstep, hstep.symm⟩

theorem stepWithoutTurns : Claims.StepWithoutTurns := by
  intro s ht can
  have hs : ({ s with turns := [] } : State) = s := by rw [← ht]
  have hcore : step { s with turns := [.core s.cur] } = coreTurn s.cur s := by
    rw [step_core (s := { s with turns := [.core s.cur] }) rfl, hs]
  have htick : step { s with turns := [.tick 1] } = .next (passTime 1 s) := by
    conv_rhs => rw [← hs]
    rfl
  have hcan : can ↔ s.core.run = .running ∧ s.core.wait.isNone = true
      ∧ (s.req (pageAgent s.cur 0 0)).stall.isNone = true := by
    simp only [can, Option.isNone_iff_eq_none]
  refine ⟨fun h => ?_, fun h => ?_⟩
  · rw [hcore, step, ht]
    exact if_pos (hcan.1 h)
  · rw [htick, step, ht]
    exact if_neg (mt hcan.2 h)

/-- Settles O6: a fetched word that decodes to nothing traps, and without turns the current core's own turn is taken where it
can move. -/
theorem stepOtherwise : Obligations.StepOtherwise := ⟨stepTrapsUndecoded, stepWithoutTurns⟩

end Sys2Proof
end

section
/-! SUPPORT. Accesses that trap before they reach memory (R65, R128 to R130); O17. -/

namespace Sys2Proof.Machine

open Sys2Proof.Claims

theorem not_t0Range {ea : Word} (h : 2 ^ 48 ≤ ea.toNat) : (!t0Range ea) = true := by
  simpa [t0Range] using h

theorem load_misaligned {d : Reg} {ea : Word} {size : Nat} {sg tn home : Bool} {s : State} (h : ea.toNat % size ≠ 0) :
    load d ea size sg tn home s = trapHere causeMisalign ea s := if_pos h

theorem load_outOfRange {d : Reg} {ea : Word} {size : Nat} {sg tn home : Bool} {s : State} (ha : ea.toNat % size = 0)
    (h : 2 ^ 48 ≤ ea.toNat) : load d ea size sg tn home s = trapHere causeBounds ea s := by
  rw [load, if_neg (not_not.2 ha), if_pos (not_t0Range h)]

theorem store_misaligned {ea v : Word} {size : Nat} {s : State} (h : ea.toNat % size ≠ 0) :
    store ea size v s = trapHere causeMisalign ea s := if_pos h

theorem store_outOfRange {ea v : Word} {size : Nat} {s : State} (ha : ea.toNat % size = 0) (h : 2 ^ 48 ≤ ea.toNat) :
    store ea size v s = trapHere causeBounds ea s := by
  rw [store, if_neg (not_not.2 ha), if_pos (not_t0Range h)]

/-- Each load, LDC.D among them, is `load` of its address and size. -/
theorem exec_of_loads_ldcD {s : State} {d a b : Reg} {imm : BitVec 15} {h : BitVec 2} {i : Instr} {ea : Word} {size : Nat}
    {sg tn : Bool} (hi : (i, ea, size, sg, tn) ∈ (Instr.ldcD d a imm, s.core.rd a + imm.signExtend 64, 8, false, true)
      :: Claims.Loads s.core d a b imm h) : ∃ tn' home, exec i s = load d ea size sg tn' home s := by
  rcases List.mem_cons.1 hi with h | h
  · cases h
    exact ⟨true, true, rfl⟩
  · exact ⟨tn, tn, (exec_of_loads h).1⟩

end Sys2Proof.Machine

namespace Sys2Proof

open Sys2Proof.Machine Sys2Proof.Claims

theorem ldx_reserved (d a b : Reg) (h : BitVec 2) (s : State) : Illegal (.ldx d a b h 7) s :=
  illegal_of_trapWord rfl rfl

/-- Settles O17: the two checks that every load and store begins with. -/
theorem accessTraps : Obligations.AccessTraps := by
  intro s d a b imm h i ea size hi
  rcases hi with ⟨sg, tn, hi⟩ | hi
  · obtain ⟨tn', home, he⟩ := exec_of_loads_ldcD hi
    exact ⟨fun hm => he.trans (load_misaligned hm), fun ha hr => he.trans (load_outOfRange ha hr), ldx_reserved ..⟩
  · obtain ⟨he, -⟩ := exec_of_stores hi
    exact ⟨fun hm => he.trans (store_misaligned hm), fun ha hr => he.trans (store_outOfRange ha hr), ldx_reserved ..⟩

end Sys2Proof
end

section
/-! SUPPORT. Atomics of a core: the nine operations, the issue of a request, and its result (R134, R135); O22. -/

namespace Sys2Proof.Machine

open Sys2Proof.Claims

/-- Each atomic is `atomic` on its address, with its operation, width and operands. -/
theorem exec_of_atomics {s : State} {d a b : Reg} {r : BitVec 2} {op : BitVec 4} {i : Instr} {aop size : Nat} {ws : List Word}
    {tn : Bool} (hi : (i, aop, size, ws, tn) ∈ Claims.Atomics s.core d a b r op) (ho : op.toNat ≤ 8) :
    (∃ cas, exec i s = atomic d (s.core.rd a) size aop ws tn cas r s) ∧ (size = 4 ∨ size = 8) := by
  have hamo (w : Instr) (n : Nat) : amo w d a b r op n s
      = atomic d (s.core.rd a) n op.toNat [s.core.rd b] (s.core.taint2 a b) false r s := if_neg (by omega)
  simp only [Claims.Atomics, List.mem_cons, List.not_mem_nil, or_false, Prod.mk.injEq] at hi
  rcases hi with ⟨rfl, rfl, rfl, rfl, rfl⟩ | ⟨rfl, rfl, rfl, rfl, rfl⟩ | ⟨rfl, rfl, rfl, rfl, rfl⟩ | ⟨rfl, rfl, rfl, rfl, rfl⟩
  · exact ⟨⟨false, hamo (.amoW d a b r op) 4⟩, .inl rfl⟩
  · exact ⟨⟨false, hamo (.amoD d a b r op) 8⟩, .inr rfl⟩
  · exact ⟨⟨true, rfl⟩, .inl rfl⟩
  · exact ⟨⟨true, rfl⟩, .inr rfl⟩

/-! ### The result -/

/-- A core that receives the old value: its register, and DISC of a VOID block. -/
def answeredCore (c : Core) (d : Reg) (v : Word) (tn disc : Bool) : Core := (if disc then c.setDisc else c).wr d v tn

theorem answeredCore_frame (c : Core) (d : Reg) (v : Word) (tn disc : Bool) :
    answeredCore c d v tn disc = { c with regs := (answeredCore c d v tn disc).regs,
                                          taint := (answeredCore c d v tn disc).taint, disc := c.disc || disc } := by
  rw [answeredCore, wr_frame]
  cases disc
  · simp
  · simp [Core.setDisc]

theorem sets_answeredCore (c : Core) (d : Reg) (v : Word) (tn disc : Bool) : Sets d v tn c (answeredCore c d v tn disc) := by
  cases disc
  · exact sets_wr c d v tn
  · exact sets_wr c.setDisc d v tn

/-- The result of an answer that is at hand. -/
theorem atomicResult_eq {d : Reg} {ea : Word} {size : Nat} {tn : Bool} {r : BitVec 2} {s : State} {old note : Word}
    (hs : s.core.scratch = [old, note]) (hn : note ≠ 2) :
    let v : Word := if size = 4 then (old.extractLsb' 0 32).signExtend 64 else old
    let t := s.setCore (answeredCore s.core d v tn (decide (note = 1)))
    atomicResult d ea size tn r s = .next (complete (if ordAcq r then acquire 2 t else t).core (if ordAcq r then acquire 2 t else t)) := by
  intro v t
  have hc : (if note = 1 then s.core.setDisc else s.core) = if decide (note = 1) = true then s.core.setDisc else s.core := by
    simp only [decide_eq_true_eq]
  unfold atomicResult
  simp only [hs, List.head?_cons, Option.getD_some, List.drop_succ_cons, List.drop_zero, if_neg hn, hc]
  rfl

theorem atomicResult_poison {d : Reg} {ea : Word} {size : Nat} {tn : Bool} {r : BitVec 2} {s : State} {old : Word}
    (hs : s.core.scratch = [old, 2]) : atomicResult d ea size tn r s = trapHere causePoison ea s := by
  unfold atomicResult
  simp [hs]

/-- An atomic whose answer has come gives its result. -/
theorem atomic_answered {d : Reg} {ea : Word} {size aop : Nat} {ws : List Word} {tn cas : Bool} {r : BitVec 2} {s : State}
    (h1 : s.core.stage = 1) (hf : s.core.failed = false) :
    atomic d ea size aop ws tn cas r s = atomicResult d ea size tn r s := by
  rw [atomic, if_pos h1, if_neg (by simp [hf])]

theorem cacheFrame_of_setCore {s u : State} {c : Core} (h : CacheFrame (s.setCore c) u) : CacheFrame s u := by
  obtain ⟨he, hr, hp, hm⟩ := h
  exact ⟨he, hr, fun p hn => (hp p hn).trans (State.page_setCore_other hn), hm⟩

/-- After ACQ.M the partition has no valid byte in the bay's RDC. -/
theorem acquire_rdc (s : State) : ∀ l ∈ ((acquire 2 s).bay (bayOf s.cur)).rdc, l.part = s.curPart → l.valid = 0 := by
  have hpart : (s.setCore (s.core.invalClean fun _ => true)).curPart = s.curPart := by
    simp only [State.curPart, State.setCore_cur, State.trussOf_setCore]
  have hb : ((acquire 2 s).bay (bayOf s.cur)).rdc = (((s.bay (bayOf s.cur)).rdc.map fun l =>
      if l.part == s.curPart && true then { l with valid := 0, known := l.known && decide (l.pend = fullMask) } else l).filter
        fun l => !(l.valid == 0 && l.unacked.isEmpty)) := by
    rw [← hpart]
    exact congrArg Bay.rdc (State.bay_setBay (s.setCore (s.core.invalClean fun _ => true)) (bayOf s.cur) _)
  intro l hl hp
  rw [hb] at hl
  obtain ⟨k, -, rfl⟩ := List.mem_map.1 (List.mem_filter.1 hl).1
  split
  · rfl
  · rename_i hne
    rw [if_neg hne] at hp
    simp [hp] at hne

/-! ### The operations -/

/-- The signed value that MIN and MAX compare. -/
theorem signed_eq_toInt {w : Nat} (hw : 0 < w) (o : BitVec w) :
    (if o.toNat < 2 ^ w / 2 then (o.toNat : Int) else (o.toNat : Int) - (2 ^ w : Nat)) = o.toInt := by
  have h2 : 2 ^ w = 2 * 2 ^ (w - 1) := by rw [← pow_succ', Nat.sub_add_cancel hw]
  rw [BitVec.toInt]
  exact if_congr (by omega) rfl rfl

theorem atomicOp_min {w : Nat} (hw : 0 < w) (o x : BitVec w) :
    atomicOp 4 w o.toNat x.toNat = (if o.toInt ≤ x.toInt then o else x).toNat
    ∧ atomicOp 5 w o.toNat x.toNat = (if x.toInt ≤ o.toInt then o else x).toNat := by
  simp only [atomicOp, Nat.mod_eq_of_lt o.isLt, Nat.mod_eq_of_lt x.isLt, signed_eq_toInt hw]
  constructor <;> split <;> rfl

theorem atomicOp_minu {w : Nat} (o x : BitVec w) :
    atomicOp 6 w o.toNat x.toNat = (if o ≤ x then o else x).toNat
    ∧ atomicOp 7 w o.toNat x.toNat = (if x ≤ o then o else x).toNat := by
  simp only [atomicOp, Nat.mod_eq_of_lt o.isLt, Nat.mod_eq_of_lt x.isLt, BitVec.le_def]
  constructor <;> split <;> rfl

theorem atomicOp_add {w : Nat} (o x : BitVec w) : atomicOp 0 w o.toNat x.toNat = (o + x).toNat := by
  simp only [atomicOp, Nat.mod_eq_of_lt o.isLt, Nat.mod_eq_of_lt x.isLt, BitVec.toNat_add]

/-- AND, OR, XOR and SWAP. -/
theorem atomicOp_bits {w : Nat} (o x : BitVec w) :
    atomicOp 1 w o.toNat x.toNat = (o &&& x).toNat ∧ atomicOp 2 w o.toNat x.toNat = (o ||| x).toNat
    ∧ atomicOp 3 w o.toNat x.toNat = (o ^^^ x).toNat ∧ atomicOp 8 w o.toNat x.toNat = x.toNat := by
  simp only [atomicOp, Nat.mod_eq_of_lt o.isLt, Nat.mod_eq_of_lt x.isLt, BitVec.toNat_and, BitVec.toNat_or, BitVec.toNat_xor,
    and_self]

/-! ### The request -/

/-- A read under way, but for the mark that it is too old to fill a line. -/
def WinEntry.unmarked (e : WinEntry) : WinEntry := { e with stale := false }

theorem State.req_rdcAtomic_win (s : State) (b : Nat) (k : Packet) (l : List (BitVec 32)) (a : AgentId) :
    ((s.rdcAtomic b k l).req a).win.map WinEntry.unmarked = (s.req a).win.map WinEntry.unmarked := by
  unfold State.rdcAtomic
  split
  · rfl
  · exact (State.modReads_readsKept _ _ _ _ a).2

/-- An atomic's launch keeps the window, but for marks, and touches no page and no byte of memory. -/
theorem State.launchWrite_atomic (s : State) (a : AgentId) {k : Packet} (hk : k.op = .atomic) :
    (s.launchWrite a k = { s with bays := (s.launchWrite a k).bays, reqs := (s.launchWrite a k).reqs,
                                  packets := (s.launchWrite a k).packets, fresh := (s.launchWrite a k).fresh })
    ∧ ((s.launchWrite a k).req a).win.map WinEntry.unmarked = (s.req a).win.map WinEntry.unmarked := by
  have hw : ¬ k.op = .write := by rw [hk]; decide
  have hframe (u : State) (b : Nat) (k : Packet) :
      u.rdcAtomic b k [] = { u with bays := (u.rdcAtomic b k []).bays, reqs := (u.rdcAtomic b k []).reqs } := by
    unfold State.rdcAtomic
    split <;> rfl
  unfold State.launchWrite
  dsimp only
  rw [if_neg hw]
  refine ⟨?_, ?_⟩
  · rw [hframe]
    rfl
  · refine (State.req_rdcAtomic_win _ _ _ _ a).trans ?_
    rw [State.req_setReq]

/-- The agent code of a core. -/
theorem State.me_code (s : State) : s.me.code % 8 = 0 := by simp [State.me, pageAgent]

/-- An atomic is launched, or queued behind what its core has still to send. -/
theorem State.submitWrite_atomic (s : State) {a : AgentId} (hc : a.code % 8 = 0) {k : Packet} (hk : k.op = .atomic) :
    let t := s.submitWrite a k
    (t = { s with bays := t.bays, reqs := t.reqs, packets := t.packets, fresh := t.fresh })
    ∧ (t.req a).win.map WinEntry.unmarked = (s.req a).win.map WinEntry.unmarked := by
  have hnote (u : State) (x b c : Nat) (ph : Phys) (wr : Bool) : u.noteOther a x b c ph wr = u := if_pos hc
  have hw : ¬ k.op = .write := by rw [hk]; decide
  unfold State.submitWrite
  simp only [hnote, ite_self, hc, List.foldl_fixed, if_neg hw]
  split
  · rw [State.req_setReq]
    exact ⟨rfl, rfl⟩
  · obtain ⟨h1, h2⟩ := State.launchWrite_atomic (s.setReq a (s.req a)) a (k := k) hk
    rw [State.req_setReq] at h2
    exact ⟨h1, h2⟩

/-- An atomic's request takes the next tag, and its window entry is the newest. -/
theorem State.atomicReq_spec (s : State) {a : AgentId} (hc : a.code % 8 = 0) (part : Nat) (ph : Phys) (off width aop : Nat)
    (words : List Word) :
    let q := s.atomicReq a part ph 0 0 off width aop words
    q.2 = { s with bays := q.2.bays, reqs := q.2.reqs, packets := q.2.packets, fresh := q.2.fresh }
    ∧ (q.2.req a).win.length = (s.req a).win.length + 1
    ∧ ∃ k, (q.2.req a).win.getLast? = some k ∧ k.tag = q.1 ∧ k.tag = (s.req a).takeTag.1 ∧ k.pkt.op = .atomic ∧ k.pkt.aop = aop
      ∧ k.pkt.width = width ∧ k.pkt.words = words ∧ k.pkt.phys = ph := by
  intro q
  -- The entry as it is opened, and the requester that holds it.
  let pkt : Packet := { Packet.blank .atomic part a (homeAgent (ph.home a.bay)) 1 with
    phys := ph, slot := 0, gen := 0, off := off, len := 8 * words.length, words := words, aop := aop, width := width,
    dmod := ph.module, blocks := [⟨ph.blk, 0, descUint8, byteMask ph.low width, 0⟩], tag := (s.req a).takeTag.1,
    life := (s.req a).takeTag.2.life }
  let e : WinEntry := ⟨(s.req a).takeTag.1, pkt, s.now, none, false, none, none, [], false⟩
  obtain ⟨hframe, hwin⟩ := (s.setReq a { (s.req a).takeTag.2 with win := (s.req a).takeTag.2.win ++ [e] }).submitWrite_atomic hc (k := pkt) rfl
  rw [State.req_setReq] at hwin
  have hlen := congrArg List.length hwin
  have hlast := congrArg List.getLast? hwin
  rw [List.getLast?_map, List.getLast?_map, List.getLast?_concat] at hlast
  obtain ⟨k, hk, hke⟩ := Option.map_eq_some_iff.1 hlast
  simp only [List.length_map, List.length_append, List.length_singleton] at hlen
  refine ⟨hframe, hlen, k, hk, ?_⟩
  have htag : k.tag = e.tag := show k.unmarked.tag = e.unmarked.tag by rw [hke]
  have hpkt : k.pkt = e.pkt := show k.unmarked.pkt = e.unmarked.pkt by rw [hke]
  rw [htag, hpkt]
  exact ⟨rfl, rfl, rfl, rfl, rfl, rfl, rfl⟩

/-! ### The issue -/

theorem atomic_misaligned {d : Reg} {ea : Word} {size aop : Nat} {ws : List Word} {tn cas : Bool} {r : BitVec 2} {s : State}
    (h0 : s.core.stage = 0) (h : ea.toNat % size ≠ 0) : atomic d ea size aop ws tn cas r s = trapHere causeMisalign ea s := by
  rw [atomic, if_neg (by rw [h0]; decide), if_pos h]

theorem atomic_outOfRange {d : Reg} {ea : Word} {size aop : Nat} {ws : List Word} {tn cas : Bool} {r : BitVec 2} {s : State}
    (h0 : s.core.stage = 0) (ha : ea.toNat % size = 0) (h : 2 ^ 48 ≤ ea.toNat) :
    atomic d ea size aop ws tn cas r s = trapHere causeBounds ea s := by
  rw [atomic, if_neg (by rw [h0]; decide), if_neg (not_not.2 ha), if_pos (not_t0Range h)]

/-- The L1D without the line of an address. -/
def Core.dropLine (c : Core) (n view : Nat) : Core := { c with l1d := c.l1d.filter fun l => !(l.line == n && l.view == view) }

theorem Core.line_dropLine (c : Core) (n view : Nat) : (c.dropLine n view).line n view = none := by
  rw [Core.line_eq_find, List.find?_eq_none]
  intro l hl
  have h : (!(l.isAt n view)) = true := (List.mem_filter.1 hl).2
  simpa using h

/-- A core that issues an atomic: its line has left the L1D. -/
def issueFrom (u : State) (ea : Word) : State := u.setCore (u.core.dropLine (ea.toNat / 64) u.curView)

/-- An atomic outside a world that nothing holds back goes out as a request. -/
theorem atomic_issues {d : Reg} {ea : Word} {size aop e : Nat} {ws : List Word} {tn cas : Bool} {r : BitVec 2} {s u : State}
    {ph : Phys} (h0 : s.core.stage = 0) (hf : s.core.failed = false) (ha : ea.toNat % size = 0) (hr : ea.toNat < 2 ^ 48)
    (hx : s.xlate (bayOf s.cur) s.curPart s.curView 0 (ea.toNat / 2 ^ 16) = (.leaf e, u)) (ht : leafTgt e ≠ 2)
    (hro : leafRo e = false) (hdep : s.curDepth = 0) (hview : s.curView = 0) (hrel : r.getLsbD 1 = false)
    (hh : s.hazOn s.cur = false) (hl : ∀ l, s.core.line (ea.toNat / 64) s.curView = some l → l.dirty = 0)
    (hroom : (s.req s.me).kept.length + (s.req s.me).unsent.length < 32) (hst : (s.req s.me).stall = none)
    (hp : s.placeOf s.curPart e ea.toNat = .ok ph) :
    let q := (issueFrom u ea).atomicReq s.me s.curPart ph 0 0 ea.toNat size aop ws
    atomic d ea size aop ws tn cas r s = waitFor (.resp q.1) 1 q.2 := by
  intro q
  have hu : u = { s with bays := u.bays } := by
    have := s.xlate_frame (bayOf s.cur) s.curPart s.curView 0 (ea.toNat / 2 ^ 16)
    rwa [hx] at this
  have hk := sameButBays hu
  have hown : u.ownPanel u.curPart u.curView 0 (ea.toNat / 2 ^ 16) (leafSh e) = true := by
    rw [State.ownPanel, if_pos (.inl (hk.view.trans hview))]
  have hdrop : (match u.core.line (ea.toNat / 64) u.curView with
      | some l => if l.dirty = 0 then Go.ok () u else wbLine l u
      | none => Go.ok () u) = .ok () u := by
    rw [hk.core, hk.view]
    split
    · rename_i l hsome
      rw [if_pos (hl l hsome)]
    · rfl
  have hme : (issueFrom u ea).me = s.me := hk.me
  have hpart : (issueFrom u ea).curPart = s.curPart := by
    rw [← hk.part]
    simp only [issueFrom, State.curPart, State.setCore_cur, State.trussOf_setCore]
  have hreq : (issueFrom u ea).req s.me = s.req s.me := congrFun hk.req s.me
  have hplace : (issueFrom u ea).placeOf (issueFrom u ea).curPart e ea.toNat = .ok ph := by
    rw [hpart, ← hp, hu]
    rfl
  have hhaz : (issueFrom u ea).hazOn (issueFrom u ea).cur = false :=
    (State.hazOn_setCore u (u.core.dropLine (ea.toNat / 64) u.curView) rfl).trans (hk.haz.trans hh)
  have hkeep : ¬ (!((issueFrom u ea).req (issueFrom u ea).me).keepRoom || ((issueFrom u ea).req (issueFrom u ea).me).stall.isSome) = true := by
    rw [hme, hreq]
    simp [Requester.keepRoom, hroom, hst]
  rw [atomic, if_neg (by rw [h0]; decide), if_neg (not_not.2 ha), if_neg (by simpa [t0Range] using hr), if_neg (by simp [hf]),
    coreXlate_leaf hx, if_neg ht, Go.bind, if_neg (by simp [hro]), if_neg (by simp [hk.depth, hdep]),
    if_neg (by simp [hk.depth, hdep]), coreOwn_own hown, Go.bind, if_neg (by rw [ordRel, hrel]; decide), Go.bind]
  refine (congrArg (Go.bind · _) hdrop).trans ?_
  change (if (!((issueFrom u ea).req (issueFrom u ea).me).keepRoom || ((issueFrom u ea).req (issueFrom u ea).me).stall.isSome) = true then _
    else (corePlace e ea true (issueFrom u ea)).bind _) = _
  rw [if_neg hkeep, corePlace_ok hplace, Go.bind]
  simp only [State.noteCore_off hhaz]
  rw [hme, hpart]

end Sys2Proof.Machine

namespace Sys2Proof

open Sys2Proof.Machine Sys2Proof.Claims

theorem atomicResults : Claims.AtomicResults := by
  intro s d a b r op i aop size ws tn old note hi _ hop hst hf hsc
  obtain ⟨⟨cas, he⟩, -⟩ := exec_of_atomics hi hop
  rw [atomic_answered hst hf] at he
  refine ⟨fun h2 => he.trans (atomicResult_poison (h2 ▸ hsc)), fun h2 hq => ?_⟩
  intro v disc
  have hr := he.trans (atomicResult_eq hsc h2)
  have hc := answeredCore_frame s.core d v tn (decide (note = 1))
  have hset := sets_answeredCore s.core d v tn (decide (note = 1))
  change exec i s = .next (complete (if ordAcq r then acquire 2 (s.setCore (answeredCore s.core d v tn (decide (note = 1))))
    else s.setCore (answeredCore s.core d v tn (decide (note = 1)))).core _) at hr
  generalize answeredCore s.core d v tn (decide (note = 1)) = c at hr hc hset
  have hdz : c.dz = s.core.dz := by rw [hc]
  have hdisc : c.disc = disc := by rw [hc]
  refine ⟨fun h0 => ⟨_, ?_, hdz ▸ hdisc ▸ result_complete (by rw [hc]) hset⟩, fun h0 => ?_⟩
  · have hq' : c.sstep = false ∨ (s.setCore c).core.inh = true := by rw [State.core_setCore, hc]; exact hq
    rw [hr, ordAcq, h0, if_neg (by simp), State.core_setCore, complete_eq hq', State.setCore_setCore]
  · obtain ⟨hframe, hcore⟩ := acquire_spec 2 (s.setCore c)
    have hrdc := acquire_rdc (s.setCore c)
    rw [ordAcq, h0, if_pos rfl] at hr
    generalize acquire 2 (s.setCore c) = u at hr hframe hcore hrdc
    rw [State.core_setCore] at hcore
    have hq' : u.core.sstep = false ∨ u.core.inh = true := by rw [hcore, hc]; exact hq
    rw [complete_eq hq'] at hr
    have hpart : (s.setCore c).curPart = s.curPart := by simp only [State.curPart, State.setCore_cur, State.trussOf_setCore]
    refine ⟨_, hr, cacheFrame_setCore (cacheFrame_of_setCore hframe) _, ?_, ?_, ?_, ?_, ?_, hpart ▸ hrdc⟩
    · rw [State.core_setCore, Core.advance_frame, hcore]
      exact hset
    · rw [State.core_setCore, hcore, hc]
      exact pcPast_advance rfl rfl
    · rw [State.core_setCore, Core.advance_frame, hcore]
      exact hdz
    · rw [State.core_setCore, Core.advance_frame, hcore]
      exact hdisc
    · rw [State.core_setCore, Core.advance_frame, hcore]
      exact c.invalClean_dirty

theorem atomicOperations : Claims.AtomicOperations := by
  refine ⟨fun s d a b r op h => ⟨illegal_of_trapWord rfl (if_pos h), illegal_of_trapWord rfl (if_pos h)⟩, fun w hw o x => ?_⟩
  have h0 : 0 < w := by rcases hw with rfl | rfl <;> decide
  obtain ⟨hand, hor, hxor, hswap⟩ := atomicOp_bits o x
  obtain ⟨hmin, hmax⟩ := atomicOp_min h0 o x
  obtain ⟨hminu, hmaxu⟩ := atomicOp_minu o x
  exact ⟨atomicOp_add o x, hand, hor, hxor, hmin, hmax, hminu, hmaxu, hswap⟩

/-- A leaf that may not be written traps. -/
theorem atomic_readOnly {d : Reg} {ea : Word} {size aop e : Nat} {ws : List Word} {tn cas : Bool} {r : BitVec 2} {s u : State}
    (h0 : s.core.stage = 0) (hf : s.core.failed = false) (ha : ea.toNat % size = 0) (hr : ea.toNat < 2 ^ 48)
    (hx : s.xlate (bayOf s.cur) s.curPart s.curView 0 (ea.toNat / 2 ^ 16) = (.leaf e, u)) (ht : leafTgt e ≠ 2)
    (hro : leafRo e = true) : atomic d ea size aop ws tn cas r s = trapHere causeHandle ea u := by
  rw [atomic, if_neg (by rw [h0]; decide), if_neg (not_not.2 ha), if_neg (by simpa [t0Range] using hr), if_neg (by simp [hf]),
    coreXlate_leaf hx, if_neg ht, Go.bind, if_pos hro]

theorem atomicIssue : Claims.AtomicIssue := by
  intro s u d a b r op i aop size e ws tn ph hi hop h0 hf ea
  obtain ⟨⟨cas, he⟩, -⟩ := exec_of_atomics hi hop
  refine ⟨fun hm => he.trans (atomic_misaligned h0 hm), fun ha hr => he.trans (atomic_outOfRange h0 ha hr), fun ha hr hx ht => ?_⟩
  have hu : u = { s with bays := u.bays } := by
    have := s.xlate_frame (bayOf s.cur) s.curPart s.curView 0 (ea.toNat / 2 ^ 16)
    rwa [hx] at this
  have hk := sameButBays hu
  refine ⟨fun hro => ?_, fun hro hdep hview hrel hh hl hroom hst hp => ?_⟩
  · rw [he, atomic_readOnly h0 hf ha hr hx ht hro, trapHere, hk.core]
    rfl
  · have hgo := he.trans (atomic_issues h0 hf ha hr hx ht hro hdep hview hrel hh hl hroom hst hp)
    obtain ⟨hframe, hlen, k, hlast, htag, htake, hpkt⟩ :=
      (issueFrom u ea).atomicReq_spec s.me_code s.curPart ph ea.toNat size aop ws
    have hreq : (issueFrom u ea).req s.me = s.req s.me := congrFun hk.req s.me
    rw [hreq] at hlen htake
    generalize (issueFrom u ea).atomicReq s.me s.curPart ph 0 0 ea.toNat size aop ws = q at hgo hframe hlen hlast htag
    have hcore : q.2.core = s.core.dropLine (ea.toNat / 64) s.curView := by
      rw [hframe, ← hk.core, ← hk.view]
      exact State.core_setCore u _
    have hmem : q.2.mem = s.mem := by
      rw [hframe]
      exact hk.mem
    refine ⟨_, k, hgo, ?_, ?_, ?_, hmem, ?_, hlast, hlen, htake, hpkt⟩
    · rw [State.core_setCore, htag]
    · rw [State.core_setCore]
    · rw [State.core_setCore, hcore]
      exact ⟨fun _ => ⟨rfl, rfl⟩, rfl, rfl, rfl, rfl, rfl, rfl, rfl, rfl, rfl, rfl⟩
    · rw [State.core_setCore, hcore]
      exact s.core.line_dropLine (ea.toNat / 64) s.curView

/-- Settles O22: the operations on bit vectors, the issue of the request, and the result by what the core receives. -/
theorem atomicsComplete : Obligations.AtomicsComplete := ⟨atomicOperations, atomicResults, atomicIssue⟩

end Sys2Proof
end

section
/-! SUPPORT. The hops of an element: tokens that leave them and enter them, and what else then stays (R78, R251, R253). -/

namespace Sys2Proof.Machine

open Sys2Proof.Claims

/-! ### Elements replaced -/

theorem State.elem_setElem_other {s : State} {p e q f : Nat} {x : Elem} (h : (q, f) ≠ (p, e)) :
    (s.setElem p e x).elem q f = s.elem q f := by
  unfold State.elem State.setElem
  by_cases hq : q = p
  · subst hq
    rw [State.page_setPage, Page.elem_setElem_other fun hf => h (by rw [hf])]
  · rw [State.page_setPage_other hq]

@[simp] theorem State.elem_modElem (s : State) (p e : Nat) (f : Elem → Elem) : (s.modElem p e f).elem p e = f (s.elem p e) :=
  State.elem_setElem ..

theorem State.elem_modElem_other {s : State} {p e q d : Nat} {f : Elem → Elem} (h : (q, d) ≠ (p, e)) :
    (s.modElem p e f).elem q d = s.elem q d := State.elem_setElem_other h

theorem State.vfOfPage_modElem (s : State) (p e : Nat) (f : Elem → Elem) (q : Nat) :
    (s.modElem p e f).vfOfPage q = s.vfOfPage q := by
  have ht : ((s.modElem p e f).page q).truss = (s.page q).truss := by
    by_cases h : q = p
    · rw [h, State.modElem, State.setElem, State.page_setPage]
      rfl
    · rw [State.modElem, State.setElem, State.page_setPage_other h]
  unfold State.vfOfPage
  rw [ht]
  rfl

theorem fabricOnly_refl (s : State) (p e : Nat) : Claims.FabricOnly s s p e :=
  ⟨rfl, fun _ _ => rfl, rfl, fun _ _ _ => rfl⟩

theorem fabricOnly_trans {s t u : State} {p e : Nat} (h : Claims.FabricOnly s t p e) (k : Claims.FabricOnly t u p e) :
    Claims.FabricOnly s u p e := by
  obtain ⟨h1, h2, h3, h4⟩ := h
  obtain ⟨k1, k2, k3, k4⟩ := k
  refine ⟨?_, fun q hq => (k2 q hq).trans (h2 q hq), ?_, fun q f hn => (k4 q f hn).trans (h4 q f hn)⟩
  · rw [k1, h1]
  · rw [h3] at k3
    exact k3

theorem fabricOnly_modElem (s : State) (p e : Nat) (f : Elem → Elem) : Claims.FabricOnly s (s.modElem p e f) p e :=
  ⟨rfl, fun _ hq => State.page_setPage_other hq, by rw [State.modElem, State.setElem, State.page_setPage]; rfl,
    fun _ _ hn => State.elem_modElem_other hn⟩

theorem fabricOnly_mem {s t : State} {p e : Nat} (h : Claims.FabricOnly s t p e) : t.mem = s.mem := by rw [h.1]

/-- A token that has arrived whole passes its check. -/
theorem State.checked_whole {s : State} {t : Token} (h : t.lost = false) (p e : Nat) : s.checked p e t = (some t, s) := by
  simp [State.checked, h]

/-! ### Hops -/

theorem Elem.hops_hopPush (x : Elem) (h : Nat) (t : Token) (j : Nat) :
    fgetD (x.hopPush h t).hops j [] = fgetD x.hops j [] ++ if j = h then [t] else [] := by
  by_cases hj : j = h
  · simp [Elem.hopPush, fgetD, hj]
  · simp [Elem.hopPush, fgetD, hj, fget_fput_other hj]

/-- A token enters each hop of a list. -/
def Elem.pushAll (x : Elem) (l : List Nat) (t : Token) : Elem := l.foldl (fun x h => x.hopPush h t) x

theorem Elem.pushAll_frame (x : Elem) (l : List Nat) (t : Token) : x.pushAll l t = { x with hops := (x.pushAll l t).hops } := by
  induction l generalizing x with
  | nil => rfl
  | cons h l ih => exact (ih (x.hopPush h t)).trans rfl

theorem Elem.hops_pushAll {l : List Nat} (hl : l.Nodup) (x : Elem) (t : Token) (j : Nat) :
    fgetD (x.pushAll l t).hops j [] = fgetD x.hops j [] ++ if j ∈ l then [t] else [] := by
  induction l generalizing x with
  | nil => simp [Elem.pushAll]
  | cons h l ih =>
    obtain ⟨hn, hl⟩ := List.nodup_cons.1 hl
    refine (ih hl (x.hopPush h t)).trans ?_
    rw [Elem.hops_hopPush]
    by_cases hj : j = h
    · simp [hj, hn]
    · simp [hj]

theorem Elem.named_nodup (x : Elem) (src : Nat) : (x.named src).Nodup := List.Nodup.filter _ (by decide)

/-- The head of one hop leaves. -/
theorem hopsBecome_hopPop (x : Elem) (h : Nat) (t : Token) : Claims.HopsBecome x (x.hopPop h) [h] [] t := by
  intro j
  rw [Elem.hops_hopPop]
  by_cases hj : j = h
  · simp [hj]
  · simp [hj]

/-- A token enters every hop that a source drives. -/
theorem hopsBecome_pushAll (x : Elem) (src : Nat) (t : Token) : Claims.HopsBecome x (x.pushAll (x.named src) t) [] (x.named src) t := by
  intro j
  rw [Elem.hops_pushAll (x.named_nodup src)]
  rfl

/-- Within the page's bay a token enters a hop at once. -/
theorem State.enterHop_local {s : State} {p e h : Nat} (t : Token) (hl : crossesSeam p e h = false) :
    s.enterHop p e h t = s.modElem p e fun x => x.hopPush h t := if_neg (by simp [hl])

theorem State.enterHops_local {p e : Nat} (t : Token) {l : List Nat} (hl : ∀ h ∈ l, crossesSeam p e h = false) (s : State) :
    let u := l.foldl (fun s h => s.enterHop p e h t) s
    Claims.FabricOnly s u p e ∧ u.elem p e = (s.elem p e).pushAll l t := by
  induction l generalizing s with
  | nil => exact ⟨fabricOnly_refl s p e, rfl⟩
  | cons h l ih =>
    obtain ⟨h1, h2⟩ := ih (fun k hk => hl k (List.mem_cons_of_mem h hk)) (s.enterHop p e h t)
    rw [State.enterHop_local t (hl h List.mem_cons_self)] at h1 h2
    rw [State.elem_modElem] at h2
    rw [List.foldl_cons, State.enterHop_local t (hl h List.mem_cons_self)]
    exact ⟨fabricOnly_trans (fabricOnly_modElem s p e _) h1, h2⟩

/-- A token enters every hop that a source drives, none of them over a seam. -/
theorem State.enterNamed_local {s : State} {p e src : Nat} (t : Token)
    (hl : ∀ h ∈ (s.elem p e).named src, crossesSeam p e h = false) :
    Claims.FabricOnly s (s.enterNamed p e src t) p e
      ∧ (s.enterNamed p e src t).elem p e = (s.elem p e).pushAll ((s.elem p e).named src) t :=
  State.enterHops_local t hl s

end Sys2Proof.Machine
end

section
/-! SUPPORT. TOKEN_HOP from an element's result queues, from a neighbour's hop, and at a sill (R78, R251, R253, R368, R390); O38. -/

namespace Sys2Proof.Machine

open Sys2Proof.Claims

/-- The result queue of an output without its head. -/
def Elem.dropResult (x : Elem) (k : Nat) (rest : List Token) : Elem := if k = 0 then { x with q0 := rest } else { x with q1 := rest }

theorem Elem.dropResult_frame (x : Elem) (k : Nat) (rest : List Token) :
    x.dropResult k rest = { x with q0 := (x.dropResult k rest).q0, q1 := (x.dropResult k rest).q1 } := by
  unfold Elem.dropResult
  split <;> rfl

theorem Elem.dropResult_queue (x : Elem) (k : Nat) (rest : List Token) :
    (if k = 0 then (x.dropResult k rest).q0 else (x.dropResult k rest).q1) = rest := by
  unfold Elem.dropResult
  split <;> rfl

/-- With no hop that names the output, or one of them full, nothing moves. -/
theorem hopFromElem_blocked {s : State} {p e k : Nat} (h : (s.elem p e).named (6 + k) = [] ∨ s.namedFree p e (6 + k) = false) :
    hopFromElem p e k s = s := by
  have hb : (((s.elem p e).named (6 + k)).isEmpty || !s.namedFree p e (6 + k)) = true := by
    rcases h with h | h <;> simp [h]
  unfold hopFromElem
  dsimp only
  split
  · rfl
  · rw [if_pos hb]

/-- The head of a result queue enters every hop that names its output. -/
theorem hopFromElem_moves {s : State} {p e k : Nat} {tok : Token} {rest : List Token}
    (hq : (if k = 0 then (s.elem p e).q0 else (s.elem p e).q1) = tok :: rest) (hw : tok.lost = false)
    (hn : (s.elem p e).named (6 + k) ≠ []) (hf : s.namedFree p e (6 + k) = true) :
    hopFromElem p e k s = (s.modElem p e fun y => y.dropResult k rest).enterNamed p e (6 + k) tok := by
  have hb : ¬ (((s.elem p e).named (6 + k)).isEmpty || !s.namedFree p e (6 + k)) = true := by simp [hn, hf]
  unfold hopFromElem
  dsimp only
  rw [hq]
  dsimp only
  rw [if_neg hb, State.checked_whole hw]
  rfl

/-- The head of a neighbour's hop enters every hop that names the side. -/
theorem hopFromSide_moves {s : State} {p e d q f : Nat} {tok : Token} (hnb : neighbour p e d = some (q, f)) (hq : s.hopsRun q = true)
    (hp : s.hopsRun p = true) (hs : (s.elem q f).seam = []) (h7 : ((s.elem q f).fld 46).testBit 7 = false)
    (hh : (s.elem q f).hopHead (facing d) = some tok) (hw : tok.lost = false)
    (hpart : (s.elem q f).partReg = (s.elem p e).partReg) (hn : (s.elem p e).named d ≠ []) (hf : s.namedFree p e d = true) :
    hopFromSide p e d s = (s.modElem q f fun x => x.hopPop (facing d)).enterNamed p e d tok := by
  have hland : s.landHop q f (facing d) = s := by simp only [State.landHop, hs]
  unfold hopFromSide
  simp only [hnb, hq, hland, hh, h7, hpart, hp, hf, List.isEmpty_eq_false_iff.2 hn, State.checked_whole hw, Bool.not_true, Bool.false_and,
    Bool.or_self, Bool.false_eq_true, if_false, ne_eq, not_true_eq_false]

/-- The head of a neighbour's hop is dropped at a sill. -/
theorem hopFromSide_dropped {s : State} {p e d q f : Nat} {tok : Token} (hnb : neighbour p e d = some (q, f)) (hq : s.hopsRun q = true)
    (hs : (s.elem q f).seam = []) (h7 : ((s.elem q f).fld 46).testBit 7 = false)
    (hh : (s.elem q f).hopHead (facing d) = some tok) (hpart : (s.elem q f).partReg ≠ (s.elem p e).partReg) :
    hopFromSide p e d s = (s.modElem q f fun x => x.hopPop (facing d)).sillDrop q f p e := by
  have hland : s.landHop q f (facing d) = s := by simp only [State.landHop, hs]
  unfold hopFromSide
  simp only [hnb, hq, hland, hh, h7, Bool.not_true, Bool.false_and, Bool.false_eq_true, if_false, ne_eq, hpart, not_false_eq_true, if_true]

/-! ### Sills -/

/-- An event of the physical function changes its registers and memory only. -/
theorem State.sendPfEvent_frame (s : State) (e : Event) :
    s.sendPfEvent e = { s with pf := (s.sendPfEvent e).pf, mem := (s.sendPfEvent e).mem } := by
  unfold State.sendPfEvent
  dsimp only
  split
  · rfl
  · split
    · rfl
    · split <;> rfl

/-- A function whose ring is off discards its events. -/
theorem State.sendEvent_off {s : State} {n : Nat} (h : (s.vf n).eq.log = 0) (e : Event) : s.sendEvent n e = (true, s) := by
  unfold State.sendEvent
  dsimp only
  rw [h]
  rfl

/-- A drop at the sill of a partition counts there, and changes no page. -/
theorem State.sillDrop_spec {s : State} {q f : Nat} (p e : Nat) (hp : (s.elem q f).partReg ≠ 0x3F)
    (hv : (s.vf (s.vfOfPage q)).eq.log = 0) :
    (s.sillDrop q f p e).pages = s.pages
      ∧ ((s.sillDrop q f p e).part (s.elem q f).partReg).silldrop = (s.part (s.elem q f).partReg).silldrop + 1 := by
  unfold State.sillDrop
  simp only [if_neg hp]
  have hfr := (s.modPart (s.elem q f).partReg fun x => { x with silldrop := x.silldrop + 1 }).sendPfEvent_frame
  have hend (u : State) (hu : u.pages = s.pages ∧ (u.part (s.elem q f).partReg).silldrop = (s.part (s.elem q f).partReg).silldrop + 1)
      (hev : (u.vf (u.vfOfPage q)).eq.log = 0) (ev : Event) :
      let t := if (s.elem q f).partReg = 0x3F ∨ (u.trussOf q).isNone then u else (u.sendEvent (u.vfOfPage q) ev).2
      t.pages = s.pages ∧ (t.part (s.elem q f).partReg).silldrop = (s.part (s.elem q f).partReg).silldrop + 1 := by
    intro t
    have ht : t = u := by
      simp only [t, State.sendEvent_off hev, ite_self]
    rw [ht]
    exact hu
  refine hend _ ⟨?_, ?_⟩ ?_ _
  · rw [hfr]
    rfl
  · rw [hfr]
    exact congrArg Partition.silldrop (State.part_setPart s (s.elem q f).partReg _)
  · rw [hfr]
    exact hv

end Sys2Proof.Machine

namespace Sys2Proof

open Sys2Proof.Machine Sys2Proof.Claims

theorem exec_tokenHop_elem {s : State} {p e k : Nat} (he : e < 64) (hr : s.fabricRuns p = true) (hk : k < 2) :
    exec (.tokenHop p e (6 + k)) s = .next (hopFromElem p e k s) := by
  have hx : exec (.tokenHop p e (6 + k)) s = execTokenHop p e (6 + k) s := rfl
  have he' : ¬ 64 ≤ e := by omega
  rw [hx]
  obtain rfl | rfl : k = 0 ∨ k = 1 := by omega
  · simp [execTokenHop, he', hr]
  · simp [execTokenHop, he', hr]

theorem exec_tokenHop_side {s : State} {p e d : Nat} (he : e < 64) (h1 : 1 ≤ d) (h4 : d ≤ 4) :
    exec (.tokenHop p e d) s = .next (hopFromSide p e d s) := by
  have hx : exec (.tokenHop p e d) s = execTokenHop p e d s := rfl
  have he' : ¬ 64 ≤ e := by omega
  rw [hx]
  simp [execTokenHop, he', h1, h4]

/-- A token of a result queue goes to every hop that names the output. -/
theorem tokenHop_elem {s : State} {p e k : Nat} {tok : Token} {rest : List Token} (he : e < 64) (hr : s.fabricRuns p = true)
    (hk : k < 2) (hq : (if k = 0 then (s.elem p e).q0 else (s.elem p e).q1) = tok :: rest) (hw : tok.lost = false)
    (hn : (s.elem p e).named (6 + k) ≠ []) (hf : s.namedFree p e (6 + k) = true)
    (hl : ∀ h ∈ (s.elem p e).named (6 + k), crossesSeam p e h = false) :
    ∃ t, exec (.tokenHop p e (6 + k)) s = .next t ∧ Claims.FabricOnly s t p e
      ∧ (if k = 0 then (t.elem p e).q0 else (t.elem p e).q1) = rest
      ∧ Claims.HopsBecome (s.elem p e) (t.elem p e) [] ((s.elem p e).named (6 + k)) tok := by
  have hd := (s.elem p e).dropResult_frame k rest
  have hnamed : ((s.modElem p e fun y => y.dropResult k rest).elem p e).named (6 + k) = (s.elem p e).named (6 + k) := by
    rw [State.elem_modElem, hd]
    rfl
  obtain ⟨h1, h2⟩ := State.enterNamed_local (s := s.modElem p e fun y => y.dropResult k rest) (p := p) (e := e) (src := 6 + k) tok
    (hnamed ▸ hl)
  refine ⟨_, (exec_tokenHop_elem he hr hk).trans (congrArg _ (hopFromElem_moves hq hw hn hf)),
    fabricOnly_trans (fabricOnly_modElem s p e _) h1, ?_, ?_⟩
  · rw [h2, Elem.pushAll_frame, State.elem_modElem]
    exact (s.elem p e).dropResult_queue k rest
  · rw [h2, hnamed, State.elem_modElem]
    intro h
    rw [Elem.hops_pushAll ((s.elem p e).named_nodup _), hd]
    rfl

/-- Settles O38: the move of a token by the hops that it enters, and at a sill by what the drop counts. -/
theorem tokenHops : Obligations.TokenHops := by
  intro s p e k tok rest he x local_
  refine ⟨fun hr hk hq hw => ⟨fun hn hf hl => tokenHop_elem he hr hk hq hw hn hf hl, fun hb => ?_⟩,
    fun d q f h1 h4 hnb hne hq hp hs h7 hh hw => ⟨fun hpart hn hf hl => ?_, fun hpart hsrc hlog => ?_⟩⟩
  · rw [exec_tokenHop_elem he hr hk, hopFromElem_blocked hb]
  · have hxe : (s.modElem q f fun x => x.hopPop (facing d)).elem p e = x := State.elem_modElem_other hne.symm
    obtain ⟨h2, h3⟩ := State.enterNamed_local (s := s.modElem q f fun x => x.hopPop (facing d)) (p := p) (e := e) (src := d) tok
      (hxe ▸ hl)
    refine ⟨_, (exec_tokenHop_side he h1 h4).trans (congrArg _ (hopFromSide_moves hnb hq hp hs h7 hh hw hpart hn hf)),
      (fabricOnly_mem h2).trans rfl, ?_, ?_⟩
    · rw [h3, hxe]
      exact hopsBecome_pushAll x d tok
    · rw [h2.2.2.2 q f hne, State.elem_modElem]
      exact hopsBecome_hopPop _ _ tok
  · have hpop : (s.modElem q f fun x => x.hopPop (facing d)).elem q f = (s.elem q f).hopPop (facing d) := State.elem_modElem ..
    have hreg : ((s.modElem q f fun x => x.hopPop (facing d)).elem q f).partReg = (s.elem q f).partReg := by rw [hpop]; rfl
    obtain ⟨h2, h3⟩ := State.sillDrop_spec (s := s.modElem q f fun x => x.hopPop (facing d)) p e (hreg ▸ hsrc)
      (by rw [State.vfOfPage_modElem]; exact hlog)
    have helem (y z : Nat) : ((s.modElem q f fun x => x.hopPop (facing d)).sillDrop q f p e).elem y z
        = (s.modElem q f fun x => x.hopPop (facing d)).elem y z := by
      rw [State.elem, State.page, h2]
      rfl
    refine ⟨_, (exec_tokenHop_side he h1 h4).trans (congrArg _ (hopFromSide_dropped hnb hq hs h7 hh hpart)), ?_, ?_, ?_⟩
    · rw [helem, State.elem_modElem_other hne.symm]
    · rw [helem, hpop]
      exact hopsBecome_hopPop _ _ tok
    · rw [hreg] at h3
      exact h3

end Sys2Proof
end

section
/-! SUPPORT. SCALE, CONFIG and COMMAND tokens at the inputs of an element, what judging a unit changes, and CMD
(R82, R84, R181, R212, R238, R450). -/

namespace Sys2Proof.Machine

open Sys2Proof.Claims

/-! ### The head of an input -/

theorem Elem.headOf_of_hopHead {x : Elem} {k : Nat} {t : Token} (h : x.hopHead (inHop k) = some t) (n : BitVec 2) :
    x.headOf k n.toNat = if t.kind = n then some t else none := by
  rw [Elem.headOf, h]
  simp only [BitVec.toNat_inj]

theorem Elem.inBurst_setBurst (x : Elem) {k : Nat} (b : Burst) : (x.setBurst k b).inBurst k = b := by
  simp [Elem.inBurst, Elem.setBurst]

/-- A computing operation forwards no SCALE token, and holds no firing back. -/
theorem computing_takes {x : Elem} (h1 : 1 ≤ x.opc) (h2 : x.opc ≤ 0x14) (t : Token) :
    x.midRun = false ∧ x.opc ≠ 0x33 ∧ scaleForward x t = none := by
  refine ⟨?_, by omega, ?_⟩
  · unfold Elem.midRun
    split
    case h_4 => rfl
    all_goals omega
  · unfold scaleForward
    dsimp only
    rw [if_neg (by omega)]
    split
    case h_14 => rfl
    all_goals omega

/-! ### Judging a unit -/

/-- Of the module only elements differ, and of each only what judging says of it. -/
structure JudgedOnly (s t : State) : Prop where
  frame : t = { s with pages := t.pages }
  page : ∀ p, t.page p = { s.page p with elems := (t.page p).elems }
  elem : ∀ p e, t.elem p e = { s.elem p e with judging := (t.elem p e).judging, faulted := (t.elem p e).faulted }

theorem JudgedOnly.refl (s : State) : JudgedOnly s s := ⟨rfl, fun _ => rfl, fun _ _ => rfl⟩

theorem JudgedOnly.trans {s t u : State} (h : JudgedOnly s t) (k : JudgedOnly t u) : JudgedOnly s u := by
  obtain ⟨h1, h2, h3⟩ := h
  obtain ⟨k1, k2, k3⟩ := k
  refine ⟨?_, fun p => ?_, fun p e => ?_⟩
  · rw [k1, h1]
  · rw [k2, h2]
  · rw [k3, h3]

theorem judgedOnly_modElem (s : State) (p e : Nat) {f : Elem → Elem}
    (hf : ∀ x, f x = { x with judging := (f x).judging, faulted := (f x).faulted }) : JudgedOnly s (s.modElem p e f) := by
  refine ⟨rfl, fun q => ?_, fun q d => ?_⟩
  · by_cases hq : q = p
    · rw [hq, State.modElem, State.setElem, State.page_setPage]
      rfl
    · rw [State.modElem, State.setElem, State.page_setPage_other hq]
  · by_cases hqd : (q, d) = (p, e)
    · obtain ⟨rfl, rfl⟩ := Prod.mk.inj hqd
      rw [State.elem_modElem]
      exact hf _
    · rw [State.elem_modElem_other hqd]

theorem judgedOnly_foldl {α : Type} {f : State → α → State} (hf : ∀ s a, JudgedOnly s (f s a)) (l : List α) (s : State) :
    JudgedOnly s (l.foldl f s) := by
  induction l generalizing s with
  | nil => exact .refl s
  | cons a l ih => exact (hf s a).trans (ih _)

/-- Judging a unit marks elements, and changes nothing else (R450). -/
theorem State.judgeUnit_judged (s : State) (t : Truss) (by_ : CwBy) : JudgedOnly s (s.judgeUnit t by_).2 := by
  unfold State.judgeUnit
  exact (judgedOnly_foldl (fun s z => judgedOnly_modElem s _ _ fun _ => rfl) _ _).trans
    (judgedOnly_foldl (fun s z => judgedOnly_modElem s _ _ fun _ => rfl) _ _)

/-- The failure of a truss leaves every element. -/
theorem State.elem_failTruss (s : State) (t code el ix p e : Nat) : (s.failTruss t code el ix).elem p e = s.elem p e := by
  have h := (coresDiffer_failTruss s t code el ix).page p
  rw [State.elem, h]
  rfl

/-! ### Lanes -/

theorem lane_setBytes_same {d : Data} {l : Nat} (h : l < 16) (v : BitVec 32) : lane (setBytes d (4 * l) 4 v.toNat) l = v := by
  apply BitVec.eq_of_getLsbD_eq
  intro j hj
  have hb : 8 * (4 * l) ≤ 32 * l + j ∧ 32 * l + j < 8 * (4 * l + 4) := by omega
  have he : 32 * l + j - 8 * (4 * l) = j := by omega
  rw [getLsbD_lane, getLsbD_setBytes _ _ _ _ _ (by omega), if_pos hb, he, BitVec.testBit_toNat]
  simp [hj]

/-- The lanes below `n` are chosen, the others still the first operand's. -/
theorem lane_mixLanes_upTo (a b : Data) (m : BitVec 16) {n : Nat} (hn : n ≤ 16) {l : Nat} (hl : l < 16) :
    lane ((List.range n).foldl (fun d l => if m.getLsbD l then setBytes d (4 * l) 4 (lane b l).toNat else d) a) l
      = if l < n ∧ m.getLsbD l = true then lane b l else lane a l := by
  induction n with
  | zero => simp
  | succ n ih =>
    rw [List.range_succ, List.foldl_append, List.foldl_cons, List.foldl_nil]
    replace ih := ih (by omega)
    rcases Nat.lt_trichotomy l n with hlt | rfl | hgt
    · have hc : (l < n + 1 ∧ m.getLsbD l = true) ↔ (l < n ∧ m.getLsbD l = true) :=
        and_congr_left' ⟨fun _ => hlt, fun _ => by omega⟩
      simp only [hc]
      rw [← ih]
      split
      · exact lane_setBytes_other hl (by omega)
      · rfl
    · have hself : ¬ (l < l ∧ m.getLsbD l = true) := by omega
      rw [if_neg hself] at ih
      by_cases hm : m.getLsbD l = true
      · rw [if_pos hm, if_pos ⟨by omega, hm⟩, lane_setBytes_same hl]
      · rw [if_neg hm, if_neg fun h => hm h.2, ih]
    · have h1 : ¬ (l < n + 1 ∧ m.getLsbD l = true) := by omega
      have h2 : ¬ (l < n ∧ m.getLsbD l = true) := by omega
      rw [if_neg h2] at ih
      rw [if_neg h1, ← ih]
      split
      · exact lane_setBytes_other hl (by omega)
      · rfl

theorem lane_zero (l : Nat) : lane 0 l = 0 := by
  apply BitVec.eq_of_getLsbD_eq
  intro j _
  simp [getLsbD_lane]

theorem lane_maskLanes (d : Data) (v : BitVec 16) {l : Nat} (h : l < 16) :
    lane (maskLanes d v) l = if v.getLsbD l then lane d l else 0 := by
  have hm : (~~~v).getLsbD l = !v.getLsbD l := by simp [h]
  refine (lane_mixLanes_upTo d 0 (~~~v) (le_refl 16) h).trans ?_
  rw [hm, lane_zero]
  cases v.getLsbD l <;> simp [h]

/-! ### CMD -/

/-- A whole DATA token at the head of an input is the input's token. -/
theorem Elem.data_of_whole {x : Elem} {i : Nat} {t : Token} (h : x.hopHead (inHop i) = some t) (hk : t.kind = 0) (hl : t.lost = false) :
    x.data i = some t := by
  have hm : t.marked = t := if_neg (by simp [hl])
  rw [Elem.data, h]
  simp [hk, hm]

/-- A firing that takes a whole token from in0 alone finds nothing lost. -/
theorem State.checkedInputs_in0 {s : State} {p e : Nat} {t : Token} (h : (s.elem p e).hopHead (inHop 0) = some t) (hl : t.lost = false) :
    s.checkedInputs p e 1 = s := by
  have h0 : (1).testBit 0 = true := rfl
  have hn (i : Nat) : (1).testBit (i + 1) = false := by simp [Nat.testBit_succ]
  unfold State.checkedInputs
  simp only [List.range, List.range.loop, List.foldl_cons, List.foldl_nil, h0, hn, if_true, h, State.checked_whole hl]
  simp

/-- A firing that takes in0's whole token and emits nothing of its own. -/
theorem State.applyFire_in0 {s : State} {p e : Nat} {t : Token} (f : Fire) (h : (s.elem p e).hopHead (inHop 0) = some t)
    (hl : t.lost = false) (he : f.eats = 1) (h0 : f.out0 = []) (h1 : f.out1 = []) : s.applyFire p e f = s.fireWith p e f [] [] := by
  have hc : s.checkedInputs p e f.eats = s := by rw [he]; exact State.checkedInputs_in0 h hl
  have hx : s.applyFire p e f = ((freePoisons f.out1 (freePoisons f.out0 s).2).2.checkedInputs p e f.eats).fireWith p e f
      (freePoisons f.out0 s).1 (freePoisons f.out1 (freePoisons f.out0 s).2).1 := rfl
  rw [hx, h0, h1]
  exact congrArg (State.fireWith · p e f [] []) hc

/-- What a firing without replaced tiles leaves: its element has fired, and all else of the claim's frame stands. -/
theorem State.fireWith_only (s : State) (p e : Nat) (f : Fire) (o0 o1 : List OutTok) :
    Claims.ElementOnly s (s.fireWith p e f o0 o1) p e ∧ (s.fireWith p e f o0 o1).elem p e = (s.elem p e).fired f o0 o1 := by
  obtain ⟨hpg, hw⟩ := s.firedTiles_page p e f o0 o1
  unfold State.fireWith
  dsimp only
  generalize s.firedTiles p e f o0 o1 = w at *
  obtain ⟨⟨hfr, hrd, hby⟩, -⟩ := w.firingEnd_ends p (((w.trussOf p).map Truss.part).getD 0x3F)
    (((opRow (s.elem p e).opc).map OpRow.tiles).getD 0) f.mets
  generalize w.firingEnd p _ _ _ = t at *
  have hP := hpg.of_pages rfl (show t.pages = w.pages by rw [hfr])
  obtain ⟨hel, hother⟩ := hP.elem
  refine ⟨⟨?_, fun a => ?_, fun b => ?_, fun a => ?_, hP.others, ?_, hother⟩, hel⟩
  · rw [hfr, hw]
  · rw [hw] at hrd
    exact hrd a
  · rw [hw] at hby
    exact hby b
  · rw [hfr, hw]
  · have hpp := hP.page
    have hee : (t.page p).elems = fput (s.page p).elems e ((s.elem p e).fired f o0 o1) := by rw [hpp]
    rw [hee]
    exact hpp

theorem elementOnly_modElem {s t : State} {p e : Nat} (h : Claims.ElementOnly s t p e) (f : Elem → Elem) :
    Claims.ElementOnly s (t.modElem p e f) p e := by
  obtain ⟨h1, h2, h3, h4, h5, h6, h7⟩ := h
  refine ⟨?_, h2, h3, h4, fun q hq => ?_, ?_, fun q d hn => (State.elem_modElem_other hn).trans (h7 q d hn)⟩
  · rw [h1]
    rfl
  · rw [State.modElem, State.setElem, State.page_setPage_other hq, h5 q hq]
  · rw [State.modElem, State.setElem, State.page_setPage, h6]
    rfl

end Sys2Proof.Machine
end

section
/-! SUPPORT. Each token at the head of an element input, and CMD's firing (R82, R84, R181, R212, R238). -/

namespace Sys2Proof.Machine

open Sys2Proof.Claims

/-- The site runs: what an instruction at the head of an input asks first. -/
theorem siteLive_of_runs {s : State} {p e : Nat} (h : s.fabricRuns p = true) (he : e < 64) : s.siteLive p e = true := by
  simp [State.siteLive, h, he]

/-- An input's head is not the ctl token that SIDE refuses. -/
theorem not_refused {x : Elem} {k : Nat} (h : k = 3 → x.side = false) : ¬ (k = 3 ∧ x.side = true) := by
  rintro ⟨h3, hs⟩
  rw [h h3] at hs
  cases hs

section Heads
variable {s : State} {p e k : Nat} {tok : Token}

/-! ### SCALE -/

theorem execScaleToken_other (hk : tok.kind ≠ 1) (hh : (s.elem p e).hopHead (inHop k) = some tok) :
    execScaleToken p e k s = .next s := by
  have hd : (s.elem p e).headOf k 1 = none := (Elem.headOf_of_hopHead hh 1).trans (if_neg hk)
  unfold execScaleToken
  dsimp only
  rw [hd]
  exact ite_self _

theorem execScaleToken_opens (hlive : s.siteLive p e = true) (hk4 : k < 4) (hk : tok.kind = 1)
    (hh : (s.elem p e).hopHead (inHop k) = some tok) (hl : tok.lost = false) (hs : k = 3 → (s.elem p e).side = false)
    (ho : k = 0 → 1 ≤ (s.elem p e).opc ∧ (s.elem p e).opc ≤ 0x14) :
    execScaleToken p e k s = .next (s.modElem p e fun y => (y.setBurst k (burstOf tok)).hopPop (inHop k)) := by
  have hd : (s.elem p e).headOf k 1 = some tok := (Elem.headOf_of_hopHead hh 1).trans (if_pos hk)
  unfold execScaleToken
  dsimp only
  rw [if_neg (by simp [hlive]; omega), hd]
  simp only [State.checked_whole hl]
  rw [if_neg (not_refused hs)]
  by_cases hk0 : k = 0
  · subst hk0
    obtain ⟨h1, h2⟩ := ho rfl
    obtain ⟨hm, h33, hf⟩ := computing_takes h1 h2 tok
    rw [if_neg (by simp), hm, hf]
    simp [h33]
  · rw [if_pos hk0]

/-! ### COMMAND -/

theorem execCommandTokenAtElement_other (hk : tok.kind ≠ 3) (hh : (s.elem p e).hopHead (inHop k) = some tok) :
    execCommandTokenAtElement p e k s = .next s := by
  have hd : (s.elem p e).headOf k 3 = none := (Elem.headOf_of_hopHead hh 3).trans (if_neg hk)
  unfold execCommandTokenAtElement
  dsimp only
  rw [hd]
  exact ite_self _

theorem execCommandTokenAtElement_misplaced (hlive : s.siteLive p e = true) (hk4 : k < 4) (hk : tok.kind = 3)
    (hh : (s.elem p e).hopHead (inHop k) = some tok) (hl : tok.lost = false) (hs : k = 3 → (s.elem p e).side = false) (hk0 : k ≠ 0) :
    execCommandTokenAtElement p e k s = .next ((s.modElem p e fun y => y.hopPop (inHop k)).siteInvalid p e) := by
  have hd : (s.elem p e).headOf k 3 = some tok := (Elem.headOf_of_hopHead hh 3).trans (if_pos hk)
  unfold execCommandTokenAtElement
  dsimp only
  rw [if_neg (by simp [hlive]; omega), hd]
  dsimp only
  rw [if_neg (by simp [hl]), if_neg (not_refused hs), if_pos hk0]

theorem execCommandTokenAtElement_forwards (hlive : s.siteLive p e = true) (hk : tok.kind = 3)
    (hh : (s.elem p e).hopHead (inHop 0) = some tok) (hl : tok.lost = false) (hm : (s.elem p e).midRun = false)
    (hmem : (s.elem p e).mem = []) (ho : (s.elem p e).outs.testBit 0 = true) (hf : 0 < (s.elem p e).free 0) :
    execCommandTokenAtElement p e 0 s
      = .next (s.modElem p e fun y => { (y.hopPop (inHop 0)) with q0 := y.q0 ++ [tok] }) := by
  have hd : (s.elem p e).headOf 0 3 = some tok := (Elem.headOf_of_hopHead hh 3).trans (if_pos hk)
  unfold execCommandTokenAtElement
  dsimp only
  rw [if_neg (by simp [hlive]), hd]
  dsimp only
  rw [if_neg (by simp [hl]), if_neg (by simp), if_neg (by simp), if_neg (by simp [hm, hmem]), if_pos ho, if_neg (by omega)]

/-! ### CONFIG -/

theorem execConfigToken_other (hk : tok.kind ≠ 2) (hh : (s.elem p e).hopHead (inHop k) = some tok) :
    execConfigToken p e k s = .next s := by
  have hd : (s.elem p e).headOf k 2 = none := (Elem.headOf_of_hopHead hh 2).trans (if_neg hk)
  unfold execConfigToken
  dsimp only
  rw [hd]
  exact ite_self _

theorem execConfigToken_misplaced {tr : Truss} (hlive : s.siteLive p e = true) (hk4 : k < 4) (hk : tok.kind = 2)
    (hh : (s.elem p e).hopHead (inHop k) = some tok) (hl : tok.lost = false) (hs : k = 3 → (s.elem p e).side = false) (hk0 : k ≠ 0)
    (ht : s.trussOf p = some tr) :
    execConfigToken p e k s = .next ((s.modElem p e fun y => y.hopPop (inHop k)).siteInvalid p e) := by
  have hd : (s.elem p e).headOf k 2 = some tok := (Elem.headOf_of_hopHead hh 2).trans (if_pos hk)
  unfold execConfigToken
  dsimp only
  rw [if_neg (by simp [hlive]; omega), hd, ht]
  dsimp only
  rw [if_neg (by simp [hl]), if_neg (not_refused hs), if_pos hk0]

/-- A token none of whose words names the element goes on whole. -/
theorem Token.split_none {t : Token} {el : Nat} (h : ∀ w ∈ t.words, cwElem w.2 ≠ el) : t.split el = ([], t.valid) := by
  have hf : (t.words.filter fun z => decide (cwElem z.2 = el)) = [] :=
    List.filter_eq_nil_iff.2 fun w hw => by simp [h w hw]
  simp only [Token.split, hf, List.map_nil, List.foldl_nil]

/-- The element after a CONFIG token with no word for it, its truss failing or not. -/
theorem execConfigToken_forwards {tr : Truss} (hlive : s.siteLive p e = true) (hk : tok.kind = 2)
    (hh : (s.elem p e).hopHead (inHop 0) = some tok) (hl : tok.lost = false) (hm : (s.elem p e).midRun = false)
    (hmem : (s.elem p e).mem = []) (ht : s.trussOf p = some tr) (hw : ∀ w ∈ tok.words, cwElem w.2 ≠ (s.page p).ix * 64 + e)
    (hv : tok.valid ≠ 0) (ho : (s.elem p e).outs.testBit 0 = true) (hf : 0 < (s.elem p e).free 0) :
    let u := (s.judgeUnit tr .token).2
    let w := u.modElem p e fun y => { y.hopPop (inHop 0) with q0 := y.q0 ++ [tok] }
    ∃ t, execConfigToken p e 0 s = .next t ∧ t.mem = w.mem ∧ t.elem p e = w.elem p e := by
  intro u w
  have hd : (s.elem p e).headOf 0 2 = some tok := (Elem.headOf_of_hopHead hh 2).trans (if_pos hk)
  have hu : u.elem p e = { s.elem p e with judging := (u.elem p e).judging, faulted := (u.elem p e).faulted } :=
    (s.judgeUnit_judged tr .token).elem p e
  have ho' : ((s.judgeUnit tr .token).2.elem p e).outs.testBit 0 = true := (congrArg (fun y => y.outs.testBit 0) hu).trans ho
  have hf' : 0 < ((s.judgeUnit tr .token).2.elem p e).free 0 := hf.trans_eq (congrArg (fun y => y.free 0) hu).symm
  have ha (img : Image) (el : Nat) : s.applyToken img tr p e el [] = s.judgeUnit tr .token := rfl
  unfold execConfigToken
  dsimp only
  rw [if_neg (by simp [hlive]), hd, ht]
  dsimp only
  rw [if_neg (by simp [hl]), if_neg (by simp), if_neg (by simp), if_neg (by simp [hm, hmem]), Token.split_none hw]
  simp only [ha]
  have hfz : ((s.judgeUnit tr .token).2.elem p e).free 0 ≠ 0 := by omega
  simp only [hv, ho', hfz, ne_eq, not_false_eq_true, decide_true, decide_false, Bool.and_self, Bool.and_false,
    Bool.not_true, Bool.false_eq_true, if_false, if_true]
  split
  · exact ⟨_, rfl, State.failTruss_mem .., State.elem_failTruss ..⟩
  · exact ⟨_, rfl, rfl, rfl⟩

end Heads

/-! ### CMD -/

/-- CMD with one used input, a whole token at it and room fires, and its COMMAND token joins out0. -/
theorem execCmd_fires {s : State} {p e : Nat} {tok : Token} (hlive : s.elemLive p e 0xB0 = true)
    (hh : (s.elem p e).hopHead (inHop 0) = some tok) (hl : tok.lost = false) (hk : tok.kind = 0) (hi : (s.elem p e).insMask = 1)
    (hf : 0 < (s.elem p e).free 0) (hp : (s.elem p e).p 0 % 2 = 0) :
    ∃ fl, execCmd p e s = .next ((s.fireWith p e { Fire.of 1 (s.elem p e) [] with fl := fl } [] []).modElem p e
      fun y => { y with q0 := y.q0 ++ [cmdToken (s.elem p e) tok] }) := by
  have hdata := Elem.data_of_whole hh hk hl
  have htok : (s.elem p e).tok 0 = tok := by rw [Elem.tok, hdata]; rfl
  have hready : (s.elem p e).ready = true := by
    have hused : (s.elem p e).used = [0] := by rw [Elem.used, hi]; rfl
    simp [Elem.ready, hused, hdata]
  have hsrc : cmdSource (s.elem p e) s = (tok, s) := by
    unfold cmdSource
    dsimp only
    rw [htok, if_neg fun h => by omega]
  refine ⟨takenFlags ((s.elem p e).tok 0) ((s.elem p e).inDesc 0 (s.elem p e).slotW ((s.elem p e).tok 0)), ?_⟩
  have hplan : cmdPlan (s.page p) e = .fire { Fire.of 1 (s.elem p e) [] with
      fl := takenFlags ((s.elem p e).tok 0) ((s.elem p e).inDesc 0 (s.elem p e).slotW ((s.elem p e).tok 0)) } := by
    change (if (!(s.elem p e).ready) = true then _ else if (s.elem p e).free 0 = 0 then _ else _) = _
    rw [if_neg (by simp [hready]), if_neg (by omega)]
    rfl
  unfold execCmd
  dsimp only
  rw [if_pos hlive, hplan, hsrc]
  dsimp only
  rw [State.applyFire_in0 _ hh hl rfl rfl rfl]

end Sys2Proof.Machine

namespace Sys2Proof

open Sys2Proof.Machine Sys2Proof.Claims

/-- Settles O37: each token by its kind and its input; CMD by its plan, its firing and its lanes. -/
theorem elementTokens : Obligations.ElementTokens := by
  intro s p e k tok he hr hk4 x hh hl
  have hlive := siteLive_of_runs hr he
  refine ⟨fun hk hs ho => ?_, fun hk => execScaleToken_other hk hh, fun i n hi => ?_, fun hk hk0 hm hmem ho hf => ?_,
    fun hk hk0 hm hmem ht hw hv ho hf => ?_, fun hk hk0 hli hi hf hp => ?_⟩
  · refine ⟨_, execScaleToken_opens hlive hk4 hk hh hl hs ho, fabricOnly_modElem .., ?_, ?_, ?_⟩
    · rw [State.elem_modElem]
      exact Elem.inBurst_setBurst x (burstOf tok)
    · rw [State.elem_modElem]
      exact hopsBecome_hopPop (x.setBurst k (burstOf tok)) (37 + k) tok
    · rw [State.elem_modElem]
      rfl
  · simp only [List.mem_cons, List.not_mem_nil, or_false, Prod.mk.injEq] at hi
    obtain ⟨rfl, rfl⟩ | ⟨rfl, rfl⟩ := hi
    · refine ⟨fun hk => execConfigToken_other hk hh, fun hk hk0 hs ht => ?_⟩
      obtain ⟨tr, ht⟩ := Option.isSome_iff_exists.1 ht
      exact execConfigToken_misplaced hlive hk4 hk hh hl hs hk0 ht
    · exact ⟨fun hk => execCommandTokenAtElement_other hk hh,
        fun hk hk0 hs _ => execCommandTokenAtElement_misplaced hlive hk4 hk hh hl hs hk0⟩
  · subst hk0
    refine ⟨_, execCommandTokenAtElement_forwards hlive hk hh hl hm hmem ho hf, fabricOnly_modElem .., ?_, ?_⟩
    · rw [State.elem_modElem]
    · rw [State.elem_modElem]
      exact hopsBecome_hopPop x 37 tok
  · subst hk0
    obtain ⟨tr, ht⟩ := Option.isSome_iff_exists.1 ht
    obtain ⟨t, hx, hmt, hel⟩ := execConfigToken_forwards hlive hk hh hl hm hmem ht hw hv ho hf
    have hj := (s.judgeUnit_judged tr .token).elem p e
    rw [State.elem_modElem, hj] at hel
    refine ⟨t, hx, hmt.trans (State.judgeUnit_mem ..), ?_, ?_⟩
    · exact congrArg Elem.q0 hel
    · rw [hel]
      exact hopsBecome_hopPop x 37 tok
  · subst hk0
    obtain ⟨fl, hx⟩ := execCmd_fires hli hh hl hk hi hf hp
    obtain ⟨honly, hel⟩ := s.fireWith_only p e { Fire.of 1 (s.elem p e) [] with fl := fl } [] []
    obtain ⟨-, -, hhops, -, -, hq0, -⟩ := (s.elem p e).fired_spec { Fire.of 1 (s.elem p e) [] with fl := fl } [] []
    have hc : cmdToken x tok = { dataToken (maskLanes tok.data tok.valid) tok.valid 0 with kind := 3 } := if_pos hp
    refine ⟨_, cmdToken x tok, hx, elementOnly_modElem honly _, ?_, ?_, by rw [hc], by rw [hc]; rfl, fun l hlt => ?_⟩
    · rw [State.elem_modElem, hel]
      exact congrArg (· ++ _) (hq0.trans (List.append_nil _))
    · rw [State.elem_modElem, hel]
      intro j
      refine (hhops j).trans ?_
      by_cases hj : j = 37
      · subst hj
        simp [Fire.of, x]
      · have hn : ¬ (37 ≤ j ∧ j < 41 ∧ (1).testBit (j - 37) = true) := by
          rintro ⟨h1, h2, h3⟩
          obtain ⟨i, hi⟩ : ∃ i, j - 37 = i + 1 := ⟨j - 38, by omega⟩
          rw [hi, Nat.testBit_succ] at h3
          simp at h3
        simp [Fire.of, x, hj, hn]
    · rw [hc]
      exact lane_maskLanes tok.data tok.valid hlt

end Sys2Proof
end

section
/-! SUPPORT. CFG: one word of a segment, its end, and its checks; START (R81, R157, R158, R450). -/

namespace Sys2Proof.Machine

open Sys2Proof.Claims

/-! ### What a configuration word leaves of the module -/

theorem applyControl_cur {by_ : CwBy} {p e f v : Nat} {s t : State} (h : applyControl by_ p e f v s = .ok t) : t.cur = s.cur := by
  unfold applyControl at h
  split at h
  case h_5 => cases h
  all_goals
    split at h <;> cases h
    rfl

theorem applyBinding_cur {img : Image} {p ix e f v : Nat} {s t : State} (h : applyBinding img p ix e f v s = .ok t) :
    t.cur = s.cur := by
  unfold applyBinding at h
  split at h
  · split at h <;> cases h
    rfl
  · cases h

theorem applyInjection_cur {img : Image} {p e f v inj : Nat} {s t : State} (h : applyInjection img p e f v inj s = .ok t) :
    t.cur = s.cur := by
  unfold applyInjection at h
  split at h
  · dsimp only at h
    split at h
    · cases h
    · split at h <;> cases h
      unfold State.enterHop
      split <;> rfl
  · cases h

theorem applyAt_cur {by_ : CwBy} {img : Image} {p ix : Nat} {w : Word32} {inj : Nat} {s t : State}
    (h : applyAt by_ img p ix w inj s = .ok t) : t.cur = s.cur := by
  unfold applyAt at h
  dsimp only at h
  split at h
  · split at h <;> cases h
    rfl
  · split at h
    · cases h
    · exact applyBinding_cur h
  · split at h
    · cases h
    · exact applyInjection_cur h
  · exact applyControl_cur h

/-- A word that takes effect leaves the same core current. -/
theorem applyWord_cur {by_ : CwBy} {img : Image} {x : Truss} {w : Word32} {inj : Nat} {s t u : State}
    (h : applyWord by_ img x w inj s = (.ok t, u)) : t.cur = s.cur := by
  unfold applyWord at h
  split at h
  · cases h
  · split at h
    · rename_i v hv
      cases h
      exact (applyAt_cur hv : v.cur = s.cur)
    · cases h
    · exact applyAt_cur (congrArg Prod.fst h)

/-! ### CFG -/

/-- The words of a block, where the segment wants one word of it. -/
theorem blockWords_one (d : Data) (ea : Word) (n : Nat) (h : n = 1) :
    blockWords d (ea.toNat % 64) (Nat.min (n - 0) (16 - ea.toNat % 64 / 4)) = [lane d (ea.toNat % 64 / 4)] := by
  have hm : Nat.min (n - 0) (16 - ea.toNat % 64 / 4) = 1 := by
    rw [h]
    exact Nat.min_eq_left (by omega)
  rw [hm]
  rfl

theorem cfgBlock_one {img : Image} {x : Truss} {w : Word32} {s u : State} (h : applyWord (.segment s.cur) img x w 0 s = (.ok u, u)) :
    cfgBlock img x [w] 0 [] s = (1, if cwKind w = 2 then [injKey w] else [], .ok u, u) := by
  unfold cfgBlock
  simp only [List.filter_nil, List.length_nil, h, List.nil_append, Nat.zero_add]
  rfl

/-- A turn of CFG with the last block at hand and one word to apply: the word takes effect, and the place is kept. -/
theorem cfgTurn_one {base : Word} {n tag : Nat} {w : BlockW} {x : Truss} {s u : State} (hn : n = 1) (hr : s.core.resp = [(tag, w)])
    (ht : s.trussOf s.cur = some x) (hp : descPoisoned w.desc = false) (hv : descIsVoid w.desc = false)
    (ha : applyWord (.segment s.cur) s.curImage x (lane w.data (base.toNat % 64 / 4)) 0 s = (.ok u, u)) :
    ∃ done, cfgTurn base n 0 [] s = .next (u.setCore { u.core with stage := 1, scratch := 1 :: done, resp := [] }) := by
  refine ⟨if cwKind (lane w.data (base.toNat % 64 / 4)) = 2 then [injKey (lane w.data (base.toNat % 64 / 4))] else [], ?_⟩
  have hea : base + BitVec.ofNat 64 (4 * 0) = base := by simp
  unfold cfgTurn
  dsimp only
  rw [if_neg (by omega), hr]
  dsimp only
  rw [ht]
  simp only [hp, hv, hea, Bool.false_eq_true, if_false, blockWords_one _ _ _ hn, cfgBlock_one ha]
  rfl

/-- The end of a segment that nothing breaks. -/
theorem cfgEnd_good {x : Truss} {s : State} (ht : s.trussOf s.cur = some x) (hg : (s.judgeUnit x (.segment s.cur)).1 = none) :
    cfgEnd none s = .next (complete (s.judgeUnit x (.segment s.cur)).2.core (s.judgeUnit x (.segment s.cur)).2) := by
  unfold cfgEnd
  rw [ht]
  dsimp only
  rw [hg]

theorem JudgedOnly.core {s t : State} (h : JudgedOnly s t) : t.core = s.core := by
  have hc : t.cur = s.cur := by rw [h.frame]
  rw [State.core, hc, h.page]
  rfl

section Checked
variable {a b : Reg} {s : State} (hn : (s.core.rd b).toNat ≤ 65536) (ha : (s.core.rd a).toNat % 4 = 0)
  (hr : (s.core.rd b).toNat = 0 ∨ (s.core.rd a).toNat + 4 * (s.core.rd b).toNat ≤ 2 ^ 48)
include hn ha hr

theorem execCfg_first (hs : s.core.scratch = []) : exec (.cfg a b) s
    = if (s.core.rd b).toNat = 0 then .next (complete s.core s) else cfgTurn (s.core.rd a) (s.core.rd b).toNat 0 [] s := by
  change execCfg a b s = _
  unfold execCfg
  dsimp only
  rw [if_neg (by omega), if_neg (by omega), if_neg (by omega), hs]

theorem execCfg_next {pos : Word} {done : List Word} (hs : s.core.scratch = pos :: done) :
    exec (.cfg a b) s = cfgTurn (s.core.rd a) (s.core.rd b).toNat pos.toNat done s := by
  change execCfg a b s = _
  unfold execCfg
  dsimp only
  rw [if_neg (by omega), if_neg (by omega), if_neg (by omega), hs]

end Checked

/-! ### START -/

/-- A token enters one hop of each of a list of elements. -/
def State.feedAll (l : List (Nat × Nat)) (t : Token) (s : State) : State :=
  l.foldl (fun s z => s.modElem s.cur z.1 fun x => x.hopPush z.2 t) s

/-- Feeding changes elements of the current page alone. -/
theorem State.feedAll_frame (l : List (Nat × Nat)) (t : Token) (s : State) :
    let u := s.feedAll l t
    u = { s with pages := u.pages } ∧ (∀ q, q ≠ s.cur → u.page q = s.page q)
      ∧ u.page s.cur = { s.page s.cur with elems := (u.page s.cur).elems } := by
  induction l generalizing s with
  | nil => exact ⟨rfl, fun _ _ => rfl, rfl⟩
  | cons z l ih =>
    obtain ⟨h1, h2, h3⟩ := ih (s.modElem s.cur z.1 fun x => x.hopPush z.2 t)
    refine ⟨h1.trans rfl, fun q hq => (h2 q hq).trans (State.page_setPage_other hq), h3.trans ?_⟩
    obtain ⟨-, -, hp, -⟩ := fabricOnly_modElem s s.cur z.1 fun x => x.hopPush z.2 t
    exact congrArg (fun pg : Page => { pg with elems := ((State.feedAll (z :: l) t s).page s.cur).elems }) hp

/-- Each hop that is fed gains the token, and no other hop changes. -/
theorem State.hops_feedAll {l : List (Nat × Nat)} (hl : l.Nodup) (t : Token) (s : State) (e h : Nat) :
    fgetD ((s.feedAll l t).elem s.cur e).hops h [] = fgetD (s.elem s.cur e).hops h [] ++ if (e, h) ∈ l then [t] else [] := by
  induction l generalizing s with
  | nil => simp [State.feedAll]
  | cons z l ih =>
    obtain ⟨hn, hl⟩ := List.nodup_cons.1 hl
    refine (ih hl (s.modElem s.cur z.1 fun x => x.hopPush z.2 t)).trans ?_
    change fgetD ((s.modElem s.cur z.1 fun x => x.hopPush z.2 t).elem s.cur e).hops h [] ++ _ = _
    by_cases he : e = z.1
    · subst he
      rw [State.elem_modElem, Elem.hops_hopPush]
      by_cases hh : h = z.2
      · subst hh
        simp [hn]
      · have hz : (z.1, h) ≠ z := fun h' => hh (congrArg Prod.snd h')
        simp [hh, hz]
    · have hz : (e, h) ≠ z := fun h' => he (congrArg Prod.fst h')
      rw [State.elem_modElem_other fun h' => he (congrArg Prod.snd h')]
      simp [hz]

end Sys2Proof.Machine

namespace Sys2Proof

open Sys2Proof.Machine Sys2Proof.Claims

/-- A completed core, its elements aside: what a completion leaves of pages and elements. -/
theorem completes_elems {s u : State} (hf : u = { s with pages := u.pages }) (hc : u.core = s.core) (hq : NotStepping s) :
    let t := complete u.core u
    t = { s with pages := t.pages } ∧ t.core = { s.core.clearStage with pc := t.core.pc, loops := t.core.loops }
      ∧ PcPast s.core t.core ∧ (∀ p e, t.elem p e = u.elem p e) ∧ (∀ q, q ≠ u.cur → t.page q = u.page q)
      ∧ t.page u.cur = { u.page u.cur with core := t.core } := by
  have he : complete u.core u = u.setCore u.core.clearStage.advance := complete_eq (by rw [hc]; exact hq)
  intro t
  have ht : t = u.setCore u.core.clearStage.advance := he
  clear_value t
  subst ht
  refine ⟨?_, ?_, ?_, fun p e => ?_, fun q hq => State.page_setCore_other hq, ?_⟩
  · rw [hf]
    rfl
  · rw [State.core_setCore, hc, Core.advance_frame]
  · rw [State.core_setCore, hc]
    exact pcPast_advance rfl rfl
  · by_cases hp : p = u.cur
    · rw [hp, State.elem, State.page_setCore]
      rfl
    · rw [State.elem, State.page_setCore_other hp]
      rfl
  · rw [State.page_setCore, State.core_setCore]

theorem configLoading : Claims.ConfigLoading := by
  intro s a b x tag w u pos done base n
  refine ⟨fun h => illegal_of_trapWord rfl (if_pos h), fun hn hm => ?_, fun hn h0 ha hr => ?_, fun hn ha hs hq => ?_,
    fun hn ha hr => ⟨fun h1 hs hresp ht hp hv hw => ?_, fun hs hle ht hg hq => ?_⟩⟩
  · exact (if_neg (by omega)).trans (if_pos hm)
  · exact (if_neg (by omega)).trans ((if_neg (not_not.2 ha)).trans (if_pos ⟨h0, hr⟩))
  · exact passes_of_complete hq ((execCfg_first (by omega) ha (.inl hn) hs).trans (if_pos hn))
  · have hx := execCfg_first hn ha (.inr hr) hs
    obtain ⟨l, ht'⟩ := cfgTurn_one h1 hresp ht hp hv hw
    have hc : u.cur = s.cur := applyWord_cur hw
    refine ⟨_, hx.trans ((if_neg (by omega)).trans ht'), ?_, ?_, rfl, fun p e => ?_⟩
    · rw [← hc, State.page_setCore]
    · rw [← hc, State.page_setCore]
      rfl
    · by_cases hp : p = u.cur
      · rw [hp, State.elem, State.page_setCore]
        rfl
      · rw [State.elem, State.page_setCore_other hp]
        rfl
  · have hx := execCfg_next hn ha (.inr hr) hs
    have hj := s.judgeUnit_judged x (.segment s.cur)
    obtain ⟨h1, h2, h3, h4, -⟩ := completes_elems hj.frame hj.core hq
    have hend : cfgTurn base n pos.toNat done s = cfgEnd none s := if_pos hle
    exact ⟨_, hx.trans (hend.trans (cfgEnd_good ht hg)), h1, h2, h3, h4⟩

theorem startFeeds : Claims.StartFeeds := by
  intro s pg hnd
  refine ⟨fun hr hq => ?_, fun ⟨z, hz, hf⟩ => ?_⟩
  · have hready : s.startReady s.cur = true := List.all_eq_true.2 hr
    obtain ⟨f1, f2, f3⟩ := s.feedAll_frame pg.startHops Claims.StartToken
    have hcur : (s.feedAll pg.startHops Claims.StartToken).cur = s.cur := by rw [f1]
    have hcore : (s.feedAll pg.startHops Claims.StartToken).core = s.core := by
      rw [State.core, hcur, f3]
      rfl
    have hx : exec .start s = .next (complete (s.feedAll pg.startHops Claims.StartToken).core (s.feedAll pg.startHops Claims.StartToken)) :=
      if_pos hready
    have hops := State.hops_feedAll hnd Claims.StartToken s
    obtain ⟨h1, h2, h3, h4, h5, h6⟩ := completes_elems f1 hcore hq
    generalize s.feedAll pg.startHops Claims.StartToken = v at *
    rw [hcur] at h5 h6
    refine ⟨_, hx, h1, fun q hq => (h5 q hq).trans (f2 q hq), ?_, h2, h3, fun e h => ?_⟩
    · rw [h6, f3]
    · rw [h4]
      exact hops e h
  · have hready : ¬ s.startReady s.cur = true := fun h => by
      rw [State.startReady, List.all_eq_true] at h
      rw [h z hz] at hf
      cases hf
    exact waitsFor_of_waitFor (if_neg hready)

/-- Settles O27: CFG by its checks, its turn and its end; START by the hops it feeds. -/
theorem fabricLoading : Obligations.FabricLoading := ⟨configLoading, startFeeds⟩

end Sys2Proof
end

section
/-! SUPPORT. The data of a load's walk point, slot by slot, and its valid lanes (R144). -/

namespace Sys2Proof.Machine

open Sys2Proof.Claims

/-! ### Slots and bits of sums -/

/-- A sum of digits is the number of their list. -/
theorem sum_eq_slotsNat {w : Nat} {f : Nat → Nat} (hf : ∀ j, f j < 2 ^ w) (n : Nat) :
    (List.range n).foldl (fun a j => a + f j * 2 ^ (w * j)) 0 = slotsNat w ((List.range n).map f) := by
  have h (m k a : Nat) : (List.range' k m).foldl (fun a j => a + f j * 2 ^ (w * j)) a
      = a + 2 ^ (w * k) * slotsNat w ((List.range' k m).map f) := by
    induction m generalizing k a with
    | zero => simp [slotsNat]
    | succ m ih =>
      rw [List.range'_succ, List.foldl_cons, ih, List.map_cons, slotsNat, Nat.mod_eq_of_lt (hf k), Nat.mul_succ, Nat.pow_add]
      ring
  rw [List.range_eq_range', h]
  simp

/-- A slot of whole bytes. -/
theorem dataBytes_eq_slotBits (d : Data) (w j : Nat) : dataBytes d (j * w) w = slotBits d (8 * w) j := by
  rw [dataBytes, slotBits, show 8 * (j * w) = 8 * w * j by ring]

/-- Bits cleared one after another are clear, the others as they were. -/
theorem getLsbD_clearAll {f : Nat → Nat} {l : List Nat} (hl : ∀ j ∈ l, f j < 16) (v : BitVec 16) (i : Nat) :
    (l.foldl (fun v j => setBitTo v (f j) false) v).getLsbD i = true ↔ v.getLsbD i = true ∧ ∀ j ∈ l, f j ≠ i := by
  induction l generalizing v with
  | nil => simp
  | cons j l ih =>
    rw [List.foldl_cons, ih (fun k hk => hl k (List.mem_cons_of_mem j hk)), getLsbD_setBitTo v (f j) i false (hl j List.mem_cons_self)]
    by_cases hj : i = f j
    · subst hj
      simp
    · have hj' : f j ≠ i := fun h => hj h.symm
      simp [hj, hj']

/-! ### A walk point -/

/-- What slot `j` of a point reads: its bytes in its block, the pad value outside the tensor, or zero. -/
def pointSlot (d : List Byte) (g : Geo) (n : Nat) (bs : List (Nat × BlockW)) (j : Nat) : Nat :=
  let w := fmtBytes (streamFmt d g)
  match slotOff g (dCoord d n) j with
  | some o => ((bs.find? fun b => b.1 == o / 64).map fun b => dataBytes b.2.data (o % 64) w).getD 0
  | none => if dPad d then dPadv d % 2 ^ (8 * w) else 0

theorem pointSlot_lt (d : List Byte) (g : Geo) (n : Nat) (bs : List (Nat × BlockW)) (j : Nat) :
    pointSlot d g n bs j < 2 ^ (8 * fmtBytes (streamFmt d g)) := by
  have hp := Nat.two_pow_pos (8 * fmtBytes (streamFmt d g))
  unfold pointSlot
  dsimp only
  split
  · cases List.find? _ bs with
    | none => exact hp
    | some b => exact Nat.mod_lt _ hp
  · split
    · exact Nat.mod_lt _ hp
    · exact hp

theorem pointData_data (d : List Byte) (g : Geo) (n : Nat) (bs : List (Nat × BlockW)) :
    (pointData d g n bs).1
      = ofSlots (8 * fmtBytes (streamFmt d g)) ((List.range (slotsOf (streamFmt d g))).map (pointSlot d g n bs)) := by
  rw [ofSlots_eq, ← sum_eq_slotsNat (pointSlot_lt d g n bs)]
  rfl

/-- A slot of a point's data is what the slot reads. -/
theorem dataBytes_pointData {d : List Byte} {g : Geo} {n j : Nat} (bs : List (Nat × BlockW)) (hj : j < 64 / fmtBytes (streamFmt d g)) :
    dataBytes (pointData d g n bs).1 (j * fmtBytes (streamFmt d g)) (fmtBytes (streamFmt d g)) = pointSlot d g n bs j := by
  have hw : (j + 1) * fmtBytes (streamFmt d g) ≤ 64 := (Nat.mul_le_mul_right _ hj).trans (Nat.div_mul_le_self ..)
  have hfit : 8 * fmtBytes (streamFmt d g) * (j + 1) ≤ 512 := by
    calc 8 * fmtBytes (streamFmt d g) * (j + 1) = 8 * ((j + 1) * fmtBytes (streamFmt d g)) := by ring
      _ ≤ 8 * 64 := Nat.mul_le_mul_left 8 hw
  have hj' : j < slotsOf (streamFmt d g) := hj
  rw [dataBytes_eq_slotBits, pointData_data, slotBits_ofSlots _ hfit]
  simp [hj', Nat.mod_eq_of_lt (pointSlot_lt d g n bs j)]

/-- A lane of a point is valid unless one of its slots lies outside the tensor of a stream with no PAD. -/
theorem valid_pointData {d : List Byte} {g : Geo} {n j : Nat} (bs : List (Nat × BlockW)) (hj : j < 64 / fmtBytes (streamFmt d g)) :
    (pointData d g n bs).2.getLsbD (j * fmtBytes (streamFmt d g) / 4) = true
      ↔ ∀ k, k < 64 / fmtBytes (streamFmt d g) → ¬ (slotOff g (dCoord d n) k = none ∧ dPad d = false)
          ∨ k * fmtBytes (streamFmt d g) / 4 ≠ j * fmtBytes (streamFmt d g) / 4 := by
  have hlane (k : Nat) (hk : k < 64 / fmtBytes (streamFmt d g)) : k * fmtBytes (streamFmt d g) / 4 < 16 := by
    rcases Nat.eq_zero_or_pos (fmtBytes (streamFmt d g)) with hz | hz
    · simp [hz]
    · have h1 : k * fmtBytes (streamFmt d g) < 64 := (Nat.lt_div_iff_mul_lt (by omega)).1 hk |>.trans_le (by omega)
      omega
  refine (getLsbD_clearAll (fun k hk => hlane k (List.mem_range.1 (List.mem_of_mem_filter hk))) _ _).trans ?_
  simp only [List.mem_filter, List.mem_range, Bool.and_eq_true, Option.isNone_iff_eq_none, Bool.not_eq_true', and_imp]
  constructor
  · rintro ⟨-, h⟩ k hk
    by_cases hb : slotOff g (dCoord d n) k = none ∧ dPad d = false
    · exact .inr (h k hk hb.1 hb.2)
    · exact .inl hb
  · intro h
    refine ⟨BitVec.getLsbD_allOnes.trans (decide_eq_true (hlane j hj)), fun k hk h1 h2 => (h k hk).resolve_left (not_not.2 ⟨h1, h2⟩)⟩

end Sys2Proof.Machine

namespace Sys2Proof

open Sys2Proof.Machine Sys2Proof.Claims

theorem pointLanes : Claims.PointLanes := by
  intro d g n bs j w c r hj
  have hd := dataBytes_pointData (n := n) bs hj
  have hv := valid_pointData (n := n) bs hj
  refine ⟨fun o b ho hb => ?_, fun ho hp => ?_, fun ho hp => ?_, fun h => ?_⟩
  · refine hd.trans ?_
    unfold pointSlot
    simp only [show slotOff g (dCoord d n) j = some o from ho, hb]
    rfl
  · refine hd.trans ?_
    unfold pointSlot
    simp only [show slotOff g (dCoord d n) j = none from ho, hp]
    rfl
  · exact Bool.eq_false_iff.2 fun ht => (hv.1 ht j hj).elim (fun h => h ⟨ho, hp⟩) fun h => h rfl
  · refine hv.2 fun k hk => ?_
    by_cases he : k * w / 4 = j * w / 4
    · refine .inl fun ⟨h1, h2⟩ => (h k hk he).elim (fun h => h h1) fun h => ?_
      rw [h2] at h
      cases h
    · exact .inr he

end Sys2Proof
end

section
/-! SUPPORT. Ports replaced, and what a load port delivers (R84, R144, R146, R148, R265, R305, R330). -/

namespace Sys2Proof.Machine

open Sys2Proof.Claims

/-! ### Ports replaced -/

@[simp] theorem Page.port_setPort (pg : Page) (k : Nat) (x : Port) : (pg.setPort k x).port k = x := by
  simp [Page.port, Page.setPort]

theorem State.page_modPort (s : State) (p k : Nat) (f : Port → Port) :
    (s.modPort p k f).page p = (s.page p).setPort k (f ((s.page p).port k)) := State.page_setPage ..

@[simp] theorem State.port_modPort (s : State) (p k : Nat) (f : Port → Port) :
    ((s.modPort p k f).page p).port k = f ((s.page p).port k) := by
  rw [State.page_modPort, Page.port_setPort]

@[simp] theorem State.page_fabricMoved (s : State) (p q : Nat) : (s.fabricMoved p).page q = s.page q := rfl

/-! ### Hot panels (R305) -/

theorem Port.hotToken_frame (y : Port) (slot panel : Nat) :
    y.hotToken slot panel = { y with hot := (y.hotToken slot panel).hot, untracked := (y.hotToken slot panel).untracked } := by
  unfold Port.hotToken
  split
  · rfl
  · dsimp only
    split <;> rfl

/-- Counting the panels of blocks changes the hot-panel entries alone. -/
theorem Port.hotBlocks_frame (y : Port) (slot : Nat) (bs : List Nat) :
    y.hotBlocks slot bs = { y with hot := (y.hotBlocks slot bs).hot, untracked := (y.hotBlocks slot bs).untracked } := by
  unfold Port.hotBlocks
  generalize bs.foldl _ [] = l
  induction l generalizing y with
  | nil => rfl
  | cons a l ih =>
    rw [List.foldl_cons, ih, Port.hotToken_frame]

/-! ### The head point of a load -/

/-- A load port's turn once it has read ahead. -/
def State.deliver (s : State) (p k : Nat) : Res :=
  let y := (s.page p).port k
  if 4 ≤ y.queue.length then .next s
  else
    match y.rest with
    | t :: rest => .next ((s.modPort p k fun z => { z with rest := rest, queue := z.queue ++ [t] }).fabricMoved p)
    | [] =>
      match headToken p k s with
      | none => .next s
      | some (t, s') => .next ((s'.modPort p k fun z => { z with queue := z.queue ++ [t] }).fabricMoved p)

theorem execLoadPortDeliver_runs {s : State} {p k : Nat} (hr : s.fabricRuns p = true) (hk : k < 4) :
    exec (.loadPortDeliver p k) s = (if s.inMove p then s else issueAhead p k 64 s).deliver p k :=
  if_neg (by simp [hr, hk])

/-- A token left of an ended stream comes first. -/
theorem State.deliver_rest {s : State} {p k : Nat} {t : Token} {rest : List Token} (hq : ((s.page p).port k).queue.length < 4)
    (hr : ((s.page p).port k).rest = t :: rest) :
    s.deliver p k = .next ((s.modPort p k fun z => { z with rest := rest, queue := z.queue ++ [t] }).fabricMoved p) := by
  unfold State.deliver
  dsimp only
  rw [if_neg (by omega), hr]

/-- The head token joins a queue with room. -/
theorem State.deliver_head {s s' : State} {p k : Nat} {t : Token} (hq : ((s.page p).port k).queue.length < 4)
    (hr : ((s.page p).port k).rest = []) (hh : headToken p k s = some (t, s')) :
    s.deliver p k = .next ((s'.modPort p k fun z => { z with queue := z.queue ++ [t] }).fabricMoved p) := by
  unfold State.deliver
  dsimp only
  rw [if_neg (by omega), hr, hh]

/-- Blocks of one listed descriptor, of a format that the stream takes, are announced under it. -/
theorem announceOf_same {bytes : List Byte} {d : Desc} {ws : List BlockW} (hne : ws ≠ []) (hd : ∀ w ∈ ws, w.desc = d)
    (hl : fmtListed (fmtOf d) = true)
    (hf : dFmt bytes = 0xFF#8 ∨ fmtOf d = dFmt bytes ∨ fmtOf d = 0#8 ∨ fmtOf d = 0x0E#8) (g : Geo) (cur : Option Burst) :
    announceOf bytes g cur false ws = (d, dBlen bytes % 64, false) := by
  obtain ⟨w, t, rfl⟩ := List.exists_cons_of_ne_nil hne
  have hw : w.desc = d := hd w List.mem_cons_self
  have hs : (t.all fun x => decide (storedDesc x.desc = storedDesc d)) = true :=
    List.all_eq_true.2 fun x hx => by rw [hd x (List.mem_cons_of_mem w hx)]; exact decide_eq_true rfl
  have hok : (dFmt bytes != 0xFF#8 && fmtOf d != dFmt bytes && fmtOf d != 0#8 && fmtOf d != 0x0E#8) = false := by
    rcases hf with h | h | h | h <;> simp [h]
  unfold announceOf
  simp only [hw, hs, hl, hok, Bool.false_eq_true, Bool.not_true, if_false]

section Answered
variable {es : List WinEntry} {ws : List BlockW} (h : es.map WinEntry.got = ws.map fun w => some ([w], [], 0))
include h

/-- Reads that have all been answered with a block. -/
theorem answered_none : (es.any fun e => e.got.isNone) = false := by
  have hm : (es.any fun e => e.got.isNone) = (es.map WinEntry.got).any Option.isNone := by
    rw [List.any_map]
    rfl
  rw [hm, h, List.any_map]
  simp

theorem answered_blocks : (es.filterMap fun e => (e.got.map fun q => q.1.head?).join) = ws := by
  have hm : (es.filterMap fun e => (e.got.map fun q => q.1.head?).join)
      = (es.map WinEntry.got).filterMap fun o => (o.map fun q => q.1.head?).join := by
    rw [List.filterMap_map]
    rfl
  rw [hm, h, List.filterMap_map]
  exact List.filterMap_some

end Answered

section Head
variable {s : State} {p k : Nat} {x : Stream} {tr : Truss} {es : List WinEntry} {ws : List BlockW} {d : Desc}
  (ha : ((s.page p).port k).act = some x) (ht : s.trussOf p = some tr) (hpos : x.pos < x.issued)
  (he : (x.tags.take (pointBlocks x.bytes (s.streamGeo tr.part x) x.pos).length).filterMap (s.req (portAgent p k)).entry = es)
  (hg : es.map WinEntry.got = ws.map fun w => some ([w], [], 0)) (hfail : ∀ e ∈ es, e.failed = false) (hne : ws ≠ [])
  (hd : ∀ w ∈ ws, w.desc = d) (hl : fmtListed (fmtOf d) = true)
  (hf : dFmt x.bytes = 0xFF#8 ∨ fmtOf d = dFmt x.bytes ∨ fmtOf d = 0#8 ∨ fmtOf d = 0x0E#8)
include ha ht hpos he hg hfail hne hd hl hf

/-- A burst that announces the blocks' descriptor is in force: the point's DATA token comes. -/
theorem headToken_data {b : Burst} (hb : ((s.page p).port k).burst = some b) (hbd : mkDesc b.scale b.fmt = d)
    (hbl : b.blen = dBlen x.bytes % 64) :
    let bs := pointBlocks x.bytes (s.streamGeo tr.part x) x.pos
    let dv := pointData x.bytes (s.streamGeo tr.part x) x.pos (bs.zip ws)
    ∃ u : State, headToken p k s = some (dataToken dv.1 dv.2 (dEndRank x.bytes x.pos), u) ∧ u.mem = s.mem
      ∧ ((u.page p).port k).queue = ((s.page p).port k).queue ∧ ((u.page p).port k).count = ((s.page p).port k).count + 1
      ∧ (((u.page p).port k).act.map Stream.pos) = some (x.pos + 1) := by
  intro bs dv
  have hnf : (es.any fun e => e.failed) = false := List.any_eq_false.2 fun e hm => by simp [hfail e hm]
  have ha' (q : Requester) : (((s.setReq (portAgent p k) q).page p).port k).act = some x := ha
  unfold headToken
  simp only [ha, ht, he, answered_none hg, answered_blocks hg, hnf, announceOf_same hne hd hl hf, hb, hbd, hbl]
  rw [if_neg (by simp; omega)]
  simp only [BEq.rfl, Bool.not_true, ne_eq, not_true_eq_false, decide_false, Bool.or_self, Bool.false_eq_true, if_false]
  refine ⟨_, rfl, by simp, ?_⟩
  rw [State.port_modPort, Port.hotBlocks_frame]
  split <;> exact ⟨rfl, rfl, by simp [Port.stick, ha']⟩

/-- With no burst in force the SCALE token of the blocks' descriptor comes. -/
theorem headToken_scale (hb : ((s.page p).port k).burst = none) :
    ∃ tok, tok.kind = 1 ∧ headToken p k s = some (tok, s.modPort p k fun z =>
      { z with burst := some ⟨fmtOf d, scaleOf d, dBlen x.bytes % 64, dBlen x.bytes % 64 + 1, false⟩ }) := by
  have hnf : (es.any fun e => e.failed) = false := List.any_eq_false.2 fun e hm => by simp [hfail e hm]
  refine ⟨scaleToken (fmtOf d) (scaleOf d) (dBlen x.bytes % 64), rfl, ?_⟩
  unfold headToken
  simp only [ha, ht, he, answered_none hg, answered_blocks hg, hnf, announceOf_same hne hd hl hf, hb]
  rw [if_neg (by simp; omega)]
  simp only [if_true]

end Head

end Sys2Proof.Machine

namespace Sys2Proof

open Sys2Proof.Machine Sys2Proof.Claims

theorem deliveries : Claims.Deliveries := by
  intro s p k hr hk r y
  have hx : exec (.loadPortDeliver p k) s = r.deliver p k := execLoadPortDeliver_runs hr hk
  clear_value r
  rw [hx]
  refine ⟨fun h => if_pos h, fun hq tok rest hrest => ?_, fun hq hrest x tr es ws d ha ht hpos => ?_⟩
  · refine ⟨_, State.deliver_rest hq hrest, ?_, rfl⟩
    rw [State.page_fabricMoved, State.port_modPort]
  · intro g bs he hg hfail hne hd hl hf
    refine ⟨fun b hb hbd hbl => ?_, fun hb => ?_⟩
    · obtain ⟨u, hh, hm, huq, huc, hua⟩ := headToken_data ha ht hpos he hg hfail hne hd hl hf hb hbd hbl
      refine ⟨_, dataToken (pointData x.bytes g x.pos (bs.zip ws)).1 (pointData x.bytes g x.pos (bs.zip ws)).2
        (dEndRank x.bytes x.pos), State.deliver_head hq hrest hh, hm, ?_, ?_, ?_, rfl, rfl, rfl⟩
      · rw [State.page_fabricMoved, State.port_modPort]
        exact congrArg (· ++ _) huq
      · rw [State.page_fabricMoved, State.port_modPort]
        exact huc
      · rw [State.page_fabricMoved, State.port_modPort]
        exact hua
    · obtain ⟨tok, hk1, hh⟩ := headToken_scale ha ht hpos he hg hfail hne hd hl hf hb
      refine ⟨_, tok, State.deliver_head hq hrest hh, rfl, ?_⟩
      rw [State.page_fabricMoved, State.port_modPort, State.port_modPort]
      exact ⟨rfl, rfl, rfl, hk1, rfl⟩

end Sys2Proof
end

section
/-! SUPPORT. How a finished stream leaves its port, and what a stopped one still owes (R147, R148, R156, R265). -/

namespace Sys2Proof.Machine

open Sys2Proof.Claims

/-! ### A tensor slot let go -/

theorem State.unrefSlot_frame (s : State) (part slot : Nat) :
    s.unrefSlot part slot = { s with parts := (s.unrefSlot part slot).parts, mem := (s.unrefSlot part slot).mem } := by
  unfold State.unrefSlot
  split
  · rfl
  · dsimp only
    split
    · split <;> rfl
    · rfl

/-- Only a slot that is being freed has its entry cleared in memory. -/
theorem State.unrefSlot_mem_of_state {s : State} {part slot : Nat} (h : ((s.part part).slot slot).state ≠ 2) :
    (s.unrefSlot part slot).mem = s.mem := by
  unfold State.unrefSlot
  split
  · rfl
  · dsimp only
    rw [if_neg fun hc => h hc.1]
    rfl

@[simp] theorem State.page_unrefSlot (s : State) (part slot p : Nat) : (s.unrefSlot part slot).page p = s.page p := by
  rw [State.unrefSlot_frame]
  rfl

/-! ### Completion tokens (R147, R156) -/

theorem toNat_ofNat_of_small {n v : Nat} (hn : 65 ≤ n) (hv : v < 2 ^ 65) : (BitVec.ofNat n v).toNat = v :=
  (BitVec.toNat_ofNat ..).trans (Nat.mod_eq_of_lt (hv.trans_le (Nat.pow_le_pow_right Nat.two_pos hn)))

theorem completionToken_toNat (code status count : Nat) :
    (completionToken code status count).data.toNat = code % 256 + status % 128 * 256 + count % 2 ^ 32 * 2 ^ 32 :=
  toNat_ofNat_of_small (by decide) (by omega)

theorem completionToken_code {code : Nat} (hc : code < 256) (status count : Nat) :
    ((completionToken code status count).data.extractLsb' 0 8).toNat = code := by
  rw [BitVec.extractLsb'_toNat, completionToken_toNat, Nat.shiftRight_zero]
  omega

theorem completionToken_count (code status : Nat) (n : BitVec 32) :
    (completionToken code status n.toNat).data.extractLsb' 32 32 = n := by
  have hn := n.isLt
  apply BitVec.eq_of_toNat_eq
  rw [BitVec.extractLsb'_toNat, completionToken_toNat, Nat.shiftRight_eq_div_pow]
  omega

/-! ### What is owed -/

/-- A DATA token reaches crx: it joins the queue, and its core sees the event. -/
theorem State.reachCrx_data {s : State} {p : Nat} {t : Token} (hk : t.kind = 0) :
    s.reachCrx p t = s.setPage p { s.page p with crx := (s.page p).crx ++ [t], core := { (s.page p).core with event := true } } := by
  unfold State.reachCrx
  simp only [hk]
  rfl

section Finish
variable {s : State} {p k : Nat}

theorem execStreamFinish_owes (hr : s.fabricRuns p = true) (ho : ((s.page p).port k).owed ≠ []) :
    exec (.streamFinish p k) s = .next (payOwed p k s) := by
  change execStreamFinish p k s = _
  unfold execStreamFinish
  rw [if_neg (by simp [hr]), if_pos (by simpa using ho)]

theorem payOwed_full {o : Nat × Token} {os : List (Nat × Token)} (ho : ((s.page p).port k).owed = o :: os)
    (hh : 4 ≤ (s.page p).crxHeld) : payOwed p k s = s := by
  unfold payOwed
  rw [ho]
  exact if_pos (.inl hh)

theorem payOwed_pays {sc : Nat} {tok : Token} {os : List (Nat × Token)} (ho : ((s.page p).port k).owed = (sc, tok) :: os)
    (hh : (s.page p).crxHeld < 4) (hc : k < 4 ∨ s.completeAtScope (portAgent p k) sc = true) :
    payOwed p k s = (s.modPort p k fun z => { z with owed := os }).reachCrx p tok := by
  have hn : ¬ (4 ≤ (s.page p).crxHeld ∨ (4 ≤ k ∧ s.completeAtScope (portAgent p k) sc = false)) := by
    rintro (h | ⟨h4, hf⟩)
    · omega
    · rcases hc with h | h
      · omega
      · rw [h] at hf
        cases hf
  unfold payOwed
  rw [ho]
  exact if_neg hn

/-! ### The finish -/

/-- The pending stream of a port, if there is one, is active from its start. -/
def Port.promote (z : Port) : Port :=
  match z.pend with
  | some q => { z with act := some q, pend := none, count := 0 }
  | none => z

/-- A finished stream's port, once the slot is let go: its completion token, the pending stream, the core's event. -/
def State.streamLeaves (s : State) (p k : Nat) (x : Stream) (part : Nat) (n : BitVec 32) : State :=
  let s := (s.unrefSlot part x.slot).modPort p k fun z => { z with act := none, burst := if k < 4 then none else z.burst }
  let pg := s.page p
  let s := if dCrx x.bytes then
    s.setPage p { pg with crx := pg.crx ++ [completionToken k (bits (s.sstat p k).toNat 0 7) n.toNat] } else s
  (s.modPort p k Port.promote).modCore p fun c => { c with event := true }

variable {x : Stream} {tr : Truss} (hr : s.fabricRuns p = true) (ho : ((s.page p).port k).owed = [])
  (ha : ((s.page p).port k).act = some x) (ht : s.trussOf p = some tr) (hb : ((s.page p).port k).buf = [])
  (hd : s.streamDone p k = true)
include hr ho ha ht hb hd

theorem execStreamFinish_done : exec (.streamFinish p k) s
    = if dCrx x.bytes && decide (4 ≤ (s.page p).crxHeld) then .next s
      else .next (s.streamLeaves p k x tr.part ((s.page p).port k).count) := by
  change execStreamFinish p k s = _
  unfold execStreamFinish
  rw [if_neg (by simp [hr]), if_neg (by simp [ho])]
  simp only [ha, ht, hb, List.isEmpty_nil, Bool.not_true, Bool.false_eq_true, and_false, if_false, hd]
  rfl

end Finish

/-- The page of a port that a stream has left. -/
theorem State.page_streamLeaves (s : State) (p k : Nat) (x : Stream) (part : Nat) (n : BitVec 32) :
    ∃ st, (s.streamLeaves p k x part n).page p = { (s.page p).setPort k (Port.promote
        { (s.page p).port k with act := none, burst := if k < 4 then none else ((s.page p).port k).burst }) with
      crx := (s.page p).crx ++ (if dCrx x.bytes then [completionToken k st n.toNat] else []),
      core := { (s.page p).core with event := true } } := by
  unfold State.streamLeaves
  dsimp only
  generalize hu : (s.unrefSlot part x.slot).modPort p k (fun z => { z with act := none, burst := if k < 4 then none else z.burst }) = u
  have hp : u.page p = (s.page p).setPort k
      { (s.page p).port k with act := none, burst := if k < 4 then none else ((s.page p).port k).burst } := by
    rw [← hu, State.page_modPort, State.page_unrefSlot]
  refine ⟨bits (u.sstat p k).toNat 0 7, ?_⟩
  rw [State.modCore, State.page_setPage, State.page_modPort]
  cases dCrx x.bytes
  · simp [hp, Page.setPort, Page.port]
  · simp [hp, Page.setPort, Page.port, State.page_setPage]

theorem State.mem_streamLeaves {s : State} {x : Stream} {part : Nat} (h : ((s.part part).slot x.slot).state ≠ 2) (p k : Nat)
    (n : BitVec 32) : (s.streamLeaves p k x part n).mem = s.mem := by
  unfold State.streamLeaves
  cases dCrx x.bytes
  · exact State.unrefSlot_mem_of_state h
  · exact State.unrefSlot_mem_of_state h

/-- The pending stream, or none, is the active one. -/
theorem Port.promote_spec (z : Port) : let y := Port.promote { z with act := none }
    y.act = z.pend ∧ y.pend = none ∧ y.count = if z.pend = none then z.count else 0 := by
  unfold Port.promote
  cases z.pend <;> simp

end Sys2Proof.Machine

namespace Sys2Proof

open Sys2Proof.Machine Sys2Proof.Claims

theorem finishes : Claims.Finishes := by
  intro s p k x tr hr hk ht ha hb hd y crx held
  refine ⟨fun sc tok os ho hk0 => ⟨fun hh => ?_, fun hh hc => ?_⟩, fun ho hx hh => ?_, fun ho hc => ?_⟩
  · rw [execStreamFinish_owes hr (by rw [ho]; simp), payOwed_full ho hh]
  · refine ⟨_, execStreamFinish_owes hr (by rw [ho]; simp), ?_⟩
    rw [payOwed_pays ho hh hc, State.reachCrx_data hk0, State.page_setPage, State.page_modPort]
    refine ⟨rfl, ?_, ?_, rfl⟩
    · exact congrArg Port.owed (Page.port_setPort ..)
    · exact (congrArg Port.act (Page.port_setPort ..)).trans ha
  · exact (execStreamFinish_done hr ho ha ht hb hd).trans (if_pos (by simpa [hx] using hh))
  · have hn : ¬ (dCrx x.bytes && decide (4 ≤ (s.page p).crxHeld)) = true := by
      rcases hc with h | h
      · simp [h]
      · have h' : ¬ 4 ≤ (s.page p).crxHeld := by omega
        simp [h']
    have hx := (execStreamFinish_done hr ho ha ht hb hd).trans (if_neg hn)
    obtain ⟨st, hp⟩ := s.page_streamLeaves p k x tr.part y.count
    refine ⟨_, hx, ?_⟩
    have hm := fun h => State.mem_streamLeaves (s := s) (x := x) (part := tr.part) h p k y.count
    change let t := s.streamLeaves p k x tr.part y.count; _
    generalize s.streamLeaves p k x tr.part y.count = t at *
    have hport : (t.page p).port k = Port.promote { y with act := none, burst := if k < 4 then none else y.burst } := by
      rw [hp]
      exact Page.port_setPort ..
    obtain ⟨q1, q2, q3⟩ := Port.promote_spec { y with burst := if k < 4 then none else y.burst }
    rw [hport]
    refine ⟨q1, q2, by rw [hp], q3, hm, fun hz => ?_, fun hz => ?_⟩
    · rw [hp, hz]
      exact List.append_nil _
    · refine ⟨completionToken k st y.count.toNat, ?_, rfl, rfl, rfl, completionToken_code (by omega) .., completionToken_count ..⟩
      rw [hp, hz]
      rfl

end Sys2Proof
end

section
/-! SUPPORT. What a store port takes from its queue, and the bytes of a walk point that it gathers (R82, R144, R146, R257, R266,
R285, R286). -/

namespace Sys2Proof.Machine

open Sys2Proof.Claims

/-! ### Translation of one block -/

/-- A block that has its place leaves only translation caches changed. -/
theorem portXlate_frame {p k blk e : Nat} {x : Stream} {wr : Bool} {ph : Phys} {s u : State}
    (h : portXlate p k x blk wr s = (.ok ph e, u)) : u = { s with bays := u.bays } := by
  unfold portXlate at h
  split at h
  · cases h
  · dsimp only at h
    split at h
    · cases h
    · split at h
      · split at h
        · cases h
        · cases h
          exact State.xlate_frame ..
        · cases h
      · cases h
      · split at h <;> cases h
      · cases h

theorem storeXlate_one {p k blk : Nat} {x : Stream} {t : Truss} {g : Geo} {ph : Phys} {s u : State}
    (h : storeXlate p k x t g [blk] s = (.ok [(blk, some ph)], u)) : u = { s with bays := u.bays } := by
  unfold storeXlate at h
  dsimp only at h
  split at h
  · cases h
  · simp [storeXlate] at h
  · rename_i q e hq
    split at h
    · cases h
    · split at h
      · cases h
      · split at h
        · cases h
        · simp only [storeXlate] at h
          cases h
          exact portXlate_frame (Prod.ext hq rfl)

/-! ### A block gathered -/

theorem coresDiffer_noteAccess (s : State) (a : AgentId) (slot gen off : Nat) (ph : Phys) (wr : Bool) :
    CoresDiffer s (s.noteAccess a slot gen off ph wr) := by
  unfold State.noteAccess
  split
  · exact .refl s
  · split
    · exact .refl s
    · exact coresDiffer_modCore ..

theorem CoresDiffer.port {s t : State} (h : CoresDiffer s t) (p k : Nat) : (t.page p).port k = (s.page p).port k := by
  rw [h.page]
  rfl

/-- A block joins a port that has gathered none. -/
theorem addBlock_first {p k off : Nat} {w : BlockW} {s : State} (hb : ((s.page p).port k).buf = []) :
    (addBlock p k off w s).mem = s.mem
      ∧ ((addBlock p k off w s).page p).port k = { (s.page p).port k with buf := [w], bufOff := off } := by
  have hrun : extendsRun ((s.page p).port k).buf w = true := by rw [hb]; rfl
  unfold addBlock
  dsimp only
  rw [if_pos hrun]
  split
  · refine ⟨State.noteAccess_mem .., ?_⟩
    rw [State.port_modPort, (coresDiffer_noteAccess ..).port]
    simp [hb]
  · refine ⟨rfl, ?_⟩
    rw [State.port_modPort]
    simp [hb]

/-! ### A walk point accepted -/

/-- A store port once it has accepted a walk point that nothing poisons. -/
def Port.accepted (z : Port) (slot : Nat) (bs : List Nat) (rest : List Token) (b : Burst) : Port :=
  let z := z.hotBlocks slot bs
  { z with queue := rest, count := z.count + 1, failNext := false, burst := some b.pass,
           act := z.act.map fun q => { q with pos := q.pos + 1 } }

theorem Port.accepted_spec (z : Port) (slot : Nat) (bs : List Nat) (rest : List Token) (b : Burst) :
    let y := z.accepted slot bs rest b
    y.queue = rest ∧ y.count = z.count + 1 ∧ y.buf = z.buf ∧ y.act.map Stream.pos = z.act.map fun q => q.pos + 1 := by
  unfold Port.accepted
  rw [Port.hotBlocks_frame]
  refine ⟨rfl, rfl, rfl, ?_⟩
  simp [Option.map_map, Function.comp_def]

section Accept
variable {s u : State} {p k blk : Nat} {x : Stream} {tr : Truss} {tok : Token} {rest : List Token} {b : Burst} {ph : Phys}
  (hb : ((s.page p).port k).burst = some b) (hp : b.poison = false) (hv : b.fmt ≠ 0#8) (hf : dFmt x.bytes = 0xFF#8 ∨ b.fmt = dFmt x.bytes)
  (ho : tok.out = false) (hl : tok.lost = false) (hw : fmtBytes b.fmt ≤ (s.streamGeo tr.part x).width)
  (hs : (s.req (portAgent p k)).stall = none)
  (hn : (s.req (portAgent p k)).kept.length + (s.req (portAgent p k)).unsent.length ≤ 30)
include hb hp hv hf ho hl hw hs hn

/-- DATA of one block in an open burst of the stream's format: the block is gathered under the burst's descriptor, and the
point is done. -/
theorem acceptData_one :
    let g := s.streamGeo tr.part x
    let w := fmtBytes b.fmt
    let c := dCoord x.bytes x.pos
    let tok' : Token := { tok with valid := tok.valid &&& storeLanes x.bytes g c w (64 / w) }
    let z := tokenBlock g c w (64 / w) blk tok'
    ((tokenBlocks g c w (64 / w)).filter fun b => decide ((tokenBlock g c w (64 / w) b tok').2 ≠ 0)) = [blk] →
    storeXlate p k x tr g [blk] s = (.ok [(blk, some ph)], u) →
    acceptData p k x tr tok rest s = (addBlock p k (blk * 64) ⟨ph, z.1, mkDesc b.scale b.fmt, z.2, 1⟩ u).modPort p k
      fun y => y.accepted x.slot [blk] rest b := by
  dsimp only
  intro hbs hx
  have herr : (dFmt x.bytes != 0xFF#8 && b.fmt != dFmt x.bytes) = false := by
    rcases hf with h | h <;> simp [h]
  have hwide : ¬ (s.streamGeo tr.part x).width < fmtBytes b.fmt := by omega
  have hroom : ¬ 32 < (s.req (portAgent p k)).kept.length + (s.req (portAgent p k)).unsent.length + [blk].length + 1 := by
    simp only [List.length_singleton]
    omega
  unfold acceptData
  simp only [hb, Option.getD_some, hp, hl, ho, hv, herr, hwide, Bool.or_self, Bool.not_false, Bool.and_false, Bool.true_and,
    Bool.false_eq_true, decide_false, if_false, Bool.and_self]
  simp only [ho] at hbs
  rw [hbs, hx]
  simp only [hs, hroom, List.any_cons, List.any_nil, List.foldl_cons, List.foldl_nil, Option.isNone_some, Option.isSome_none,
    Bool.or_self, Bool.false_eq_true, decide_false, if_false]
  rfl

end Accept

/-! ### The token at the head of the queue -/

section Head
variable {s : State} {p k : Nat} {tok : Token} {rest : List Token} (hr : s.fabricRuns p = true) (hk : 4 ≤ k)
  (hq : ((s.page p).port k).queue = tok :: rest)
include hr hk hq

theorem storePort_scale_waits (h1 : tok.kind = 1) (ha : ((s.page p).port k).act = none) (hd : ((s.page p).port k).discard = false) :
    exec (.storePortAccept p k) s = .next s := by
  change execStorePortAccept p k s = _
  unfold execStorePortAccept
  rw [if_neg (by simp [hr]; omega)]
  simp only [hq, h1, ha, hd]
  rfl

theorem storePort_scale_opens (h1 : tok.kind = 1) (h : ((s.page p).port k).act.isSome = true ∨ ((s.page p).port k).discard = true) :
    exec (.storePortAccept p k) s
      = .next ((s.modPort p k fun z => { z with queue := rest, burst := some (burstOf tok) }).fabricMoved p) := by
  change execStorePortAccept p k s = _
  have hn : ¬ (((s.page p).port k).act.isNone && !((s.page p).port k).discard) = true := by
    rcases h with h | h <;> simp [h, ← Option.not_isSome]
  unfold execStorePortAccept
  rw [if_neg (by simp [hr]; omega)]
  simp only [hq, h1]
  exact if_neg hn

theorem storePort_config (h2 : tok.kind = 2) :
    exec (.storePortAccept p k) s = .next ((s.modPort p k fun z => { z with queue := rest }).strandedConfig p tok) := by
  change execStorePortAccept p k s = _
  unfold execStorePortAccept
  rw [if_neg (by simp [hr]; omega)]
  simp only [hq, h2]
  rfl

theorem storePort_command (h3 : tok.kind = 3) :
    exec (.storePortAccept p k) s = .next ((s.modPort p k fun z => { z with queue := rest }).failPage p 0x03 (56 + k % 4)) := by
  change execStorePortAccept p k s = _
  unfold execStorePortAccept
  rw [if_neg (by simp [hr]; omega)]
  simp only [hq, h3]
  rfl

theorem storePort_discards (h0 : tok.kind = 0) (hd : ((s.page p).port k).discard = true) :
    exec (.storePortAccept p k) s = .next ((s.modPort p k fun z =>
      { z with queue := rest, burst := some ((z.burst.getD Burst.reset).pass) }).fabricMoved p) := by
  change execStorePortAccept p k s = _
  unfold execStorePortAccept
  rw [if_neg (by simp [hr]; omega)]
  simp only [hq, h0]
  exact if_pos (.inl hd)

theorem storePort_data {x : Stream} {tr : Truss} (h0 : tok.kind = 0) (hd : ((s.page p).port k).discard = false) (hv : tok.valid ≠ 0)
    (ha : ((s.page p).port k).act = some x) (ht : s.trussOf p = some tr) (hx : x.pos < dPoints x.bytes) :
    let z := acceptData p k x tr tok rest s
    exec (.storePortAccept p k) s
      = .next (if ((z.page p).port k).queue.length < (tok :: rest).length then z.fabricMoved p else z) := by
  intro z
  change execStorePortAccept p k s = _
  unfold execStorePortAccept
  rw [if_neg (by simp [hr]; omega)]
  simp only [hq, h0]
  have hn : ¬ (((s.page p).port k).discard = true ∨ tok.valid = 0 ∧ ((s.page p).port k).act.isSome = true) := by
    rintro (h | ⟨h, -⟩)
    · rw [hd] at h
      cases h
    · exact hv h
  refine (if_neg hn).trans ?_
  simp only [ha, ht]
  exact if_neg (by omega)

end Head

theorem State.strandedConfig_named {s : State} {p h : Nat} {t : Token} {w : Word32} {ws : List (Nat × Word32)}
    (hw : t.words = (h, w) :: ws) :
    s.strandedConfig p t = s.failTruss (s.page p).truss 0x03 (bits w.toNat 18 12) (s.page p).ix := by
  unfold State.strandedConfig
  rw [hw]

end Sys2Proof.Machine

namespace Sys2Proof

open Sys2Proof.Machine Sys2Proof.Claims

theorem acceptances : Claims.Acceptances := by
  intro s p k tok rest hr hk hk8 hq y
  refine ⟨fun h1 ha hd => storePort_scale_waits hr hk hq h1 ha hd, fun h1 h => ?_, fun h2 g w ws hw => ?_,
    fun h3 => storePort_command hr hk hq h3, fun h0 hd => ?_, fun h0 hd hv ho hl hbuf x tr b blk ph u ha ht hx hb hp hz hf => ?_⟩
  · refine ⟨_, storePort_scale_opens hr hk hq h1 h, rfl, ?_⟩
    rw [State.page_fabricMoved, State.port_modPort]
  · rw [storePort_config hr hk hq h2, State.strandedConfig_named hw, State.page_modPort]
    rfl
  · refine ⟨_, storePort_discards hr hk hq h0 hd, rfl, ?_⟩
    rw [State.page_fabricMoved, State.port_modPort]
    exact ⟨rfl, rfl, rfl⟩
  · intro g w r c tok' z hwd hs hn hbs hxl
    have hdata := storePort_data hr hk hq h0 hd hv ha ht hx
    have hone := acceptData_one (tok := tok) (rest := rest) hb hp hz hf ho hl hwd hs hn hbs hxl
    have hu := storeXlate_one hxl
    have hup : u.page p = s.page p := by rw [hu]; rfl
    obtain ⟨hm, hport⟩ := addBlock_first (off := blk * 64) (w := ⟨ph, z.1, mkDesc b.scale b.fmt, z.2, 1⟩)
      (show ((u.page p).port k).buf = [] by rw [hup]; exact hbuf)
    obtain ⟨a1, a2, a3, a4⟩ := Port.accepted_spec { y with buf := [⟨ph, z.1, mkDesc b.scale b.fmt, z.2, 1⟩], bufOff := blk * 64 }
      x.slot [blk] rest b
    have hpage : ((acceptData p k x tr tok rest s).page p).port k
        = Port.accepted { y with buf := [⟨ph, z.1, mkDesc b.scale b.fmt, z.2, 1⟩], bufOff := blk * 64 } x.slot [blk] rest b := by
      rw [hone, State.port_modPort, hport, hup]
    have hmem : (acceptData p k x tr tok rest s).mem = s.mem := by
      rw [hone, State.modPort_mem, hm, hu]
    refine ⟨_, hdata, ?_⟩
    rw [hpage, a1, if_pos (by simp), State.page_fabricMoved, hpage]
    exact ⟨hmem, a1, a2, by rw [a4]; simp [y, ha], a3⟩

/-- Settles O50: a point's lanes, what a load port delivers, what a store port accepts, and how a stream ends. -/
theorem portResults : Obligations.PortResults := ⟨pointLanes, deliveries, acceptances, finishes⟩

end Sys2Proof
end
